-- ==== Sys2Proof/Word.lean ====
section
/-! DEFINITION. The word types of the Zynris Z9 (R5, R263) and the sparse map that registers and memory are kept in. -/
namespace Sys2Proof

/-- A 32-bit register or instruction word (R219, R252). -/
abbrev Word := BitVec 32

/-- A byte of memory (R7). -/
abbrev Byte := BitVec 8

/-- One bit per lane of a team, 0 to 1,023 (R4). -/
abbrev LaneMask := BitVec 1024

/-- Data kept under natural keys: ascending keys, one entry a key, no entry that equals the default. -/
abbrev SMap (α : Type) := List (Nat × α)

end Sys2Proof
end

