-- ==== Sys2Proof/Syntax.lean ====
section
/-! DEFINITION. The steps of the Z9: one constructor per row of the opcode table. The first 199 are the instruction forms
of R275 with the bits of the table's fields. The rest are the operations and events of 95_what_each_step_holds.md, which
have no encoding: what such a step acts on stands in the state (Machine/Events.lean). -/
namespace Sys2Proof

/-- The steps of the Z9. -/
inductive Instr where
  | nop
  | bra (b : BitVec 8)
  | brp (d : BitVec 8) (a : BitVec 8) (b : BitVec 8)
  | brany (a : BitVec 8) (b : BitVec 8)
  | brall (a : BitVec 8) (b : BitVec 8)
  | join
  | btbl (a : BitVec 8)
  | call (d : BitVec 8) (b : BitVec 8)
  | calli (d : BitVec 8) (a : BitVec 8)
  | ret (a : BitVec 8)
  | exit
  | modeset (a : BitVec 8) (b : BitVec 8)
  | modegrd (a : BitVec 3) (b : BitVec 1)
  | modetyp (a : BitVec 5)
  | modernd (a : BitVec 3)
  | yield
  | iadd (d : BitVec 8) (a : BitVec 8) (b : BitVec 8)
  | isub (d : BitVec 8) (a : BitVec 8) (b : BitVec 8)
  | imul (d : BitVec 8) (a : BitVec 8) (b : BitVec 8)
  | imulh (d : BitVec 8) (a : BitVec 8) (b : BitVec 8)
  | imad (d : BitVec 8) (a : BitVec 8) (b : BitVec 8)
  | idiv (d : BitVec 8) (a : BitVec 8) (b : BitVec 8)
  | irem (d : BitVec 8) (a : BitVec 8) (b : BitVec 8)
  | imin (d : BitVec 8) (a : BitVec 8) (b : BitVec 8)
  | imax (d : BitVec 8) (a : BitVec 8) (b : BitVec 8)
  | iabs (d : BitVec 8) (a : BitVec 8)
  | ineg (d : BitVec 8) (a : BitVec 8)
  | and (d : BitVec 8) (a : BitVec 8) (b : BitVec 8)
  | or (d : BitVec 8) (a : BitVec 8) (b : BitVec 8)
  | xor (d : BitVec 8) (a : BitVec 8) (b : BitVec 8)
  | andn (d : BitVec 8) (a : BitVec 8) (b : BitVec 8)
  | not (d : BitVec 8) (a : BitVec 8)
  | shl (d : BitVec 8) (a : BitVec 8) (b : BitVec 8)
  | shr (d : BitVec 8) (a : BitVec 8) (b : BitVec 8)
  | sar (d : BitVec 8) (a : BitVec 8) (b : BitVec 8)
  | rol (d : BitVec 8) (a : BitVec 8) (b : BitVec 8)
  | popc (d : BitVec 8) (a : BitVec 8)
  | clz (d : BitVec 8) (a : BitVec 8)
  | ctz (d : BitVec 8) (a : BitVec 8)
  | brev (d : BitVec 8) (a : BitVec 8)
  | bfx (d : BitVec 8) (a : BitVec 8) (b : BitVec 8)
  | bfi (d : BitVec 8) (a : BitVec 8) (b : BitVec 8)
  | sel (d : BitVec 8) (a : BitVec 8) (b : BitVec 8)
  | mov (d : BitVec 8) (a : BitVec 8)
  | icmpeq (d : BitVec 8) (a : BitVec 8) (b : BitVec 8)
  | icmpne (d : BitVec 8) (a : BitVec 8) (b : BitVec 8)
  | icmplt (d : BitVec 8) (a : BitVec 8) (b : BitVec 8)
  | icmple (d : BitVec 8) (a : BitVec 8) (b : BitVec 8)
  | icmpgt (d : BitVec 8) (a : BitVec 8) (b : BitVec 8)
  | icmpge (d : BitVec 8) (a : BitVec 8) (b : BitVec 8)
  | iadd64 (d : BitVec 8) (a : BitVec 8) (b : BitVec 8)
  | isub64 (d : BitVec 8) (a : BitVec 8) (b : BitVec 8)
  | adda (d : BitVec 8) (a : BitVec 8) (b : BitVec 8)
  | tagset (d : BitVec 8) (a : BitVec 8) (b : BitVec 8)
  | tagget (d : BitVec 8) (a : BitVec 8)
  | bdmake (d : BitVec 8) (a : BitVec 8) (b : BitVec 8)
  | bdnarrow (d : BitVec 8) (a : BitVec 8) (b : BitVec 8)
  | bdquery (d : BitVec 8) (a : BitVec 8) (b : BitVec 8)
  | fadd (d : BitVec 8) (a : BitVec 8) (b : BitVec 8)
  | fsub (d : BitVec 8) (a : BitVec 8) (b : BitVec 8)
  | fmul (d : BitVec 8) (a : BitVec 8) (b : BitVec 8)
  | fma (d : BitVec 8) (a : BitVec 8) (b : BitVec 8)
  | fms (d : BitVec 8) (a : BitVec 8) (b : BitVec 8)
  | fnma (d : BitVec 8) (a : BitVec 8) (b : BitVec 8)
  | fmin (d : BitVec 8) (a : BitVec 8) (b : BitVec 8)
  | fmax (d : BitVec 8) (a : BitVec 8) (b : BitVec 8)
  | fminm (d : BitVec 8) (a : BitVec 8) (b : BitVec 8)
  | fmaxm (d : BitVec 8) (a : BitVec 8) (b : BitVec 8)
  | fabs (d : BitVec 8) (a : BitVec 8)
  | fneg (d : BitVec 8) (a : BitVec 8)
  | fcopysign (d : BitVec 8) (a : BitVec 8) (b : BitVec 8)
  | fcmpeq (d : BitVec 8) (a : BitVec 8) (b : BitVec 8)
  | fcmpne (d : BitVec 8) (a : BitVec 8) (b : BitVec 8)
  | fcmplt (d : BitVec 8) (a : BitVec 8) (b : BitVec 8)
  | fcmple (d : BitVec 8) (a : BitVec 8) (b : BitVec 8)
  | fcmpun (d : BitVec 8) (a : BitVec 8) (b : BitVec 8)
  | fclass (d : BitVec 8) (a : BitVec 8)
  | frcp (d : BitVec 8) (a : BitVec 8)
  | frsq (d : BitVec 8) (a : BitVec 8)
  | fsqrt (d : BitVec 8) (a : BitVec 8)
  | fdiv (d : BitVec 8) (a : BitVec 8) (b : BitVec 8)
  | fexp2 (d : BitVec 8) (a : BitVec 8)
  | flog2 (d : BitVec 8) (a : BitVec 8)
  | fsin (d : BitVec 8) (a : BitVec 8)
  | fcos (d : BitVec 8) (a : BitVec 8)
  | ftanh (d : BitVec 8) (a : BitVec 8)
  | ffloor (d : BitVec 8) (a : BitVec 8)
  | fceil (d : BitVec 8) (a : BitVec 8)
  | ftrunc (d : BitVec 8) (a : BitVec 8)
  | frint (d : BitVec 8) (a : BitVec 8)
  | fldexp (d : BitVec 8) (a : BitVec 8) (b : BitVec 8)
  | fgetexp (d : BitVec 8) (a : BitVec 8)
  | fdot2 (d : BitVec 8) (a : BitVec 8) (b : BitVec 8)
  | fdot4 (d : BitVec 8) (a : BitVec 8) (b : BitVec 8)
  | cvtff (d : BitVec 8) (a : BitVec 8) (b : BitVec 8)
  | cvtfi (d : BitVec 8) (a : BitVec 8) (b : BitVec 8)
  | cvtif (d : BitVec 8) (a : BitVec 8) (b : BitVec 8)
  | cvtii (d : BitVec 8) (a : BitVec 8) (b : BitVec 8)
  | qpack (d : BitVec 8) (a : BitVec 8) (b : BitVec 8)
  | qunpack (d : BitVec 8) (a : BitVec 8) (b : BitVec 8)
  | scalemake (d : BitVec 8) (a : BitVec 8) (b : BitVec 8)
  | pack2 (d : BitVec 8) (a : BitVec 8) (b : BitVec 8)
  | srseed (a : BitVec 8)
  | qswapx (d : BitVec 8) (a : BitVec 8)
  | qswapy (d : BitVec 8) (a : BitVec 8)
  | qswapd (d : BitVec 8) (a : BitVec 8)
  | qbcast (d : BitVec 8) (a : BitVec 8) (b : BitVec 8)
  | lshfl (d : BitVec 8) (a : BitVec 8) (b : BitVec 8)
  | lshflup (d : BitVec 8) (a : BitVec 8) (b : BitVec 8)
  | lshfldn (d : BitVec 8) (a : BitVec 8) (b : BitVec 8)
  | lbcast (d : BitVec 8) (a : BitVec 8) (b : BitVec 8)
  | lvote (d : BitVec 8) (a : BitVec 8) (b : BitVec 8)
  | lpopc (d : BitVec 8) (a : BitVec 8)
  | lscan (d : BitVec 8) (a : BitVec 8) (b : BitVec 8)
  | lred (d : BitVec 8) (a : BitVec 8) (b : BitVec 8)
  | lfirst (d : BitVec 8) (a : BitVec 8)
  | lmatch (d : BitVec 8) (a : BitVec 8)
  | rdlane (d : BitVec 8) (a : BitVec 8) (b : BitVec 8)
  | wrlane (d : BitVec 8) (a : BitVec 8) (b : BitVec 8)
  | ld (d : BitVec 8) (a : BitVec 8) (b : BitVec 8)
  | st (d : BitVec 8) (a : BitVec 8) (b : BitVec 8)
  | ldb (d : BitVec 8) (a : BitVec 8) (b : BitVec 8)
  | ldbz (d : BitVec 8) (a : BitVec 8) (b : BitVec 8)
  | stb (d : BitVec 8) (a : BitVec 8) (b : BitVec 8)
  | lds (d : BitVec 8) (a : BitVec 8) (b : BitVec 8)
  | sts (d : BitVec 8) (a : BitVec 8) (b : BitVec 8)
  | ldacq (d : BitVec 8) (a : BitVec 8) (b : BitVec 8)
  | strel (d : BitVec 8) (a : BitVec 8) (b : BitVec 8)
  | ldnt (d : BitVec 8) (a : BitVec 8) (b : BitVec 8)
  | pref (a : BitVec 8) (b : BitVec 8)
  | cctl (a : BitVec 8) (b : BitVec 8)
  | sttag (d : BitVec 8) (a : BitVec 8)
  | ldtag (d : BitVec 8) (a : BitVec 8)
  | ldsc (d : BitVec 8) (a : BitVec 8) (b : BitVec 8)
  | aadd (d : BitVec 8) (a : BitVec 8) (b : BitVec 8)
  | amin (d : BitVec 8) (a : BitVec 8) (b : BitVec 8)
  | amax (d : BitVec 8) (a : BitVec 8) (b : BitVec 8)
  | aand (d : BitVec 8) (a : BitVec 8) (b : BitVec 8)
  | aor (d : BitVec 8) (a : BitVec 8) (b : BitVec 8)
  | axor (d : BitVec 8) (a : BitVec 8) (b : BitVec 8)
  | axchg (d : BitVec 8) (a : BitVec 8) (b : BitVec 8)
  | acas (d : BitVec 8) (a : BitVec 8) (b : BitVec 8)
  | afadd (d : BitVec 8) (a : BitVec 8) (b : BitVec 8)
  | redadd (a : BitVec 8) (b : BitVec 8)
  | redmin (a : BitVec 8) (b : BitVec 8)
  | redmax (a : BitVec 8) (b : BitVec 8)
  | redand (a : BitVec 8) (b : BitVec 8)
  | redor (a : BitVec 8) (b : BitVec 8)
  | redxor (a : BitVec 8) (b : BitVec 8)
  | redfadd (a : BitVec 8) (b : BitVec 8)
  | fence (b : BitVec 8)
  | waiteq (d : BitVec 8) (a : BitVec 8) (b : BitVec 8)
  | waitne (d : BitVec 8) (a : BitVec 8) (b : BitVec 8)
  | xcopy (d : BitVec 8) (a : BitVec 8) (b : BitVec 8)
  | xcopyt (d : BitVec 8) (a : BitVec 8) (b : BitVec 8)
  | xgather (d : BitVec 8) (a : BitVec 8) (b : BitVec 8)
  | xfill (d : BitVec 8) (a : BitVec 8) (b : BitVec 8)
  | gbind (d : BitVec 4) (a : BitVec 8)
  | hld (d : BitVec 8) (a : BitVec 8) (b : BitVec 8)
  | hstep (d : BitVec 8) (a : BitVec 8) (b : BitVec 4)
  | hquery (d : BitVec 8) (a : BitVec 8) (b : BitVec 4)
  | rstrel (d : BitVec 8) (a : BitVec 8) (b : BitVec 8)
  | rmcast (d : BitVec 8) (a : BitVec 8)
  | rfence
  | rstream (a : BitVec 8) (b : BitVec 8)
  | mmae4 (d : BitVec 8) (a : BitVec 8) (b : BitVec 8)
  | mmae5 (d : BitVec 8) (a : BitVec 8) (b : BitVec 8)
  | mmabf (d : BitVec 8) (a : BitVec 8) (b : BitVec 8)
  | mmahf (d : BitVec 8) (a : BitVec 8) (b : BitVec 8)
  | mmas8 (d : BitVec 8) (a : BitVec 8) (b : BitVec 8)
  | mmaq4 (d : BitVec 8) (a : BitVec 8) (b : BitVec 8)
  | mmqe4 (d : BitVec 8) (a : BitVec 8) (b : BitVec 8)
  | mmqe5 (d : BitVec 8) (a : BitVec 8) (b : BitVec 8)
  | mmqbf (d : BitVec 8) (a : BitVec 8) (b : BitVec 8)
  | mmqhf (d : BitVec 8) (a : BitVec 8) (b : BitVec 8)
  | mmqs8 (d : BitVec 8) (a : BitVec 8) (b : BitVec 8)
  | mmqq4 (d : BitVec 8) (a : BitVec 8) (b : BitVec 8)
  | mzero (d : BitVec 3)
  | mldacc (d : BitVec 8) (a : BitVec 8) (b : BitVec 8)
  | mdrain (d : BitVec 8) (a : BitVec 8) (b : BitVec 8)
  | mdraint (d : BitVec 8) (a : BitVec 8) (b : BitVec 8)
  | barinit (d : BitVec 4) (a : BitVec 8)
  | bararv (d : BitVec 4) (a : BitVec 3)
  | barexp (d : BitVec 4) (a : BitVec 8)
  | barwait (d : BitVec 4) (a : BitVec 8) (b : BitVec 3)
  | bartest (d : BitVec 8) (a : BitVec 4) (b : BitVec 8)
  | fwait (d : BitVec 8) (a : BitVec 8) (b : BitVec 1)
  | ftest (d : BitVec 8) (a : BitVec 8) (b : BitVec 1)
  | fcancel (a : BitVec 8)
  | mready
  | sleep (a : BitVec 8)
  | trap (a : BitVec 8)
  | svc (d : BitVec 8) (a : BitVec 8)
  | rte
  | rdsr (d : BitVec 8) (a : BitVec 4) (b : BitVec 8)
  | wrsr (d : BitVec 4) (a : BitVec 8)
  | cycle (d : BitVec 8) (a : BitVec 1)
  | bbhint (a : BitVec 8)
  | bkpt (a : BitVec 8)
  | issueCycle
  | clauseFetch
  | operationComplete
  | userTrapEntry
  | starvationPromote
  | spinReleaseTimeout
  | sleepExpire
  | waitTimeout
  | watchWake
  | watchPoll
  | sliceAccess
  | objArrive
  | objExpect
  | objComplete
  | objCancel
  | barrierInit
  | packetHop
  | refreshTick
  | patrolScrub
  | configurationRead
  | configurationWrite
  | readReply
  | bandWake
  | bandInterrupt
  | bandManagement
  | bandInvalidRemove
  | quarterWakeReady
  | hostPostedWrite
  | sequencerSend
  | hostRead
  | xeAccept
  | xeActivate
  | xePieceIssue
  | xePiecePlace
  | xeOperationEnd
  | engineCancel
  | gridBindRequest
  | brimDeliveryPoll
  | brimDelivery
  | brimStepWord
  | mqAccept
  | mqStart
  | mqEnd
  | fabLoad
  | fabStore
  | fabAtomic
  | fabReduce
  | fabRelease
  | fabClose
  | fabMcast
  | fabData
  | fabAck
  | fabError
  | fabBusy
  | busyResend
  | linkmgmt
  | timex
  | timexRepeat
  | escapeTimeout
  | responseTimeout
  | flitResend
  | linkUp
  | pgresp
  | faultRecordWrite
  | svcRecordWrite
  | svcdone
  | teamEnd
  | dispatchComplete
  | commandDecode
  | cmdNop
  | cmdLaunch
  | cmdSignal
  | cmdWaitev
  | cmdInval
  | invalComplete
  | cmdScrub
  | blockPlace
  | concReserve
  | timeSliceExpire
  | saveBlock
  | ctlHalt
  | ctlRun
  | ctlRetry
  | ctlSkip
  | ctlStep
  | ctlKill
  | cqDoorbell
  | cqEnable
  | svcringWrite
  | fltringWrite
  | ctxtrWrite
  | registerWrite
  | partMerge
  | partSplit
  | attestationReport
  | fwcommit
  | recoveryWindowWrite
  | recoveryGo
  | mailboxWrite
  | mailboxRead
  | powerOn
  | packageReset
  | stageA
  | stageB
  | stageC
  | thermalHold
  | thermalHoldClear
  | thermalGate
  | thermalUngate
  | thermalTholdRelease
  | correctedError
  | uncorrectableError
  | healthWindowBoundary
  | errorResend
  | cuffStamp
  | cuffDeliver
  | cuffReplayDeliver
  | cuffcfgWrite
  | cuffModeApply
  | packageStop
  | visorScan
  | visorLoad
  | visorResume
  | trcbcWrite
  | traceCounterWriteback
  | linkFailure
  | pcieCompletion
  | reservedKindDiscard
  deriving DecidableEq, Repr

end Sys2Proof
end

