-- ==== Sys2Proof/Machine/Events.lean ====
section
/-! DEFINITION. The operands of the operations and events: one constructor of Event for each row of the opcode table
without an encoding, with what the step acts on. Steps that are due wait in the state as Events. -/
namespace Sys2Proof.Machine

/-- A team: the dispatch identifier (R429), the linear block index (R421) and the team index. -/
structure TeamKey where
  disp  : BitVec 64
  block : Nat
  team  : Nat
  deriving DecidableEq, Repr

/-- A split of a team: the lower split-table entry 4s, or the higher one 4s + 1 (R411). -/
structure SplitRef where
  team : TeamKey
  high : Bool
  deriving DecidableEq, Repr

/-- The operations of a slice on a word of memory (R60). -/
inductive AOp where
  | add | minS | maxS | minU | maxU | and | or | xor | xchg | cas | fadd
  deriving DecidableEq, Repr

/-- What an access to a line asks of its home slice (R56). -/
inductive SliceOp where
  | read | write | atomic (op : AOp) | tagRead | tagWrite
  deriving DecidableEq, Repr

/-- One access at a home slice (R57): local address, bytes, data (and compare value for a swap); `src` is the function
and the number of the posted host write that it is a piece of. -/
structure SliceReq where
  pa   : Nat
  op   : SliceOp
  size : Nat
  data : BitVec 1024
  cmp  : BitVec 64
  src  : Option (Nat × Nat)
  deriving DecidableEq, Repr

/-- What a completion writes into a future object (R112). -/
structure FutureResult where
  status : BitVec 8
  bytes  : BitVec 32
  coord  : BitVec 120
  side   : BitVec 3
  deriving DecidableEq, Repr

/-- A Band message: header fields and up to four payload words (R89). -/
structure BandMsg where
  dest    : BitVec 10
  source  : BitVec 10
  kind    : BitVec 4
  len     : BitVec 3
  addr    : BitVec 32
  payload : List (BitVec 64)
  deriving DecidableEq, Repr

/-- A fabric packet: one header flit and its data flits, as bits (R157). -/
structure Packet where
  hdr  : BitVec 256
  data : List (BitVec 256)
  deriving DecidableEq, Repr

/-- A command slot of a context's command queue: the slot count k at which it stood (R427, R429). -/
structure CmdRef where
  ctx   : Nat
  queue : Nat
  k     : BitVec 32
  deriving DecidableEq, Repr

/-- The kinds of unit whose errors the management controller counts (R474, R481). -/
inductive UnitKind where
  | core | slice | pchan | cacheRouter | fabricPort | die
  deriving DecidableEq, Repr

/-- A unit of the health count: its kind, its Band stop and its index there (R481). -/
structure HealthUnit where
  kind  : UnitKind
  stop  : BitVec 16
  index : BitVec 32
  deriving DecidableEq, Repr

/-- A TLP as the gate logs it: the bytes received and what the address decode of R480 makes of them: the function, the
base address register, the offset, whether it writes, and its data. -/
structure Tlp where
  raw   : List Byte
  fn    : Nat
  bar   : Nat
  off   : Nat
  write : Bool
  len   : Nat
  data  : List Byte
  deriving DecidableEq, Repr

/-- What a Cuff gate stamps (R489, R491, R495). -/
inductive Arrival where
  | tlp (t : Tlp)
  | packet (port : Nat) (p : Packet)
  | mgmt (m : BandMsg)
  | event (type : BitVec 8) (stop : BitVec 16) (num : BitVec 32) (info : BitVec 64)
  deriving DecidableEq, Repr

/-- A step of a unit with what it acts on. -/
inductive Event where
  | issueCycle
  | clauseFetch (r : SplitRef)
  | operationComplete (t : TeamKey) (op : Nat)
  | userTrapEntry (r : SplitRef)
  | starvationPromote (r : SplitRef)
  | spinReleaseTimeout (r : SplitRef)
  | sleepExpire (r : SplitRef)
  | waitTimeout (r : SplitRef)
  | watchWake (r : SplitRef)
  | watchPoll (r : SplitRef)
  | sliceAccess (q : SliceReq)
  | objArrive (pa : Nat) (bytes : Option (BitVec 32))
  | objExpect (pa : Nat) (bytes : BitVec 32)
  | objComplete (pa : Nat) (res : FutureResult)
  | objCancel (pa : Nat)
  | barrierInit (pa : Nat) (count : BitVec 16)
  | packetHop (n : Nat)
  | refreshTick (p : Nat)
  | patrolScrub
  | configurationRead (m : BandMsg)
  | configurationWrite (m : BandMsg)
  | readReply (m : BandMsg)
  | bandWake (m : BandMsg)
  | bandInterrupt (m : BandMsg)
  | bandManagement (m : BandMsg)
  | bandInvalidRemove (m : BandMsg)
  | quarterWakeReady (q : Nat)
  | hostPostedWrite (fn : Nat) (pa : Nat) (bytes : List Byte)
  | sequencerSend (fn : Nat)
  | hostRead (fn : Nat) (pa : Nat) (n : Nat)
  | xeAccept (core : Nat)
  | xeActivate (core : Nat)
  | xePieceIssue (core : Nat)
  | xePiecePlace (core : Nat)
  | xeOperationEnd (op : Nat)
  | engineCancel (op : Nat)
  | gridBindRequest (op : Nat)
  | brimDeliveryPoll (dlv : Nat)
  | brimDelivery (dlv : Nat)
  | brimStepWord (dlv : Nat)
  | mqAccept (core : Nat) (quad : Nat)
  | mqStart (core : Nat) (quad : Nat)
  | mqEnd (op : Nat)
  | fabLoad (p : Packet)
  | fabStore (p : Packet)
  | fabAtomic (p : Packet)
  | fabReduce (p : Packet)
  | fabRelease (p : Packet)
  | fabClose (p : Packet)
  | fabMcast (p : Packet)
  | fabData (p : Packet)
  | fabAck (p : Packet)
  | fabError (p : Packet)
  | fabBusy (p : Packet)
  | busyResend (dev : BitVec 8) (reqid : BitVec 16)
  | linkmgmt (port : Nat) (p : Packet)
  | timex (port : Nat) (t1 : BitVec 64) (t2 : BitVec 64) (t3 : BitVec 64) (t4 : BitVec 64) (ofs : BitVec 64)
  | timexRepeat (result : BitVec 64)
  | escapeTimeout (n : Nat)
  | responseTimeout (dev : BitVec 8) (reqid : BitVec 16)
  | flitResend (port : Nat) (seq : Nat)
  | linkUp (port : Nat)
  | pgresp (ctx : Nat) (v : BitVec 64)
  | faultRecordWrite (ctx : Nat)
  | svcRecordWrite (ctx : Nat)
  | svcdone (ctx : Nat) (seq : BitVec 32)
  | teamEnd (t : TeamKey)
  | dispatchComplete (disp : BitVec 64)
  | commandDecode
  | cmdNop (c : CmdRef)
  | cmdLaunch (c : CmdRef)
  | cmdSignal (c : CmdRef)
  | cmdWaitev (c : CmdRef)
  | cmdInval (c : CmdRef)
  | invalComplete (c : CmdRef)
  | cmdScrub (c : CmdRef)
  | blockPlace
  | concReserve (disp : BitVec 64)
  | timeSliceExpire (ctx : Nat)
  | saveBlock (disp : BitVec 64) (block : Nat)
  | ctlHalt (t : TeamKey)
  | ctlRun (t : TeamKey)
  | ctlRetry (t : TeamKey)
  | ctlSkip (t : TeamKey)
  | ctlStep (r : SplitRef)
  | ctlKill (t : TeamKey)
  | cqDoorbell (ctx : Nat) (n : Nat) (tail : BitVec 32)
  | cqEnable (ctx : Nat) (n : Nat) (v : BitVec 64)
  | svcringWrite (ctx : Nat) (v : BitVec 64)
  | fltringWrite (ctx : Nat) (v : BitVec 64)
  | ctxtrWrite (ctx : Nat) (v : BitVec 64)
  | registerWrite (fn : Nat) (off : Nat) (v : BitVec 64)
  | partMerge (first : BitVec 2) (nq : BitVec 2)
  | partSplit (first : BitVec 2) (nq : BitVec 2)
  | attestationReport (nonce : BitVec 256) (first : Nat)
  | fwcommit (v : BitVec 32)
  | recoveryWindowWrite (off : Nat) (bytes : List Byte)
  | recoveryGo
  | mailboxWrite
  | mailboxRead
  | powerOn
  | packageReset
  | stageA
  | stageB
  | stageC
  | thermalHold (q : Nat) (temp : Nat)
  | thermalHoldClear (q : Nat) (hottest : Nat)
  | thermalGate (q : Nat) (temp : Nat)
  | thermalUngate (q : Nat) (hottest : Nat)
  | thermalTholdRelease (q : Nat)
  | correctedError (u : HealthUnit) (loc : Nat)
  | uncorrectableError (u : HealthUnit) (pa : Nat)
  | healthWindowBoundary
  | errorResend (stop : BitVec 10) (queue : BitVec 32) (seq : BitVec 64)
  | cuffStamp (gate : Nat) (ph : Bool) (a : Arrival)
  | cuffDeliver (gate : Nat)
  | cuffReplayDeliver (gate : Nat)
  | cuffcfgWrite (gate : Nat) (v : BitVec 32)
  | cuffModeApply (gate : Nat)
  | packageStop
  | visorScan
  | visorLoad
  | visorResume
  | trcbcWrite (ctx : Nat) (v : BitVec 64)
  | traceCounterWriteback (core : Nat)
  | linkFailure (port : Nat)
  | pcieCompletion (n : Nat)
  | reservedKindDiscard (port : Nat) (p : Packet)
  deriving DecidableEq, Repr

/-- The row of the opcode table that an event is. -/
def Event.instr : Event → Instr
  | .issueCycle => .issueCycle
  | .clauseFetch _ => .clauseFetch
  | .operationComplete _ _ => .operationComplete
  | .userTrapEntry _ => .userTrapEntry
  | .starvationPromote _ => .starvationPromote
  | .spinReleaseTimeout _ => .spinReleaseTimeout
  | .sleepExpire _ => .sleepExpire
  | .waitTimeout _ => .waitTimeout
  | .watchWake _ => .watchWake
  | .watchPoll _ => .watchPoll
  | .sliceAccess _ => .sliceAccess
  | .objArrive _ _ => .objArrive
  | .objExpect _ _ => .objExpect
  | .objComplete _ _ => .objComplete
  | .objCancel _ => .objCancel
  | .barrierInit _ _ => .barrierInit
  | .packetHop _ => .packetHop
  | .refreshTick _ => .refreshTick
  | .patrolScrub => .patrolScrub
  | .configurationRead _ => .configurationRead
  | .configurationWrite _ => .configurationWrite
  | .readReply _ => .readReply
  | .bandWake _ => .bandWake
  | .bandInterrupt _ => .bandInterrupt
  | .bandManagement _ => .bandManagement
  | .bandInvalidRemove _ => .bandInvalidRemove
  | .quarterWakeReady _ => .quarterWakeReady
  | .hostPostedWrite _ _ _ => .hostPostedWrite
  | .sequencerSend _ => .sequencerSend
  | .hostRead _ _ _ => .hostRead
  | .xeAccept _ => .xeAccept
  | .xeActivate _ => .xeActivate
  | .xePieceIssue _ => .xePieceIssue
  | .xePiecePlace _ => .xePiecePlace
  | .xeOperationEnd _ => .xeOperationEnd
  | .engineCancel _ => .engineCancel
  | .gridBindRequest _ => .gridBindRequest
  | .brimDeliveryPoll _ => .brimDeliveryPoll
  | .brimDelivery _ => .brimDelivery
  | .brimStepWord _ => .brimStepWord
  | .mqAccept _ _ => .mqAccept
  | .mqStart _ _ => .mqStart
  | .mqEnd _ => .mqEnd
  | .fabLoad _ => .fabLoad
  | .fabStore _ => .fabStore
  | .fabAtomic _ => .fabAtomic
  | .fabReduce _ => .fabReduce
  | .fabRelease _ => .fabRelease
  | .fabClose _ => .fabClose
  | .fabMcast _ => .fabMcast
  | .fabData _ => .fabData
  | .fabAck _ => .fabAck
  | .fabError _ => .fabError
  | .fabBusy _ => .fabBusy
  | .busyResend _ _ => .busyResend
  | .linkmgmt _ _ => .linkmgmt
  | .timex _ _ _ _ _ _ => .timex
  | .timexRepeat _ => .timexRepeat
  | .escapeTimeout _ => .escapeTimeout
  | .responseTimeout _ _ => .responseTimeout
  | .flitResend _ _ => .flitResend
  | .linkUp _ => .linkUp
  | .pgresp _ _ => .pgresp
  | .faultRecordWrite _ => .faultRecordWrite
  | .svcRecordWrite _ => .svcRecordWrite
  | .svcdone _ _ => .svcdone
  | .teamEnd _ => .teamEnd
  | .dispatchComplete _ => .dispatchComplete
  | .commandDecode => .commandDecode
  | .cmdNop _ => .cmdNop
  | .cmdLaunch _ => .cmdLaunch
  | .cmdSignal _ => .cmdSignal
  | .cmdWaitev _ => .cmdWaitev
  | .cmdInval _ => .cmdInval
  | .invalComplete _ => .invalComplete
  | .cmdScrub _ => .cmdScrub
  | .blockPlace => .blockPlace
  | .concReserve _ => .concReserve
  | .timeSliceExpire _ => .timeSliceExpire
  | .saveBlock _ _ => .saveBlock
  | .ctlHalt _ => .ctlHalt
  | .ctlRun _ => .ctlRun
  | .ctlRetry _ => .ctlRetry
  | .ctlSkip _ => .ctlSkip
  | .ctlStep _ => .ctlStep
  | .ctlKill _ => .ctlKill
  | .cqDoorbell _ _ _ => .cqDoorbell
  | .cqEnable _ _ _ => .cqEnable
  | .svcringWrite _ _ => .svcringWrite
  | .fltringWrite _ _ => .fltringWrite
  | .ctxtrWrite _ _ => .ctxtrWrite
  | .registerWrite _ _ _ => .registerWrite
  | .partMerge _ _ => .partMerge
  | .partSplit _ _ => .partSplit
  | .attestationReport _ _ => .attestationReport
  | .fwcommit _ => .fwcommit
  | .recoveryWindowWrite _ _ => .recoveryWindowWrite
  | .recoveryGo => .recoveryGo
  | .mailboxWrite => .mailboxWrite
  | .mailboxRead => .mailboxRead
  | .powerOn => .powerOn
  | .packageReset => .packageReset
  | .stageA => .stageA
  | .stageB => .stageB
  | .stageC => .stageC
  | .thermalHold _ _ => .thermalHold
  | .thermalHoldClear _ _ => .thermalHoldClear
  | .thermalGate _ _ => .thermalGate
  | .thermalUngate _ _ => .thermalUngate
  | .thermalTholdRelease _ => .thermalTholdRelease
  | .correctedError _ _ => .correctedError
  | .uncorrectableError _ _ => .uncorrectableError
  | .healthWindowBoundary => .healthWindowBoundary
  | .errorResend _ _ _ => .errorResend
  | .cuffStamp _ _ _ => .cuffStamp
  | .cuffDeliver _ => .cuffDeliver
  | .cuffReplayDeliver _ => .cuffReplayDeliver
  | .cuffcfgWrite _ _ => .cuffcfgWrite
  | .cuffModeApply _ => .cuffModeApply
  | .packageStop => .packageStop
  | .visorScan => .visorScan
  | .visorLoad => .visorLoad
  | .visorResume => .visorResume
  | .trcbcWrite _ _ => .trcbcWrite
  | .traceCounterWriteback _ => .traceCounterWriteback
  | .linkFailure _ => .linkFailure
  | .pcieCompletion _ => .pcieCompletion
  | .reservedKindDiscard _ _ => .reservedKindDiscard

end Sys2Proof.Machine
end

