-- ==== Sys2Proof/Machine/Forms.lean ====
section
/-! DEFINITION. What the operand-field tables of the instruction chapters say of each opcode: element types, latency
class, field roles, register counts and modifier words (R229, R258, R268, R281, R315, R316, R357, R380). -/
namespace Sys2Proof.Forms

/-- The element types of R229. -/
inductive ETy where
  | s32 | n32 | s16 | n16 | s8 | n8 | s64 | n64 | fp32 | fp16 | bf16 | e4m3 | e5m2 | fp64
  deriving DecidableEq, Repr

/-- The type a code of MODE.TYPE or STYPE names (R229). -/
def tyOfCode (c : Nat) : Option ETy :=
  match c with
  | 0x00 => some .s32 | 0x01 => some .n32 | 0x02 => some .s16 | 0x03 => some .n16
  | 0x04 => some .s8 | 0x05 => some .n8 | 0x06 => some .s64 | 0x07 => some .n64
  | 0x10 => some .fp32 | 0x11 => some .fp16 | 0x12 => some .bf16 | 0x13 => some .e4m3
  | 0x14 => some .e5m2 | 0x16 => some .fp64 | _ => none

/-- Width of an element in bits (R234, R235). -/
def ETy.width : ETy → Nat
  | .s64 | .n64 | .fp64 => 64
  | .s32 | .n32 | .fp32 => 32
  | .s16 | .n16 | .fp16 | .bf16 => 16
  | .s8 | .n8 | .e4m3 | .e5m2 => 8

/-- True for the integer types read in two's complement. -/
def ETy.signed : ETy → Bool
  | .s32 | .s16 | .s8 | .s64 => true
  | _ => false

/-- True for the floating-point types. -/
def ETy.float : ETy → Bool
  | .fp32 | .fp16 | .bf16 | .e4m3 | .e5m2 | .fp64 => true
  | _ => false

/-- A 64-bit type: its register operands are pairs (R316). -/
def ETy.wide (t : ETy) : Bool := t.width = 64

/-- Elements of a 32-bit register, or one for a pair (R317). -/
def ETy.elems (t : ETy) : Nat := if t.width = 16 then 2 else if t.width = 8 then 4 else 1

def intTypes : List ETy := [.s32, .n32, .s16, .n16, .s8, .n8, .s64, .n64]
def int3264 : List ETy := [.s32, .n32, .s64, .n64]
def float4 : List ETy := [.fp32, .fp16, .bf16, .fp64]
def float6 : List ETy := [.fp32, .fp16, .bf16, .e4m3, .e5m2, .fp64]

/-- True when `x` lies in `lo` to `hi`. -/
def within (x lo hi : Nat) : Bool := decide (lo ≤ x) && decide (x ≤ hi)

/-- The element types an entry lists; none: the form ignores TYPE or accepts every code (R229, R324). -/
def typesOf (op : Nat) : Option (List ETy) :=
  if op = 0x19 then some [.s8, .s16, .s32, .s64]
  else if within op 0x10 0x1A then some intTypes
  else if within op 0x28 0x29 then some int3264
  else if within op 0x2C 0x31 then some intTypes
  else if within op 0x57 0x5B then some [.fp32, .fp16, .bf16]
  else if within op 0x40 0x61 then some float4
  else if op = 0x62 then some [.fp16, .bf16]
  else if op = 0x63 then some [.e4m3, .e5m2]
  else if op = 0x70 || op = 0x72 then some float6
  else if op = 0x71 || op = 0x73 then some intTypes
  else if within op 0x74 0x76 then some [.fp32]
  else if op = 0x77 then some [.fp16, .bf16, .s16, .n16]
  else if within op 0x8A 0x8B then some [.s32, .n32, .s64, .n64, .fp32, .fp64]
  else if within op 0xA0 0xA7 || within op 0xB0 0xB5 then some int3264
  else if op = 0xA8 || op = 0xB6 then some [.fp32, .fp64]
  else none

/-- The opcodes the map of R275 assigns. -/
def assigned (op : Nat) : Bool :=
  within op 0x00 0x39 || within op 0x40 0x63 || within op 0x70 0x78 || within op 0x80 0x9E ||
  within op 0xA0 0xA8 || within op 0xB0 0xB6 || within op 0xB8 0xBA || within op 0xC0 0xCB ||
  within op 0xD0 0xE9 || within op 0xF0 0xF7

/-- The forms marked final in the opcode map (R275). -/
def final (op : Nat) : Bool :=
  within op 0x01 0x04 || within op 0x06 0x0A || op = 0xF2

/-- The latency classes (R258). -/
inductive Latency where
  | memory | execution | holding | issueComplete | fixed
  deriving DecidableEq, Repr

/-- The latency class of a form (R258). -/
def latency (op : Nat) : Latency :=
  if within op 0x90 0x90 || within op 0x92 0x93 || op = 0x95 || op = 0x97 || op = 0x99 ||
     within op 0x9D 0x9E || within op 0xA0 0xA8 || op = 0xC5 || op = 0xC7 || op = 0xE4 || op = 0xE6
  then .memory
  else if within op 0x15 0x16 || within op 0x53 0x5B || within op 0xD0 0xDF ||
     within op 0xC0 0xC4 || op = 0xC6 || op = 0xC9
  then .execution
  else if within op 0xB8 0xBA || op = 0xCA || op = 0xE3 || op = 0xE5 || within op 0xE8 0xE9 then .holding
  else if op = 0x91 || op = 0x94 || op = 0x96 || op = 0x98 || within op 0x9A 0x9C || within op 0xB0 0xB6 ||
     op = 0xC8 || op = 0xCB || within op 0xE0 0xE2 || op = 0xE7 || op = 0xF6
  then .issueComplete
  else .fixed

/-- A long-latency form sets a completion flag (R259). -/
def longLatency (op : Nat) : Bool :=
  latency op = .memory || latency op = .execution

/-- The class of an operand code (R264, R226). -/
inductive Opd where
  | vec (n : Nat) | scal (n : Nat) | pred (n : Nat) | dist (n : Nat) | lit (n : Nat) | special (n : Nat) | bad
  deriving DecidableEq, Repr

/-- What an operand code names (R264). -/
def opd (code : BitVec 8) : Opd :=
  let c := code.toNat
  if c < 0x80 then .vec c
  else if c < 0xC0 then .scal (c - 0x80)
  else if c < 0xC8 then .pred (c - 0xC0)
  else if c < 0xD0 then .dist (c - 0xC7)
  else if c < 0xD8 then .lit (c - 0xD0)
  else if c < 0xEF then .special (c - 0xD8)
  else .bad

/-- The per-lane specials: %laneid, %quadid, %rowid, %rowmask, %ltmask (R227). -/
def perLaneSpecial (n : Nat) : Bool := within n 1 3 || within n 0x15 0x16

/-- A uniform operand: a scalar register, a literal slot or a uniform special (R281, R315). -/
def Opd.uniform : Opd → Bool
  | .scal _ => true
  | .lit _ => true
  | .special n => !perLaneSpecial n
  | _ => false

/-- A vector source under R223: a vector register, a predicate (R318) or a per-lane special. -/
def Opd.perLane : Opd → Bool
  | .vec _ => true
  | .pred _ => true
  | .special n => perLaneSpecial n
  | _ => false

/-- What a field of an instruction word holds. -/
inductive Role where
  | unused                 -- 0x00 (R263)
  | num                    -- a plain number (R265, R380)
  | src                    -- any source
  | uni                    -- uniform source
  | cond                   -- a predicate, a vector register or a uniform operand (R380)
  | addr                   -- a generic address pair (R282)
  | dst                    -- vector or scalar destination
  | dstp                   -- vector, scalar or predicate destination (R318)
  | dsrc                   -- destination read as the third source first (R263)
  | data                   -- data source in the DST field
  | vec                    -- vector source
  | vdst                   -- vector destination
  | sdst                   -- scalar destination
  | scal                   -- scalar source
  | vecp                   -- vector or predicate source
  | slot                   -- literal slot of a modifier word or target (R268, R257)
  | index                  -- RDSR index: uniform for trapmask, 0x00 otherwise (R406)
  deriving DecidableEq, Repr

/-- The roles of DST, SRCA and SRCB (tables of R281, R315, R357, R380). -/
def roles (op : Nat) : Role × Role × Role :=
  -- control
  if op = 0x01 then (.unused, .unused, .slot)
  else if op = 0x02 then (.slot, .cond, .slot)
  else if within op 0x03 0x04 then (.unused, .cond, .slot)
  else if op = 0x06 then (.unused, .src, .unused)
  else if op = 0x07 then (.sdst, .unused, .slot)
  else if op = 0x08 then (.sdst, .uni, .unused)
  else if op = 0x09 then (.unused, .uni, .unused)
  else if op = 0x0B then (.unused, .uni, .uni)
  else if op = 0x0C then (.unused, .num, .num)
  else if within op 0x0D 0x0E then (.unused, .num, .unused)
  else if op ≤ 0x0F then (.unused, .unused, .unused)
  -- integer
  else if op = 0x14 || within op 0x29 0x2A then (.dsrc, .src, .src)
  else if within op 0x19 0x1A || op = 0x1F || within op 0x24 0x27 then (.dst, .src, .unused)
  else if op = 0x2B then (.dstp, .src, .unused)
  else if within op 0x2C 0x31 then (.dstp, .src, .src)
  else if op ≤ 0x28 then (.dst, .src, .src)
  else if within op 0x32 0x35 then (.dst, .src, .src)
  else if op = 0x36 then (.dst, .src, .unused)
  else if op = 0x37 then (.sdst, .uni, .uni)
  else if op = 0x38 then (.sdst, .scal, .uni)
  else if op = 0x39 then (.dst, .scal, .uni)
  -- floating point
  else if within op 0x43 0x45 || within op 0x62 0x63 then (.dsrc, .src, .src)
  else if within op 0x4D 0x51 then (.dstp, .src, .src)
  else if within op 0x4A 0x4B || within op 0x52 0x55 || within op 0x57 0x5F || op = 0x61 then
    (.dst, .src, .unused)
  else if within op 0x40 0x60 then (.dst, .src, .src)
  -- conversions and quantisation
  else if within op 0x70 0x73 then (.dst, .src, .slot)
  else if op = 0x74 then (.dsrc, .src, .src)
  else if op = 0x75 || op = 0x77 then (.dst, .src, .src)
  else if op = 0x76 then (.dst, .src, .uni)
  else if op = 0x78 then (.unused, .src, .unused)
  -- lanes
  else if within op 0x80 0x82 || op = 0x8D then (.vdst, .vec, .unused)
  else if op = 0x83 || within op 0x85 0x87 then (.vdst, .vec, .uni)
  else if op = 0x84 then (.vdst, .vec, .src)
  else if op = 0x88 then (.dstp, .vecp, .slot)
  else if op = 0x89 || op = 0x8C then (.vdst, .vecp, .unused)
  else if op = 0x8A then (.vdst, .vec, .slot)
  else if op = 0x8B then (.dst, .vec, .slot)
  else if op = 0x8E then (.sdst, .vec, .uni)
  else if op = 0x8F then (.vdst, .uni, .uni)
  -- memory
  else if op = 0x90 || op = 0x97 || op = 0x99 then (.dst, .addr, .slot)
  else if op = 0x91 || op = 0x98 then (.data, .addr, .slot)
  else if within op 0x92 0x93 then (.dst, .scal, .src)
  else if op = 0x94 then (.data, .scal, .src)
  else if op = 0x95 then (.dst, .src, .slot)
  else if op = 0x96 then (.data, .src, .slot)
  else if within op 0x9A 0x9B then (.unused, .addr, .slot)
  else if op = 0x9C then (.data, .addr, .unused)
  else if op = 0x9D then (.dst, .addr, .unused)
  else if op = 0x9E then (.vdst, .scal, .uni)
  else if within op 0xA0 0xA8 then (.dst, .addr, .src)
  else if within op 0xB0 0xB6 then (.unused, .addr, .src)
  else if op = 0xB8 then (.unused, .unused, .slot)
  else if within op 0xB9 0xBA then (.slot, .uni, .uni)
  else if within op 0xC0 0xC3 then (.sdst, .uni, .slot)
  else if op = 0xC4 then (.num, .uni, .unused)
  else if op = 0xC5 then (.vdst, .src, .slot)
  else if op = 0xC6 then (.sdst, .uni, .num)
  else if op = 0xC7 then (.dst, .uni, .num)
  else if op = 0xC8 then (.data, .addr, .slot)
  else if op = 0xC9 then (.sdst, .uni, .unused)
  else if op = 0xCB then (.unused, .uni, .uni)
  -- matrix
  else if within op 0xD0 0xDB then (.slot, .uni, .vec)
  else if op = 0xDC then (.num, .unused, .unused)
  else if within op 0xDD 0xDE then (.num, .uni, .slot)
  else if op = 0xDF then (.slot, .uni, .uni)
  -- barriers, futures, system
  else if op = 0xE0 || op = 0xE2 then (.num, .uni, .unused)
  else if op = 0xE1 then (.num, .num, .unused)
  else if op = 0xE3 then (.num, .uni, .num)
  else if op = 0xE4 then (.dst, .num, .uni)
  else if op = 0xE5 then (.sdst, .scal, .num)
  else if op = 0xE6 then (.dst, .scal, .num)
  else if op = 0xE7 then (.unused, .scal, .unused)
  else if op = 0xE9 || op = 0xF6 then (.unused, .uni, .unused)
  else if op = 0xF0 || op = 0xF7 then (.unused, .num, .unused)
  else if op = 0xF1 then (.vdst, .num, .unused)
  else if op = 0xF3 then (.sdst, .num, .index)
  else if op = 0xF4 then (.num, .uni, .unused)
  else if op = 0xF5 then (.sdst, .num, .unused)
  else (.unused, .unused, .unused)

/-- A field whose code names the register the form writes. -/
def Role.isDst : Role → Bool
  | .dst | .dstp | .dsrc | .vdst | .sdst => true
  | _ => false

/-- A field that holds no operand code. -/
def Role.plain : Role → Bool
  | .unused | .num => true
  | _ => false

/-- A field that reads a value through an operand code. -/
def Role.isSrc : Role → Bool
  | .src | .uni | .cond | .addr | .dsrc | .data | .vec | .scal | .vecp | .index => true
  | _ => false

/-- The modifier words, by the entry that lays them out. -/
inductive Mod where
  | mem | pref | cctl | fence | wait | xe | hld | rs | cvt | vote | lane | mma | mmaQ | md | mt
  deriving DecidableEq, Repr

/-- Which modifier word a form takes (R268). -/
def modOf (op : Nat) : Option Mod :=
  if within op 0x90 0x91 || within op 0x95 0x99 then some .mem
  else if op = 0x9A then some .pref
  else if op = 0x9B then some .cctl
  else if op = 0xB8 then some .fence
  else if within op 0xB9 0xBA then some .wait
  else if within op 0xC0 0xC3 then some .xe
  else if op = 0xC5 then some .hld
  else if op = 0xC8 then some .rs
  else if within op 0x70 0x73 then some .cvt
  else if op = 0x88 then some .vote
  else if within op 0x8A 0x8B then some .lane
  else if op = 0xD5 || op = 0xDB then some .mmaQ
  else if within op 0xD0 0xDB then some .mma
  else if within op 0xDD 0xDE then some .md
  else if op = 0xDF then some .mt
  else none

/-- Field [hi:lo] of a word as a number (R5). -/
def bits {n : Nat} (w : BitVec n) (hi lo : Nat) : Nat := (w.toNat >>> lo) % 2 ^ (hi + 1 - lo)

/-- The 16-bit offset field OFF of a modifier word, sign-extended (R285). -/
def modOff (w : Word) : Int := (w.extractLsb' 8 16).toInt

/-- The registers a field of a form names: 1, a pair or a quad, and for B operands 4 x KS (R282, R295, R316, R360).
`ty` is MODE.TYPE, `m` the modifier word, `esz` the element size a descriptor or grid gives. -/
def regs (op : Nat) (ty : Option ETy) (m : Word) (esz : Nat) (srNum : Nat) : Nat × Nat × Nat :=
  let wide := match ty with
    | some t => t.wide
    | none => false
  let w : Nat := if wide then 2 else 1
  let byBytes (n : Nat) : Nat := if n = 8 then 2 else if n = 16 then 4 else 1
  if within op 0x20 0x23 || within op 0x28 0x29 || op = 0x60 then (w, w, 1)
  else if within op 0x24 0x26 || within op 0x2C 0x31 || within op 0x4D 0x52 || op = 0x61 then (1, w, w)
  else if within op 0x10 0x2B || within op 0x40 0x61 then (w, w, w)
  else if within op 0x32 0x33 then (2, 2, 2)
  else if within op 0x34 0x35 then (2, 2, 1)
  else if op = 0x36 then (1, 2, 1)
  else if op = 0x37 then (4, 2, 2)
  else if op = 0x38 then (4, 4, 2)
  else if op = 0x39 then (1, 4, 1)
  else if within op 0x70 0x73 then
    (w, match tyOfCode (bits m 4 0) with
        | some t => if t.wide then 2 else 1
        | none => 1, 1)
  else if within op 0x8A 0x8B then (w, w, 1)
  else if within op 0x90 0x91 || within op 0x97 0x99 then (byBytes (2 ^ bits m 2 0), 2, 1)
  else if within op 0x95 0x96 then (byBytes (2 ^ bits m 2 0), 1, 1)
  else if within op 0x92 0x94 then (byBytes esz, 4, 1)
  else if within op 0x9A 0x9D then (1, 2, 1)
  else if op = 0x9E then (1, 4, 1)
  else if op = 0xA7 then (w, 2, 2 * w)
  else if within op 0xA0 0xB6 then (w, 2, w)
  else if within op 0xB9 0xBA then (1, 2, if bits m 0 0 = 1 then 2 else 1)
  else if within op 0xC0 0xC4 || op = 0xC9 then (1, 2, 1)
  else if op = 0xC5 then (byBytes esz, 1, 1)
  else if op = 0xC8 then (if bits m 0 0 = 1 then 2 else 1, 2, 1)
  else if within op 0xD0 0xDB then (1, 1, 4 * (bits m 4 3 + 1))
  else if within op 0xDD 0xDE then (1, 2, 1)
  else if op = 0xDF then (1, 2, 2)
  else if op = 0x07 then (2, 1, 1)
  else if op = 0x08 then (2, 2, 1)
  else if op = 0x09 then (1, 2, 1)
  else if op = 0xF5 then (2, 1, 1)
  else if op = 0xF1 then (8, 1, 1)
  else if op = 0xF3 then (if within srNum 1 5 || srNum = 8 || srNum = 0xD then 2 else 1, 1, 1)
  else if op = 0xF4 then (1, if within srNum 1 5 || srNum = 8 then 2 else 1, 1)
  else (1, 1, 1)

/-- Is `x` below the number of elements a type packs (SSEL and DSEL of R343)? -/
def selOk (t : ETy) (x : Nat) : Bool := decide (x < t.elems)

/-- A modifier word whose reserved bits are zero and whose values the entry lists (R268); `q` is QMOD of a Q4 form,
`d` the destination code. -/
def modOk (op : Nat) (k : Mod) (m q : Word) (ty : Option ETy) (d : BitVec 8) (nv : Nat) : Bool :=
  match k with
  | .mem =>
    decide (bits m 2 0 ≤ 4) && decide (bits m 7 7 = 0) && decide (bits m 31 24 = 0) &&
    (bits m 3 3 = 0 || ((op = 0x90 || op = 0x95 || op = 0x97 || op = 0x99) && decide (bits m 2 0 ≤ 1))) &&
    (if op = 0x97 || op = 0x98 then decide (bits m 6 4 ≤ 5) else decide (bits m 6 4 = 0))
  | .pref => decide (bits m 7 1 = 0) && decide (bits m 31 24 = 0)
  | .cctl => decide (bits m 7 2 = 0) && decide (bits m 31 24 = 0)
  | .fence => decide (bits m 4 2 ≤ 5) && decide (bits m 31 5 = 0)
  | .wait =>
    decide (bits m 3 1 ≤ 5) && decide (bits m 7 6 = 0) && decide (bits m 31 24 = 0) &&
    (if bits m 5 4 ≤ 1 then decide (bits m 23 8 = 0) else if bits m 5 4 = 2 then decide (bits m 23 8 ≠ 0) else true)
  | .xe =>
    decide (bits m 2 0 ≤ 5) && decide (bits m 31 8 = 0) &&
    (if bits m 3 3 = 1 then decide (op ≠ 0xC1) else decide (bits m 7 4 = 0))
  | .hld => decide (bits m 31 10 = 0)
  | .rs => decide (bits m 7 1 = 0) && decide (bits m 31 24 = 0)
  | .cvt =>
    decide (bits m 7 5 = 0) && decide (bits m 31 12 = 0) &&
    (match tyOfCode (bits m 4 0), ty with
     | some st, some dt =>
       (if op = 0x70 || op = 0x71 then st.float else !st.float) && selOk st (bits m 9 8) && selOk dt (bits m 11 10)
     | _, _ => false)
  | .vote =>
    decide (bits m 1 0 ≤ 2) && decide (bits m 31 2 = 0) &&
    (bits m 1 0 ≠ 2 || (match opd d with
                        | .pred _ => false
                        | _ => true))
  | .lane =>
    decide (bits m 2 0 ≤ 5) && decide (bits m 31 4 = 0) && (op ≠ 0x8B || bits m 3 3 = 0)
  | .mma =>
    decide (bits m 7 7 = 0) && decide (bits m 31 19 = 0) && decide (bits m 18 8 ≠ 0) &&
    (within op 0xD6 0xDB || bits m 6 5 = 0)
  | .mmaQ =>
    decide (bits m 7 7 = 0) && decide (bits m 31 19 = 0) && decide (bits m 18 8 ≠ 0) &&
    (within op 0xD6 0xDB || bits m 6 5 = 0) &&
    decide (bits q 7 7 = 0) && decide (bits q 15 15 = 0) && decide (bits q 31 18 = 0) &&
    decide (bits q 17 16 + bits m 4 3 + 1 ≤ 4) && decide (bits q 6 0 < nv) &&
    decide (bits q 14 8 + (if op = 0xD5 then 4 else 1) ≤ nv)
  | .md =>
    decide (bits m 1 0 ≤ 2) && decide (bits m 7 3 = 0) && decide (bits m 31 20 = 0) && decide (bits m 19 8 ≠ 0) &&
    (op ≠ 0xDD || bits m 2 0 = 0)
  | .mt => decide (bits m 7 5 = 0) && decide (bits m 31 20 = 0) && decide (4 ≤ bits m 19 8)

/-- The operand classes a role accepts (check 2 of R273); `n` is the number of registers. -/
def roleOk (r : Role) (n : Nat) (c : BitVec 8) (op srNum : Nat) : Bool :=
  match r with
  | .unused => decide (c = 0)
  | .num => true
  | .index => if srNum = 0x0B then (opd c).uniform else decide (c = 0)
  | .slot => match opd c with
    | .lit _ => true
    | _ => false
  | .uni => (opd c).uniform
  | .cond => match opd c with
    | .vec _ | .pred _ => true
    | o => o.uniform
  | .src | .data => match opd c with
    | .bad => false
    | .pred _ => decide (n ≤ 1)
    | _ => true
  | .addr => match opd c with
    | .bad | .pred _ => false
    | .special k => !perLaneSpecial k
    | _ => true
  | .dst | .dsrc => match opd c with
    | .vec _ => true
    | .scal _ => true
    | _ => false
  | .dstp => match opd c with
    | .vec _ | .scal _ | .pred _ => true
    | _ => false
  | .vec | .vdst => match opd c with
    | .vec _ => decide (op ≠ 0xF1 || c.toNat % 8 = 0)
    | _ => false
  | .scal | .sdst => match opd c with
    | .scal _ => true
    | _ => false
  | .vecp => match opd c with
    | .vec _ | .pred _ => true
    | _ => false

/-- Listed values of the number fields whose field is wider than its list (R229, R265, R380, R406). -/
def numOk (op : Nat) (d a b : Nat) : Bool :=
  if op = 0x0D then (tyOfCode a).isSome
  else if op = 0x0E then decide (a ≤ 5)
  else if within op 0xDD 0xDE then decide (d ≤ 7)
  else if op = 0xE1 then within a 1 5
  else if op = 0xE3 then within b 1 5
  else if op = 0xF3 then decide (a ≤ 0x0D) && decide (a ≠ 7)
  else if op = 0xF4 then d = 1 || d = 5 || d = 8
  else true

end Sys2Proof.Forms
end

