-- ==== Sys2Proof/Machine/Flags.lean ====
section
/-! DEFINITION. The number formats and the flag computations: exact values, rounding, the five exceptions of MODE.XF,
stochastic words, 4-bit codes, integer ranges, and the exact results of every floating-point form (R234 to R250, R322,
R334 to R348). Everything is computed exactly on integers and rounded once. -/
namespace Sys2Proof.Machine
open Sys2Proof.Forms

/-- Exceptions in the order of MODE.XF: IV, DZ, OF, UF, NX from bit 0 (R228). -/
abbrev Exc := BitVec 5

def excNone : Exc := 0
def excIV : Exc := 1
def excDZ : Exc := 2
def excOF : Exc := 4
def excUF : Exc := 8
def excNX : Exc := 16

/-- Field `[lo + n - 1 : lo]` of a number. -/
def fld (x lo n : Nat) : Nat := (x >>> lo) % 2 ^ n

/-- The two's-complement reading of the low `w` bits of `x`. -/
def sgn (w x : Nat) : Int :=
  let y := x % 2 ^ w
  if y < 2 ^ (w - 1) then (y : Int) else (y : Int) - (2 ^ w : Nat)

/-- An integer reduced modulo 2^w. -/
def wrap (w : Nat) (x : Int) : Nat := (x % ((2 ^ w : Nat) : Int)).toNat

/-! ### Integer types (R234) -/

/-- The value of an element of an integer type; a floating type reads as the unsigned type of its width (R324). -/
def iVal (t : ETy) (x : Nat) : Int := if t.signed then sgn t.width x else ((x % 2 ^ t.width : Nat) : Int)

/-- The range of an integer type (R234). -/
def iMin (t : ETy) : Int := if t.signed then -((2 ^ (t.width - 1) : Nat) : Int) else 0
def iMax (t : ETy) : Int := if t.signed then ((2 ^ (t.width - 1) : Nat) : Int) - 1 else ((2 ^ t.width : Nat) : Int) - 1

/-- `sat(x, type)`: x clamped to the range (R251). -/
def iClamp (t : ETy) (x : Int) : Int := if x < iMin t then iMin t else if iMax t < x then iMax t else x

/-- An exact integer result reduced to its type: clamped under SAT, else modulo 2^w (R234). -/
def iReduce (t : ETy) (sat : Bool) (x : Int) : Nat := wrap t.width (if sat then iClamp t x else x)

/-! ### Floating-point formats (R235) -/

/-- A floating-point format: exponent bits, fraction bits, bias, and whether it has infinities. -/
structure Fmt where
  e    : Nat
  m    : Nat
  bias : Nat
  inf  : Bool
  deriving DecidableEq, Repr

def fp64 : Fmt := ⟨11, 52, 1023, true⟩
def fp32 : Fmt := ⟨8, 23, 127, true⟩
def fp16 : Fmt := ⟨5, 10, 15, true⟩
def bf16 : Fmt := ⟨8, 7, 127, true⟩
def e4m3 : Fmt := ⟨4, 3, 7, false⟩
def e5m2 : Fmt := ⟨5, 2, 15, true⟩

/-- The format of a floating type; an integer type has none and reads as FP32. -/
def fmtOf : ETy → Fmt
  | .fp64 => fp64 | .fp16 => fp16 | .bf16 => bf16 | .e4m3 => e4m3 | .e5m2 => e5m2 | _ => fp32

/-- Bits of a format without its sign. -/
def Fmt.mag (f : Fmt) : Nat := f.e + f.m

/-- The largest finite magnitude as a bit pattern. -/
def Fmt.maxBits (f : Fmt) : Nat := if f.inf then (2 ^ f.e - 1) * 2 ^ f.m - 1 else 2 ^ f.mag - 2

/-- The pattern of infinity. -/
def Fmt.infBits (f : Fmt) : Nat := (2 ^ f.e - 1) * 2 ^ f.m

/-- `canon(fmt)`: the canonical NaN (R235). -/
def Fmt.canon (f : Fmt) : Nat := if f.inf then f.infBits + 2 ^ (f.m - 1) else 2 ^ f.mag - 1

/-- The sign bit in place. -/
def Fmt.signBit (f : Fmt) (neg : Bool) : Nat := if neg then 2 ^ f.mag else 0

/-- An exact value: NaN, infinity, or sign and m × 2^e; `sticky` says that the magnitude lies strictly between
m × 2^e and (m + 1) × 2^e. -/
inductive FVal where
  | nan (signalling : Bool)
  | inf (neg : Bool)
  | num (neg : Bool) (m : Nat) (e : Int) (sticky : Bool)
  deriving DecidableEq, Repr

/-- The zero of a sign. -/
def fZero (neg : Bool) : FVal := .num neg 0 0 false

/-- One. -/
def fOne : FVal := .num false 1 0 false

/-- `fval(x, fmt)` (R235, R236), subnormals read as zero under `ftz` (R237). -/
def fval (f : Fmt) (ftz : Bool) (x : Nat) : FVal :=
  let neg := decide (fld x f.mag 1 = 1)
  let ef := fld x f.m f.e
  let fr := fld x 0 f.m
  if ef = 2 ^ f.e - 1 ∧ (f.inf ∨ fr = 2 ^ f.m - 1) then
    if f.inf ∧ fr = 0 then .inf neg else .nan (f.inf ∧ fld fr (f.m - 1) 1 = 0)
  else if ef = 0 then
    if ftz then fZero neg else .num neg fr (1 - (f.bias : Int) - f.m) false
  else .num neg (fr + 2 ^ f.m) ((ef : Int) - f.bias - f.m) false

/-- Rounding of MODE.RND, saturation and flushing as an instruction takes them (R228). -/
structure Rnd where
  mode : Nat        -- 0 RNE, 1 RTZ, 2 RUP, 3 RDN, 4 RNA, 5 SR
  sat  : Bool
  ftz  : Bool
  deriving DecidableEq, Repr

/-- Nearest even, nothing else: the matrix arrays, the slices and the lane folds (R60, R248, R354). -/
def rne : Rnd := ⟨0, false, false⟩

/-- Is the larger neighbour taken? `lo` is the smaller magnitude in units of last place, `rem` of `2 ^ sh` the rest and
`st` something below it; `sr` is the random word (R238, R241). -/
def roundUp (mode : Nat) (neg : Bool) (lo rem sh : Nat) (st : Bool) (sr : Word) : Bool :=
  let half := 2 ^ (sh - 1)
  let above := decide (half < rem) || (decide (rem = half) && st)
  let tie := decide (rem = half) && !st
  match mode with
  | 0 => above || (tie && decide (lo % 2 = 1))
  | 1 => false
  | 2 => !neg
  | 3 => neg
  | 4 => above || tie
  | _ => decide (2 ^ 32 ≤ (rem * 2 ^ 32) >>> sh + sr.toNat)

/-- floor(log2 m) for m > 0. -/
def log2 (m : Nat) : Nat := Nat.log2 m

/-- The magnitude of a non-zero exact number on the grid of a format without an upper limit on the exponent: its
pattern, and whether it differs from the number (R238). -/
def roundGrid (f : Fmt) (mode : Nat) (sr : Word) (neg : Bool) (m : Nat) (e : Int) (st : Bool) : Nat × Bool :=
  let emin : Int := 1 - (f.bias : Int) - f.m
  let top : Int := (log2 m : Int) + e
  let u := max (top - f.m) emin
  let lo := if u ≤ e then m <<< (e - u).toNat else m >>> (u - e).toNat
  let sh := (u - e).toNat
  let rem := m % 2 ^ sh
  let inexact := decide (rem ≠ 0) || st
  let k := if inexact && roundUp mode neg lo rem sh st sr then lo + 1 else lo
  ((u - emin).toNat * 2 ^ f.m + k, inexact)

/-- `fbits(round(x, fmt, mode))` with the exceptions it raises (R236 to R241). (DEDUCED, log 14) -/
def fround (f : Fmt) (r : Rnd) (sr : Word) : FVal → Nat × Exc
  | .nan s => (f.canon, if s then excIV else 0)
  | .inf neg =>
    if f.inf then (f.signBit neg + f.infBits, 0)
    else (f.signBit neg + (if r.sat then f.maxBits else f.canon), excIV)
  | .num neg m e st =>
    if m = 0 ∧ st = false then (f.signBit neg, 0)
    else
      let (b, inexact) := roundGrid f r.mode sr neg m e st
      let tiny := decide ((log2 m : Int) + e < 1 - f.bias)
      if f.maxBits < b then
        let keep := r.sat || r.mode = 1 || (r.mode = 3 && !neg) || (r.mode = 2 && neg)
        (f.signBit neg + (if keep then f.maxBits else if f.inf then f.infBits else f.canon), excOF ||| excNX)
      else if r.ftz && decide (0 < b) && decide (b < 2 ^ f.m) then (f.signBit neg, excUF ||| excNX)
      else (f.signBit neg + b, (if inexact then excNX else 0) ||| (if inexact && tiny then excUF else 0))

/-! ### Exact arithmetic -/

/-- The sign of a value. -/
def FVal.neg : FVal → Bool
  | .nan _ => false
  | .inf n => n
  | .num n _ _ _ => n

/-- The value with its sign turned. -/
def fNeg : FVal → FVal
  | .nan s => .nan s
  | .inf n => .inf (!n)
  | .num n m e st => .num (!n) m e st

def FVal.isNan : FVal → Bool
  | .nan _ => true
  | _ => false

def FVal.isSNan : FVal → Bool
  | .nan s => s
  | _ => false

def FVal.isZero : FVal → Bool
  | .num _ 0 _ false => true
  | _ => false

def FVal.isInf : FVal → Bool
  | .inf _ => true
  | _ => false

/-- The invalid exception of a signalling operand (R236). -/
def snanExc (x : FVal) : Exc := if x.isSNan then excIV else 0

/-- A finite number as an integer in units of 2^e. -/
def scaled (e : Int) : FVal → Int
  | .num n m e' _ => let k := ((m <<< (e' - e).toNat : Nat) : Int); if n then -k else k
  | _ => 0

/-- The exponent of a finite number. -/
def FVal.exp : FVal → Int
  | .num _ _ e _ => e
  | _ => 0

/-- a + b exactly; an exact zero sum of opposite values is +0, −0 under RDN (R238). -/
def fAdd (rdn : Bool) (a b : FVal) : FVal × Exc :=
  match a, b with
  | .nan s, y => (.nan false, if s then excIV else snanExc y)
  | x, .nan s => (.nan false, (if s then excIV else 0) ||| snanExc x)
  | .inf n, .inf n' => if n = n' then (.inf n, 0) else (.nan false, excIV)
  | .inf n, _ => (.inf n, 0)
  | _, .inf n => (.inf n, 0)
  | x, y =>
    let e := min x.exp y.exp
    let s := scaled e x + scaled e y
    if s = 0 then
      (fZero (if x.isZero && y.isZero && x.neg = y.neg then x.neg else rdn), 0)
    else (.num (decide (s < 0)) s.natAbs e false, 0)

/-- a × b exactly; 0 × ∞ is invalid (R240). -/
def fMul (a b : FVal) : FVal × Exc :=
  match a, b with
  | .nan s, y => (.nan false, if s then excIV else snanExc y)
  | x, .nan s => (.nan false, (if s then excIV else 0) ||| snanExc x)
  | .num n m e _, .num n' m' e' _ => (.num (n != n') (m * m') (e + e') false, 0)
  | x, y => if x.isZero || y.isZero then (.nan false, excIV) else (.inf (x.neg != y.neg), 0)

/-- The integer square root of n < 4^k, bit by bit from the top. -/
def isqrtFrom (n : Nat) : Nat → Nat → Nat
  | 0, r => r
  | k + 1, r => if (r + 2 ^ k) * (r + 2 ^ k) ≤ n then isqrtFrom n k (r + 2 ^ k) else isqrtFrom n k r

/-- floor(√n). -/
def isqrt (n : Nat) : Nat := isqrtFrom n (n.log2 / 2 + 1) 0

/-- Significant bits kept of a quotient, root or transcendental result: more than the 53 + 32 + 2 that rounding and
the stochastic word can look at. -/
def keepBits : Nat := 160

/-- a / b exactly, to sticky (R335, R240). -/
def fDiv (a b : FVal) : FVal × Exc :=
  match a, b with
  | .nan s, y => (.nan false, if s then excIV else snanExc y)
  | x, .nan s => (.nan false, (if s then excIV else 0) ||| snanExc x)
  | .inf _, .inf _ => (.nan false, excIV)
  | .inf n, y => (.inf (n != y.neg), 0)
  | x, .inf n => (fZero (x.neg != n), 0)
  | .num n m e _, .num n' m' e' _ =>
    if m' = 0 then
      if m = 0 then (.nan false, excIV) else (.inf (n != n'), excDZ)
    else if m = 0 then (fZero (n != n'), 0)
    else
      let sh := keepBits + log2 m' + 1
      let q := (m <<< sh) / m'
      (.num (n != n') q (e - e' - sh) (decide (q * m' ≠ m <<< sh)), 0)

/-- √a (R335). -/
def fSqrt : FVal → FVal × Exc
  | .nan s => (.nan false, if s then excIV else 0)
  | .inf n => if n then (.nan false, excIV) else (.inf false, 0)
  | .num n m e _ =>
    if m = 0 then (fZero n, 0)
    else if n then (.nan false, excIV)
    else
      let odd := decide (e % 2 = 1)
      let m1 := (if odd then m * 2 else m) <<< (2 * keepBits)
      let e1 := (if odd then e - 1 else e) - 2 * keepBits
      let r := isqrt m1
      (.num false r (e1 / 2) (decide (r * r ≠ m1)), 0)

/-- 1 / √a (R335). -/
def fRsqrt : FVal → FVal × Exc
  | .nan s => (.nan false, if s then excIV else 0)
  | .inf n => if n then (.nan false, excIV) else (fZero false, 0)
  | .num n m e _ =>
    if m = 0 then (.inf n, excDZ)
    else if n then (.nan false, excIV)
    else
      let odd := decide (e % 2 = 1)
      let m1 := if odd then m * 2 else m
      let e1 := if odd then e - 1 else e
      let p := keepBits + log2 m1
      let q := 2 ^ (2 * p) / m1
      let r := isqrt q
      (.num false r (-(p : Int) - e1 / 2) (decide (r * r * m1 ≠ 2 ^ (2 * p))), 0)

/-! ### Transcendental forms (R334, R335)

Fixed-point numbers of `fixBits` fraction bits. The results are irrational whenever no exact case applies, so they are
given truncated and sticky with far more bits than rounding looks at. -/

def fixBits : Nat := 384

/-- Sum of the terms `t0, t0·x/d1, t0·x²/(d1·d2), …` with the divisor of step `k` given by `d`; `alt` alternates signs. -/
def series (x : Nat) (d : Nat → Nat) (alt : Bool) : Nat → Nat → Int → Nat → Int
  | 0, _, _, _ => 0
  | fuel + 1, t, sign, k =>
    sign * (t : Int) + series x d alt fuel (((t * x) >>> fixBits) / d k) (if alt then -sign else sign) (k + 1)

/-- exp(x) for 0 ≤ x < 1 in fixed point. (DEDUCED, log 17) -/
def expFix (x : Nat) : Nat := (series x (fun k => k) false 110 (2 ^ fixBits) 1 1).toNat

/-- atanh(z) / z as a series in z², in fixed point, for z² ≤ 1/9. -/
def atanhFix (z2 : Nat) : Nat → Nat → Nat → Nat
  | 0, _, _ => 0
  | fuel + 1, t, k => t / (2 * k + 1) + atanhFix z2 fuel ((t * z2) >>> fixBits) (k + 1)

/-- ln 2 = 2 atanh(1/3) in fixed point. (DEDUCED, log 17) -/
def ln2Fix : Nat := 2 * (atanhFix (2 ^ fixBits / 9) 130 (2 ^ fixBits / 3) 0)

/-- arctan(1/n) in fixed point. -/
def arctanInv (n : Nat) : Nat → Nat → Int → Nat → Int
  | 0, _, _, _ => 0
  | fuel + 1, t, sign, k => sign * ((t / (2 * k + 1) : Nat) : Int) + arctanInv n fuel (t / (n * n)) (-sign) (k + 1)

/-- π by Machin's formula, in fixed point. (DEDUCED, log 17) -/
def piFix : Nat :=
  (4 * (4 * arctanInv 5 100 (2 ^ fixBits / 5) 1 0 - arctanInv 239 40 (2 ^ fixBits / 239) 1 0)).toNat

/-- 2^a. (DEDUCED, log 17) -/
def fExp2 : FVal → FVal × Exc
  | .nan s => (.nan false, if s then excIV else 0)
  | .inf n => (if n then fZero false else .inf false, 0)
  | .num n m e _ =>
    if m = 0 then (fOne, 0)
    else if decide (14 < (log2 m : Int) + e) then
      (.num false 1 (if n then -20000 else 20000) false, 0)
    else
      let whole := if 0 ≤ e then m <<< e.toNat else m >>> (-e).toNat
      let rest := if 0 ≤ e then 0 else m % 2 ^ (-e).toNat
      if rest = 0 then (.num false 1 (if n then -(whole : Int) else whole) false, 0)
      else
        -- the fraction in fixed point, of the floor of the exponent
        let num := if n then 2 ^ (-e).toNat - rest else rest
        let fl : Int := if n then -(whole : Int) - 1 else whole
        let x := (num <<< fixBits) >>> (-e).toNat
        (.num false (expFix ((x * ln2Fix) >>> fixBits)) (fl - fixBits) true, 0)

/-- log2 a. (DEDUCED, log 17) -/
def fLog2 : FVal → FVal × Exc
  | .nan s => (.nan false, if s then excIV else 0)
  | .inf n => if n then (.nan false, excIV) else (.inf false, 0)
  | .num n m e _ =>
    if m = 0 then (.inf true, excDZ)
    else if n then (.nan false, excIV)
    else
      let l := log2 m
      let top : Int := (l : Int) + e
      if m = 2 ^ l then (.num (decide (top < 0)) top.natAbs 0 false, 0)
      else
        -- t = m / 2^l in [1, 2), halved from 3/2 on
        let big := decide (3 * 2 ^ l ≤ 2 * m)
        let den := if big then 2 ^ (l + 1) else 2 ^ l
        let ex : Int := if big then top + 1 else top
        let negT := decide (m < den)
        let diff := if negT then den - m else m - den
        -- z = |t - 1| / (t + 1), scaled by 2^l so that the result keeps its leading bits
        let z := (diff <<< (fixBits + l)) / (m + den)
        let zf := z >>> l
        let a := atanhFix ((zf * zf) >>> fixBits) 130 (2 ^ fixBits) 0
        let mag := (((2 * z * a) <<< 1) / ln2Fix) >>> 1
        let frac : Int := if negT then -(mag : Int) else mag
        let tot : Int := ex * ((2 ^ (fixBits + l) : Nat) : Int) + frac
        (.num (decide (tot < 0)) tot.natAbs (-(fixBits : Int) - l) true, 0)

/-- sin(π × r) for 0 < r ≤ 1/2, r = m × 2^e: the mantissa and exponent of a sticky result. (DEDUCED, log 17) -/
def sinPi (m : Nat) (e : Int) : FVal :=
  let r := if 0 ≤ e then (m <<< e.toNat) <<< fixBits else (m <<< fixBits) >>> (-e).toNat
  let y := (r * piFix) >>> fixBits
  let s := series ((y * y) >>> fixBits) (fun k => 2 * k * (2 * k + 1)) true 60 (2 ^ fixBits) 1 1
  .num false (m * piFix * s.toNat) (e - 2 * fixBits) true

/-- sin(π × x) for the number x = ± m × 2^e; `cos` adds one half first. An odd multiple of one half gives ±1 exactly and
an integer gives the zero `z`. -/
def sinPiOf (z : Bool) (neg : Bool) (m : Nat) (e : Int) (cos : Bool) : FVal :=
  let e1 := min e (-2)
  let one := 2 ^ (-e1).toNat                -- 1 in units of 2^e1
  let k := m <<< (e - e1).toNat
  let x : Int := (if neg then -(k : Int) else k) + (if cos then ((one / 2 : Nat) : Int) else 0)
  let y := (x % ((2 * one : Nat) : Int)).toNat
  let s := decide (one < y)
  let y1 := y % one
  if y1 = 0 then fZero z
  else
    let y2 := if one / 2 < y1 then one - y1 else y1
    if y2 = one / 2 then .num s 1 0 false
    else match sinPi y2 e1 with
      | .num _ m' e' st => .num s m' e' st
      | v => v

/-- sin(π a) and cos(π a) (R335). (DEDUCED, log 17) -/
def fSinCos (cos : Bool) : FVal → FVal × Exc
  | .nan s => (.nan false, if s then excIV else 0)
  | .inf _ => (.nan false, excIV)
  | .num n m e _ =>
    if m = 0 then (if cos then fOne else fZero n, 0)
    else (sinPiOf (if cos then false else n) n m e cos, 0)

/-- tanh a (R335). (DEDUCED, log 17) -/
def fTanh : FVal → FVal × Exc
  | .nan s => (.nan false, if s then excIV else 0)
  | .inf n => (.num n 1 0 false, 0)
  | .num n m e _ =>
    if m = 0 then (fZero n, 0)
    else
      let top : Int := (log2 m : Int) + e
      if top < -100 then (.num n (m * 2 ^ 300 - 1) (e - 300) true, 0)
      else if 7 ≤ top then (.num n (2 ^ 300 - 1) (-300) true, 0)
      else
        let x := if 0 ≤ e then (m <<< e.toNat) <<< fixBits else (m <<< fixBits) >>> (-e).toNat
        if top < -1 then
          -- tanh x = x E / (x E + 1) with E = (exp(2x) - 1) / 2x
          let es := (series (2 * x) (fun k => k + 1) false 110 (2 ^ fixBits) 1 1).toNat
          let den := ((x * es) >>> fixBits) + 2 ^ fixBits
          (.num n ((m * es) <<< fixBits / den) (e - fixBits) true, 0)
        else
          -- tanh x = 1 - 2 / (exp(2x) + 1)
          let y := 2 * x
          let k := y / ln2Fix
          let ex := expFix (y - k * ln2Fix) <<< k
          (.num n (2 ^ fixBits - 2 ^ (2 * fixBits + 1) / (ex + 2 ^ fixBits)) (-(fixBits : Int)) true, 0)

/-- a × 2^n (FLDEXP). Beyond ±4,000 every format over- or underflows alike. -/
def fLdexp (n : Int) : FVal → FVal × Exc
  | .num s m e st => if m = 0 then (fZero s, 0) else (.num s m (e + max (-4000) (min 4000 n)) st, 0)
  | .nan s => (.nan false, if s then excIV else 0)
  | .inf s => (.inf s, 0)

/-! ### Compares, classes and integral rounding -/

/-- Order of two values that are no NaN: a < b. -/
def fLt (a b : FVal) : Bool :=
  match a, b with
  | .inf n, y => n && !(y.isInf && y.neg)
  | x, .inf n => !n && !(x.isInf)
  | x, y => let e := min x.exp y.exp; decide (scaled e x < scaled e y)

/-- Equality of two values that are no NaN, +0 = −0. -/
def fEq (a b : FVal) : Bool := !fLt a b && !fLt b a

/-- The compare forms (R338): 0 EQ, 1 NE, 2 LT, 3 LE, 4 UN. -/
def fCompare (kind : Nat) (a b : FVal) : Bool × Exc :=
  let un := a.isNan || b.isNan
  let sn := a.isSNan || b.isSNan
  let iv : Exc := if (if kind = 2 || kind = 3 then un else sn) then excIV else 0
  (match kind with
   | 0 => !un && fEq a b
   | 1 => un || !fEq a b
   | 2 => !un && fLt a b
   | 3 => !un && !fLt b a
   | _ => un, iv)

/-- FMIN, FMAX and their propagating forms (R337): −0 below +0, one NaN gives the other operand or NaN. -/
def fMinMax (big prop : Bool) (a b : FVal) : FVal × Exc :=
  let iv : Exc := if a.isSNan || b.isSNan then excIV else 0
  if a.isNan || b.isNan then
    (if prop || (a.isNan && b.isNan) then .nan false else if a.isNan then b else a, iv)
  else
    let less := if fEq a b then a.neg && !b.neg else fLt a b
    (if less != big then a else b, iv)

/-- FCLASS (R339): the bit of the class of a pattern. -/
def fClass (f : Fmt) (x : Nat) : Nat :=
  match fval f false x with
  | .nan s => if s then 2 ^ 8 else 2 ^ 9
  | .inf n => if n then 2 ^ 0 else 2 ^ 7
  | .num n m _ _ =>
    if m = 0 then (if n then 2 ^ 3 else 2 ^ 4)
    else if m < 2 ^ f.m then (if n then 2 ^ 2 else 2 ^ 5)
    else (if n then 2 ^ 1 else 2 ^ 6)

/-- A finite number rounded to an integer magnitude, and whether it changed (R340, R344). -/
def roundInt (mode : Nat) (sr : Word) (neg : Bool) (m : Nat) (e : Int) : Nat × Bool :=
  if 0 ≤ e then (m <<< e.toNat, false)
  else
    let sh := (-e).toNat
    let lo := m >>> sh
    let rem := m % 2 ^ sh
    if rem = 0 then (lo, false) else (if roundUp mode neg lo rem sh false sr then lo + 1 else lo, true)

/-- FFLOOR, FCEIL, FTRUNC and FRINT (R340); `nx` is set for FRINT. -/
def fRint (f : Fmt) (mode : Nat) (nx : Bool) (sr : Word) (v : FVal) : Nat × Exc :=
  match v with
  | .num n m e _ =>
    if m = 0 then (f.signBit n, 0)
    else
      let (k, changed) := roundInt mode sr n m e
      ((fround f rne 0 (.num n k 0 false)).1, if changed && nx then excNX else 0)
  | w => fround f rne 0 w

/-- FGETEXP (R341) with a result of `w` bits. -/
def fGetexp (w : Nat) : FVal → Nat × Exc
  | .num _ m e _ => if m = 0 then (2 ^ (w - 1), excIV) else (wrap w ((log2 m : Int) + e), 0)
  | _ => (2 ^ (w - 1) - 1, excIV)

/-- An exact sum of products with an addend (R250, R342): the exceptions of the products and of the sum. Infinities of both
signs among the addends raise invalid also beside a NaN. (DEDUCED, log 79) -/
def fDot (rdn : Bool) (l : List (FVal × FVal)) (acc : FVal) : FVal × Exc :=
  let ps := l.map (fun p => fMul p.1 p.2)
  let v := ps.foldl (fun s p => (fAdd rdn s p.1).1) acc
  let e := ps.foldl (fun s p => s ||| p.2) (snanExc acc)
  let both := (acc :: ps.map (·.1)).contains (.inf false) && (acc :: ps.map (·.1)).contains (.inf true)
  (v, e ||| (if both then excIV else 0))

/-! ### Conversions (R344) -/

/-- An integer as an exact number. -/
def ofInt (x : Int) : FVal := .num (decide (x < 0)) x.natAbs 0 false

/-- CVTFI: a value to an integer type; NaN gives 0, out of range the nearest end, both with invalid only. -/
def cvtToInt (t : ETy) (mode : Nat) (sr : Word) : FVal → Nat × Exc
  | .nan _ => (0, excIV)
  | .inf n => (wrap t.width (if n then iMin t else iMax t), excIV)
  | .num n m e _ =>
    let (k, changed) := roundInt mode sr n m e
    let x : Int := if n then -(k : Int) else k
    if x < iMin t ∨ iMax t < x then (wrap t.width (iClamp t x), excIV)
    else (wrap t.width x, if changed then excNX else 0)

/-! ### Stochastic words (R242) and 4-bit codes (R244 to R248) -/

/-- `srword(l, e)` from SRSV and SRCNT of the lane (R242). -/
def srword (srsv srcnt : Word) (e : Nat) : Word :=
  let x := srsv ^^^ (srcnt * 0x9E3779B9) ^^^ (BitVec.ofNat 32 e * 0x27D4EB2F)
  let x := x ^^^ (x >>> 16)
  let x := x * 0x85EBCA6B
  let x := x ^^^ (x >>> 13)
  let x := x * 0xC2B2AE35
  x ^^^ (x >>> 16)

/-- Eight times the magnitude of `c[2:0]` under scale types 1, 2 and 3 (R245). -/
def code4mag (t c : Nat) : Nat :=
  let i := c % 8
  match t with
  | 1 => [0, 4, 8, 12, 16, 24, 32, 48].getD i 0
  | 2 => [0, 1, 2, 4, 8, 16, 32, 64].getD i 0
  | _ => [0, 8, 16, 24, 32, 40, 48, 64].getD i 0

/-- `code4(c, t)` times eight (R245). -/
def code4x8 (t c : Nat) : Int :=
  if t = 0 then 8 * sgn 4 c
  else if fld c 3 1 = 1 then -(code4mag t c : Int) else code4mag t c

/-- The largest magnitude of a scale type (R346). -/
def maxmag (t : Nat) : Nat := [7, 6, 8, 8].getD t 8

/-- The smallest integer E with m × 2^e ≤ k × 2^E, for m > 0: searched upwards from a lower bound. -/
def fitExp (m : Nat) (e : Int) (k : Nat) : Nat → Int → Int
  | 0, ex => ex
  | fuel + 1, ex =>
    let base := min e ex
    if m <<< (e - base).toNat ≤ k <<< (ex - base).toNat then ex else fitExp m e k fuel (ex + 1)

/-- SCALEMAKE (R346). -/
def scaleMake (a t : Nat) : Nat :=
  match fval fp32 false a with
  | .num _ m e _ =>
    if m = 0 then t * 64
    else
      let ex := fitExp m e (maxmag t) 8 ((log2 m : Int) + e - 4)
      t * 64 + (max 0 (min 62 (ex + 32))).toNat
  | _ => 0xFF

/-- The values of the sixteen codes of a scale type, as (eight times the value, code): code 0b1000 of types 1 to 3 reads
+0 and is never produced. -/
def code4all (t : Nat) : List (Int × Nat) :=
  ((List.range 16).filter (fun c => t = 0 || c ≠ 8)).map (fun c => (code4x8 t c, c))

/-- The code of the largest value not above `y`, and of the smallest not below it, `y` in units of 2^e times eight. -/
def neighbours (t : Nat) (y : Int) (unit : Nat) : Option (Int × Nat) × Option (Int × Nat) :=
  (code4all t).foldl (fun (lo, hi) (v, c) =>
    let vu := v * unit
    (if vu ≤ y then (match lo with
        | some (w, d) => if w < v then some (v, c) else some (w, d)
        | none => some (v, c)) else lo,
     if y ≤ vu then (match hi with
        | some (w, d) => if v < w then some (v, c) else some (w, d)
        | none => some (v, c)) else hi)) (none, none)

/-- Which of two neighbouring codes R347 takes: `y`, `lo` and `hi` in one unit. -/
def pickCode (mode : Nat) (sr : Word) (y lo hi : Int) (cl ch : Nat) : Nat :=
  let dl := y - lo
  let dh := hi - y
  let small := decide (lo.natAbs < hi.natAbs)         -- lo is the smaller magnitude
  match mode with
  | 0 => if dl < dh then cl else if dh < dl then ch else if cl % 2 = 0 then cl else ch
  | 1 => if small then cl else ch
  | 2 => ch
  | 3 => cl
  | 4 => if dl < dh then cl else if dh < dl then ch else if small then ch else cl
  | _ =>
    let num := if small then dl else dh
    let up := decide (2 ^ 32 ≤ (num.toNat * 2 ^ 32) / (hi - lo).toNat + sr.toNat)
    if up = small then ch else cl

/-- QPACK of one value (R347): the code and the exceptions. -/
def qPack (mode : Nat) (sr : Word) (a s : Nat) : Nat × Exc :=
  let t := fld s 6 2
  let ex := fld s 0 6
  if s = 0xFF then (0, excIV) else
  match fval fp32 false a with
  | .nan _ => (0, excIV)
  | .inf n => (if t = 0 then (if n then 8 else 7) else if n then 15 else 7, excOF ||| excNX)
  | .num n m e _ =>
    -- y = a / 2^(EXP - 32), eight times, in units of 2^u
    let e1 : Int := e - ((ex : Int) - 32) + 3
    let u := min e1 0
    let unit := 2 ^ (-u).toNat
    let k := m <<< (e1 - u).toNat
    let y : Int := if n then -(k : Int) else k
    match neighbours t y unit with
    | (some (lo, cl), some (hi, ch)) =>
      if lo * unit = y then (if lo = 0 then 0 else cl, 0)
      else
        let c := pickCode mode sr y (lo * unit) (hi * unit) cl ch
        (if code4x8 t c = 0 then 0 else c, excNX)
    | (some (_, cl), none) => (cl, excOF ||| excNX)
    | (none, some (_, ch)) => (ch, excOF ||| excNX)
    | (none, none) => (0, 0)

/-- QUNPACK of one code (R348). -/
def qUnpack (c s : Nat) : Nat :=
  if s = 0xFF then fp32.canon
  else
    let v := code4x8 (fld s 6 2) c
    (fround fp32 rne 0 (.num (decide (v < 0)) v.natAbs ((fld s 0 6 : Int) - 32 - 3) false)).1

/-! ### Atomic operations (R60) -/

/-- The word after an operation of a slice on `m` with operand `v` of `w` bits (R60); a swap compares with `c`. -/
def atomicResult (op : AOp) (w m v c : Nat) : Nat :=
  match op with
  | .add => (m + v) % 2 ^ w
  | .minS => if sgn w v < sgn w m then v else m
  | .maxS => if sgn w m < sgn w v then v else m
  | .minU => min m v
  | .maxU => max m v
  | .and => m &&& v
  | .or => m ||| v
  | .xor => m ^^^ v
  | .xchg => v
  | .cas => if m = c then v else m
  | .fadd =>
    let f := if w = 64 then fp64 else fp32
    (fround f rne 0 (fAdd false (fval f false m) (fval f false v)).1).1

end Sys2Proof.Machine
end

