-- ==== Sys2Proof/Config.lean ====
section
/-! DEFINITION. What one implementation fixes and what the manual leaves open: the free values of R10, and the functions
the spec names and does not give. None of them has a body, so no proof can see a value. -/
namespace Sys2Proof.Config

/-- The value that an UNKNOWN read returns (R10): one value for each key that a step asks for. (DESIGN CHOICE, log 4) -/
opaque freeValue : Nat → BitVec 64

/-- The device-unique secret of the root of trust (R467). (DESIGN CHOICE, log 8) -/
opaque deviceSecret : BitVec 256

/-- The SHAKE256 hash of a firmware image, given by its bytes that are not zero (R468, R470, R499). (DESIGN CHOICE, log 8) -/
opaque imageHash : SMap Byte → BitVec 256

/-- The ML-DSA-65 check of a firmware image against its own signature (R470). (DESIGN CHOICE, log 8) -/
opaque imageSigned : SMap Byte → Bool

/-- The security version a firmware image carries (R470). (DESIGN CHOICE, log 8) -/
opaque imageVersion : SMap Byte → BitVec 8

/-- The ML-DSA-65 signature by a key of the given seed over a message (R468). (DESIGN CHOICE, log 8) -/
opaque sign : BitVec 256 → List Byte → List Byte

/-- The seed of a partition's attestation key, from the secret, the quarter set and the derivation count (R469). (DESIGN CHOICE, log 8) -/
opaque deriveKey : BitVec 256 → BitVec 4 → Nat → BitVec 256

/-- Whether quarter `q` passes HBM training and check in a start (R470). (DESIGN CHOICE, log 8) -/
opaque trainingOk : Nat → Nat → Bool

/-- Whether every die of quarter `q` meets the voltage margin in a start (R477). (DESIGN CHOICE, log 8) -/
opaque marginOk : Nat → Nat → Bool

/-- The address decode of a TLP as received, against the BAR assignments of the host: function, base address register, offset,
write, length and data (R480, R491). (DESIGN CHOICE, log 64) -/
opaque tlpDecode : List Byte → Nat × Nat × Nat × Bool × Nat × List Byte

/-- The sections that the scan manifest of a firmware image lists (R499). -/
opaque scanSectionCount : SMap Byte → BitVec 64

end Sys2Proof.Config
end

