-- ==== Sys2Proof/Machine/Sparse.lean ====
section
/-! DEFINITION. Reading and writing sparse maps: ascending keys, no entry that equals the default, so that equal maps
are equal lists. Registers, tiles, memory bytes and the tables of the launch unit are kept so. -/
namespace Sys2Proof.Machine

/-- The value under a key, the default where the key is not listed. -/
def mapGet {α : Type} (dflt : α) : SMap α → Nat → α
  | [], _ => dflt
  | (j, v) :: rest, k => if j = k then v else mapGet dflt rest k

/-- An entry, unless it equals the default. -/
def mapCell {α : Type} [DecidableEq α] (dflt : α) (k : Nat) (v : α) : SMap α :=
  if v = dflt then [] else [(k, v)]

/-- The entries under keys below `n`. -/
def mapBelow {α : Type} (n : Nat) (m : SMap α) : SMap α := m.filter (fun p => decide (p.1 < n))

/-- The entries under keys from `n` on. -/
def mapFrom {α : Type} (n : Nat) (m : SMap α) : SMap α := m.filter (fun p => decide (n ≤ p.1))

/-- Writes the value under a key; writing the default removes the entry. (DESIGN CHOICE, log 2) -/
def mapSet {α : Type} [DecidableEq α] (dflt : α) (m : SMap α) (k : Nat) (v : α) : SMap α :=
  mapBelow k m ++ (mapCell dflt k v ++ mapFrom (k + 1) m)

/-- The entries of `n` keys from `base` with the values of `f`, defaults left out, before the entries given. -/
def mapCells {α : Type} [DecidableEq α] (dflt : α) (base : Nat) (f : Nat → α) : Nat → SMap α → SMap α
  | 0, rest => rest
  | n + 1, rest => mapCells dflt base f n (mapCell dflt (base + n) (f n) ++ rest)

/-- Writes the `n` keys from `base` on at once: key `base + i` takes `f i`. -/
def mapPut {α : Type} [DecidableEq α] (dflt : α) (m : SMap α) (base n : Nat) (f : Nat → α) : SMap α :=
  mapBelow base m ++ mapCells dflt base f n (mapFrom (base + n) m)

/-- The canonical form: keys strictly rising from `lo` on, and no entry that equals the default. -/
def mapWfFrom {α : Type} [DecidableEq α] (dflt : α) : Nat → SMap α → Bool
  | _, [] => true
  | lo, (k, v) :: rest => decide (lo ≤ k) && decide (v ≠ dflt) && mapWfFrom dflt (k + 1) rest

/-- The canonical form of a sparse map. -/
def mapWf {α : Type} [DecidableEq α] (dflt : α) (m : SMap α) : Bool := mapWfFrom dflt 0 m

end Sys2Proof.Machine
end

