-- ==== Sys2Proof/Machine/State.lean ====
section
/-! DEFINITION. The state of the Z9 as plain data: everything the spec gives the machine (INVENTORY.md, heading State),
why a step can stop, and the state right after reset. -/
namespace Sys2Proof.Machine

/-- Why the machine stops with a fault. The faults of the manual are records in the fault ring and are next states. -/
inductive Fault where
  /-- Raised by every instruction form: no split of a resident team has been selected to issue, so there is nothing the
  instruction could act on. Not a state of the hardware; safe, since the model stops. -/
  | noIssuingSplit
  deriving DecidableEq, Repr

/-- Why an instruction has no meaning in the model. -/
inductive Refusal where
  /-- The instruction has no meaning in the model yet. Safe. -/
  | notModelled (mnemonic : String)
  deriving DecidableEq, Repr

/-- A clause in progress: the address of its header, the header, the instruction words, and the literal words after the
patch overlay (R252, R272). -/
structure Clause where
  addr   : BitVec 56
  header : Word
  words  : List Word
  lits   : List Word
  deriving DecidableEq, Repr

/-- What an instruction of the clause in progress left in its destination (R266): its position, the destination code,
its registers, and the words of register `i` in lane `l` under the key 1024 * i + l. -/
structure Bypass where
  pos   : Nat
  code  : BitVec 8
  regs  : Nat
  words : SMap Word
  live  : Bool                  -- false after a resume: the register as it stands is read
  deriving DecidableEq, Repr

/-- Split-stack entries (R385, R388): rejoin (J, M) with the MODE of the branch and the XF gathered since, or pending
(J, lanes, address) with the MODE copy of those lanes (R231). -/
inductive StackEntry where
  | rejoin (join : BitVec 56) (mask : LaneMask) (mode : Word) (xf : BitVec 5)
  | pending (join : BitVec 56) (mask : LaneMask) (at_ : BitVec 56) (mode : Word)
  deriving DecidableEq, Repr

/-- The handler-entry record (R411, R439) and the clause the trap interrupted (R401). -/
structure Handler where
  mask   : LaneMask
  depth  : Nat
  clause : Option Clause        -- the clause in progress at the trap
  pos    : Nat
  wrote  : Bool                 -- the handler wrote TRAPPC
  deriving DecidableEq, Repr

/-- What a wait watches (R63, R301, R420). -/
inductive WatchOn where
  | line (pa : Nat)                   -- the 128-byte line of a global word
  | spad (disp : BitVec 64) (block : Nat) (off : Nat)
  | poll                              -- refused, remote or host-window words: read again every 256 cc
  deriving DecidableEq, Repr

/-- What a structural stall waits for; the split tries again once it has come about. -/
inductive Stall where
  | log                               -- a release: the team's side-log entries (R205)
  | location (ga : BitVec 64) (n : Nat)   -- a load of bytes that a side-log entry holds (R205)
  | logFull                           -- a free side-log entry (R451)
  | remote                            -- responses of the team's remote writes (R314)
  | writes                            -- responses of every team's remote writes made before (R170, R197)
  | atomics                           -- responses of the team's remote atomics and reductions (R195, R199)
  | reads (dev : BitVec 8)            -- responses of its remote reads toward a device (R175)
  | flush                             -- the flushing read of a release at sys (R211)
  | engine                            -- room in the copy engine's queue (R93)
  | releases (stream : Nat)           -- fewer than 128 unacknowledged releases of a stream (R175)
  | service                           -- room in the service ring (R402)
  | fetch                             -- remote pieces that the instruction reads (R168)
  | results                           -- writes of operations in flight to vector registers (R377)
  deriving DecidableEq, Repr

/-- Why a split does not issue (R414). -/
inductive Hold where
  | none
  | wait (on : List WatchOn)          -- a blocking wait whose condition was unmet at its last check
  | sleep (left : Nat)                -- cycles left of a SLEEP (R393)
  | stall (r : Stall)                 -- a structural stall
  | page (seqs : List (BitVec 32))    -- held at an access by open page requests (R288)
  | join                              -- waiting at a JOIN for the partner (R386)
  | service (seq : BitVec 32) (reg : Nat) (lanes : LaneMask)   -- SVC park (R402)
  | trap                              -- a second split's trap request waits (R400)
  deriving DecidableEq, Repr

/-- A user trap request (R440). -/
structure TrapReq where
  high  : Bool
  num   : Nat                   -- issue order of the instruction that made it
  cause : BitVec 8
  exc   : BitVec 5
  info  : BitVec 8
  lanes : LaneMask
  addr  : BitVec 56
  deriving DecidableEq, Repr

/-- The resume mask of a faulting split and how it is held (R447). -/
structure Resume where
  mask      : LaneMask
  atInstr   : Bool
  after     : Option (BitVec 56) := none   -- of a fault of the fetch: where a SKIP goes on (R450)
  deriving DecidableEq, Repr

/-- A split of a team: MODE, mask, program counter and scheduling state (R219, R231, R411, R416, R419, R420). -/
structure Split where
  mask     : LaneMask
  pc       : BitVec 56          -- header address of the clause in progress or to be fetched
  pos      : Nat                -- instructions of the clause already past
  clause   : Option Clause
  bypass   : List Bypass
  mode     : Word
  stack    : List StackEntry    -- top first
  dualJoin : Option (BitVec 56) -- join address of the dual pair (R385)
  dualMode : Word               -- MODE at the dual-path branch (R231)
  swapped  : Bool               -- its pair diverged from the split in the higher entry (R425)
  handler  : Option Handler
  hold     : Hold
  waited   : Option Nat         -- cycles of the blocking wait so far (R423)
  limit    : Nat                -- the bound of that wait (R423)
  resume   : Option Resume
  retry    : Option LaneMask    -- lanes of a RETRY, for the next instruction only (R450)
  stepping : Bool               -- a STEP is under way (R461)
  tier     : Nat
  stamp    : BitVec 64
  issued   : Nat                -- instructions since the last stamp
  promoted : Nat                -- instructions left in tier 0
  ready    : Nat                -- consecutive cycles ready and not taken
  dropAt   : BitVec 64          -- cycle of the drop to tier 2
  busy     : Nat                -- cycles of passes left (R415)
  spinAt   : Option (BitVec 56) -- header of the clause whose backward transfer repeats
  spinRuns : Nat
  spinNow  : List Word          -- values written in this iteration
  spinLast : List Word          -- values written in the last one
  spinRead : List Nat           -- lines read in this iteration (R420)
  pageFail : List Nat           -- pages whose request was answered failed while the split was held (R288)
  unmet    : List (Nat × Nat)   -- lanes and slabs of a stalled HLD at its last check (R149)
  legal    : Bool               -- the wait under way has been found legal (R300)
  relAt    : Option Nat         -- remote requests made before a waiting release first tried (R197)
  deriving DecidableEq, Repr

/-- A register to be written by a long-latency operation: code 0 to 127 vector, 128 to 191 scalar (R264). -/
structure RegWrite where
  code : Nat
  lane : Nat
  val  : Word
  lost : Bool := false          -- the register was the destination of an earlier operation in flight (R260)
  deriving DecidableEq, Repr

/-- What an operation in flight still waits for. -/
inductive Pending where
  | ready                       -- its results are in hand
  | engine (op : Nat)           -- an engine start not yet accepted (R92)
  | matrix (op : Nat)           -- a matrix operation not yet ended (R366)
  | bind (op : Nat)             -- a GBIND (R307)
  | remote                      -- responses outstanding (R168)
  | done                        -- complete; its flag is still set by another operation (R259)
  deriving DecidableEq, Repr

/-- A long-latency operation in flight (R259, R260): the flag it set in the lower and the higher split, the registers it
will write, the XF bits and the trap request it brings (R230, R321). -/
structure InFlight where
  id     : Nat
  flag   : Nat
  low    : Bool
  high   : Bool
  state  : Pending
  writes : List RegWrite
  reads  : List Nat             -- operand registers of a matrix operation (R210)
  lost   : Bool                 -- a register was written in the meantime: results UNKNOWN (R260)
  spoilt : List Nat             -- operand registers of a matrix operation written in the meantime (R210)
  xf     : BitVec 5
  trap   : Option TrapReq
  deriving DecidableEq, Repr

/-- A release stream of a team (R173). -/
structure Stream where
  valid  : Bool
  target : BitVec 8
  epoch  : BitVec 8
  count  : BitVec 32
  deriving DecidableEq, Repr

/-- A team (R219, R407, R411, R412, R441, R447, R173). Vector register `v` of lane `l` has the key 1024 * v + l. -/
structure Team where
  key      : TeamKey
  ctx      : Nat
  core     : Nat
  part     : Nat
  slot     : Nat
  stackSlot : Nat
  rows     : Nat
  nv       : Nat
  vregs    : SMap Word
  sregs    : SMap Word
  preds    : SMap LaneMask
  srsv     : SMap Word
  srcnt    : SMap Word
  absent   : LaneMask
  low      : Option Split
  high     : Option Split
  inflight : List InFlight
  traps    : List TrapReq
  trapPc   : BitVec 64
  trapAddr : BitVec 64
  trapInfo : Word
  trapCause : Word
  trapRows : Word
  trapMask : LaneMask
  trapVec  : BitVec 64
  bbBase   : BitVec 64
  streams  : SMap Stream
  curStream : Option Nat
  remote   : Nat                -- remote writes without a response (R170)
  mqCount  : Nat                -- MMQ operations accepted since the start (R368)
  parked   : Bool
  halted   : Bool
  ended    : Bool
  ctl      : List Event := []   -- operations of the host on a saved team, for its restore (R450)
  wroteV   : List Nat           -- vector registers written since the last MREADY (R209)
  wroteS   : List (Nat × Nat)   -- scratchpad ranges written since the last MREADY: offset, bytes
  acquired : Nat                -- engine placements before its last acquire, and before its last MREADY (R209)
  readied  : Nat
  deriving DecidableEq, Repr

/-- A block (R81, R108, R221, R425, R458). Tile word (quadrant q, tile t, row i, column j) has the key
((8 * q + t) * 64 + i) * 256 + j. -/
structure Block where
  disp     : BitVec 64
  index    : Nat
  ctx      : Nat
  core     : Nat
  area     : Nat
  spBase   : Nat
  spad     : List Host.Cell
  tiles    : SMap Word
  turn     : Nat                -- 2 * team + side of the split that holds the turn (R425)
  owed     : Bool               -- the turn passes on once the holder's accesses are performed (R217, R425)
  retired  : BitVec 64
  saving   : Bool               -- a save is under way (R454)
  saveAt   : BitVec 64 := 0     -- the cycle in which it was decided: its teams stop at the end of that cycle (R410)
  saved    : Bool
  claimable : Bool              -- lazily pre-empted, storage still in place (R458)
  refused  : Bool               -- a notice 0x70 was written in this saved period (R459)
  since    : BitVec 64          -- PKG_CYCLE of the placement, the last restore or the last save
  imageAt  : Nat                -- first 4 KiB page of the image in the save area (R457)
  exited   : Bool               -- every team ended; the area is held by operations still (R108)
  futures  : BitVec 64          -- future slots in use (R110)
  placed   : List (Nat × Nat)   -- scratchpad ranges that engines have placed, oldest first (R209)
  deriving DecidableEq, Repr

/-- A value the patch table lays over a literal word (R271, R272). -/
structure Overlay where
  clause : BitVec 56
  slot   : Nat
  value  : Word
  deriving DecidableEq, Repr

/-- An accepted dispatch (R269, R429, R430, R435). -/
structure Dispatch where
  id       : BitVec 64
  cmd      : CmdRef
  seq      : Nat                -- order of acceptance
  prio     : Nat
  ka       : BitVec 56
  param    : BitVec 64
  rows     : Nat
  teams    : Nat
  nv       : Nat
  spBytes  : Nat
  nbar     : Nat
  nacc     : Nat
  ssDepth  : Nat
  cls      : Nat                -- 0 CONC, 1 PAR, 2 WEAK
  ordered  : Bool
  entry    : Nat
  trapDef  : Nat
  nbx      : Nat
  nby      : Nat
  nbz      : Nat
  overlays : List Overlay
  deps     : List (BitVec 64)
  reserved : List Nat           -- cores reserved for the blocks not yet placed (R434)
  next     : Nat                -- lowest block never placed
  live     : Nat                -- blocks placed or saved and not ended
  cores    : List Nat := []     -- cores on which it has had a block (R213, R256)
  faulted  : Bool
  stop     : Option (BitVec 32) -- STATUS of a stop (R449, R472, R475, R476)
  deriving DecidableEq, Repr

/-- A command that has been decoded and is not yet complete: the slot count at which it stood, its 64 bytes as they were
read, and PKG_CYCLE then (R428, R429). -/
structure Cmd where
  k    : BitVec 32
  body : BitVec 512
  at_  : BitVec 64
  pred : Option (BitVec 32) := none   -- the LAUNCH decoded before it in its queue (R430)
  deriving DecidableEq, Repr

/-- A command queue (R427). -/
structure Queue where
  cq   : BitVec 64
  head : BitVec 32
  tail : BitVec 32
  order  : List Cmd              -- commands decoded and not yet complete, oldest first
  page   : Option (BitVec 32)    -- page request that a LAUNCH at the head waits for (R270)
  failed : List Nat              -- pages answered failed for that LAUNCH
  taken  : List (Nat × Nat) := []   -- what it has read by now: which read, and its number (R270)
  launch : Option (BitVec 32) := none   -- the slot count of the last LAUNCH decoded (R430)
  deriving DecidableEq, Repr

/-- A grid slot as the context table shows it (R135), with what Brim keeps of the descriptor. -/
structure GridSlot where
  bound    : Bool
  dva      : BitVec 56
  desc     : BitVec 512
  map      : List (BitVec 128)  -- the entries of the partition map (R130)
  dispatch : BitVec 64
  spoilt   : List Nat           -- own partitions whose step area did not hold zero at the binding (R132)
  releasing : Bool              -- its dispatch has completed; deliveries begun still run (R139)
  deriving DecidableEq, Repr

/-- An open or answered page request (R446). -/
structure PageReq where
  id   : BitVec 32
  seq  : Option (BitVec 32)     -- SEQ of its record, once the record is written
  page : Nat
  answered : Option Bool        -- some true: mapped; some false: failed
  deriving DecidableEq, Repr

/-- A record waiting for the fault ring (R444): its 64 bytes but for SEQ; the Band stop of its source and the split-table
entry that order the records of one cycle (R443); and the page request whose record it is. -/
structure FaultRec where
  stop  : Nat
  entry : Nat
  req   : Option (BitVec 32)
  kind  : BitVec 8
  cause : BitVec 8
  flags : BitVec 16
  team  : BitVec 8
  acc   : BitVec 8
  lane  : BitVec 16
  core  : BitVec 8
  part  : BitVec 8
  disp  : BitVec 64
  block : BitVec 32
  info  : BitVec 32
  pc    : BitVec 64
  addr  : BitVec 64
  info2 : BitVec 64
  cyc   : BitVec 64
  deriving DecidableEq, Repr

/-- A service record waiting for the ring (R402, R404). -/
structure SvcRec where
  split : SplitRef
  code  : BitVec 8
  reg   : Nat
  pc    : BitVec 56
  lanes : LaneMask
  deriving DecidableEq, Repr

/-- A service call recorded and not yet answered (R403): where its lane blocks lie. -/
structure SvcOpen where
  seq   : BitVec 32
  split : SplitRef
  reg   : Nat
  lanes : LaneMask
  pa    : Nat
  deriving DecidableEq, Repr

/-- The buffer-handle table's record of one handle (R430). -/
structure HandleUse where
  writer  : Option (BitVec 64)
  readers : List (BitVec 64)
  deriving DecidableEq, Repr

/-- A context: the registers of the context table (R482) and the launch unit's state for it. -/
structure Ctx where
  ctxtr    : BitVec 64
  ctxfab   : BitVec 32
  cmplpool : BitVec 64
  ctxsched : BitVec 64
  ctxpol   : BitVec 64
  ctxsave  : BitVec 64
  waitlim  : BitVec 64
  spbase   : BitVec 64
  stkbase  : BitVec 64
  svcring  : BitVec 64
  svchead  : BitVec 32
  svctail  : BitVec 32
  svcseq   : BitVec 32
  svcdone  : BitVec 32
  fltring  : BitVec 64
  flthead  : BitVec 32
  flttail  : BitVec 32
  fltseq   : BitVec 32
  teamdisp : BitVec 64
  teamctl  : BitVec 64
  trclc    : BitVec 64
  trclo    : BitVec 64
  trcbc    : BitVec 64
  trcnext  : BitVec 32
  trcdrop  : BitVec 32
  ctxirq   : BitVec 64
  grids    : SMap GridSlot
  queues   : SMap Queue
  events   : SMap (BitVec 64)
  handles  : SMap HandleUse
  slice    : Nat                -- cycles of the time slice used (R437)
  waiting  : Nat                -- cycles its first dispatch has waited (R437)
  pages    : List PageReq
  pageid   : BitVec 32          -- identity given to the next page request
  faultQ   : List FaultRec
  svcQ     : List SvcRec
  svcOpen  : List SvcOpen
  deriving DecidableEq, Repr

/-- One way of a set-associative cache and what it holds. -/
structure CacheWay (α : Type) where
  set : Nat
  way : Nat
  val : α
  deriving DecidableEq, Repr

/-- A set-associative cache: its ways in use, in the order of their filling, and the tree bits of each set's pseudo-LRU, node i
at bit i (R34, R58, R85). -/
structure Cache (α : Type) where
  ways  : List (CacheWay α)
  trees : SMap (BitVec 256)
  deriving DecidableEq, Repr

/-- A cached translation, or a cached table entry (R34, R35). -/
structure TlbEntry where
  asid : BitVec 13
  base : Nat                    -- first VA that it covers
  bits : Nat                    -- log2 of the bytes it covers
  leaf : BitVec 64
  deriving DecidableEq, Repr

/-- A line of a core's L1: its line number, the valid sectors, and the tags and data of its four sectors as they were when the
L1 took them (R85, R87). -/
structure L1Line where
  line  : Nat
  valid : BitVec 4
  tags  : BitVec 16
  data  : BitVec 1024
  deriving DecidableEq, Repr

/-- A line of a slice: its line number and the valid and the dirty bit of each sector. Its data and tags are those of the home
slice, which State holds once (R53, R56). -/
structure L2Line where
  line  : Nat
  valid : BitVec 4
  dirty : BitVec 4
  deriving DecidableEq, Repr

/-- A side-log entry (R451). -/
structure SideEntry where
  core  : Nat
  split : SplitRef
  ctx   : Nat
  lane  : Nat
  pc    : BitVec 56
  ga    : BitVec 64
  size  : Nat
  data  : BitVec 128
  op    : SliceOp
  seq   : BitVec 32
  failed : Bool                 -- it has failed and no instruction has waited for it since (R452)
  deriving DecidableEq, Repr

/-- A registered watch (R63). -/
structure Watch where
  slice : Nat
  on    : WatchOn
  split : SplitRef
  deriving DecidableEq, Repr

/-- The forms of a copy-engine operation (R92). -/
inductive XeKind where
  | copy | copyT | gather | fill
  deriving DecidableEq, Repr

/-- Where a piece of a copy-engine operation goes: the issuing block's scratchpad, a local address, another device's
address with its tag and TC, or the scratchpad of a receiver by its linear block index (R100, R105). -/
inductive XePlace where
  | spad (o : Nat)
  | mem (pa cp : Nat)
  | remote (pa tag : Nat) (tc : Bool)
  | recv (block o : Nat)
  deriving DecidableEq, Repr

/-- A run of consecutive elements read and not yet placed (R101): first element, its address and place. -/
structure XePiece where
  elem  : Nat
  ga    : BitVec 64
  place : XePlace
  own   : Bool                  -- read from the issuing block's scratchpad (R124)
  data  : List Byte
  deriving DecidableEq, Repr

/-- The failure that an operation reports (R112 to R114). -/
structure XeFail where
  status : BitVec 8
  cause  : BitVec 8
  elem   : Nat
  coord  : BitVec 120
  side   : BitVec 3
  addr   : Option (BitVec 64)
  write  : Bool
  deriving DecidableEq, Repr

/-- A copy-engine operation (R92 to R107). -/
structure XeOp where
  id      : Nat
  kind    : XeKind
  team    : TeamKey
  ctx     : Nat
  core    : Nat
  part    : Nat
  entry   : Nat                 -- split-table entry of the start (R443)
  lane    : Nat
  pc      : BitVec 56
  param   : BitVec 64
  member  : Option Nat          -- barrier number (R123)
  future  : Nat                 -- PA of the future object
  handle  : Word
  spBytes : Nat                 -- spbytes and NBAR of the dispatch
  nbar    : Nat
  accepted : Bool
  active  : Bool
  slot    : Nat                 -- active slot
  loaded  : Bool                -- the parameter area has been read (R304)
  src     : BitVec 512
  dst     : BitVec 512
  extra   : BitVec 128          -- multicast, index or fill record (R304)
  count   : Nat                 -- elements N
  next    : Nat                 -- next element to issue
  pieces  : List XePiece        -- issued and not yet placed, oldest first
  recvs   : List Nat            -- receivers by linear block index, in ascending mask-bit order
  got     : SMap Nat            -- bytes placed at each receiver
  sent    : SMap Nat            -- counted stores sent to each device (R174, R177)
  gone    : Bool                -- a receiver has exited (R107)
  table   : List (Nat × BitVec 64)   -- table entries and indices read (R99, R306): 4 * outer coordinate + side, value
  read    : List (Nat × Nat × Nat)   -- bytes read and placed: 0 for memory or block + 1 for a scratchpad, first, bytes (R102)
  wrote   : List (Nat × Nat × Nat)
  parked  : Option (BitVec 32)  -- page request (R115)
  pageFail : List Nat           -- pages answered failed
  fail    : Option XeFail
  placed  : Nat
  cancelled : Bool
  deriving DecidableEq, Repr

/-- A halo exchange and its deliveries (R140). -/
structure Exchange where
  id     : Nat
  team   : TeamKey
  ctx    : Nat
  core   : Nat
  spart  : Nat                  -- scheduler partition, split-table entry and lane of the HSTEP (R443, R444)
  entry  : Nat
  lane   : Nat
  pc     : BitVec 56
  slot   : Nat
  part   : Nat                  -- pidx of the source partition q
  owner  : Nat                  -- its BLOCK
  step   : Word
  future : Option Nat           -- PA of the future; none for an initial exchange (R138)
  handle : Word
  fail   : Option XeFail
  stored : List (Nat × Nat)     -- what programs of the source partition's block have stored meanwhile: VA, bytes (R141)
  placed : Nat                  -- bytes placed
  cancelled : Bool
  deriving DecidableEq, Repr

/-- One delivery of an exchange (R140). -/
structure Delivery where
  id    : Nat
  exch  : Nat
  disp  : BitVec 64
  target : Nat                  -- pidx of t
  slab  : Nat
  begun : Bool
  next  : Nat                   -- elements of the slab already written
  pollAt : BitVec 64
  spoilt : Nat                  -- stores to its source that have made elements UNKNOWN (R141)
  isOver : Bool                 -- its step word is written, or it has failed; its exchange is not over yet
  page   : Option (BitVec 32)   -- page request it waits for
  failed : List Nat             -- pages answered failed
  deriving DecidableEq, Repr

/-- A GBIND request at the launch unit (R136, R137). -/
structure BindReq where
  id    : Nat
  split : SplitRef
  ctx   : Nat
  core  : Nat
  slot  : Nat
  ga    : BitVec 64
  lane  : Nat
  pc    : BitVec 56
  word  : Word
  desc  : Option (BitVec 512)   -- the descriptor and the map, once read (R127, R137)
  map   : Option (List (BitVec 128))
  todo  : List Nat              -- partitions whose initial exchange has not started yet (R138, R144)
  page  : Option (BitVec 32)    -- page request it waits for
  failed : List Nat             -- pages answered failed
  deriving DecidableEq, Repr

/-- A write of the launch unit to a step word that waits for a page request (R38, R515). -/
structure StepPend where
  ctx   : Nat
  disp  : BitVec 64
  block : Nat
  ga    : BitVec 64
  val   : Nat
  req   : BitVec 32
  deriving DecidableEq, Repr

/-- The matrix operations (R355). -/
inductive MqKind where
  | mma (fmt : Nat) (joint : Bool)     -- format 0 E4M3, 1 E5M2, 2 BF16, 3 FP16, 4 S8, 5 4-bit block
  | zero | load | drain | drainT
  deriving DecidableEq, Repr

/-- A matrix operation from acceptance to its end (R362, R365, R368). -/
structure MqOp where
  id    : Nat
  kind  : MqKind
  split : SplitRef
  core  : Nat
  quad  : Nat
  part  : Nat
  accepted : Bool
  started  : Bool
  matched  : Bool
  count : Nat                   -- n of R368
  rows  : LaneMask              -- the active lanes that own rows
  active : LaneMask             -- active set
  mod0  : Word
  mod1  : Word
  aOff  : Nat
  bReg  : Nat
  ga    : BitVec 64
  ga2   : BitVec 64
  pc    : BitVec 56
  word  : Word
  age   : BitVec 64             -- PKG_CYCLE of acceptance or match
  flight : Nat                  -- the operation in flight of its team
  free  : Bool                  -- what it reads besides registers is UNKNOWN: A, or the bytes of a row operation (R209, R376)
  raced : List Nat              -- operand registers that were not made ready at its issue (R209)
  waited : Nat                  -- cycles of its rendezvous so far, and their bound (R370)
  limit  : Nat
  held  : Bool                  -- a drain or MLDACC held by the quadrant (R375, R377)
  page  : List (BitVec 32)      -- page requests it waits for
  failed : List Nat             -- pages answered failed
  deriving DecidableEq, Repr

/-- A cached BBHINT counter: its context, the BBBASE it was counted under and its number (R409). -/
structure BbCounter where
  ctx   : Nat
  base  : BitVec 64
  n     : Nat
  count : BitVec 64
  deriving DecidableEq, Repr

/-- Per-core state: CSRAMCFG, the L1 and the instruction cache, the XE activation order, the BBHINT and lane-cycle caches, the
trace slot, the rotating pointers of the quadrants (R80, R85, R94, R256, R365, R409, R504, R505). -/
structure Core where
  csramcfg : Word
  l1       : Cache L1Line
  icache   : SMap (Option Word)         -- code words by their address divided by 4, as they were fetched (R256)
  xeRot    : Nat                -- partition whose start the copy engine takes first (R93)
  xeTurn   : Nat                -- active slot that issues next (R94)
  mqRot    : SMap Nat
  bbhint   : SMap (Option BbCounter)    -- the 256 cached counters by place
  bbtree   : BitVec 256                 -- the tree bits of their pseudo-LRU, node i at bit i
  lanecyc  : List (Nat × Nat × BitVec 64)               -- context, counter index, count
  traceAt  : BitVec 64
  traced   : Bool
  removed  : Bool
  deriving DecidableEq, Repr

/-- Who reads remote bytes piece by piece: a held instruction, a lane of a held load, a copy-engine operation or a binding (R168,
R288). -/
inductive FetchFor where
  | split (r : SplitRef)
  | lane (r : SplitRef) (l : Nat)
  | engine (op : Nat)
  | bind (op : Nat)
  deriving DecidableEq, Repr

/-- A piece that has come back: its physical address and its bytes, or the cause of its failure (0 for none). -/
structure Fetched where
  who   : FetchFor
  pa    : Nat
  val   : Nat
  cause : BitVec 8
  deriving DecidableEq, Repr

/-- Who waits for the response to a request of this device (R168, R172, R179). -/
inductive Waiter where
  | team (split : SplitRef) (lanes : List Nat) (vals : List (BitVec 64)) (code regs flight : Nat) (pc : BitVec 56)
      (ga : BitVec 64) (acc : BitVec 8)       -- a combined group: lanes ascending, their operands
  | close (team : TeamKey) (stream : Nat)     -- a RELEASE or CLOSE of a stream that no lane waits for
  | counter (ctx : Nat) (base : BitVec 64)    -- the write-back of a BBHINT counter (R409)
  | engine (op : Nat) (elem : Nat)            -- a piece of a copy-engine operation
  | brim (dlv : Nat) (elem : Nat)             -- an element of a delivery's slab, or its step word or close
  | mcast (ctx : Nat) (future : Nat) (split : SplitRef)   -- the future of an RMCAST
  | fetch (who : FetchFor) (pa : Nat)         -- a piece of a record, a descriptor or a table
  deriving DecidableEq, Repr

/-- A request of this device without a response (R180). -/
structure OutReq where
  dev    : BitVec 8
  reqid  : BitVec 16
  packet : Packet
  waiter : Waiter
  num    : Nat                  -- order of the requests
  queued : Bool                 -- not yet sent: an earlier access of the team to the line is outstanding (R169)
  room   : Bool                 -- not yet sent: the remote-line table is full (R169)
  tries  : Nat
  sent   : BitVec 64            -- cycle of the last sending
  busyAt : Option (BitVec 64)   -- cycle of a BUSY response (R176)
  write  : Bool
  deriving DecidableEq, Repr

/-- A packet in the queue of a fabric port, and the input by which it came: a port, or 30 for this device's own (R164, R165, R167). -/
structure PortPkt where
  port  : Nat
  pkt   : Packet
  inp   : Nat := 30
  since : BitVec 64             -- cycle at which it reached the head of its queue
  deriving DecidableEq, Repr

/-- An entry of the stream table (R176): key, counted stores settled, and the RELEASE or CLOSE held. -/
structure StreamEntry where
  src   : BitVec 8
  asid  : BitVec 13
  engf  : Bool
  tslot : BitVec 15
  stream : BitVec 4
  epoch : BitVec 8
  count : BitVec 32
  held  : Option Packet
  deriving DecidableEq, Repr

/-- A packet of the package network: where it stands and where it goes (R66 to R69). Layer 0 compute, 1 cache; a node is
quarter, x, y, layer; the switch is `none`. -/
structure NetPkt where
  cls  : BitVec 2
  at_  : Option (Nat × Nat × Nat × Nat)
  dest : Option (Nat × Nat × Nat × Nat)
  src  : Nat                    -- source quarter, 4 for the I/O die
  second : Bool                 -- on the second virtual channel (after the switch)
  inp    : Nat                  -- input of the router by which it came: up, north, east, south, west, bridge, local (R57)
  req  : SliceReq
  deriving DecidableEq, Repr

/-- A posted write at the ingress sequencer (R76): pieces not yet placed. -/
structure Posted where
  fn     : Nat
  num    : Nat
  pieces : List (Nat × List Byte)
  sent   : Bool
  reg    : Option Tlp           -- a register write that waits for the earlier ones
  deriving DecidableEq, Repr

/-- An arrival stamped by a gate and not yet delivered (R489). -/
structure Stamped where
  cyc : BitVec 64
  ph  : Bool
  arr : Arrival
  deriving DecidableEq, Repr

/-- A Cuff gate's registers and queue (R489, R492). -/
structure Gate where
  cfg   : Word
  log   : BitVec 64
  pos   : BitVec 64
  endAt : BitVec 64
  lost  : BitVec 64
  mode  : BitVec 2              -- MODE in force (R492)
  due   : Bool                  -- MODE has been written and takes effect at the next multiple of 1,024 cycles
  replayed : Bool             -- the gate's replay has ended (R496)
  staged : List Byte            -- records not yet moved to the region (R493)
  queue : List Stamped
  deriving DecidableEq, Repr

/-- An out-of-service map entry (R481). -/
structure OutOfService where
  u   : HealthUnit
  cyc : BitVec 64
  deriving DecidableEq, Repr

/-- Corrected errors of a unit: this window's count, its locations and those of the last window (R474). -/
structure ErrCount where
  u     : HealthUnit
  count : Nat
  here  : List Nat
  last  : List Nat
  lasting : Bool
  deriving DecidableEq, Repr

/-- An answer to the host: a read completion, Completer Abort, Unsupported Request, an attestation report, an interrupt
message with the cycle it is sent in, or the code of an interrupt that came by Band (R77, R90, R468, R472, R480, R484). -/
inductive HostOut where
  | completion (fn : Nat) (data : List Byte) (poisoned : Bool)
  | abort (fn : Nat)
  | unsupported (fn : Nat)
  | report (body : List Byte) (signature : List Byte)
  | msix (fn : Nat) (vector : Nat) (cyc : BitVec 64)
  | bandCode (source : BitVec 10) (code : BitVec 32)
  deriving DecidableEq, Repr

/-- The deterministic domain outside HBM (R488): what Visor scans (R499). -/
structure Domain where
  cycle     : BitVec 64
  taking    : Bool                             -- the events of the cycle are over; its pipes take splits next (R417)
  network   : List NetPkt
  arb       : SMap Nat                         -- round-robin pointers of the network's outputs (R70)
  band      : List (BandMsg × BitVec 10)      -- message and the stop it stands at (R88)
  bandWait  : List BandMsg                    -- messages that wait for empty slots at their source (R89)
  teams     : List Team
  blocks    : List Block
  dispatches : List Dispatch
  ctxs      : SMap Ctx
  cores     : SMap Core
  stamps    : SMap (BitVec 64)                -- stamp counter of partition 12 * core + p (R416)
  tlb       : SMap (Cache TlbEntry)           -- translation caches by the number of tlbName (R34)
  slices    : SMap (Cache L2Line)             -- L2 slices by slice number (R53)
  stale     : List (BitVec 13)
  watches   : List Watch
  sideLog   : List SideEntry
  xeOps     : List XeOp
  exchanges : List Exchange
  deliveries : List Delivery
  binds     : List BindReq
  stepPend  : List StepPend                    -- writes of step words that wait for a page, oldest first (R515)
  mqOps     : List MqOp
  nextOp    : Nat                              -- identity given to the next operation
  accepted  : Nat                              -- dispatches accepted so far
  placePtr  : SMap Nat                         -- rotating core pointer of the partition of a lowest quarter (R435)
  decodePtr : Nat                              -- rotating (context, queue) pointer (R428)
  posted    : List Posted
  postedNum : Nat
  hostReads : List (Nat × Nat × Nat × Nat)     -- function, address, bytes, posted writes before it (R77)
  flushes   : List (Nat × SplitRef)            -- flushing reads behind a release at sys (R211)
  refreshed : SMap (BitVec 64)                 -- last refresh of a pseudo-channel (R74)
  patrol    : Nat                              -- next line of the patrol (R75)
  fabcfg    : BitVec 64
  fabrte    : Word
  fabqos    : Word
  fabrto    : Word
  fabofs    : BitVec 64
  fabtstat  : Word
  fabacl    : SMap (BitVec 64)
  peerInc   : SMap (BitVec 16)
  peerDown  : List (BitVec 8)
  linksUp   : List Nat
  outReqs   : List OutReq
  fetched   : List Fetched
  reqNum    : Nat                              -- order given to the next request
  reqIds    : SMap (BitVec 16)
  replies   : List (BitVec 8 × BitVec 16 × Packet)   -- reply cache, newest first (R181)
  streamTab : List StreamEntry
  outbox    : List (Nat × Packet)              -- port and packet handed to the link (R160, R162)
  portQ     : List PortPkt                     -- packets in the ports' queues, oldest first (R164)
  drr       : SMap Nat                         -- of port p and class k: flits left under 8 * p + k, class under 8 * p + 4, input pointer under 8 * p + 5 (R70, R167)
  occs      : SMap Nat                         -- flits in the ports' queues at the end of the last cycle (R162)
  portMap   : SMap (BitVec 30)                 -- PORTEN of the other devices (R162)
  timexSent : Option (Nat × BitVec 64)         -- count exchange under way: port and t1 (R185)
  timexDue  : List (Nat × BitVec 64)           -- exchanges not yet answered: port and t2 (R185)
  portErrs  : SMap Nat
  memil     : SMap Word
  netbnd    : SMap Word
  pwrgate   : Word
  thold     : Word
  wakeAt    : SMap (BitVec 64)                 -- cycle at which a woken quarter accepts traffic (R91)
  tholdAt   : SMap (BitVec 64)                 -- cycle at which THOLD clears after ungating (R472)
  routersAwake : List (BitVec 10)              -- network interfaces sent a wake (R90)
  agenda    : List Event                       -- steps that follow from earlier ones, oldest first
  event     : Option Event                     -- what the step under way acts on, for steps without an encoding
  issueQ    : List SplitRef                    -- splits taken in this cycle and not yet issued (R417)
  fresh     : Nat                              -- free values drawn so far
  gates     : SMap Gate
  logovf    : Word
  deriving DecidableEq, Repr

/-- The state of the Z9. Memory is local address and byte, host window included (R17); tags and poison by sector. -/
structure State extends Domain where
  mem       : List Host.Cell
  tags      : SMap (BitVec 4)
  poison    : SMap Bool
  inbox     : List Event                       -- inputs from outside, oldest first
  hostOut   : List HostOut
  msixTab   : SMap Byte                        -- bytes of BAR 4 of function f under 65536 * f + offset (R480)
  -- the management controller and what lies outside the domain (R488)
  partreq   : Word
  partstat  : Word
  startstat : Word
  recovctl  : BitVec 64
  recovstat : Word
  image     : SMap Byte                        -- stored firmware image (R486)
  imageLen  : Nat                              -- its length, as the last verification was told
  running   : SMap Byte                        -- running firmware image
  fabinc    : BitVec 16
  hlthcfg   : Word
  thermcfg  : Word
  thermstat : Word
  gating    : List Nat                         -- lowest quarters of partitions whose gating is under way (R472)
  oosMap    : List OutOfService
  errs      : List ErrCount
  banderr   : Word
  mbaddr    : Word
  mbdata    : BitVec 64
  mbstat    : Word
  attest    : SMap Nat                         -- derivations of a partition's key, by its quarters (R469)
  stopat    : BitVec 64
  stopctl   : Word
  visorctl  : Word
  visorimg  : BitVec 64
  scan      : Option (Domain × BitVec 256)     -- image and firmware hash (R499)
  starts    : Nat                              -- starts since power-on
  linkSeq   : SMap Nat                         -- link-layer resends of a port (R156)
  resent    : List (Nat × Nat × BitVec 256)    -- flits sent again: port, sequence number, flit (R156)
  deriving DecidableEq, Repr

/-- A context entry at reset (R482). (DESIGN CHOICE, log 10) -/
def Ctx.reset : Ctx :=
  { ctxtr := 0, ctxfab := 0, cmplpool := 0, ctxsched := 0x1000, ctxpol := 0, ctxsave := 0, waitlim := 0x10000000,
    spbase := 0, stkbase := 0, svcring := 0, svchead := 0, svctail := 0, svcseq := 0, svcdone := 0, fltring := 0,
    flthead := 0, flttail := 0, fltseq := 0, teamdisp := 0, teamctl := 0, trclc := 0x0200000000000000, trclo := 0,
    trcbc := 0x2000000000000000, trcnext := 0, trcdrop := 0, ctxirq := 0, grids := [], queues := [], events := [],
    handles := [], slice := 0, waiting := 0, pages := [], pageid := 0, faultQ := [], svcQ := [], svcOpen := [] }

/-- A cache with nothing in it. (DESIGN CHOICE, log 10) -/
def Cache.empty {α : Type} : Cache α := { ways := [], trees := [] }

/-- A core at reset (R80). (DESIGN CHOICE, log 10) -/
def Core.reset : Core :=
  { csramcfg := 0, l1 := Cache.empty, icache := [], xeRot := 0, xeTurn := 0, mqRot := [], bbhint := [], bbtree := 0, lanecyc := [], traceAt := 0, traced := false,
    removed := false }

/-- A command queue at reset (R427). (DESIGN CHOICE, log 10) -/
def Queue.reset : Queue :=
  { cq := 0, head := 0, tail := 0, order := [], page := none, failed := [] }

/-- A grid slot at reset: unbound (R135). (DESIGN CHOICE, log 10) -/
def GridSlot.reset : GridSlot := { bound := false, dva := 0, desc := 0, map := [], dispatch := 0, spoilt := [], releasing := false }

/-- A gate at reset (R492). (DESIGN CHOICE, log 10) -/
def Gate.reset : Gate :=
  { cfg := 0, log := 0, pos := 0, endAt := 0, lost := BitVec.allOnes 64, mode := 0, due := false, replayed := false, staged := [], queue := [] }

/-- A release stream at a team's start (R173). (DESIGN CHOICE, log 10) -/
def Stream.reset : Stream := { valid := false, target := 0, epoch := 0, count := 0 }

/-- MODE at reset: TYPE 0x10, every other field zero (R228). -/
def modeReset : Word := 0x00000100

/-- The domain right after reset: nothing is resident, every context is disabled (R3, R516). (DESIGN CHOICE, log 10) -/
def Domain.reset : Domain :=
  { cycle := 0, taking := false, network := [], arb := [], band := [], bandWait := [], teams := [], blocks := [], dispatches := [], ctxs := [], cores := [],
    stamps := [], tlb := [], slices := [], stale := [], watches := [], sideLog := [], xeOps := [], exchanges := [],
    deliveries := [], binds := [], stepPend := [], mqOps := [], nextOp := 0, accepted := 0, placePtr := [], decodePtr := 0,
    posted := [], postedNum := 0, hostReads := [], flushes := [], refreshed := [], patrol := 0, fabcfg := 0,
    fabrte := 0x00011040, fabqos := 0x08080808, fabrto := 0x03100000, fabofs := 0, fabtstat := 0, fabacl := [],
    peerInc := [], peerDown := [], linksUp := [], outReqs := [], fetched := [], reqNum := 0, reqIds := [], replies := [], streamTab := [],
    outbox := [], portQ := [], drr := [], occs := [], portMap := [], timexSent := none, timexDue := [], portErrs := [], memil := [], netbnd := [], pwrgate := 0, thold := 0, wakeAt := [],
    tholdAt := [], routersAwake := [], agenda := [], event := none, issueQ := [], fresh := 0, gates := [], logovf := 0 }

/-- The Z9 right after its first reset: Stage A has not run (R470). (DESIGN CHOICE, log 10) -/
def State.reset : State :=
  { Domain.reset with
    mem := [], tags := [], poison := [], inbox := [], hostOut := [], msixTab := [], partreq := 0, partstat := 0, startstat := 0,
    recovctl := 0, recovstat := 0, image := [], imageLen := 0, running := [], fabinc := 0, hlthcfg := 16, thermcfg := 0x0005695F,
    thermstat := 0, gating := [], oosMap := [], errs := [], banderr := 0, mbaddr := 0, mbdata := 0, mbstat := 0, attest := [],
    stopat := 0, stopctl := 0, visorctl := 0, visorimg := 0, scan := none, starts := 0, linkSeq := [], resent := [] }

end Sys2Proof.Machine
end

