-- ==== Sys2Proof/Machine/Cache.lean ====
section
/-! DEFINITION. Set-associative caches with tree pseudo-LRU replacement: finding, touching, filling and dropping (R34, R58, R85,
R409). The L1 of a core, the slices, the translation caches and the walk caches are kept so. -/
namespace Sys2Proof.Machine

/-- Points the tree bits on the path to leaf `k` away from it: node 1 is the root, node `i` has the children 2i and
2i + 1. (DEDUCED, log 24) -/
def plruTouch (k : Nat) : Nat → Nat → BitVec 256 → BitVec 256
  | 0, _, tr => tr
  | lv + 1, node, tr =>
    let b := k / 2 ^ lv % 2
    let m := BitVec.ofNat 256 (2 ^ node)
    plruTouch k lv (2 * node + b) (if b = 0 then tr ||| m else tr &&& ~~~m)

/-- Points the tree bits on the path to leaf `k` at it, so that it is the next victim (R58). -/
def plruPoint (k : Nat) : Nat → Nat → BitVec 256 → BitVec 256
  | 0, _, tr => tr
  | lv + 1, node, tr =>
    let b := k / 2 ^ lv % 2
    let m := BitVec.ofNat 256 (2 ^ node)
    plruPoint k lv (2 * node + b) (if b = 0 then tr &&& ~~~m else tr ||| m)

/-- The leaf that the tree bits lead to. (DEDUCED, log 24) -/
def plruVictim (tr : BitVec 256) : Nat → Nat → Nat → Nat
  | 0, _, acc => acc
  | lv + 1, node, acc =>
    let b := (tr.getLsbD node).toNat
    plruVictim tr lv (2 * node + b) (2 * acc + b)

/-- The way whose content `p` picks. -/
def cacheFind {α : Type} (c : Cache α) (p : α → Bool) : Option (CacheWay α) := c.ways.find? (fun w => p w.val)

/-- Changes the tree bits of a set. -/
def cacheTree {α : Type} (c : Cache α) (set : Nat) (f : BitVec 256 → BitVec 256) : Cache α :=
  { c with trees := mapSet 0 c.trees set (f (mapGet 0 c.trees set)) }

/-- A way of `2 ^ lv` in a set has been used. -/
def cacheTouch {α : Type} (lv : Nat) (w : CacheWay α) (c : Cache α) : Cache α := cacheTree c w.set (plruTouch w.way lv 1)

/-- The way that a set of `2 ^ lv` ways gives to a new content: the lowest empty one, else the victim of its tree. (DEDUCED, log 81) -/
def cacheVictim {α : Type} (lv set : Nat) (c : Cache α) : Nat :=
  let used := (c.ways.filter (fun w => decide (w.set = set))).map (·.way)
  ((List.range (2 ^ lv)).find? (fun i => !used.contains i)).getD (plruVictim (mapGet 0 c.trees set) lv 1 0)

/-- Fills a way of a set: what stood there is gone. The way counts as used, or with `low` it is the next victim (R58). -/
def cacheFill {α : Type} (lv set : Nat) (low : Bool) (v : α) (c : Cache α) : Cache α :=
  let k := cacheVictim lv set c
  cacheTree { c with ways := c.ways.filter (fun w => !(decide (w.set = set) && decide (w.way = k))) ++ [{ set := set, way := k, val := v }] }
    set (if low then plruPoint k lv 1 else plruTouch k lv 1)

/-- Replaces the content of the ways that `p` picks; a content that becomes none leaves its way empty. -/
def cacheMap {α : Type} (c : Cache α) (p : α → Bool) (f : α → Option α) : Cache α :=
  { c with ways := c.ways.filterMap (fun w => if p w.val then (f w.val).map (fun v => { w with val := v }) else some w) }

/-- Drops the ways whose content `p` picks. -/
def cacheDrop {α : Type} (c : Cache α) (p : α → Bool) : Cache α := { c with ways := c.ways.filter (fun w => !p w.val) }

end Sys2Proof.Machine
end

