-- ==== Sys2Proof/Machine/Fields.lean ====
section
/-! DEFINITION. The four bytes of every instruction form: opcode and the DST, SRCA and SRCB fields of R263. -/
namespace Sys2Proof.Forms

/-- The bytes of an instruction word (R263). -/
structure Fields where
  op : BitVec 8
  d  : BitVec 8
  a  : BitVec 8
  b  : BitVec 8
  deriving DecidableEq, Repr

/-- The fields of an instruction form by its entry; the operations and events have none. -/
def fieldsOf : Instr → Option Fields
  | .nop => some ⟨0x00, 0x00, 0x00, 0x00⟩
  | .bra b => some ⟨0x01, 0x00, 0x00, b⟩
  | .brp d a b => some ⟨0x02, d, a, b⟩
  | .brany a b => some ⟨0x03, 0x00, a, b⟩
  | .brall a b => some ⟨0x04, 0x00, a, b⟩
  | .join => some ⟨0x05, 0x00, 0x00, 0x00⟩
  | .btbl a => some ⟨0x06, 0x00, a, 0x00⟩
  | .call d b => some ⟨0x07, d, 0x00, b⟩
  | .calli d a => some ⟨0x08, d, a, 0x00⟩
  | .ret a => some ⟨0x09, 0x00, a, 0x00⟩
  | .exit => some ⟨0x0A, 0x00, 0x00, 0x00⟩
  | .modeset a b => some ⟨0x0B, 0x00, a, b⟩
  | .modegrd a b => some ⟨0x0C, 0x00, 0xC0 ||| a.setWidth 8, b.setWidth 8⟩
  | .modetyp a => some ⟨0x0D, 0x00, a.setWidth 8, 0x00⟩
  | .modernd a => some ⟨0x0E, 0x00, a.setWidth 8, 0x00⟩
  | .yield => some ⟨0x0F, 0x00, 0x00, 0x00⟩
  | .iadd d a b => some ⟨0x10, d, a, b⟩
  | .isub d a b => some ⟨0x11, d, a, b⟩
  | .imul d a b => some ⟨0x12, d, a, b⟩
  | .imulh d a b => some ⟨0x13, d, a, b⟩
  | .imad d a b => some ⟨0x14, d, a, b⟩
  | .idiv d a b => some ⟨0x15, d, a, b⟩
  | .irem d a b => some ⟨0x16, d, a, b⟩
  | .imin d a b => some ⟨0x17, d, a, b⟩
  | .imax d a b => some ⟨0x18, d, a, b⟩
  | .iabs d a => some ⟨0x19, d, a, 0x00⟩
  | .ineg d a => some ⟨0x1A, d, a, 0x00⟩
  | .and d a b => some ⟨0x1B, d, a, b⟩
  | .or d a b => some ⟨0x1C, d, a, b⟩
  | .xor d a b => some ⟨0x1D, d, a, b⟩
  | .andn d a b => some ⟨0x1E, d, a, b⟩
  | .not d a => some ⟨0x1F, d, a, 0x00⟩
  | .shl d a b => some ⟨0x20, d, a, b⟩
  | .shr d a b => some ⟨0x21, d, a, b⟩
  | .sar d a b => some ⟨0x22, d, a, b⟩
  | .rol d a b => some ⟨0x23, d, a, b⟩
  | .popc d a => some ⟨0x24, d, a, 0x00⟩
  | .clz d a => some ⟨0x25, d, a, 0x00⟩
  | .ctz d a => some ⟨0x26, d, a, 0x00⟩
  | .brev d a => some ⟨0x27, d, a, 0x00⟩
  | .bfx d a b => some ⟨0x28, d, a, b⟩
  | .bfi d a b => some ⟨0x29, d, a, b⟩
  | .sel d a b => some ⟨0x2A, d, a, b⟩
  | .mov d a => some ⟨0x2B, d, a, 0x00⟩
  | .icmpeq d a b => some ⟨0x2C, d, a, b⟩
  | .icmpne d a b => some ⟨0x2D, d, a, b⟩
  | .icmplt d a b => some ⟨0x2E, d, a, b⟩
  | .icmple d a b => some ⟨0x2F, d, a, b⟩
  | .icmpgt d a b => some ⟨0x30, d, a, b⟩
  | .icmpge d a b => some ⟨0x31, d, a, b⟩
  | .iadd64 d a b => some ⟨0x32, d, a, b⟩
  | .isub64 d a b => some ⟨0x33, d, a, b⟩
  | .adda d a b => some ⟨0x34, d, a, b⟩
  | .tagset d a b => some ⟨0x35, d, a, b⟩
  | .tagget d a => some ⟨0x36, d, a, 0x00⟩
  | .bdmake d a b => some ⟨0x37, d, a, b⟩
  | .bdnarrow d a b => some ⟨0x38, d, a, b⟩
  | .bdquery d a b => some ⟨0x39, d, a, b⟩
  | .fadd d a b => some ⟨0x40, d, a, b⟩
  | .fsub d a b => some ⟨0x41, d, a, b⟩
  | .fmul d a b => some ⟨0x42, d, a, b⟩
  | .fma d a b => some ⟨0x43, d, a, b⟩
  | .fms d a b => some ⟨0x44, d, a, b⟩
  | .fnma d a b => some ⟨0x45, d, a, b⟩
  | .fmin d a b => some ⟨0x46, d, a, b⟩
  | .fmax d a b => some ⟨0x47, d, a, b⟩
  | .fminm d a b => some ⟨0x48, d, a, b⟩
  | .fmaxm d a b => some ⟨0x49, d, a, b⟩
  | .fabs d a => some ⟨0x4A, d, a, 0x00⟩
  | .fneg d a => some ⟨0x4B, d, a, 0x00⟩
  | .fcopysign d a b => some ⟨0x4C, d, a, b⟩
  | .fcmpeq d a b => some ⟨0x4D, d, a, b⟩
  | .fcmpne d a b => some ⟨0x4E, d, a, b⟩
  | .fcmplt d a b => some ⟨0x4F, d, a, b⟩
  | .fcmple d a b => some ⟨0x50, d, a, b⟩
  | .fcmpun d a b => some ⟨0x51, d, a, b⟩
  | .fclass d a => some ⟨0x52, d, a, 0x00⟩
  | .frcp d a => some ⟨0x53, d, a, 0x00⟩
  | .frsq d a => some ⟨0x54, d, a, 0x00⟩
  | .fsqrt d a => some ⟨0x55, d, a, 0x00⟩
  | .fdiv d a b => some ⟨0x56, d, a, b⟩
  | .fexp2 d a => some ⟨0x57, d, a, 0x00⟩
  | .flog2 d a => some ⟨0x58, d, a, 0x00⟩
  | .fsin d a => some ⟨0x59, d, a, 0x00⟩
  | .fcos d a => some ⟨0x5A, d, a, 0x00⟩
  | .ftanh d a => some ⟨0x5B, d, a, 0x00⟩
  | .ffloor d a => some ⟨0x5C, d, a, 0x00⟩
  | .fceil d a => some ⟨0x5D, d, a, 0x00⟩
  | .ftrunc d a => some ⟨0x5E, d, a, 0x00⟩
  | .frint d a => some ⟨0x5F, d, a, 0x00⟩
  | .fldexp d a b => some ⟨0x60, d, a, b⟩
  | .fgetexp d a => some ⟨0x61, d, a, 0x00⟩
  | .fdot2 d a b => some ⟨0x62, d, a, b⟩
  | .fdot4 d a b => some ⟨0x63, d, a, b⟩
  | .cvtff d a b => some ⟨0x70, d, a, b⟩
  | .cvtfi d a b => some ⟨0x71, d, a, b⟩
  | .cvtif d a b => some ⟨0x72, d, a, b⟩
  | .cvtii d a b => some ⟨0x73, d, a, b⟩
  | .qpack d a b => some ⟨0x74, d, a, b⟩
  | .qunpack d a b => some ⟨0x75, d, a, b⟩
  | .scalemake d a b => some ⟨0x76, d, a, b⟩
  | .pack2 d a b => some ⟨0x77, d, a, b⟩
  | .srseed a => some ⟨0x78, 0x00, a, 0x00⟩
  | .qswapx d a => some ⟨0x80, d, a, 0x00⟩
  | .qswapy d a => some ⟨0x81, d, a, 0x00⟩
  | .qswapd d a => some ⟨0x82, d, a, 0x00⟩
  | .qbcast d a b => some ⟨0x83, d, a, b⟩
  | .lshfl d a b => some ⟨0x84, d, a, b⟩
  | .lshflup d a b => some ⟨0x85, d, a, b⟩
  | .lshfldn d a b => some ⟨0x86, d, a, b⟩
  | .lbcast d a b => some ⟨0x87, d, a, b⟩
  | .lvote d a b => some ⟨0x88, d, a, b⟩
  | .lpopc d a => some ⟨0x89, d, a, 0x00⟩
  | .lscan d a b => some ⟨0x8A, d, a, b⟩
  | .lred d a b => some ⟨0x8B, d, a, b⟩
  | .lfirst d a => some ⟨0x8C, d, a, 0x00⟩
  | .lmatch d a => some ⟨0x8D, d, a, 0x00⟩
  | .rdlane d a b => some ⟨0x8E, d, a, b⟩
  | .wrlane d a b => some ⟨0x8F, d, a, b⟩
  | .ld d a b => some ⟨0x90, d, a, b⟩
  | .st d a b => some ⟨0x91, d, a, b⟩
  | .ldb d a b => some ⟨0x92, d, a, b⟩
  | .ldbz d a b => some ⟨0x93, d, a, b⟩
  | .stb d a b => some ⟨0x94, d, a, b⟩
  | .lds d a b => some ⟨0x95, d, a, b⟩
  | .sts d a b => some ⟨0x96, d, a, b⟩
  | .ldacq d a b => some ⟨0x97, d, a, b⟩
  | .strel d a b => some ⟨0x98, d, a, b⟩
  | .ldnt d a b => some ⟨0x99, d, a, b⟩
  | .pref a b => some ⟨0x9A, 0x00, a, b⟩
  | .cctl a b => some ⟨0x9B, 0x00, a, b⟩
  | .sttag d a => some ⟨0x9C, d, a, 0x00⟩
  | .ldtag d a => some ⟨0x9D, d, a, 0x00⟩
  | .ldsc d a b => some ⟨0x9E, d, a, b⟩
  | .aadd d a b => some ⟨0xA0, d, a, b⟩
  | .amin d a b => some ⟨0xA1, d, a, b⟩
  | .amax d a b => some ⟨0xA2, d, a, b⟩
  | .aand d a b => some ⟨0xA3, d, a, b⟩
  | .aor d a b => some ⟨0xA4, d, a, b⟩
  | .axor d a b => some ⟨0xA5, d, a, b⟩
  | .axchg d a b => some ⟨0xA6, d, a, b⟩
  | .acas d a b => some ⟨0xA7, d, a, b⟩
  | .afadd d a b => some ⟨0xA8, d, a, b⟩
  | .redadd a b => some ⟨0xB0, 0x00, a, b⟩
  | .redmin a b => some ⟨0xB1, 0x00, a, b⟩
  | .redmax a b => some ⟨0xB2, 0x00, a, b⟩
  | .redand a b => some ⟨0xB3, 0x00, a, b⟩
  | .redor a b => some ⟨0xB4, 0x00, a, b⟩
  | .redxor a b => some ⟨0xB5, 0x00, a, b⟩
  | .redfadd a b => some ⟨0xB6, 0x00, a, b⟩
  | .fence b => some ⟨0xB8, 0x00, 0x00, b⟩
  | .waiteq d a b => some ⟨0xB9, d, a, b⟩
  | .waitne d a b => some ⟨0xBA, d, a, b⟩
  | .xcopy d a b => some ⟨0xC0, d, a, b⟩
  | .xcopyt d a b => some ⟨0xC1, d, a, b⟩
  | .xgather d a b => some ⟨0xC2, d, a, b⟩
  | .xfill d a b => some ⟨0xC3, d, a, b⟩
  | .gbind d a => some ⟨0xC4, d.setWidth 8, a, 0x00⟩
  | .hld d a b => some ⟨0xC5, d, a, b⟩
  | .hstep d a b => some ⟨0xC6, d, a, b.setWidth 8⟩
  | .hquery d a b => some ⟨0xC7, d, a, b.setWidth 8⟩
  | .rstrel d a b => some ⟨0xC8, d, a, b⟩
  | .rmcast d a => some ⟨0xC9, d, a, 0x00⟩
  | .rfence => some ⟨0xCA, 0x00, 0x00, 0x00⟩
  | .rstream a b => some ⟨0xCB, 0x00, a, b⟩
  | .mmae4 d a b => some ⟨0xD0, d, a, b⟩
  | .mmae5 d a b => some ⟨0xD1, d, a, b⟩
  | .mmabf d a b => some ⟨0xD2, d, a, b⟩
  | .mmahf d a b => some ⟨0xD3, d, a, b⟩
  | .mmas8 d a b => some ⟨0xD4, d, a, b⟩
  | .mmaq4 d a b => some ⟨0xD5, d, a, b⟩
  | .mmqe4 d a b => some ⟨0xD6, d, a, b⟩
  | .mmqe5 d a b => some ⟨0xD7, d, a, b⟩
  | .mmqbf d a b => some ⟨0xD8, d, a, b⟩
  | .mmqhf d a b => some ⟨0xD9, d, a, b⟩
  | .mmqs8 d a b => some ⟨0xDA, d, a, b⟩
  | .mmqq4 d a b => some ⟨0xDB, d, a, b⟩
  | .mzero d => some ⟨0xDC, d.setWidth 8, 0x00, 0x00⟩
  | .mldacc d a b => some ⟨0xDD, d, a, b⟩
  | .mdrain d a b => some ⟨0xDE, d, a, b⟩
  | .mdraint d a b => some ⟨0xDF, d, a, b⟩
  | .barinit d a => some ⟨0xE0, d.setWidth 8, a, 0x00⟩
  | .bararv d a => some ⟨0xE1, d.setWidth 8, a.setWidth 8, 0x00⟩
  | .barexp d a => some ⟨0xE2, d.setWidth 8, a, 0x00⟩
  | .barwait d a b => some ⟨0xE3, d.setWidth 8, a, b.setWidth 8⟩
  | .bartest d a b => some ⟨0xE4, d, a.setWidth 8, b⟩
  | .fwait d a b => some ⟨0xE5, d, a, b.setWidth 8⟩
  | .ftest d a b => some ⟨0xE6, d, a, b.setWidth 8⟩
  | .fcancel a => some ⟨0xE7, 0x00, a, 0x00⟩
  | .mready => some ⟨0xE8, 0x00, 0x00, 0x00⟩
  | .sleep a => some ⟨0xE9, 0x00, a, 0x00⟩
  | .trap a => some ⟨0xF0, 0x00, a, 0x00⟩
  | .svc d a => some ⟨0xF1, d, a, 0x00⟩
  | .rte => some ⟨0xF2, 0x00, 0x00, 0x00⟩
  | .rdsr d a b => some ⟨0xF3, d, a.setWidth 8, b⟩
  | .wrsr d a => some ⟨0xF4, d.setWidth 8, a, 0x00⟩
  | .cycle d a => some ⟨0xF5, d, a.setWidth 8, 0x00⟩
  | .bbhint a => some ⟨0xF6, 0x00, a, 0x00⟩
  | .bkpt a => some ⟨0xF7, 0x00, a, 0x00⟩
  | .issueCycle => none
  | .clauseFetch => none
  | .operationComplete => none
  | .userTrapEntry => none
  | .starvationPromote => none
  | .spinReleaseTimeout => none
  | .sleepExpire => none
  | .waitTimeout => none
  | .watchWake => none
  | .watchPoll => none
  | .sliceAccess => none
  | .objArrive => none
  | .objExpect => none
  | .objComplete => none
  | .objCancel => none
  | .barrierInit => none
  | .packetHop => none
  | .refreshTick => none
  | .patrolScrub => none
  | .configurationRead => none
  | .configurationWrite => none
  | .readReply => none
  | .bandWake => none
  | .bandInterrupt => none
  | .bandManagement => none
  | .bandInvalidRemove => none
  | .quarterWakeReady => none
  | .hostPostedWrite => none
  | .sequencerSend => none
  | .hostRead => none
  | .xeAccept => none
  | .xeActivate => none
  | .xePieceIssue => none
  | .xePiecePlace => none
  | .xeOperationEnd => none
  | .engineCancel => none
  | .gridBindRequest => none
  | .brimDeliveryPoll => none
  | .brimDelivery => none
  | .brimStepWord => none
  | .mqAccept => none
  | .mqStart => none
  | .mqEnd => none
  | .fabLoad => none
  | .fabStore => none
  | .fabAtomic => none
  | .fabReduce => none
  | .fabRelease => none
  | .fabClose => none
  | .fabMcast => none
  | .fabData => none
  | .fabAck => none
  | .fabError => none
  | .fabBusy => none
  | .busyResend => none
  | .linkmgmt => none
  | .timex => none
  | .timexRepeat => none
  | .escapeTimeout => none
  | .responseTimeout => none
  | .flitResend => none
  | .linkUp => none
  | .pgresp => none
  | .faultRecordWrite => none
  | .svcRecordWrite => none
  | .svcdone => none
  | .teamEnd => none
  | .dispatchComplete => none
  | .commandDecode => none
  | .cmdNop => none
  | .cmdLaunch => none
  | .cmdSignal => none
  | .cmdWaitev => none
  | .cmdInval => none
  | .invalComplete => none
  | .cmdScrub => none
  | .blockPlace => none
  | .concReserve => none
  | .timeSliceExpire => none
  | .saveBlock => none
  | .ctlHalt => none
  | .ctlRun => none
  | .ctlRetry => none
  | .ctlSkip => none
  | .ctlStep => none
  | .ctlKill => none
  | .cqDoorbell => none
  | .cqEnable => none
  | .svcringWrite => none
  | .fltringWrite => none
  | .ctxtrWrite => none
  | .registerWrite => none
  | .partMerge => none
  | .partSplit => none
  | .attestationReport => none
  | .fwcommit => none
  | .recoveryWindowWrite => none
  | .recoveryGo => none
  | .mailboxWrite => none
  | .mailboxRead => none
  | .powerOn => none
  | .packageReset => none
  | .stageA => none
  | .stageB => none
  | .stageC => none
  | .thermalHold => none
  | .thermalHoldClear => none
  | .thermalGate => none
  | .thermalUngate => none
  | .thermalTholdRelease => none
  | .correctedError => none
  | .uncorrectableError => none
  | .healthWindowBoundary => none
  | .errorResend => none
  | .cuffStamp => none
  | .cuffDeliver => none
  | .cuffReplayDeliver => none
  | .cuffcfgWrite => none
  | .cuffModeApply => none
  | .packageStop => none
  | .visorScan => none
  | .visorLoad => none
  | .visorResume => none
  | .trcbcWrite => none
  | .traceCounterWriteback => none
  | .linkFailure => none
  | .pcieCompletion => none
  | .reservedKindDiscard => none

/-- The word of the fields: OPCODE, DST, SRCA, SRCB from the top (R263). -/
def Fields.word (f : Fields) : Word := f.op ++ f.d ++ f.a ++ f.b

/-- What a reading of the word alone can refuse: operand classes with one register, unused fields, listed numbers. -/
def staticOk (f : Fields) : Bool :=
  let op := f.op.toNat
  let sr := if op = 0xF3 then f.a.toNat else f.d.toNat
  assigned op && roleOk (roles op).1 1 f.d op sr && roleOk (roles op).2.1 1 f.a op sr &&
  roleOk (roles op).2.2 1 f.b op sr && numOk op f.d.toNat f.a.toNat f.b.toNat

end Sys2Proof.Forms
end

