-- ==== Sys2Proof/Machine/Ops.lean ====
section
/-! DEFINITION. The named operations over registers, memory and the scheduler's tables, taking an exception (a fault
record with its park, a user trap) and returning from one. The instruction meanings are written over these. -/
namespace Sys2Proof.Machine
open Sys2Proof.Forms

/-! ### Lane masks (R4, R232) -/

/-- Is lane `l` in the mask? -/
def laneIn (m : LaneMask) (l : Nat) : Bool := m.getLsbD l

/-- The number whose bit `l` is `f l`, for `l` below `n`. -/
def maskNat (f : Nat → Bool) : Nat → Nat
  | 0 => 0
  | n + 1 => maskNat f n + (if f n then 2 ^ n else 0)

/-- The mask of the lanes below `n` that `f` picks. -/
def maskOf (n : Nat) (f : Nat → Bool) : LaneMask := BitVec.ofNat 1024 (maskNat f n)

/-- The lanes of a mask below `n`, ascending. -/
def lanesOf (n : Nat) (m : LaneMask) : List Nat := (List.range n).filter (laneIn m)

/-- The lowest-numbered lane of a mask below `n`, 0 for none. -/
def firstLane (n : Nat) (m : LaneMask) : Nat := (lanesOf n m).headD 0

/-- The rows that hold a lane of the mask (R415, R441). -/
def rowsOf (rows : Nat) (m : LaneMask) : List Nat :=
  (List.range rows).filter (fun r => decide (m.extractLsb' (32 * r) 32 ≠ 0))

/-! ### The tables of the state -/

def ctxOf (s : State) (c : Nat) : Ctx := mapGet Ctx.reset s.ctxs c
def updCtx (s : State) (c : Nat) (f : Ctx → Ctx) : State :=
  { s with ctxs := mapSet Ctx.reset s.ctxs c (f (ctxOf s c)) }

def coreOf (s : State) (c : Nat) : Core := mapGet Core.reset s.cores c
def updCore (s : State) (c : Nat) (f : Core → Core) : State :=
  { s with cores := mapSet Core.reset s.cores c (f (coreOf s c)) }

def queueOf (x : Ctx) (n : Nat) : Queue := mapGet Queue.reset x.queues n
def updQueue (s : State) (c n : Nat) (f : Queue → Queue) : State :=
  updCtx s c (fun x => { x with queues := mapSet Queue.reset x.queues n (f (queueOf x n)) })

def slotOf (x : Ctx) (g : Nat) : GridSlot := mapGet GridSlot.reset x.grids g
def updSlot (s : State) (c g : Nat) (f : GridSlot → GridSlot) : State :=
  updCtx s c (fun x => { x with grids := mapSet GridSlot.reset x.grids g (f (slotOf x g)) })

def gateOf (s : State) (g : Nat) : Gate := mapGet Gate.reset s.gates g
def updGate (s : State) (g : Nat) (f : Gate → Gate) : State :=
  { s with gates := mapSet Gate.reset s.gates g (f (gateOf s g)) }

/-- Does a gate send egress: always but in a replay with EGR = 0 (R492, R496)? (DEDUCED, log 65) -/
def egress (s : State) (g : Nat) : Bool := decide ((gateOf s g).mode ≠ 2) || (gateOf s g).cfg.getLsbD 3

/-- A team that is placed or saved. -/
def teamOf (s : State) (k : TeamKey) : Option Team := s.teams.find? (fun t => decide (t.key = k))
def updTeam (s : State) (k : TeamKey) (f : Team → Team) : State :=
  { s with teams := s.teams.map (fun t => if t.key = k then f t else t) }

/-- The split in the lower or the higher split-table entry (R411). -/
def splitIn (t : Team) (high : Bool) : Option Split := if high then t.high else t.low
def putSplit (t : Team) (high : Bool) (sp : Option Split) : Team :=
  if high then { t with high := sp } else { t with low := sp }

def splitOf (s : State) (r : SplitRef) : Option Split := (teamOf s r.team).bind (fun t => splitIn t r.high)
def updSplit (s : State) (r : SplitRef) (f : Split → Split) : State :=
  updTeam s r.team (fun t => putSplit t r.high ((splitIn t r.high).map f))

/-- The splits of a team, the lower entry first. -/
def splitsOf (t : Team) : List (SplitRef × Split) :=
  (match t.low with
   | some sp => [({ team := t.key, high := false }, sp)]
   | none => []) ++
  (match t.high with
   | some sp => [({ team := t.key, high := true }, sp)]
   | none => [])

def blockOf (s : State) (disp : BitVec 64) (i : Nat) : Option Block :=
  s.blocks.find? (fun b => decide (b.disp = disp ∧ b.index = i))
def updBlock (s : State) (disp : BitVec 64) (i : Nat) (f : Block → Block) : State :=
  { s with blocks := s.blocks.map (fun b => if b.disp = disp ∧ b.index = i then f b else b) }

def dispOf (s : State) (id : BitVec 64) : Option Dispatch := s.dispatches.find? (fun d => decide (d.id = id))
def updDisp (s : State) (id : BitVec 64) (f : Dispatch → Dispatch) : State :=
  { s with dispatches := s.dispatches.map (fun d => if d.id = id then f d else d) }

/-- What stands for a dispatch or block that is no longer in the tables. -/
def noDispatch : Dispatch :=
  { id := 0, cmd := ⟨0, 0, 0⟩, seq := 0, prio := 0, ka := 0, param := 0, rows := 1, teams := 1, nv := 1, spBytes := 0,
    nbar := 0, nacc := 0, ssDepth := 0, cls := 0, ordered := false, entry := 0, trapDef := 0, nbx := 0, nby := 0,
    nbz := 0, overlays := [], deps := [], reserved := [], next := 0, live := 0, faulted := false, stop := none }
def noBlock : Block :=
  { disp := 0, index := 0, ctx := 0, core := 0, area := 0, spBase := 0, spad := [], tiles := [], turn := 0, owed := false, retired := 0,
    saving := false, saved := false, claimable := false, refused := false, since := 0, imageAt := 0, exited := false, futures := 0, placed := [] }

/-- Steps that follow from this one, oldest first. -/
def addAgenda (s : State) (l : List Event) : State := { s with agenda := s.agenda ++ l }

/-- Steps that follow from this one at once, before those that wait. -/
def nowAgenda (s : State) (l : List Event) : State := { s with agenda := l ++ s.agenda }

/-! ### Device configuration (R16 to R19, R482) -/

/-- The device's own number: FABCFG.DEVNUM (R160). -/
def devNum (s : State) : Nat := bits s.fabcfg 7 0

/-- MEMILq; its reset value is one partition of four quarters (R19). -/
def memil (s : State) (q : Nat) : Word := mapGet 0b1000 s.memil q

/-- NETBNDq (R72). -/
def netbnd (s : State) (q : Nat) : Word := mapGet 0b1111 s.netbnd q

/-- The lowest quarter and the number of quarters of the partition of quarter `q` (R19). -/
def partOfQuarter (s : State) (q : Nat) : Nat × Nat :=
  (bits (memil s q) 1 0, 2 ^ bits (memil s q) 3 2)

/-- The partition of a context: context c belongs to quarter c div 1,024 (R482). -/
def partOfCtx (s : State) (c : Nat) : Nat × Nat := partOfQuarter s (c / 1024)

/-- The bytes of a quarter window (R18). -/
def quarterBytes : Nat := 0x3000000000

/-- The first host-window address (R17). -/
def hostBase : Nat := 0x800000000000

/-- Does a local address lie in the windows of a partition (R18)? -/
def inWindows (p : Nat × Nat) (pa : Nat) : Bool :=
  decide (p.1 * quarterBytes ≤ pa) && decide (pa < (p.1 + p.2) * quarterBytes)

/-! ### Home slices (R20, R54, R55) -/

/-- Where a local HBM address lies: stack, pseudo-channel, stack-local address, home slice and set. -/
structure Place where
  stack : Nat
  pchan : Nat
  local_ : Nat
  sector : Nat
  home  : Nat
  set   : Nat
  deriving DecidableEq, Repr

/-- The interleave of R20 and the home slice of R54 for offset `o` of a partition of `k` quarters from `f` on. -/
def placeOf (f k o : Nat) : Place :=
  let g := o >>> 11
  let j := g % (3 * k)
  let quarter := f + j % k
  let stack := 3 * quarter + j / k
  let s := ((g / (3 * k)) <<< 11) ||| (o % 2048)
  let line := s >>> 7
  let pchan := ((line ^^^ (line >>> 6)) ^^^ (line >>> 12)) % 64
  let hk := ((line >>> 6) ^^^ (stack % 3)) % 8
  { stack := stack, pchan := pchan, local_ := s, sector := (s >>> 5) % 4,
    home := (stack / 3) * 512 + ((pchan / 8) * 8 + pchan % 8) * 8 + hk,
    set := ((line >>> 9) ^^^ line) % 512 }

/-- The home of a local address for the partition of lowest quarter and size `part`: host-window addresses are placed by their
offset within the accessing context's partition, HBM addresses within the partition that holds them (R55). -/
def homeOf (s : State) (part : Nat × Nat) (pa : Nat) : Place :=
  if hostBase ≤ pa then placeOf part.1 part.2 ((pa - hostBase) % (part.2 * quarterBytes))
  else
    let own := partOfQuarter s (pa / quarterBytes)
    placeOf own.1 own.2 (pa - own.1 * quarterBytes)

/-- The slice number of a local address for a partition (R54, R55). -/
def sliceOf (s : State) (part : Nat × Nat) (pa : Nat) : Nat := (homeOf s part pa).home

/-- The homes that a line has in the partitions of the layout: one in HBM, one for each partition in the host window. -/
def homesOf (s : State) (pa : Nat) : List Place :=
  if hostBase ≤ pa then (((List.range 4).map (partOfQuarter s)).eraseDups).map (fun p => homeOf s p pa) else [homeOf s (0, 4) pa]

/-! ### Slices (R53, R56, R58) -/

/-- The lines that a slice holds. -/
def sliceCache (s : State) (n : Nat) : Cache L2Line := mapGet Cache.empty s.slices n

/-- The sectors of a line that `n` bytes from `pa` touch, one bit each. -/
def sectorBits (line pa n : Nat) : BitVec 4 :=
  BitVec.ofNat 4 ((List.range 4).foldl (fun m k => m + (if 128 * line + 32 * k < pa + n ∧ pa < 128 * line + 32 * k + 32 then 2 ^ k else 0)) 0)

/-- The line that a place of a slice holds, if it holds this one. -/
def sliceWay (s : State) (p : Place) (line : Nat) : Option (CacheWay L2Line) := cacheFind (sliceCache s p.home) (fun w => decide (w.line = line))

/-- A write at the home slice: a held line takes it, its sectors valid and dirty (R58). -/
def sliceWrite (s : State) (pa n : Nat) : State :=
  (List.range ((pa + n - 1) / 128 + 1 - pa / 128)).foldl (fun s i =>
    let line := pa / 128 + i
    (homesOf s (128 * line)).foldl (fun s p => match sliceWay s p line with
      | none => s
      | some w =>
        let m := sectorBits line pa n
        { s with slices := mapSet Cache.empty s.slices p.home (cacheTouch 4 w (cacheMap (sliceCache s p.home) (fun v => decide (v.line = line))
            (fun v => some { v with valid := v.valid ||| m, dirty := v.dirty ||| m }))) }) s) s

/-- Is a slice out of service: its lines are served uncached (R475)? -/
def sliceOut (s : State) (n : Nat) : Bool :=
  s.oosMap.any (fun o => decide (o.u.kind = .slice) && decide (16 + 128 * (n / 512) + 64 + n % 512 / 8 = o.u.stop.toNat) && decide (n % 8 = o.u.index.toNat))

/-- An access to bytes of one line through a page of cache policy CP: the slice allocates the line for WB and L2, at the lowest
retention for ST, not for UC; an evicted line's dirty sectors go to HBM, whose bytes State holds as the slices give them (R31,
R58). (DEDUCED, log 81) -/
def sliceTouch (s : State) (part : Nat × Nat) (cp : Nat) (low : Bool) (pa n : Nat) (write : Bool) : State :=
  let p := homeOf s part pa
  let line := pa / 128
  let m := sectorBits line pa n
  let d := if write then m else 0
  match sliceWay s p line with
  | some w => { s with slices := mapSet Cache.empty s.slices p.home (cacheTouch 4 w (cacheMap (sliceCache s p.home) (fun v => decide (v.line = line))
      (fun v => some { v with valid := v.valid ||| m, dirty := v.dirty ||| d }))) }
  | none =>
    if cp = 2 ∨ sliceOut s p.home = true then s
    else { s with slices := mapSet Cache.empty s.slices p.home (cacheFill 4 p.set (low || decide (cp = 3)) { line := line, valid := m, dirty := d }
        (sliceCache s p.home)) }

/-- The slice of a line writes its dirty sectors to HBM, and with `drop` it drops the line (R292). -/
def sliceClean (s : State) (pa : Nat) (drop : Bool) : State :=
  (homesOf s pa).foldl (fun s p =>
    { s with slices := mapSet Cache.empty s.slices p.home (cacheMap (sliceCache s p.home) (fun v => decide (v.line = pa / 128))
        (fun v => if drop then none else some { v with dirty := 0 })) }) s

/-- Every line that `f` picks of the slices of some quarters is written back and dropped (R36, R91, R466). -/
def sliceDrop (s : State) (f : Nat → Nat → Bool) : State :=
  let l := s.slices.map (fun p => (p.1, cacheDrop p.2 (fun v => f (p.1 / 512) v.line)))
  { s with slices := l.filter (fun p => decide (p.2 ≠ Cache.empty)) }

/-! ### The L1 of a core (R79, R80, R85 to R87) -/

/-- The sets of a core's L1: what CSRAMCFG leaves of 6 MiB, in lines of 128 bytes and 8 ways (R79, R85). -/
def l1Sets (s : State) (core : Nat) : Nat := 512 * (12 - bits (coreOf s core).csramcfg 3 0)

/-- The line that holds a byte validly in a core's L1. -/
def l1Find (s : State) (core pa : Nat) : Option (CacheWay L1Line) :=
  cacheFind (coreOf s core).l1 (fun v => decide (v.line = pa / 128) && v.valid.getLsbD (pa / 32 % 4))

/-- Changes the L1 of a core. -/
def updL1 (s : State) (core : Nat) (f : Cache L1Line → Cache L1Line) : State := updCore s core (fun k => { k with l1 := f k.l1 })

/-- The L1 drops all of its lines (R86). -/
def l1Drop (s : State) (core : Nat) : State := updL1 s core (fun c => cacheDrop c (fun _ => true))

/-- The valid bits that are left when some sectors of the line are dropped. -/
def l1Without (pa n : Nat) (v : L1Line) : Option L1Line :=
  let m := v.valid &&& ~~~(sectorBits v.line pa n)
  if m = 0 then none else some { v with valid := m }

/-- The sectors that `n` bytes touch leave a core's L1 (R85, R87). -/
def l1Kill (s : State) (core pa n : Nat) : State :=
  updL1 s core (fun c => cacheMap c (fun v => decide (sectorBits v.line pa n ≠ 0)) (l1Without pa n))

/-- The sectors leave the L1 of every core of some quarters (R87, R431). -/
def l1KillIn (s : State) (part : Nat × Nat) (pa n : Nat) : State :=
  let l := s.cores.map (fun p => if part.1 ≤ p.1 / 64 ∧ p.1 / 64 < part.1 + part.2 then
    (p.1, { p.2 with l1 := cacheMap p.2.l1 (fun v => decide (sectorBits v.line pa n ≠ 0)) (l1Without pa n) }) else p)
  { s with cores := l.filter (fun p => decide (p.2 ≠ Core.reset)) }

/-- Every line leaves the L1 of every core of some quarters (R36, R466). -/
def l1DropIn (s : State) (part : Nat × Nat) : State :=
  let l := s.cores.map (fun p => if part.1 ≤ p.1 / 64 ∧ p.1 / 64 < part.1 + part.2 then
    (p.1, { p.2 with l1 := cacheDrop p.2.l1 (fun _ => true) }) else p)
  { s with cores := l.filter (fun p => decide (p.2 ≠ Core.reset)) }

/-- A line with the bytes of a write in the sectors that it holds. -/
def l1Patched (pa n : Nat) (f : Nat → Byte) (v : L1Line) : L1Line :=
  { v with data := (List.range n).foldl (fun d i =>
      let a := pa + i
      if a / 128 = v.line ∧ v.valid.getLsbD (a / 32 % 4) = true then
        (d &&& ~~~((0xFF : BitVec 1024) <<< (8 * (a % 128)))) ||| ((f i).setWidth 1024 <<< (8 * (a % 128)))
      else d) v.data }

/-- A write by an agent of a core updates the sectors that the core's L1 holds (R85, R202). -/
def l1Update (s : State) (core pa n : Nat) (f : Nat → Byte) : State :=
  updL1 s core (fun c => cacheMap c (fun v => decide (sectorBits v.line pa n ≠ 0)) (fun v => some (l1Patched pa n f v)))

/-! ### Memory (R7, R56, R59) -/

/-- What a byte that no step has written reads as: the spec gives HBM no contents after power-on (DESIGN CHOICE, log 2). -/
def memDefault : Byte := 0

/-- The canonical form of memory. (DESIGN CHOICE, log 2) -/
def Memory.wf (m : List Host.Cell) : Bool := mapWf memDefault m

/-- One byte of memory at a local address. (DESIGN CHOICE, log 2) -/
def readByte (s : State) (pa : Nat) : Byte := mapGet memDefault s.mem pa

/-- The little-endian number in `n` bytes of a map. -/
def leNat (get : Nat → Byte) (a : Nat) : Nat → Nat
  | 0 => 0
  | n + 1 => leNat get a n + ((get (a + n)).toNat <<< (8 * n))

/-- The little-endian number in `n` bytes of memory (R7). -/
def readMem (s : State) (pa n : Nat) : Nat := leNat (readByte s) pa n

/-- `n` bytes of memory as a list. -/
def readBytes (s : State) (pa n : Nat) : List Byte := (List.range n).map (fun i => readByte s (pa + i))

/-- Byte `i` of a number. -/
def byteOf (v i : Nat) : Byte := BitVec.ofNat 8 (v >>> (8 * i))

/-- The tag of the sector of a local address (R42). (DESIGN CHOICE, log 2) -/
def tagOf (s : State) (pa : Nat) : BitVec 4 := mapGet 0 s.tags (pa / 32)

/-- Is a sector that `n` bytes from `pa` touch poisoned (R474)? -/
def poisonedIn (s : State) (pa n : Nat) : Bool :=
  s.poison.any (fun p => p.2 && decide (pa / 32 ≤ p.1) && decide (p.1 ≤ (pa + n - 1) / 32))

/-- Does a watch stand on the line? -/
def watchOnLine (w : Watch) (line : Nat) : Bool :=
  match w.on with
  | .line l => decide (l = line)
  | _ => false

/-- Removes every watch on a line and wakes its splits, in the order of registration (R63). -/
def wakeLine (s : State) (line : Nat) : State :=
  let hit := s.watches.filter (watchOnLine · line)
  { s with watches := s.watches.filter (fun w => !watchOnLine w line)
           agenda := s.agenda ++ hit.map (fun w => Event.watchWake w.split) }

/-- What the spin detector calls a place that a split has read: the sector of a local address, a word of its block's scratchpad
(R420). -/
def spinSector (pa : Nat) : Nat := 2 * (pa / 32)
def spinWord (o : Nat) : Nat := 2 * (o / 4) + 1

/-- Marks a dropped split whose last iteration read one of the places: it returns to tier 1 (R420). (DEDUCED, log 24) -/
def spinObserve (places : List Nat) (t : Team) : Team :=
  let f (sp : Split) : Split := if sp.tier = 2 && sp.spinRead.any places.contains then { sp with dropAt := 0 } else sp
  { t with low := t.low.map f, high := t.high.map f }

/-- Sectors that a write covers whole lose their poison (R474). (DEDUCED, log 76) -/
def clearPoison (s : State) (pa n : Nat) : SMap Bool :=
  s.poison.filter (fun p => !(decide (pa ≤ 32 * p.1) && decide (32 * p.1 + 32 ≤ pa + n)))

/-- Writes `n` bytes at the home slice: one step on the line, waking its watches when a byte changes (R59, R63). The
bytes of a sector that is poisoned and only partly covered cannot be filled and are discarded by the caller. -/
def writeMem (s : State) (pa n : Nat) (f : Nat → Byte) : State :=
  let changed (line : Nat) : Bool := (List.range n).any (fun i => decide ((pa + i) / 128 = line) && decide (readByte s (pa + i) ≠ f i))
  let s1 := { s with mem := mapPut memDefault s.mem pa n f, poison := clearPoison s pa n }
  let hit := ((List.range ((pa + n - 1) / 128 + 1 - pa / 128)).map (fun i => pa / 128 + i)).filter changed
  sliceWrite (hit.foldl wakeLine s1) pa n

/-- The splits of a core that read a sector in their last iteration see a write to it, if the L1 held it (R420). -/
def l1Seen (core : Nat) (s : State) (pa n : Nat) : State :=
  let held := ((List.range ((pa + n - 1) / 32 + 1 - pa / 32)).map (fun i => 32 * (pa / 32 + i))).filter (fun a => (l1Find s core a).isSome)
  if held = [] then s
  else { s with teams := s.teams.map (fun t => if t.core = core then spinObserve (held.map spinSector) t else t) }

/-- A write by an agent of a core: its L1 copy is updated, and the core's splits that spin on it see it (R202, R420). -/
def writeMemBy (core : Nat) (s : State) (pa n : Nat) (f : Nat → Byte) : State :=
  l1Update (l1Seen core (writeMem s pa n f) pa n) core pa n f

/-- An atomic or a reduction by an agent of a core: its L1 copy of the sector is invalidated (R85). -/
def atomMemBy (core : Nat) (s : State) (pa n : Nat) (f : Nat → Byte) : State :=
  l1Kill (l1Seen core (writeMem s pa n f) pa n) core pa n

/-- One byte as a load of a core's team sees it: its L1 copy where one is valid (R85, R202). -/
def viewByte (s : State) (core : Option Nat) (pa : Nat) : Byte :=
  match core.bind (fun c => l1Find s c pa) with
  | some w => w.val.data.extractLsb' (8 * (pa % 128)) 8
  | none => readByte s pa

/-- The tag of a sector as a load of a core's team compares it (R87). -/
def viewTag (s : State) (core : Option Nat) (pa : Nat) : BitVec 4 :=
  match core.bind (fun c => l1Find s c pa) with
  | some w => w.val.tags.extractLsb' (4 * (pa / 32 % 4)) 4
  | none => tagOf s pa

/-- The 128 bytes and the four tags of a line as the home slice gives them. -/
def lineData (s : State) (line : Nat) : BitVec 1024 := BitVec.ofNat 1024 (readMem s (128 * line) 128)
def lineTags (s : State) (line : Nat) : BitVec 16 :=
  BitVec.ofNat 16 ((List.range 4).foldl (fun m k => m + ((tagOf s (128 * line + 32 * k)).toNat <<< (4 * k))) 0)

/-- The bits of a line that its sectors in a mask cover, `w` bits a sector. -/
def sectorMask (w : Nat) (m : BitVec 4) : Nat := (List.range 4).foldl (fun a k => a + (if m.getLsbD k then (2 ^ w - 1) * 2 ^ (w * k) else 0)) 0

/-- A load of a core's team from a page with CP = WB: a line that it hits counts as used, and the sectors that it misses are taken
from the home slice (R85). The set is the line number modulo the sets. (DEDUCED, log 81) -/
def l1Take (s : State) (core pa n : Nat) : State :=
  let line := pa / 128
  let m := sectorBits line pa n
  let d := lineData s line
  let g := lineTags s line
  updL1 s core (fun c => match cacheFind c (fun v => decide (v.line = line)) with
    | some w =>
      let add := m &&& ~~~w.val.valid
      let dm := BitVec.ofNat 1024 (sectorMask 256 add)
      let tm := BitVec.ofNat 16 (sectorMask 4 add)
      cacheTouch 3 w (cacheMap c (fun v => decide (v.line = line)) (fun v => some { v with
        valid := v.valid ||| add, data := (v.data &&& ~~~dm) ||| (d &&& dm), tags := (v.tags &&& ~~~tm) ||| (g &&& tm) }))
    | none => cacheFill 3 (line % l1Sets s core) false { line := line, valid := m, tags := g, data := d } c)

/-- Writes a number of `n` bytes (R7). -/
def writeNat (s : State) (pa n v : Nat) : State := writeMem s pa n (byteOf v)

/-- Writes a list of bytes. -/
def writeList (s : State) (pa : Nat) (l : List Byte) : State := writeMem s pa l.length (fun i => l.getD i 0)

/-- The word after a slice operation of `n` bytes and the word before it (R60). -/
def sliceAtomic (s : State) (pa n : Nat) (f : Nat → Nat) : State × Nat :=
  let old := readMem s pa n
  (writeNat s pa n (f old), old)

/-- Zeroes data and tags of whole sectors (R45). -/
def scrubMem (s : State) (pa n : Nat) : State :=
  let s1 := writeMem s pa n (fun _ => memDefault)
  { s1 with tags := mapBelow (pa / 32) s1.tags ++ mapFrom ((pa + n) / 32) s1.tags }

/-- Zeroes a range that is too long to write byte by byte: cells, tags and poison in it go. -/
def scrubRange (s : State) (pa n : Nat) : State :=
  let lines := (s.watches.filterMap (fun w => match w.on with
    | .line l => if pa / 128 ≤ l ∧ l < (pa + n) / 128 then some l else none
    | _ => none)).eraseDups
  let s1 := { s with mem := mapBelow pa s.mem ++ mapFrom (pa + n) s.mem
                     tags := mapBelow (pa / 32) s.tags ++ mapFrom ((pa + n) / 32) s.tags
                     poison := mapBelow (pa / 32) s.poison ++ mapFrom ((pa + n) / 32) s.poison }
  lines.foldl wakeLine s1

/-! ### Scratchpad (R22, R81) -/

/-- One byte of a block's scratchpad. -/
def spByte (b : Block) (o : Nat) : Byte := mapGet 0 b.spad o

/-- The little-endian number in `n` bytes of the scratchpad. -/
def spRead (b : Block) (o n : Nat) : Nat := leNat (spByte b) o n

/-- Wakes every split that watches the scratchpad bytes of a block (R301). -/
def wakeSpad (s : State) (disp : BitVec 64) (block o n : Nat) : State :=
  let hit (w : Watch) : Bool := match w.on with
    | .spad d b off => decide (d = disp) && decide (b = block) && decide (o < off + 8) && decide (off < o + n)
    | _ => false
  { s with watches := s.watches.filter (fun w => !hit w)
           agenda := s.agenda ++ (s.watches.filter hit).map (fun w => Event.watchWake w.split) }

/-- Do `n` bytes from `o` touch `m` bytes from `p`? -/
def touches (o n p m : Nat) : Bool := decide (o < p + m) && decide (p < o + n)

/-- Do `n` bytes from `o` touch the A operand of a matrix operation (R359)? -/
def touchesA (q : MqOp) (o n : Nat) : Bool :=
  match q.kind with
  | .mma _ _ => (List.range 64).any (fun i => touches o n (q.aOff + 16 * i * bits q.mod0 18 8) (16 * (bits q.mod0 4 3 + 1)))
  | _ => false

/-- A write to the A operand of an operation in flight races with its reads: the operation reads UNKNOWN values (R209). (DESIGN CHOICE, log 77) -/
def spoilA (s : State) (disp : BitVec 64) (block o n : Nat) : State :=
  { s with mqOps := s.mqOps.map (fun q =>
      if q.split.team.disp = disp ∧ q.split.team.block = block ∧ touchesA q o n = true then { q with free := true } else q) }

/-- The splits of a block that read a scratchpad word in their last iteration see a write to it (R420). -/
def spadSeen (s : State) (disp : BitVec 64) (block o n : Nat) : State :=
  let words := (List.range ((o + n - 1) / 4 + 1 - o / 4)).map (fun i => spinWord (4 * (o / 4 + i)))
  { s with teams := s.teams.map (fun t => if t.key.disp = disp ∧ t.key.block = block then spinObserve words t else t) }

/-- Writes scratchpad bytes of a block. -/
def spWrite (s : State) (disp : BitVec 64) (block o n : Nat) (f : Nat → Byte) : State :=
  let s1 := updBlock s disp block (fun b => { b with spad := mapPut 0 b.spad o n f })
  spoilA (spadSeen (wakeSpad s1 disp block o n) disp block o n) disp block o n

/-! ### Registers (R219 to R225) -/

def vKey (v l : Nat) : Nat := 1024 * v + l
def vReg (t : Team) (v l : Nat) : Word := mapGet 0 t.vregs (vKey v l)
def sReg (t : Team) (n : Nat) : Word := mapGet 0 t.sregs n

/-- A predicate; P0 reads one in every lane (R222). -/
def pReg (t : Team) (p : Nat) : LaneMask := if p = 0 then BitVec.allOnes 1024 else mapGet 0 t.preds p

/-- Lanes of a team (R4). -/
def lanes (t : Team) : Nat := 32 * t.rows

/-- Writes lanes of a vector register; the others keep their value. -/
def putV (t : Team) (v : Nat) (m : LaneMask) (f : Nat → Word) : Team :=
  let old := mapFrom (vKey v 0) (mapBelow (vKey v 1024) t.vregs)
  { t with vregs := mapPut 0 t.vregs (vKey v 0) (min 1024 (lanes t)) (fun l => if laneIn m l then f l else mapGet 0 old (vKey v l))
           wroteV := v :: t.wroteV.filter (· ≠ v) }

def putS (t : Team) (n : Nat) (w : Word) : Team := { t with sregs := mapSet 0 t.sregs n w }

/-- Writes lanes of a predicate; P0 discards the write (R222). -/
def putP (t : Team) (p : Nat) (m : LaneMask) (v : LaneMask) : Team :=
  if p = 0 then t else { t with preds := mapSet 0 t.preds p ((pReg t p &&& ~~~m) ||| (v &&& m)) }

/-- Writes one register by its code: vector lanes or a scalar (R264). -/
def putReg (t : Team) (w : RegWrite) : Team :=
  if w.code < 128 then putV t w.code (maskOf (w.lane + 1) (fun l => decide (l = w.lane))) (fun _ => w.val)
  else putS t (w.code - 128) w.val

/-- Is a register of a lane the destination of an operation in flight, or an operand of a matrix operation (R210, R260)? -/
def pendingReg (t : Team) (code lane : Nat) : Bool :=
  t.inflight.any (fun e => e.writes.any (fun w => decide (w.code = code) && (decide (128 ≤ code) || decide (w.lane = lane)))
    || e.reads.contains code)

/-- A write to registers of operations in flight leaves both UNKNOWN (R210, R260). -/
def markLost (t : Team) (code : Nat) (m : LaneMask) : Team :=
  { t with inflight := t.inflight.map (fun e =>
      if e.reads.contains code ||
         e.writes.any (fun w => decide (w.code = code) && (decide (128 ≤ code) || laneIn m w.lane))
      then { e with lost := true, spoilt := if e.reads.contains code then code :: e.spoilt else e.spoilt } else e) }

/-- Does a flag stand set for the split (R259)? -/
def flagSet (t : Team) (high : Bool) (n : Nat) : Bool :=
  t.inflight.any (fun e => decide (e.flag = n) && (if high then e.high else e.low))

/-- The flags F0 to F11 of a split as a number. -/
def flagBits (t : Team) (high : Bool) : Nat := maskNat (flagSet t high) 12

/-! ### UNKNOWN values (R10) -/

/-- A free value: key `i` of the current draw. (DESIGN CHOICE, log 4 and log 77) -/
def unknown (fresh i : Nat) : Word := (Config.freeValue (fresh * 2 ^ 24 + i)).setWidth 32

/-! ### MODE (R228) -/

def guardOf (t : Team) (mode : Word) : LaneMask :=
  let p := pReg t (bits mode 2 0)
  if bits mode 3 3 = 1 then ~~~p else p

/-- The active set (R232). -/
def activeOf (t : Team) (sp : Split) : LaneMask :=
  let m := match sp.retry with
    | some r => sp.mask &&& r
    | none => sp.mask
  m &&& guardOf t sp.mode

/-- The helper set (R233). -/
def helpersOf (t : Team) (sp : Split) (active : LaneMask) : LaneMask :=
  if bits sp.mode 14 14 = 1 then
    maskOf (lanes t) (fun l => !laneIn active l && !laneIn t.absent l &&
      decide (active.extractLsb' (l - l % 4) 4 ≠ 0))
  else 0

/-- Sets sticky exception flags of MODE (R228, R230). -/
def orXF (mode : Word) (x : BitVec 5) : Word := mode ||| (x.setWidth 32 <<< 24)

/-- The exceptions whose trap is enabled: bits 16 to 20 of MODE. -/
def trapEnables (mode : Word) : BitVec 5 := mode.extractLsb' 16 5

/-! ### Stamps and the priority list (R416) -/

/-- The key of a partition's stamp counter. -/
def partKey (t : Team) : Nat := 12 * t.core + t.part

/-- Gives a split a new stamp. (DEDUCED, log 73) -/
def newStamp (s : State) (r : SplitRef) : State :=
  match teamOf s r.team with
  | none => s
  | some t =>
    let v := mapGet 0 s.stamps (partKey t)
    updSplit { s with stamps := mapSet 0 s.stamps (partKey t) (v + 1) } r (fun sp => { sp with stamp := v, issued := 0 })

/-! ### Fault records (R443 to R445) and parking (R447) -/

/-- Causes whose records name a lane (R444). (DEDUCED, log 21) -/
def causeNamesLane (c : BitVec 8) : Bool := within c.toNat 0x10 0x1B || within c.toNat 0x50 0x53

/-- Does a record of the cause and access name a lane? An instruction fetch is no lane's access (R444). -/
def namesLane (c acc : BitVec 8) : Bool := causeNamesLane c && decide (acc ≠ 4)

/-- An empty record. -/
def noRec : FaultRec :=
  { stop := 1, entry := 0, req := none, kind := 0, cause := 0, flags := 0, team := 0, acc := 0xFF, lane := 0, core := 0, part := 0, disp := 0, block := 0,
    info := 0, pc := 0, addr := 0, info2 := 0, cyc := 0 }

/-- The Band stop of the compute router of a core (R66, R88). -/
def coreStop (core : Nat) : Nat := 16 + 128 * (core / 64) + core % 64

/-- A record with the fields that name a team. -/
def teamRec (s : State) (t : Team) (kind cause : BitVec 8) : FaultRec :=
  { noRec with stop := coreStop t.core, kind := kind, cause := cause, team := BitVec.ofNat 8 t.key.team, core := BitVec.ofNat 8 t.core,
               part := BitVec.ofNat 8 t.part, disp := t.key.disp, block := BitVec.ofNat 32 t.key.block, cyc := s.cycle }

/-- The place of a record among those of its cycle: source stop, partition and entry, then fault, page request, engine
report, notice; of the launch unit's own the block (R443). (DEDUCED, log 46) -/
def recKey (r : FaultRec) : Nat :=
  r.stop * 2 ^ 40 + (if r.stop = 1 then r.block.toNat else (r.part.toNat * 128 + r.entry) * 4 + r.kind.toNat % 4)

/-- Puts a record in its place among those of its cycle that wait. (DEDUCED, log 46) -/
def insertRec (r : FaultRec) : List FaultRec → List FaultRec
  | [] => [r]
  | q :: rest => if q.cyc = r.cyc ∧ recKey r < recKey q then r :: q :: rest else q :: insertRec r rest

/-- Queues a record for the fault ring; FAULT_RECORD_WRITE writes it once its cycle is over (R443). (DEDUCED, log 46) -/
def queueRec (s : State) (ctx : Nat) (r : FaultRec) : State :=
  updCtx s ctx (fun x => { x with faultQ := insertRec r x.faultQ })

/-- Parks a team (R447). -/
def parkTeam (s : State) (k : TeamKey) : State := updTeam s k (fun t => { t with parked := true })

/-- Every team of a dispatch that is in the tables. -/
def teamsOfDisp (s : State) (id : BitVec 64) : List Team := s.teams.filter (fun t => decide (t.key.disp = id))

/-- Stops a dispatch: no further block is placed, saved blocks are discarded, its teams are parked and killed, and it
completes with the STATUS given (R449, R472, R475, R476). -/
def stopDispatch (s : State) (id : BitVec 64) (status : BitVec 32) : State :=
  match dispOf s id with
  | none => s
  | some d =>
    if d.stop.isSome then s
    else
      let ts := teamsOfDisp s id
      let s1 := updDisp s id (fun d => { d with stop := some status, reserved := [] })
      let s2 := ts.foldl (fun s t => parkTeam s t.key) s1
      let s3 := if bits (ctxOf s d.cmd.ctx).ctxpol 1 1 = 1 && status = 3 then
          updQueue s2 d.cmd.ctx d.cmd.queue (fun q => { q with cq := q.cq &&& 0x7FFFFFFFFFFFFFFF })
        else s2
      addAgenda s3 (ts.map (fun t => Event.ctlKill t.key) ++ [Event.dispatchComplete id])

/-- What a fault of a team says (R444, R447). -/
structure FaultSpec where
  cause   : BitVec 8
  pc      : BitVec 56
  lanes   : LaneMask              -- the resume mask
  atInstr : Bool                  -- held at the instruction
  lane    : Nat
  acc     : BitVec 8
  addr    : Option (BitVec 64)
  write   : Bool
  info    : Word
  info2   : BitVec 64
  side    : Bool                  -- a side-log entry
  after   : Option (BitVec 56) := none   -- of a fault of the fetch: where a SKIP goes on
  deriving DecidableEq, Repr

/-- A fault of a kind that names no lane and no address. -/
def plainFault (cause : BitVec 8) (pc : BitVec 56) (lanes : LaneMask) (info : Word) : FaultSpec :=
  { cause, pc, lanes, atInstr := true, lane := 0, acc := 0xFF, addr := none, write := false, info, info2 := 0,
    side := false }

/-- FLAGS of a record (R444). -/
def faultFlags (f : FaultSpec) (stop : Bool) : BitVec 16 :=
  BitVec.ofNat 16 ((if namesLane f.cause f.acc then 1 else 0) + (if f.addr.isSome then 2 else 0) + (if f.side then 4 else 0) +
    (if stop then 16 else 0) + (if f.write then 32 else 0) + (if f.atInstr then 64 else 0))

/-- Taking a fault: a KIND 0 record naming the team, its park and resume mask (R444, R447), and the stop of the dispatch
where the context's policy asks for it (R449). A fault reported late leaves a split where it stands: faulting already, waiting, or
about to retry. (DEDUCED, log 21 and log 56) -/
def raiseFault (s : State) (r : SplitRef) (f : FaultSpec) : State :=
  match teamOf s r.team with
  | none => s
  | some t =>
    let stop := decide (bits (ctxOf s t.ctx).ctxpol 0 0 = 1)
    let rec0 := { teamRec s t 0 f.cause with
      entry := 2 * t.slot + r.high.toNat
      flags := faultFlags f stop
      acc := f.acc
      lane := if namesLane f.cause f.acc then BitVec.ofNat 16 f.lane else 0
      info := f.info
      pc := f.pc.setWidth 64
      addr := f.addr.getD 0
      info2 := f.info2 }
    let s1 := queueRec s t.ctx rec0
    let s2 := parkTeam s1 r.team
    let s3 := updSplit s2 r (fun sp =>
      if f.atInstr then { sp with resume := some { mask := f.lanes, atInstr := true, after := f.after }
                                  retry := none, stepping := false, waited := none }
      else { sp with resume := some (sp.resume.getD { mask := f.lanes, atInstr := false }), stepping := false })
    let s4 := updDisp s3 r.team.disp (fun d => { d with faulted := true })
    if stop then stopDispatch s4 r.team.disp 3 else s4

/-- A notice of a team: KIND 3 (R410, R461). -/
def raiseNotice (s : State) (t : Team) (cause : BitVec 8) (pc : BitVec 56) (info : Word) : State :=
  let r := { teamRec s t 3 cause with pc := pc.setWidth 64, info := info }
  queueRec s t.ctx (if cause = 0x60 then r else { r with stop := 1 })

/-- A notice of the launch unit on its own account (R443). -/
def raiseLuNotice (s : State) (ctx : Nat) (cause : BitVec 8) (disp : BitVec 64) (block core : Nat) (info : Word) : State :=
  queueRec s ctx { noRec with kind := 3, cause := cause, disp := disp, block := BitVec.ofNat 32 block,
                              core := BitVec.ofNat 8 core, info := info, cyc := s.cycle }

/-! ### User traps (R439 to R441) and the return from one (R401) -/

/-- The address of the instruction a split issues next: header + 4 × (1 + position) (R252). -/
def instrPc (sp : Split) : BitVec 56 :=
  match sp.clause with
  | some _ => sp.pc + BitVec.ofNat 56 (4 * (1 + sp.pos))
  | none => sp.pc

/-- Queues a user trap request of a split (R440). -/
def requestTrap (s : State) (r : SplitRef) (q : TrapReq) : State :=
  addAgenda (updTeam s r.team (fun t => { t with traps := t.traps ++ [{ q with num := s.nextOp }] })) [.userTrapEntry r]

/-- TRAPROWS of a lane set (R441). -/
def rowBits (rows : Nat) (m : LaneMask) : Word :=
  BitVec.ofNat 32 (maskNat (fun r => decide (m.extractLsb' (32 * r) 32 ≠ 0)) rows)

/-- What a split remembers of the attempts at one instruction is forgotten: the pages answered failed, the words read for a wait,
and what it waits for. -/
def newAttempt (sp : Split) : Split :=
  { sp with pageFail := [], unmet := [], legal := false, relAt := none, waited := none }

/-- Taking a user trap (R439): the trap registers are written, the handler-entry record is made, and the split starts the
clause at TRAPVEC. MODE, flags, stack and mask do not change. -/
def takeTrap (s : State) (r : SplitRef) (q : TrapReq) : State :=
  updTeam s r.team (fun t =>
    match splitIn t r.high with
    | none => t
    | some sp =>
      let t1 := { t with
        trapPc := (instrPc sp).setWidth 64
        trapAddr := q.addr.setWidth 64
        trapInfo := q.info.setWidth 32
        trapCause := q.cause.setWidth 32 ||| (q.exc.setWidth 32 <<< 8)
        trapRows := rowBits t.rows q.lanes
        trapMask := q.lanes }
      putSplit t1 r.high (some { newAttempt sp with
        handler := some { mask := sp.mask, depth := sp.stack.length, clause := sp.clause, pos := sp.pos, wrote := false }
        pc := t.trapVec.setWidth 56
        clause := none
        pos := 0
        bypass := []
        hold := .none
        resume := none }))

/-- Returning from a user trap (R401): handler state ends and the split resumes at TRAPPC, mid-clause if it stood there. -/
def returnFromTrap (sp : Split) (h : Handler) (trapPc : BitVec 64) : Split :=
  if h.wrote then
    { sp with handler := none, pc := trapPc.setWidth 56, clause := none, pos := 0, bypass := [] }
  else
    { sp with handler := none, clause := h.clause, pos := h.pos, bypass := []
              pc := match h.clause with
                | some c => c.addr
                | none => trapPc.setWidth 56 }

end Sys2Proof.Machine
end

