-- ==== Sys2Proof/Machine/Mmu.lean ====
section
/-! DEFINITION. From a generic address to a place in memory: apertures, the page walk with its translation cache, the
checks of R52 in their order, page requests, and the accesses at the home slice (R16 to R45, R52, R56 to R62). -/
namespace Sys2Proof.Machine
open Sys2Proof.Forms

/-! ### Generic addresses and apertures (R21 to R25) -/

/-- What a generic address is steered to. -/
inductive Steered where
  | fault
  | spad (o : Nat)
  | glob (tag : BitVec 4) (va : Nat)
  deriving DecidableEq, Repr

/-- The width of the scratchpad aperture and of a lane's stack (R23, R24). -/
def spAperture : Nat := 0x800000
def stackBytes : Nat := 0x10000

/-- `steer(ga, t, l)` for an access of `n` bytes (R22). -/
def steer (spBase stkBase spBytes slot lane : Nat) (ga : BitVec 64) (n : Nat) : Steered :=
  if ga.extractLsb' 60 4 ≠ 0 then .fault
  else
    let va := bits ga 55 0
    if spBase ≤ va ∧ va < spBase + spAperture then
      if va - spBase + n > spBytes then .fault else .spad (va - spBase)
    else if stkBase ≤ va ∧ va < stkBase + stackBytes then
      let o := va - stkBase
      let b := stkBase + stackBytes + ((o / 4) <<< 27) + (slot <<< 12) + (lane <<< 2) + o % 4
      if 2 ^ 56 ≤ b then .fault else .glob (ga.extractLsb' 56 4) b
    else .glob (ga.extractLsb' 56 4) va

/-- Does a generic address fall in the scratchpad or stack aperture of its context (R22)? -/
def inAperture (spBase stkBase : Nat) (ga : BitVec 64) : Bool :=
  let va := bits ga 55 0
  (decide (spBase ≤ va) && decide (va < spBase + spAperture)) ||
  (decide (stkBase ≤ va) && decide (va < stkBase + stackBytes))

/-- Does it fall in the stack aperture? -/
def inStack (spBase stkBase : Nat) (ga : BitVec 64) : Bool :=
  let va := bits ga 55 0
  !(decide (spBase ≤ va) && decide (va < spBase + spAperture)) &&
  decide (stkBase ≤ va) && decide (va < stkBase + stackBytes)

/-! ### Poison (R15, R474, R476) -/

/-- Is the quarter out of service, its memory lost: after a start its bit of QOK is clear (R471, R475, R476)? -/
def quarterLost (s : State) (q : Nat) : Bool :=
  s.oosMap.any (fun o => (decide (o.u.kind = .pchan) || decide (o.u.kind = .cacheRouter)) &&
    decide ((o.u.stop.toNat - 16) / 128 = q)) ||
  (decide (bits s.startstat 1 0 = 3) && !s.startstat.getLsbD (3 + q))

/-- Does a local address lie in the windows of a partition that has lost a quarter (R476)? -/
def windowLost (s : State) (pa : Nat) : Bool :=
  decide (pa < hostBase) && (let p := partOfQuarter s (pa / quarterBytes)
    (List.range p.2).any (fun i => quarterLost s (p.1 + i)))

/-- Does an access to local bytes complete with cause poison (R15, R474, R476)? (DEDUCED, log 76) -/
def poisonAt (s : State) (pa n : Nat) : Bool := poisonedIn s pa n || windowLost s pa

/-! ### Page tables (R27 to R36) -/

/-- What a walk ends in. -/
inductive Walked where
  | leaf (e : BitVec 64) (shift : Nat)   -- a leaf and log2 of its page size
  | absent                               -- an entry with V = 0
  | bad (cause : BitVec 8)               -- a format error of R30, or a poisoned sector (R474)
  deriving DecidableEq, Repr

/-- The levels T4 to T0: first VA bit and index bits (R27). -/
def walkLevels : List (Nat × Nat) := [(48, 8), (39, 9), (30, 9), (21, 9), (16, 5)]

/-- A leaf that R30 accepts at the level whose lowest VA bit is `sh`. -/
def leafOk (e : BitVec 64) (sh : Nat) : Bool :=
  (decide (sh = 30) && bits e 9 8 = 2 && bits e 29 16 = 0 ||
   decide (sh = 21) && bits e 9 8 = 1 && bits e 20 16 = 0 ||
   decide (sh = 16) && bits e 9 8 = 0) &&
  bits e 15 10 = 0 && bits e 63 56 = 0 && !(bits e 5 5 = 1 && bits e 47 47 = 1)

/-- A table entry that R29 and R30 accept: reserved fields zero, the next node aligned, local and in the windows. -/
def nodeOk (s : State) (part : Nat × Nat) (e : BitVec 64) (nextBits : Nat) : Bool :=
  let pa := bits e 55 8 * 256
  bits e 7 2 = 0 && bits e 63 56 = 0 && decide (pa % (8 * 2 ^ nextBits) = 0) && decide (pa / 2 ^ 48 = devNum s) &&
  inWindows part (pa % 2 ^ 48)

/-- Through which translation caches an access goes: those of a scheduler partition, of a core (its engines), or of a cache die
alone (the launch unit and Brim, at the die of the context's quarter) (R34). (DEDUCED, log 82) -/
inductive Via where
  | pipe (core part : Nat)
  | core (n : Nat)
  | die (q : Nat)
  deriving DecidableEq, Repr

/-- The die whose shared TLB and walkers serve it. -/
def Via.dieOf : Via → Nat
  | .pipe c _ => c / 64
  | .core n => n / 64
  | .die q => q

/-- The numbers of the translation caches: the L1 TLB of partition p of core c, the L2 TLB of a core, the shared TLB and the walk
cache of a die (R34). -/
def l1TlbName (core part : Nat) : Nat := 12 * core + part
def l2TlbName (core : Nat) : Nat := 4096 + core
def sharedTlbName (die : Nat) : Nat := 8192 + die
def walkName (die : Nat) : Nat := 8200 + die

/-- The quarter of the translation cache with a number. -/
def tlbQuarter (name : Nat) : Nat :=
  if name < 4096 then name / 12 / 64 else if name < 8192 then (name - 4096) / 64 else if name < 8200 then name - 8192 else name - 8200

/-- The TLBs on a path, nearest first: number, log2 of the ways, sets: 64 entries fully associative, 2,048 in 8 ways, 32,768 in 16
ways (R34). -/
def Via.tlbs : Via → List (Nat × Nat × Nat)
  | .pipe c p => [(l1TlbName c p, 6, 1), (l2TlbName c, 3, 256), (sharedTlbName (c / 64), 4, 2048)]
  | .core n => [(l2TlbName n, 3, 256), (sharedTlbName (n / 64), 4, 2048)]
  | .die q => [(sharedTlbName q, 4, 2048)]

/-- A translation cache. -/
def tlbCache (s : State) (name : Nat) : Cache TlbEntry := mapGet Cache.empty s.tlb name

/-- Does an entry cover a virtual address of an address space? -/
def tlbCovers (asid : BitVec 13) (va : Nat) (e : TlbEntry) : Bool := decide (e.asid = asid) && decide (e.base = (va >>> e.bits) <<< e.bits)

/-- The cached leaf of a virtual address, from the nearest TLB that holds one. -/
def tlbFind (s : State) (via : Via) (asid : BitVec 13) (va : Nat) : Option TlbEntry :=
  via.tlbs.findSome? (fun p => (cacheFind (tlbCache s p.1) (tlbCovers asid va)).map (·.val))

/-- A cache that holds an entry uses it; another takes it, in the set that its page number gives. (DEDUCED, log 82) -/
def tlbUse (lv sets : Nat) (e : TlbEntry) (c : Cache TlbEntry) : Cache TlbEntry :=
  match cacheFind c (fun v => decide (v = e)) with
  | some w => cacheTouch lv w c
  | none => cacheFill lv ((e.base >>> e.bits) % sets) false e c

/-- Every TLB on a path down to the first that holds the entry uses or takes it. (DEDUCED, log 82) -/
def tlbKeep (via : Via) (e : TlbEntry) (s : State) : State :=
  let ps := via.tlbs
  let far := ((ps.findIdx? (fun p => (cacheFind (tlbCache s p.1) (fun v => decide (v = e))).isSome)).map (· + 1)).getD ps.length
  (ps.take far).foldl (fun s p => { s with tlb := mapSet Cache.empty s.tlb p.1 (tlbUse p.2.1 p.2.2 e (tlbCache s p.1)) }) s

/-- A cached table entry of a die's walk cache (R34). -/
def walkFind (s : State) (die : Nat) (asid : BitVec 13) (base sh : Nat) : Option (BitVec 64) :=
  (cacheFind (tlbCache s (walkName die)) (fun x => decide (x.asid = asid) && decide (x.base = base) && decide (x.bits = sh))).map (·.val.leaf)

/-- The table entries that a successful walk used: the walk cache of 1,024 entries in 8 ways uses or takes them (R34, R35). (DEDUCED, log 82) -/
def walkKeep (die : Nat) (l : List TlbEntry) (s : State) : State :=
  l.foldl (fun s e => { s with tlb := mapSet Cache.empty s.tlb (walkName die) (tlbUse 3 128 e (tlbCache s (walkName die))) }) s

/-- Drops the entries that `f` picks from the translation caches of some quarters (R36, R466). -/
def tlbDrop (s : State) (part : Nat × Nat) (f : TlbEntry → Bool) : State :=
  let l := s.tlb.map (fun p => if part.1 ≤ tlbQuarter p.1 ∧ tlbQuarter p.1 < part.1 + part.2 then (p.1, cacheDrop p.2 f) else p)
  { s with tlb := l.filter (fun p => decide (p.2 ≠ Cache.empty)) }

/-- The walk of R27 from a node down, its table entries taken from the die's walk cache or read at their home slices; the table
entries it used are returned for the cache (R34). -/
def walkFrom (s : State) (part : Nat × Nat) (die : Nat) (asid : BitVec 13) (va node : Nat) :
    List (Nat × Nat) → List TlbEntry → Walked × List TlbEntry
  | [], _ => (.bad 0x15, [])
  | (sh, w) :: rest, used =>
    let base := (va >>> sh) <<< sh
    let at_ := node + 8 * ((va >>> sh) % 2 ^ w)
    let cached := walkFind s die asid base sh
    let e := cached.getD (BitVec.ofNat 64 (readMem s at_ 8))
    if cached.isNone && poisonAt s at_ 8 then (.bad 0x17, [])
    else if bits e 0 0 = 0 then (.absent, [])
    else if bits e 1 1 = 1 then (if leafOk e sh then (.leaf e sh, used) else (.bad 0x15, []))
    else match rest with
      | [] => (.bad 0x15, [])
      | (_, w') :: _ =>
        if nodeOk s part e w' then
          walkFrom s part die asid va ((bits e 55 8 * 256) % 2 ^ 48) rest (used ++ [{ asid := asid, base := base, bits := sh, leaf := e }])
        else (.bad 0x15, [])

/-- The walk of a context's table for a virtual address, by the walkers of a die. -/
def walk (s : State) (die c : Nat) (va : Nat) : Walked × List TlbEntry :=
  let x := ctxOf s c
  walkFrom s (partOfCtx s c) die (x.ctxtr.extractLsb' 48 13) va ((bits x.ctxtr 44 0 * 2048) % 2 ^ 48) walkLevels []

/-- A translated page: physical address of the byte, ownership and attributes (R28). -/
structure Page where
  pa  : Nat               -- 56 bits
  ro  : Bool
  xn  : Bool
  tc  : Bool
  cp  : Nat
  deriving DecidableEq, Repr

/-- What a translation yields. -/
inductive Trans where
  | page (p : Page)
  | request               -- V = 0 or an owner mismatch: a page request (R38, R39)
  | fail (cause : BitVec 8)   -- a translation failure at once (R17, R18, R30), or poison met by the walk (R474)
  deriving DecidableEq, Repr

/-- Does a device number lie inside the fabric shape of FABCFG (R153, R155, R168)? -/
def inShape (s : State) (dev : Nat) : Bool :=
  decide (dev % 16 ≤ bits s.fabcfg 11 8) && decide (dev / 16 ≤ bits s.fabcfg 15 12)

/-- Is the physical address one that a context of the partition may be given (R17, R18, R168)? -/
def paOk (s : State) (part : Nat × Nat) (pa : Nat) : Bool :=
  let loc := pa % 2 ^ 48
  let dev := pa / 2 ^ 48
  if dev = devNum s then decide (hostBase ≤ loc) || inWindows part loc
  else decide (loc < 4 * quarterBytes) && inShape s dev

/-- What a leaf gives for a virtual address of a context: an owner mismatch is a page request, an address that the context may not
be given a translation failure (R17, R18, R28, R39). -/
def leafTrans (s : State) (c : Nat) (va : Nat) (e : BitVec 64) (sh : Nat) : Trans :=
  let pa := (bits e 55 16 * 65536) + va % 2 ^ sh
  if bits e 2 2 = 1 then .request
  else if paOk s (partOfCtx s c) pa then
    .page { pa := pa, ro := decide (bits e 3 3 = 1), xn := decide (bits e 4 4 = 1), tc := decide (bits e 5 5 = 1), cp := bits e 7 6 }
  else .fail 0x15

/-- Translates a virtual address for a context, through the TLBs on a path and else by a walk; the caches keep what succeeds (R27 to
R39). -/
def translate (s : State) (via : Via) (c : Nat) (va : Nat) : State × Trans :=
  let asid := (ctxOf s c).ctxtr.extractLsb' 48 13
  match tlbFind s via asid va with
  | some e => (tlbKeep via e s, leafTrans s c va e.leaf e.bits)
  | none => match walk s via.dieOf c va with
    | (.absent, _) => (s, .request)
    | (.bad c, _) => (s, .fail c)
    | (.leaf e sh, used) => match leafTrans s c va e sh with
      | .page p => (tlbKeep via { asid := asid, base := (va >>> sh) <<< sh, bits := sh, leaf := e } (walkKeep via.dieOf used s), .page p)
      | r => (s, r)

/-- Is the physical address on this device? -/
def isLocal (s : State) (pa : Nat) : Bool := decide (pa / 2 ^ 48 = devNum s)

/-! ### The checks of R52 -/

/-- One access of a lane, an engine or the launch unit. -/
structure Access where
  ga     : BitVec 64
  n      : Nat            -- bytes
  align  : Nat            -- required alignment, 1 for none
  write  : Bool           -- fails on RO pages
  atom   : Bool           -- an atomic or reduction: UC host pages refuse it (R61)
  tags   : Bool           -- compare tags (R43)
  l1     : Option Nat := none   -- the core whose L1 the load may hit (R85)
  deriving DecidableEq, Repr

/-- Who makes it: context, translation caches, scratchpad bytes, stack slot and lane (R22), and the pages already answered failed. -/
structure Who where
  ctx     : Nat
  via     : Via
  spBytes : Nat
  slot    : Nat
  lane    : Nat
  failed  : List Nat
  deriving DecidableEq, Repr

/-- Where an access goes. -/
inductive Target where
  | spad (o : Nat)
  | mem (pa n cp : Nat)                 -- a local address (HBM or host window) with the page's cache policy
  | remote (pa n : Nat) (tc : Bool)     -- another device's
  deriving DecidableEq, Repr

/-- Its outcome: the places of its pieces, the first failing check, or an open page request's page. -/
inductive Checked where
  | ok (ts : List Target) (uc : Bool)
  | fault (cause : BitVec 8)
  | page (page : Nat)
  deriving DecidableEq, Repr

/-- The core whose L1 serves a load from a page: only pages with CP = WB are held there (R31, R85). -/
def l1For (core : Option Nat) (cp : Nat) : Option Nat := if cp = 0 then core else none

/-- Sector tags against the pointer tag, those of the L1 copy where the load hits one (R43, R87). -/
def tagsMatch (s : State) (l1 : Option Nat) (tag : BitVec 4) (pa n : Nat) : Bool :=
  (List.range ((pa + n - 1) / 32 + 1 - pa / 32)).all (fun i => decide (viewTag s l1 (32 * (pa / 32 + i)) = tag))

/-- Checks 6 to 8 for one steered piece. -/
def checkPiece (s : State) (w : Who) (a : Access) (tag : BitVec 4) (va n : Nat) : State × Checked :=
  match translate s w.via w.ctx va with
  | (s1, .fail c) => (s1, .fault c)
  | (s1, .request) => (s1, if w.failed.contains (va / 65536) then .fault 0x15 else .page (va / 65536))
  | (s1, .page p) =>
    let loc := p.pa % 2 ^ 48
    let host := isLocal s p.pa && decide (hostBase ≤ loc)
    if (a.write && p.ro) || (a.atom && host && decide (p.cp = 2)) then (s1, .fault 0x13)
    else if isLocal s p.pa then
      if a.tags && p.tc && !tagsMatch s (l1For a.l1 p.cp) tag loc n then (s1, .fault 0x16)
      else (s1, .ok [.mem loc n p.cp] (decide (p.cp = 2)))
    else (s1, .ok [.remote p.pa n p.tc] (decide (p.cp = 2)))

/-- Checks of several pieces: the first that fails decides. -/
def checkPieces (s : State) (w : Who) (a : Access) (tag : BitVec 4) : List (Nat × Nat) → State × Checked
  | [] => (s, .ok [] false)
  | (va, n) :: rest =>
    match checkPiece s w a tag va n with
    | (s1, .ok ts uc) =>
      match checkPieces s1 w a tag rest with
      | (s2, .ok ts' _) => (s2, .ok (ts ++ ts') uc)
      | r => r
    | r => r

/-- The pieces of a global range: cut at 64-byte boundaries, so that none crosses a line or a page. -/
def cutRange (va n : Nat) : Nat → List (Nat × Nat)
  | 0 => []
  | fuel + 1 =>
    let k := min n (64 - va % 64)
    if n = 0 then [] else (va, k) :: cutRange (va + k) (n - k) fuel

/-- Checks 1 to 8 of R52 for one access; the descriptor checks 3 and 4 are the caller's and stand between. `early` is
true when checks 1 to 5 alone are asked for (R448). -/
def checkAccess (s : State) (w : Who) (a : Access) : State × Checked :=
  let x := ctxOf s w.ctx
  let sp := bits x.spbase 55 0
  let stk := bits x.stkbase 55 0
  if a.ga.extractLsb' 60 4 ≠ 0 then (s, .fault 0x10)
  else if bits a.ga 55 0 % a.align ≠ 0 then (s, .fault 0x11)
  else if inStack sp stk a.ga then
    if a.atom && decide (4 < a.n) then (s, .fault 0x10)
    else
      let words := (List.range ((a.n + 3) / 4)).map (fun i =>
        steer sp stk w.spBytes w.slot w.lane (a.ga + BitVec.ofNat 64 (4 * i)) (min 4 a.n))
      let vas := words.filterMap (fun r => match r with
        | .glob _ va => some (va, min 4 a.n)
        | _ => none)
      if vas.length < words.length then (s, .fault 0x10) else checkPieces s w a (a.ga.extractLsb' 56 4) vas
  else match steer sp stk w.spBytes w.slot w.lane a.ga a.n with
    | .fault => (s, .fault 0x10)
    | .spad o => (s, .ok [.spad o] false)
    | .glob tag va =>
      if 2 ^ 56 < va + a.n then (s, .fault 0x10) else checkPieces s w a tag (cutRange va a.n (a.n / 64 + 2))

/-- Does an access fail one of checks 1, 2 and 5, which need no translation (R52)? -/
def earlyFault (s : State) (w : Who) (a : Access) : Option (BitVec 8) :=
  let x := ctxOf s w.ctx
  let sp := bits x.spbase 55 0
  let stk := bits x.stkbase 55 0
  if a.ga.extractLsb' 60 4 ≠ 0 then some 0x10
  else if bits a.ga 55 0 % a.align ≠ 0 then some 0x11
  else if inStack sp stk a.ga && a.atom && decide (4 < a.n) then some 0x10
  else match steer sp stk w.spBytes w.slot w.lane a.ga a.n with
    | .fault => some 0x10
    | .spad _ => none
    | .glob _ va => if 2 ^ 56 < va + (if inStack sp stk a.ga then min 4 a.n else a.n) then some 0x10 else none

/-! ### Page requests (R38, R446) -/

/-- The open request for a page of a context. -/
def pageOpen (x : Ctx) (page : Nat) : Option (BitVec 32) :=
  (x.pages.find? (fun p => decide (p.page = page) && p.answered.isNone)).map (·.id)

/-- Joins or opens the page request of a page: its identity, or none when the ring is disabled and it is answered failed
(R443, R446). `rec0` says who asks. -/
def requestPage (s : State) (c : Nat) (page : Nat) (rec0 : FaultRec) : State × Option (BitVec 32) :=
  let x := ctxOf s c
  match pageOpen x page with
  | some q => (s, some q)
  | none =>
    if bits x.fltring 63 63 = 0 then (s, none)
    else
      let s1 := updCtx s c (fun x => { x with
        pages := x.pages ++ [{ id := x.pageid, seq := none, page := page, answered := none }], pageid := x.pageid + 1 })
      (queueRec s1 c { rec0 with kind := 1, cause := 0x1B, flags := rec0.flags ||| 2, req := some x.pageid }, some x.pageid)

/-- Does the fault ring of a context take one more record than those that wait (R443)? (DEDUCED, log 46) -/
def recordRoom (s : State) (c : Nat) : Bool :=
  let x := ctxOf s c
  let size := bits x.fltring 51 44 * 4096
  decide (bits x.fltring 63 63 = 0) ||
  decide (64 * (x.faultQ.length + 1) < (if x.flthead = x.flttail then size else (x.flttail.toNat + size - x.flthead.toNat) % size))

/-! ### Accesses at the home slice -/

/-- May a store be made: it covers every poisoned sector it touches whole, so that it clears them, and the memory is not lost
(R474, R476). (DEDUCED, log 76) -/
def coversPoison (s : State) (pa n : Nat) : Bool :=
  !windowLost s pa && s.poison.all (fun p => !(p.2 && decide (pa / 32 ≤ p.1) && decide (p.1 ≤ (pa + n - 1) / 32)) ||
    (decide (pa ≤ 32 * p.1) && decide (32 * p.1 + 32 ≤ pa + n)))

/-- Reads the pieces of a checked local access, lowest first, as the L1 of a core or the home slices give them: the number, or none
where a piece is poisoned (R85, R202, R474). -/
def viewTargets (s : State) (l1 : Option Nat) (b : Block) : List Target → Option Nat
  | [] => some 0
  | .spad o :: rest => (viewTargets s l1 b rest).map (fun v => spRead b o 4 + (v <<< 32))
  | .mem pa n cp :: rest =>
    if poisonAt s pa n then none
    else (viewTargets s l1 b rest).map (fun v => leNat (viewByte s (l1For l1 cp)) pa n + (v <<< (8 * n)))
  | .remote _ _ _ :: _ => some 0

/-- Reads `n` bytes of a checked access as a number, for a load that the L1 of a core may serve. -/
def viewChecked (s : State) (l1 : Option Nat) (b : Block) (ts : List Target) (n : Nat) : Option Nat :=
  match ts with
  | [.spad o] => some (spRead b o n)
  | _ => viewTargets s l1 b ts

/-- Reads the pieces of a checked local access at their home slices. -/
def readTargets (s : State) (b : Block) (ts : List Target) : Option Nat := viewTargets s none b ts

/-- Reads `n` bytes of a checked access at the home slices as a number. -/
def readChecked (s : State) (b : Block) (ts : List Target) (n : Nat) : Option Nat := viewChecked s none b ts n

/-- The pieces of an access pass their slices, which allocate as the page's policy says; `part` is the partition of the context
(R31, R58). -/
def slicePass (part : Nat × Nat) (low write : Bool) (ts : List Target) (s : State) : State :=
  ts.foldl (fun s t => match t with
    | .mem pa n cp => sliceTouch s part cp low pa n write
    | _ => s) s

/-- The pieces of a load pass the caches: from a WB page the core's L1 takes what it does not hold, unless it does not allocate
(R85, R287). -/
def loadPass (part : Nat × Nat) (l1 : Option Nat) (keep low : Bool) (ts : List Target) (s : State) : State :=
  ts.foldl (fun s t => match t with
    | .mem pa n cp => match l1For l1 cp with
      | some core =>
        let hit := (List.range ((pa + n - 1) / 32 + 1 - pa / 32)).all (fun i => (l1Find s core (32 * (pa / 32 + i))).isSome)
        let s1 := if hit then s else sliceTouch s part cp low pa n false
        if keep || hit then l1Take s1 core pa n else s1
      | none => sliceTouch s part cp low pa n false
    | _ => s) s

/-- Writes the pieces of a checked local access from the number `v`; none where a partly covered sector is poisoned. -/
def writeTargets (core : Nat) (s : State) (part : Nat × Nat) (v : Nat) : List Target → Option State
  | [] => some s
  | .mem pa n cp :: rest =>
    if coversPoison s pa n then
      writeTargets core (writeMemBy core (sliceTouch s part cp false pa n true) pa n (byteOf v)) part (v >>> (8 * n)) rest
    else none
  | _ :: _ => some s

/-- Writes `n` bytes of a checked access: global pieces at their home slices, or the block's scratchpad. -/
def writeChecked (core : Nat) (s : State) (part : Nat × Nat) (disp : BitVec 64) (block : Nat) (ts : List Target) (n v : Nat) : Option State :=
  match ts with
  | [.spad o] => some (spWrite s disp block o n (byteOf v))
  | _ => writeTargets core s part v ts

end Sys2Proof.Machine
end

