-- ==== Sys2Proof/Machine/Objects.lean ====
section
/-! DEFINITION. Barriers and futures: their words in the completion areas and the object operations of a home slice
(R62, R108 to R123). -/
namespace Sys2Proof.Machine
open Sys2Proof.Forms

/-! ### Where objects stand (R108, R109) -/

/-- The physical address of byte `off` of area `area` of a context's pool. -/
def areaPa (x : Ctx) (area off : Nat) : Nat := bits x.cmplpool 43 0 * 4096 + 4096 * area + off

/-- The local address of barrier `n` of an area, and of future slot `slot`. -/
def barrierAt (x : Ctx) (area n : Nat) : Nat := areaPa x area (16 * n) % 2 ^ 48
def futureAt (x : Ctx) (area slot : Nat) : Nat := areaPa x area (0x800 + 32 * slot) % 2 ^ 48

/-- Is an object of the pool refused: not in local HBM (R62, R109)? -/
def poolRefused (s : State) (x : Ctx) (area : Nat) : Bool :=
  !(isLocal s (areaPa x area 0) && decide (areaPa x area 0 % 2 ^ 48 < hostBase))

/-! ### Barriers (R120, R121) -/

/-- A barrier object. -/
structure Bar where
  arr   : Nat
  load  : Nat
  bytes : Int
  phase : Bool
  init  : Bool
  err   : Nat
  deriving DecidableEq, Repr

/-- The barrier in 128 bits, and its bits (R120). -/
def barOf (v : Nat) : Bar :=
  { arr := fld v 0 16, load := fld v 16 16, bytes := sgn 32 (fld v 32 32), phase := decide (fld v 64 1 = 1),
    init := decide (fld v 65 1 = 1), err := fld v 66 2 }
def barBits (b : Bar) : Nat :=
  b.arr % 2 ^ 16 + ((b.load % 2 ^ 16) <<< 16) + (wrap 32 b.bytes <<< 32) + (b.phase.toNat <<< 64) + (b.init.toNat <<< 65) +
  ((b.err % 4) <<< 66)

def readBar (s : State) (pa : Nat) : Bar := barOf (readMem s pa 16)

/-- The end of a phase: with ARR and BYTES both zero, PHASE flips, ARR reloads and BYTES stays zero (R120). -/
def barSettle (b : Bar) : Bar := if b.arr = 0 ∧ b.bytes = 0 then { b with phase := !b.phase, arr := b.load } else b

/-- BYTES plus `d`, or the overrun error where the sum leaves 32 bits (R121). -/
def barAdd (b : Bar) (d : Int) : Bar :=
  let v := b.bytes + d
  if v < -(2 ^ 31 : Int) ∨ (2 ^ 31 : Int) ≤ v then { b with err := 2 } else barSettle { b with bytes := v }

/-- One arrival (R121). -/
def barArrive (b : Bar) : Bar := if b.arr = 0 then { b with err := 2 } else barSettle { b with arr := b.arr - 1 }

/-- A barrier of the block whose area holds the address has changed: its dropped splits return to tier 1 (R420). -/
def barrierSeen (s : State) (pa : Nat) : State :=
  let own (b : Block) : Bool :=
    decide (areaPa (ctxOf s b.ctx) b.area 0 % 2 ^ 48 ≤ pa) && decide (pa < areaPa (ctxOf s b.ctx) b.area 0 % 2 ^ 48 + 256)
  match s.blocks.find? own with
  | none => s
  | some b =>
    let f (sp : Split) : Split := if sp.tier = 2 then { sp with dropAt := 0 } else sp
    { s with teams := s.teams.map (fun t => if t.key.disp = b.disp ∧ t.key.block = b.index
        then { t with low := t.low.map f, high := t.high.map f } else t) }

/-- Writes a barrier object as one step on its line (R62); an operation of a unit on a poisoned object has no effect (R474).
(DEDUCED, log 76) -/
def writeBar (s : State) (pa : Nat) (b : Bar) : State :=
  if barBits b = readMem s pa 16 ∨ poisonAt s pa 16 = true then s else barrierSeen (writeNat s pa 16 (barBits b)) pa

/-- Barrier init (R110). -/
def barInit (s : State) (pa : Nat) (count : Nat) : State :=
  writeBar s pa { arr := count, load := count, bytes := 0, phase := false, init := true, err := 0 }

/-- An arrival, a byte arrival or an expect at a barrier (R62). -/
def barArriveAt (s : State) (pa : Nat) : State := writeBar s pa (barArrive (readBar s pa))
def barBytesAt (s : State) (pa : Nat) (n : Nat) : State := writeBar s pa (barAdd (readBar s pa) (-(n : Int)))
def barExpectAt (s : State) (pa : Nat) (d : Int) : State := writeBar s pa (barAdd (readBar s pa) d)

/-- The end of a cancelled multicast at a receiver: the undelivered bytes arrive and ERR becomes 1 (R118, R120). -/
def barShort (s : State) (pa : Nat) (n : Nat) : State :=
  writeBar s pa { barAdd (readBar s pa) (-(n : Int)) with err := 1 }

/-! ### Futures (R110 to R118) -/

/-- The first 16 bytes of a future object hold DONE, STATUS, GEN, ENG, BYTES and the start of COORD (R112). -/
def futDone (s : State) (pa : Nat) : Bool := decide (readMem s pa 1 % 2 = 1)
def futStatus (s : State) (pa : Nat) : Nat := readMem s (pa + 1) 1
def futGen (s : State) (pa : Nat) : Nat := readMem s (pa + 2) 1
def futEng (s : State) (pa : Nat) : Nat := readMem s (pa + 4) 2

/-- The value of a future that is done, as FWAIT and FTEST return it (R397). -/
def futValue (s : State) (pa : Nat) : Nat := futStatus s pa + 256

/-- Does the slice refuse an object of a context's pool at a local address (R62, R109)? -/
def objRefused (s : State) (c pa : Nat) : Bool := !(isLocal s (areaPa (ctxOf s c) 0 0) && decide (pa < hostBase))

/-- Complete: the status is written and DONE set, once; a second complete is discarded (R62). -/
def futComplete (s : State) (pa : Nat) (r : FutureResult) : State :=
  if futDone s pa || poisonAt s pa 32 then s
  else
    let s1 := writeNat s (pa + 1) 1 r.status.toNat
    let s2 := writeNat s1 (pa + 8) 24 (r.bytes.toNat + (r.coord.toNat <<< 32) + (r.side.toNat <<< 152))
    writeNat s2 pa 1 1

/-- Cancel: status CANCELLED and DONE unless DONE stands already; BYTES becomes UNKNOWN (R62, R112). -/
def futCancel (s : State) (pa : Nat) : State :=
  if futDone s pa || poisonAt s pa 32 then s
  else
    { futComplete s pa { status := 1, bytes := unknown s.fresh (2 ^ 21), coord := 0, side := 0 } with fresh := s.fresh + 1 }

/-- The handle of slot `slot` of an area in generation `gen` (R111). -/
def handleOf (slot area gen : Nat) : Word := BitVec.ofNat 32 (slot + (area <<< 6) + (gen <<< 22) + (1 <<< 31))

/-- The block of a context that holds an area (R108). -/
def blockOfArea (s : State) (c area : Nat) : Option Block :=
  s.blocks.find? (fun b => decide (b.ctx = c) && decide (b.area = area))

/-- The lowest free future slot of a block (R110). (DEDUCED, log 32) -/
def freeFuture (b : Block) : Option Nat := (List.range 64).find? (fun i => !b.futures.getLsbD i)

/-- Future allocate: the slot's address and handle (R110). -/
def futAllocate (s : State) (b : Block) (slot eng : Nat) : State × Nat × Word :=
  let pa := futureAt (ctxOf s b.ctx) b.area slot
  let s1 := updBlock s b.disp b.index (fun b => { b with futures := b.futures ||| BitVec.ofNat 64 (2 ^ slot) })
  (writeNat (writeNat s1 pa 1 0) (pa + 4) 2 eng, pa, handleOf slot b.area (futGen s pa))

/-- Future retire: GEN goes up modulo 256 and the slot is free (R110). -/
def futRetire (s : State) (c : Nat) (h : Word) : State :=
  let area := bits h 21 6
  let slot := bits h 5 0
  let pa := futureAt (ctxOf s c) area slot
  let s1 := writeNat s (pa + 2) 1 ((futGen s pa + 1) % 256)
  match blockOfArea s c area with
  | none => s1
  | some b => updBlock s1 b.disp b.index (fun b => { b with futures := b.futures &&& ~~~(BitVec.ofNat 64 (2 ^ slot)) })

/-- The handle check of R116: the cause of its fault, or none for a handle that names a live future. -/
def handleFault (s : State) (c : Nat) (h : Word) : Option (BitVec 8) :=
  let x := ctxOf s c
  if bits h 31 31 = 0 ∨ bits h 30 30 = 1 ∨ bits x.cmplpool 59 44 ≤ bits h 21 6 then some 0x31
  else if (blockOfArea s c (bits h 21 6)).isNone ∨ futGen s (futureAt x (bits h 21 6) (bits h 5 0)) ≠ bits h 29 22 then
    some 0x32
  else if poolRefused s x (bits h 21 6) then some 0x42
  else none

end Sys2Proof.Machine
end

