-- ==== Sys2Proof/Machine/Send.lean ====
section
/-! DEFINITION. Fabric packets, routes and ports, request identities, and what a response brings to the one who waits for
it (R153 to R183). -/
namespace Sys2Proof.Machine
open Sys2Proof.Forms

/-! ### The header flit (R157) -/

/-- The fields of a header flit. -/
structure Hdr where
  kind   : Nat := 0
  cls    : Nat := 0
  vc     : Nat := 0
  qos    : Nat := 0
  cnt    : Nat := 0
  det    : Nat := 0
  esc    : Nat := 0
  retx   : Nat := 0
  errf   : Nat := 0
  src    : Nat := 0
  dst    : Nat := 0
  inc    : Nat := 0
  reqid  : Nat := 0
  len    : Nat := 0
  tag    : Nat := 0
  tc     : Nat := 0
  op     : Nat := 0
  bytes  : Nat := 0              -- BYTESM1
  addr   : Nat := 0
  asid   : Nat := 0
  tslot  : Nat := 0
  stream : Nat := 0
  epoch  : Nat := 0
  count  : Nat := 0
  npeer  : Nat := 0
  pidx   : Nat := 0
  engf   : Nat := 0
  deriving DecidableEq, Repr

/-- Places `w` bits of `v` at bit `lo`. -/
def at' (v w lo : Nat) : Nat := (v % 2 ^ w) <<< lo

/-- The header flit of R157. -/
def hdrFlit (h : Hdr) : BitVec 256 :=
  BitVec.ofNat 256 (at' h.kind 5 0 + at' h.cls 2 5 + at' h.vc 2 7 + at' h.qos 2 9 + at' h.cnt 1 11 + at' h.det 1 12 +
    at' h.esc 1 13 + at' h.retx 1 14 + at' h.errf 1 15 + at' h.src 8 16 + at' h.dst 8 24 + at' h.inc 16 32 +
    at' h.reqid 16 48 + at' h.len 3 64 + at' h.tag 4 67 + at' h.tc 1 71 + at' h.op 6 72 + at' h.bytes 7 80 +
    at' h.addr 48 88 + at' h.asid 13 136 + at' h.tslot 15 149 + at' h.stream 4 164 + at' h.epoch 8 168 +
    at' h.count 32 176 + at' h.npeer 4 208 + at' h.pidx 3 212 + at' h.engf 1 215)

/-- The fields of a header flit. -/
def hdrOf (p : Packet) : Hdr :=
  let f (lo w : Nat) : Nat := bits p.hdr (lo + w - 1) lo
  { kind := f 0 5, cls := f 5 2, vc := f 7 2, qos := f 9 2, cnt := f 11 1, det := f 12 1, esc := f 13 1, retx := f 14 1,
    errf := f 15 1, src := f 16 8, dst := f 24 8, inc := f 32 16, reqid := f 48 16, len := f 64 3, tag := f 67 4,
    tc := f 71 1, op := f 72 6, bytes := f 80 7, addr := f 88 48, asid := f 136 13, tslot := f 149 15, stream := f 164 4,
    epoch := f 168 8, count := f 176 32, npeer := f 208 4, pidx := f 212 3, engf := f 215 1 }

/-- Does a header break R158: a reserved KIND, class or length, or a reserved field that is not zero? (DEDUCED, log 52) -/
def hdrReserved (p : Packet) : Bool :=
  let h := hdrOf p
  decide (12 < h.kind) || decide (h.cls = 3) || (within h.kind 6 6 && decide ((p.data.headD 0).toNat >>> 80 ≠ 0)) ||
  (decide (h.kind = 9) && !within h.op 1 6) || decide (5 < h.len) || decide (bits p.hdr 79 78 ≠ 0) ||
  decide (bits p.hdr 87 87 ≠ 0) || decide (bits p.hdr 255 216 ≠ 0)

/-- Data flits of the `n` low bytes of a number. -/
def dataFlits (v n : Nat) : List (BitVec 256) :=
  (List.range ((n + 31) / 32)).map (fun i => BitVec.ofNat 256 (fld v (256 * i) (8 * min 32 (n - 32 * i))))

/-- The number that data flits hold. -/
def flitData : List (BitVec 256) → Nat
  | [] => 0
  | f :: rest => f.toNat + (flitData rest <<< 256)

/-- A packet of a header and the low `n` bytes of a number. -/
def packetOf (h : Hdr) (v n : Nat) : Packet := { hdr := hdrFlit { h with len := (n + 31) / 32 }, data := dataFlits v n }

/-- Rewrites a packet's header. -/
def rehdr (p : Packet) (f : Hdr → Hdr) : Packet := { p with hdr := hdrFlit (f (hdrOf p)) }

/-- Kinds of R158. -/
def kLOAD : Nat := 0
def kSTORE : Nat := 1
def kATOMIC : Nat := 2
def kREDUCE : Nat := 3
def kRELEASE : Nat := 4
def kCLOSE : Nat := 5
def kMCAST : Nat := 6
def kDATA : Nat := 7
def kACK : Nat := 8
def kERROR : Nat := 9
def kBUSY : Nat := 10
def kLINKMGMT : Nat := 11
def kTIMEX : Nat := 12

/-! ### Routes (R153, R154, R160 to R162) -/

/-- The row port toward a column and the column port toward a row (R154). -/
def rowPort (own col : Nat) : Nat := if col < own then col else col - 1
def colPort (own row : Nat) : Nat := 15 + (if row < own then row else row - 1)

/-- The device that a port connects to (R154). -/
def portDev (own port : Nat) : Nat :=
  let r := own / 16
  let c := own % 16
  if port < 15 then r * 16 + (if port < c then port else port + 1)
  else (if port - 15 < r then port - 15 else port - 15 + 1) * 16 + c

/-- Is a port enabled and connected inside the fabric shape (R154, R155)? (DEDUCED, log 74) -/
def portUp (s : State) (p : Nat) : Bool :=
  decide (p < 30) && decide (bits s.fabcfg 45 16 / 2 ^ p % 2 = 1) && inShape s (portDev (devNum s) p)

/-- The minimal first-hop port from a device to another (R160). -/
def minimalPort (own dst : Nat) : Nat :=
  if own % 16 ≠ dst % 16 then rowPort (own % 16) (dst % 16) else colPort (own / 16) (dst / 16)

/-- Flits in a port's queue at the end of the last cycle (R162). -/
def occ (s : State) (p : Nat) : Nat := mapGet 0 s.occs p

/-- Flits in a port's queue now. -/
def flitsAt (s : State) (p : Nat) : Nat := (s.portQ.filter (fun q => decide (q.port = p))).foldl (fun n q => n + 1 + q.pkt.data.length) 0

/-- The cycle's end: what the queues hold decides the routes of the next (R162). (DEDUCED, log 74) -/
def noteOccupancy (s : State) : State :=
  { s with occs := (List.range 30).foldl (fun m p => mapSet 0 m p (flitsAt s p)) s.occs }

/-- PORTEN of a device, as the management controller keeps it in the router (R162). (DEDUCED, log 74) -/
def portEn (s : State) (dev p : Nat) : Bool :=
  if dev = devNum s then decide (bits s.fabcfg 45 16 / 2 ^ p % 2 = 1) else (mapGet (BitVec.allOnes 30) s.portMap dev).getLsbD p

/-- Is the link between two devices of one row or column up: enabled at both of its ends (R162)? (DEDUCED, log 74) -/
def linkOk (s : State) (a b : Nat) : Bool :=
  decide (a = b) || (inShape s a && inShape s b && portEn s a (minimalPort a b) && portEn s b (minimalPort b a))

/-- Is every link of the minimal route up (R160, R162)? -/
def pathUp (s : State) (a dst : Nat) : Bool :=
  let corner := a / 16 * 16 + dst % 16
  linkOk s a corner && linkOk s corner dst

/-- The detour candidates toward a device: ports to a permissible intermediate device, over links that are all up (R161, R162).
(DEDUCED, log 74) -/
def detours (s : State) (dst : Nat) : List Nat :=
  let own := devNum s
  (List.range 30).filter (fun p => portUp s p &&
    (let i := portDev own p
     linkOk s own i && pathUp s i dst &&
     (if own % 16 ≠ dst % 16 then decide (p < 15) && decide (i % 16 ≠ dst % 16)
      else decide (15 ≤ p) && decide (i / 16 ≠ dst / 16))))

/-- The candidate with the least occupancy, the lowest port on a tie. -/
def leastOcc (s : State) : List Nat → Option Nat
  | [] => none
  | p :: rest => match leastOcc s rest with
    | none => some p
    | some q => if occ s q < occ s p then some q else some p

/-- The choice of R162: a port and whether it is a detour; none where no route is up. (DEDUCED, log 74) -/
def route (s : State) (dst : Nat) : Option (Nat × Bool) :=
  let m := minimalPort (devNum s) dst
  let j := leastOcc s (detours s dst)
  if portUp s m && pathUp s (devNum s) dst then
    if bits s.fabrte 16 16 = 0 ∨ occ s m < bits s.fabrte 7 0 then some (m, false)
    else match j with
      | some j => if occ s j + bits s.fabrte 15 8 ≤ occ s m then some (j, true) else some (m, false)
      | none => some (m, false)
  else j.map (fun j => (j, true))

/-- Puts a packet that came by an input into a port's queue; input 30 is this device's own. -/
def toPort (s : State) (inp p : Nat) (pkt : Packet) : State :=
  { s with portQ := s.portQ ++ [{ port := p, pkt := pkt, inp := inp, since := s.cycle }] }

/-- The step that takes a packet that has arrived, by its KIND (R158); the exchange of counts has been taken at its port. -/
def packetEvent (port : Nat) (p : Packet) : Event :=
  if hdrReserved p then .reservedKindDiscard port p
  else match (hdrOf p).kind with
    | 0 => .fabLoad p
    | 1 => .fabStore p
    | 2 => .fabAtomic p
    | 3 => .fabReduce p
    | 4 => .fabRelease p
    | 5 => .fabClose p
    | 6 => .fabMcast p
    | 7 => .fabData p
    | 8 => .fabAck p
    | 9 => .fabError p
    | 10 => .fabBusy p
    | 11 => .linkmgmt port p
    | _ => .reservedKindDiscard port p

/-- Injects a packet toward its destination; false where no route is up. A packet to the own device is taken at once. -/
def inject (s : State) (p : Packet) : State × Bool :=
  let h := hdrOf p
  if h.dst = devNum s then (addAgenda s [packetEvent 30 p], true)
  else match route s h.dst with
  | none => (s, false)
  | some (port, det) =>
    (toPort s 30 port (rehdr p (fun h => { h with vc := if det then 0 else 1, det := det.toNat })), true)

/-! ### Who waits: completing requests -/

/-- A fault of lanes of an instruction that the split has gone past: held where it stands (R447). (DEDUCED, log 23) -/
def lateFault (s : State) (r : SplitRef) (cause : BitVec 8) (pc : BitVec 56) (ls : List Nat) (acc : BitVec 8)
    (ga : BitVec 64) (info2 : BitVec 64) : State :=
  let f : FaultSpec :=
    { cause := cause, pc := pc, lanes := maskOf 1024 (fun l => ls.contains l), atInstr := false, lane := ls.headD 0, acc := acc,
      addr := some ga, write := decide (acc ≠ 0), side := false, info := BitVec.ofNat 32 ls.length, info2 := info2 }
  raiseFault s (if (splitOf s r).isSome then r else { r with high := !r.high }) f

/-- The flight entries of a team, changed at one identity. -/
def updFlight (s : State) (k : TeamKey) (id : Nat) (f : InFlight → InFlight) : State :=
  updTeam s k (fun t => { t with inflight := t.inflight.map (fun e => if e.id = id then f e else e) })

/-- A remote operation is ready once no request of it is outstanding. -/
def settleFlight (s : State) (k : TeamKey) (id : Nat) : State :=
  if s.outReqs.any (fun q => match q.waiter with
      | .team r _ _ _ _ f _ _ _ => decide (r.team = k) && decide (f = id)
      | _ => false) then s
  else updFlight s k id (fun e => if e.state = .remote then { e with state := .ready } else e)

/-- Sets the values that lanes of a flight will write. -/
def flightValues (e : InFlight) (code regs : Nat) (vals : List (Nat × Nat)) : InFlight :=
  { e with writes := e.writes.map (fun w =>
      match vals.find? (fun v => decide (v.1 = w.lane) || decide (128 ≤ code)) with
      | some v => if code ≤ w.code ∧ w.code < code + regs then
          { w with val := BitVec.ofNat 32 (v.2 >>> (32 * (w.code - code))) } else w
      | none => w) }

/-- Lanes that fail write nothing. -/
def flightDrop (e : InFlight) (ls : List Nat) : InFlight :=
  { e with writes := e.writes.filter (fun w => !(ls.contains w.lane || decide (128 ≤ w.code))) }

/-- The request for a response, if it is outstanding and was sent. -/
def reqOf (s : State) (dev reqid : Nat) : Option OutReq :=
  s.outReqs.find? (fun q => decide (q.dev.toNat = dev) && decide (q.reqid.toNat = reqid) && !q.queued)

/-- A request not yet sent: its target, its packet, who waits for the response, and whether it is a write request (R168). -/
def newReq (dev : Nat) (p : Packet) (w : Waiter) (write : Bool) : OutReq :=
  { dev := BitVec.ofNat 8 dev, reqid := 0, num := 0, packet := p, waiter := w, queued := false, room := false, tries := 0, sent := 0
    busyAt := none, write := write }

/-- The team of a request. -/
def reqTeam (q : OutReq) : Option TeamKey :=
  match q.waiter with
  | .team r _ _ _ _ _ _ _ _ => some r.team
  | .close k _ => some k
  | .mcast _ _ r => some r.team
  | .fetch (.split r) _ => some r.team
  | .fetch (.lane r _) _ => some r.team
  | _ => none

/-- Does a request access a line? A CLOSE does not (R158). -/
def onLine (q : OutReq) : Bool := decide ((hdrOf q.packet).kind ≤ 4) || decide ((hdrOf q.packet).kind = kMCAST)

/-- The 128-byte line that it goes to, and the devices: the peers of a MCAST (R169, R178). -/
def reqLine (q : OutReq) : Nat := (hdrOf q.packet).addr / 128
def reqDevs (q : OutReq) : List Nat :=
  let h := hdrOf q.packet
  if h.kind = kMCAST then (List.range h.npeer).map (fun i => fld (flitData q.packet.data) (8 * i) 8) else [q.dev.toNat]

/-- Do two requests access one line of one device? -/
def sameLine (p q : OutReq) : Bool :=
  onLine p && onLine q && decide (reqLine p = reqLine q) && (reqDevs p).any (reqDevs q).contains

/-- Has the team of a request an earlier one to the line without a response (R169)? -/
def behindLine (s : State) (q : OutReq) : Bool :=
  (reqTeam q).isSome && s.outReqs.any (fun p => decide (reqTeam p = reqTeam q) && decide (p.num < q.num) && sameLine p q)

/-- The entries of a partition's remote-line table: the lines toward which its teams have sent requests that have no response
(R169). (DEDUCED, log 54) -/
def lineTable (s : State) (part : Nat) : List (TeamKey × BitVec 8 × Nat) :=
  (s.outReqs.filterMap (fun q => match reqTeam q with
    | some k => if onLine q && !q.queued && decide ((teamOf s k).map partKey = some part) then some (k, q.dev, reqLine q) else none
    | none => none)).eraseDups

/-- Has the table of the request's partition, of 32 entries, a free one for it (R169)? -/
def lineRoom (s : State) (q : OutReq) : Bool :=
  match (reqTeam q).bind (teamOf s) with
  | some t => !onLine q || decide ((lineTable s (partKey t)).length < 32)
  | none => true

/-- Does a split hold requests back because the table of its partition is full (R169)? -/
def linesFull (s : State) (r : SplitRef) : Bool :=
  s.outReqs.any (fun q => q.room && (match q.waiter with
    | .team r' _ _ _ _ _ _ _ _ => decide (r' = r)
    | .mcast _ _ r' => decide (r' = r)
    | _ => false))

/-- Is a remote write of a team without a response? -/
def owes (s : State) (k : TeamKey) : Bool :=
  s.outReqs.any (fun q => q.write && (match q.waiter with
    | .team r _ _ _ _ _ _ _ _ => decide (r.team = k)
    | _ => false))

/-- Is a remote write of some team of a dispatch without a response? -/
def dispOwes (s : State) (id : BitVec 64) : Bool :=
  s.outReqs.any (fun q => q.write && (match q.waiter with
    | .team r _ _ _ _ _ _ _ _ => decide (r.team.disp = id)
    | _ => false))

/-- Gives a request the next REQID toward its target and injects it (R180); where no route is up it is left as sent long
ago, so that it ends as toward a reset peer (R162). -/
def sendOut (s : State) (q : OutReq) : State :=
  let id := mapGet (0 : BitVec 16) s.reqIds q.dev.toNat
  let p := rehdr q.packet (fun h => { h with reqid := id.toNat })
  let (s1, ok) := inject { s with reqIds := mapSet 0 s.reqIds q.dev.toNat (id + 1) } p
  let q1 := { q with reqid := id, packet := p, queued := false, room := false, sent := s.cycle, tries := if ok then 0 else 16 }
  let s2 := { s1 with outReqs := s1.outReqs ++ [q1] }
  if ok then s2 else addAgenda s2 [.responseTimeout q.dev id]

/-- Sends the requests that waited for an earlier access to their line or for room in the table, as far as both allow (R169). (DEDUCED, log 54) -/
def sendWaiting (s : State) : State :=
  (s.outReqs.filter (·.queued)).foldl (fun s q =>
    if behindLine s q || !lineRoom s q then s else sendOut { s with outReqs := s.outReqs.erase q } q) s

/-- A new request: held back while an earlier access of the team to the line has no response, and while the partition's table of
remote lines is full (R169). (DESIGN CHOICE, log 9) -/
def request (s : State) (q0 : OutReq) : State :=
  let q := { q0 with num := s.reqNum }
  let s1 := { s with reqNum := s.reqNum + 1 }
  let s2 := match q.waiter, q.write with
    | .team r _ _ _ _ _ _ _ _, true => updTeam s1 r.team (fun t => { t with remote := t.remote + 1 })
    | .mcast _ _ r, true => updTeam s1 r.team (fun t => { t with remote := t.remote + 1 })
    | .close k _, true => updTeam s1 k (fun t => { t with remote := t.remote + 1 })
    | _, _ => s1
  let behind := behindLine s q
  if behind || !lineRoom s q then { s2 with outReqs := s2.outReqs ++ [{ q with queued := true, room := !behind }] }
  else sendOut s2 q

/-- Takes a request out of the table once its response is here; requests that waited for it are sent. -/
def retireReq (s : State) (q : OutReq) : State :=
  let s1 := { s with outReqs := s.outReqs.erase q }
  match reqTeam q with
  | none => s1
  | some k => sendWaiting (if q.write then updTeam s1 k (fun t => { t with remote := t.remote - 1 }) else s1)

/-- The cause of an ERROR code and the status of the same name (R159, R113, R445). -/
def errCause (op : Nat) : BitVec 8 :=
  match op with
  | 1 => 0x13
  | 2 => 0x16
  | 3 => 0x15
  | 4 => 0x17
  | 5 => 0x19
  | 6 => 0x11
  | _ => 0x13
def errStatus (op : Nat) : BitVec 8 :=
  match op with
  | 1 => 0x06
  | 2 => 0x07
  | 3 => 0x05
  | 4 => 0x08
  | 5 => 0x0C
  | 6 => 0x04
  | _ => 0x06

/-- The status of R113 with the name of a cause. -/
def causeStatus (c : BitVec 8) : BitVec 8 :=
  match c.toNat with
  | 0x10 => 0x03
  | 0x11 => 0x04
  | 0x15 => 0x05
  | 0x13 => 0x06
  | 0x16 => 0x07
  | 0x17 => 0x08
  | 0x18 => 0x0B
  | 0x19 => 0x0C
  | _ => 0x03

/-- The word a lane fetches from a combined group: the word before it, and then its combination with the operands of the
lower lanes (R172). (DESIGN CHOICE, log 31) -/
def AOp.ofCode (n : Nat) : AOp :=
  match n with
  | 0 => .add
  | 1 => .minS
  | 2 => .maxS
  | 3 => .minU
  | 4 => .maxU
  | 5 => .and
  | 6 => .or
  | 7 => .xor
  | 8 => .xchg
  | 9 => .cas
  | _ => .fadd
def AOp.code : AOp → Nat
  | .add => 0 | .minS => 1 | .maxS => 2 | .minU => 3 | .maxU => 4 | .and => 5 | .or => 6 | .xor => 7 | .xchg => 8
  | .cas => 9 | .fadd => 10

end Sys2Proof.Machine
end

