-- ==== Sys2Proof/Machine/Trace.lean ====
section
/-! DEFINITION. The lane-cycle counters: bins, the per-core cache and its write-backs (R503, R504). -/
namespace Sys2Proof.Machine
open Sys2Proof.Forms

/-- The bin of a PC in the counters of a context (R504). (DEDUCED, log 48) -/
def laneBin (c : Ctx) (pc : BitVec 56) : Nat :=
  let sh := max 2 (bits c.trclc 60 56)
  let nb := bits c.trclc 55 44 + 1
  let lo := bits c.trclo 55 0
  if lo ≤ pc.toNat ∧ pc.toNat < lo + (nb <<< sh) then (pc.toNat - lo) >>> sh else nb

/-- Writes a cached counter back as a 64-bit add; without EN it does not reach memory (R504). -/
def laneWriteback (s : State) (e : Nat × Nat × BitVec 64) : State :=
  let c := ctxOf s e.1
  if bits c.trclc 63 63 = 0 then s
  else
    let pa := (bits c.trclc 43 0 * 4096 + 8 * e.2.1) % 2 ^ 48
    writeNat s pa 8 ((readMem s pa 8 + e.2.2.toNat) % 2 ^ 64)

/-- Adds lane-cycles to a counter of the core's cache; a counter beyond the 256 makes the oldest one go back to memory, as a
step of its own (R504). (DEDUCED, log 26) -/
def laneAdd (s : State) (core ctx idx n : Nat) : State :=
  let l := (coreOf s core).lanecyc
  if n = 0 then s
  else if l.any (fun e => decide (e.1 = ctx ∧ e.2.1 = idx)) then
    updCore s core (fun k => { k with lanecyc := k.lanecyc.map (fun e =>
      if e.1 = ctx ∧ e.2.1 = idx then (e.1, e.2.1, e.2.2 + BitVec.ofNat 64 n) else e) })
  else
    addAgenda (updCore s core (fun k => { k with lanecyc := k.lanecyc ++ [(ctx, idx, BitVec.ofNat 64 n)] }))
      (if l.length < 256 then [] else [.traceCounterWriteback core])

/-- Charges lane-cycles of class `c` (R503). (DEDUCED, log 26) -/
def laneCharge (s : State) (core ctx : Nat) (pc : BitVec 56) (c n : Nat) : State :=
  laneAdd s core ctx (5 * laneBin (ctxOf s ctx) pc + c) n

/-- Charges one row pass of an instruction for `k` cycles: absent, divergence-masked, predicated off, active (R503). -/
def chargeRow (s : State) (t : Team) (mask active : LaneMask) (pc : BitVec 56) (k row : Nat) : State :=
  let cls (l : Nat) : Nat := if laneIn t.absent l then 3 else if laneIn mask l then (if laneIn active l then 0 else 2) else 1
  let ls := (List.range 32).map (fun i => cls (32 * row + i))
  [0, 1, 2, 3].foldl (fun s c => laneCharge s t.core t.ctx pc c (k * (ls.filter (fun d => decide (d = c))).length)) s

/-- Writes back and drops the cached counters of a context on a core (R504). -/
def laneFlush (s : State) (core ctx : Nat) : State :=
  let l := (coreOf s core).lanecyc
  (l.filter (fun e => decide (e.1 = ctx))).foldl laneWriteback
    (updCore s core (fun k => { k with lanecyc := k.lanecyc.filter (fun e => decide (e.1 ≠ ctx)) }))

/-- TRACE_COUNTER_WRITEBACK: the oldest counter of a core's cache goes back to memory and leaves the cache. -/
def traceCounterWriteback (core : Nat) (s : State) : State :=
  match (coreOf s core).lanecyc with
  | [] => s
  | e :: rest => laneWriteback (updCore s core (fun k => { k with lanecyc := rest })) e

/-- TRACE_COUNTER_WRITEBACK (R504). -/
def execTraceCounterWriteback (s : State) : Host.Outcome State Fault Refusal :=
  match s.event with
  | some (.traceCounterWriteback core) => .next (traceCounterWriteback core { s with event := none })
  | _ => .next s

end Sys2Proof.Machine
end

