-- ==== Sys2Proof/Machine/Operands.lean ====
section
/-! DEFINITION. The issuing instruction: its split, its modifier words, the checks of R273 in their order, the operand
forms (vector and scalar registers, pairs and quads, predicates, distances, literals, specials), and how an instruction
retires (R223 to R227, R262 to R274, R282, R315 to R319, R415 to R420). -/
namespace Sys2Proof.Machine
open Sys2Proof.Forms

/-- An instruction as it issues. -/
structure Iss where
  ref     : SplitRef
  team    : Team
  split   : Split
  disp    : Dispatch
  block   : Block
  clause  : Clause
  pc      : BitVec 56         -- its address (R252)
  f       : Fields
  op      : Nat
  ty      : Option ETy        -- MODE.TYPE
  m       : Word              -- its modifier word, 0 for none
  q       : Word              -- the second word of a Q4 form's modifier pair
  esz     : Nat               -- element size a descriptor or grid gives
  active  : LaneMask
  helpers : LaneMask
  ctx     : Ctx
  dev     : Nat               -- device number
  fresh   : Nat

namespace Iss

/-- Lanes of the team. -/
def n (x : Iss) : Nat := lanes x.team

/-- Lanes that take part: active and helper lanes. -/
def all (x : Iss) : LaneMask := x.active ||| x.helpers

/-- The lowest-numbered active lane. -/
def first (x : Iss) : Nat := firstLane x.n x.active

def rnd (x : Iss) : Nat := bits x.split.mode 11 9
def sat (x : Iss) : Bool := decide (bits x.split.mode 12 12 = 1)
def ftz (x : Iss) : Bool := decide (bits x.split.mode 13 13 = 1)

end Iss

/-! ### What a code names in its clause -/

/-- The field bytes of a word (R263). -/
def wordFields (w : Word) : Fields := ⟨w.extractLsb' 24 8, w.extractLsb' 16 8, w.extractLsb' 8 8, w.extractLsb' 0 8⟩

/-- The form that a distance operand names, if its position lies in the clause (R266). -/
def distFields (c : Clause) (pos dist : Nat) : Option Fields :=
  if dist ≤ pos then c.words[pos - dist]?.map wordFields else none

/-- Has the form a register destination that a distance operand may name (R266)? -/
def distOk (f : Fields) : Bool :=
  let op := f.op.toNat
  (roles op).1.isDst && decide (op ≠ 0xF1) && decide (f.d ≠ 0xC0) && !longLatency op

/-- The operand a code stands for, a distance operand by the destination it names. -/
def resolve (c : Clause) (pos : Nat) (code : BitVec 8) : Opd :=
  match opd code with
  | .dist k => match distFields c pos k with
    | some f => opd f.d
    | none => .bad
  | o => o

/-- Does the code supply a value of its own to every lane (R223)? -/
def isPerLane (c : Clause) (pos : Nat) (code : BitVec 8) : Bool := (resolve c pos code).perLane

/-- Literal word `n` after the overlay (R267). -/
def litWord (c : Clause) (n : Nat) : Word := c.lits.getD n 0

/-- The literal slot that holds the modifier word of a form (R268). -/
def modSlot (f : Fields) : Option Nat :=
  let op := f.op.toNat
  let r := roles op
  let field : Option (BitVec 8) := match modOf op with
    | none => none
    | some _ => if decide (r.1 = .slot) then some f.d else if decide (r.2.2 = .slot) then some f.b else none
  match field.map opd with
  | some (.lit n) => some n
  | _ => none

/-- The words a slot field needs: two for a Q4 form (R277). -/
def slotWords (op : Nat) : Nat := if modOf op = some .mmaQ then 2 else 1

/-! ### Register counts of the fields (R282, R295, R316, R360) -/

/-- Registers of DST, SRCA and SRCB. -/
def fieldRegs (x : Iss) : Nat × Nat × Nat := regs x.op x.ty x.m x.esz (if x.op = 0xF3 then x.f.a.toNat else x.f.d.toNat)

/-! ### The checks of R273 -/

/-- Check 1: an assigned opcode under a type its entry lists (R229, R326, R354). -/
def typeOk (x : Iss) : Bool :=
  assigned x.op &&
  (match typesOf x.op with
   | none => true
   | some l => match x.ty with
     | some t => l.contains t
     | none => false) &&
  (match opd x.f.d, x.ty with
   | .pred _, some t => !(within x.op 0x2C 0x31 || within x.op 0x4D 0x51) || decide (32 ≤ t.width)
   | _, _ => true) &&
  (match x.ty with
   | some t => !(within x.op 0x8A 0x8B && t.float && decide (3 ≤ bits x.m 2 0))
   | none => true)

/-- A vector code below NV with all its registers (R220); other codes have no limit. -/
def nvOk (nv : Nat) (code : BitVec 8) (k : Nat) : Bool :=
  match opd code with
  | .vec v => decide (v + k ≤ nv)
  | _ => true

/-- MODESET's mask and the MODE it would leave (R391); uniform values. -/
def modesetOk (mode v m : Word) : Bool :=
  let new := (mode &&& ~~~m) ||| (v &&& m)
  m &&& 0xE0E08000 = 0 && (tyOfCode (bits new 8 4)).isSome && decide (bits new 11 9 ≤ 5)

/-- Check 2: operand classes, unused fields, NV, numbers and modifier words. -/
def operandsOk (x : Iss) (sv : BitVec 8 → Word) : Bool :=
  let r := roles x.op
  let k := fieldRegs x
  let sr := if x.op = 0xF3 then x.f.a.toNat else x.f.d.toNat
  roleOk r.1 k.1 x.f.d x.op sr && roleOk r.2.1 k.2.1 x.f.a x.op sr && roleOk r.2.2 k.2.2 x.f.b x.op sr &&
  (r.1.plain || nvOk x.team.nv x.f.d k.1) && (r.2.1.plain || nvOk x.team.nv x.f.a k.2.1) &&
  (r.2.2.plain || nvOk x.team.nv x.f.b k.2.2) &&
  numOk x.op x.f.d.toNat x.f.a.toNat x.f.b.toNat &&
  (match modOf x.op, modSlot x.f with
   | some kind, some n =>
     decide (x.clause.lits.length < n + slotWords x.op) || decide (n % slotWords x.op ≠ 0) ||
     modOk x.op kind x.m x.q x.ty x.f.d x.team.nv
   | _, _ => true) &&
  (x.op ≠ 0x0B || modesetOk x.split.mode (sv x.f.a) (sv x.f.b)) &&
  (x.op ≠ 0xF4 || x.f.d ≠ 8 || x.split.handler.isSome) &&
  (x.op ≠ 0xC5 || k.1 ≤ 1 || x.f.d.toNat % k.1 = 0)

/-- The operand codes of the fields with the registers they name, for the fields that hold codes. -/
def codeFields (x : Iss) : List (BitVec 8 × Nat × Bool) :=
  let r := roles x.op
  let k := fieldRegs x
  let one (role : Role) (c : BitVec 8) (n : Nat) : List (BitVec 8 × Nat × Bool) :=
    match role with
    | .unused | .num => []
    | .slot => [(c, slotWords x.op, false)]
    | .index => if x.f.a = 0x0B then [(c, n, true)] else []
    | rl => [(c, n, rl.isSrc && rl ≠ .dsrc)]
  one r.1 x.f.d k.1 ++ one r.2.1 x.f.a k.2.1 ++ one r.2.2 x.f.b k.2.2

/-- Check 3: every distance operand names a form of the clause with a result at hand (R266). -/
def distancesOk (x : Iss) : Bool :=
  (codeFields x).all (fun p => match opd p.1 with
    | .dist k => match distFields x.clause x.split.pos k with
      | some f => distOk f
      | none => false
    | _ => true)

/-- Check 4: every literal word lies in the clause (R267). -/
def literalsOk (x : Iss) : Bool :=
  (codeFields x).all (fun p => match opd p.1 with
    | .lit n => decide (n + p.2.1 ≤ x.clause.lits.length)
    | _ => true)

/-- Check 5: pairs and quads are aligned (R224, R267); the B registers of a matrix form, and the B scale registers of
MMAQ4, start at a multiple of 4 (R358, R360). The argument registers of SVC are no pair or quad. -/
def pairsOk (x : Iss) : Bool :=
  (codeFields x).all (fun p => match opd p.1 with
    | .vec n => x.op = 0xF1 || decide (n % (if within x.op 0xD0 0xDB then 4 else p.2.1) = 0)
    | .scal n | .lit n => decide (n % p.2.1 = 0)
    | _ => true) &&
  (x.op ≠ 0xD5 || bits x.q 14 8 % 4 = 0)

/-- Check 6: no vector source to a scalar destination but in RDLANE, LRED and LVOTE (R223). -/
def scalarOk (x : Iss) : Bool :=
  match (roles x.op).1.isDst, opd x.f.d with
  | true, .scal _ =>
    x.op = 0x8E || x.op = 0x8B || x.op = 0x88 ||
    (codeFields x).all (fun p => !(p.2.2 && isPerLane x.clause x.split.pos p.1))
  | _, _ => true

/-- The first failing check of R273 from 1 to 6, as its cause code (R445). -/
def decodeFault (x : Iss) (sv : BitVec 8 → Word) : Option (BitVec 8) :=
  if !typeOk x then some 0x21
  else if !operandsOk x sv then some 0x22
  else if !distancesOk x then some 0x23
  else if !literalsOk x then some 0x24
  else if !pairsOk x then some 0x25
  else if !scalarOk x then some 0x26
  else none

/-! ### Reading operands -/

/-- The block coordinates of a linear index (R421). -/
def blockCoord (d : Dispatch) (i k : Nat) : Nat :=
  match k with
  | 0 => i % d.nbx
  | 1 => i / d.nbx % d.nby
  | _ => i / (d.nbx * d.nby)

/-- The read-only specials: code 0xD8 + `c`, in lane `l` (R227). (DEDUCED, log 16) -/
def special (x : Iss) (c l : Nat) : Word :=
  match c with
  | 0x00 => 0
  | 0x01 => BitVec.ofNat 32 l
  | 0x02 => BitVec.ofNat 32 (l / 4)
  | 0x03 => BitVec.ofNat 32 (l / 32)
  | 0x04 => BitVec.ofNat 32 x.team.key.team
  | 0x05 | 0x06 | 0x07 => BitVec.ofNat 32 (blockCoord x.disp x.team.key.block (c - 5))
  | 0x08 => BitVec.ofNat 32 x.disp.nbx
  | 0x09 => BitVec.ofNat 32 x.disp.nby
  | 0x0A => BitVec.ofNat 32 x.disp.nbz
  | 0x0B => BitVec.ofNat 32 x.disp.teams
  | 0x0C => BitVec.ofNat 32 x.n
  | 0x0D => BitVec.ofNat 32 x.team.core
  | 0x0E => BitVec.ofNat 32 x.team.part
  | 0x0F => BitVec.ofNat 32 x.dev
  | 0x10 => BitVec.ofNat 32 x.team.ctx
  | 0x11 => x.team.key.disp.setWidth 32
  | 0x12 => x.disp.param.setWidth 32
  | 0x13 => x.disp.param.extractLsb' 32 32
  | 0x14 => 0xFFFFFFFF
  | 0x15 => x.split.mask.extractLsb' (l / 32 * 32) 32
  | 0x16 => BitVec.ofNat 32 (2 ^ (l % 32) - 1)
  | _ => 0

/-- A vector register as an instruction reads it: UNKNOWN while an operation in flight writes it (R260). -/
def readV (x : Iss) (v l : Nat) : Word :=
  if pendingReg x.team v l then unknown x.fresh (vKey v l) else vReg x.team v l

/-- A scalar register as an instruction reads it. -/
def readS (x : Iss) (n : Nat) : Word :=
  if pendingReg x.team (128 + n) 0 then unknown x.fresh (2 ^ 18 + n) else sReg x.team n

/-- Word `k` of a register operand of lane `l` by its class. (DEDUCED, log 16) -/
def readOpd (x : Iss) (o : Opd) (k l : Nat) : Word :=
  match o with
  | .vec v => readV x (v + k) l
  | .scal n => readS x (n + k)
  | .pred p => if k = 0 && laneIn (pReg x.team p) l then 1 else 0
  | .lit n => litWord x.clause (n + k)
  | .special c => special x (c + k) l
  | _ => 0

/-- Word `k` of what a distance operand receives: the bypassed result with the width of its instruction, the register
after a resume, UNKNOWN above that width (R266). (DEDUCED, log 16 and log 29) -/
def readDist (x : Iss) (dist k l : Nat) : Word :=
  let pos := x.split.pos - dist
  match x.split.bypass.find? (fun b => decide (b.pos = pos)) with
  | some b =>
    if b.live then
      (if k < b.regs then mapGet 0 b.words (vKey k (match opd b.code with
        | .scal _ => 0
        | _ => l)) else unknown x.fresh (2 ^ 19 + vKey k l))
    else if k < b.regs then readOpd x (opd b.code) k l
    else unknown x.fresh (2 ^ 19 + vKey k l)
  | none => match distFields x.clause x.split.pos dist with
    | some f => readOpd x (opd f.d) k l
    | none => 0

/-- Word `k` of an operand in lane `l`: operand code to value, for every class (R264). -/
def readWord (x : Iss) (code : BitVec 8) (k l : Nat) : Word :=
  match opd code with
  | .dist d => readDist x d k l
  | o => readOpd x o k l

/-- An operand of `r` registers as a number, the lowest register first (R224). -/
def readNat (x : Iss) (code : BitVec 8) (l : Nat) : Nat → Nat
  | 0 => 0
  | r + 1 => readNat x code l r + ((readWord x code r l).toNat <<< (32 * r))

/-- A uniform operand of one register. -/
def readU (x : Iss) (code : BitVec 8) : Word := readWord x code 0 0

/-- A uniform pair as a generic address or 64-bit value. -/
def readU64 (x : Iss) (code : BitVec 8) : BitVec 64 := BitVec.ofNat 64 (readNat x code 0 2)

/-- Truth of a condition or vote operand in a lane (R353, R380). -/
def readTrue (x : Iss) (code : BitVec 8) (l : Nat) : Bool := decide (readWord x code 0 l ≠ 0)

/-! ### Stochastic rounding state (R242, R243) -/

/-- The random word of lane `l` for element `e`. (DEDUCED, log 14) -/
def srOf (x : Iss) (l e : Nat) : Word := srword (mapGet 0 x.team.srsv l) (mapGet 0 x.team.srcnt l) e

/-! ### Writing destinations -/

/-- Writes `r` registers from the number of each lane of a mask: a vector destination lane by lane, a scalar one once
from `f 0`, a predicate from bit 0 (R318, R319). -/
def writeDst (t : Team) (code : BitVec 8) (m : LaneMask) (f : Nat → Nat) : Nat → Team
  | 0 => t
  | r + 1 =>
    let t1 := writeDst t code m f r
    match opd code with
    | .vec v => putV (markLost t1 (v + r) m) (v + r) m (fun l => BitVec.ofNat 32 (f l >>> (32 * r)))
    | .scal n => putS (markLost t1 (128 + n + r) m) (n + r) (BitVec.ofNat 32 (f 0 >>> (32 * r)))
    | .pred p => if r = 0 then putP t1 p m (maskOf (lanes t) (fun l => laneIn m l && decide (f l % 2 = 1))) else t1
    | _ => t1

/-- The registers that a destination of `r` registers in the lanes of a mask names, with their values. -/
def regWrites (x : Iss) (code : BitVec 8) (r : Nat) (m : LaneMask) (f : Nat → Nat) : List RegWrite :=
  (List.range r).flatMap (fun k => match opd code with
    | .vec v => (lanesOf x.n m).map (fun l => { code := v + k, lane := l, val := BitVec.ofNat 32 (f l >>> (32 * k)) })
    | .scal n => [{ code := 128 + n + k, lane := 0, val := BitVec.ofNat 32 (f 0 >>> (32 * k)) }]
    | _ => [])

/-- What a destination of `r` registers holds now, for the bypass (R266). (DEDUCED, log 29) -/
def snapshot (t : Team) (pos : Nat) (code : BitVec 8) (r : Nat) : Option Bypass :=
  match opd code with
  | .vec v => some { pos, code, regs := r, live := true, words := (List.range r).flatMap (fun k =>
      (mapFrom (vKey (v + k) 0) (mapBelow (vKey (v + k) 1024) t.vregs)).map (fun p => (p.1 - vKey v 0, p.2))) }
  | .scal n => some { pos, code, regs := r, live := true,
                      words := (List.range r).map (fun k => (vKey k 0, sReg t (n + k))) }
  | .pred p => some { pos, code, regs := 1, live := true,
                      words := (List.range (lanes t)).map (fun l => (l, if laneIn (pReg t p) l then 1 else 0)) }
  | _ => none

/-! ### Retiring (R252, R262, R415 to R420, R425, R461) -/

/-- Passes of an instruction: one for each row with an active lane where a vector or per-lane operand is read or
written, else one; four cycles each for FP64 vector forms (R415). -/
def passes (x : Iss) : Nat :=
  let vec := (codeFields x).any (fun p => isPerLane x.clause x.split.pos p.1)
  let rows := if vec then max 1 (rowsOf x.team.rows x.active).length else 1
  let fp := vec && x.ty = some .fp64 && (within x.op 0x40 0x63 || x.op = 0x70 || x.op = 0x72 || within x.op 0x8A 0x8B)
  if fp then 4 * rows else rows

/-- The place of a team's split in the order of turns: ascending team index, then split-table entry, but a split created at a
dual-path divergence after its partner (R425). -/
def turnPlace (ts : List Team) (k : Nat) : Nat :=
  if ts.any (fun t => decide (t.key.team = k / 2) && (splitsOf t).any (·.2.swapped)) then 2 * (k / 2) + (1 - k % 2) else k

/-- The next split in turn order of an ordered block (R425). -/
def nextTurn (s : State) (b : Block) : Nat :=
  let ts := s.teams.filter (fun t => decide (t.key.disp = b.disp) && decide (t.key.block = b.index) && !t.ended)
  let keys := (List.range 32).filter (fun k => ts.any (fun t => decide (t.key.team = k / 2) &&
    (splitIn t (decide (k % 2 = 1))).isSome))
  let order := (List.range 32).filterMap (fun p => keys.find? (fun k => decide (turnPlace ts k = p)))
  match order.find? (fun k => decide (turnPlace ts b.turn < turnPlace ts k)) with
  | some k => k
  | none => order.headD 0

/-- Has a team an access that is not yet performed: a remote write or atomic without a response, or an entry of the side log? -/
def unperformed (s : State) (k : TeamKey) : Bool :=
  owes s k || s.sideLog.any (fun e => decide (e.split.team = k) && !e.failed)

/-- Passes the turn of an ordered block on, as soon as the holder's accesses are performed; `retired` instructions count for CYCLE
(R217, R408, R425). -/
def passTurn (s : State) (k : TeamKey) (retired : Nat) : State :=
  match dispOf s k.disp, blockOf s k.disp k.block with
  | some d, some b =>
    if d.ordered then
      updBlock s k.disp k.block (fun b' => { b' with
        turn := if unperformed s k then b'.turn else nextTurn s b
        owed := unperformed s k
        retired := b'.retired + BitVec.ofNat 64 retired })
    else s
  | _, _ => s

/-- The turn that a block owes passes on once the accesses that it waits for are performed (R217, R425). -/
def settleTurn (s : State) (b : Block) : State :=
  if b.owed && !unperformed s { disp := b.disp, block := b.index, team := b.turn / 2 } then
    updBlock s b.disp b.index (fun b' => { b' with turn := nextTurn s b, owed := false })
  else s

/-- The next clause in sequence (R252). -/
def nextClause (c : Clause) : BitVec 56 :=
  c.addr + BitVec.ofNat 56 (4 * (1 + c.words.length + (let nl := bits c.header 26 24; if nl = 7 then 8 else nl)))

/-- Ends a single step: the team halts again and the host is told the next PC and the flags. A step whose instruction requests
a trap goes on until the handler starts (R461). -/
def endStep (s : State) (r : SplitRef) : State :=
  match teamOf s r.team with
  | none => s
  | some t => match splitIn t r.high with
    | none => s
    | some sp =>
      if sp.stepping && !(sp.handler.isNone && t.traps.any (fun q => decide (q.high = r.high))) then
        raiseNotice (updSplit s r (fun sp => { sp with stepping := false })) t 0x61 (instrPc sp)
          (BitVec.ofNat 32 (flagBits t r.high))
      else s

/-- The values an instruction wrote, as the spin detector compares them (R420). -/
def spinValues (x : Iss) (t : Team) : List Word :=
  if (roles x.op).1.isDst && !longLatency x.op then
    match snapshot t x.split.pos x.f.d (fieldRegs x).1 with
    | some b => BitVec.ofNat 32 (x.f.d.toNat + 256 * x.split.pos) ::
        (b.words.filter (fun p => match opd b.code with
          | .scal _ => true
          | _ => laneIn x.all (p.1 % 1024))).flatMap (fun p => [BitVec.ofNat 32 p.1, p.2])
    | none => []
  else []

/-- Charges the passes of an instruction; one without a vector operand is in the row of its lowest active lane (R503). (DEDUCED, log 26) -/
def chargePasses (x : Iss) (s : State) : State :=
  let rows := rowsOf x.team.rows x.active
  let vec := (codeFields x).any (fun p => isPerLane x.clause x.split.pos p.1)
  let l := if vec && rows ≠ [] then rows else [x.first / 32]
  l.foldl (fun s r => chargeRow s x.team x.split.mask x.active x.pc (passes x / l.length) r) s

/-- Counters of an issued instruction: passes, the 256-instruction stamp and the count of a promotion (R415, R416). -/
def countIssue (x : Iss) (s : State) : State :=
  let s1 := updSplit (chargePasses x s) x.ref (fun sp => { newAttempt sp with
    busy := passes x - 1, ready := 0, issued := sp.issued + 1, retry := none, hold := .none
    promoted := sp.promoted - 1,
    tier := if sp.tier = 0 && decide (sp.promoted ≤ 1) then 1 else sp.tier })
  if decide (x.split.issued + 1 = 256) || (x.split.tier = 0 && decide (x.split.promoted ≤ 1)) then newStamp s1 x.ref else s1

/-- The instruction retires and the split goes on to the next instruction, or past the end of its clause (R252, R262). -/
def retire (x : Iss) (s : State) : State :=
  let last := decide (x.split.pos + 1 = x.clause.words.length)
  let s1 := updTeam s x.ref.team (fun t =>
    match splitIn t x.ref.high with
    | none => t
    | some sp =>
      let by_ := if (roles x.op).1.isDst && !longLatency x.op then
          (snapshot t x.split.pos x.f.d (fieldRegs x).1).toList else []
      putSplit t x.ref.high (some
        (if last then { sp with pc := nextClause x.clause, clause := none, pos := 0, bypass := [], spinNow := sp.spinNow ++ spinValues x t }
         else { sp with pos := x.split.pos + 1, bypass := sp.bypass ++ by_, spinNow := sp.spinNow ++ spinValues x t })))
  let s2 := countIssue x s1
  let s3 := if last && bits x.clause.header 27 27 = 1 then newStamp s2 x.ref else s2
  endStep (passTurn s3 x.ref.team 1) x.ref

/-- The instruction retires and the split starts a clause elsewhere (R257). -/
def retireTo (x : Iss) (target : BitVec 56) (s : State) : State :=
  let s1 := updSplit s x.ref (fun sp => { sp with pc := target, clause := none, pos := 0, bypass := [] })
  let s2 := countIssue x s1
  let s3 := if bits x.clause.header 27 27 = 1 then newStamp s2 x.ref else s2
  endStep (passTurn s3 x.ref.team 1) x.ref

/-- The instruction does not retire: the split is held at it and makes it again later (R262, R414). An unmet check of a
blocking wait or of a JOIN passes the turn of an ordered block on and ends a single step (R425, R461). -/
def holdAt (x : Iss) (h : Hold) (s : State) : State :=
  let s1 := updSplit s x.ref (fun sp => { sp with
    hold := h, ready := 0
    waited := match h, sp.waited with
      | .wait _, none => some 0
      | .wait _, some k => some k
      | _, w => w
    limit := match h, sp.waited with
      | .wait _, none => max 1 (bits x.ctx.waitlim 47 0)
      | _, _ => sp.limit })
  match h with
  | .wait _ | .join => endStep (passTurn s1 x.ref.team 0) x.ref
  | _ => s1

/-- Raises a fault record of this instruction (R444). (DEDUCED, log 27) -/
def faultAt (x : Iss) (cause : BitVec 8) (info : Word) (s : State) : State :=
  raiseFault s x.ref (plainFault cause x.pc x.active info)

/-- A per-lane fault: the lowest lane is named, and the failing lanes are the resume mask (R444, R447). (DEDUCED, log 21) -/
def laneFault (x : Iss) (cause : BitVec 8) (bad : LaneMask) (acc : BitVec 8) (addr : Option (BitVec 64)) (write : Bool)
    (info2 : BitVec 64) (s : State) : State :=
  raiseFault s x.ref { cause := cause, pc := x.pc, lanes := bad, atInstr := true, lane := firstLane x.n bad, acc := acc,
                       addr := addr, write := write, info := BitVec.ofNat 32 (lanesOf x.n bad).length, info2 := info2,
                       side := false }

/-- An object operation of an instruction on a poisoned object fails with cause poison for its lanes (R474). (DEDUCED, log 76) -/
def objectPoison (x : Iss) (s : State) : State := laneFault x 0x17 x.active 2 none true 0 s

/-! ### The issuing split -/

/-- The word of the descriptor's ESZ field for the buffer forms, or of a grid slot for HLD, as a size in bytes. -/
def eszOf (s : State) (t : Team) (f : Fields) (m : Word) : Nat :=
  let op := f.op.toNat
  if within op 0x92 0x94 then
    match opd f.a with
    | .scal n => 2 ^ bits (if pendingReg t (128 + (n + 3)) 0 then unknown s.fresh (2 ^ 18 + (n + 3)) else sReg t (n + 3)) 10 8
    | _ => 1
  else if op = 0xC5 then
    let g := slotOf (ctxOf s t.ctx) (bits m 3 0)
    if g.bound then 2 ^ bits g.desc 4 2 else 1
  else 1

/-- The instruction that the issuing split makes with these field bytes. -/
def issOf (s : State) (r : SplitRef) (t : Team) (sp : Split) (c : Clause) (f : Fields) : Iss :=
  let d := (dispOf s r.team.disp).getD noDispatch
  let m := match modSlot f with
    | some n => litWord c n
    | none => 0
  let q := match modSlot f with
    | some n => litWord c (n + 1)
    | none => 0
  let active := activeOf t sp
  { ref := r, team := t, split := sp, disp := d, block := (blockOf s r.team.disp r.team.block).getD noBlock, clause := c,
    pc := instrPc sp, f := f, op := f.op.toNat, ty := tyOfCode (bits sp.mode 8 4), m := m, q := q, esz := eszOf s t f m,
    active := active, helpers := helpersOf t sp active, ctx := ctxOf s t.ctx, dev := devNum s, fresh := s.fresh }

/-- The split that issues next in this cycle, with its clause (R417). -/
def issuing (s : State) : Option (SplitRef × Team × Split × Clause) :=
  match s.issueQ with
  | [] => none
  | r :: _ => match teamOf s r.team with
    | none => none
    | some t => match splitIn t r.high with
      | none => none
      | some sp => match sp.clause with
        | none => none
        | some c => some (r, t, sp, c)

/-- The state once the head of the issue queue is taken; every issue draws free values of its own. -/
def popIssue (s : State) : State := { s with issueQ := s.issueQ.tail, fresh := s.fresh + 1 }

/-- An attempt that leaves the split where it was gives its pipe's cycle to the class idle (R503). (DEDUCED, log 26) -/
def chargeIdle (x : Iss) (s : State) : State :=
  match splitOf s x.ref with
  | some sp => if sp.pc = x.split.pc ∧ sp.pos = x.split.pos ∧ sp.clause.isSome then
      laneCharge s x.team.core x.team.ctx x.pc 4 32 else s
  | none => s

/-- Issues an instruction form: without an issuing split the model stops; a decode fault of R273 is taken; else the
form's own effect. -/
def issue (i : Instr) (s : State) (eff : Iss → State → State) : Host.Outcome State Fault Refusal :=
  match issuing s, fieldsOf i with
  | some (r, t, sp, c), some f =>
    let x := issOf s r t sp c f
    match decodeFault x (readU x) with
    | some cause => .next (faultAt x cause f.word (popIssue s))
    | none => .next (chargeIdle x (eff x (popIssue s)))
  | _, _ => .fault .noIssuingSplit

end Sys2Proof.Machine
end

