-- ==== Sys2Proof/Machine/Alu.lean ====
section
/-! DEFINITION. The one mould of the computing forms: a value and exceptions for each lane, packed elements, the write
of the destination, sticky flags, the stochastic counts and the user trap (R230, R243, R259, R316 to R321). -/
namespace Sys2Proof.Machine
open Sys2Proof.Forms

/-- Packs `n` elements of `w` bits from the low end and gathers their exceptions (R225, R317). -/
def elems (w : Nat) (f : Nat → Nat × Exc) : Nat → Nat × Exc
  | 0 => (0, 0)
  | n + 1 =>
    let (v, x) := elems w f n
    let (e, y) := f n
    (v + ((e % 2 ^ w) <<< (w * n)), x ||| y)

/-- MODE.TYPE of a form whose type check has passed. -/
def Iss.t (x : Iss) : ETy := x.ty.getD .s32

/-- MODE.RND, SAT and FTZ. -/
def Iss.r (x : Iss) : Rnd := ⟨x.rnd, x.sat, x.ftz⟩

/-- The operands as numbers of as many registers as the form gives them. -/
def Iss.va (x : Iss) (l : Nat) : Nat := readNat x x.f.a l (fieldRegs x).2.1
def Iss.vb (x : Iss) (l : Nat) : Nat := readNat x x.f.b l (fieldRegs x).2.2
def Iss.vd (x : Iss) (l : Nat) : Nat := readNat x x.f.d l (fieldRegs x).1

/-- Is the destination a scalar register: the form computes once for the team (R319). -/
def Iss.scalarDst (x : Iss) : Bool := match opd x.f.d with
  | .scal _ => true
  | _ => false

/-- Is the destination a predicate? -/
def Iss.predDst (x : Iss) : Bool := match opd x.f.d with
  | .pred _ => true
  | _ => false

/-- The lanes that write, and the lanes whose exceptions count: the lowest active lane alone for a scalar (R319). -/
def Iss.writers (x : Iss) : LaneMask :=
  if x.scalarDst then (if x.active = 0 then 0 else maskOf (x.first + 1) (fun l => decide (l = x.first))) else x.all
def Iss.raisers (x : Iss) : LaneMask := if x.scalarDst then x.writers else x.active

/-- The lanes that the team's other live split holds, on its stack too (R320, R350). (DEDUCED, log 79) -/
def Iss.theirs (x : Iss) : LaneMask := match splitIn x.team (!x.ref.high) with
  | some sp => sp.stack.foldl (fun m e => match e with
      | .rejoin _ k _ _ | .pending _ k _ _ => m ||| k) sp.mask &&& ~~~x.team.absent
  | none => 0

/-- The writing lanes of the quads that hold lanes of both splits while HLP is set: what they write is UNKNOWN (R320). A form
with a scalar destination writes no lane. (DEDUCED, log 79) -/
def Iss.mixed (x : Iss) : LaneMask :=
  if x.helpers = 0 || x.scalarDst then 0
  else maskOf x.n (fun l => laneIn x.all l && decide (x.theirs.extractLsb' (l - l % 4) 4 ≠ 0))

/-- A free value of four registers for such a lane. -/
def mixedValue (x : Iss) (l : Nat) : Nat :=
  leNat (fun i => (unknown x.fresh (2 ^ 21 + vKey (i / 4) l) >>> (8 * (i % 4))).setWidth 8) 0 16

/-- What a lane is given by a form that computes `v` for it. -/
def laneValue (x : Iss) (v : Nat → Nat) (l : Nat) : Nat := if laneIn x.mixed l then mixedValue x l else v l

/-- The lanes whose result is the form's own. -/
def Iss.sure (x : Iss) : LaneMask := x.writers &&& ~~~x.mixed

/-- The value of a lane, computed once from the lowest active lane's state for a scalar destination. -/
def onceOr (x : Iss) (f : Nat → Nat × Exc) (l : Nat) : Nat × Exc := if x.scalarDst then f x.first else f l

/-- The exceptions that the lanes of a mask raise. -/
def raised (x : Iss) (f : Nat → Nat × Exc) : Exc := (lanesOf x.n x.raisers).foldl (fun e l => e ||| (f l).2) 0

/-- The user trap request of enabled exceptions, outside handler state (R321, R400, R440). -/
def trapOf (x : Iss) (cause : BitVec 8) (f : Nat → Nat × Exc) : Option TrapReq :=
  let en := trapEnables x.split.mode
  let who := maskOf x.n (fun l => laneIn x.raisers l && decide ((f l).2 &&& en ≠ 0))
  if x.split.handler.isSome || en = 0 || who = 0 then none
  else some { high := x.ref.high, num := 0, cause := cause, exc := raised x f &&& en, info := x.f.d, lanes := who, addr := x.pc }

/-- The stochastic counts after a form that rounds under SR: one more in each lane that writes, UNKNOWN in the lanes of
R320 (R243, R320). (DEDUCED, log 14 and log 79) -/
def countSr (x : Iss) (t : Team) : Team :=
  { t with srcnt := mapPut 0 t.srcnt 0 (lanes t) (fun l =>
      if laneIn x.mixed l then unknown x.fresh (2 ^ 21 + 2 ^ 20 + l)
      else mapGet 0 t.srcnt l + (if laneIn x.writers l then 1 else 0)) }

/-- The team after a computing form: its destination and, where it rounds under SR, the stochastic counts. -/
def computed (x : Iss) (sr : Bool) (f : Nat → Nat × Exc) (t : Team) : Team :=
  let t1 := if x.writers = 0 then t else writeDst t x.f.d x.writers (laneValue x (fun l => (onceOr x f l).1)) (fieldRegs x).1
  if sr && x.rnd = 5 then countSr x t1 else t1

/-- A fixed-class form: destinations are written, sticky flags set, and an enabled exception requests its trap, which is
taken before the split's next instruction (R321). -/
def fixedForm (x : Iss) (sr : Bool) (cause : BitVec 8) (f : Nat → Nat × Exc) (s : State) : State :=
  let s1 := updTeam s x.ref.team (computed x sr f)
  let s2 := updSplit s1 x.ref (fun sp => { sp with mode := orXF sp.mode (raised x f) })
  retire x (match trapOf x cause f with
    | some q => requestTrap s2 x.ref q
    | none => s2)

/-- Adds an operation in flight that set the clause's SETM or SETX flag (R259). A register that an earlier operation in flight is to
write, or reads, is left UNKNOWN by both (R210, R260). -/
def addFlight (x : Iss) (setx : Bool) (state : Pending) (writes : List RegWrite) (reads : List Nat) (xf : Exc)
    (trap : Option TrapReq) (s : State) : State :=
  let flag := if setx then bits x.clause.header 19 16 else bits x.clause.header 15 12
  let s1 := updTeam s x.ref.team (fun t =>
    let t1 := writes.foldl (fun t w => markLost t w.code (maskOf (w.lane + 1) (fun l => decide (l = w.lane)))) t
    let e : InFlight :=
      { id := s.nextOp, flag := flag, low := !x.ref.high, high := x.ref.high, state := state
        writes := writes.map (fun w => { w with lost := pendingReg t w.code w.lane })
        reads := reads, lost := false, spoilt := [], xf := xf, trap := trap.map (fun q => { q with num := s.nextOp }) }
    { t1 with inflight := t1.inflight ++ [e] })
  { s1 with nextOp := s.nextOp + 1 }

/-- An execution-class form: the results are held until OPERATION_COMPLETE; an empty active set performs nothing. -/
def executionForm (x : Iss) (sr : Bool) (cause : BitVec 8) (f : Nat → Nat × Exc) (s : State) : State :=
  if x.active = 0 then retire x s
  else
    let s1 := updTeam s x.ref.team (fun t => if sr && x.rnd = 5 then countSr x t else t)
    let ws := regWrites x x.f.d (fieldRegs x).1 x.writers (laneValue x (fun l => (onceOr x f l).1))
    -- a scalar destination is written from the value of its one lane
    let ws := if x.scalarDst then regWrites x x.f.d (fieldRegs x).1 x.writers (fun _ => (f x.first).1) else ws
    retire x (addFlight x true .ready ws [] (raised x f) (trapOf x cause f) s1)

/-! ### Lane values of the element-wise forms -/

/-- Integer arithmetic on exact values of TYPE, reduced under R234 (R322). -/
def intLane (x : Iss) (sat : Bool) (f : Int → Int → Int → Int) (l : Nat) : Nat × Exc :=
  let t := x.t
  let w := t.width
  let a := x.va l
  let b := x.vb l
  let d := x.vd l
  elems w (fun e => (iReduce t (sat && x.sat)
    (f (iVal t (fld a (w * e) w)) (iVal t (fld b (w * e) w)) (iVal t (fld d (w * e) w))), 0)) t.elems

/-- A bit form on elements of TYPE's width: `aw` and `bw` bits of the operands, `dw` bits written (R324). -/
def bitLane (x : Iss) (bw dw : Nat) (f : Nat → Nat → Nat → Nat) (l : Nat) : Nat × Exc :=
  let w := x.t.width
  let a := x.va l
  let b := x.vb l
  elems dw (fun e => (f w (fld a (w * e) w) (fld b (bw * e) bw), 0)) x.t.elems

/-- A floating form of TYPE: exact value and exceptions from the operands, rounded once (R334). -/
def floatLane (x : Iss) (f : Bool → FVal → FVal → FVal → FVal × Exc) (l : Nat) : Nat × Exc :=
  let fm := fmtOf x.t
  let w := x.t.width
  let a := x.va l
  let b := x.vb l
  let d := x.vd l
  elems w (fun e =>
    let (v, p) := f (decide (x.rnd = 3)) (fval fm x.ftz (fld a (w * e) w)) (fval fm x.ftz (fld b (w * e) w))
      (fval fm x.ftz (fld d (w * e) w))
    let (r, q) := fround fm x.r (srOf x l e) v
    (r, p ||| q)) x.t.elems

/-- A floating form of TYPE that acts on patterns with its own result width. -/
def patternLane (x : Iss) (dw : Nat) (f : Fmt → Nat → Nat → Nat → Nat × Exc) (l : Nat) : Nat × Exc :=
  let fm := fmtOf x.t
  let w := x.t.width
  let a := x.va l
  let b := x.vb l
  elems dw (fun e => f fm e (fld a (w * e) w) (fld b (w * e) w)) x.t.elems

/-- A comparison: the bit for a predicate destination, all ones or zero of `dw` bits per element else (R326, R338). -/
def compareLane (x : Iss) (dw : Nat) (f : Nat → Nat → Bool × Exc) (l : Nat) : Nat × Exc :=
  let w := x.t.width
  let a := x.va l
  let b := x.vb l
  if x.predDst then
    let (c, e) := f (fld a 0 w) (fld b 0 w)
    (c.toNat, e)
  else elems dw (fun e =>
    let (c, q) := f (fld a (w * e) w) (fld b (w * e) w)
    (if c then 2 ^ dw - 1 else 0, q)) x.t.elems

end Sys2Proof.Machine
end

