-- ==== Sys2Proof/Machine/Address.lean ====
section
/-! DEFINITION. Addresses, tags and buffer descriptors (R46, R47, R328 to R333). -/
namespace Sys2Proof.Machine
open Sys2Proof.Forms

/-- A buffer descriptor's fields (R46). -/
structure Desc where
  base  : Nat
  tag   : BitVec 4
  len   : Nat
  esz   : Nat           -- ESZ, the log2 of the element size
  ro    : Bool
  wo    : Bool
  valid : Bool
  deriving DecidableEq, Repr

/-- Reads a descriptor from its 128 bits and decides its validity (R46, R47). -/
def descOf (v : Nat) : Desc :=
  let base := fld v 0 56
  let len := fld v 64 40
  let esz := fld v 104 3
  let ro := decide (fld v 107 1 = 1)
  let wo := decide (fld v 108 1 = 1)
  { base := base, tag := BitVec.ofNat 4 (fld v 56 4), len := len, esz := esz, ro := ro, wo := wo,
    valid := decide (fld v 127 1 = 1) && decide (fld v 60 4 = 0) && decide (fld v 109 18 = 0) && decide (esz ≤ 4) &&
      !(ro && wo) && decide (base % 2 ^ esz = 0) && decide (base + len ≤ 2 ^ 56) }

/-- The 128 bits of a valid descriptor (R46). -/
def descBits (d : Desc) : Nat :=
  d.base + (d.tag.toNat <<< 56) + (d.len <<< 64) + (d.esz <<< 104) + (d.ro.toNat <<< 107) + (d.wo.toNat <<< 108) +
  (1 <<< 127)

/-- The descriptor in a scalar quad. -/
def quadDesc (x : Iss) (code : BitVec 8) : Desc := descOf (readNat x code 0 4)

/-- ADDA: the sum of a 56-bit address and a signed offset, with bit 60 set when it leaves the range (R329). -/
def addaOf (a b : Nat) : Nat :=
  let s : Int := (fld a 0 56 : Int) + sgn 32 b
  let out := decide (s < 0) || decide (((2 ^ 56 : Nat) : Int) ≤ s)
  wrap 56 s + (fld a 56 4 <<< 56) + ((fld a 60 4 ||| out.toNat) <<< 60)

/-- The descriptor that BDMAKE builds, if it is valid (R331). -/
def bdmakeOf (a b : Nat) : Option Nat :=
  let v := fld a 0 60 + (fld b 0 40 <<< 64) + (fld b 40 3 <<< 104) + (fld b 43 1 <<< 107) + (fld b 44 1 <<< 108) +
    (1 <<< 127)
  if fld a 60 4 = 0 ∧ fld b 45 19 = 0 ∧ (descOf v).valid = true then some v else none

/-- The descriptor that BDNARROW derives (R332). (DEDUCED, log 43) -/
def bdnarrowOf (d : Desc) (b : Nat) : Option Nat :=
  let start := fld b 0 32 * 2 ^ d.esz
  let count := fld b 32 28
  if d.valid = false ∨ fld b 62 2 ≠ 0 ∨ d.len < start then none
  else
    let len := d.len - start
    let n : Desc := { d with
      base := (d.base + start) % 2 ^ 56
      len := if count = 0x0FFFFFFF then len else min len (count * 2 ^ d.esz)
      ro := d.ro || decide (fld b 60 1 = 1)
      wo := d.wo || decide (fld b 61 1 = 1) }
    if n.ro && n.wo then none else some (descBits n)

/-- The field of a descriptor that a selector names (R333). -/
def bdqueryOf (d : Desc) (sel : Nat) : Nat :=
  match sel % 256 with
  | 0 => fld d.len 0 32
  | 1 => fld d.len 32 8
  | 2 => 2 ^ d.esz
  | 3 => d.ro.toNat + 2 * d.wo.toNat
  | 4 => fld (d.len >>> d.esz) 0 32
  | 5 => fld d.base 0 32
  | 6 => fld d.base 32 24 + (d.tag.toNat <<< 24)
  | _ => 0

/-- IADD64: a + b modulo 2^64 (R328). -/
def execIadd64 (d a b : BitVec 8) (s : State) : Host.Outcome State Fault Refusal :=
  issue (.iadd64 d a b) s (fun x => fixedForm x false 0x02 (fun l => ((x.va l + x.vb l) % 2 ^ 64, 0)))

/-- ISUB64: a − b modulo 2^64 (R328). -/
def execIsub64 (d a b : BitVec 8) (s : State) : Host.Outcome State Fault Refusal :=
  issue (.isub64 d a b) s (fun x => fixedForm x false 0x02 (fun l => ((x.va l + 2 ^ 64 - x.vb l) % 2 ^ 64, 0)))

/-- ADDA (R329). -/
def execAdda (d a b : BitVec 8) (s : State) : Host.Outcome State Fault Refusal :=
  issue (.adda d a b) s (fun x => fixedForm x false 0x02 (fun l => (addaOf (x.va l) (x.vb l), 0)))

/-- TAGSET: bits [59:56] of a replaced by b[3:0] (R330). -/
def execTagset (d a b : BitVec 8) (s : State) : Host.Outcome State Fault Refusal :=
  issue (.tagset d a b) s (fun x => fixedForm x false 0x02 (fun l =>
    (x.va l - (fld (x.va l) 56 4 <<< 56) + (fld (x.vb l) 0 4 <<< 56), 0)))

/-- TAGGET: a[59:56] in the low bits (R330). -/
def execTagget (d a : BitVec 8) (s : State) : Host.Outcome State Fault Refusal :=
  issue (.tagget d a) s (fun x => fixedForm x false 0x02 (fun l => (fld (x.va l) 56 4, 0)))

/-- BDMAKE; a descriptor that would be invalid is a handle fault (R331). -/
def execBdmake (d a b : BitVec 8) (s : State) : Host.Outcome State Fault Refusal :=
  issue (.bdmake d a b) s (fun x s => match bdmakeOf (x.va 0) (x.vb 0) with
    | some v => fixedForm x false 0x02 (fun _ => (v, 0)) s
    | none => faultAt x 0x30 x.f.word s)

/-- BDNARROW; an invalid descriptor or request is a handle fault (R332). -/
def execBdnarrow (d a b : BitVec 8) (s : State) : Host.Outcome State Fault Refusal :=
  issue (.bdnarrow d a b) s (fun x s => match bdnarrowOf (quadDesc x x.f.a) (x.vb 0) with
    | some v => fixedForm x false 0x02 (fun _ => (v, 0)) s
    | none => faultAt x 0x30 x.f.word s)

/-- BDQUERY; an invalid descriptor is a handle fault (R333). -/
def execBdquery (d a b : BitVec 8) (s : State) : Host.Outcome State Fault Refusal :=
  issue (.bdquery d a b) s (fun x s =>
    if (quadDesc x x.f.a).valid then
      fixedForm x false 0x02 (fun _ => (bdqueryOf (quadDesc x x.f.a) (readU x x.f.b).toNat, 0)) s
    else faultAt x 0x30 x.f.word s)

end Sys2Proof.Machine
end

