-- ==== Sys2Proof/Machine/Lanes.lean ====
section
/-! DEFINITION. Exchanges between lanes, votes, scans and reductions (R350 to R354). -/
namespace Sys2Proof.Machine
open Sys2Proof.Forms

/-- The value of a source register in lane `l`, UNKNOWN where the lane belongs to the team's other live split (R350). -/
def laneSrc (x : Iss) (l : Nat) : Word :=
  if laneIn x.theirs l then unknown x.fresh (2 ^ 20 + l) else readWord x x.f.a 0 l

/-- A form that gives each writing lane the value of another lane (R351). -/
def moveForm (x : Iss) (src : Nat → Nat) (s : State) : State :=
  fixedForm x false 0x02 (fun l => ((laneSrc x (src l)).toNat, 0)) s

/-- The true lanes of the active set (R353). -/
def trueSet (x : Iss) : LaneMask := maskOf x.n (fun l => laneIn x.active l && readTrue x x.f.a l)

/-- tree(v, a, n) of R172 over a list, with fuel for its length. (DEDUCED, log 15) -/
def treeFold {α : Type} (comb : α → α → α) : Nat → List α → Option α
  | _, [] => none
  | _, [v] => some v
  | 0, v :: _ => some v
  | fuel + 1, l =>
    let h := (l.length + 1) / 2
    match treeFold comb fuel (l.take h), treeFold comb fuel (l.drop h) with
    | some a, some b => some (comb a b)
    | some a, none => some a
    | none, r => r

/-- The combination of LANEMOD.OP on floating patterns, with the exceptions so far (R354). (DEDUCED, log 15) -/
def floatComb (fm : Fmt) (ftz : Bool) (op : Nat) (a b : Nat × Exc) : Nat × Exc :=
  let (v, e) := match op with
    | 0 => fAdd false (fval fm false a.1) (fval fm false b.1)
    | 1 => fMinMax false false (fval fm ftz a.1) (fval fm ftz b.1)
    | _ => fMinMax true false (fval fm ftz a.1) (fval fm ftz b.1)
  let (r, q) := fround fm rne 0 v
  (r, a.2 ||| b.2 ||| e ||| q)

/-- The combination of LANEMOD.OP on exact integers (R354). -/
def intComb (t : ETy) (op : Nat) (a b : Int) : Int :=
  match op with
  | 0 => a + b
  | 1 => min a b
  | 2 => max a b
  | 3 => iVal t (wrap t.width a &&& wrap t.width b)
  | 4 => iVal t (wrap t.width a ||| wrap t.width b)
  | _ => iVal t (wrap t.width a ^^^ wrap t.width b)

/-- The identity of a combination (R353). -/
def intIdent (t : ETy) (op : Nat) : Int :=
  match op with
  | 1 => iMax t
  | 2 => iMin t
  | 3 => iVal t (2 ^ t.width - 1)
  | _ => 0
def floatIdent (fm : Fmt) (op : Nat) : Nat :=
  match op with
  | 1 => fm.infBits
  | 2 => fm.signBit true + fm.infBits
  | _ => 0

/-- A left fold whose first value stands for itself. (DEDUCED, log 15) -/
def foldFrom {α : Type} (ident : α) (comb : α → α → α) : List α → α
  | [] => ident
  | v :: rest => rest.foldl comb v

/-- The combination of the values of some lanes, reduced to the type: a left fold, or the tree of R172 for LRED. (DEDUCED, log 15) -/
def combine (x : Iss) (tree : Bool) (ls : List Nat) : Nat × Exc :=
  let op := bits x.m 2 0
  let t := x.t
  if t.float then
    let fm := fmtOf t
    let vs := ls.map (fun l => (x.va l, (0 : Exc)))
    if tree then (treeFold (floatComb fm x.ftz op) vs.length vs).getD (floatIdent fm op, 0)
    else foldFrom (floatIdent fm op, 0) (floatComb fm x.ftz op) vs
  else
    (iReduce t x.sat (foldFrom (intIdent t op) (intComb t op) (ls.map (fun l => iVal t (x.va l)))), 0)

/-- QSWAPX: lane l xor 1 (R351). -/
def execQswapx (d a : BitVec 8) (s : State) : Host.Outcome State Fault Refusal :=
  issue (.qswapx d a) s (fun x => moveForm x (fun l => l ^^^ 1))

/-- QSWAPY: lane l xor 2 (R351). -/
def execQswapy (d a : BitVec 8) (s : State) : Host.Outcome State Fault Refusal :=
  issue (.qswapy d a) s (fun x => moveForm x (fun l => l ^^^ 2))

/-- QSWAPD: lane l xor 3 (R351). -/
def execQswapd (d a : BitVec 8) (s : State) : Host.Outcome State Fault Refusal :=
  issue (.qswapd d a) s (fun x => moveForm x (fun l => l ^^^ 3))

/-- QBCAST: lane k mod 4 of the quad (R351). -/
def execQbcast (d a b : BitVec 8) (s : State) : Host.Outcome State Fault Refusal :=
  issue (.qbcast d a b) s (fun x => moveForm x (fun l => l - l % 4 + (readU x x.f.b).toNat % 4))

/-- LSHFL: lane b[l] mod 32 of the row (R351). -/
def execLshfl (d a b : BitVec 8) (s : State) : Host.Outcome State Fault Refusal :=
  issue (.lshfl d a b) s (fun x => moveForm x (fun l => l - l % 32 + (readWord x x.f.b 0 l).toNat % 32))

/-- LSHFLUP: lane l − n in the row, else l (R351). -/
def execLshflup (d a b : BitVec 8) (s : State) : Host.Outcome State Fault Refusal :=
  issue (.lshflup d a b) s (fun x => moveForm x (fun l =>
    let n := (readU x x.f.b).toNat
    if n ≤ l % 32 then l - n else l))

/-- LSHFLDN: lane l + n in the row, else l (R351). -/
def execLshfldn (d a b : BitVec 8) (s : State) : Host.Outcome State Fault Refusal :=
  issue (.lshfldn d a b) s (fun x => moveForm x (fun l =>
    let n := (readU x x.f.b).toNat
    if l % 32 + n < 32 then l + n else l))

/-- LBCAST: lane k, or 0 from %nlanes on (R351). -/
def execLbcast (d a b : BitVec 8) (s : State) : Host.Outcome State Fault Refusal :=
  issue (.lbcast d a b) s (fun x => fixedForm x false 0x02 (fun _ =>
    let k := (readU x x.f.b).toNat
    (if k < x.n then (laneSrc x k).toNat else 0, 0)))

/-- LVOTE: any, all or ballot of the active lanes (R353). -/
def execLvote (d a b : BitVec 8) (s : State) : Host.Outcome State Fault Refusal :=
  issue (.lvote d a b) s (fun x => fixedForm x false 0x02 (fun l =>
    let t := trueSet x
    match bits x.m 1 0 with
    | 0 => (if t = 0 then 0 else 1, 0)
    | 1 => (if (lanesOf x.n x.active).all (readTrue x x.f.a) then 1 else 0, 0)
    | _ => (if x.scalarDst then (rowBits x.team.rows t).toNat else bits t (l / 32 * 32 + 31) (l / 32 * 32), 0)))

/-- LPOPC: the number of true active lanes (R353). -/
def execLpopc (d a : BitVec 8) (s : State) : Host.Outcome State Fault Refusal :=
  issue (.lpopc d a) s (fun x => fixedForm x false 0x02 (fun _ => ((lanesOf x.n (trueSet x)).length, 0)))

/-- LSCAN (R354); a helper lane receives the combination of the active lanes below it (R353). -/
def execLscan (d a b : BitVec 8) (s : State) : Host.Outcome State Fault Refusal :=
  issue (.lscan d a b) s (fun x => fixedForm x false 0x02 (fun l =>
    let incl := laneIn x.active l && decide (bits x.m 3 3 = 0)
    combine x false ((lanesOf x.n x.active).filter (fun k => decide (k < l) || (incl && decide (k = l))))))

/-- LRED (R354). -/
def execLred (d a b : BitVec 8) (s : State) : Host.Outcome State Fault Refusal :=
  issue (.lred d a b) s (fun x => fixedForm x false 0x02 (fun _ => combine x true (lanesOf x.n x.active)))

/-- LFIRST: the lowest true active lane, else all ones (R353). -/
def execLfirst (d a : BitVec 8) (s : State) : Host.Outcome State Fault Refusal :=
  issue (.lfirst d a) s (fun x => fixedForm x false 0x02 (fun _ =>
    ((lanesOf x.n (trueSet x)).headD 0xFFFFFFFF, 0)))

/-- LMATCH: the active lanes of the row that hold this lane's value (R353). -/
def execLmatch (d a : BitVec 8) (s : State) : Host.Outcome State Fault Refusal :=
  issue (.lmatch d a) s (fun x => fixedForm x false 0x02 (fun l =>
    (maskNat (fun i => laneIn x.active (l / 32 * 32 + i) &&
      decide (readWord x x.f.a 0 (l / 32 * 32 + i) = readWord x x.f.a 0 l)) 32, 0)))

/-- RDLANE: the value of lane k, or 0 from %nlanes on, in a scalar (R352). -/
def execRdlane (d a b : BitVec 8) (s : State) : Host.Outcome State Fault Refusal :=
  issue (.rdlane d a b) s (fun x => fixedForm x false 0x02 (fun _ =>
    let k := (readU x x.f.b).toNat
    (if k < x.n then (laneSrc x k).toNat else 0, 0)))

/-- WRLANE: lane k takes the scalar when it is active; helper lanes are not written (R352). -/
def execWrlane (d a b : BitVec 8) (s : State) : Host.Outcome State Fault Refusal :=
  issue (.wrlane d a b) s (fun x s =>
    let k := (readU x x.f.b).toNat
    let m := maskOf x.n (fun l => decide (l = k) && laneIn x.active l)
    if m = 0 then retire x s
    else retire x (updTeam s x.ref.team (fun t => writeDst t x.f.d m (fun _ => (readU x x.f.a).toNat) 1)))

end Sys2Proof.Machine
end

