-- ==== Sys2Proof/Machine/Order.lean ====
section
/-! DEFINITION. What orders a team's accesses: side-log entries, releases, watches and blocking waits (R62 to R65, R170,
R197 to R206, R301, R395, R451, R452). -/
namespace Sys2Proof.Machine
open Sys2Proof.Forms

/-! ### The side log (R205, R451, R452) -/

/-- The entries of a team that have not been performed or failed. -/
def openEntries (s : State) (k : TeamKey) : List SideEntry := s.sideLog.filter (fun e => decide (e.split.team = k) && !e.failed)

/-- Its entries that have failed and that no instruction has waited for since. -/
def failedEntries (s : State) (k : TeamKey) : List SideEntry := s.sideLog.filter (fun e => decide (e.split.team = k) && e.failed)

/-- Do two accesses of a team touch one location? Stack addresses are private to their lane (R24). -/
def overlaps (x : Ctx) (ga : BitVec 64) (n lane : Nat) (e : SideEntry) : Bool :=
  let a := bits ga 55 0
  let b := bits e.ga 55 0
  let sp := bits x.spbase 55 0
  let stk := bits x.stkbase 55 0
  decide (a < b + e.size) && decide (b < a + n) &&
  (decide (inStack sp stk ga = inStack sp stk e.ga)) && (!inStack sp stk ga || decide (lane = e.lane))

/-- The team is parked at the instruction that had to wait for failed entries, and the entries are gone (R452). (DEDUCED, log 57) -/
def parkAtWait (x : Iss) (gone : SideEntry → Bool) (s : State) : State :=
  let s1 := { s with sideLog := s.sideLog.filter (fun e => !(decide (e.split.team = x.ref.team) && e.failed && gone e)) }
  updSplit (parkTeam s1 x.ref.team) x.ref (fun sp => { sp with
    hold := .none, resume := some { mask := x.active, atInstr := false }, retry := none, stepping := false })

/-! ### Releases (R197, R205, R170, R211) -/

/-- The mark of a flushing read that has completed. -/
def flushDone : Nat := 0

/-- Is a team's remote write request that `p` picks, made before the mark, without a response? -/
def madeBefore (s : State) (mark : Nat) (p : OutReq → Bool) : Bool :=
  s.outReqs.any (fun q => q.write && (reqTeam q).isSome && decide (q.num < mark) && p q)

/-- A remote atomic or reduction of a team (R295, R296). -/
def atomicOf (k : TeamKey) (q : OutReq) : Bool :=
  decide (reqTeam q = some k) && (decide ((hdrOf q.packet).kind = kATOMIC) || decide ((hdrOf q.packet).kind = kREDUCE))

/-- The remote requests that an instruction waits for: those made before it first tried to perform its effect. -/
def relMark (x : Iss) (s : State) : Nat := x.split.relAt.getD s.reqNum

/-- The instruction waits for responses to requests made before the mark. -/
def holdMarked (x : Iss) (st : Stall) (s : State) : State :=
  holdAt x (.stall st) (updSplit s x.ref (fun sp => { sp with relAt := some (relMark x s) }))

/-- A release waits for the open entries of the team's side log; a team with failed entries is parked at it (R205, R452). (DEDUCED, log 57) -/
def logThen (x : Iss) (eff : State → State) (s : State) : State :=
  if openEntries s x.ref.team ≠ [] then holdAt x (.stall .log) s
  else if failedEntries s x.ref.team ≠ [] then parkAtWait x (fun _ => true) s
  else eff s

/-- A release at a scope: it waits for the side log and for the responses of the team's remote atomics and reductions; at fab and
sys for those of every remote write that a team has made before it, the writes that happen-before it among them; and at sys for a
flushing read. (DEDUCED, log 83) -/
def releaseThen (x : Iss) (scope : Nat) (eff : State → State) : State → State := logThen x (fun s =>
  if madeBefore s (relMark x s) (atomicOf x.ref.team) then holdMarked x .atomics s
  else if decide (4 ≤ scope) && madeBefore s (relMark x s) (fun _ => true) then holdMarked x .writes s
  else if scope = 5 then
    match s.flushes.find? (fun f => decide (f.2 = x.ref)) with
    | some (n, _) =>
      if n = flushDone then eff { s with flushes := s.flushes.filter (fun f => decide (f.2 ≠ x.ref)) }
      else holdMarked x .flush s
    | none =>
      let n := s.nextOp + 1
      holdMarked x .flush
        (addAgenda { s with flushes := s.flushes ++ [(n, x.ref)], nextOp := n } [.pcieCompletion n])
  else eff s)

/-! ### Watches (R63 to R65) -/

/-- A split's watches are removed when it leaves its wait (R65). -/
def dropWatches (s : State) (r : SplitRef) : State := { s with watches := s.watches.filter (fun w => decide (w.split ≠ r)) }

/-- Registers a watch on the line of a local address, unless the table of its slice is full or it is the host window
(R63, R64, R301). -/
def watchLine (s : State) (r : SplitRef) (pa : Nat) : State × WatchOn :=
  let on := WatchOn.line (pa / 128)
  let sl := sliceOf s (0, 4) pa
  if hostBase ≤ pa then (s, .poll)
  else if s.watches.any (fun w => decide (w.split = r) && decide (w.on = on)) then (s, on)
  else if 64 ≤ (s.watches.filter (fun w => decide (w.slice = sl))).length then (s, .poll)
  else ({ s with watches := s.watches ++ [{ slice := sl, on := on, split := r }] }, on)

/-- Registers a watch on a scratchpad word of the block (R301). -/
def watchSpad (s : State) (r : SplitRef) (off : Nat) : State × WatchOn :=
  let on := WatchOn.spad r.team.disp r.team.block off
  if s.watches.any (fun w => decide (w.split = r) && decide (w.on = on)) then (s, on)
  else ({ s with watches := s.watches ++ [{ slice := 2048, on := on, split := r }] }, on)

/-- A blocking wait whose condition is unmet: the split watches the line and waits. -/
def waitOn (x : Iss) (pa : Nat) (s : State) : State :=
  let (s1, on) := watchLine s x.ref pa
  holdAt x (.wait [on]) s1

/-- An acquire by the issuing team at a scope: from dev on the core's L1 drops its lines, and what the engines have placed in its
scratchpad counts as written by the team (R86, R198, R209). -/
def acquire (x : Iss) (scope : Nat) (s : State) : State :=
  updTeam (if 3 ≤ scope then l1Drop s x.team.core else s) x.ref.team
    (fun t => { t with acquired := ((blockOf s x.ref.team.disp x.ref.team.block).getD noBlock).placed.length })

/-- A blocking wait whose condition is met: it is an acquire at its scope, watches go, and the form retires. -/
def leaveWait (x : Iss) (scope : Nat) (s : State) : State := retire x (acquire x scope (dropWatches s x.ref))

end Sys2Proof.Machine
end

