-- ==== Sys2Proof/Machine/Access.lean ====
section
/-! DEFINITION. The accesses that the lanes of one instruction make: checks, page requests and the side log, local and
remote reads and writes, bank conflicts, and how the failing lanes are reported (R38, R52, R83, R168 to R174, R203 to
R205, R283, R288, R446 to R448, R505). -/
namespace Sys2Proof.Machine
open Sys2Proof.Forms

/-- An access of a lane. -/
structure LaneAcc where
  lane : Nat
  acc  : Access
  deriving DecidableEq, Repr

/-- A lane that fails: its cause and address. -/
structure Bad where
  lane  : Nat
  cause : BitVec 8
  ga    : Option (BitVec 64)
  more  : Option (Nat × BitVec 64)   -- slab index of a stale-halo fault, and INFO2 (R444)
  deriving DecidableEq, Repr

/-- Who makes the access of a lane. -/
def whoOf (x : Iss) (l : Nat) : Who :=
  { ctx := x.team.ctx, via := .pipe x.team.core x.team.part, spBytes := x.disp.spBytes, slot := x.team.stackSlot, lane := l, failed := x.split.pageFail }

/-- The lanes that access: the lowest active one for a scalar destination with a uniform address (R283). -/
def accLanes (x : Iss) : List Nat :=
  if x.scalarDst then (if x.active = 0 then [] else [x.first]) else lanesOf x.n x.active

/-- The effective address of a lane: bits [55:0] plus the signed offset, the rest kept; none outside the range (R286). -/
def effAddr (ga : BitVec 64) (off : Int) : Option (BitVec 64) :=
  let v : Int := (bits ga 55 0 : Int) + off
  if v < 0 ∨ (2 ^ 56 : Int) ≤ v then none
  else some (BitVec.ofNat 64 ((bits ga 63 56 <<< 56) + v.toNat))

/-! ### Checks of all lanes -/

/-- The checks of R52 for every lane, in ascending lanes. (DEDUCED, log 22) -/
def checkLanes (x : Iss) : List LaneAcc → State → State × List (LaneAcc × Checked)
  | [], s => (s, [])
  | a :: rest, s =>
    let (s1, c) := checkAccess s (whoOf x a.lane) a.acc
    let (s2, l) := checkLanes x rest s1
    (s2, (a, c) :: l)

/-- The record of a page request for a lane's access (R444). -/
def pageRec (x : Iss) (accCode : BitVec 8) (write : Bool) (lane : Nat) (ga : BitVec 64) (s : State) : FaultRec :=
  { teamRec s x.team 1 0x1B with
    entry := 2 * x.team.slot + x.ref.high.toNat
    flags := if write then 33 else 1, acc := accCode, lane := BitVec.ofNat 16 lane, pc := x.pc.setWidth 64, addr := ga }

/-- Opens or joins the page requests of lanes: their identities, and the lanes whose request is answered as failed at
once (R38, R443, R446). -/
def askPages (x : Iss) (accCode : BitVec 8) (write : Bool) : List (LaneAcc × Nat) → State → State × List (Nat × BitVec 32) × List Bad
  | [], s => (s, [], [])
  | (a, page) :: rest, s =>
    let (s1, q) := requestPage s x.team.ctx page (pageRec x accCode write a.lane a.acc.ga s)
    let (s2, qs, bad) := askPages x accCode write rest s1
    match q with
    | some q => (s2, (a.lane, q) :: qs, bad)
    | none => (s2, qs, ⟨a.lane, 0x15, some a.acc.ga, none⟩ :: bad)

/-- The lanes of a checked list by outcome. -/
def okLanes (l : List (LaneAcc × Checked)) : List (LaneAcc × List Target) := l.filterMap (fun p => match p.2 with
  | .ok ts _ => some (p.1, ts)
  | _ => none)
def badLanes (l : List (LaneAcc × Checked)) : List Bad := l.filterMap (fun p => match p.2 with
  | .fault c => some ⟨p.1.lane, c, some p.1.acc.ga, none⟩
  | _ => none)
def pageLanes (l : List (LaneAcc × Checked)) : List (LaneAcc × Nat) := l.filterMap (fun p => match p.2 with
  | .page g => some (p.1, g)
  | _ => none)

/-- The failing lane with the lowest index. -/
def lowest : List Bad → Option Bad
  | [] => none
  | b :: rest => match lowest rest with
    | none => some b
    | some c => if c.lane < b.lane then some c else some b

/-- Reports failing lanes in one record: cause and address of the lowest, all of them the resume mask (R444, R447). (DEDUCED, log 21) -/
def reportLanes (x : Iss) (bad : List Bad) (atInstr : Bool) (accCode : BitVec 8) (write : Bool) (s : State) : State :=
  match lowest bad with
  | none => s
  | some b => raiseFault s x.ref
      { cause := b.cause, pc := x.pc, lanes := maskOf x.n (fun l => bad.any (fun c => decide (c.lane = l))),
        atInstr := atInstr, lane := b.lane, acc := accCode, addr := b.ga, write := write,
        info := BitVec.ofNat 32 (match b.cause.toNat, b.more with
          | 0x52, some h => h.1
          | _, _ => bad.length)
        info2 := match b.more with
          | some h => h.2
          | none => 0
        side := false }

/-! ### Scratchpad banks (R82, R83, R505) -/

/-- The bank of a physical scratchpad address. -/
def bankOf (a : Nat) : Nat := ((a >>> 4) ^^^ (a >>> 10)) % 64

/-- The distinct 16-byte words that a row pass asks for. -/
def passWords (offs : List Nat) : List Nat := (offs.map (· / 16)).eraseDups

/-- The conflict degree of a row pass: the most words of one bank, at least 1 (R83). -/
def degree (offs : List Nat) : Nat :=
  let ws := passWords offs
  max 1 ((List.range 64).foldl (fun m b => max m (ws.filter (fun w => decide (bankOf (16 * w) = b))).length) 0)

/-- The banks that a row pass asks for, one bit each. -/
def banksOf (offs : List Nat) : Nat := maskNat (fun b => (passWords offs).any (fun w => decide (bankOf (16 * w) = b))) 64

/-- Makes the bank-conflict record of a row pass `late` cycles from now (R505). (DEDUCED, log 26) -/
def bankRecord (x : Iss) (late : Nat) (offs : List Nat) (s : State) : State :=
  let c := ctxOf s x.team.ctx
  let k := coreOf s x.team.core
  let d := degree offs
  let now := s.cycle + BitVec.ofNat 64 late
  if d < max 2 (bits c.trcbc 62 60) then s
  else
    let free := !k.traced || decide (k.traceAt.toNat + 16 ≤ now.toNat)
    let full := decide (bits c.trcbc 59 44 * 128 ≤ c.trcnext.toNat)
    if !free || full then updCtx s x.team.ctx (fun c => { c with trcdrop := c.trcdrop + 1 })
    else
      let s1 := updCore s x.team.core (fun k => { k with traceAt := now, traced := true })
      if bits c.trcbc 63 63 = 0 then s1
      else
        let v := x.pc.toNat + (now.toNat <<< 64) + (banksOf offs <<< 128) + ((d % 256) <<< 192) + ((x.team.core % 256) <<< 200) +
          ((x.team.part % 256) <<< 208) + ((x.team.key.team % 256) <<< 216) + ((x.team.key.block % 2 ^ 32) <<< 224)
        let s2 := writeNat s1 ((bits c.trcbc 43 0 * 4096) % 2 ^ 48 + 32 * c.trcnext.toNat) 32 v
        updCtx s2 x.team.ctx (fun c => { c with trcnext := c.trcnext + 1 })

/-- The scratchpad addresses of a row's checked lanes. -/
def rowOffs (x : Iss) (l : List (LaneAcc × List Target)) (r : Nat) : List Nat := l.flatMap (fun p =>
  if p.1.lane / 32 = r then p.2.filterMap (fun t => match t with
    | .spad o => some (x.block.spBase + o)
    | _ => none) else [])

/-- What conflicts of the row passes bring: records, and the cycles beyond one a pass (R83, R415). -/
def conflicts (x : Iss) (l : List (LaneAcc × List Target)) (s : State) : State :=
  let rows := (List.range x.team.rows).filterMap (fun r => let o := rowOffs x l r; if o = [] then none else some o)
  let (s1, late) := rows.foldl (fun (acc : State × Nat) o => (bankRecord x acc.2 o acc.1, acc.2 + degree o)) (s, 0)
  let s1 := (List.range x.team.rows).foldl (fun s r =>
    chargeRow s x.team x.split.mask x.active x.pc (degree (rowOffs x l r) - 1) r) s1
  updSplit s1 x.ref (fun sp => { sp with busy := sp.busy + (late - rows.length) })

/-! ### Remote requests of a team (R168 to R174) -/

/-- The header of a request of the team (R157, R168). -/
def teamHdr (s : State) (t : Team) (kind dev pa n : Nat) (tag : Nat) (tc : Bool) : Hdr :=
  let c := ctxOf s t.ctx
  { kind := kind, cls := 0, qos := bits c.ctxfab 1 0, src := devNum s, dst := dev, inc := s.fabinc.toNat, tag := tag,
    tc := tc.toNat, bytes := n - 1, addr := pa % 2 ^ 48, asid := bits c.ctxtr 60 48, tslot := t.stackSlot }

/-- Counts a STORE or REDUCE toward the target of the team's current stream (R174). -/
def counted (s : State) (k : TeamKey) (h : Hdr) : State × Hdr :=
  match teamOf s k with
  | none => (s, h)
  | some t => match t.curStream with
    | none => (s, h)
    | some n =>
      let st := mapGet Stream.reset t.streams n
      if st.valid ∧ st.target.toNat = h.dst ∧ (h.kind = kSTORE ∨ h.kind = kREDUCE) then
        (updTeam s k (fun t => { t with streams := mapSet Stream.reset t.streams n { st with count := st.count + 1 } }),
         { h with cnt := 1, stream := n, epoch := st.epoch.toNat })
      else (s, h)

/-- Sends one request of a team. -/
def teamRequest (s : State) (t : Team) (h : Hdr) (v n : Nat) (w : Waiter) : State :=
  let (s1, h1) := counted s t.key h
  request s1 (newReq h.dst (packetOf h1 v n) w (decide (h.kind ≠ kLOAD)))

/-- Does an access go to another device? -/
def isRemote (ts : List Target) : Bool := ts.any (fun t => match t with
  | .remote _ _ _ => true
  | _ => false)

/-- The remote pieces of an access with their byte offsets in it. -/
def remotePieces : Nat → List Target → List (Nat × Nat × Nat × Bool)
  | _, [] => []
  | o, .remote pa n tc :: rest => (o, pa, n, tc) :: remotePieces (o + n) rest
  | o, .mem _ n _ :: rest => remotePieces (o + n) rest
  | o, .spad _ :: rest => remotePieces o rest

/-! ### Remote bytes of records and tables (R168) -/

/-- The pieces of an access that lie on other devices. -/
def farPieces (ts : List Target) : List (Nat × Nat × Bool) := ts.filterMap (fun t => match t with
  | .remote pa n tc => some (pa, n, tc)
  | _ => none)

/-- Has a piece come back, or is it asked for? -/
def fetchOf (s : State) (who : FetchFor) (pa : Nat) : Option Fetched := s.fetched.find? (fun f => decide (f.who = who ∧ f.pa = pa))
def fetchOut (s : State) (who : FetchFor) (pa : Nat) : Bool := s.outReqs.any (fun q => decide (q.waiter = .fetch who pa))

/-- Asks for the remote pieces that have not come back. -/
def fetchAsk (s : State) (who : FetchFor) (h : Hdr) (ts : List Target) : State :=
  (farPieces ts).foldl (fun s (pa, n, tc) =>
    if (fetchOf s who pa).isSome || fetchOut s who pa then s
    else request s (newReq (pa / 2 ^ 48) (packetOf { h with dst := pa / 2 ^ 48, tc := tc.toNat, bytes := n - 1, addr := pa % 2 ^ 48 } 0 0)
      (.fetch who pa) false)) s

/-- Forgets what has come back for a reader. -/
def fetchDrop (s : State) (who : FetchFor) : State := { s with fetched := s.fetched.filter (fun f => decide (f.who ≠ who)) }

/-- Does a split's instruction, or a lane of it, read the piece? -/
def FetchFor.isOf (r : SplitRef) : FetchFor → Bool
  | .split r' => decide (r' = r)
  | .lane r' _ => decide (r' = r)
  | _ => false

/-- A reader that no one waits for any more: the response of an instruction that the split has left finds no lane. -/
def FetchFor.gone (r : SplitRef) : FetchFor := .lane r 1024

/-- A split leaves the instruction for which it was reading: what came back is forgotten, and what is on its way finds no reader. -/
def fetchForget (s : State) (r : SplitRef) : State :=
  { s with
    fetched := s.fetched.filter (fun f => !f.who.isOf r)
    outReqs := s.outReqs.map (fun q => match q.waiter with
      | .fetch who pa => if who.isOf r then { q with waiter := .fetch (.gone r) pa } else q
      | _ => q) }

/-- What a checked read of mixed pieces gives once every remote piece has come back: its number or its first failure; local pieces
are read as the L1 of a core or the home slices give them. -/
def fetchValue (s : State) (l1 : Option Nat) (b : Block) (who : FetchFor) : List Target → Except (BitVec 8) Nat
  | [] => .ok 0
  | t :: rest =>
    let head : Except (BitVec 8) (Nat × Nat) := match t with
      | .spad o => .ok (spRead b o 4, 4)
      | .mem pa n cp => if poisonAt s pa n then .error 0x17 else .ok (leNat (viewByte s (l1For l1 cp)) pa n, n)
      | .remote pa n _ => match fetchOf s who pa with
        | some f => if f.cause = 0 then .ok (f.val % 2 ^ (8 * n), n) else .error f.cause
        | none => .ok (0, n)
    match head, fetchValue s l1 b who rest with
    | .ok (v, n), .ok w => .ok (v + (w <<< (8 * n)))
    | .ok _, .error c => .error c
    | .error c, _ => .error c

/-- What a checked read of `n` bytes gives. -/
def loadValue (s : State) (l1 : Option Nat) (b : Block) (who : FetchFor) (ts : List Target) (n : Nat) : Except (BitVec 8) Nat :=
  match ts with
  | [.spad o] => .ok (spRead b o n)
  | _ => fetchValue s l1 b who ts

/-- Is a remote piece still on its way? -/
def fetching (s : State) (who : FetchFor) (ts : List Target) : Bool := (farPieces ts).any (fun p => (fetchOf s who p.1).isNone)

/-- A lane whose read has failed; a peer reset names the device in INFO2 (R444). -/
def badRead (s : State) (who : FetchFor) (lane : Nat) (ga : BitVec 64) (ts : List Target) (c : BitVec 8) : Bad :=
  { lane := lane, cause := c, ga := some ga
    more := if c = 0x18 then some (0, BitVec.ofNat 64 (((farPieces ts).find? (fun p => match fetchOf s who p.1 with
      | some f => decide (f.cause = c)
      | none => false)).elim 0 (fun p => p.1 / 2 ^ 48))) else none }

/-! ### Loads (R283, R287, R288) -/

/-- Open entries of the team that hold bytes the accesses touch; failed ones (R205, R452). -/
def heldBy (x : Iss) (s : State) (l : List LaneAcc) (failed : Bool) : List SideEntry :=
  s.sideLog.filter (fun e => decide (e.split.team = x.ref.team) && decide (e.failed = failed) &&
    l.any (fun a => overlaps x.ctx a.acc.ga a.acc.n a.lane e))

/-- The places of `n` bytes of a checked access, as the spin detector calls them (R420). -/
def spinPlaces (n : Nat) (ts : List Target) : List Nat := ts.flatMap (fun t => match t with
  | .mem pa k _ => (List.range ((pa + k - 1) / 32 + 1 - pa / 32)).map (fun i => spinSector (32 * (pa / 32 + i)))
  | .spad o => (List.range ((o + n - 1) / 4 + 1 - o / 4)).map (fun i => spinWord (4 * (o / 4 + i)))
  | .remote _ _ _ => [])

/-- Notes the places that a split reads, for the spin detector (R420). -/
def noteReads (x : Iss) (l : List (Nat × List Target)) (s : State) : State :=
  let ps := l.flatMap (fun p => spinPlaces p.1 p.2)
  updSplit s x.ref (fun sp => { sp with spinRead := (ps ++ sp.spinRead).eraseDups })

/-- The common course of a form that reads: every lane's translation is settled first, open page requests hold the split,
bytes held in the side log hold it, and then `perform` acts on the lanes that pass and says which failed (R205, R288). -/
def settleThen (x : Iss) (accCode : BitVec 8) (write : Bool) (l : List LaneAcc)
    (perform : List (LaneAcc × List Target) → List Bad → State → State) (s : State) : State :=
  let (s1, rs) := checkLanes x l s
  let (s2, open_, refused) := askPages x accCode write (pageLanes rs) s1
  if open_ ≠ [] then holdAt x (.page (open_.map (·.2)).eraseDups) s2
  else if heldBy x s2 l true ≠ [] then parkAtWait x (fun e => (heldBy x s2 l true).contains e) s2
  else match heldBy x s2 l false with
    | e :: _ => holdAt x (.stall (.location e.ga e.size)) s2
    | [] => perform (okLanes rs) (badLanes rs ++ refused) s2

/-- Sign or zero extension of a loaded number of `n` bytes (R285, R287). -/
def extend (n : Nat) (sx : Bool) (v : Nat) : Nat := if sx then wrap 32 (sgn (8 * n) v) else v

/-- How a load passes the caches: the core whose L1 may serve it, whether that L1 allocates, and whether a slice that allocates does
so at lowest retention (R85, R287). -/
structure LoadCache where
  l1   : Option Nat
  keep : Bool
  low  : Bool
  deriving DecidableEq, Repr

/-- A plain load of the team: through the core's L1. -/
def plainLoad (x : Iss) : LoadCache := { l1 := some x.team.core, keep := true, low := false }

/-- A read that bypasses the L1 (R198). -/
def bypassLoad : LoadCache := { l1 := none, keep := false, low := false }

/-- The values of a load's lanes, and the lanes that fail at the home slice or the target (R15, R168). -/
def laneValues (x : Iss) (l1 : Option Nat) (s : State) (ok : List (LaneAcc × List Target)) : List (LaneAcc × List Target × Nat) × List Bad :=
  ok.foldr (fun p (acc : List (LaneAcc × List Target × Nat) × List Bad) =>
    match loadValue s l1 x.block (.lane x.ref p.1.lane) p.2 p.1.acc.n with
    | .ok v => ((p.1, p.2, v) :: acc.1, acc.2)
    | .error c => (acc.1, badRead s (.lane x.ref p.1.lane) p.1.lane p.1.acc.ga p.2 c :: acc.2)) ([], [])

/-- Asks for the remote pieces of a load's lanes, one LOAD each, with the lane's pointer tag (R168). -/
def askLanes (x : Iss) (ok : List (LaneAcc × List Target)) (s : State) : State :=
  ok.foldl (fun s p => fetchAsk s (.lane x.ref p.1.lane) (teamHdr s x.team kLOAD 0 0 1 (bits p.1.acc.ga 59 56) false) p.2) s

/-- The end of a load of lanes that pass and lanes that fail: the split is held until every remote piece is here, then the values
are in flight and are written when the flag clears; failing lanes are reported with the split held at the load (R288, R447).
`extra` are lanes that read a value without an access; `after` is an acquire that the lanes performed make. (DEDUCED, log 84) -/
def loadLanes (x : Iss) (lc : LoadCache) (sx : Bool) (extra : List (Nat × Nat)) (after : State → State)
    (ok : List (LaneAcc × List Target)) (bad : List Bad) (s : State) : State :=
  if ok.any (fun p => fetching s (.lane x.ref p.1.lane) p.2) then holdAt x (.stall .fetch) (askLanes x ok s)
  else
    let (vals, late) := laneValues x lc.l1 s ok
    let bad := bad ++ late
    let regs := (fieldRegs x).1
    let get (lane : Nat) : Nat := match vals.find? (fun p => decide (p.1.lane = lane)) with
      | some p => extend p.1.acc.n sx p.2.2
      | none => match extra.find? (fun p => decide (p.1 = lane)) with
        | some p => p.2
        | none => 0
    let done := maskOf x.n (fun lane => vals.any (fun p => decide (p.1.lane = lane)) || extra.any (fun p => decide (p.1 = lane)))
    let ws := if x.scalarDst then regWrites x x.f.d regs done (fun _ => get x.first) else regWrites x x.f.d regs done get
    let s1 := if done = 0 then s else addFlight x false .ready ws [] 0 none s
    let s2 := vals.foldl (fun s p => loadPass (partOfCtx s x.team.ctx) lc.l1 lc.keep lc.low p.2.1 s) s1
    let s3 := noteReads x (vals.map (fun p => (p.1.acc.n, p.2.1))) (fetchForget s2 x.ref)
    let s4 := if vals = [] then s3 else after s3
    if bad = [] then conflicts x ok (retire x s4) else reportLanes x bad true 0 false (conflicts x ok s4)

/-- A load of lanes through generic addresses. -/
def loadForm (x : Iss) (lc : LoadCache) (sx : Bool) (l : List LaneAcc) (pre : List Bad) (extra : List (Nat × Nat))
    (after : State → State) (s : State) : State :=
  settleThen x 0 false l (fun ok bad s => loadLanes x lc sx extra after ok (bad ++ pre) s) s

/-! ### Stores (R287, R203, R205) -/

/-- Records the scratchpad bytes a team writes, for MREADY (R209). (DEDUCED, log 20) -/
def noteSpad (k : TeamKey) (ts : List Target) (n : Nat) (s : State) : State :=
  match ts with
  | [.spad o] => updTeam s k (fun t => { t with wroteS := (o, n) :: t.wroteS.filter (· ≠ (o, n)) })
  | _ => s

/-- The bytes that a drain writes or a MLDACC reads, as generic addresses and lengths: its owned rows, and of a transposed drain
every column and the 512 scale bytes that it writes (R372 to R374). -/
def mqRows (q : MqOp) : List (Nat × Nat) :=
  let a := bits q.ga 55 0
  let pitch := 16 * bits q.mod0 19 8
  match q.kind with
  | .drain => (lanesOf 64 q.rows).map (fun i => (a + pitch * i, if bits q.mod0 1 0 = 0 then 1024 else 512))
  | .load => (lanesOf 64 q.rows).map (fun i => (a + pitch * i, 1024))
  | .drainT => (List.range 256).flatMap (fun r => (a + pitch * r, 64) :: [0, 1].map (fun kb =>
      let b := 2 * bits q.mod0 3 3 + kb
      (bits q.ga2 55 0 + 256 * (r / 64) + 4 * ((r % 64) ^^^ (16 * b)) + b, 1)))
  | _ => []

/-- A store by the team to the source of its MLDACC or the destination of its drain, made before the flag clears, leaves
the tile or the destination UNKNOWN (R376); one to a partition's storage is remembered by its pending exchanges (R141). (DEDUCED, log 20) -/
def spoilRows (s : State) (k : TeamKey) (ga : BitVec 64) (n : Nat) : State :=
  { s with
    exchanges := s.exchanges.map (fun e => if e.team.disp = k.disp ∧ e.owner = k.block ∧ e.cancelled = false
      then { e with stored := e.stored ++ [(bits ga 55 0, n)] } else e)
    mqOps := s.mqOps.map (fun q =>
      if q.split.team = k ∧ (mqRows q).any (fun (a, w) => touches (bits ga 55 0) n a w) = true
      then { q with free := true } else q) }

/-- Performs a checked store of `n` bytes; none where a partly covered sector is poisoned. -/
def storePieces (s : State) (t : Team) (r : SplitRef) (lane : Nat) (pc : BitVec 56) (ga : BitVec 64) (ts : List Target) (n v : Nat) :
    Option State :=
  let s0 := spoilRows s t.key ga n
  if isRemote ts then
    some ((remotePieces 0 ts).foldl (fun s (o, pa, k, tc) =>
      teamRequest s t (teamHdr s t kSTORE (pa / 2 ^ 48) pa k (bits ga 59 56) tc) (fld v (8 * o) (8 * k)) k
        (.team r [lane] [] 0 0 0 pc ga 1)) s0)
  else (writeChecked t.core s0 (partOfCtx s t.ctx) t.key.disp t.key.block ts n v).map (noteSpad t.key ts n)

/-- A side-log entry for a lane (R451). -/
def sideEntry (x : Iss) (a : LaneAcc) (op : SliceOp) (data : Nat) (q : BitVec 32) : SideEntry :=
  { core := x.team.core, split := x.ref, ctx := x.team.ctx, lane := a.lane, pc := x.pc, ga := a.acc.ga, size := a.acc.n,
    data := BitVec.ofNat 128 data, op := op, seq := q, failed := false }

/-- The common course of a form that writes and returns nothing: lanes with an open page request, or behind an entry of
the side log, enter the log, for which room is taken first; the others are performed (R38, R205, R451). `data` is a lane's
operand and `perform` acts on the lanes that pass, giving those that fail at the home slice. -/
def writeForm (x : Iss) (accCode : BitVec 8) (l : List LaneAcc) (pre : List Bad) (op : SliceOp) (data : Nat → Nat)
    (perform : List (LaneAcc × List Target) → State → State × List Bad) (s : State) : State :=
  let (s1, rs) := checkLanes x l s
  let behind (a : LaneAcc) : Option (BitVec 32) :=
    (s1.sideLog.find? (fun e => decide (e.split.team = x.ref.team) && !e.failed && overlaps x.ctx a.acc.ga a.acc.n a.lane e)).map (·.seq)
  let (s2, open_, refused) := askPages x accCode true ((pageLanes rs).filter (fun p => (behind p.1).isNone)) s1
  let entering := rs.filterMap (fun p => match p.2, behind p.1 with
    | .fault _, _ => none
    | _, some q => some (p.1, q)
    | .page _, none => (open_.find? (fun o => decide (o.1 = p.1.lane))).map (fun o => (p.1, o.2))
    | .ok _ _, none => none)
  let room := 256 - (s2.sideLog.filter (fun e => decide (e.core = x.team.core) && !e.failed)).length
  let ok := (okLanes rs).filter (fun p => (behind p.1).isNone)
  if room < entering.length then holdAt x (.stall .logFull) s2
  else
    let s3 := { s2 with sideLog := s2.sideLog ++ entering.map (fun p => sideEntry x p.1 op (data p.1.lane) p.2) }
    let (s4, late) := perform ok s3
    let bad := badLanes rs ++ pre ++ refused
    if bad ≠ [] then reportLanes x (bad ++ late) true accCode true (conflicts x ok s4)
    else reportLanes x late false accCode true (conflicts x ok (retire x s4))

/-- Is a lane's remote store to the location of a higher lane's, whose value alone may be seen (R203)? A lane whose tag the target may
refuse is sent all the same. -/
def outdone (ok : List (LaneAcc × List Target)) (p : LaneAcc × List Target) : Bool :=
  isRemote p.2 && ok.any (fun q => decide (p.1.lane < q.1.lane) && decide (q.2 = p.2) &&
    (decide (bits q.1.acc.ga 59 56 = bits p.1.acc.ga 59 56) || (farPieces p.2).all (fun t => !t.2.2)))

/-- Performs the stores of lanes in ascending order, so that the highest lane's value stays (R203). -/
def storeLanes (x : Iss) (data : Nat → Nat) (ok : List (LaneAcc × List Target)) (s : State) : State × List Bad :=
  (ok.filter (fun p => !outdone ok p)).foldl (fun (acc : State × List Bad) p =>
    match storePieces acc.1 x.team x.ref p.1.lane x.pc p.1.acc.ga p.2 p.1.acc.n (data p.1.lane) with
    | some s => (s, acc.2)
    | none => (acc.1, acc.2 ++ [⟨p.1.lane, 0x17, some p.1.acc.ga, none⟩])) (s, [])

/-- A store of lanes. -/
def storeForm (x : Iss) (l : List LaneAcc) (pre : List Bad) (data : Nat → Nat) (s : State) : State :=
  writeForm x 1 l pre .write data (storeLanes x data) s

end Sys2Proof.Machine
end

