-- ==== Sys2Proof/Machine/Atomics.lean ====
section
/-! DEFINITION. Returning atomics and reductions (R60, R61, R172, R203, R295 to R297, R448). -/
namespace Sys2Proof.Machine
open Sys2Proof.Forms

/-- Width of an atomic in bits (R295). -/
def atomBits (x : Iss) : Nat := if (x.ty.getD .s32).wide then 64 else 32

/-- The accesses of an atomic's lanes: naturally aligned, no offset (R60, R295). (DEDUCED, log 22) -/
def atomLanes (x : Iss) (ls : List Nat) : List LaneAcc :=
  ls.map (fun l => ⟨l, { ga := BitVec.ofNat 64 (readNat x x.f.a l 2), n := atomBits x / 8, align := atomBits x / 8,
                         write := true, atom := true, tags := true }⟩)

/-- The operand of a lane: `v`, and for a swap its compare value below the swap value (R295). -/
def atomOperand (x : Iss) (l : Nat) : Nat := readNat x x.f.b l (fieldRegs x).2.2

/-- The value stored and the value compared with, of an operand. -/
def atomParts (op : AOp) (w : Nat) (o : Nat) : Nat × Nat :=
  if op = .cas then (fld o w w, fld o 0 w) else (o % 2 ^ w, 0)

/-- Are lanes of one location combined (R172, R297)? -/
def combines (op : AOp) : Bool := op ≠ .cas && op ≠ .xchg

/-- The operands of a group as the one operation that is sent, by the tree of R172. -/
def groupOperand (op : AOp) (w : Nat) (vs : List Nat) : Nat :=
  (treeFold (fun a b => atomicResult op w a b 0) vs.length vs).getD 0

/-- The value lane `i` of a group fetches when the word was `m` (R172). -/
def fetched (op : AOp) (w m : Nat) (vs : List Nat) (i : Nat) : Nat :=
  if i = 0 then m else atomicResult op w m (groupOperand op w (vs.take i)) 0

/-- The lanes that pass, grouped by location, in the order of each group's lowest lane (R297). (DEDUCED, log 22) -/
def atomGroups (op : AOp) : Nat → List (LaneAcc × List Target) → List (List (LaneAcc × List Target))
  | 0, _ => []
  | _, [] => []
  | fuel + 1, p :: rest =>
    if combines op then
      (p :: rest.filter (fun q => decide (q.2 = p.2))) :: atomGroups op fuel (rest.filter (fun q => decide (q.2 ≠ p.2)))
    else [p] :: atomGroups op fuel rest

/-- An operation on one word at the home slice or in the scratchpad bank, by an agent of a core for a context of a partition: the
word before it, or none where its sector is poisoned (R15, R60, R85, R296). -/
def atomAt (core : Nat) (s : State) (part : Nat × Nat) (disp : BitVec 64) (block : Nat) (ts : List Target) (op : AOp) (w v c : Nat) :
    Option (State × Nat) :=
  match ts with
  | [.spad o] =>
    let m := spRead ((blockOf s disp block).getD noBlock) o (w / 8)
    some (spWrite s disp block o (w / 8) (byteOf (atomicResult op w m v c)), m)
  | [.mem pa n cp] =>
    let m := readMem s pa (w / 8)
    if poisonAt s pa (w / 8) then none
    else some (atomMemBy core (sliceTouch s part cp false pa n true) pa (w / 8) (byteOf (atomicResult op w m v c)), m)
  | _ => some (s, 0)

/-- Performs the groups in order: the state, what each lane fetched, and the lanes that fail at the home slice. Remote
groups are sent as requests and fetch nothing yet. A write to what a transfer of the team or an exchange still reads spoils it, as a
store does (R141, R376). -/
def atomPerform (x : Iss) (kind : Nat) (accCode : BitVec 8) (op : AOp) (w flight : Nat) :
    List (List (LaneAcc × List Target)) → State → State × List (Nat × Nat) × List Bad
  | [], s => (s, [], [])
  | g :: rest, s =>
    let ls := g.map (fun p => p.1.lane)
    let os := ls.map (atomOperand x)
    let vs := os.map (fun o => (atomParts op w o).1)
    let v := if combines op then groupOperand op w vs else vs.headD 0
    let c := (atomParts op w (os.headD 0)).2
    match g with
    | [] => atomPerform x kind accCode op w flight rest s
    | (a, ts) :: _ =>
      let sw := spoilRows s x.team.key a.acc.ga (w / 8)
      match ts with
      | [.remote pa n tc] =>
        let h := { teamHdr s x.team kind (pa / 2 ^ 48) pa n (bits a.acc.ga 59 56) tc with op := op.code }
        let n' := if op = .cas then 2 * (w / 8) else w / 8
        let s1 := teamRequest sw x.team h (v + (c <<< w)) n'
          (.team x.ref ls (vs.map (BitVec.ofNat 64)) x.f.d.toNat (fieldRegs x).1 flight x.pc a.acc.ga accCode)
        atomPerform x kind accCode op w flight rest s1
      | _ => match atomAt x.team.core sw (partOfCtx s x.team.ctx) x.ref.team.disp x.ref.team.block ts op w v c with
        | some (s1, m) =>
          let (s2, f, bad) := atomPerform x kind accCode op w flight rest (noteSpad x.team.key ts (w / 8) s1)
          (s2, (List.range ls.length).map (fun i => (ls.getD i 0, fetched op w m vs i)) ++ f, bad)
        | none =>
          let (s2, f, bad) := atomPerform x kind accCode op w flight rest s
          (s2, f, g.map (fun p => ⟨p.1.lane, 0x17, some p.1.acc.ga, none⟩) ++ bad)

/-- A returning atomic: nothing is performed before every lane's translation is settled; lanes that fail are reported
with the split held at the instruction (R448). -/
def atomForm (x : Iss) (op : AOp) (s : State) : State :=
  if x.active = 0 then retire x s
  else settleThen x 2 true (atomLanes x (accLanes x)) (fun ok bad s =>
    let w := atomBits x
    let flight := s.nextOp
    let remote := ok.any (fun p => isRemote p.2)
    let (s1, vals, late) := atomPerform x kATOMIC 2 op w flight (atomGroups op ok.length ok) { s with nextOp := s.nextOp + 1 }
    let s1 := noteReads x (ok.map (fun p => (p.1.acc.n, p.2))) s1
    let bad := bad ++ late
    let done := maskOf x.n (fun l => vals.any (fun p => decide (p.1 = l)) || ok.any (fun p => decide (p.1.lane = l) && isRemote p.2))
    let get (l : Nat) : Nat := ((vals.find? (fun p => decide (p.1 = l))).map (·.2)).getD 0
    let ws := regWrites x x.f.d (fieldRegs x).1 done (if x.scalarDst then fun _ => get x.first else get)
    let s2 := if done = 0 then s1
      else { addFlight x false (if remote then .remote else .ready) ws [] 0 none { s1 with nextOp := flight } with nextOp := s1.nextOp }
    if bad = [] then conflicts x ok (retire x s2) else reportLanes x bad true 2 true (conflicts x ok s2)) s

/-- A reduction: lanes on an open page request enter the side log as a store's do (R296, R451). -/
def redForm (x : Iss) (op : AOp) (s : State) : State :=
  if x.active = 0 then retire x s
  else writeForm x 3 (atomLanes x (lanesOf x.n x.active)) [] (.atomic op) (fun l => atomOperand x l % 2 ^ atomBits x)
    (fun ok s =>
      let (s1, _, bad) := atomPerform x kREDUCE 3 op (atomBits x) 0 (atomGroups op ok.length ok) s
      (s1, bad)) s

/-- The minimum or maximum that the signedness of TYPE selects (R295). -/
def signedOp (x : Iss) (a b : AOp) : AOp := if (x.ty.getD .s32).signed then a else b

/-- AADD (R295). -/
def execAadd (d a b : BitVec 8) (s : State) : Host.Outcome State Fault Refusal := issue (.aadd d a b) s (fun x => atomForm x .add)
/-- AMIN (R295). -/
def execAmin (d a b : BitVec 8) (s : State) : Host.Outcome State Fault Refusal :=
  issue (.amin d a b) s (fun x => atomForm x (signedOp x .minS .minU))
/-- AMAX (R295). -/
def execAmax (d a b : BitVec 8) (s : State) : Host.Outcome State Fault Refusal :=
  issue (.amax d a b) s (fun x => atomForm x (signedOp x .maxS .maxU))
/-- AAND (R295). -/
def execAand (d a b : BitVec 8) (s : State) : Host.Outcome State Fault Refusal := issue (.aand d a b) s (fun x => atomForm x .and)
/-- AOR (R295). -/
def execAor (d a b : BitVec 8) (s : State) : Host.Outcome State Fault Refusal := issue (.aor d a b) s (fun x => atomForm x .or)
/-- AXOR (R295). -/
def execAxor (d a b : BitVec 8) (s : State) : Host.Outcome State Fault Refusal := issue (.axor d a b) s (fun x => atomForm x .xor)
/-- AXCHG: not combined; lanes exchange in ascending index (R295, R297). -/
def execAxchg (d a b : BitVec 8) (s : State) : Host.Outcome State Fault Refusal := issue (.axchg d a b) s (fun x => atomForm x .xchg)
/-- ACAS: not combined; lanes compare and swap in ascending index (R295, R297). -/
def execAcas (d a b : BitVec 8) (s : State) : Host.Outcome State Fault Refusal := issue (.acas d a b) s (fun x => atomForm x .cas)
/-- AFADD: rounded to nearest even, subnormals kept, no exception (R60, R295). -/
def execAfadd (d a b : BitVec 8) (s : State) : Host.Outcome State Fault Refusal := issue (.afadd d a b) s (fun x => atomForm x .fadd)
/-- REDADD (R295). -/
def execRedadd (a b : BitVec 8) (s : State) : Host.Outcome State Fault Refusal := issue (.redadd a b) s (fun x => redForm x .add)
/-- REDMIN (R295). -/
def execRedmin (a b : BitVec 8) (s : State) : Host.Outcome State Fault Refusal :=
  issue (.redmin a b) s (fun x => redForm x (signedOp x .minS .minU))
/-- REDMAX (R295). -/
def execRedmax (a b : BitVec 8) (s : State) : Host.Outcome State Fault Refusal :=
  issue (.redmax a b) s (fun x => redForm x (signedOp x .maxS .maxU))
/-- REDAND (R295). -/
def execRedand (a b : BitVec 8) (s : State) : Host.Outcome State Fault Refusal := issue (.redand a b) s (fun x => redForm x .and)
/-- REDOR (R295). -/
def execRedor (a b : BitVec 8) (s : State) : Host.Outcome State Fault Refusal := issue (.redor a b) s (fun x => redForm x .or)
/-- REDXOR (R295). -/
def execRedxor (a b : BitVec 8) (s : State) : Host.Outcome State Fault Refusal := issue (.redxor a b) s (fun x => redForm x .xor)
/-- REDFADD (R295). -/
def execRedfadd (a b : BitVec 8) (s : State) : Host.Outcome State Fault Refusal := issue (.redfadd a b) s (fun x => redForm x .fadd)

end Sys2Proof.Machine
end

