-- ==== Sys2Proof/Machine/Control.lean ====
section
/-! DEFINITION. Control transfers, divergence and JOIN, EXIT, the MODE forms, pacing (R380 to R393). -/
namespace Sys2Proof.Machine
open Sys2Proof.Forms

/-! ### Targets and conditions -/

/-- The address a literal offset names: header + 4 × the signed word (R257). -/
def offsetTarget (x : Iss) (w : Word) : BitVec 56 := x.clause.addr + BitVec.ofInt 56 (4 * w.toInt)

/-- The target of a slot field. -/
def slotTarget (x : Iss) (code : BitVec 8) : BitVec 56 := offsetTarget x (readU x code)

/-- The lanes of the active set in which a condition holds (R380). -/
def condSet (x : Iss) (code : BitVec 8) : LaneMask := maskOf x.n (fun l => laneIn x.active l && readTrue x code l)

/-- Is a transfer backward in the sense of R420: a target at most 64 words before the instruction? -/
def backward (x : Iss) (target : BitVec 56) : Bool :=
  decide (target.toNat < x.pc.toNat) && decide (x.pc.toNat - target.toNat ≤ 256)

/-- Counts the takings of a backward transfer: after 16 in succession with the same values written in each iteration
between them the split drops to tier 2; any other transfer ends the run (R420). (DEDUCED, log 24) -/
def spinCount (x : Iss) (target : BitVec 56) (back : Bool) (s : State) : State :=
  updSplit s x.ref (fun sp =>
    let reads := if sp.tier = 2 then sp.spinRead else []
    if back && backward x target then
      let runs := if sp.spinAt ≠ some x.pc then 1
        else if sp.spinRuns = 1 ∨ sp.spinNow = sp.spinLast then sp.spinRuns + 1
        else 2
      let sp1 := { sp with spinAt := some x.pc, spinLast := sp.spinNow, spinNow := [] }
      if runs = 16 ∧ sp.tier ≠ 2 then { sp1 with spinRuns := 1, tier := 2, promoted := 0, dropAt := s.cycle }
      else { sp1 with spinRuns := min runs 16, spinRead := reads }
    else { sp with spinAt := none, spinRuns := 0, spinNow := [], spinLast := [], spinRead := reads })

/-- Transfers the whole split (R382). `back`: the transfer counts for the spin detector. -/
def transfer (x : Iss) (back : Bool) (target : BitVec 56) (s : State) : State :=
  retireTo x target (spinCount x target back s)

/-! ### The split stack (R385 to R388) -/

/-- The range of lane 0's stack aperture that holds entry `e` of a split stack, for `e` from 16 on (R387). -/
def spillGa (x : Iss) (e : Nat) : BitVec 64 := BitVec.ofNat 64 (bits x.ctx.stkbase 55 0 + 0x10000 - 192 * (e - 15))

/-- What stands in the bytes of a spilled entry: UNKNOWN to software (R387). (DEDUCED, log 28) -/
def spillByte (x : Iss) (e i : Nat) : Byte := (unknown (2 ^ 40 + x.team.stackSlot * 256 + e) i).setWidth 8

/-- The access that spills or refills entry `e`. -/
def spillAccess (x : Iss) (e : Nat) (write : Bool) : Access :=
  { ga := spillGa x e, n := 192, align := 1, write := write, atom := false, tags := true }

/-- Who makes it: lane 0 of the team (R387). -/
def lane0 (x : Iss) : Who :=
  { ctx := x.team.ctx, spBytes := x.disp.spBytes, slot := x.team.stackSlot, lane := 0, via := .pipe x.team.core x.team.part
    failed := x.split.pageFail }

/-- How a spill or refill ends: done, a failed check, or an open page request. -/
inductive SpillEnd where
  | done
  | bad (cause : BitVec 8) (ga : BitVec 64)
  | page (page : Nat) (ga : BitVec 64)
  deriving DecidableEq, Repr

/-- A spill or refill of the entries named; the first that fails decides (R387). (DEDUCED, log 28) -/
def spillAll (x : Iss) (write : Bool) : List Nat → State → State × SpillEnd
  | [], s => (s, .done)
  | e :: rest, s =>
    match checkAccess s (lane0 x) (spillAccess x e write) with
    | (s1, .ok ts _) =>
      if write then match writeTargets x.team.core s1 (partOfCtx s1 x.team.ctx) (leNat (spillByte x e) 0 192) ts with
        | some s2 => spillAll x write rest s2
        | none => (s1, .bad 0x17 (spillGa x e))
      else spillAll x write rest s1
    | (s1, .fault c) => (s1, .bad c (spillGa x e))
    | (s1, .page p) => (s1, .page p (spillGa x e))

/-- Are the bytes of a spilled entry as they were spilled (R387)? -/
def spillIntact (x : Iss) (e : Nat) (s : State) : Bool :=
  match checkAccess s (lane0 x) (spillAccess x e false) with
  | (s1, .ok ts _) => decide (readTargets s1 x.block ts = some (leNat (spillByte x e) 0 192))
  | _ => true

/-- Are the bytes of all spilled entries of the split's stack as they were spilled (R387)? -/
def allIntact (x : Iss) (s : State) : Bool := (List.range x.split.stack.length).all (fun e => decide (e < 16) || spillIntact x e s)

/-- The spill slots that a push from depth `d` to depth `d + k` fills. -/
def spilled (d k : Nat) : List Nat := (List.range (d + k)).filter (fun e => decide (16 ≤ e) && decide (d ≤ e))

/-- A fault of a spill or refill: lane 0 is named (R387). -/
def spillFault (x : Iss) (write : Bool) (c : BitVec 8) (ga : BitVec 64) (s : State) : State :=
  raiseFault s x.ref { cause := c, pc := x.pc, lanes := x.active, atInstr := true, lane := 0,
                       acc := if write then 1 else 0, addr := some ga, write := write, info := 1, info2 := 0, side := false }

/-- Spills or refills the entries named, and goes on with `eff`; an open page request holds the split at the branch. -/
def spillThen (x : Iss) (write : Bool) (es : List Nat) (eff : State → State) (s : State) : State :=
  match spillAll x write es s with
  | (s1, .done) => eff s1
  | (s1, .bad c ga) => spillFault x write c ga s1
  | (s1, .page p ga) =>
    match requestPage s1 x.team.ctx p { teamRec s1 x.team 1 0x1B with
        entry := 2 * x.team.slot + x.ref.high.toNat
        acc := if write then 1 else 0, flags := if write then 33 else 1, pc := x.pc.setWidth 64, addr := ga } with
    | (s2, some q) => holdAt x (.page [q]) s2
    | (s2, none) => spillFault x write 0x15 ga s2

/-- Pushes entries, the last of the list on top, and goes on with `eff`; beyond SSDEPTH it is the split-stack-overflow
fault with nothing pushed (R270, R387). -/
def pushThen (x : Iss) (entries : List StackEntry) (eff : State → State) (s : State) : State :=
  let d := x.split.stack.length
  if x.disp.ssDepth < d + entries.length then faultAt x 0x54 0 s
  else spillThen x true (spilled d entries.length)
    (fun s => eff (updSplit s x.ref (fun sp => { sp with stack := entries.reverse ++ sp.stack }))) s

/-- An entry restored where the spilled bytes have been written: its kind, its addresses, its mask and its MODE are free values, the
mask within the team's lanes and the MODE one that MODESET could leave (R229, R387). (DESIGN CHOICE, log 4; DEDUCED, log 28) -/
def unknownEntry (x : Iss) (d : Nat) (mode : Word) : StackEntry :=
  let w (i : Nat) : BitVec 64 := Config.freeValue (x.fresh * 2 ^ 24 + 2 ^ 22 + 256 * d + i)
  let mask := BitVec.ofNat 1024 (leNat (fun i => (w i).setWidth 8) 0 128) &&& maskOf x.n (fun _ => true)
  let m := (w 128).setWidth 32 &&& 0x1F1F7FFF
  let md := if (tyOfCode (bits m 8 4)).isSome && decide (bits m 11 9 ≤ 5) then m else mode
  if (w 129).getLsbD 0 then .rejoin ((w 130).setWidth 56) mask md ((w 131).setWidth 5)
  else .pending ((w 130).setWidth 56) mask ((w 132).setWidth 56) md

/-- A stack entry as it is read back at depth `d`: once spilled bytes have been written, every restored entry is UNKNOWN (R387). (DEDUCED,
log 28 and log 75) -/
def restored (x : Iss) (d : Nat) (e : StackEntry) (s : State) : StackEntry :=
  if d < 16 then e
  else if allIntact x s then e
  else unknownEntry x d x.split.mode

/-! ### The split after a pop -/

/-- The XF bits of a MODE. (DEDUCED, log 18) -/
def xfOf (mode : Word) : BitVec 5 := mode.extractLsb' 24 5

/-- MODE at a JOIN: the fields of the divergent branch, and the XF gathered (R231). (DEDUCED, log 18) -/
def joinMode (base : Word) (xf : BitVec 5) : Word := (base &&& 0xE0FFFFFF) ||| (xf.setWidth 32 <<< 24)

/-- A split takes the lanes and address of a pending entry, with the MODE copy of those lanes; the XF gathered so far is
kept in the rejoin entry below it (R231, R386). -/
def takePending (sp : Split) (m : LaneMask) (at_ : BitVec 56) (mode : Word) (rest : List StackEntry) : Split :=
  let keep (l : List StackEntry) : List StackEntry := match l with
    | .rejoin j jm md f :: r => .rejoin j jm md (f ||| xfOf sp.mode) :: r
    | l => l
  let rec down (l : List StackEntry) : List StackEntry := match l with
    | .pending j pm a md :: r => .pending j pm a md :: down r
    | l => keep l
  { sp with mask := m, pc := at_, clause := none, pos := 0, bypass := [], mode := mode, stack := down rest }

/-- The position at which a split that resumes at the JOIN of a clause starts; the fetch finds the JOIN (R389). -/
def atJoin : Nat := 16

/-- Pops until a non-empty mask is found (R389); `none` where the stack runs empty. (DEDUCED, log 18 and log 75) -/
def popFind (x : Iss) (absent : LaneMask) (sp : Split) : List StackEntry → State → Option Split
  | [], _ => none
  | e :: rest, s =>
    match restored x rest.length e s with
    | .pending j m a md =>
      let _ := j
      if m &&& ~~~absent = 0 then popFind x absent { sp with stack := rest } rest s
      else some (takePending sp (m &&& ~~~absent) a md rest)
    | .rejoin j m md f =>
      if m &&& ~~~absent = 0 then popFind x absent { sp with mode := joinMode md (f ||| xfOf sp.mode), stack := rest } rest s
      else some { sp with mask := m &&& ~~~absent, pc := j, clause := none, pos := atJoin, bypass := [], stack := rest
                          mode := joinMode md (f ||| xfOf sp.mode) }

/-- The spilled entries that the pops of R389 read back, the top first. -/
def popSpills (x : Iss) (absent : LaneMask) (s : State) : List Nat :=
  let left := match popFind x absent x.split x.split.stack s with
    | some q => q.stack.length
    | none => 0
  ((List.range x.split.stack.length).filter (fun e => decide (16 ≤ e) && decide (left ≤ e))).reverse

/-! ### Vanishing and fusing -/

/-- A split vanishes. The last one of a team ends it; the partner of a dual pair stands alone (R386, R389, R390). -/
def vanish (s : State) (r : SplitRef) : State :=
  match teamOf s r.team with
  | none => s
  | some t =>
    let t1 := { putSplit t r.high none with traps := t.traps.filter (fun q => decide (q.high ≠ r.high)) }
    match splitIn t (!r.high) with
    | none => addAgenda (updTeam s r.team (fun _ => t1)) [.teamEnd r.team]
    | some p =>
      updTeam s r.team (fun _ => putSplit t1 (!r.high) (some
        (if p.hold = .join then { p with hold := .none } else p)))

/-- The fused split of a dual pair in the lower entry: union of the masks, MODE of the branch with both XF, the lower
stamp; it is in handler state if either was (R231, R386, R400, R416). (DEDUCED, log 86) -/
def fuse (t : Team) (a b : Split) (stamp : BitVec 64) : Split :=
  { a with mask := (a.mask ||| b.mask) &&& ~~~t.absent, mode := joinMode a.dualMode (xfOf a.mode ||| xfOf b.mode)
           dualJoin := none, swapped := false, handler := a.handler <|> b.handler, hold := .none, stamp := stamp
           bypass := a.bypass.map (fun e => { e with live := false }) }

/-- The team after the fusion of its two splits: flags of either arm, and trap requests of either, stand in the lower one (R231). -/
def fuseTeam (t : Team) (sp : Split) : Team :=
  { t with low := some sp, high := none
           inflight := t.inflight.map (fun e => { e with low := e.low || e.high, high := false, trap := e.trap.map (fun q => { q with high := false }) })
           traps := t.traps.map (fun q => { q with high := false }) }

/-- A reference to the higher split of a team, as it reads once that split is the lower one. -/
def lowered (k : TeamKey) (r : SplitRef) : SplitRef := if r.team = k then { r with high := false } else r

/-- Who waits, with the team's splits fused. -/
def loweredWaiter (k : TeamKey) : Waiter → Waiter
  | .team r l v c g f pc ga a => .team (lowered k r) l v c g f pc ga a
  | .mcast c f r => .mcast c f (lowered k r)
  | w => w

/-- What the two splits of a team have under way belongs to the fused one: remote requests, side-log entries, bindings and matrix
operations. -/
def lowerRefs (k : TeamKey) (s : State) : State :=
  { s with
    outReqs := s.outReqs.map (fun q => { q with waiter := loweredWaiter k q.waiter })
    sideLog := s.sideLog.map (fun e => { e with split := lowered k e.split })
    binds := s.binds.map (fun b => { b with split := lowered k b.split })
    mqOps := s.mqOps.map (fun q => { q with split := lowered k q.split }) }

/-! ### The forms -/

/-- BRA: the whole split goes to the target when the active set is not empty (R382). -/
def execBra (b : BitVec 8) (s : State) : Host.Outcome State Fault Refusal :=
  issue (.bra b) s (fun x s => if x.active = 0 then retire x s else transfer x true (slotTarget x b) s)

/-- BRANY: the condition is true in a lane of the active set (R382). -/
def execBrany (a b : BitVec 8) (s : State) : Host.Outcome State Fault Refusal :=
  issue (.brany a b) s (fun x s => if condSet x a = 0 then retire x s else transfer x true (slotTarget x b) s)

/-- BRALL: the condition is true in every lane of a non-empty active set (R382). -/
def execBrall (a b : BitVec 8) (s : State) : Host.Outcome State Fault Refusal :=
  issue (.brall a b) s (fun x s =>
    if x.active ≠ 0 ∧ (lanesOf x.n x.active).all (readTrue x a) = true then transfer x true (slotTarget x b) s else retire x s)

/-- The generic address of the clause after the own one, bits [63:56] zero (R383). -/
def linkOf (x : Iss) : Nat := (nextClause x.clause).toNat

/-- CALL (R383). -/
def execCall (d b : BitVec 8) (s : State) : Host.Outcome State Fault Refusal :=
  issue (.call d b) s (fun x s =>
    if x.active = 0 then retire x s
    else transfer x false (slotTarget x b) (updTeam s x.ref.team (fun t => writeDst t d x.active (fun _ => linkOf x) 2)))

/-- The target of CALLI and RET: bits [63:60] or the alignment of the pair fault (R383). -/
def pairTarget (x : Iss) (code : BitVec 8) (eff : BitVec 56 → State → State) (s : State) : State :=
  let ga := readU64 x code
  if ga.extractLsb' 60 4 ≠ 0 then
    raiseFault s x.ref { plainFault 0x10 x.pc x.active 1 with lane := x.first, addr := some ga }
  else if bits ga 1 0 ≠ 0 then
    raiseFault s x.ref { plainFault 0x11 x.pc x.active 1 with lane := x.first, addr := some ga }
  else eff (ga.setWidth 56) s

/-- CALLI (R383). -/
def execCalli (d a : BitVec 8) (s : State) : Host.Outcome State Fault Refusal :=
  issue (.calli d a) s (fun x s =>
    if x.active = 0 then retire x s
    else pairTarget x a (fun target s => transfer x false target
      (updTeam s x.ref.team (fun t => writeDst t d x.active (fun _ => linkOf x) 2))) s)

/-- RET (R383). -/
def execRet (a : BitVec 8) (s : State) : Host.Outcome State Fault Refusal :=
  issue (.ret a) s (fun x s => if x.active = 0 then retire x s else pairTarget x a (transfer x false) s)

/-- The new split of a dual-path divergence: lanes N at the next clause, with a copy of MODE and a new stamp (R231, R385,
R416). -/
def otherSplit (x : Iss) (n : LaneMask) (join : BitVec 56) : Split :=
  { newAttempt x.split with
    mask := n, pc := nextClause x.clause, clause := none, pos := 0, bypass := [], stack := []
    dualJoin := some join, dualMode := x.split.mode, swapped := x.ref.high, handler := none, hold := .none, limit := 0
    resume := none, retry := none, stepping := false, tier := 1, issued := 0, promoted := 0, ready := 0
    dropAt := 0, busy := 0, spinAt := none, spinRuns := 0, spinNow := [], spinLast := [], spinRead := [] }

/-- The dual-path divergence: the issuing split keeps its entry and takes T, the new one takes N; flags stand in both
(R231, R385). -/
def divergeDual (x : Iss) (t n : LaneMask) (target join : BitVec 56) (s : State) : State :=
  let o : SplitRef := { x.ref with high := !x.ref.high }
  let s1 := updTeam s x.ref.team (fun tm =>
    match splitIn tm x.ref.high with
    | none => tm
    | some sp =>
      let tm1 := putSplit tm x.ref.high (some { sp with mask := t, dualJoin := some join, dualMode := x.split.mode, swapped := x.ref.high })
      let tm2 := putSplit tm1 o.high (some (otherSplit x n join))
      { tm2 with inflight := tm2.inflight.map (fun e =>
          let on := if x.ref.high then e.high else e.low
          { e with low := on, high := on }) })
  newStamp (transfer x true target s1) o

/-- BRP: a divergence where both sets hold lanes, dual-path for a team of one split with an empty stack (R384, R385). -/
def execBrp (d a b : BitVec 8) (s : State) : Host.Outcome State Fault Refusal :=
  issue (.brp d a b) s (fun x s =>
    let t := condSet x a
    let n := x.split.mask &&& ~~~t
    let target := slotTarget x b
    let join := slotTarget x d
    if t = 0 then retire x s
    else if n = 0 then transfer x true target s
    else if (splitIn x.team (!x.ref.high)).isNone && decide (x.split.stack = []) then divergeDual x t n target join s
    else pushThen x [.rejoin join x.split.mask x.split.mode 0, .pending join n (nextClause x.clause) x.split.mode]
      (fun s => transfer x true target (updSplit s x.ref (fun sp => { sp with mask := t }))) s)

/-- Accesses after the JOIN are ordered behind those of both splits: it waits until the team's side-log entries are performed and its
remote requests have their responses (R194, R205). (DEDUCED, log 83) -/
def joinThen (x : Iss) (eff : State → State) : State → State := logThen x (fun s =>
  if madeBefore s (relMark x s) (fun q => decide (reqTeam q = some x.ref.team)) then holdMarked x .remote s else eff s)

/-- JOIN by the first row of R386 that applies. -/
def joinForm (x : Iss) (s : State) : State :=
  let a := x.clause.addr
  match x.split.stack with
  | e :: rest =>
    let d := rest.length
    let refill := if 16 ≤ d then [d] else []
    match restored x d e s with
    | .pending j m at_ md =>
      if j = a then spillThen x false refill (fun s =>
        updSplit (retire x s) x.ref (fun sp => takePending sp (m &&& ~~~x.team.absent) at_ md rest)) s
      else retire x s
    | .rejoin j m md f =>
      if j = a then spillThen x false refill (joinThen x (fun s => retire x (updSplit s x.ref (fun sp =>
        { sp with mask := m &&& ~~~x.team.absent, mode := joinMode md (f ||| xfOf sp.mode), stack := rest })))) s
      else retire x s
  | [] =>
    if x.split.dualJoin = some a then
      match splitIn x.team (!x.ref.high) with
      | some p =>
        if p.hold = .join ∧ p.pc = a then joinThen x (fun s =>
          -- both splits stand at the JOIN: this one goes past it as the fused split in the lower entry
          let stamp := if p.stamp < x.split.stamp then p.stamp else x.split.stamp
          let s1 := updTeam (lowerRefs x.ref.team s) x.ref.team (fun t => match splitIn t x.ref.high, splitIn t (!x.ref.high) with
            | some sp, some p => fuseTeam t (fuse t sp p stamp)
            | _, _ => t)
          retire { x with ref := { x.ref with high := false } } s1) s
        else holdAt x .join s
      | none => joinThen x (fun s => retire x (updSplit s x.ref (fun sp =>
          { sp with dualJoin := none, swapped := false, mode := joinMode sp.dualMode (xfOf sp.mode) }))) s
    else retire x s

/-- JOIN (R386). -/
def execJoin (s : State) : Host.Outcome State Fault Refusal := issue .join s joinForm

/-- The indices of a branch table in ascending order, without repeats. -/
def tableKeys (x : Iss) (code : BitVec 8) (count : Nat) : List Nat :=
  (List.range count).filter (fun i => (lanesOf x.n x.active).any (fun l => decide ((readWord x code 0 l).toNat = i)))

/-- BTBL: every index is checked, then the lanes go by index, the lowest first (R388). (DEDUCED, log 27) -/
def execBtbl (a : BitVec 8) (s : State) : Host.Outcome State Fault Refusal :=
  issue (.btbl a) s (fun x s =>
    let count := x.clause.lits.length
    let bad := maskOf x.n (fun l => laneIn x.active l && decide (count ≤ (readWord x a 0 l).toNat))
    let group (i : Nat) : LaneMask := maskOf x.n (fun l => laneIn x.active l && decide ((readWord x a 0 l).toNat = i))
    let join := nextClause x.clause
    if bad ≠ 0 then faultAt x 0x55 0 s
    else match tableKeys x a count with
      | [] => retire x s
      | [i] => transfer x false (offsetTarget x (litWord x.clause i)) s
      | i :: more =>
        pushThen x (.rejoin join x.split.mask x.split.mode 0 ::
            more.reverse.map (fun k => .pending join (group k) (offsetTarget x (litWord x.clause k)) x.split.mode))
          (fun s => transfer x false (offsetTarget x (litWord x.clause i))
            (updSplit s x.ref (fun sp => { sp with mask := group i }))) s)

/-- EXIT: the lanes of the active set become absent; a split without lanes pops its stack or vanishes (R389). -/
def execExit (s : State) : Host.Outcome State Fault Refusal :=
  issue .exit s (fun x s =>
    if x.active = 0 then retire x s
    else
      let gone := x.team.absent ||| x.active
      let left := x.split.mask &&& ~~~x.active
      let found := popFind x gone x.split x.split.stack s
      spillThen x false (if left = 0 then popSpills x gone s else []) (fun s =>
        let s1 := updTeam s x.ref.team (fun t => { t with absent := t.absent ||| x.active })
        let s2 := retire x (updSplit s1 x.ref (fun sp => { sp with mask := left }))
        if left ≠ 0 then s2
        else match found with
          | some q => updSplit s2 x.ref (fun sp =>
              { sp with mask := q.mask, pc := q.pc, clause := none, pos := q.pos, bypass := [], mode := q.mode, stack := q.stack })
          | none => vanish s2 x.ref) s)

/-- Writes the issuing split's MODE (R391). -/
def modeForm (x : Iss) (mode : Word) (s : State) : State := retire x (updSplit s x.ref (fun sp => { sp with mode := mode }))

/-- Replaces bits [hi:lo] of a word. -/
def setField (w : Word) (lo width v : Nat) : Word :=
  (w &&& ~~~(BitVec.ofNat 32 ((2 ^ width - 1) <<< lo))) ||| BitVec.ofNat 32 ((v % 2 ^ width) <<< lo)

/-- MODESET: the masked bits take the value's (R391); a reserved bit or value is a decode fault (R229). -/
def execModeset (a b : BitVec 8) (s : State) : Host.Outcome State Fault Refusal :=
  issue (.modeset a b) s (fun x => modeForm x ((x.split.mode &&& ~~~(readU x b)) ||| (readU x a &&& readU x b)))

/-- MODEGRD: GP and GN (R391). -/
def execModegrd (a : BitVec 3) (b : BitVec 1) (s : State) : Host.Outcome State Fault Refusal :=
  issue (.modegrd a b) s (fun x => modeForm x (setField (setField x.split.mode 0 3 a.toNat) 3 1 b.toNat))

/-- MODETYP: TYPE (R391). -/
def execModetyp (a : BitVec 5) (s : State) : Host.Outcome State Fault Refusal :=
  issue (.modetyp a) s (fun x => modeForm x (setField x.split.mode 4 5 a.toNat))

/-- MODERND: RND (R391). -/
def execModernd (a : BitVec 3) (s : State) : Host.Outcome State Fault Refusal :=
  issue (.modernd a) s (fun x => modeForm x (setField x.split.mode 9 3 a.toNat))

/-- NOP has no effect (R392). -/
def execNop (s : State) : Host.Outcome State Fault Refusal := issue .nop s (fun x s => retire x s)

/-- YIELD: the split receives a new stamp, whatever the guard (R392, R416). -/
def execYield (s : State) : Host.Outcome State Fault Refusal := issue .yield s (fun x s => newStamp (retire x s) x.ref)

/-- SLEEP: the split is held for min(n, 2^20) cycles; in ordered mode it completes at once (R393). -/
def execSleep (a : BitVec 8) (s : State) : Host.Outcome State Fault Refusal :=
  issue (.sleep a) s (fun x s =>
    let n := min (readU x a).toNat (2 ^ 20)
    if x.active = 0 ∨ x.disp.ordered = true ∨ n = 0 then retire x s
    else updSplit (retire x s) x.ref (fun sp => { sp with hold := .sleep n }))

end Sys2Proof.Machine
end

