-- ==== Sys2Proof/Machine/Grid.lean ====
section
/-! DEFINITION. Grid objects: the descriptor and its checks, the partition map, the places of elements and step words, and
the boundary rules (R127 to R135). -/
namespace Sys2Proof.Machine
open Sys2Proof.Forms

/-- A grid descriptor (R127): lists run over dimensions 0 to 2 and faces 0 to 5. -/
structure Grid where
  ndim   : Nat
  esz    : Nat            -- log2 of the element size
  fault  : Bool           -- STALEPOL = FAULT
  depth  : Nat            -- D
  ext    : List Nat       -- N_d
  parts  : List Nat       -- P_d
  hw     : List Nat
  br     : List Nat
  mapVa  : Nat
  mapTag : Nat
  cval   : Nat
  step0  : Nat
  deriving DecidableEq, Repr

def gridOf (v : BitVec 512) : Grid :=
  { ndim := bits v 1 0, esz := bits v 4 2, fault := decide (bits v 5 5 = 1), depth := bits v 7 6 + 1
    ext := (List.range 3).map (fun d => bits v (27 + 20 * d) (8 + 20 * d) + 1)
    parts := (List.range 3).map (fun d => bits v (75 + 8 * d) (68 + 8 * d) + 1)
    hw := (List.range 6).map (fun f => bits v (95 + 4 * f) (92 + 4 * f))
    br := (List.range 6).map (fun f => bits v (118 + 3 * f) (116 + 3 * f))
    mapVa := bits v 247 192, mapTag := bits v 251 248, cval := bits v 319 256, step0 := bits v 351 320 }

namespace Grid

def N (g : Grid) (d : Nat) : Nat := g.ext.getD d 1
def P (g : Grid) (d : Nat) : Nat := g.parts.getD d 1
/-- Interior extent of a partition, rim widths and extended extent (R128). -/
def n (g : Grid) (d : Nat) : Nat := g.N d / g.P d
def rim (g : Grid) (f : Nat) : Nat := g.hw.getD f 0 * g.depth
def rlo (g : Grid) (d : Nat) : Nat := g.rim (2 * d)
def rhi (g : Grid) (d : Nat) : Nat := g.rim (2 * d + 1)
def E (g : Grid) (d : Nat) : Nat := g.rlo d + g.n d + g.rhi d
/-- Elements of the extended array, their bytes, and the offset of the step area (R131). -/
def total (g : Grid) : Nat := g.E 0 * g.E 1 * g.E 2
def bytes (g : Grid) : Nat := 2 ^ g.esz
def stepAt (g : Grid) : Nat := (g.total * g.bytes + 127) / 128 * 128
/-- Partitions of the grid. -/
def count (g : Grid) : Nat := g.P 0 * g.P 1 * g.P 2

end Grid

/-- Is the descriptor well formed (R129)? -/
def gridOk (v : BitVec 512) : Bool :=
  let g := gridOf v
  decide (bits v 191 134 = 0) && decide (bits v 255 252 = 0) && decide (bits v 511 352 = 0) &&
  within g.ndim 1 3 && decide (g.esz ≤ 4) &&
  (List.range 3).all (fun d =>
    (if g.ndim ≤ d then decide (g.N d = 1 ∧ g.P d = 1 ∧ g.hw.getD (2 * d) 0 = 0 ∧ g.hw.getD (2 * d + 1) 0 = 0 ∧
        g.br.getD (2 * d) 0 = 0 ∧ g.br.getD (2 * d + 1) 0 = 0) else true) &&
    decide (g.N d % g.P d = 0) && decide (g.rlo d ≤ g.n d) && decide (g.rhi d ≤ g.n d) &&
    decide ((g.br.getD (2 * d) 0 = 0) ↔ (g.br.getD (2 * d + 1) 0 = 0))) &&
  decide (g.count ≤ 4096) && g.hw.all (fun h => decide (h ≤ 8)) && g.br.all (fun b => decide (b ≤ 4)) &&
  (decide (g.esz ≤ 3) || g.br.all (fun b => decide (b ≠ 3))) &&
  decide (g.step0 % g.depth = 0) && decide (g.total ≤ 2 ^ 32) && decide (g.mapVa % 16 = 0)

/-- An entry of the partition map (R130). -/
structure GridPart where
  sbase : Nat
  stag  : Nat
  dev   : Nat
  block : Nat
  deriving DecidableEq, Repr

def partOf (v : BitVec 128) : GridPart :=
  { sbase := bits v 55 0, stag := bits v 59 56, dev := bits v 71 64, block := bits v 103 72 }

/-- Are the reserved fields of an entry zero and its storage aligned (R130, R137)? -/
def partOk (v : BitVec 128) : Bool := decide (bits v 63 60 = 0) && decide (bits v 127 104 = 0) && decide (bits v 55 0 % 128 = 0)

/-- Entry `p` of a slot's map. -/
def slotPart (g : GridSlot) (p : Nat) : GridPart := partOf (g.map.getD p 0)

/-- The generic address of an element of a partition by its linear index, and of word `k` of its step area (R131). -/
def elemGa (g : Grid) (e : GridPart) (i : Nat) : BitVec 64 :=
  BitVec.ofNat 64 ((e.stag <<< 56) + (e.sbase + g.bytes * i) % 2 ^ 56)
def stepGa (g : Grid) (e : GridPart) (k : Nat) : BitVec 64 :=
  BitVec.ofNat 64 ((e.stag <<< 56) + (e.sbase + g.stepAt + 4 * k) % 2 ^ 56)

/-- Words of the step area (R131). -/
def wPSTEP : Nat := 13
def wBIND : Nat := 27
def wRESIDENT : Nat := 28

/-- The coordinates of a linear index over extents. -/
def coordsOf (e0 e1 i : Nat) : List Nat := [i % e0, i / e0 % e1, i / (e0 * e1)]

/-- The direction of a coordinate: 0 for −1, 1 for 0, 2 for +1 (R133). -/
def dirOf (g : Grid) (d c : Nat) : Nat :=
  if g.ndim ≤ d then 1 else if c < g.rlo d then 0 else if g.rlo d + g.n d ≤ c then 2 else 1

/-- The slab of an element, none in the interior (R133). -/
def slabOf (g : Grid) (i : Nat) : Option Nat :=
  let c := coordsOf (g.E 0) (g.E 1) i
  let k := dirOf g 0 (c.getD 0 0) + 3 * dirOf g 1 (c.getD 1 0) + 9 * dirOf g 2 (c.getD 2 0)
  if k = 13 then none else some k

/-- The direction of slab `k` along dimension `d`. -/
def slabDir (k d : Nat) : Nat := k / 3 ^ d % 3

/-- First coordinate and extent of slab `k` along dimension `d`. -/
def slabRange (g : Grid) (k d : Nat) : Nat × Nat :=
  match slabDir k d with
  | 0 => (0, g.rlo d)
  | 1 => (g.rlo d, g.n d)
  | _ => (g.rlo d + g.n d, g.rhi d)

/-- Elements of slab `k`; 0 for one that does not exist (R133). -/
def slabCount (g : Grid) (k : Nat) : Nat :=
  if k = 13 then 0 else (slabRange g k 0).2 * (slabRange g k 1).2 * (slabRange g k 2).2

/-- The extended coordinates of element `j` of slab `k` in linear order. -/
def slabCoords (g : Grid) (k j : Nat) : List Nat :=
  let c := coordsOf (slabRange g k 0).2 (slabRange g k 1).2 j
  (List.range 3).map (fun d => (slabRange g k d).1 + c.getD d 0)

/-- The linear index of extended coordinates (R131). -/
def indexOf (g : Grid) (c : List Nat) : Nat := c.getD 0 0 + g.E 0 * (c.getD 1 0 + g.E 1 * c.getD 2 0)

/-- The coordinates of a partition (R130). -/
def partCoords (g : Grid) (p : Nat) : List Nat := coordsOf (g.P 0) (g.P 1) p

/-- The kinds of a slab element (R134). -/
inductive SlabKind where
  | map | const | external
  deriving DecidableEq, Repr

/-- resolve(g) of R134 for the dimensions from `d` on. -/
def resolveFrom (g : Grid) : List Nat → SlabKind → List Int → SlabKind × List Int
  | [], k, c => (k, c)
  | d :: rest, k, c =>
    let v := c.getD d 0
    let nd : Int := g.N d
    if 0 ≤ v ∧ v < nd then resolveFrom g rest k c
    else
      let low := decide (v < 0)
      let rule := g.br.getD (2 * d + (if low then 0 else 1)) 0
      let set (w : Int) : List Int := c.set d w
      match rule with
      | 0 => resolveFrom g rest k (set (v % nd))
      | 1 => resolveFrom g rest k (set (if low then 0 else nd - 1))
      | 2 => resolveFrom g rest k (set (if low then -1 - v else 2 * nd - 1 - v))
      | 3 => resolveFrom g rest .const c
      | _ => resolveFrom g rest (if k = .map then .external else k) c

/-- The global coordinates of an extended coordinate of partition `p` (R134). -/
def globalCoords (g : Grid) (p : Nat) (c : List Nat) : List Int :=
  (List.range 3).map (fun d => ((partCoords g p).getD d 0 * g.n d : Int) + c.getD d 0 - g.rlo d)

/-- Kind and global coordinates of an element of partition `t`. -/
def gridResolve (g : Grid) (t : Nat) (c : List Nat) : SlabKind × List Int :=
  resolveFrom g (List.range g.ndim) .map (globalCoords g t c)

/-- The source partition of slab `k` of partition `t`, with its kind (R134). -/
def slabSource (g : Grid) (t k : Nat) : SlabKind × Nat :=
  match gridResolve g t (slabCoords g k 0) with
  | (.map, c) =>
    let p (d : Nat) : Nat := (c.getD d 0).toNat / g.n d
    (.map, p 0 + g.P 0 * (p 1 + g.P 1 * p 2))
  | (k, _) => (k, t)

/-- The linear index, in the source partition, of the interior element that stands for element `j` of slab `k` of `t`. -/
def sourceIndex (g : Grid) (t k j : Nat) : Nat :=
  let c := (gridResolve g t (slabCoords g k j)).2
  indexOf g ((List.range 3).map (fun d => (c.getD d 0).toNat % g.n d + g.rlo d))

/-- The partition of a slot that a block owns on this device. -/
def ownPart (s : State) (g : GridSlot) (block : Nat) : Option Nat :=
  (List.range g.map.length).find? (fun p =>
    decide ((slotPart g p).dev = devNum s) && decide ((slotPart g p).block = block))

/-- The local partitions of a slot. -/
def localParts (s : State) (g : GridSlot) : List Nat :=
  (List.range g.map.length).filter (fun p => decide ((slotPart g p).dev = devNum s))

/-- Is the slot bound and its dispatch live (R136, R139)? -/
def slotBound (g : GridSlot) : Bool := g.bound && !g.releasing

/-! ### Step-area accesses by the device (R515) -/

/-- The access to a step word. -/
def stepAccess (ga : BitVec 64) (write : Bool) : Access :=
  { ga := ga, n := 4, align := 4, write := write, atom := false, tags := true }

/-- Who makes an access for Brim or the launch unit in a context: by the translation caches of the context's cache die (R34). -/
def deviceWho (c : Nat) : Who := { ctx := c, via := .die (c / 1024), spBytes := 0, slot := 0, lane := 0, failed := [] }

/-- A number of `n` bytes that nothing constrains (R10). (DESIGN CHOICE, log 4) -/
def freeNat (fresh n : Nat) : Nat :=
  (List.range ((n + 3) / 4)).foldl (fun v k => v + ((unknown fresh k).toNat <<< (32 * k))) 0 % 2 ^ (8 * n)

/-- Where a step word lies. -/
inductive StepAt where
  | word (pa cp : Nat)
  | bad (cause : BitVec 8)
  | page (page : Nat)
  deriving DecidableEq, Repr

/-- The place of a step word by the checks of R52; one whose page the host has given to another device since the binding counts as an
address that fails. (DESIGN CHOICE, log 85) -/
def stepPlace (s : State) (c : Nat) (failed : List Nat) (ga : BitVec 64) (write : Bool) : State × StepAt :=
  match checkAccess s { deviceWho c with failed := failed } (stepAccess ga write) with
  | (s1, .ok [.mem pa _ cp] _) => if poisonAt s1 pa 4 then (s1, .bad 0x17) else (s1, .word pa cp)
  | (s1, .ok _ _) => (s1, .bad 0x10)
  | (s1, .fault c) => (s1, .bad c)
  | (s1, .page p) => (s1, .page p)

/-- The record of a write of the launch unit to a step word: it names the dispatch, the block and the address (R515). -/
def stepRec (s : State) (p : StepPend) (kind cause : BitVec 8) : FaultRec :=
  { noRec with kind := kind, cause := cause, flags := 34, acc := 7, disp := p.disp, block := BitVec.ofNat 32 p.block, addr := p.ga
               cyc := s.cycle }

/-- A failed write of the launch unit: a KIND 2 record (R515). -/
def luReport (s : State) (p : StepPend) (cause : BitVec 8) : State :=
  queueRec s p.ctx { stepRec s p 2 cause with info2 := (causeStatus cause).setWidth 64 <<< 32 }

/-- Writes a step word: a write that fails leaves the old value and is reported; one that meets an open page request waits for it,
behind an earlier write of the word that waits (R38, R515). (DEDUCED, log 85) -/
def stepStore (s : State) (p : StepPend) (failed : List Nat) : State :=
  match s.stepPend.find? (fun q => decide (q.ctx = p.ctx) && decide (q.ga = p.ga)) with
  | some q => { s with stepPend := s.stepPend ++ [{ p with req := q.req }] }
  | none => match stepPlace s p.ctx failed p.ga true with
    | (s1, .word pa cp) => writeNat (sliceTouch s1 (partOfCtx s1 p.ctx) cp false pa 4 true) pa 4 p.val
    | (s1, .bad cause) => luReport s1 p cause
    | (s1, .page page) => match requestPage s1 p.ctx page (stepRec s1 p 1 0x1B) with
      | (s2, some id) => { s2 with stepPend := s2.stepPend ++ [{ p with req := id }] }
      | (s2, none) => luReport s2 p 0x15

/-- Writes word `k` of the step area of a local partition; the words of a partition that software has spoilt are UNKNOWN (R132). -/
def stepWrite (s : State) (c : Nat) (g : GridSlot) (p k v : Nat) : State :=
  let e := slotPart g p
  let bad := g.spoilt.contains p
  stepStore { s with fresh := if bad then s.fresh + 1 else s.fresh }
    { ctx := c, disp := g.dispatch, block := e.block, ga := stepGa (gridOf g.desc) e k, val := if bad then freeNat s.fresh 4 else v, req := 0 } []

/-- The writes that waited for a page request are made, or fail with it. -/
def stepAnswer (c : Nat) (id : BitVec 32) (failed : List Nat) (s : State) : State :=
  let mine (q : StepPend) : Bool := decide (q.ctx = c) && decide (q.req = id)
  (s.stepPend.filter mine).foldl (fun s p => stepStore s p failed) { s with stepPend := s.stepPend.filter (fun q => !mine q) }

/-! ### Exchanges (R140) -/

/-- The deliveries of an exchange: slabs of any partition whose resolved source is `q`, by target and slab. -/
def deliveriesOf (g : Grid) (q : Nat) : List (Nat × Nat) :=
  (List.range g.count).flatMap (fun t => (List.range 27).filterMap (fun k =>
    if slabCount g k ≠ 0 ∧ (slabSource g t k).2 = q then some (t, k) else none))

/-- Does an operation of an engine still name the completion area of a block (R108)? -/
def areaBusy (s : State) (b : Block) : Bool :=
  let x := ctxOf s b.ctx
  let lo := areaPa x b.area 0 % 2 ^ 48
  let inside (pa : Nat) : Bool := decide (lo ≤ pa) && decide (pa < lo + 4096)
  s.xeOps.any (fun o => decide (o.ctx = b.ctx) && (inside o.future ||
    (decide (o.team.disp = b.disp) && (decide (o.team.block = b.index) || o.recvs.contains b.index)))) ||
  s.exchanges.any (fun e => match e.future with
    | some pa => inside pa
    | none => false) ||
  s.outReqs.any (fun q => match q.waiter with
    | .mcast _ pa _ => inside pa
    | _ => false)

/-- Scrubs and releases the areas of blocks that have exited and that no operation names (R108). -/
def releaseAreas (s : State) : State :=
  let gone := s.blocks.filter (fun b => b.exited && !areaBusy s b)
  gone.foldl (fun s b => scrubRange s (areaPa (ctxOf s b.ctx) b.area 0 % 2 ^ 48) 4096)
    { s with blocks := s.blocks.filter (fun b => !(gone.any (fun c => decide (c.disp = b.disp ∧ c.index = b.index)))) }

/-- BYTES of a future: it saturates (R112). -/
def satBytes (n : Nat) : BitVec 32 := BitVec.ofNat 32 (min n 0xFFFFFFFF)

/-- The fields of a record that name the instruction that started an exchange (R143, R444). -/
def exchRec (e : Exchange) (kind cause acc : BitVec 8) (write : Bool) : FaultRec :=
  { noRec with stop := coreStop e.core, entry := e.entry, kind := kind, cause := cause, flags := if write then 41 else 9
               team := BitVec.ofNat 8 e.team.team, acc := acc, lane := BitVec.ofNat 16 e.lane, core := BitVec.ofNat 8 e.core
               part := BitVec.ofNat 8 e.spart, disp := e.team.disp, block := BitVec.ofNat 32 e.team.block, pc := e.pc.setWidth 64 }

/-- The engine report of an exchange that failed (R114, R143). (DEDUCED, log 38) -/
def exchReport (s : State) (e : Exchange) (f : XeFail) : State :=
  if within f.status.toNat 3 8 then
    queueRec s e.ctx { exchRec e 2 f.cause (if f.write then 7 else 6) f.write with
      flags := (if f.write then 41 else 9) ||| (if f.addr.isSome then 2 else 0), addr := f.addr.getD 0
      info2 := e.handle.setWidth 64 ||| (f.status.setWidth 64 <<< 32), cyc := s.cycle }
  else s

/-- What the future of an exchange receives. -/
def exchResult (e : Exchange) : FutureResult :=
  match e.fail with
  | none => { status := 0, bytes := satBytes e.placed, coord := 0, side := 0 }
  | some f => if within f.status.toNat 3 8 then { status := f.status, bytes := satBytes e.placed, coord := f.coord, side := f.side }
      else { status := f.status, bytes := satBytes e.placed, coord := 0, side := 0 }

/-- Has an exchange a failure to report, and the fault ring no room for it (R143, R443)? (DEDUCED, log 38) -/
def exchHeld (s : State) (e : Exchange) : Bool :=
  match e.fail with
  | some f => !e.cancelled && within f.status.toNat 3 8 && !recordRoom s e.ctx
  | none => false

/-- Bindings of a core whose initial exchanges wait for a place go on (R144). -/
def bindsResume (s : State) (core : Nat) : State :=
  addAgenda s ((s.binds.filter (fun b => decide (b.core = core) && decide (b.todo ≠ []))).map (fun b => .gridBindRequest b.id))

/-- The end of an exchange once all its deliveries are over: its future completes and a failure is reported, for which it waits
until the fault ring has room (R140, R143, R145, R443). -/
def exchangeDone (s : State) (id : Nat) : State :=
  if s.deliveries.any (fun d => decide (d.exch = id) && !d.isOver) then s
  else match s.exchanges.find? (fun e => decide (e.id = id)) with
    | none => s
    | some e =>
      if exchHeld s e then s
      else
        let s1 := { s with exchanges := s.exchanges.filter (fun e => decide (e.id ≠ id)), deliveries := s.deliveries.filter (fun d => decide (d.exch ≠ id)) }
        let s2 := match e.fail with
          | some f => if e.cancelled then s1 else exchReport s1 e f
          | none => s1
        bindsResume (releaseAreas (match e.future with
          | none => s2
          | some pa => if e.cancelled then s2
            else if objRefused s2 e.ctx pa then queueRec s2 e.ctx { exchRec e 2 0x42 0xFF false with cyc := s.cycle, info2 := e.handle.setWidth 64 }
            else futComplete s2 pa (exchResult e))) e.core

/-- Exchanges that the Brim of a core holds; it has 16 places (R144). (DEDUCED, log 37) -/
def exchangesOf (s : State) (core : Nat) : Nat := (s.exchanges.filter (fun e => decide (e.core = core))).length

/-- Starts an exchange of step `e` by partition `q`; each delivery reads BIND and PSTEP at once. (DEDUCED, log 37) -/
def startExchange (s : State) (x : Exchange) (g : GridSlot) : State :=
  let ds := deliveriesOf (gridOf g.desc) x.part
  let id := s.nextOp
  let l := (List.range ds.length).map (fun i =>
    { id := id + 1 + i, exch := id, disp := g.dispatch, target := (ds.getD i (0, 0)).1, slab := (ds.getD i (0, 0)).2,
      begun := false, next := 0, pollAt := s.cycle, spoilt := 0, isOver := false, page := none, failed := [] : Delivery })
  exchangeDone (addAgenda { s with exchanges := s.exchanges ++ [{ x with id := id }], deliveries := s.deliveries ++ l
                                   nextOp := id + 1 + ds.length }
    (l.map (fun d => Event.brimDeliveryPoll d.id))) id

end Sys2Proof.Machine
end

