-- ==== Sys2Proof/Machine/Starts.lean ====
section
/-! DEFINITION. The starts of copy-engine operations and the fabric forms (R92 to R95, R103, R123, R170, R173 to R178, R302,
R303, R311 to R314). -/
namespace Sys2Proof.Machine
open Sys2Proof.Forms

/-! ### Copy-engine starts -/

/-- The queue of a copy engine and the starts on their way to it (R93). (DEDUCED, log 32) -/
def xeQueued (s : State) (core : Nat) : Nat := (s.xeOps.filter (fun o => decide (o.core = core) && !o.active)).length

/-- A new operation of the issuing team. -/
def newXeOp (x : Iss) (kind : XeKind) (id pa : Nat) (h : Word) : XeOp :=
  { id := id, kind := kind, team := x.ref.team, ctx := x.team.ctx, core := x.team.core, part := x.team.part, entry := 2 * x.team.slot + x.ref.high.toNat, lane := x.first,
    pc := x.pc, param := readU64 x x.f.a, member := if bits x.m 3 3 = 1 then some (bits x.m 7 4) else none, future := pa,
    handle := h, spBytes := x.disp.spBytes, nbar := x.disp.nbar, accepted := false, active := false, slot := 0,
    loaded := false, src := 0, dst := 0, extra := 0, count := 0, next := 0, pieces := [], recvs := [], got := [], sent := [],
    gone := false, table := [], read := [], wrote := [], parked := none, pageFail := [], fail := none, placed := 0,
    cancelled := false }

/-- A start: the barrier number, the pool and the future slot are checked, the start is a release at its scope, and the engine takes
it; the flag clears once it has (R92 to R95, R110, R117, R123, R303). (DEDUCED, log 32) -/
def startForm (x : Iss) (kind : XeKind) (s : State) : State :=
  if bits x.m 3 3 = 1 ∧ x.disp.nbar ≤ bits x.m 7 4 then faultAt x 0x39 x.f.word s
  else if poolRefused s x.ctx x.block.area then faultAt x 0x42 x.f.word s
  else if x.active = 0 then retire x s
  else match freeFuture x.block with
    | none => faultAt x 0x33 x.f.word s
    | some slot =>
      if poisonAt s (futureAt x.ctx x.block.area slot) 32 then objectPoison x s
      else if 64 ≤ xeQueued s x.team.core then holdAt x (.stall .engine) s
      else releaseThen x (bits x.m 2 0) (fun s =>
        let (s1, pa, h) := futAllocate s x.block slot x.team.core
        let id := s1.nextOp
        let s2 := { s1 with nextOp := id + 1, xeOps := s1.xeOps ++ [newXeOp x kind id pa h] }
        retire x (addFlight x true (.engine id) [{ code := x.f.d.toNat, lane := 0, val := h }] [] 0 none s2)) s

/-- XCOPY (R302). -/
def execXcopy (d a b : BitVec 8) (s : State) : Host.Outcome State Fault Refusal :=
  issue (.xcopy d a b) s (fun x => startForm x .copy)

/-- XCOPYT (R302). -/
def execXcopyt (d a b : BitVec 8) (s : State) : Host.Outcome State Fault Refusal :=
  issue (.xcopyt d a b) s (fun x => startForm x .copyT)

/-- XGATHER (R302). -/
def execXgather (d a b : BitVec 8) (s : State) : Host.Outcome State Fault Refusal :=
  issue (.xgather d a b) s (fun x => startForm x .gather)

/-- XFILL (R302). -/
def execXfill (d a b : BitVec 8) (s : State) : Host.Outcome State Fault Refusal :=
  issue (.xfill d a b) s (fun x => startForm x .fill)

/-! ### Release streams (R173 to R177) -/

/-- The header of a RELEASE or CLOSE of a stream: COUNT and EPOCH (R175, R176). -/
def streamHdr (s : State) (t : Team) (kind n : Nat) (st : Stream) (pa bytes tag : Nat) (tc : Bool) : Hdr :=
  { teamHdr s t kind st.target.toNat pa bytes tag tc with stream := n, epoch := st.epoch.toNat, count := st.count.toNat }

/-- The stream after a RELEASE or CLOSE: count zero, epoch + 1 (R175). -/
def Stream.released (st : Stream) : Stream := { st with count := 0, epoch := st.epoch + 1 }

/-- Sends a CLOSE for a stream whose count is not zero (R173, R177). -/
def closeStream (s : State) (t : Team) (n : Nat) : State :=
  let st := mapGet Stream.reset t.streams n
  if st.count = 0 then s
  else
    let s1 := teamRequest s t (streamHdr s t kCLOSE n st 0 1 0 false) 0 0 (.close t.key n)
    updTeam s1 t.key (fun t => { t with streams := mapSet Stream.reset t.streams n st.released })

/-- RELEASE and CLOSE packets of a stream without a response (R175). (DEDUCED, log 33) -/
def unacked (s : State) (t : Team) (n : Nat) : Nat :=
  (s.outReqs.filter (fun q => decide (reqTeam q = some t.key) && within (hdrOf q.packet).kind 4 5 &&
    decide ((hdrOf q.packet).stream = n))).length

/-- Is a LOAD or ATOMIC that a team made before the mark, or a MCAST of it toward a device, without a response (R175)? (DEDUCED, log 33) -/
def readsToward (s : State) (k : TeamKey) (dev mark : Nat) : Bool :=
  s.outReqs.any (fun q => decide (reqTeam q = some k) && decide (q.num < mark) &&
    (let kd := (hdrOf q.packet).kind
     decide (kd = kLOAD) || decide (kd = kATOMIC) || (decide (kd = kMCAST) && decide (q.dev.toNat = dev))))

/-- RSTREAM: selects a stream and its target; a changed target of a counting stream closes it first (R173, R311). -/
def execRstream (a b : BitVec 8) (s : State) : Host.Outcome State Fault Refusal :=
  issue (.rstream a b) s (fun x s =>
    let n := (readU x a).toNat
    let dev := (readU x b).toNat
    if n ≠ 0xFFFFFFFF ∧ (15 < n ∨ 255 < dev ∨ dev = devNum s ∨ inShape s dev = false) then faultAt x 0x40 x.f.word s
    else if x.active = 0 then retire x s
    else if n = 0xFFFFFFFF then retire x (updTeam s x.ref.team (fun t => { t with curStream := none }))
    else
      let st := mapGet Stream.reset x.team.streams n
      if st.valid ∧ st.target.toNat ≠ dev ∧ st.count ≠ 0 ∧ 128 ≤ unacked s x.team n then holdAt x (.stall (.releases n)) s
      else
        let s1 := if st.valid ∧ st.target.toNat ≠ dev then closeStream s x.team n else s
        retire x (updTeam s1 x.ref.team (fun t =>
          let st := mapGet Stream.reset t.streams n
          { t with curStream := some n
                   streams := mapSet Stream.reset t.streams n { st with valid := true, target := BitVec.ofNat 8 dev } })))

/-- RSTREL: a counted release by the lowest active lane (R175, R312). It waits for the side log and for the team's remote reads, but
not for the responses of stores and reductions: the counted ones are what COUNT covers, and it does not wait for the others (R177,
example). (DEDUCED, log 33) -/
def execRstrel (d a b : BitVec 8) (s : State) : Host.Outcome State Fault Refusal :=
  issue (.rstrel d a b) s (fun x s =>
    let n := if bits x.m 0 0 = 1 then 8 else 4
    match x.team.curStream with
      | none => faultAt x 0x40 x.f.word s
      | some str =>
        if x.active = 0 then retire x s else
        let st := mapGet Stream.reset x.team.streams str
        match effAddr (BitVec.ofNat 64 (readNat x a x.first 2)) (modOff x.m) with
        | none => reportLanes x [⟨x.first, 0x10, some (BitVec.ofNat 64 (readNat x a x.first 2)), none⟩] true 1 true s
        | some ga =>
          settleThen x 1 true [⟨x.first, { ga := ga, n := n, align := n, write := true, atom := false, tags := false }⟩]
            (fun ok bad s => match ok, bad with
              | (_, [.remote pa _ tc]) :: _, [] =>
                if pa / 2 ^ 48 ≠ st.target.toNat then laneFault x 0x1A (maskOf x.n (fun l => decide (l = x.first))) 1 (some ga) true 0 s
                else logThen x (fun s =>
                  if readsToward s x.ref.team st.target.toNat (relMark x s) then holdMarked x (.reads st.target) s
                  else if 128 ≤ unacked s x.team str then holdAt x (.stall (.releases str)) s
                  else
                    let h := streamHdr s x.team kRELEASE str st pa n (bits ga 59 56) tc
                    let s1 := teamRequest s x.team h (readNat x d x.first (n / 4)) n (.team x.ref [x.first] [] 0 0 0 x.pc ga 1)
                    retire x (updTeam s1 x.ref.team (fun t =>
                      { t with streams := mapSet Stream.reset t.streams str st.released }))) s
              | _ :: _, [] => laneFault x 0x1A (maskOf x.n (fun l => decide (l = x.first))) 1 (some ga) true 0 s
              | _, bad => reportLanes x bad true 1 true s) s)

/-! ### Chain multicast (R178, R179, R313) -/

/-- The byte list of the peers is free of repeats. -/
def noRepeats : List Nat → Bool
  | [] => true
  | p :: rest => !rest.contains p && noRepeats rest

/-- The record of RMCAST breaks a rule of R313 that reading it shows. -/
def mcastBad (v : Nat) (sp stk : Nat) : Bool :=
  let np := fld v 64 8
  let len := fld v 72 8
  let ga := BitVec.ofNat 64 (fld v 128 64)
  decide (np = 0) || decide (8 < np) || decide (len = 0) || decide (128 < len) ||
  !noRepeats ((List.range np).map (fun i => fld v (8 * i) 8)) || decide (fld v 80 48 ≠ 0) || decide (fld v 192 320 ≠ 0) ||
  inAperture sp stk ga

/-- A read of `n` bytes by the lowest active lane, settled first. -/
def readThen (x : Iss) (ga : BitVec 64) (n align : Nat) (eff : Nat → State → State) (s : State) : State :=
  settleThen x 0 false [⟨x.first, { ga := ga, n := n, align := align, write := false, atom := false, tags := true }⟩]
    (fun ok bad s => match ok, bad with
      | (_, ts) :: _, [] =>
        let who := FetchFor.split x.ref
        if fetching s who ts then
          holdAt x (.stall .fetch) (fetchAsk s who (teamHdr s x.team kLOAD 0 0 1 (bits ga 59 56) false) ts)
        else match loadValue s none x.block who ts n with
          | .ok v => eff v (noteReads x [(n, ts)] (loadPass (partOfCtx s x.team.ctx) none false false ts s))
          | .error c => reportLanes x [badRead s who x.first ga ts c] true 0 false (fetchForget s x.ref)
      | _, bad => reportLanes x bad true 0 false (fetchForget s x.ref)) s

/-- Sends the MCAST: the first data flit lists the peers, the payload follows (R178). -/
def sendMcast (x : Iss) (slot rec0 payload pa : Nat) (tc : Bool) (s : State) : State :=
  let np := fld rec0 64 8
  let len := fld rec0 72 8
  let (s1, fut, h) := futAllocate s x.block slot x.team.core
  let hd := { teamHdr s1 x.team kMCAST (fld rec0 0 8) pa len (fld rec0 184 4) tc with npeer := np, pidx := 0 }
  let p : Packet := { hdr := hdrFlit { hd with len := 1 + (len + 31) / 32 }
                      data := BitVec.ofNat 256 (fld rec0 0 (8 * np)) :: dataFlits payload len }
  let s2 := retire x (addFlight x true .ready [{ code := x.f.d.toNat, lane := 0, val := h }] [] 0 none
    (fetchForget s1 x.ref))
  request s2 (newReq (fld rec0 0 8) p (.mcast x.team.ctx fut x.ref) true)

/-- RMCAST (R178, R313). -/
def execRmcast (d a : BitVec 8) (s : State) : Host.Outcome State Fault Refusal :=
  issue (.rmcast d a) s (fun x s =>
    let ga := readU64 x a
    if poolRefused s x.ctx x.block.area then faultAt x 0x42 x.f.word s
    else if x.active = 0 then retire x s
    else readThen x ga 64 64 (fun v s =>
      if mcastBad v (bits x.ctx.spbase 55 0) (bits x.ctx.stkbase 55 0) then faultAt x 0x41 x.f.word (fetchForget s x.ref)
      else readThen x (ga + 64) (fld v 72 8) 1 (fun payload s =>
        let target := BitVec.ofNat 64 (fld v 128 64)
        settleThen x 1 true [⟨x.first, { ga := target, n := 1, align := 1, write := true, atom := false, tags := false }⟩]
          (fun ok bad s => match ok, bad with
            | (_, ts) :: _, [] =>
              let place : Nat × Bool := match ts with
                | [.remote pa _ tc] => (pa, tc)
                | [.mem pa _ _] => (pa, (match translate s (.pipe x.team.core x.team.part) x.team.ctx (bits target 55 0) with
                    | (_, .page p) => p.tc
                    | _ => false))
                | _ => (0, false)
              if 128 < place.1 % 128 + fld v 72 8 then faultAt x 0x41 x.f.word (fetchForget s x.ref)
              else match freeFuture x.block with
                | none => faultAt x 0x33 x.f.word (fetchForget s x.ref)
                | some slot =>
                  if poisonAt s (futureAt x.ctx x.block.area slot) 32 then objectPoison x (fetchForget s x.ref)
                  else sendMcast x slot v payload place.1 place.2 s
            | _, bad => reportLanes x bad true 1 true (fetchForget s x.ref)) s) s) s)

/-- RFENCE: waits for the responses of the team's remote writes (R170, R314). -/
def execRfence (s : State) : Host.Outcome State Fault Refusal :=
  issue .rfence s (fun x s =>
    if x.active = 0 then retire x s
    else if madeBefore s (relMark x s) (fun q => decide (reqTeam q = some x.ref.team)) then holdMarked x .remote s
    else retire x s)

end Sys2Proof.Machine
end

