-- ==== Sys2Proof/Machine/Xe.lean ====
section
/-! DEFINITION. The copy engine: acceptance, activation, the walk of the elements, placement, cancellation and the end of an
operation (R92 to R107, R113 to R126, R304 to R306). -/
namespace Sys2Proof.Machine
open Sys2Proof.Forms

/-! ### Tensor descriptors (R96 to R98) -/

/-- A tensor descriptor; strides of dimensions 1 to 4. -/
structure Tensor where
  base    : Nat
  tag     : Nat
  esz     : Nat
  ndim    : Nat
  bt      : Bool
  sizes   : List Nat
  strides : List Int
  out0    : Nat
  deriving DecidableEq, Repr

def tensorOf (v : BitVec 512) : Tensor :=
  { base := bits v 55 0, tag := bits v 59 56, esz := bits v 66 64, ndim := bits v 69 67, bt := decide (bits v 70 70 = 1)
    sizes := (List.range 5).map (fun d => bits v (95 + 24 * d) (72 + 24 * d))
    strides := (List.range 4).map (fun d => sgn 40 (bits v (231 + 40 * d) (192 + 40 * d)))
    out0 := bits v 375 352 }

/-- Are the reserved bits of a descriptor zero (R96)? -/
def tensorClear (v : BitVec 512) : Bool := decide (bits v 63 60 = 0) && decide (bits v 71 71 = 0) && decide (bits v 511 376 = 0)

namespace Tensor

/-- Bytes of an element, the extent and the stride of a dimension, and the number of elements. -/
def bytes (t : Tensor) : Nat := 2 ^ t.esz
def size (t : Tensor) (d : Nat) : Nat := t.sizes.getD d 0
def stride (t : Tensor) (d : Nat) : Int := if d = 0 then t.bytes else t.strides.getD (d - 1) 0
def count (t : Tensor) : Nat := (List.range t.ndim).foldl (fun n d => n * t.size d) 1

/-- Coordinates of element `k`, dimension 0 fastest (R101). -/
def coordsFrom (t : Tensor) : Nat → Nat → Nat → List Nat
  | 0, _, _ => []
  | n + 1, d, k => k % t.size d :: coordsFrom t n (d + 1) (k / t.size d)
def coords (t : Tensor) (k : Nat) : List Nat := t.coordsFrom t.ndim 0 k

/-- The outermost coordinate. -/
def outer (t : Tensor) (c : List Nat) : Nat := c.getD (t.ndim - 1) 0

/-- The byte offset of an element, without a dimension that a block table looks up (R98). -/
def offset (t : Tensor) (c : List Nat) : Int :=
  (List.range t.ndim).foldl (fun (o : Int) d =>
    if t.bt && decide (d ≠ 0) && decide (d + 1 = t.ndim) then o else o + (c.getD d 0 : Int) * t.stride d) 0

end Tensor

/-- Is a descriptor well formed (R97)? -/
def tensorOk (v : BitVec 512) : Bool :=
  let t := tensorOf v
  tensorClear v && decide (t.esz ≤ 4) && within t.ndim 1 5 &&
  (List.range 5).all (fun d => if d < t.ndim then within (t.size d) 1 0xFFFFFF && decide (t.stride d % (t.bytes : Int) = 0)
    else decide (t.size d = 0) && decide (t.stride d = 0)) &&
  (if t.bt then decide (2 ≤ t.ndim) && decide (t.stride (t.ndim - 1) = 0) && decide (t.base % 8 = 0)
   else decide (t.out0 = 0) && decide (t.base % t.bytes = 0)) &&
  decide (t.count ≤ 2 ^ 40)

/-- COORD of a list of coordinates (R112). -/
def coordBits (c : List Nat) : BitVec 120 :=
  BitVec.ofNat 120 ((List.range 5).foldl (fun n d => n + ((c.getD d 0 % 2 ^ 24) <<< (24 * d))) 0)

/-! ### Operations in the tables -/

def xeOf (s : State) (id : Nat) : Option XeOp := s.xeOps.find? (fun o => decide (o.id = id))
def updXe (s : State) (id : Nat) (f : XeOp → XeOp) : State :=
  { s with xeOps := s.xeOps.map (fun o => if o.id = id then f o else o) }

/-- Writes of an operation to other devices that have no response. -/
def xeRemote (s : State) (id : Nat) : Bool := s.outReqs.any (fun q => match q.waiter with
  | .engine o _ => decide (o = id)
  | _ => false)

/-- The failure with the lowest element index is kept (R113). -/
def xeFail (s : State) (id : Nat) (f : XeFail) : State :=
  updXe s id (fun o => match o.fail with
    | none => { o with fail := some f }
    | some g => if f.elem < g.elem then { o with fail := some f } else o)

/-- Who makes an engine's access (R100). -/
def xeWho (o : XeOp) : Who := { ctx := o.ctx, via := .core o.core, spBytes := o.spBytes, slot := 0, lane := o.lane, failed := o.pageFail }

/-- The checks of an engine's access: it does not reach lane stacks (R100). -/
def xeCheck (s : State) (o : XeOp) (ga : BitVec 64) (n align : Nat) (write : Bool) : State × Checked :=
  let c := ctxOf s o.ctx
  if inStack (bits c.spbase 55 0) (bits c.stkbase 55 0) ga then (s, .fault 0x10)
  else checkAccess s (xeWho o) { ga := ga, n := n, align := align, write := write, atom := false, tags := true }

/-- A failure by a cause of the checks. -/
def causeFail (cause : BitVec 8) (elem : Nat) (c : List Nat) (side : Nat) (addr : Option (BitVec 64)) (write : Bool) : XeFail :=
  { status := causeStatus cause, cause := cause, elem := elem, coord := coordBits c, side := BitVec.ofNat 3 side, addr := addr,
    write := write }

/-- The fields of a record that name the start of an engine's operation (R114, R444). (DEDUCED, log 44) -/
def startRec (o : XeOp) (kind cause acc : BitVec 8) (write : Bool) : FaultRec :=
  { noRec with stop := coreStop o.core, entry := o.entry, kind := kind, cause := cause, flags := if write then 41 else 9, team := BitVec.ofNat 8 o.team.team, acc := acc,
               lane := BitVec.ofNat 16 o.lane, core := BitVec.ofNat 8 o.core, part := BitVec.ofNat 8 o.part, disp := o.team.disp,
               block := BitVec.ofNat 32 o.team.block, pc := o.pc.setWidth 64 }

/-- The operation parks on the request for a page (R115); with the ring disabled the request counts as failed. -/
def xePark (s : State) (o : XeOp) (page : Nat) (f : XeFail) : State :=
  match requestPage s o.ctx page { startRec o 1 0x1B (if f.write then 7 else 6) f.write with
      addr := f.addr.getD 0, cyc := s.cycle } with
  | (s1, some q) => updXe s1 o.id (fun o => { o with parked := some q })
  | (s1, none) => xeFail s1 o.id { f with status := causeStatus 0x15, cause := 0x15 }

/-- The header of a request of an engine (R157, R168, R177). -/
def engineHdr (s : State) (c eng kind cls pa n tag : Nat) (tc : Bool) : Hdr :=
  { kind := kind, cls := cls, qos := bits (ctxOf s c).ctxfab 1 0, src := devNum s, dst := pa / 2 ^ 48, inc := s.fabinc.toNat,
    tag := tag, tc := tc.toNat, bytes := n - 1, addr := pa % 2 ^ 48, asid := bits (ctxOf s c).ctxtr 60 48, tslot := eng, engf := 1 }

/-- An engine's read of `n` bytes: it parks, fails, waits for remote bytes, or goes on with the number and the places read. -/
def xeReadThen (o : XeOp) (ga : BitVec 64) (n align elem : Nat) (c : List Nat) (side : Nat)
    (eff : Nat → List Target → State → State) (s : State) : State :=
  let who := FetchFor.engine o.id
  match xeCheck s o ga n align false with
  | (s1, .fault cause) => xeFail s1 o.id (causeFail cause elem c side (some ga) false)
  | (s1, .page p) => xePark s1 o p (causeFail 0x15 elem c side (some ga) false)
  | (s1, .ok ts _) =>
    if fetching s1 who ts then fetchAsk s1 who (engineHdr s1 o.ctx o.core kLOAD 0 0 1 (bits ga 59 56) false) ts
    else
      let b := (blockOf s1 o.team.disp o.team.block).getD noBlock
      match loadValue s1 none b who ts n with
      | .ok v => eff v ts (fetchDrop (slicePass (partOfCtx s1 o.ctx) false false ts s1) who)
      | .error cause => xeFail (fetchDrop s1 who) o.id (causeFail cause elem c side (some ga) false)

/-! ### XE_ACCEPT (R92, R93) -/

/-- XE_ACCEPT: one start a cycle, from the partitions in rotating order; its flag clears. The order starts at partition 0 and goes on
behind the partition taken last. (DESIGN CHOICE, log 32) -/
def xeAccept (core : Nat) (s : State) : State :=
  let starts := s.xeOps.filter (fun o => decide (o.core = core) && !o.accepted)
  let rot := (coreOf s core).xeRot
  match (List.range 12).findSome? (fun i => starts.find? (fun o => decide (o.part = (rot + i) % 12))) with
  | none => s
  | some o =>
    let s1 := { s with xeOps := s.xeOps.filter (fun p => decide (p.id ≠ o.id)) ++ [{ o with accepted := true }] }
    updTeam (updCore s1 core (fun k => { k with xeRot := (o.part + 1) % 12 })) o.team (fun t =>
      { t with inflight := t.inflight.map (fun e => if e.state = .engine o.id then { e with state := .ready } else e) })

/-- XE_ACCEPT (R92, R93). -/
def execXeAccept (s : State) : Host.Outcome State Fault Refusal :=
  match s.event with
  | some (.xeAccept core) => .next (xeAccept core { s with event := none })
  | _ => .next s

/-! ### XE_ACTIVATE (R94, R96, R97, R104, R304 to R306) -/

/-- The blocks of a dispatch that the placement record shows on a core. -/
def blocksOn (s : State) (disp : BitVec 64) (core : Nat) : List Block :=
  s.blocks.filter (fun b => decide (b.disp = disp) && decide (b.core = core) && !b.saved && !b.exited)

/-- A failure that names no address. -/
def statusFail (status cause : BitVec 8) (side : Nat) : XeFail :=
  { status := status, cause := cause, elem := 0, coord := 0, side := BitVec.ofNat 3 side, addr := none, write := side = 1 }

/-- The receivers of a multicast, or its failure: RECEIVER first, then ALIGN, ADDRESS and BARRIER; an empty mask is OK whatever the
rest holds (R104, R305). (DESIGN CHOICE, log 44) -/
def receivers (s : State) (o : XeOp) (t : Tensor) (rec0 : BitVec 128) : Except XeFail (List Nat) :=
  let cores := (List.range 64).filter (fun i => rec0.getLsbD i)
  let found := cores.map (fun i => blocksOn s o.team.disp (o.core / 64 * 64 + i))
  let doff := bits rec0 86 64
  if cores = [] then .ok []
  else if found.any (fun l => decide (l.length ≠ 1)) then .error (statusFail 0x09 0 0)
  else if doff % t.bytes ≠ 0 then .error (statusFail 0x04 0x11 1)
  else if o.spBytes < doff + t.count * t.bytes then .error (statusFail 0x03 0x10 1)
  else if o.nbar ≤ bits rec0 91 88 then .error (statusFail 0x0A 0 0)
  else .ok (found.flatMap (fun l => l.map (·.index)))

/-- Do the descriptors of an operation agree (R97, R306)? -/
def tensorsAgree (kind : XeKind) (a b : Tensor) : Bool :=
  decide (a.esz = b.esz) &&
  (if kind = .gather then decide (a.ndim = b.ndim) && decide (2 ≤ a.ndim) &&
      (List.range (a.ndim - 1)).all (fun d => decide (a.size d = b.size d))
   else decide (a.count = b.count))

/-- What the records of a parameter area make of the operation (R304, R305): reserved bits first, then R97. (DEDUCED, log 44) -/
def xeSetup (s : State) (o : XeOp) (v : Nat) : Except XeFail XeOp :=
  let r0 := BitVec.ofNat 512 v
  let r1 := BitVec.ofNat 512 (v >>> 512)
  let r2 := BitVec.ofNat 512 (v >>> 1024)
  let clear := tensorClear r0 && (match o.kind with
    | .copy => tensorClear r1
    | .gather => tensorClear r1 && decide (bits r2 127 64 = 0)
    | .copyT => decide (bits r1 87 87 = 0) && decide (bits r1 127 92 = 0)
    | .fill => true)
  let good := tensorOk r0 && (match o.kind with
    | .copy | .gather => tensorOk r1 && tensorsAgree o.kind (tensorOf r0) (tensorOf r1)
    | _ => true)
  if !clear then .error (statusFail 0x02 0 4)
  else if !good then .error (statusFail 0x02 0 0)
  else match o.kind with
    | .copy => .ok { o with src := r0, dst := r1, count := (tensorOf r0).count, loaded := true }
    | .gather => .ok { o with src := r0, dst := r1, extra := r2.setWidth 128, count := (tensorOf r1).count, loaded := true }
    | .fill => .ok { o with dst := r0, extra := r1.setWidth 128, count := (tensorOf r0).count, loaded := true }
    | .copyT => match receivers s o (tensorOf r0) (r1.setWidth 128) with
      | .error f => .error f
      | .ok l => .ok { o with src := r0, extra := r1.setWidth 128, recvs := l, loaded := true,
                              count := if l = [] then 0 else (tensorOf r0).count }

/-- Reads the parameter area once; one in the scratchpad aperture lies in the issuing block's region (R96, R100). (DESIGN CHOICE, log 44) -/
def xeLoad (o : XeOp) (s : State) : State :=
  let n := if o.kind = .gather then 192 else 128
  if bits o.param 55 0 % 64 ≠ 0 then xeFail s o.id (causeFail 0x11 0 [] 4 (some o.param) false)
  else xeReadThen o o.param n 64 0 [] 4 (fun v _ s => match xeSetup s o v with
    | .ok o1 => updXe s o.id (fun _ => o1)
    | .error f => xeFail s o.id f) s

/-- XE_ACTIVATE: the oldest accepted operation takes the lowest free active slot and reads its parameter area. -/
def xeActivate (core : Nat) (s : State) : State :=
  let act := s.xeOps.filter (fun o => decide (o.core = core) && o.active)
  match (List.range 8).find? (fun i => act.all (fun o => decide (o.slot ≠ i))),
      s.xeOps.find? (fun o => decide (o.core = core) && o.accepted && !o.active) with
  | some i, some o =>
    let o1 := { o with active := true, slot := i }
    let s1 := updXe s o.id (fun _ => o1)
    if o.cancelled && decide (o.kind ≠ .copyT) then s1 else xeLoad o1 s1
  | _, _ => s

/-- XE_ACTIVATE (R94, R96). -/
def execXeActivate (s : State) : Host.Outcome State Fault Refusal :=
  match s.event with
  | some (.xeActivate core) => .next (xeActivate core { s with event := none })
  | _ => .next s

/-! ### The walk (R98 to R101, R306) -/

/-- Where an element lies: its generic address, a table entry that must be read first (key, address, bytes), or a failure. -/
inductive ElemEnd where
  | at_ (ga : BitVec 64)
  | need (key : Nat) (ga : Option (BitVec 64)) (n side : Nat) (c : List Nat)
  | bad (cause : BitVec 8) (side : Nat) (c : List Nat) (ga : Option (BitVec 64))
  deriving DecidableEq, Repr

/-- A tag and an address, where the address lies in the 56-bit space. -/
def gaOf (tag : Nat) (va : Int) : Option (BitVec 64) :=
  if va < 0 ∨ (2 ^ 56 : Int) ≤ va then none else some (BitVec.ofNat 64 ((tag <<< 56) + va.toNat))

/-- What a table has been read to hold under a key. -/
def tableAt (o : XeOp) (key : Nat) : Option (BitVec 64) := (o.table.find? (fun e => decide (e.1 = key))).map (·.2)

/-- elemaddr of R98 for side 0 or 1, with block-table entries kept under 4 * outer + side. -/
def elemAddr (o : XeOp) (t : Tensor) (side : Nat) (c : List Nat) : ElemEnd :=
  let off := t.offset c
  if t.bt then
    let key := 4 * t.outer c + side
    let at_ := gaOf t.tag ((t.base : Int) + 8 * ((t.out0 : Int) + t.outer c))
    match tableAt o key with
    | none => .need key at_ 8 2 c
    | some e =>
      if bits e 63 60 ≠ 0 then .bad 0x10 2 c at_
      else if bits e 55 0 % t.bytes ≠ 0 then .bad 0x11 2 c at_
      else match gaOf (bits e 59 56) ((bits e 55 0 : Int) + off) with
        | some ga => .at_ ga
        | none => .bad 0x10 side c none
  else match gaOf t.tag ((t.base : Int) + off) with
    | some ga => .at_ ga
    | none => .bad 0x10 side c none

/-- The source coordinates of element `k`: for a gather its slab is looked up in the index list (R306). -/
def sourceCoords (o : XeOp) (k : Nat) : Except ElemEnd (List Nat) :=
  let s := tensorOf o.src
  match o.kind with
  | .gather =>
    let d := tensorOf o.dst
    let c := d.coords k
    let j := d.outer c
    let at_ := gaOf (bits o.extra 63 56) ((bits o.extra 55 0 : Int) + 4 * (j : Int))
    match tableAt o (4 * j + 3) with
    | none => .error (.need (4 * j + 3) at_ 4 3 c)
    | some i => if s.size (s.ndim - 1) ≤ i.toNat then .error (.bad 0x10 3 c at_) else .ok (c.dropLast ++ [i.toNat])
  | _ => .ok (s.coords k)

/-- Source and destination of element `k`: no source for a fill, the offset in the receivers' regions for a multicast. -/
def elemPair (o : XeOp) (k : Nat) : Except ElemEnd (Option (BitVec 64) × BitVec 64) :=
  let src : Except ElemEnd (Option (BitVec 64)) :=
    if o.kind = .fill then .ok none
    else match sourceCoords o k with
      | .error e => .error e
      | .ok c => match elemAddr o (tensorOf o.src) 0 c with
        | .at_ ga => .ok (some ga)
        | e => .error e
  match src with
  | .error e => .error e
  | .ok a =>
    if o.kind = .copyT then .ok (a, BitVec.ofNat 64 (bits o.extra 86 64 + k * (tensorOf o.src).bytes))
    else match elemAddr o (tensorOf o.dst) 1 ((tensorOf o.dst).coords k) with
      | .at_ ga => .ok (a, ga)
      | e => .error e

/-- Bytes of an element of the operation. -/
def xeElem (o : XeOp) : Nat := (tensorOf (if o.kind = .fill then o.dst else o.src)).bytes

/-- Is `b` the address `d` bytes after `a`, in the same 128-byte line? (DEDUCED, log 44) -/
def sameRun (a b : BitVec 64) (d : Nat) : Bool :=
  decide (b.toNat = a.toNat + d) && decide (bits a 55 0 / 128 = bits b 55 0 / 128)

/-- May element `k` follow in the piece that starts at `p`, `d` bytes on? -/
def runOn (s : State) (o : XeOp) (p : Option (BitVec 64) × BitVec 64) (k d : Nat) : Bool :=
  let early (ga : BitVec 64) : Bool :=
    (earlyFault s (xeWho o) { ga := ga, n := xeElem o, align := 1, write := false, atom := false, tags := true }).isNone
  match elemPair o k with
  | .error _ => false
  | .ok q =>
    (match p.1, q.1 with
     | some a, some b => sameRun a b d && early b
     | none, none => true
     | _, _ => false) && sameRun p.2 q.2 d && (decide (o.kind = .copyT) || early q.2)

/-- Elements of the piece that starts at the next element: at most 128 bytes (R101). (DEDUCED, log 44) -/
def runLen (s : State) (o : XeOp) (p : Option (BitVec 64) × BitVec 64) : Nat → Nat → Nat
  | 0, m => m
  | fuel + 1, m =>
    if o.next + m < o.count ∧ (m + 1) * xeElem o ≤ 128 ∧ runOn s o p (o.next + m) (m * xeElem o) = true then
      runLen s o p fuel (m + 1)
    else m

/-- Does an address lie in the issuing block's scratchpad aperture? -/
def inSpad (s : State) (o : XeOp) (ga : BitVec 64) : Bool :=
  let b := bits (ctxOf s o.ctx).spbase 55 0
  decide (b ≤ bits ga 55 0) && decide (bits ga 55 0 < b + spAperture)

/-- Is the issuing block saved, or its save under way (R124)? (DEDUCED, log 45) -/
def xeBlockSaved (s : State) (o : XeOp) : Bool :=
  match blockOf s o.team.disp o.team.block with
  | some b => b.saved || b.saving
  | none => false

/-- Does the next piece wait for the issuing block's restore (R124)? -/
def xeHeld (s : State) (o : XeOp) : Bool :=
  xeBlockSaved s o &&
  (if o.loaded then match elemPair o o.next with
     | .ok (a, d) => (match a with
         | some a => inSpad s o a
         | none => false) || (decide (o.kind ≠ .copyT) && inSpad s o d)
     | .error (.need _ (some ga) _ _ _) => inSpad s o ga
     | _ => false
   else inSpad s o o.param)

/-- May an active operation issue: it has elements left, has not failed, and is neither parked, held nor waiting for
remote bytes, and the thermal guard does not hold its partition (R94, R113, R115, R118, R472)? -/
def xeRuns (s : State) (o : XeOp) : Bool :=
  o.active && o.fail.isNone && o.parked.isNone && !(o.cancelled && (o.loaded || decide (o.kind ≠ .copyT))) &&
  (!o.loaded || decide (o.next < o.count)) && !xeHeld s o && !(s.thold ||| s.pwrgate).getLsbD (o.core / 64) &&
  !s.outReqs.any (fun q => match q.waiter with
    | .fetch (.engine e) _ => decide (e = o.id)
    | _ => false)

/-- Element size bytes of a fill value repeated. -/
def fillBytes (o : XeOp) (n : Nat) : List Byte := (List.range n).map (fun i => byteOf o.extra.toNat (i % xeElem o))

/-- The space of a read: its scratchpad or memory (R102). -/
def readSpace (o : XeOp) (n : Nat) (ts : List Target) : List (Nat × Nat × Nat) :=
  match ts with
  | [.spad a] => [(o.team.block + 1, a, n)]
  | _ => ts.filterMap (fun t => match t with
    | .mem pa k _ => some (0, pa, k)
    | _ => none)

/-- A piece of `m` elements has been read: it is handed to the placement of its destination, or of every receiver. (DEDUCED, log 45) -/
def xePut (o : XeOp) (m : Nat) (d : BitVec 64) (place : Option XePlace) (data : List Byte) (rd : List (Nat × Nat × Nat))
    (s : State) : State :=
  let own := rd.any (fun p => decide (p.1 ≠ 0))
  updXe s o.id (fun o =>
    let l := match place with
      | some p => [{ elem := o.next, ga := d, place := p, own := own, data := data : XePiece }]
      | none => o.recvs.map (fun b => { elem := o.next, ga := d, place := .recv b d.toNat, own := own, data := data })
    { o with pieces := o.pieces ++ l, next := o.next + m, read := o.read ++ rd })

/-- The place of a checked destination. -/
def placeOfTargets (ts : List Target) (tag : Nat) : XePlace :=
  match ts with
  | .spad a :: _ => .spad a
  | .mem pa _ cp :: _ => .mem pa cp
  | .remote pa _ tc :: _ => .remote pa tag tc
  | [] => .mem 0 0

/-- Issues a piece of `m` elements: the destination is checked, then the source read; of two failures the first is reported (R101, R113).
(DESIGN CHOICE, log 44) -/
def xeMove (o : XeOp) (a : Option (BitVec 64)) (d : BitVec 64) (m : Nat) (s : State) : State :=
  let n := m * xeElem o
  let dc := (tensorOf o.dst).coords o.next
  let sc := match sourceCoords o o.next with
    | .ok c => c
    | .error _ => []
  let read (place : Option XePlace) (s : State) : State := match a with
    | none => xePut o m d place (fillBytes o n) [] s
    | some a => xeReadThen o a n (xeElem o) o.next sc 0 (fun v ts s =>
        xePut o m d place ((List.range n).map (byteOf v)) (readSpace o n ts) s) s
  if o.kind = .copyT then read none s
  else match xeCheck s o d n (xeElem o) true with
    | (s1, .fault cause) => xeFail s1 o.id (causeFail cause o.next dc 1 (some d) true)
    | (s1, .page p) => xePark s1 o p (causeFail 0x15 o.next dc 1 (some d) true)
    | (s1, .ok ts _) => read (some (placeOfTargets ts (bits d 59 56))) s1

/-- Has the operation failed in a state? -/
def xeFailed (s : State) (id : Nat) : Bool := match xeOf s id with
  | some o => o.fail.isSome
  | none => false

/-- The next piece of an active operation: a table entry that it needs is read first; a run that fails is issued again as its
first element alone, so that the elements before the failing one are placed (R99, R101, R112). (DEDUCED, log 44) -/
def xeNext (o : XeOp) (s : State) : State :=
  if !o.loaded then xeLoad o s
  else match elemPair o o.next with
    | .error (.need key ga n side c) => match ga with
      | none => xeFail s o.id (causeFail 0x10 o.next c side none false)
      | some ga => xeReadThen o ga n n o.next c side
          (fun v _ s => updXe s o.id (fun o => { o with table := o.table ++ [(key, BitVec.ofNat 64 v)] })) s
    | .error (.bad cause side c ga) => xeFail s o.id (causeFail cause o.next c side ga (side = 1))
    | .error (.at_ _) => s
    | .ok (a, d) =>
      let m := runLen s o (a, d) 128 1
      let s1 := xeMove o a d m s
      if xeFailed s1 o.id && decide (1 < m) then xeMove o a d 1 s else s1

/-- XE_PIECE_ISSUE: the next active operation that runs issues one piece, in round-robin order over the slots (R94). -/
def xePieceIssue (core : Nat) (s : State) : State :=
  let turn := (coreOf s core).xeTurn
  match (List.range 8).findSome? (fun i =>
      s.xeOps.find? (fun o => decide (o.core = core) && decide (o.slot = (turn + i) % 8) && xeRuns s o)) with
  | none => s
  | some o => xeNext o (updCore s core (fun k => { k with xeTurn := (o.slot + 1) % 8 }))

/-- XE_PIECE_ISSUE (R94, R99 to R101). -/
def execXePieceIssue (s : State) : Host.Outcome State Fault Refusal :=
  match s.event with
  | some (.xePieceIssue core) => .next (xePieceIssue core { s with event := none })
  | _ => .next s

/-! ### XE_PIECE_PLACE (R101, R105 to R107, R121, R124) -/

/-- May a piece be placed: its region is not saved? (DEDUCED, log 45) -/
def xePlaceable (s : State) (o : XeOp) (p : XePiece) : Bool :=
  match p.place with
  | .recv b _ => match blockOf s o.team.disp b with
    | some b => !b.saved
    | none => true
  | .spad _ => match blockOf s o.team.disp o.team.block with
    | some b => !b.saved
    | none => true
  | _ => true

/-- Places scratchpad bytes of a block for an engine. -/
def engineSpad (s : State) (disp : BitVec 64) (block a : Nat) (data : List Byte) : State :=
  updBlock (spWrite s disp block a data.length (fun i => data.getD i 0)) disp block
    (fun b => { b with placed := b.placed ++ [(a, data.length)] })

/-- An engine's operation on an object that the slice refuses is not made; the engine reports the handle fault (R62). (DEDUCED, log 45) -/
def objReport (s : State) (o : XeOp) : State := queueRec s o.ctx { startRec o 2 0x42 0xFF false with cyc := s.cycle, info2 := o.handle.setWidth 64 }

/-- The byte arrival of a piece at the barrier of a receiver; one with INIT = 0 ends the operation with BARRIER (R106, R121). -/
def byteArrival (o : XeOp) (b : Block) (p : XePiece) (s : State) : State :=
  let pa := barrierAt (ctxOf s o.ctx) b.area (bits o.extra 91 88)
  if objRefused s o.ctx pa then objReport s o
  else if (readBar s pa).init then barBytesAt s pa p.data.length
  else xeFail s o.id { statusFail 0x0A 0 0 with elem := p.elem }

/-- The header of a store of an engine: each active slot has a stream of its own, whose epoch is that of the operation (R174, R177).
(DEDUCED, log 38) -/
def xeHdr (s : State) (o : XeOp) (kind cls pa n tag : Nat) (tc : Bool) : Hdr :=
  { engineHdr s o.ctx o.core kind cls pa n tag tc with stream := o.slot, epoch := o.id % 256 }

/-- A piece for a receiver has been placed or discarded: its bytes count as placed once, with the last of its receivers (R112). (DEDUCED, log 45) -/
def countPiece (o : XeOp) (p : XePiece) (s : State) : State :=
  updXe s o.id (fun u => if u.pieces.any (fun q => decide (q.elem = p.elem)) then u
    else { u with placed := u.placed + (if u.recvs.any (fun b => decide (mapGet 0 u.got b ≠ 0)) then p.data.length else 0) })

/-- Places one piece. -/
def xePlace (o : XeOp) (p : XePiece) (s : State) : State :=
  let n := p.data.length
  let dc := (tensorOf o.dst).coords p.elem
  let done (space a : Nat) (s : State) : State :=
    updXe s o.id (fun o => { o with placed := o.placed + n, wrote := o.wrote ++ [(space, a, n)] })
  match p.place with
  | .spad a => done (o.team.block + 1) a (engineSpad s o.team.disp o.team.block a p.data)
  | .mem pa cp =>
    if coversPoison s pa n then
      done 0 pa (writeMemBy o.core (sliceTouch s (partOfCtx s o.ctx) cp false pa n true) pa n (fun i => p.data.getD i 0))
    else xeFail s o.id (causeFail 0x17 p.elem dc 1 (some p.ga) true)
  | .remote pa tag tc =>
    let dev := pa / 2 ^ 48
    request (updXe s o.id (fun o => { o with sent := mapSet 0 o.sent dev (mapGet 0 o.sent dev + 1) }))
      (newReq dev (packetOf { xeHdr s o kSTORE 2 pa n tag tc with cnt := 1 } (leNat (fun i => p.data.getD i 0) 0 n) n) (.engine o.id p.elem) true)
  | .recv b a => match blockOf s o.team.disp b with
    | none => countPiece o p (updXe s o.id (fun o => { o with gone := true }))
    | some blk =>
      if blk.exited then countPiece o p (updXe s o.id (fun o => { o with gone := true }))
      else
        let s1 := engineSpad s o.team.disp b a p.data
        let s2 := updXe s1 o.id (fun o => { o with got := mapSet 0 o.got b (mapGet 0 o.got b + n)
                                                   wrote := o.wrote ++ [(b + 1, a, n)] })
        byteArrival o blk p (countPiece o p s2)

/-- XE_PIECE_PLACE: the oldest piece of the engine that may be placed. -/
def xePiecePlace (core : Nat) (s : State) : State :=
  match s.xeOps.findSome? (fun o => if o.core = core then
      (o.pieces.find? (xePlaceable s o)).map (fun p => (o, p)) else none) with
  | none => s
  | some (o, p) => xePlace o p (updXe s o.id (fun o => { o with pieces := o.pieces.erase p }))

/-- XE_PIECE_PLACE (R101, R106). -/
def execXePiecePlace (s : State) : Host.Outcome State Fault Refusal :=
  match s.event with
  | some (.xePiecePlace core) => .next (xePiecePlace core { s with event := none })
  | _ => .next s

/-! ### XE_OPERATION_END and ENGINE_CANCEL (R102, R107, R112 to R114, R118, R123, R145) -/

/-- Does the end of an operation bring an engine report (R114)? -/
def reported (o : XeOp) : Bool := match o.fail with
  | some f => !o.cancelled && within f.status.toNat 3 8
  | none => false

/-- Is nothing of an operation left to do but its end? A report holds it until the fault ring has room (R443). (DEDUCED, log 45) -/
def xeFinished (s : State) (o : XeOp) : Bool :=
  let stopped := o.cancelled && (o.loaded || decide (o.kind ≠ .copyT))
  o.active && (o.fail.isSome || stopped || (o.loaded && decide (o.count ≤ o.next))) &&
  (if stopped then !o.pieces.any (xePlaceable s o) else decide (o.pieces = [])) && !xeRemote s o.id &&
  (!reported o || recordRoom s o.ctx)

/-- Destination bytes that were source bytes too are UNKNOWN (R102). -/
def overlapBytes (o : XeOp) : List (Nat × Nat) :=
  o.wrote.flatMap (fun (sp, a, n) => (List.range n).filterMap (fun i =>
    if o.read.any (fun (sp', b, m) => decide (sp' = sp) && decide (b ≤ a + i) && decide (a + i < b + m)) then some (sp, a + i)
    else none))
def spoilOverlap (o : XeOp) (s : State) : State :=
  let l := overlapBytes o
  (List.range l.length).foldl (fun t i =>
    let (sp, a) := l.getD i (0, 0)
    let v : Byte := (unknown s.fresh i).setWidth 8
    if sp = 0 then writeMem t a 1 (fun _ => v) else spWrite t o.team.disp (sp - 1) a 1 (fun _ => v))
    { s with fresh := s.fresh + 1 }

/-- The bytes a cancelled multicast did not deliver arrive at every receiver, with ERR = 1; a barrier with INIT = 0 discards them (R118,
R121). (DEDUCED, log 45) -/
def shortArrivals (o : XeOp) (s : State) : State :=
  o.recvs.foldl (fun s b => match blockOf s o.team.disp b with
    | none => s
    | some blk => if blk.exited then s
      else
        let pa := barrierAt (ctxOf s o.ctx) blk.area (bits o.extra 91 88)
        if objRefused s o.ctx pa then objReport s o
        else if (readBar s pa).init then barShort s pa (o.count * xeElem o - mapGet 0 o.got b) else s) s

/-- The member arrival of an operation; false where the barrier has INIT = 0 (R121, R123). -/
def memberArrival (o : XeOp) (s : State) : State × Bool :=
  match o.member, blockOf s o.team.disp o.team.block with
  | some n, some b =>
    let pa := barrierAt (ctxOf s o.ctx) b.area n
    if objRefused s o.ctx pa then (objReport s o, true)
    else if (readBar s pa).init then (barArriveAt s pa, true) else (s, false)
  | _, _ => (s, true)

/-- What the future of an operation receives: the failure, else BARRIER, RECEIVER or OK; COORD and SIDE stand for ADDRESS to POISON
alone (R112). (DEDUCED, log 45) -/
def xeResult (o : XeOp) (arrived : Bool) : FutureResult :=
  match o.fail with
  | some f =>
    let shown := within f.status.toNat 3 8
    { status := f.status, bytes := satBytes o.placed, coord := if shown then f.coord else 0, side := if shown then f.side else 0 }
  | none => { status := if arrived then (if o.gone then 0x09 else 0x00) else 0x0A, bytes := satBytes o.placed, coord := 0, side := 0 }

/-- The streams of an operation are closed at every device to which it has sent counted stores (R177). -/
def closeEngine (o : XeOp) (s : State) : State :=
  o.sent.foldl (fun s p => request s (newReq p.1 (packetOf { xeHdr s o kCLOSE 0 (p.1 * 2 ^ 48) 1 0 false with count := p.2 } 0 0)
    (.engine o.id o.count) true)) s

/-- XE_OPERATION_END: the arrivals, then the future; statuses ADDRESS to POISON are reported (R114). -/
def xeOperationEnd (id : Nat) (s : State) : State :=
  match xeOf s id with
  | none => s
  | some o =>
    if !xeFinished s o then s
    else
      let s1 := if o.cancelled && decide (o.kind = .copyT) then shortArrivals o s else s
      let (s2, arrived) := memberArrival o (spoilOverlap o s1)
      let s3 := if o.cancelled then s2 else if objRefused s2 o.ctx o.future then objReport s2 o else futComplete s2 o.future (xeResult o arrived)
      let s4 := match o.fail with
        | some f => if reported o then
            queueRec s3 o.ctx { startRec o 2 f.cause (if f.write then 7 else 6) f.write with
              flags := (if f.write then 41 else 9) ||| (if f.addr.isSome then 2 else 0), addr := f.addr.getD 0
              info2 := o.handle.setWidth 64 ||| (f.status.setWidth 64 <<< 32), cyc := s.cycle }
          else s3
        | none => s3
      releaseAreas (fetchDrop { (closeEngine o s4) with xeOps := (closeEngine o s4).xeOps.filter (fun p => decide (p.id ≠ id)) } (.engine id))

/-- XE_OPERATION_END (R94, R112 to R114). -/
def execXeOperationEnd (s : State) : Host.Outcome State Fault Refusal :=
  match s.event with
  | some (.xeOperationEnd id) => .next (xeOperationEnd id { s with event := none })
  | _ => .next s

/-- ENGINE_CANCEL: no further piece of the copy, and no further slab of the exchange, is begun (R118, R145). (DEDUCED, log 45) -/
def engineCancel (id : Nat) (s : State) : State :=
  let s1 := updXe s id (fun o => { o with cancelled := true, parked := none })
  let s2 := { s1 with exchanges := s1.exchanges.map (fun e => if e.id = id then { e with cancelled := true } else e)
                      deliveries := s1.deliveries.map (fun d => if d.exch = id ∧ d.begun = false then { d with isOver := true, page := none } else d) }
  if s.exchanges.any (fun e => decide (e.id = id)) then exchangeDone s2 id else s2

/-- ENGINE_CANCEL (R118, R145). -/
def execEngineCancel (s : State) : Host.Outcome State Fault Refusal :=
  match s.event with
  | some (.engineCancel id) => .next (engineCancel id { s with event := none })
  | _ => .next s

/-- The steps of the copy engines that are due in a cycle: one start a cycle, one piece a network cycle (R93, R94). -/
def xeDue (s : State) : List Event :=
  let cores := sortBy' ((s.xeOps.map (·.core)).eraseDups)
  cores.flatMap (fun c =>
    let mine := s.xeOps.filter (fun o => decide (o.core = c))
    (if mine.any (fun o => !o.accepted) then [.xeAccept c] else []) ++
    (if mine.any (fun o => o.accepted && !o.active) && decide ((mine.filter (·.active)).length < 8) then [.xeActivate c] else []) ++
    (if mine.any (xeRuns s) then [.xePieceIssue c, .xePieceIssue c] else []) ++
    List.replicate (mine.flatMap (fun o => o.pieces.filter (xePlaceable s o))).length (.xePiecePlace c) ++
    (mine.filter (xeFinished s)).map (fun o => .xeOperationEnd o.id))
where
  /-- The numbers below 256 that a list holds, ascending. -/
  sortBy' (l : List Nat) : List Nat := (List.range 256).filter (fun n => l.contains n)

end Sys2Proof.Machine
end

