-- ==== Sys2Proof/Machine/Brim.lean ====
section
/-! DEFINITION. The binding of grid slots by the launch unit, the deliveries of the halo engine Brim, and the release of a
slot (R136 to R145, R307, R506, R515). -/
namespace Sys2Proof.Machine
open Sys2Proof.Forms

/-! ### Binding (R136 to R138, R307) -/

/-- A binding request is over: GBIND's flag clears. -/
def bindOver (s : State) (b : BindReq) : State :=
  let s1 := fetchDrop { s with binds := s.binds.filter (fun c => decide (c.id ≠ b.id)) } (.bind b.id)
  updTeam s1 b.split.team (fun t => { t with
    inflight := t.inflight.map (fun e => if e.state = .bind b.id then { e with state := .ready } else e) })

/-- A failed binding: a fault that names GBIND, raised when it completes. (DEDUCED, log 36) -/
def bindFault (s : State) (b : BindReq) (cause acc : BitVec 8) (ga : Option (BitVec 64)) (info : Word) : State :=
  raiseFault (bindOver s b) (if (splitOf s b.split).isSome then b.split else { b.split with high := !b.split.high })
    { plainFault cause b.pc (maskOf (b.lane + 1) (fun l => decide (l = b.lane))) info with
      atInstr := false, lane := b.lane, acc := acc, addr := ga }

/-- The binding waits for a page; with the ring disabled the request counts as failed (R38, R443). -/
def bindPark (s : State) (b : BindReq) (page : Nat) (ga : BitVec 64) (refused : State → State) : State :=
  let rec0 : FaultRec := match teamOf s b.split.team with
    | some t => { teamRec s t 1 0x1B with entry := 2 * t.slot + b.split.high.toNat }
    | none => { noRec with cyc := s.cycle }
  match requestPage s b.ctx page { rec0 with flags := 1, acc := 0, lane := BitVec.ofNat 16 b.lane, pc := b.pc.setWidth 64,
                                              addr := ga } with
  | (s1, some q) => { s1 with binds := s1.binds.map (fun c => if c.id = b.id then { c with page := some q } else c) }
  | (s1, none) => refused s1

/-- Reads `n` bytes for a binding as its lowest active lane would: a failed check is that lane's fault. -/
def bindRead (b : BindReq) (t : Team) (d : Dispatch) (ga : BitVec 64) (n align : Nat) (eff : Nat → State → State) (s : State) : State :=
  let w : Who := { ctx := b.ctx, via := .die (b.ctx / 1024), spBytes := d.spBytes, slot := t.stackSlot, lane := b.lane, failed := b.failed }
  let who := FetchFor.bind b.id
  match checkAccess s w { ga := ga, n := n, align := align, write := false, atom := false, tags := true } with
  | (s1, .fault c) => bindFault s1 b c 0 (some ga) 1
  | (s1, .page p) => bindPark s1 b p ga (fun s => bindFault s b 0x15 0 (some ga) 1)
  | (s1, .ok ts _) =>
    if fetching s1 who ts then fetchAsk s1 who (teamHdr s1 t kLOAD 0 0 1 (bits ga 59 56) false) ts
    else
      let blk := (blockOf s1 b.split.team.disp b.split.team.block).getD noBlock
      match loadValue s1 none blk who ts n with
      | .ok v => eff v (slicePass (partOfCtx s1 b.ctx) false false ts s1)
      | .error c => bindFault s1 b c 0 (some ga) 1

/-- Is a block resident: placed and neither saved nor over (R138)? -/
def blockResident (s : State) (disp : BitVec 64) (i : Nat) : Bool :=
  match blockOf s disp i with
  | some b => !b.saved && !b.exited
  | none => false

/-- How the storage of one local partition stands up to check 5 of R137. -/
inductive StorageEnd where
  | fine
  | refused
  | page (page va : Nat)
  deriving DecidableEq, Repr

/-- One page of a partition's storage: local, and writable where the step area lies. (DEDUCED, log 34) -/
def pageCheck (s : State) (b : BindReq) (va stepLo stepHi : Nat) : State × StorageEnd :=
  let x := ctxOf s b.ctx
  if 2 ^ 56 ≤ va ∨ inAperture (bits x.spbase 55 0) (bits x.stkbase 55 0) (BitVec.ofNat 64 va) = true then (s, .refused)
  else match translate s (.die (b.ctx / 1024)) b.ctx va with
    | (s1, .fail _) => (s1, .refused)
    | (s1, .request) => (s1, if b.failed.contains (va / 65536) then .refused else .page (va / 65536) va)
    | (s1, .page p) =>
      let page := va / 65536
      let step := decide (stepLo / 65536 ≤ page) && decide (page ≤ stepHi / 65536)
      (s1, if !isLocal s1 p.pa || (step && p.ro) then .refused else .fine)

/-- The pages of a partition's storage from the `i`th on: the first that does not pass decides. (DEDUCED, log 34) -/
def storagePages (b : BindReq) (lo stepLo hi : Nat) : Nat → Nat → State → State × StorageEnd
  | 0, _, s => (s, .fine)
  | n + 1, i, s =>
    match pageCheck s b (if i = 0 then lo else (lo / 65536 + i) * 65536) stepLo hi with
    | (s1, .fine) => storagePages b lo stepLo hi n (i + 1) s1
    | r => r

/-- Check 5 for the local partitions of a map. (DEDUCED, log 34) -/
def storageCheck (b : BindReq) (g : Grid) : List GridPart → State → State × StorageEnd
  | [], s => (s, .fine)
  | e :: rest, s =>
    let hi := e.sbase + g.stepAt + 127
    match storagePages b e.sbase (e.sbase + g.stepAt) hi (hi / 65536 + 1 - e.sbase / 65536) 0 s with
    | (s1, .fine) => storageCheck b g rest s1
    | r => r

/-- The local address of the step area of a partition for a context, if it can be read. -/
def stepArea (s : State) (c : Nat) (g : Grid) (e : GridPart) : Option Nat :=
  match (stepPlace s c [] (stepGa g e 0) false).2 with
  | .word pa _ => some pa
  | _ => none

/-- Has software left something in the step area of a partition that no slot has bound yet (R132)? -/
def stepDirty (s : State) (c : Nat) (g : Grid) (e : GridPart) : Bool :=
  match stepArea s c g e with
  | none => false
  | some pa => decide (readMem s pa 128 ≠ 0) && !s.ctxs.any (fun p => (List.range 16).any (fun n =>
      let o := slotOf p.2 n
      o.bound && (localParts s o).any (fun i => decide (stepArea s p.1 (gridOf o.desc) (slotPart o i) = some pa))))

/-- The rims and the step words of a partition become UNKNOWN (R132). (DEDUCED, log 80) -/
def spoilPart (c : Nat) (g : Grid) (e : GridPart) (s : State) : State :=
  let rim := (List.range g.total).filter (fun i => (slabOf g i).isSome)
  let put (s : State) (ga : BitVec 64) (n : Nat) : State :=
    match checkAccess s (deviceWho c) { ga := ga, n := n, align := 1, write := true, atom := false, tags := true } with
    | (s1, .ok [.mem pa _ _] _) => writeNat { s1 with fresh := s1.fresh + 1 } pa n (freeNat s1.fresh n)
    | (s1, _) => s1
  (List.range 27).foldl (fun s k => put s (stepGa g e k) 4) (rim.foldl (fun s i => put s (elemGa g e i) g.bytes) s)

/-- The initial exchange of one partition, carried by the Brim of the core of GBIND. (DEDUCED, log 37) -/
def initialExchange (b : BindReq) (g : GridSlot) (p : Nat) (s : State) : State :=
  let t := teamOf s b.split.team
  startExchange s
    { id := 0, team := b.split.team, ctx := b.ctx, core := b.core, spart := (t.map (·.part)).getD 0
      entry := 2 * (t.map (·.slot)).getD 0 + b.split.high.toNat, lane := b.lane, pc := b.pc, slot := b.slot, part := p
      owner := (slotPart g p).block, step := BitVec.ofNat 32 (gridOf g.desc).step0, future := none, handle := 0, fail := none, stored := []
      placed := 0, cancelled := false } g

/-- The initial exchanges start as Brim has places for them, and GBIND completes with the last (R138, R144). -/
def bindExchanges (b : BindReq) (g : GridSlot) : List Nat → State → State
  | [], s => bindOver s b
  | p :: rest, s =>
    if 16 ≤ exchangesOf s b.core then { s with binds := s.binds.map (fun c => if c.id = b.id then { c with todo := p :: rest } else c) }
    else bindExchanges b g rest (initialExchange b g p s)

/-- The slot is bound: PSTEP, BIND and RESIDENT of each local partition, then the exchanges of STEP0 (R138). (DEDUCED, log 37) -/
def bindSlot (b : BindReq) (desc : BitVec 512) (map : List (BitVec 128)) (s : State) : State :=
  let disp := b.split.team.disp
  let g0 : GridSlot := { bound := true, dva := b.ga.setWidth 56, desc := desc, map := map, dispatch := disp, spoilt := [], releasing := false }
  let own := localParts s g0
  let bad := own.filter (fun p => stepDirty s b.ctx (gridOf desc) (slotPart g0 p))
  let g := { g0 with spoilt := bad }
  let s1 := bad.foldl (fun s p => spoilPart b.ctx (gridOf desc) (slotPart g0 p) s) (updSlot s b.ctx b.slot (fun _ => g))
  bindExchanges b g own (own.foldl (fun s p =>
    let s2 := stepWrite s b.ctx g p wPSTEP (gridOf desc).step0
    let s3 := stepWrite s2 b.ctx g p wBIND 1
    stepWrite s3 b.ctx g p wRESIDENT (blockResident s3 disp (slotPart g p).block).toNat) s1)

/-- Checks 3 to 5 of R137, with the map at hand. -/
def bindMap (b : BindReq) (d : Dispatch) (desc : BitVec 512) (map : List (BitVec 128)) (s : State) : State :=
  let own := (map.map partOf).filter (fun e => decide (e.dev = devNum s))
  if !(map.all partOk && own.all (fun e => decide (e.block < d.nbx * d.nby * d.nbz)) && noRepeats (own.map (·.block))) then
    bindFault s b 0x38 0xFF none 2
  else match storageCheck b (gridOf desc) own s with
    | (s1, .refused) => bindFault s1 b 0x38 0xFF none 3
    | (s1, .page p va) => bindPark s1 b p (BitVec.ofNat 64 va) (fun s => bindFault s b 0x38 0xFF none 3)
    | (s1, .fine) => bindSlot b desc map s1

/-- Keeps what a binding has read: the descriptor and the map are read once (R127). -/
def bindKeep (b : BindReq) (f : BindReq → BindReq) (s : State) : State :=
  { s with binds := s.binds.map (fun c => if c.id = b.id then f c else c) }

/-- Check 2 and the reads of a binding, each made once. -/
def bindDesc (b : BindReq) (t : Team) (d : Dispatch) (desc : BitVec 512) (s : State) : State :=
  let g := gridOf desc
  if !gridOk desc then bindFault s b 0x38 0xFF none 1
  else match b.map with
    | some map => bindMap b d desc map s
    | none => bindRead b t d (BitVec.ofNat 64 ((g.mapTag <<< 56) + g.mapVa)) (16 * g.count) 16 (fun m s =>
        let map := (List.range g.count).map (fun i => BitVec.ofNat 128 (m >>> (128 * i)))
        bindMap b d desc map (bindKeep b (fun c => { c with map := some map }) s)) s

/-- GRID_BIND_REQUEST: the table of R136, and the binding of an unbound slot with the checks of R137 in their order. While the
slot's last deliveries run to their end the request waits for its release. (DEDUCED, log 36) -/
def gridBindRequest (op : Nat) (s : State) : State :=
  match s.binds.find? (fun b => decide (b.id = op)) with
  | none => s
  | some b => match teamOf s b.split.team with
    | none => { s with binds := s.binds.filter (fun c => decide (c.id ≠ op)) }
    | some t =>
      let g := slotOf (ctxOf s b.ctx) b.slot
      let d := (dispOf s b.split.team.disp).getD noDispatch
      if b.todo ≠ [] then bindExchanges b g b.todo s
      else if b.page.isSome ∨ g.releasing = true then s
      else if g.bound then
        if g.dispatch = d.id ∧ g.dva = b.ga.setWidth 56 then bindOver s b else bindFault s b 0x35 0xFF none b.word
      else if d.cls ≠ 0 then bindFault s b 0x38 0xFF none 0
      else match b.desc with
        | some desc => bindDesc b t d desc s
        | none => bindRead b t d b.ga 64 64 (fun v s =>
            bindDesc b t d (BitVec.ofNat 512 v) (bindKeep b (fun c => { c with desc := some (BitVec.ofNat 512 v) }) s)) s

/-- GRID_BIND_REQUEST (R136 to R138, R307). -/
def execGridBindRequest (s : State) : Host.Outcome State Fault Refusal :=
  match s.event with
  | some (.gridBindRequest op) => .next (gridBindRequest op { s with event := none })
  | _ => .next s

/-! ### Deliveries (R140 to R145, R506, R515) -/

def updDelivery (s : State) (id : Nat) (f : Delivery → Delivery) : State :=
  { s with deliveries := s.deliveries.map (fun d => if d.id = id then f d else d) }
def updExch (s : State) (id : Nat) (f : Exchange → Exchange) : State :=
  { s with exchanges := s.exchanges.map (fun e => if e.id = id then f e else e) }

/-- A delivery with its exchange. -/
def dlvOf (s : State) (id : Nat) : Option (Delivery × Exchange) :=
  (s.deliveries.find? (fun d => decide (d.id = id))).bind (fun d => (s.exchanges.find? (fun e => decide (e.id = d.exch))).map (fun e => (d, e)))

/-- Writes of a delivery to another device without a response. -/
def dlvRemote (s : State) (id : Nat) : Bool := s.outReqs.any (fun q => match q.waiter with
  | .brim d _ => decide (d = id)
  | _ => false)

/-- The last words of a released slot: BIND is written 0 and the slot is unbound; bindings that waited are made (R139). -/
def slotReleased (c n : Nat) (s : State) : State :=
  let g := slotOf (ctxOf s c) n
  let mine (e : Exchange) : Bool := decide (e.ctx = c) && decide (e.slot = n)
  if g.releasing && !s.deliveries.any (fun d => !d.isOver && s.exchanges.any (fun e => decide (e.id = d.exch) && mine e)) then
    let s1 := (localParts s g).foldl (fun s p => stepWrite s c g p wBIND 0) s
    addAgenda (updSlot s1 c n (fun _ => GridSlot.reset))
      ((s.binds.filter (fun b => decide (b.ctx = c) && decide (b.slot = n))).map (fun b => .gridBindRequest b.id))
  else s

/-- A delivery is over: its exchange may complete, and its slot may be released. -/
def dlvOver (s : State) (d : Delivery) (e : Exchange) : State :=
  let s1 := fetchDrop (updDelivery s d.id (fun d => { d with isOver := true, page := none })) (.engine d.id)
  slotReleased e.ctx e.slot (exchangeDone s1 e.id)

/-- The header of a remote write of a delivery: each delivery has a stream of its own of its Brim (R177). (DEDUCED, log 38) -/
def dlvHdr (s : State) (d : Delivery) (e : Exchange) (kind cls pa n tag : Nat) (tc : Bool) : Hdr :=
  { engineHdr s e.ctx (0x100 + e.core) kind cls pa n tag tc with stream := d.id % 16, epoch := d.id / 16 % 256 }

/-- A request of a delivery. (DEDUCED, log 38) -/
def dlvRequest (s : State) (d : Delivery) (elem : Nat) (h : Hdr) (v n : Nat) : State :=
  request s (newReq h.dst (packetOf h v n) (.brim d.id elem) true)

/-- A delivery that fails stops: the exchange keeps its first failure, and the stream of a remote rim is closed (R143). (DEDUCED, log 38) -/
def dlvFail (s : State) (d : Delivery) (e : Exchange) (f : XeFail) : State :=
  let s1 := updExch s e.id (fun e => if e.fail.isNone then { e with fail := some f } else e)
  let dev := (slotPart (slotOf (ctxOf s e.ctx) e.slot) d.target).dev
  let g := slotOf (ctxOf s e.ctx) e.slot
  let s2 := if dev ≠ devNum s ∧ d.next ≠ 0 ∧ (slabSource (gridOf g.desc) d.target d.slab).1 ≠ .external then
      dlvRequest s1 d 0 { dlvHdr s1 d e kCLOSE 0 (dev * 2 ^ 48) 1 0 false with count := d.next } 0 0
    else s1
  dlvOver s2 d e

/-- A delivery waits for a page; with the ring disabled the request counts as failed. (DEDUCED, log 38) -/
def dlvPark (s : State) (d : Delivery) (e : Exchange) (page : Nat) (f : XeFail) : State :=
  match requestPage s e.ctx page { exchRec e 1 0x1B (if f.write then 7 else 6) f.write with addr := f.addr.getD 0, cyc := s.cycle } with
  | (s1, some q) => updDelivery s1 d.id (fun d => { d with page := some q })
  | (s1, none) => dlvFail s1 d e f

/-- The checks of Brim's accesses, made under the map entry's tag in the binding context; Brim reaches no lane's stack. -/
def dlvCheck (s : State) (d : Delivery) (e : Exchange) (ga : BitVec 64) (n : Nat) (write : Bool) : State × Checked :=
  let c := ctxOf s e.ctx
  if inStack (bits c.spbase 55 0) (bits c.stkbase 55 0) ga then (s, .fault 0x10)
  else checkAccess s { deviceWho e.ctx with failed := d.failed }
    { ga := ga, n := n, align := min n 4, write := write, atom := false, tags := true }

/-- A read of Brim: it parks, fails, waits for remote bytes, or goes on with the number and whether it came from another device. What
came back is forgotten, unless `keep` says that another read follows. -/
def dlvReadThen (d : Delivery) (e : Exchange) (ga : BitVec 64) (n : Nat) (c : List Nat) (side : Nat) (keep : Bool) (eff : Nat → Bool → State → State)
    (s : State) : State :=
  let who := FetchFor.engine d.id
  let bad (cause : BitVec 8) : XeFail := causeFail cause 0 c side (some ga) false
  match dlvCheck s d e ga n false with
  | (s1, .fault cause) => dlvFail s1 d e (bad cause)
  | (s1, .page p) => dlvPark s1 d e p (bad 0x15)
  | (s1, .ok ts _) =>
    if fetching s1 who ts then fetchAsk s1 who (engineHdr s1 e.ctx (0x100 + e.core) kLOAD 0 0 1 (bits ga 59 56) false) ts
    else match fetchValue s1 none noBlock who ts with
      | .ok v =>
        let s2 := slicePass (partOfCtx s1 e.ctx) false false ts s1
        eff v (isRemote ts) (if keep then s2 else fetchDrop s2 who)
      | .error cause => dlvFail (fetchDrop s1 who) d e (bad cause)

/-- The slot, the grid and the map entries of target and source of a delivery. -/
def dlvGrid (s : State) (d : Delivery) (e : Exchange) : Grid × GridPart × GridPart :=
  let g := slotOf (ctxOf s e.ctx) e.slot
  (gridOf g.desc, slotPart g d.target, slotPart g e.part)

/-- Do the checked places of a write break what software owes a grid: storage on another device than the map names, or a partition
that was not zero at its binding (R132)? -/
def dlvAstray (s : State) (d : Delivery) (e : Exchange) (ts : List Target) : Bool :=
  let g := slotOf (ctxOf s e.ctx) e.slot
  g.spoilt.contains d.target || decide ((slotPart g d.target).dev ≠ (match ts with
    | .remote pa _ _ :: _ => pa / 2 ^ 48
    | _ => devNum s))

/-- A write of Brim to the target partition: local at once, remote as a counted store. The copy is UNKNOWN where the storage is not that
of the device that the map names, or the own partition is spoilt (R132). (DEDUCED, log 80) -/
def dlvWrite (d : Delivery) (e : Exchange) (elem : Nat) (ga : BitVec 64) (n v : Nat) (c : List Nat) (eff : State → State) (s : State) : State :=
  let bad (cause : BitVec 8) : XeFail := causeFail cause 0 c 1 (some ga) true
  let free := { s with fresh := s.fresh + 1 }
  match dlvCheck s d e ga n true with
  | (s1, .fault cause) => dlvFail s1 d e (bad cause)
  | (s1, .page p) => dlvPark s1 d e p (bad 0x15)
  | (s1, .ok [.remote pa _ tc] _) =>
    let v' := if dlvAstray s d e [.remote pa n tc] then freeNat s.fresh n else v
    eff (dlvRequest { s1 with fresh := free.fresh } d elem { dlvHdr s1 d e kSTORE 2 pa n (bits ga 59 56) tc with cnt := 1 } v' n)
  | (s1, .ok ts _) =>
    let v' := if dlvAstray s d e ts then freeNat s.fresh n else v
    match writeTargets e.core { s1 with fresh := free.fresh } (partOfCtx s1 e.ctx) v' ts with
    | some s2 => eff (updExch s2 e.id (fun e => { e with placed := e.placed + n }))
    | none => dlvFail s1 d e (bad 0x17)

/-- Does an earlier delivery of the same source into the same slab remain (R506)? -/
def dlvBehind (s : State) (d : Delivery) (e : Exchange) : Bool :=
  s.deliveries.any (fun x => !x.isOver && decide (x.id < d.id) && decide (x.target = d.target) && decide (x.slab = d.slab) &&
    s.exchanges.any (fun f => decide (f.id = x.exch) && decide (f.ctx = e.ctx) && decide (f.slot = e.slot) && decide (f.part = e.part)))

/-- BRIM_DELIVERY_POLL: BIND and PSTEP of the target are read, each by an access of its own; the delivery begins, or reads them again
256 cycles later (R140, R515). -/
def brimDeliveryPoll (id : Nat) (s : State) : State :=
  match dlvOf s id with
  | none => s
  | some (d, e) =>
    if d.begun ∨ d.isOver = true ∨ d.page.isSome then s
    else
      let (g, t, _) := dlvGrid s d e
      let later (s : State) : State := updDelivery s id (fun d => { d with pollAt := s.cycle + 256 })
      dlvReadThen d e (stepGa g t wBIND) 4 [] 1 true (fun bind _ s =>
        dlvReadThen d e (stepGa g t wPSTEP) 4 [] 1 false (fun pstep _ s =>
          if bind = 1 ∧ e.step.toNat ≤ pstep ∧ dlvBehind s d e = false then updDelivery s id (fun d => { d with begun := true })
          else later s) s) s

/-- BRIM_DELIVERY_POLL (R140, R142). -/
def execBrimDeliveryPoll (s : State) : Host.Outcome State Fault Refusal :=
  match s.event with
  | some (.brimDeliveryPoll id) => .next (brimDeliveryPoll id { s with event := none })
  | _ => .next s

/-- Has a program of the source partition stored to an element since the exchange started (R141)? -/
def elemStored (g : Grid) (q : GridPart) (e : Exchange) (i : Nat) : Bool :=
  e.stored.any (fun p => touches (q.sbase + g.bytes * i) g.bytes p.1 p.2)

/-- The value of element `j` of the slab: the constant, or the source element, UNKNOWN where it was stored to or its storage lies on
another device; `eff` writes it (R132, R141). -/
def elemValue (d : Delivery) (e : Exchange) (g : Grid) (q : GridPart) (j : Nat) (eff : Nat → State → State) (s : State) : State :=
  if (slabSource g d.target d.slab).1 = .const then eff (g.cval % 2 ^ (8 * g.bytes)) s
  else
    let i := sourceIndex g d.target d.slab j
    dlvReadThen d e (elemGa g q i) g.bytes (coordsOf (g.E 0) (g.E 1) i) 0 false (fun v far s =>
      if far || elemStored g q e i then eff (freeNat s.fresh g.bytes) { s with fresh := s.fresh + 1 } else eff v s) s

/-- Copies whose source element has been stored to since they were read become UNKNOWN in a local target (R141): of a delivery whose
step word is written too, as long as its exchange is not over and no later one has begun to write the slab. (DEDUCED, log 38) -/
def spoilSlab (d : Delivery) (e : Exchange) (s : State) : State :=
  let (g, t, q) := dlvGrid s d e
  let slot := slotOf (ctxOf s e.ctx) e.slot
  let s1 := updDelivery s d.id (fun d => { d with spoilt := e.stored.length })
  let later := s.deliveries.any (fun x => decide (d.id < x.id) && x.begun && decide (x.target = d.target) && decide (x.slab = d.slab) &&
    decide (x.disp = d.disp))
  if (slabSource g d.target d.slab).1 ≠ .map ∨ t.dev ≠ devNum s ∨ slot.dispatch ≠ d.disp ∨ later = true then s1
  else ((List.range (min d.next (slabCount g d.slab))).filter (fun j => elemStored g q e (sourceIndex g d.target d.slab j))).foldl (fun s j =>
    match dlvCheck s d e (elemGa g t (indexOf g (slabCoords g d.slab j))) g.bytes true with
    | (s2, .ok ts _) => (writeTargets e.core { s2 with fresh := s2.fresh + 1 } (partOfCtx s2 e.ctx) (freeNat s2.fresh g.bytes) ts).getD s2
    | (s2, _) => s2) s1

/-- BRIM_DELIVERY: the next element of the slab is written; an external slab has none to write. -/
def brimDelivery (id : Nat) (s : State) : State :=
  match dlvOf s id with
  | none => s
  | some (d, e) =>
    let (g, t, q) := dlvGrid s d e
    let n := slabCount g d.slab
    if d.isOver then spoilSlab d e s
    else if !d.begun ∨ d.page.isSome ∨ n ≤ d.next then s
    else if (slabSource g d.target d.slab).1 = .external then updDelivery s id (fun d => { d with next := n })
    else
      let c := slabCoords g d.slab d.next
      elemValue d e g q d.next (fun v s =>
        dlvWrite d e d.next (elemGa g t (indexOf g c)) g.bytes v c (fun s => updDelivery s id (fun d => { d with next := d.next + 1 })) s) s

/-- BRIM_DELIVERY (R140, R141, R143, R506). -/
def execBrimDelivery (s : State) : Host.Outcome State Fault Refusal :=
  match s.event with
  | some (.brimDelivery id) => .next (brimDelivery id { s with event := none })
  | _ => .next s

/-- BRIM_STEP_WORD: once every write of the delivery is placed the step word is written, a remote one as a RELEASE that covers
the delivery's stores. One that is over sees to the end of its exchange. (DEDUCED, log 38) -/
def brimStepWord (id : Nat) (s : State) : State :=
  match dlvOf s id with
  | none => s
  | some (d, e) =>
    let (g, t, _) := dlvGrid s d e
    if d.isOver then exchangeDone s e.id
    else if !d.begun ∨ d.page.isSome ∨ d.next < slabCount g d.slab ∨ dlvRemote s id = true then s
    else if d.spoilt < e.stored.length then spoilSlab d e s
    else
      let ga := stepGa g t d.slab
      let bad (cause : BitVec 8) : XeFail := causeFail cause 0 [] 1 (some ga) true
      let free := freeNat s.fresh 4
      match dlvCheck { s with fresh := s.fresh + 1 } d e ga 4 true with
      | (s1, .fault cause) => dlvFail s1 d e (bad cause)
      | (s1, .page p) => dlvPark s1 d e p (bad 0x15)
      | (s1, .ok [.remote pa _ tc] _) =>
        let count := if (slabSource g d.target d.slab).1 = .external then 0 else d.next
        dlvRequest s1 d 0 { dlvHdr s1 d e kRELEASE 0 pa 4 (bits ga 59 56) tc with count := count }
          (if dlvAstray s d e [.remote pa 4 tc] then free else e.step.toNat) 4
      | (s1, .ok ts _) =>
        match writeTargets e.core s1 (partOfCtx s1 e.ctx) (if dlvAstray s d e ts then free else e.step.toNat) ts with
        | some s2 => dlvOver s2 d e
        | none => dlvFail s1 d e (bad 0x17)

/-- BRIM_STEP_WORD (R140, R143). -/
def execBrimStepWord (s : State) : Host.Outcome State Fault Refusal :=
  match s.event with
  | some (.brimStepWord id) => .next (brimStepWord id { s with event := none })
  | _ => .next s

/-- A response to a remote write of a delivery: an ACK of a store counts its bytes, that of the RELEASE ends the delivery. -/
def brimAnswer (s : State) (id elem : Nat) (h : Hdr) (fail : Option (BitVec 8 × BitVec 8)) : State :=
  match dlvOf s id with
  | none => s
  | some (d, e) =>
    let (g, t, _) := dlvGrid s d e
    let c := slabCoords g d.slab elem
    if d.isOver then s
    else match fail with
    | some (status, cause) =>
      let f := if h.kind = kSTORE then causeFail cause 0 c 1 (some (elemGa g t (indexOf g c))) true
        else causeFail cause 0 [] 1 (some (stepGa g t d.slab)) true
      dlvFail s d e { f with status := status }
    | none => if h.kind = kSTORE then updExch s e.id (fun e => { e with placed := e.placed + h.bytes + 1 })
      else if h.kind = kRELEASE then dlvOver s d e else s

/-! ### Release of the slots of a dispatch (R139) -/

/-- The dispatch has completed: deliveries of its exchanges that have not begun are discarded, and its slots are released as
soon as the others have run to their end. An exchange whose deliveries were discarded completes as the others end; its future has
status OK if none has failed. (DESIGN CHOICE, log 37) -/
def releaseSlots (c : Nat) (disp : BitVec 64) (s : State) : State :=
  let mine := (List.range 16).filter (fun n => (slotOf (ctxOf s c) n).bound && decide ((slotOf (ctxOf s c) n).dispatch = disp))
  let s1 := mine.foldl (fun s n => updSlot s c n (fun g => { g with releasing := true })) s
  let gone := s1.deliveries.filter (fun d => decide (d.disp = disp) && !d.begun)
  let s2 := { s1 with deliveries := s1.deliveries.map (fun d => if d.disp = disp ∧ d.begun = false then { d with isOver := true, page := none } else d) }
  let s3 := (gone.map (·.exch)).eraseDups.foldl exchangeDone s2
  mine.foldl (fun s n => slotReleased c n s) s3

/-- The steps of Brim that are due: polls whose time has come, and one step of each delivery that has begun; a partition that
the thermal guard holds issues none (R140, R472). -/
def brimDue (s : State) : List Event :=
  s.deliveries.filterMap (fun d => match dlvOf s d.id with
    | none => none
    | some (d, e) =>
      if d.page.isSome || (s.thold ||| s.pwrgate).getLsbD (e.core / 64) then none
      else if d.isOver then
        (if d.begun && decide (d.spoilt < e.stored.length) && !e.cancelled then some (.brimDelivery d.id)
         else if e.fail.isSome && !exchHeld s e && !s.deliveries.any (fun x => decide (x.exch = e.id) && !x.isOver) then some (.brimStepWord d.id)
         else none)
      else if !d.begun then (if d.pollAt.toNat ≤ s.cycle.toNat then some (.brimDeliveryPoll d.id) else none)
      else if d.next < slabCount (dlvGrid s d e).1 d.slab then some (.brimDelivery d.id)
      else if dlvRemote s d.id then none else some (.brimStepWord d.id))

end Sys2Proof.Machine
end

