-- ==== Sys2Proof/Machine/Regs.lean ====
section
/-! DEFINITION. The registers that the host reads and writes: the context table of a partition function and the registers of the
management function (R480 to R483, R32, R109, R135, R405, R427, R436, R442, R449, R450, R457, R492, R497, R499, R504,
R505). -/
namespace Sys2Proof.Machine
open Sys2Proof.Forms

/-! ### Reading (R480 to R482) -/

/-- A grid slot as the context table shows it: three 64-bit words (R135). -/
def slotBits (g : GridSlot) : Nat :=
  (decide (g.bound = true)).toNat + (bits g.desc 5 5 <<< 1) + (bits g.desc 7 6 <<< 2) + (bits g.desc 1 0 <<< 4) + (g.dva.toNat <<< 8) +
  (bits g.desc 115 92 <<< 64) + (bits g.desc 133 116 <<< 88) + (bits g.dispatch 31 0 <<< 128)

/-- The team that TEAMDISP and TEAMCTL name (R450). -/
def namedTeam (x : Ctx) (ctl : BitVec 64) : TeamKey := { disp := x.teamdisp, block := bits ctl 39 8, team := bits ctl 7 4 }

/-- TEAMCTL as a read returns it: the named team's state (R450). -/
def teamCtlRead (s : State) (x : Ctx) : BitVec 64 :=
  let k := namedTeam x x.teamctl
  let st : Nat := match teamOf s k with
    | none => 8
    | some t => t.parked.toNat + 2 * t.halted.toNat + (match blockOf s k.disp k.block with
        | some b => 4 * b.saved.toNat
        | none => 0) + 8 * t.ended.toNat
  BitVec.ofNat 64 (bits x.teamctl 39 3 * 8 + (st <<< 48))

/-- A register of a context's entry by its offset (R482); an offset that names none reads zero. (DEDUCED, log 48) -/
def ctxRead (s : State) (c off : Nat) : BitVec 64 :=
  let x := ctxOf s c
  if 0x100 ≤ off ∧ off < 0x300 then
    BitVec.ofNat 64 (fld (slotBits (slotOf x ((off - 0x100) / 32))) (64 * ((off - 0x100) % 32 / 8)) 64)
  else if 0x800 ≤ off then
    let q := queueOf x ((off - 0x800) / 32)
    match (off - 0x800) % 32 / 8 with
    | 0 => q.cq
    | 1 => q.tail.setWidth 64
    | 2 => q.head.setWidth 64
    | _ => 0
  else match off / 8 with
    | 0x00 => x.ctxtr
    | 0x01 => x.ctxfab.setWidth 64
    | 0x02 => x.cmplpool
    | 0x03 => x.ctxsched
    | 0x04 => x.ctxpol
    | 0x05 => x.ctxsave
    | 0x06 => x.waitlim
    | 0x07 => x.spbase
    | 0x08 => x.stkbase
    | 0x09 => x.svcring
    | 0x0A => x.svchead.setWidth 64 ||| (x.svctail.setWidth 64 <<< 32)
    | 0x0B => x.svcdone.setWidth 64
    | 0x0C => x.fltring
    | 0x0D => x.flthead.setWidth 64 ||| (x.flttail.setWidth 64 <<< 32)
    | 0x0F => x.teamdisp
    | 0x10 => teamCtlRead s x
    | 0x11 => x.trclc
    | 0x12 => x.trclo
    | 0x13 => x.trcbc
    | 0x14 => x.trcnext.setWidth 64 ||| (x.trcdrop.setWidth 64 <<< 32)
    | 0x15 => x.ctxirq
    | _ => 0

/-- An entry of the out-of-service map (R481): the kinds are numbered as the map numbers them. (DEDUCED, log 69) -/
def unitCode (k : UnitKind) : Nat :=
  match k with
  | .core => 0 | .slice => 1 | .pchan => 2 | .cacheRouter => 3 | .fabricPort => 4 | .die => 5
def oosBits (o : OutOfService) : Nat :=
  o.u.stop.toNat + (unitCode o.u.kind <<< 16) + (1 <<< 24) + (o.u.index.toNat <<< 32) + (o.cyc.toNat <<< 64)

/-- A register of the management function by its offset (R481). (DEDUCED, log 48) -/
def mgmtRead (s : State) (off : Nat) : BitVec 64 :=
  let w (v : Word) : BitVec 64 := v.setWidth 64
  if 0x010100 ≤ off ∧ off < 0x011100 then
    match s.oosMap[(off - 0x010100) / 16]? with
    | some o => BitVec.ofNat 64 (fld (oosBits o) (64 * (off % 16 / 8)) 64)
    | none => 0
  else if 0x031000 ≤ off ∧ off < 0x031800 then mapGet 0 s.fabacl ((off - 0x031000) / 8)
  else if 0x030000 ≤ off ∧ off < 0x030020 then w (memil s ((off - 0x030000) / 8))
  else if 0x030020 ≤ off ∧ off < 0x030040 then w (netbnd s ((off - 0x030020) / 8))
  else if (0x100000 ≤ off ∧ off < 0x100028) ∨ (0x100040 ≤ off ∧ off < 0x100068) then
    let g := gateOf s ((off - 0x100000) / 64)
    match off % 64 / 8 with
    | 0 => w g.cfg
    | 1 => g.log
    | 2 => g.pos
    | 3 => g.endAt
    | _ => g.lost
  else match off with
    | 0x000000 => w s.partreq
    | 0x000008 => w s.partstat
    | 0x000010 => w s.startstat
    | 0x000020 => s.recovctl
    | 0x000028 => w s.recovstat
    | 0x010000 => w s.hlthcfg
    | 0x020000 => w s.thermcfg
    | 0x020008 => w s.thermstat
    | 0x020010 => w s.thold
    | 0x030040 => w s.pwrgate
    | 0x030048 => s.fabcfg
    | 0x030050 => w s.fabrte
    | 0x030058 => w s.fabqos
    | 0x030060 => w s.fabrto
    | 0x030068 => s.fabinc.setWidth 64
    | 0x030070 => s.fabofs
    | 0x030078 => w s.fabtstat
    | 0x040008 => w s.mbaddr
    | 0x040010 => s.mbdata
    | 0x040018 => w s.mbstat
    | 0x040020 => w s.banderr
    | 0x100080 => w s.logovf
    | 0x100100 => s.stopat
    | 0x100108 => w s.stopctl
    | 0x100110 => s.cycle
    | 0x100180 => w s.visorctl
    | 0x100188 => s.visorimg
    | _ => 0

/-- The context whose entry of a function's BAR 0 holds an offset (R482). -/
def ctxAt (s : State) (fn off : Nat) : Option (Nat × Nat) :=
  let k := (off - 0x1000000) / 4096
  if 0x1000000 ≤ off ∧ k < 1024 * (partOfQuarter s fn).2 then some (1024 * fn + k, off % 4096) else none

/-- A 64-bit register of BAR 0 of a function at an offset that is a multiple of 8 (R480). (DESIGN CHOICE, log 19) -/
def barRead (s : State) (fn off : Nat) : BitVec 64 :=
  if fn = 4 then mgmtRead s off
  else match ctxAt s fn off with
    | some (c, r) => ctxRead s c r
    | none => 0

/-! ### Writing -/

/-- The bits of a value that a register's map keeps. -/
def keep (v : BitVec 64) (mask : Nat) : BitVec 64 := v &&& BitVec.ofNat 64 mask

/-- Has the context a resident or a saved block? -/
def hasBlock (s : State) (c : Nat) : Bool := s.blocks.any (fun b => decide (b.ctx = c) && !b.exited)

/-- A ring register whose BASE and size change only while EN is 0 (R405, R427, R442). -/
def ringValue (old new : BitVec 64) (fixed mask : Nat) : BitVec 64 :=
  if bits old 63 63 = 1 ∧ bits new 63 63 = 1 then keep old fixed ||| (keep new mask &&& ~~~(BitVec.ofNat 64 fixed)) else keep new mask

/-- Bits [51:0] and [63], and the BASE and size fields of a ring register. -/
def ringMask : Nat := 0x800FFFFFFFFFFFFF
def ringFixed : Nat := 0x000FFFFFFFFFFFFF
/-- BASE and LOGSZ of a command queue. -/
def cqFixed : Nat := 0x0000FFFFFFFFFFFF

/-- Writes a plain register of a context's entry under its own rules (R109, R167, R405, R436, R442, R449, R450, R457,
R483, R484, R504). -/
def ctxWrite (s : State) (c off : Nat) (v : BitVec 64) : State :=
  let held := hasBlock s c
  updCtx s c (fun x => match off / 8 with
    | 0x01 => { x with ctxfab := (keep v 3).setWidth 32 }
    | 0x02 => { x with cmplpool := keep v 0x8FFFFFFFFFFFFFFF }
    | 0x03 => { x with ctxsched := keep v 0xFFFFFF }
    | 0x04 => { x with ctxpol := if held then keep v 7 ||| keep x.ctxpol 0xFFFF0000 else keep v 0xFFFF0007 }
    | 0x05 => { x with ctxsave := keep v 0x8FFFFFFFFFFFFFFF }
    | 0x06 => { x with waitlim := keep v 0xFFFFFFFFFFFF }
    | 0x07 => if held then x else { x with spbase := keep v 0xFFFFFFFFFFFFFF }
    | 0x08 => if held then x else { x with stkbase := keep v 0xFFFFFFFFFFFFFF }
    | 0x0A => { x with svctail := v.extractLsb' 32 32 }
    | 0x0D => { x with flttail := v.extractLsb' 32 32 }
    | 0x0F => { x with teamdisp := v }
    | 0x10 => { x with teamctl := keep v 0xFFFFFFFFF8 }
    | 0x11 => { x with trclc := keep v 0x9FFFFFFFFFFFFFFF }
    | 0x12 => { x with trclo := keep v 0xFFFFFFFFFFFFFF }
    | 0x15 => { x with ctxirq := keep v 0x80000001FFFFFFFF }
    | _ => x)

/-- What else a write of such a register brings about: a record that waited for room in the service ring (R402). -/
def ctxAfter (c off : Nat) : List Event := if off / 8 = 0x0A then [.svcRecordWrite c] else []

/-- The step that applies a TEAMCTL write to the named team (R450). -/
def teamCtlEvents (x : Ctx) (v : BitVec 64) : List Event :=
  let k := namedTeam x v
  match bits v 2 0 with
  | 1 => [.ctlHalt k]
  | 2 => [.ctlRun k]
  | 3 => [.ctlRetry k]
  | 4 => [.ctlSkip k]
  | 5 => [.ctlStep { team := k, high := decide (bits v 3 3 = 1) }]
  | 6 => [.ctlKill k]
  | _ => []

/-- The steps of a write to a context's entry; registers with steps of their own go there. -/
def ctxWriteEvents (s : State) (fn c off full : Nat) (v : BitVec 64) : List Event :=
  if 0x800 ≤ off then
    match (off - 0x800) % 32 / 8 with
    | 0 => [.cqEnable c ((off - 0x800) / 32) v]
    | 1 => [.cqDoorbell c ((off - 0x800) / 32) (v.setWidth 32)]
    | _ => []
  else if 0x100 ≤ off then []
  else match off / 8 with
    | 0x00 => [.ctxtrWrite c v]
    | 0x09 => [.svcringWrite c v]
    | 0x0B => [.svcdone c (v.setWidth 32)]
    | 0x0C => [.fltringWrite c v]
    | 0x0E => [.pgresp c v]
    | 0x10 => .registerWrite fn full v :: teamCtlEvents (ctxOf s c) v
    | 0x13 => [.trcbcWrite c v]
    | _ => [.registerWrite fn full v]

/-- The steps of a write to a register of the management function (R481). (DEDUCED, log 49) -/
def mgmtWriteEvents (off : Nat) (v : BitVec 64) : List Event :=
  match off with
  | 0x000000 => match bits v 1 0 with
      | 1 => [.partMerge (v.extractLsb' 2 2) (v.extractLsb' 4 2)]
      | 2 => [.partSplit (v.extractLsb' 2 2) (v.extractLsb' 4 2)]
      | _ => [.registerWrite 4 off v]
  | 0x000018 => [.fwcommit (v.setWidth 32)]
  | 0x000020 => .registerWrite 4 off v :: (if bits v 1 1 = 1 then [.recoveryGo] else [])
  | 0x040000 => match bits v 1 0 with
      | 1 => [.mailboxWrite]
      | 2 => [.mailboxRead]
      | _ => []
  | 0x100000 => [.cuffcfgWrite 0 (v.setWidth 32)]
  | 0x100040 => [.cuffcfgWrite 1 (v.setWidth 32)]
  | 0x100180 => match bits v 1 0 with
      | 1 => [.visorScan]
      | 2 => [.visorLoad]
      | 3 => [.visorResume]
      | _ => []
  | _ => [.registerWrite 4 off v]

/-- The steps of a write of 8 bytes to BAR 0 of a function. -/
def barWriteEvents (s : State) (fn off : Nat) (v : BitVec 64) : List Event :=
  if fn = 4 then mgmtWriteEvents off v
  else match ctxAt s fn off with
    | some (c, r) => ctxWriteEvents s fn c r off v
    | none => []

/-- A write of 4 bytes replaces one half of the register. (DEDUCED, log 62) -/
def mergeHalf (old : BitVec 64) (high : Bool) (v : Nat) : BitVec 64 :=
  if high then BitVec.ofNat 64 (bits old 31 0 + ((v % 2 ^ 32) <<< 32)) else BitVec.ofNat 64 (v % 2 ^ 32 + (bits old 63 32 <<< 32))

/-- Writes a plain register of the management function (R465, R485, R486, R492, R497, R499). (DEDUCED, log 62) -/
def mgmtWrite (s : State) (off : Nat) (v : BitVec 64) : State :=
  let half := v.setWidth 32
  match off with
  | 0x000000 => if bits v 1 0 = 3 then { s with partreq := half &&& 0x3F, partstat := 0x7 } else { s with partreq := half &&& 0x3F }
  | 0x000020 => { s with recovctl := keep v 0x03FFFFFF00000001 }
  | 0x030078 => { s with fabtstat := s.fabtstat &&& ~~~(half &&& 2) }
  | 0x040008 => { s with mbaddr := half &&& 0xFFFFFF }
  | 0x040010 => { s with mbdata := v }
  | 0x100008 => updGate s 0 (fun g => { g with log := v })
  | 0x100048 => updGate s 1 (fun g => { g with log := v })
  | 0x100018 => updGate s 0 (fun g => { g with endAt := keep v 0xFFFFFFFFF })
  | 0x100058 => updGate s 1 (fun g => { g with endAt := keep v 0xFFFFFFFFF })
  | 0x100080 => { s with logovf := s.logovf &&& ~~~(half &&& 0x1F) }
  | 0x100100 => { s with stopat := v }
  | 0x100108 => { s with stopctl := (s.stopctl &&& 4) ||| (half &&& 3) }
  | 0x100188 => { s with visorimg := v }
  | _ => s

/-- REGISTER_WRITE: a register without a step of its own (R480). -/
def registerWrite (fn off : Nat) (v : BitVec 64) (s : State) : State :=
  if fn = 4 then mgmtWrite s off v
  else match ctxAt s fn off with
    | some (c, r) => if r < 0x100 then addAgenda (ctxWrite s c r v) (ctxAfter c r) else s
    | none => s

/-- REGISTER_WRITE (R480). -/
def execRegisterWrite (s : State) : Host.Outcome State Fault Refusal :=
  match s.event with
  | some (.registerWrite fn off v) => .next (registerWrite fn off v { s with event := none })
  | _ => .next s

/-! ### Registers with a step of their own -/

/-- CTXTR_WRITE: an ASID goes stale when a context that holds it has EN cleared, and when a write changes to it (R32, R36). -/
def ctxtrWrite (c : Nat) (v : BitVec 64) (s : State) : State :=
  let old := (ctxOf s c).ctxtr
  let new := keep v 0xBFFF1FFFFFFFFFFF
  let cleared := if bits old 63 63 = 1 ∧ bits new 63 63 = 0 then [old.extractLsb' 48 13] else []
  let changed := if bits old 60 48 ≠ bits new 60 48 then [new.extractLsb' 48 13] else []
  updCtx { s with stale := (s.stale ++ cleared ++ changed).eraseDups } c (fun x => { x with ctxtr := new })

/-- CTXTR_WRITE (R32, R36). -/
def execCtxtrWrite (s : State) : Host.Outcome State Fault Refusal :=
  match s.event with
  | some (.ctxtrWrite c v) => .next (ctxtrWrite c v { s with event := none })
  | _ => .next s

/-- May a ring of `n` bytes lie at a physical address: local HBM of the partition, or the host window (R405, R427, R442)? -/
def ringPlace (s : State) (c pa n : Nat) : Bool :=
  let loc := pa % 2 ^ 48
  isLocal s pa && (decide (hostBase ≤ loc) && decide (loc + n ≤ 2 ^ 48) ||
    inWindows (partOfCtx s c) loc && inWindows (partOfCtx s c) (loc + n - 1))

/-- CQ_DOORBELL: TAIL, unless it would pass the ring's size (R427). -/
def cqDoorbell (c n : Nat) (tail : BitVec 32) (s : State) : State :=
  updQueue s c n (fun q => if (tail - q.head).toNat ≤ 2 ^ bits q.cq 47 44 then { q with tail := tail } else q)

/-- CQ_DOORBELL (R427). -/
def execCqDoorbell (s : State) : Host.Outcome State Fault Refusal :=
  match s.event with
  | some (.cqDoorbell c n tail) => .next (cqDoorbell c n tail { s with event := none })
  | _ => .next s

/-- CQ_ENABLE: a write of EN = 1 with a bad ring is ignored; EN from 0 to 1 zeroes HEAD and TAIL (R427). -/
def cqEnable (c n : Nat) (v : BitVec 64) (s : State) : State :=
  let q := queueOf (ctxOf s c) n
  let new := ringValue q.cq v cqFixed ringMask
  let bad := bits new 63 63 = 1 ∧ (12 < bits new 47 44 ∨ ringPlace s c (bits new 43 0 * 4096) (64 * 2 ^ bits new 47 44) = false)
  if bits q.cq 63 63 = 0 ∧ bad then s
  else if bits q.cq 63 63 = 0 ∧ bits new 63 63 = 1 then
    updQueue s c n (fun q => { q with cq := new, head := 0, tail := 0 })
  else updQueue s c n (fun q => { q with cq := new })

/-- CQ_ENABLE (R427). -/
def execCqEnable (s : State) : Host.Outcome State Fault Refusal :=
  match s.event with
  | some (.cqEnable c n v) => .next (cqEnable c n v { s with event := none })
  | _ => .next s

/-- SVCRING_WRITE: EN from 0 to 1 zeroes HEAD, TAIL and SEQ (R405). -/
def svcringWrite (c : Nat) (v : BitVec 64) (s : State) : State :=
  updCtx s c (fun x =>
    let new := ringValue x.svcring v ringFixed ringMask
    if bits x.svcring 63 63 = 0 ∧ bits new 63 63 = 1 then { x with svcring := new, svchead := 0, svctail := 0, svcseq := 0 }
    else { x with svcring := new })

/-- SVCRING_WRITE (R405). -/
def execSvcringWrite (s : State) : Host.Outcome State Fault Refusal :=
  match s.event with
  | some (.svcringWrite c v) => .next (svcringWrite c v { s with event := none })
  | _ => .next s

/-- FLTRING_WRITE: EN from 0 to 1 zeroes HEAD, TAIL and SEQ (R442). -/
def fltringWrite (c : Nat) (v : BitVec 64) (s : State) : State :=
  updCtx s c (fun x =>
    let new := ringValue x.fltring v ringFixed ringMask
    if bits x.fltring 63 63 = 0 ∧ bits new 63 63 = 1 then { x with fltring := new, flthead := 0, flttail := 0, fltseq := 0 }
    else { x with fltring := new })

/-- FLTRING_WRITE (R442). -/
def execFltringWrite (s : State) : Host.Outcome State Fault Refusal :=
  match s.event with
  | some (.fltringWrite c v) => .next (fltringWrite c v { s with event := none })
  | _ => .next s

/-- TRCBC_WRITE: a write of EN = 1 zeroes NEXT and DROP (R505). -/
def trcbcWrite (c : Nat) (v : BitVec 64) (s : State) : State :=
  updCtx s c (fun x => if bits v 63 63 = 1 then { x with trcbc := v, trcnext := 0, trcdrop := 0 } else { x with trcbc := v })

/-- TRCBC_WRITE (R505). -/
def execTrcbcWrite (s : State) : Host.Outcome State Fault Refusal :=
  match s.event with
  | some (.trcbcWrite c v) => .next (trcbcWrite c v { s with event := none })
  | _ => .next s

end Sys2Proof.Machine
end

