-- ==== Sys2Proof/Machine/Sync.lean ====
section
/-! DEFINITION. The barrier and future forms (R116 to R123, R394 to R398). -/
namespace Sys2Proof.Machine
open Sys2Proof.Forms

/-- A value read once for the team: it will be written to every active and helper lane of a vector destination, or once
to a scalar one (R396, R397, R310). -/
def teamResult (x : Iss) (v : Nat) (s : State) : State :=
  retire x (addFlight x false .ready (regWrites x x.f.d (fieldRegs x).1 x.all (laneValue x (fun _ => v))) [] 0 none s)

/-- The handle checks of a barrier form, made whatever the active set: its number, the pool that the slice refuses, and for forms
that need one an initialised barrier (R62, R123, R381, R394). (DEDUCED, log 30) -/
def barrierThen (x : Iss) (needs : Bool) (n : Nat) (eff : Nat → State → State) (s : State) : State :=
  if x.disp.nbar ≤ n then faultAt x 0x39 x.f.word s
  else if poolRefused s x.ctx x.block.area then faultAt x 0x42 x.f.word s
  else if needs && !poisonAt s (barrierAt x.ctx x.block.area n) 16 && !(readBar s (barrierAt x.ctx x.block.area n)).init then faultAt x 0x3A x.f.word s
  else if x.active = 0 then retire x s
  else if poisonAt s (barrierAt x.ctx x.block.area n) 16 then objectPoison x s
  else eff (barrierAt x.ctx x.block.area n) s

/-- BARINIT: barrier init with a count from 1 to 65,535 (R394). -/
def execBarinit (d : BitVec 4) (a : BitVec 8) (s : State) : Host.Outcome State Fault Refusal :=
  issue (.barinit d a) s (fun x s =>
    let n := (readU x a).toNat
    if d.toNat < x.disp.nbar ∧ (n = 0 ∨ 65535 < n) then faultAt x 0x3B x.f.word s
    else barrierThen x false d.toNat (fun pa s => retire x (barInit s pa n)) s)

/-- BARARV: a release at the scope, then one arrive (R394). -/
def execBararv (d : BitVec 4) (a : BitVec 3) (s : State) : Host.Outcome State Fault Refusal :=
  issue (.bararv d a) s (fun x => barrierThen x true d.toNat (fun pa s =>
    releaseThen x a.toNat (fun s => retire x (barArriveAt s pa)) s))

/-- BAREXP: expect (R394). -/
def execBarexp (d : BitVec 4) (a : BitVec 8) (s : State) : Host.Outcome State Fault Refusal :=
  issue (.barexp d a) s (fun x => barrierThen x true d.toNat (fun pa s => retire x (barExpectAt s pa (readU x a).toInt)))

/-- BARWAIT: one read with its watch; the wait ends when PHASE differs from the parity (R395). -/
def execBarwait (d : BitVec 4) (a : BitVec 8) (b : BitVec 3) (s : State) : Host.Outcome State Fault Refusal :=
  issue (.barwait d a b) s (fun x => barrierThen x true d.toNat (fun pa s =>
    let o := readBar s pa
    if o.phase.toNat ≠ (readU x a).toNat % 2 then leaveWait x b.toNat s
    else waitOn x pa s))

/-- The value of BARTEST (R396). -/
def barValue (o : Bar) (par : Nat) : Nat :=
  (decide (o.phase.toNat ≠ par % 2)).toNat + (o.phase.toNat <<< 1) + ((o.err % 4) <<< 2) + (o.arr <<< 16)

/-- BARTEST (R396). -/
def execBartest (d : BitVec 8) (a : BitVec 4) (b : BitVec 8) (s : State) : Host.Outcome State Fault Refusal :=
  issue (.bartest d a b) s (fun x => barrierThen x false a.toNat (fun pa s =>
    teamResult x (barValue (readBar s pa) (readU x b).toNat) s))

/-- The check of a future handle; `eff` takes the local address of its object (R116). -/
def handleThen (x : Iss) (h : Word) (eff : Nat → State → State) (s : State) : State :=
  match handleFault s x.team.ctx h with
  | some c => faultAt x c x.f.word s
  | none =>
    if x.active = 0 then retire x s
    else if poisonAt s (futureAt x.ctx (bits h 21 6) (bits h 5 0)) 32 then objectPoison x s
    else eff (futureAt x.ctx (bits h 21 6) (bits h 5 0)) s

/-- FWAIT: waits for DONE, writes the status and, without the keep suffix, retires the slot (R397). -/
def execFwait (d a : BitVec 8) (b : BitVec 1) (s : State) : Host.Outcome State Fault Refusal :=
  issue (.fwait d a b) s (fun x => handleThen x (readU x a) (fun pa s =>
    if futDone s pa then
      let v := futValue s pa
      let s1 := if b = 0 then futRetire s x.team.ctx (readU x a) else s
      leaveWait x 4 (updTeam s1 x.ref.team (fun t => writeDst t d x.active (fun _ => v) 1))
    else waitOn x pa s))

/-- FTEST: reads once; 0 while the future is pending (R397). -/
def execFtest (d a : BitVec 8) (b : BitVec 1) (s : State) : Host.Outcome State Fault Refusal :=
  issue (.ftest d a b) s (fun x => handleThen x (readU x a) (fun pa s =>
    if futDone s pa then
      teamResult x (futValue s pa) (acquire x 4 (if b = 0 then futRetire s x.team.ctx (readU x a) else s))
    else teamResult x 0 s))

/-- The operation that a future at a local address waits for; a cancelled one completes none any more (R118). -/
def opOfFuture (s : State) (pa : Nat) : Option Nat :=
  match s.xeOps.find? (fun o => decide (o.future = pa) && !o.cancelled) with
  | some o => some o.id
  | none => (s.exchanges.find? (fun e => decide (e.future = some pa) && !e.cancelled)).map (·.id)

/-- The response to a MCAST whose future is cancelled finds no future any more. -/
def mcastForget (s : State) (pa : Nat) : State :=
  { s with outReqs := s.outReqs.map (fun q => match q.waiter with
      | .mcast _ fut r => if fut = pa then { q with waiter := .close r.team 16 } else q
      | _ => q) }

/-- The cancel of R118: the future, and the engine that owns the operation. -/
def cancelFuture (s : State) (pa : Nat) : State :=
  if futDone s pa then s
  else match opOfFuture s pa with
    | some id => addAgenda (futCancel s pa) [.engineCancel id]
    | none => mcastForget (futCancel s pa) pa

/-- FCANCEL (R398). -/
def execFcancel (a : BitVec 8) (s : State) : Host.Outcome State Fault Refusal :=
  issue (.fcancel a) s (fun x => handleThen x (readU x a) (fun pa s => retire x (cancelFuture s pa)))

end Sys2Proof.Machine
end

