-- ==== Sys2Proof/Machine/Net.lean ====
section
/-! DEFINITION. Accesses at a home slice that travel the package network, objects in use, the routers and the package switch,
ports of the fabric router, refresh and patrol, and the ingress sequencer for host accesses (R56 to R62, R66 to R77, R160 to
R167, R480). -/
namespace Sys2Proof.Machine
open Sys2Proof.Forms

/-! ### Host interrupts (R484) -/

/-- Sends a message of a function's vector, at most one a cycle. (DESIGN CHOICE, log 12) -/
def interrupt (s : State) (fn vector : Nat) : State :=
  let m := HostOut.msix fn vector s.cycle
  if s.hostOut.contains m then s else { s with hostOut := s.hostOut ++ [m] }

/-- The function of the partition that a context belongs to (R479, R482). -/
def ctxFn (s : State) (c : Nat) : Nat := (partOfCtx s c).1

/-- An interrupt of a context through one of the fields of CTXIRQ. (DEDUCED, log 65) -/
def ctxInterrupt (s : State) (c hi lo : Nat) : State :=
  let q := (ctxOf s c).ctxirq
  if bits q 63 63 = 1 ∧ egress s 0 = true then interrupt s (ctxFn s c) (bits q hi lo) else s

/-- An interrupt of the management function. -/
def mgmtInterrupt (s : State) (vector : Nat) : State := interrupt s 4 vector

/-! ### Host accesses (R76, R77, R479, R480) -/

/-- The windows that a partition function reaches; none for a function that is absent. -/
def fnWindows (s : State) (fn : Nat) : Option (Nat × Nat) :=
  if fn < 4 ∧ (partOfQuarter s fn).1 = fn then some (partOfQuarter s fn) else none

/-- Do `n` bytes lie in the windows of a function? -/
def fnReaches (s : State) (fn pa n : Nat) : Bool :=
  match fnWindows s fn with
  | some p => inWindows p pa && inWindows p (pa + n - 1)
  | none => false

/-- Is a quarter of a function's partition gated (R91, R472)? (DEDUCED, log 51) -/
def fnGated (s : State) (fn : Nat) : Bool :=
  match fnWindows s fn with
  | some p => (List.range p.2).any (fun i => s.pwrgate.getLsbD (p.1 + i))
  | none => false

/-- `n` bytes of a number. -/
def numBytes (v n : Nat) : List Byte := (List.range n).map (byteOf v)

/-- The number in a list of bytes. -/
def bytesNum (l : List Byte) : Nat := leNat (fun i => l.getD i 0) 0 l.length

/-- A host read of a register or window by its number: base address register and offset above bit 48 (log 19). -/
def barAddress (bar off : Nat) : Nat := 2 ^ 48 * (bar + 1) + off

/-- What a read of a base address register other than the memory window returns: registers take 4 or 8 bytes, naturally
aligned; BAR 2 of the management function is the stored image; BAR 4 the interrupt table (R480, R486). (DESIGN CHOICE, log 19) -/
def answerBar (s : State) (fn bar off n : Nat) : HostOut :=
  let list (f : Nat → Byte) : List Byte := (List.range n).map (fun i => f (off + i))
  if bar = 0 then
    if (n = 4 ∨ n = 8) ∧ off % n = 0 then
      .completion fn ((List.range n).map (fun i => byteOf (barRead s fn (off / 8 * 8)).toNat (off % 8 + i))) false
    else .unsupported fn
  else if bar = 2 then .completion fn (list (mapGet 0 s.image)) false
  else .completion fn (list (fun i => mapGet 0 s.msixTab (65536 * fn + i))) false

/-- Answers a host read whose earlier posted writes are placed: all ones outside the windows and for poison. (DESIGN CHOICE, log 12) -/
def answerRead (s : State) (fn pa n : Nat) : State :=
  let ones : List Byte := List.replicate n 0xFF
  let out : HostOut :=
    if 2 ^ 48 ≤ pa then answerBar s fn (pa / 2 ^ 48 - 1) (pa % 2 ^ 48) n
    else if !fnReaches s fn pa n then .completion fn ones false
    else if fnGated s fn then .abort fn
    else if poisonAt s pa n then .completion fn ones true
    else .completion fn (readBytes s pa n) false
  let bypass := decide (fn = 4) && decide (2 ^ 48 + 0x100000 ≤ pa) && decide (pa < 2 ^ 49)
  if egress s 0 || bypass then { s with hostOut := s.hostOut ++ [out] } else s

/-- Answers the host reads that no earlier posted write of their function holds back any more. -/
def answerReads (s : State) : State :=
  let held (r : Nat × Nat × Nat × Nat) : Bool :=
    s.posted.any (fun p => decide (p.fn = r.1) && decide (p.num < r.2.2.2))
  (s.hostReads.filter (fun r => !held r)).foldl (fun s r => answerRead s r.1 r.2.1 r.2.2.1)
    { s with hostReads := s.hostReads.filter held }

/-- HOST_READ: it returns after every posted write of its function that arrived before it (R77). -/
def hostRead (fn pa n : Nat) (s : State) : State :=
  answerReads { s with hostReads := s.hostReads ++ [(fn, pa, n, s.postedNum)] }

/-- HOST_READ (R77). -/
def execHostRead (s : State) : Host.Outcome State Fault Refusal :=
  match s.event with
  | some (.hostRead fn pa n) => .next (hostRead fn pa n { s with event := none })
  | _ => .next s

/-- The pieces of a write at line boundaries (R59, R76). -/
def linePieces : Nat → Nat → List Byte → List (Nat × List Byte)
  | 0, _, _ => []
  | _, _, [] => []
  | fuel + 1, pa, l =>
    let k := 128 - pa % 128
    (pa, l.take k) :: linePieces fuel (pa + k) (l.drop k)

/-- HOST_POSTED_WRITE: numbered in arrival order and split at line boundaries; bytes outside the windows, and writes to a
gated partition, are discarded (R76, R472, R480). (DEDUCED, log 51) -/
def hostPostedWrite (fn pa : Nat) (bytes : List Byte) (s : State) : State :=
  let ps := (linePieces (bytes.length + 1) pa bytes).filter (fun p => fnReaches s fn p.1 p.2.length)
  if fnGated s fn ∨ ps = [] then s
  else addAgenda { s with posted := s.posted ++ [{ fn := fn, num := s.postedNum, pieces := ps, sent := false, reg := none }]
                          postedNum := s.postedNum + 1 } [.sequencerSend fn]

/-- HOST_POSTED_WRITE (R76). -/
def execHostPostedWrite (s : State) : Host.Outcome State Fault Refusal :=
  match s.event with
  | some (.hostPostedWrite fn pa bytes) => .next (hostPostedWrite fn pa bytes { s with event := none })
  | _ => .next s

/-- Management registers of 64 bits; the upper half of the others names no register (R481). -/
def wideMgmt (off : Nat) : Bool :=
  [0x20, 0x40010, 0x100008, 0x100048, 0x100018, 0x100058, 0x100100, 0x100188].contains (off / 8 * 8)

/-- The steps of a register write of 4 or 8 bytes, naturally aligned; another size is an Unsupported Request (R480). (DEDUCED, log 51) -/
def registerTlp (t : Tlp) (s : State) : State :=
  let v := bytesNum t.data
  if t.len = 8 ∧ t.off % 8 = 0 then nowAgenda s (barWriteEvents s t.fn t.off (BitVec.ofNat 64 v))
  else if t.len = 4 ∧ t.off % 4 = 0 then
    let o := t.off / 8 * 8
    if t.off % 8 = 4 ∧ t.fn = 4 ∧ wideMgmt o = false then s
    else nowAgenda s (barWriteEvents s t.fn o (mergeHalf (barRead s t.fn o) (decide (t.off % 8 = 4)) v))
  else { s with hostOut := s.hostOut ++ [.unsupported t.fn] }

/-- A register write is a posted write: it waits for the earlier ones of its function (R76). (DEDUCED, log 51) -/
def postRegister (t : Tlp) (s : State) : State :=
  if s.posted.any (fun p => decide (p.fn = t.fn)) then
    { s with posted := s.posted ++ [{ fn := t.fn, num := s.postedNum, pieces := [], sent := false, reg := some t }], postedNum := s.postedNum + 1 }
  else registerTlp t s

/-- The cache router of a line's home slice for a partition (R54, R55). -/
def homeNode (s : State) (part : Nat × Nat) (pa : Nat) : Nat × Nat × Nat × Nat :=
  let h := sliceOf s part pa
  (h / 512, h / 8 % 8, h / 64 % 8, 1)

/-- SEQUENCER_SEND: the pieces of the oldest posted write of the function leave together, once every piece of every earlier
one has been placed; a register write takes effect then (R76). -/
def sequencerSend (fn : Nat) (s : State) : State :=
  match s.posted.find? (fun p => decide (p.fn = fn)) with
  | none => s
  | some p => match p.reg with
    | some t => answerReads (registerTlp t (nowAgenda { s with posted := s.posted.filter (fun q => decide (q ≠ p)) } [.sequencerSend fn]))
    | none =>
      if p.sent then s
      else
      let pkts := p.pieces.map (fun (pa, l) =>
        { cls := 0, at_ := none, dest := some (homeNode s (partOfQuarter s fn) pa), src := 4, second := true, inp := 32,
          req := { pa := pa, op := .write, size := l.length, data := BitVec.ofNat 1024 (leNat (fun i => l.getD i 0) 0 l.length),
                   cmp := 0, src := some (fn, p.num) } : NetPkt })
      { s with network := s.network ++ pkts, posted := s.posted.map (fun q => if q = p then { q with sent := true } else q) }

/-- SEQUENCER_SEND (R76 to R78). -/
def execSequencerSend (s : State) : Host.Outcome State Fault Refusal :=
  match s.event with
  | some (.sequencerSend fn) => .next (sequencerSend fn { s with event := none })
  | _ => .next s

/-! ### SLICE_ACCESS (R56 to R60) -/

/-- A piece of a posted write has been placed: the next write of the function may go, and reads behind it return. -/
def piecePlaced (s : State) (fn num pa : Nat) : State :=
  let s1 := { s with posted := (s.posted.map (fun p => if p.fn = fn ∧ p.num = num
      then { p with pieces := p.pieces.filter (fun x => decide (x.1 ≠ pa)) } else p)).filter (fun p => decide (p.pieces ≠ []) || p.reg.isSome) }
  addAgenda (answerReads s1) [.sequencerSend fn]

/-- The access itself: a write that covers a poisoned sector only in part is discarded (R58, R480). -/
def slicePerform (q : SliceReq) (s : State) : State :=
  match q.op with
  | .read | .tagRead => s
  | .write => if coversPoison s q.pa q.size then writeNat s q.pa q.size q.data.toNat else s
  | .atomic op =>
    if poisonAt s q.pa q.size then s
    else writeNat s q.pa q.size (atomicResult op (8 * q.size) (readMem s q.pa q.size) (q.data.toNat % 2 ^ (8 * q.size)) q.cmp.toNat)
  | .tagWrite => l1KillIn { s with tags := mapSet 0 s.tags (q.pa / 32) (q.data.setWidth 4) } (partOfQuarter s (q.pa / quarterBytes)) (q.pa / 32 * 32) 32

/-- SLICE_ACCESS: one access to a line, performed as one step. -/
def sliceAccess (q : SliceReq) (s : State) : State :=
  let s1 := slicePerform q s
  match q.src with
  | some (fn, num) => piecePlaced s1 fn num q.pa
  | none => s1

/-- SLICE_ACCESS (R57). -/
def execSliceAccess (s : State) : Host.Outcome State Fault Refusal :=
  match s.event with
  | some (.sliceAccess q) => .next (sliceAccess q { s with event := none })
  | _ => .next s

/-! ### Object operations (R62, R110, R120, R121) -/

/-- An object operation on a local address; one in the host window is refused. -/
def objAt (pa : Nat) (f : State → State) (s : State) : State := if hostBase ≤ pa then s else f s

/-- OBJ_ARRIVE: an arrival, or the arrival of a number of bytes; at a barrier with INIT = 0 it is discarded (R121). -/
def execObjArrive (s : State) : Host.Outcome State Fault Refusal :=
  match s.event with
  | some (.objArrive pa n) => .next (objAt pa (fun s => if (readBar s pa).init then (match n with
      | none => barArriveAt s pa
      | some b => barBytesAt s pa b.toNat) else s) { s with event := none })
  | _ => .next s

/-- OBJ_EXPECT: bytes are added to the current phase (R121). -/
def execObjExpect (s : State) : Host.Outcome State Fault Refusal :=
  match s.event with
  | some (.objExpect pa b) => .next (objAt pa (fun s => if (readBar s pa).init then barExpectAt s pa b.toInt else s)
      { s with event := none })
  | _ => .next s

/-- OBJ_COMPLETE: the status is written and DONE set, once (R62). -/
def execObjComplete (s : State) : Host.Outcome State Fault Refusal :=
  match s.event with
  | some (.objComplete pa r) => .next (objAt pa (fun s => futComplete s pa r) { s with event := none })
  | _ => .next s

/-- OBJ_CANCEL: status CANCELLED and DONE, unless DONE stands (R62, R118). -/
def execObjCancel (s : State) : Host.Outcome State Fault Refusal :=
  match s.event with
  | some (.objCancel pa) => .next (objAt pa (fun s => cancelFuture s pa) { s with event := none })
  | _ => .next s

/-- BARRIER_INIT (R110). -/
def execBarrierInit (s : State) : Host.Outcome State Fault Refusal :=
  match s.event with
  | some (.barrierInit pa n) => .next (objAt pa (fun s => barInit s pa n.toNat) { s with event := none })
  | _ => .next s

/-! ### The stacked network (R66 to R71) -/

/-- The output a packet takes: 0 up or down, 1 north, 2 east, 3 south, 4 west, 5 bridge; 6 at its destination; the switch
names the bridge of quarter and row. -/
inductive NetOut where
  | port (dir : Nat) (dst : Nat × Nat × Nat × Nat)
  | toSwitch
  | bridge (dst : Nat × Nat × Nat × Nat)
  | arrived
  | unit                                -- at a unit of the I/O die
  deriving DecidableEq, Repr

/-- A move in x, then in y, on one layer (R68). (DESIGN CHOICE, log 47) -/
def moveXY (q x y l dx dy : Nat) : Option NetOut :=
  if x < dx then some (.port 2 (q, x + 1, y, l))
  else if dx < x then some (.port 4 (q, x - 1, y, l))
  else if y < dy then some (.port 3 (q, x, y + 1, l))
  else if dy < y then some (.port 1 (q, x, y - 1, l))
  else none

/-- The route of a packet from where it stands (R68, R69). (DESIGN CHOICE, log 47) -/
def netRoute (p : NetPkt) : NetOut :=
  match p.at_, p.dest with
  | none, some (dq, _, dy, _) => .bridge (dq, 0, dy, 1)
  | none, none => .unit
  | some (q, x, y, l), some (dq, dx, dy, dl) =>
    if q = dq ∧ l = 0 ∧ dl = 0 then (moveXY q x y 0 dx dy).getD .arrived
    else if l = 0 then (if q = dq ∧ x = dx ∧ y = dy ∧ dl = 0 then .arrived else .port 0 (q, x, y, 1))
    else if q = dq then
      match moveXY q x y 1 dx dy with
      | some o => o
      | none => if dl = 0 then .port 0 (q, x, y, 0) else .arrived
    else if x = 0 then .toSwitch
    else .port 4 (q, x - 1, y, 1)
  | some (q, x, y, l), none =>
    if l = 0 then .port 0 (q, x, y, 1) else if x = 0 then .toSwitch else .port 4 (q, x - 1, y, 1)

/-- The number of a router, and the key of one of its outputs; switch outputs lie above them. (DESIGN CHOICE, log 47) -/
def nodeKey (n : Nat × Nat × Nat × Nat) : Nat := ((n.1 * 8 + n.2.2.1) * 8 + n.2.1) * 2 + n.2.2.2
def outKey (p : NetPkt) : Nat :=
  match p.at_, netRoute p with
  | some n, .port d _ => nodeKey n * 8 + d
  | some n, .toSwitch => nodeKey n * 8 + 5
  | some n, _ => nodeKey n * 8 + 6
  | none, .bridge dst => 65536 + 8 * dst.1 + dst.2.2.1
  | none, _ => 65536 + 64

/-- Does the switch forward from a source quarter to a quarter; traffic of the I/O die is not masked (R71)? -/
def switchPasses (s : State) (src q : Nat) : Bool := decide (4 ≤ src) || (netbnd s src).getLsbD q

/-- Does a quarter accept main-network traffic: it is not gated, and no wake of it is still under way (R91)? -/
def quarterOpen (s : State) (q : Nat) : Bool :=
  !s.pwrgate.getLsbD q && decide ((mapGet 0 s.wakeAt q).toNat ≤ s.cycle.toNat)

/-- The packet after its hop, with the input it comes in by: opposite to the direction it went. -/
def hopTo (p : NetPkt) : NetPkt :=
  match netRoute p with
  | .port d dst => { p with at_ := some dst, inp := match d with
      | 0 => 0
      | 1 => 3
      | 2 => 4
      | 3 => 1
      | _ => 2 }
  | .toSwitch => { p with at_ := none, second := true, inp := match p.at_ with
      | some n => 8 * n.1 + n.2.2.1
      | none => p.inp }
  | .bridge dst => { p with at_ := some dst, inp := 5 }
  | _ => p

/-- A packet hop in the network: the output's pointer goes past the input it granted; at the destination the slice performs the
access; the switch drops what the mask refuses (R70, R71). -/
def netHop (n : Nat) (s : State) : State :=
  match s.network[n]? with
  | none => s
  | some p =>
    let s1 := { s with arb := mapSet 0 s.arb (outKey p) (p.inp + 1) }
    let rest := s.network.eraseIdx n
    match netRoute p with
    | .arrived => addAgenda { s1 with network := rest } [.sliceAccess p.req]
    | .unit => { s1 with network := rest }
    | .bridge dst =>
      if !switchPasses s p.src dst.1 then { s1 with network := rest }
      else if quarterOpen s dst.1 then { s1 with network := s.network.set n (hopTo p) } else s
    | _ => { s1 with network := s.network.set n (hopTo p) }

/-! ### Ports of the fabric router (R160 to R167) -/

/-- Flits of a packet (R157). -/
def pktFlits (p : Packet) : Nat := 1 + p.data.length

/-- The virtual-channel queue that a packet stands in: port, class and VC (R164). -/
def vcOf (q : PortPkt) : Nat × Nat × Nat := (q.port, (hdrOf q.pkt).cls, (hdrOf q.pkt).vc)

/-- Flits per round of a class: 0 is read as 1 (R167). (DEDUCED, log 48) -/
def qosWeight (s : State) (k : Nat) : Nat := max 1 (bits s.fabqos (8 * k + 7) (8 * k))

/-- Does a packet head its virtual-channel queue (R164)? -/
def headsQueue (s : State) (n : Nat) : Bool :=
  match s.portQ[n]? with
  | none => false
  | some q => !(s.portQ.take n).any (fun r => decide (vcOf r = vcOf q))

/-- A packet's rank at its port's arbiter: the first input from the pointer on, then response, request, engine data (R70, R167). -/
def portRank (s : State) (q : PortPkt) : Nat :=
  ((q.inp + 64 - mapGet 0 s.drr (8 * q.port + 5) % 64) % 64) * 4 + (match (hdrOf q.pkt).cls with
    | 1 => 0
    | 0 => 1
    | _ => 2)

/-- The packet of a QOS class that a port serves next, and its place in the list: of those that head their queues the first by rank,
and of one rank the oldest (R70, R167). (DEDUCED, log 48) -/
def classHead (s : State) (port k : Nat) : Option (Nat × PortPkt) :=
  ((List.range s.portQ.length).filterMap (fun i => match s.portQ[i]? with
    | some q => if q.port = port ∧ (hdrOf q.pkt).qos = k ∧ headsQueue s i = true then some (i, q) else none
    | none => none)).foldl (fun best p => match best with
      | none => some p
      | some b => if portRank s p.2 < portRank s b.2 then some p else some b) none

/-- Deficit round robin at a port: the packet granted and the counters then (R167). -/
def drrPick (s : State) (port : Nat) : Nat → SMap Nat → Option (Nat × SMap Nat)
  | 0, _ => none
  | fuel + 1, m =>
    let k := mapGet 0 m (8 * port + 4)
    let left := mapGet 0 m (8 * port + k)
    let k' := (k + 1) % 4
    let onward (m : SMap Nat) : SMap Nat :=
      mapSet 0 (mapSet 0 m (8 * port + 4) k') (8 * port + k') (mapGet 0 m (8 * port + k') + qosWeight s k')
    match classHead s port k with
    | none => drrPick s port fuel (onward (mapSet 0 m (8 * port + k) 0))
    | some (i, q) =>
      if pktFlits q.pkt ≤ left then some (i, mapSet 0 m (8 * port + k) (left - pktFlits q.pkt))
      else drrPick s port fuel (onward m)

/-- The next packet behind one that leaves becomes the head of its queue now (R165). -/
def newHead (s : State) (gone : PortPkt) (l : List PortPkt) : List PortPkt :=
  match (List.range l.length).find? (fun i => match l[i]? with
      | some q => decide (vcOf q = vcOf gone)
      | none => false) with
  | some i => l.modify i (fun q => { q with since := s.cycle })
  | none => l

/-- A packet at a port goes onto the link. (DEDUCED, log 65) -/
def portHop (n : Nat) (s : State) : State :=
  match s.portQ[n]? with
  | none => s
  | some q =>
    if portUp s q.port then
      { s with portQ := newHead s q (s.portQ.eraseIdx n)
               outbox := if egress s 1 then s.outbox ++ [(q.port, q.pkt)] else s.outbox
               drr := match drrPick s q.port 64 s.drr with
                 | some (i, m) => if i = n then mapSet 0 m (8 * q.port + 5) ((q.inp + 1) % 31) else s.drr
                 | none => s.drr }
    else s

/-- PACKET_HOP: numbers from 65,536 on name packets at the fabric's ports (R68, R70, R160 to R167). -/
def packetHop (n : Nat) (s : State) : State := if n < 65536 then netHop n s else portHop (n - 65536) s

/-- PACKET_HOP (R68, R70). -/
def execPacketHop (s : State) : Host.Outcome State Fault Refusal :=
  match s.event with
  | some (.packetHop n) => .next (packetHop n { s with event := none })
  | _ => .next s

/-- May a packet move in this network cycle? -/
def hopReady (s : State) (p : NetPkt) : Bool :=
  match netRoute p with
  | .bridge dst => !switchPasses s p.src dst.1 || quarterOpen s dst.1
  | _ => true

/-- The winner of an output: the first input from its pointer on, then response, request, engine data; of the two virtual channels of
one class at one input, which R70 does not order, the packet that stands first in the network list (R70). (DESIGN CHOICE, log 47) -/
def winner (s : State) (key : Nat) : Option NetPkt :=
  let ptr := mapGet 0 s.arb key
  let rank (p : NetPkt) : Nat :=
    ((p.inp + 64 - ptr % 64) % 64) * 4 + (match p.cls.toNat with
      | 1 => 0
      | 0 => 1
      | _ => 2)
  (s.network.filter (fun p => decide (outKey p = key) && hopReady s p)).foldl (fun best p => match best with
    | none => some p
    | some b => if rank p < rank b then some p else some b) none

/-- The hops of one network cycle: each output of a router, a bridge or the switch grants once; every packet that is at its
destination is taken, in the port order of R57. -/
def netPhase (s : State) : State × List Event :=
  let there (p : NetPkt) : Bool := decide (netRoute p = .arrived)
  let wins := (((s.network.filter (fun p => !there p)).map outKey).eraseDups.filterMap (winner s))
  let order := (List.range 65).flatMap (fun i => (s.network.filter there ++ wins).filter (fun p => decide (p.inp = i)))
  order.foldl (fun acc p =>
    let n := acc.1.network.idxOf p
    (netHop n acc.1, acc.2 ++ [.packetHop n])) (s, [])

/-- The packets that the ports' arbiters grant in one network cycle. -/
def portPhase (s : State) : State × List Event :=
  (List.range 30).foldl (fun acc p => match drrPick acc.1 p 64 acc.1.drr with
    | some (i, _) => if portUp acc.1 p then (portHop i acc.1, acc.2 ++ [.packetHop (65536 + i)]) else acc
    | none => acc) (s, [])

/-- The hops of the two network cycles of a core cycle. -/
def hopsDue (s : State) : List Event :=
  let (s1, a) := netPhase s
  let (_, b) := netPhase s1
  let (s2, c) := portPhase s
  let (_, d) := portPhase s2
  a ++ b ++ c ++ d

/-! ### Refresh and patrol (R74, R75) -/

/-- REFRESH_TICK: pseudo-channel `p` of every stack is refreshed (R74). -/
def execRefreshTick (s : State) : Host.Outcome State Fault Refusal :=
  match s.event with
  | some (.refreshTick p) => .next { s with event := none, refreshed := mapSet 0 s.refreshed p s.cycle }
  | _ => .next s

/-- Lines of a pseudo-channel: a 64 GiB stack over 64 pseudo-channels. -/
def patrolLines : Nat := 2 ^ 23

/-- PATROL_SCRUB: the next line of each pseudo-channel is read (R75). -/
def execPatrolScrub (s : State) : Host.Outcome State Fault Refusal :=
  match s.event with
  | some .patrolScrub => .next { s with event := none, patrol := (s.patrol + 1) % patrolLines }
  | _ => .next s

/-- The pseudo-channels that are refreshed in a cycle (R74). -/
def refreshDue (s : State) : List Event :=
  (List.range 64).filterMap (fun p => if s.cycle.toNat % 1170 = 18 * p then some (.refreshTick p) else none)

/-- The patrol step of a cycle (R75). -/
def patrolDue (s : State) : List Event := if s.cycle.toNat % 65536 = 0 then [.patrolScrub] else []

end Sys2Proof.Machine
end

