-- ==== Sys2Proof/Machine/Service.lean ====
section
/-! DEFINITION. The rings of a context and what the host answers: fault records, page responses with the retries of the side
log, service records and their answers, and the flushing read of a release at sys (R205, R211, R402 to R405, R442 to R446,
R451 to R453). -/
namespace Sys2Proof.Machine
open Sys2Proof.Forms

/-! ### FAULT_RECORD_WRITE (R443, R444) -/

/-- The 64 bytes of a record. -/
def recBits (c : Nat) (seq : BitVec 32) (r : FaultRec) : Nat :=
  seq.toNat + (r.kind.toNat <<< 32) + (r.cause.toNat <<< 40) + (r.flags.toNat <<< 48) + (c <<< 64) + (r.team.toNat <<< 80) +
  (r.acc.toNat <<< 88) + (r.lane.toNat <<< 96) + (r.core.toNat <<< 112) + (r.part.toNat <<< 120) + (r.disp.toNat <<< 128) +
  (r.block.toNat <<< 192) + (r.info.toNat <<< 224) + (r.pc.toNat <<< 256) + (r.addr.toNat <<< 320) + (r.info2.toNat <<< 384) +
  (r.cyc.toNat <<< 448)

/-- The requests of a context, changed at one identity. -/
def updPage (s : State) (c : Nat) (id : BitVec 32) (f : PageReq → PageReq) : State :=
  updCtx s c (fun x => { x with pages := x.pages.map (fun p => if p.id = id then f p else p) })

/-! ### Retries of the side log (R451, R452) -/

/-- A record of KIND 0 and the stop it brings, without the park of the team. -/
def sideFault (s : State) (e : SideEntry) (cause : BitVec 8) : State :=
  match teamOf s e.split.team with
  | none => s
  | some t =>
    let stop := decide (bits (ctxOf s t.ctx).ctxpol 0 0 = 1)
    let acc : BitVec 8 := match e.op with
      | .atomic _ => 3
      | _ => 1
    let f : FaultSpec := { cause := cause, pc := e.pc, lanes := 0, atInstr := false, lane := e.lane, acc := acc, addr := some e.ga,
                           write := true, info := 1, info2 := 0, side := true }
    let s1 := queueRec s t.ctx { teamRec s t 0 cause with
      entry := 2 * t.slot + e.split.high.toNat, flags := faultFlags f stop, acc := acc, lane := BitVec.ofNat 16 e.lane, info := 1
      pc := e.pc.setWidth 64, addr := e.ga }
    let s2 := updDisp s1 t.key.disp (fun d => { d with faulted := true })
    if stop then stopDispatch s2 t.key.disp 3 else s2

/-- An entry that fails stays, marked, until an instruction that must wait for it parks the team. (DEDUCED, log 57) -/
def failEntry (s : State) (e : SideEntry) (cause : BitVec 8) : State :=
  sideFault { s with sideLog := s.sideLog.map (fun x => if x = e then { x with failed := true } else x) } e cause

/-- The entry's access at the home slice or toward the other device; none where its sector is poisoned. -/
def performEntry (s : State) (t : Team) (e : SideEntry) (ts : List Target) : Option State :=
  match e.op with
  | .atomic op =>
    match ts with
    | [.remote pa n tc] =>
      some (teamRequest s t { teamHdr s t kREDUCE (pa / 2 ^ 48) pa n (bits e.ga 59 56) tc with op := op.code } e.data.toNat n
        (.team e.split [e.lane] [e.data.setWidth 64] 0 0 0 e.pc e.ga 3))
    | _ => (atomAt t.core s (partOfCtx s t.ctx) t.key.disp t.key.block ts op (8 * e.size) e.data.toNat 0).map (·.1)
  | _ => storePieces s t e.split e.lane e.pc e.ga ts e.size e.data.toNat

/-- One retry: a fresh walk and every later check; a page that is invalid again opens a new request. -/
def retryEntry (pageFail : List Nat) (s : State) (e : SideEntry) : State :=
  match teamOf s e.split.team with
  | none => { s with sideLog := s.sideLog.erase e }
  | some t =>
    let d := (dispOf s t.key.disp).getD noDispatch
    let w : Who := { ctx := e.ctx, via := .pipe t.core t.part, spBytes := d.spBytes, slot := t.stackSlot, lane := e.lane, failed := pageFail }
    let atom := match e.op with
      | .atomic _ => true
      | _ => false
    match checkAccess s w { ga := e.ga, n := e.size, align := 1, write := true, atom := atom, tags := true } with
    | (s1, .fault c) => failEntry s1 e c
    | (s1, .page p) =>
      match requestPage s1 e.ctx p { teamRec s1 t 1 0x1B with
          entry := 2 * t.slot + e.split.high.toNat, flags := 37, acc := if atom then 3 else 1, lane := BitVec.ofNat 16 e.lane
          pc := e.pc.setWidth 64, addr := e.ga } with
      | (s2, some q) => { s2 with sideLog := s2.sideLog.map (fun x => if x = e then { x with seq := q } else x) }
      | (s2, none) => failEntry s2 e 0x15
    | (s1, .ok ts _) =>
      match performEntry s1 t e ts with
      | some s2 => { s2 with sideLog := s2.sideLog.erase e }
      | none => failEntry s1 e 0x17

/-- Is the team of an entry saved, or stopped for a save? Its retries wait for the restore (R453, R462). -/
def entrySaved (s : State) (e : SideEntry) : Bool :=
  match blockOf s e.split.team.disp e.split.team.block with
  | some b => b.saved || b.saving
  | none => false

/-- Retries, in entry order, of the entries of a core's teams that wait for an answered request (R451). -/
def retryEntries (c : Nat) (id : BitVec 32) (pageFail : List Nat) (s : State) : State :=
  (s.sideLog.filter (fun e => decide (e.ctx = c) && decide (e.seq = id) && !e.failed && !entrySaved s e)).foldl
    (retryEntry pageFail) s

/-- Drops the answered requests of a context that no entry of a saved team waits for. -/
def dropPages (s : State) (c : Nat) : State :=
  updCtx s c (fun x => { x with pages := x.pages.filter (fun p => p.answered.isNone ||
    s.sideLog.any (fun e => decide (e.ctx = c) && decide (e.seq = p.id) && !e.failed)) })

/-! ### PGRESP (R446) -/

/-- A split held at its access goes on once every request it waits for is answered; the failed pages are remembered. -/
def pageAnswer (id : BitVec 32) (page : Nat) (ok : Bool) (sp : Split) : Split :=
  match sp.hold with
  | .page l =>
    if l.contains id then
      let rest := l.filter (· ≠ id)
      { sp with hold := if rest = [] then .none else .page rest, pageFail := if ok then sp.pageFail else page :: sp.pageFail }
    else sp
  | _ => sp

/-- What an answer brings to everyone who waits for a request of a context. -/
def answerPage (c : Nat) (p : PageReq) (ok : Bool) (s : State) : State :=
  let add (l : List Nat) : List Nat := if ok then l else p.page :: l
  let s1 := updPage s c p.id (fun p => { p with answered := some ok })
  let s2 := { s1 with
    teams := s1.teams.map (fun t => if t.ctx = c then
      { t with low := t.low.map (pageAnswer p.id p.page ok), high := t.high.map (pageAnswer p.id p.page ok) } else t)
    xeOps := s1.xeOps.map (fun o => if o.ctx = c ∧ o.parked = some p.id then { o with parked := none, pageFail := add o.pageFail } else o)
    mqOps := s1.mqOps.map (fun q => if q.page.contains p.id ∧ ((teamOf s1 q.split.team).map (·.ctx)) = some c then
      { q with page := q.page.filter (· ≠ p.id), failed := add q.failed } else q)
    deliveries := s1.deliveries.map (fun d =>
      if d.page = some p.id ∧ s1.exchanges.any (fun e => decide (e.id = d.exch) && decide (e.ctx = c)) = true then
        { d with page := none, failed := add d.failed } else d)
    binds := s1.binds.map (fun b => if b.ctx = c ∧ b.page = some p.id then { b with page := none, failed := add b.failed } else b) }
  let s3 := updCtx s2 c (fun x => { x with queues := x.queues.map (fun q =>
    if q.2.page = some p.id then (q.1, { q.2 with page := none, failed := add q.2.failed }) else q) })
  let failed := if ok then [] else [p.page]
  dropPages (stepAnswer c p.id failed (retryEntries c p.id failed s3)) c

/-- PGRESP: every access that waits for the request named tries again, or fails; a binding tries again at once. -/
def pgresp (c : Nat) (v : BitVec 64) (s : State) : State :=
  match (ctxOf s c).pages.find? (fun p => decide (p.seq = some (v.setWidth 32)) && p.answered.isNone) with
  | none => s
  | some p =>
    addAgenda (answerPage c p (decide (bits v 32 32 = 0)) s)
      ((s.binds.filter (fun b => decide (b.ctx = c) && decide (b.page = some p.id))).map (fun b => .gridBindRequest b.id))

/-- PGRESP (R446). -/
def execPgresp (s : State) : Host.Outcome State Fault Refusal :=
  match s.event with
  | some (.pgresp c v) => .next (pgresp c v { s with event := none })
  | _ => .next s

/-- FAULT_RECORD_WRITE: the first record that waits is written, HEAD advances and the host is told; a full ring keeps it; with
the ring disabled it is discarded, and a page request counts as failed (R443). -/
def faultRecordWrite (c : Nat) (s : State) : State :=
  let x := ctxOf s c
  match x.faultQ with
  | [] => s
  | r :: rest =>
    let size := bits x.fltring 51 44 * 4096
    let pa := (bits x.fltring 43 0 * 4096) % 2 ^ 48 + x.flthead.toNat
    if bits x.fltring 63 63 = 0 then
      let s1 := updCtx s c (fun x => { x with faultQ := rest })
      match r.req.bind (fun id => x.pages.find? (fun p => decide (p.id = id) && p.answered.isNone)) with
      | some p => answerPage c p false s1
      | none => s1
    else if (x.flthead.toNat + 64) % size = x.flttail.toNat then s
    else
      let s1 := if poisonAt s pa 64 && decide (pa < hostBase) then s else writeNat s pa 64 (recBits c x.fltseq r)
      let s2 := updCtx s1 c (fun x => { x with
        faultQ := rest, flthead := BitVec.ofNat 32 ((x.flthead.toNat + 64) % size), fltseq := x.fltseq + 1
        pages := match r.req with
          | some id => x.pages.map (fun p => if p.id = id then { p with seq := some x.fltseq } else p)
          | none => x.pages })
      ctxInterrupt s2 c 10 0

/-- FAULT_RECORD_WRITE (R443). -/
def execFaultRecordWrite (s : State) : Host.Outcome State Fault Refusal :=
  match s.event with
  | some (.faultRecordWrite c) => .next (faultRecordWrite c { s with event := none })
  | _ => .next s

/-- The record writes of a cycle: one for each record that waits and finds room. (DEDUCED, log 46) -/
def recordsDue (s : State) : List Event :=
  s.ctxs.flatMap (fun p => List.replicate p.2.faultQ.length (.faultRecordWrite p.1))

/-! ### Service calls (R402 to R405) -/

/-- Free bytes of the service ring: all of it when HEAD = TAIL. -/
def svcFree (x : Ctx) : Nat :=
  let size := bits x.svcring 51 44 * 4096
  if x.svchead = x.svctail then size else (x.svctail.toNat + size - x.svchead.toNat) % size

/-- The 64 bytes of a call record's header (R404). -/
def svcHeader (x : Ctx) (c : Nat) (r : SvcRec) (n : Nat) : Nat :=
  x.svcseq.toNat + ((64 + 64 * n) <<< 32) + (r.code.toNat <<< 72) + (n <<< 80) + (r.split.team.disp.toNat <<< 128) +
  ((r.split.team.block % 2 ^ 32) <<< 192) + ((r.split.team.team % 256) <<< 224) + (r.pc.toNat <<< 256) + ((c % 65536) <<< 320)

/-- The 64 bytes of a lane block: the lane index, and vA to vA + 7, UNKNOWN where an operation in flight writes (R260, R404). -/
def laneBlock (fresh : Nat) (t : Team) (reg l : Nat) : Nat :=
  l + (List.range 8).foldl (fun n k => n +
    ((if pendingReg t (reg + k) l then unknown fresh (vKey (reg + k) l) else vReg t (reg + k) l).toNat <<< (256 + 32 * k))) 0

/-- Writes one call record at an offset of the ring. -/
def writeSvc (s : State) (c : Nat) (x : Ctx) (r : SvcRec) (t : Team) (off : Nat) : State :=
  let base := (bits x.svcring 43 0 * 4096) % 2 ^ 48
  let ls := lanesOf (lanes t) r.lanes
  (List.range ls.length).foldl (fun s i => writeNat s (base + off + 64 + 64 * i) 64 (laneBlock s.fresh t r.reg (ls.getD i 0)))
    (writeNat s (base + off) 64 (svcHeader x c r ls.length))

/-- SVC_RECORD_WRITE: the oldest call that waits for the ring is written, after a padding record where it would wrap, once the
ring has room; HEAD advances, the host is told, and the split parks. -/
def svcRecordWrite (c : Nat) (s : State) : State :=
  let x := ctxOf s c
  match x.svcQ with
  | [] => s
  | r :: rest =>
    let s0 := updCtx s c (fun x => { x with svcQ := rest })
    match teamOf s r.split.team with
    | none => s0
    | some t => match splitIn t r.split.high with
      | none => s0
      | some _ =>
        let size := bits x.svcring 51 44 * 4096
        let n := (lanesOf (lanes t) r.lanes).length
        let z := 64 + 64 * n
        let left := size - x.svchead.toNat
        let pad := if left < z then left else 0
        let at_ := if left < z then 0 else x.svchead.toNat
        if pad + z < svcFree x then
          let base := (bits x.svcring 43 0 * 4096) % 2 ^ 48
          let s1 := if pad = 0 then s0 else writeNat s0 (base + x.svchead.toNat) 64 ((pad <<< 32) + (1 <<< 64))
          let s2 := writeSvc s1 c x r t at_
          let s3 := updCtx s2 c (fun x => { x with
            svchead := BitVec.ofNat 32 ((at_ + z) % size), svcseq := x.svcseq + 1
            svcOpen := x.svcOpen ++ [{ seq := x.svcseq, split := r.split, reg := r.reg, lanes := r.lanes, pa := base + at_ + 64 }] })
          let s4 := updSplit s3 r.split (fun sp => { sp with hold := .service x.svcseq r.reg r.lanes })
          addAgenda (ctxInterrupt { s4 with fresh := s.fresh + 1 } c 21 11) [.svcRecordWrite c]
        else s

/-- SVC_RECORD_WRITE (R402, R404). -/
def execSvcRecordWrite (s : State) : Host.Outcome State Fault Refusal :=
  match s.event with
  | some (.svcRecordWrite c) => .next (svcRecordWrite c { s with event := none })
  | _ => .next s

/-- Word `k` of the results of the `i`th lane block of a record. -/
def svcWord (s : State) (o : SvcOpen) (i k : Nat) : Word := BitVec.ofNat 32 (readMem s (o.pa + 64 * i + 32 + 4 * k) 4)

/-- Does the split of a call still wait for its answer? -/
def svcWaits (s : State) (o : SvcOpen) : Bool :=
  match (splitOf s o.split).map (·.hold) with
  | some (Hold.service q _ _) => decide (q = o.seq)
  | _ => false

/-- SVCDONE: the lanes' results are written to their registers and the split is ready at the instruction after SVC; a number
that names no parked split has no effect (R403). -/
def svcdone (c : Nat) (seq : BitVec 32) (s : State) : State :=
  match (ctxOf s c).svcOpen.find? (fun o => decide (o.seq = seq) && svcWaits s o) with
  | none => s
  | some o =>
    let s1 := updCtx s c (fun x => { x with svcOpen := x.svcOpen.filter (fun p => decide (p.seq ≠ seq)), svcdone := seq })
    let s2 := updTeam s1 o.split.team (fun t =>
      let ls := lanesOf (lanes t) o.lanes
      (List.range 8).foldl (fun t k => putV (markLost t (o.reg + k) o.lanes) (o.reg + k) o.lanes (fun l => svcWord s o (ls.idxOf l) k)) t)
    updSplit s2 o.split (fun sp => { sp with hold := .none })

/-- SVCDONE (R403). -/
def execSvcdone (s : State) : Host.Outcome State Fault Refusal :=
  match s.event with
  | some (.svcdone c seq) => .next (svcdone c seq { s with event := none })
  | _ => .next s

/-- PCIE_COMPLETION: the flushing read of a number has completed; its split goes on (R211). -/
def execPcieCompletion (s : State) : Host.Outcome State Fault Refusal :=
  match s.event with
  | some (.pcieCompletion n) => .next { s with event := none
                                               flushes := s.flushes.map (fun f => if f.1 = n then (flushDone, f.2) else f) }
  | _ => .next s

end Sys2Proof.Machine
end

