-- ==== Sys2Proof/Machine/System.lean ====
section
/-! DEFINITION. Traps and the return from them, service calls, special registers, counting and breakpoints (R399 to
R410). -/
namespace Sys2Proof.Machine
open Sys2Proof.Forms

/-- TRAP n: requests a user trap for the active set; in handler state it is the double-trap fault (R399, R400). -/
def execTrap (a : BitVec 8) (s : State) : Host.Outcome State Fault Refusal :=
  issue (.trap a) s (fun x s =>
    if x.active = 0 then retire x s
    else if x.split.handler.isSome then faultAt x 0x56 0 s
    else retire x (requestTrap s x.ref
      { high := x.ref.high, num := 0, cause := 0x01, exc := 0, info := a, lanes := x.active, addr := x.pc }))

/-- SVC n: a release at sys, one record, and the park of the split (R402); without a service ring it is a fault (R405). (DEDUCED, log 30) -/
def execSvc (d a : BitVec 8) (s : State) : Host.Outcome State Fault Refusal :=
  issue (.svc d a) s (fun x s =>
    if bits x.ctx.svcring 63 63 = 0 then faultAt x 0x43 x.f.word s
    else if x.active = 0 then retire x s
    else releaseThen x 5 (fun s =>
      let s1 := updSplit (retire x s) x.ref (fun sp => { sp with hold := .stall .service })
      let s2 := updCtx s1 x.team.ctx (fun c => { c with
        svcQ := c.svcQ ++ [{ split := x.ref, code := a, reg := d.toNat, pc := x.pc, lanes := x.active }] })
      addAgenda s2 [.svcRecordWrite x.team.ctx]) s)

/-- RTE: ends handler state and resumes at TRAPPC, if the mask and the stack depth are those at entry (R401). -/
def execRte (s : State) : Host.Outcome State Fault Refusal :=
  issue .rte s (fun x s =>
    if x.active = 0 then retire x s
    else match x.split.handler with
      | none => faultAt x 0x57 0 s
      | some h =>
        if h.mask ≠ x.split.mask ∨ h.depth ≠ x.split.stack.length then faultAt x 0x57 0 s
        else
          let s1 := updSplit (retireTo x (x.team.trapPc.setWidth 56) s) x.ref (fun sp => returnFromTrap sp h x.team.trapPc)
          addAgenda s1 (if x.team.traps = [] then [] else
            [.userTrapEntry x.ref, .userTrapEntry { x.ref with high := !x.ref.high }]))

/-- SPLITSTAT of the reading split (R407). -/
def splitStat (x : Iss) : Nat :=
  (decide (x.team.low.isSome ∧ x.team.high.isSome)).toNat + (x.split.handler.isSome.toNat <<< 1) +
  ((x.split.stack.length % 256) <<< 2) + (x.ref.high.toNat <<< 10)

/-- The value of a special register; `i` is the index of TRAPMASK (R406, R407, R441). -/
def specialValue (x : Iss) (n i : Nat) : Nat :=
  match n with
  | 0x00 => x.split.mode.toNat
  | 0x01 => x.team.trapVec.toNat
  | 0x02 => x.ctx.waitlim.toNat
  | 0x03 => x.ctx.spbase.toNat
  | 0x04 => x.ctx.stkbase.toNat
  | 0x05 => x.team.bbBase.toNat
  | 0x06 => splitStat x
  | 0x08 => x.team.trapPc.toNat
  | 0x09 => x.team.trapInfo.toNat
  | 0x0A => x.team.trapRows.toNat
  | 0x0B => if i < 32 then bits x.team.trapMask (32 * i + 31) (32 * i) else 0
  | 0x0C => x.team.trapCause.toNat
  | 0x0D => x.team.trapAddr.toNat
  | _ => 0

/-- RDSR (R406). -/
def execRdsr (d : BitVec 8) (a : BitVec 4) (b : BitVec 8) (s : State) : Host.Outcome State Fault Refusal :=
  issue (.rdsr d a b) s (fun x s =>
    if x.active = 0 then retire x s
    else retire x (updTeam s x.ref.team (fun t =>
      writeDst t d x.active (fun _ => specialValue x a.toNat (readU x b).toNat) (fieldRegs x).1)))

/-! ### BBHINT counters (R409) -/

/-- The part of BBBASE that keys a counter: EN, BASE and TAG. -/
def bbKey (v : BitVec 64) : BitVec 64 := v &&& 0x0FFFFFFFFFFFFF81

/-- The BASE and TAG of a key. -/
def bbPlace (v : BitVec 64) : BitVec 64 := v &&& 0x0FFFFFFFFFFFFF80

/-- A failed write-back sets ERR in the BBBASE of every team of the context with its BASE and TAG. (DEDUCED, log 25) -/
def bbError (s : State) (c : Nat) (base : BitVec 64) : State :=
  { s with teams := s.teams.map (fun t =>
      if t.ctx = c ∧ bbPlace t.bbBase = bbPlace base then { t with bbBase := t.bbBase ||| 2 } else t) }

/-- Writes a counter back: every check of R52, no page request, and a 64-bit add; where EN = 0 the traffic is the same and nothing is
added, so that a remote reduction adds 0. (DEDUCED, log 25) -/
def bbWriteback (core : Nat) (s : State) (k : BbCounter) : State :=
  let ga := bbPlace k.base + BitVec.ofNat 64 (8 * k.n)
  let w : Who := { ctx := k.ctx, via := .core core, spBytes := 0, slot := 0, lane := 0, failed := [] }
  match checkAccess s w { ga := ga, n := 8, align := 8, write := true, atom := true, tags := true } with
  | (s1, .ok [.mem pa _ cp] _) =>
    let s2 := sliceTouch s1 (partOfCtx s1 k.ctx) cp false pa 8 (decide (bits k.base 0 0 = 1))
    if poisonAt s1 pa 8 then bbError s1 k.ctx k.base
    else if bits k.base 0 0 = 0 then s2
    else atomMemBy core s2 pa 8 (byteOf ((readMem s2 pa 8 + k.count.toNat) % 2 ^ 64))
  | (s1, .ok [.remote pa _ tc] _) =>
    let h : Hdr := { kind := kREDUCE, qos := bits (ctxOf s1 k.ctx).ctxfab 1 0, src := devNum s1, dst := pa / 2 ^ 48,
                     inc := s1.fabinc.toNat, tag := bits ga 59 56, tc := tc.toNat, op := AOp.add.code, bytes := 7,
                     addr := pa % 2 ^ 48, asid := bits (ctxOf s1 k.ctx).ctxtr 60 48 }
    request s1 (newReq (pa / 2 ^ 48) (packetOf h (if bits k.base 0 0 = 0 then 0 else k.count.toNat) 8) (.counter k.ctx k.base) true)
  | (s1, _) => bbError s1 k.ctx k.base

/-- Counts one BBHINT in the core's cache; a counter that finds no room evicts one. -/
def bbCount (s : State) (core c : Nat) (base : BitVec 64) (n : Nat) : State :=
  let k := coreOf s core
  let at_ (i : Nat) : Option BbCounter := mapGet none k.bbhint i
  let hit := (List.range 256).find? (fun i => match at_ i with
    | some e => decide (e.ctx = c) && decide (e.base = base) && decide (e.n = n)
    | none => false)
  let free := (List.range 256).find? (fun i => (at_ i).isNone)
  let put (s : State) (i : Nat) (e : BbCounter) : State := updCore s core (fun k => { k with
    bbhint := mapSet none k.bbhint i (some e), bbtree := plruTouch i 8 1 k.bbtree })
  match hit, free with
  | some i, _ => put s i (match at_ i with
      | some e => { e with count := e.count + 1 }
      | none => ⟨c, base, n, 1⟩)
  | none, some i => put s i ⟨c, base, n, 1⟩
  | none, none =>
    let i := plruVictim k.bbtree 8 1 0
    let s1 := match at_ i with
      | some e => bbWriteback core s e
      | none => s
    put s1 i ⟨c, base, n, 1⟩

/-- Writes back and drops every counter of a key. -/
def bbFlush (s : State) (core c : Nat) (base : BitVec 64) : State :=
  let mine (p : Nat × Option BbCounter) : Option BbCounter := match p.2 with
    | some e => if e.ctx = c ∧ e.base = bbKey base then some e else none
    | none => none
  let l := (coreOf s core).bbhint.filterMap mine
  let s1 := updCore s core (fun k => { k with bbhint := k.bbhint.filter (fun p => (mine p).isNone) })
  l.foldl (bbWriteback core) s1

/-- BBHINT (R409). -/
def execBbhint (a : BitVec 8) (s : State) : Host.Outcome State Fault Refusal :=
  issue (.bbhint a) s (fun x s =>
    if x.active = 0 then retire x s
    else retire x (bbCount s x.team.core x.team.ctx (bbKey x.team.bbBase) ((readU x a).toNat % 65536)))

/-- WRSR: TRAPVEC, BBBASE and, in handler state, TRAPPC; a value that breaks the map is a handle fault (R406, R407, R409,
R441). (DEDUCED, log 40) -/
def execWrsr (d : BitVec 4) (a : BitVec 8) (s : State) : Host.Outcome State Fault Refusal :=
  issue (.wrsr d a) s (fun x s =>
    let v := readU64 x a
    let bad := if d = 5 then decide (bits v 6 2 ≠ 0) || decide (bits v 63 60 ≠ 0)
      else decide (bits v 63 56 ≠ 0) || decide (bits v 1 0 ≠ 0)
    if bad then faultAt x 0x3F x.f.word s
    else if x.active = 0 then retire x s
    else if d = 5 then
      retire x (updTeam (bbFlush s x.team.core x.team.ctx x.team.bbBase) x.ref.team (fun t => { t with bbBase := v }))
    else if d = 1 then retire x (updTeam s x.ref.team (fun t => { t with trapVec := v }))
    else retire x (updTeam (updSplit s x.ref (fun sp => { sp with handler := sp.handler.map (fun h => { h with wrote := true }) }))
      x.ref.team (fun t => { t with trapPc := v })))

/-- CYCLE: PKG_CYCLE or FABCYC; in ordered mode the block's retired instructions (R408, R184). -/
def execCycle (d : BitVec 8) (a : BitVec 1) (s : State) : Host.Outcome State Fault Refusal :=
  issue (.cycle d a) s (fun x s =>
    let v : BitVec 64 := if x.disp.ordered then x.block.retired else if a = 1 then s.cycle + s.fabofs else s.cycle
    if x.active = 0 then retire x s
    else retire x (updTeam s x.ref.team (fun t => writeDst t d x.active (fun _ => v.toNat) 2)))

/-- BKPT: halts the team where the host has enabled breakpoints (R410). -/
def execBkpt (a : BitVec 8) (s : State) : Host.Outcome State Fault Refusal :=
  issue (.bkpt a) s (fun x s =>
    if x.active = 0 ∨ bits x.ctx.ctxpol 2 2 = 0 then retire x s
    else
      let s1 := retire x (updSplit s x.ref (fun sp => { sp with stepping := false }))
      raiseNotice (updTeam s1 x.ref.team (fun t => { t with halted := true })) x.team 0x60 x.pc (a.setWidth 32))

end Sys2Proof.Machine
end

