-- ==== Sys2Proof/Machine/Fabric.lean ====
section
/-! DEFINITION. The fabric router: requests of other devices at the target, responses at the source, retransmission, peer
resets, links, count alignment and the forwarding of packets that pass through (R153 to R186). -/
namespace Sys2Proof.Machine
open Sys2Proof.Forms

/-! ### The target: checks (R159, R171, R181) -/

/-- The local address and bytes of a request. -/
def reqBytes (h : Hdr) : Nat := h.bytes + 1

/-- Does a kind write? -/
def kindWrites (k : Nat) : Bool := decide (k ≠ kLOAD) && decide (k < kDATA)

/-- FABACL of the source, the partition it names, whether it is enabled for one, and whether a request passes it (R171). -/
def aclOf (s : State) (src : Nat) : BitVec 64 := mapGet 0 s.fabacl src
def aclPart (s : State) (src : Nat) : Nat × Nat := partOfQuarter s (bits (aclOf s src) 39 38)
def aclNames (s : State) (h : Hdr) : Bool :=
  decide (bits (aclOf s h.src) 0 0 = 1) && decide ((aclPart s h.src).1 = bits (aclOf s h.src) 39 38)
def aclPasses (s : State) (h : Hdr) : Bool :=
  let a := aclOf s h.src
  aclNames s h &&
  (decide (h.kind = kCLOSE) ||
    (within (h.addr / 2 ^ 30) (bits a 19 2) (bits a 37 20) && (!kindWrites h.kind || decide (bits a 1 1 = 1))))

/-- Are the bytes in the windows of the partition that the entry names, and is none of its quarters gated (R171, R472)? -/
def aclWindows (s : State) (h : Hdr) : Bool :=
  let p := aclPart s h.src
  inWindows p h.addr && inWindows p (h.addr + h.bytes) && !(List.range p.2).any (fun i => s.pwrgate.getLsbD (p.1 + i))

/-- Does the operand keep its natural alignment: atomics, reductions and the store of a RELEASE (R159)? -/
def reqAligned (h : Hdr) : Bool :=
  if within h.kind 2 4 then (decide (reqBytes h = 4) || decide (reqBytes h = 8)) && decide (h.addr % reqBytes h = 0) else true

/-- The first failing check of a request, as its ERROR code: PERM, XLATE, ALIGN, TAG, POISON (R159, R171). (DEDUCED, log 52) -/
def reqError (s : State) (h : Hdr) : Option Nat :=
  let n := reqBytes h
  if !aclPasses s h then some 1
  else if h.kind = kCLOSE then none
  else if !aclWindows s h then some 3
  else if !reqAligned h then some 6
  else if h.tc = 1 ∧ tagsMatch s none (BitVec.ofNat 4 h.tag) h.addr n = false then some 2
  else if (if within h.kind 2 3 || decide (h.kind = kLOAD) then poisonAt s h.addr n else !coversPoison s h.addr n) then some 4
  else none

/-- A response to a request: its kind, an error code and data. -/
def replyTo (s : State) (h : Hdr) (kind op v n : Nat) : Packet :=
  packetOf { kind := kind, cls := 1, qos := h.qos, src := devNum s, dst := h.src, inc := s.fabinc.toNat, reqid := h.reqid, op := op,
             bytes := n - 1 } v n

/-- Sends a packet; where no route is up it is lost. -/
def sendPacket (s : State) (p : Packet) : State := (inject s p).1

/-- Keeps the response of a write request: the 256 most recent of each source (R181). (DEDUCED, log 52) -/
def cacheReply (s : State) (h : Hdr) (p : Packet) : State :=
  let key : BitVec 8 := BitVec.ofNat 8 h.src
  let mine := ((key, BitVec.ofNat 16 h.reqid, p) :: s.replies.filter (fun r => decide (r.1 = key))).take 256
  { s with replies := mine ++ s.replies.filter (fun r => decide (r.1 ≠ key)) }

/-- Answers a write request. -/
def answerWrite (s : State) (h : Hdr) (kind op v n : Nat) : State :=
  let p := replyTo s h kind op v n
  sendPacket (cacheReply s h p) p

/-- Is a packet of a peer's present incarnation (R183)? -/
def incFits (s : State) (h : Hdr) : Bool :=
  if h.src = devNum s then decide (h.inc = s.fabinc.toNat) else decide ((mapGet (0 : BitVec 16) s.peerInc h.src).toNat = h.inc)

/-- The reply kept for a request. -/
def cachedReply (s : State) (h : Hdr) : Option Packet :=
  (s.replies.find? (fun r => decide (r.1.toNat = h.src) && decide (r.2.1.toNat = h.reqid))).map (·.2.2)

/-- A write request at the target: a stale incarnation is discarded; a retransmission is answered from the cache and never
performed again; else `fresh` takes it (R171, R181, R183). (DEDUCED, log 52) -/
def writeRequest (p : Packet) (again : Packet → State → State) (fresh : Hdr → State → State) (s : State) : State :=
  let h := hdrOf p
  if !incFits s h then s
  else if h.retx = 1 then
    (if !aclPasses s h then sendPacket s (replyTo s h kERROR 1 0 0)
     else match cachedReply s h with
       | some q => again q s
       | none => sendPacket s (replyTo s h kERROR 5 0 0))
  else fresh h s

/-- The access of a request at its home slice, which allocates the line as for CP = WB (R168). -/
def homePass (s : State) (h : Hdr) (write : Bool) : State := sliceTouch s (aclPart s h.src) 0 false h.addr (reqBytes h) write
def homeWrite (s : State) (h : Hdr) (v : Nat) : State := writeNat (homePass s h true) h.addr (reqBytes h) v

/-! ### The stream table (R176) -/

/-- The key of a packet's stream. -/
def streamMatches (h : Hdr) (e : StreamEntry) : Bool :=
  decide (e.src.toNat = h.src) && decide (e.asid.toNat = h.asid) && decide (e.engf = decide (h.engf = 1)) &&
  decide (e.tslot.toNat = h.tslot) && decide (e.stream.toNat = h.stream) && decide (e.epoch.toNat = h.epoch)

def streamOf (s : State) (h : Hdr) : Option StreamEntry := s.streamTab.find? (streamMatches h)
def newStream (h : Hdr) : StreamEntry :=
  { src := BitVec.ofNat 8 h.src, asid := BitVec.ofNat 13 h.asid, engf := decide (h.engf = 1), tslot := BitVec.ofNat 15 h.tslot,
    stream := BitVec.ofNat 4 h.stream, epoch := BitVec.ofNat 8 h.epoch, count := 0, held := none }

/-- Has the table an entry or room for one? -/
def streamRoom (s : State) (h : Hdr) : Bool := (streamOf s h).isSome || decide (s.streamTab.length < 4096)
def streamAlloc (s : State) (h : Hdr) : State :=
  if (streamOf s h).isSome then s else { s with streamTab := s.streamTab ++ [newStream h] }
def updStream (s : State) (h : Hdr) (f : StreamEntry → StreamEntry) : State :=
  { s with streamTab := s.streamTab.map (fun e => if streamMatches h e then f e else e) }
def dropStream (s : State) (h : Hdr) : State := { s with streamTab := s.streamTab.filter (fun e => !streamMatches h e) }

/-- A BUSY response (R176). -/
def busyReply (s : State) (h : Hdr) : State := sendPacket s (replyTo s h kBUSY 0 0 0)

/-- A RELEASE or CLOSE whose count has been reached: its own store is made, the entry freed, and it is answered. -/
def releasePerform (s : State) (p : Packet) : State :=
  let h := hdrOf p
  let s1 := dropStream s h
  match reqError s1 h with
  | some op => answerWrite s1 h kERROR op 0 0
  | none => answerWrite (if h.kind = kRELEASE then homeWrite s1 h (flitData p.data) else s1) h kACK 0 0 0

/-- Performs the RELEASE or CLOSE that an entry holds once its count is reached. -/
def streamSettled (s : State) (h : Hdr) : State :=
  match streamOf s h with
  | some e => match e.held with
    | some p => if (hdrOf p).count ≤ e.count.toNat then releasePerform s p else s
    | none => s
  | none => s

/-- A counted store has settled: placed, or answered with ERROR. -/
def countStore (s : State) (h : Hdr) : State :=
  if h.cnt = 1 then streamSettled (updStream s h (fun e => { e with count := e.count + 1 })) h else s

/-! ### The target: requests -/

/-- FAB_LOAD: DATA or ERROR; a retransmission is performed again (R168, R171, R181). -/
def fabLoad (p : Packet) (s : State) : State :=
  let h := hdrOf p
  if !incFits s h then s
  else match reqError s h with
    | some op => sendPacket s (replyTo s h kERROR op 0 0)
    | none => sendPacket (homePass s h false) (replyTo s h kDATA 0 (readMem s h.addr (reqBytes h)) (reqBytes h))

/-- FAB_LOAD (R168). -/
def execFabLoad (s : State) : Host.Outcome State Fault Refusal :=
  match s.event with
  | some (.fabLoad p) => .next (fabLoad p { s with event := none })
  | _ => .next s

/-- A store or reduction, counted or not: `perform` makes it. FABACL comes first: a request that fails it performs nothing, but counts
as settled for the RELEASE of a source that FABACL lets through (R171, R176). (DEDUCED, log 52) -/
def plainWrite (p : Packet) (perform : Hdr → State → State) (s : State) : State :=
  writeRequest p (fun q s => sendPacket s q) (fun h s =>
    if !aclPasses s h then
      let s1 := answerWrite s h kERROR 1 0 0
      if h.cnt = 1 ∧ aclNames s h = true ∧ streamRoom s h = true then countStore (streamAlloc s1 h) h else s1
    else if h.cnt = 1 ∧ streamRoom s h = false then busyReply s h
    else
      let s1 := if h.cnt = 1 then streamAlloc s h else s
      match reqError s1 h with
      | some op => countStore (answerWrite s1 h kERROR op 0 0) h
      | none => countStore (answerWrite (perform h s1) h kACK 0 0 0) h) s

/-- FAB_STORE (R168, R174, R176). -/
def execFabStore (s : State) : Host.Outcome State Fault Refusal :=
  match s.event with
  | some (.fabStore p) => .next (plainWrite p (fun h s => homeWrite s h (flitData p.data)) { s with event := none })
  | _ => .next s

/-- The operands of an ATOMIC or REDUCE: the value, and above it the compare value of a swap. (DESIGN CHOICE, log 31) -/
def reqOperands (p : Packet) (h : Hdr) : Nat × Nat :=
  (fld (flitData p.data) 0 (8 * reqBytes h), fld (flitData p.data) (8 * reqBytes h) (8 * reqBytes h))

/-- The word after the operation of a request (R60). -/
def reqResult (p : Packet) (h : Hdr) (m : Nat) : Nat :=
  atomicResult (AOp.ofCode h.op) (8 * reqBytes h) m (reqOperands p h).1 (reqOperands p h).2

/-- The operation of an ATOMIC or REDUCE at its word; one with an OP that names no operation leaves a free value there (R60, R158).
(DESIGN CHOICE, log 52 and log 77) -/
def reqOperate (p : Packet) (h : Hdr) (s : State) : State :=
  if h.op ≤ 10 then homeWrite s h (reqResult p h (readMem s h.addr (reqBytes h)))
  else homeWrite { s with fresh := s.fresh + 1 } h ((unknown s.fresh 0).toNat + ((unknown s.fresh 1).toNat <<< 32))

/-- FAB_ATOMIC: the word before the operation is returned (R60, R168). -/
def fabAtomic (p : Packet) (s : State) : State :=
  writeRequest p (fun q s => sendPacket s q) (fun h s =>
    match reqError s h with
    | some op => answerWrite s h kERROR op 0 0
    | none =>
      let m := readMem s h.addr (reqBytes h)
      answerWrite (reqOperate p h s) h kDATA 0 m (reqBytes h)) s

/-- FAB_ATOMIC (R60, R168, R172). -/
def execFabAtomic (s : State) : Host.Outcome State Fault Refusal :=
  match s.event with
  | some (.fabAtomic p) => .next (fabAtomic p { s with event := none })
  | _ => .next s

/-- FAB_REDUCE (R60, R168, R174). -/
def execFabReduce (s : State) : Host.Outcome State Fault Refusal :=
  match s.event with
  | some (.fabReduce p) => .next (plainWrite p (reqOperate p) { s with event := none })
  | _ => .next s

/-- A RELEASE or CLOSE: it is held until its count is reached (R176). FABACL comes first: one that fails it performs nothing, and its
entry is freed, since no other would free it (R171). (DEDUCED, log 52) -/
def countedRelease (p : Packet) (s : State) : State :=
  writeRequest p (fun q s => sendPacket s q) (fun h s =>
    if !aclPasses s h then answerWrite (dropStream s h) h kERROR 1 0 0
    else if !streamRoom s h then busyReply s h
    else streamSettled (updStream (streamAlloc s h) h (fun e => { e with held := some p })) h) s

/-- FAB_RELEASE (R176). -/
def execFabRelease (s : State) : Host.Outcome State Fault Refusal :=
  match s.event with
  | some (.fabRelease p) => .next (countedRelease p { s with event := none })
  | _ => .next s

/-- FAB_CLOSE (R171, R176). -/
def execFabClose (s : State) : Host.Outcome State Fault Refusal :=
  match s.event with
  | some (.fabClose p) => .next (countedRelease p { s with event := none })
  | _ => .next s

/-! ### Chain multicast (R178, R179) -/

/-- The chain's first data flit as a number: peers in bytes 0 to 7, first error code in byte 8, failing index in byte 9. -/
def chainFlit (p : Packet) : Nat := (p.data.headD 0).toNat
def chainPeer (p : Packet) (i : Nat) : Nat := fld (chainFlit p) (8 * i) 8

/-- A peer that fails records its code and index, unless an earlier one has. -/
def chainFailed (p : Packet) (op : Nat) : Packet :=
  let h := hdrOf p
  if h.errf = 1 then p
  else { hdr := hdrFlit { h with errf := 1 }
         data := BitVec.ofNat 256 (chainFlit p % 2 ^ 64 + (op <<< 64) + (h.pidx <<< 72)) :: p.data.tail }

/-- The packet to the next peer, or the last peer's answer to the source. (DEDUCED, log 53) -/
def chainOn (s : State) (p : Packet) : Packet :=
  let h := hdrOf p
  if h.pidx + 1 < h.npeer then rehdr p (fun h => { h with dst := chainPeer p (h.pidx + 1), pidx := h.pidx + 1, vc := 0, det := 0, esc := 0 })
  else
    let failed := decide (h.errf = 1)
    let r : Hdr := { kind := if failed then kERROR else kACK, cls := 1, qos := h.qos, src := devNum s, dst := h.src, inc := s.fabinc.toNat,
                     reqid := h.reqid, op := if failed then fld (chainFlit p) 64 8 else 0, npeer := h.npeer,
                     pidx := if failed then fld (chainFlit p) 72 8 else 0 }
    packetOf r 0 0

/-- FAB_MCAST: the payload is written under this peer's own checks, and the packet goes on. -/
def fabMcast (p : Packet) (s : State) : State :=
  writeRequest p (fun q s => sendPacket s (if (hdrOf q).kind = kMCAST then rehdr q (fun h => { h with retx := 1 }) else q)) (fun h s =>
    let bad := reqError s h
    let s1 := if bad.isNone then homeWrite s h (flitData p.data.tail) else s
    let q := chainOn s1 (match bad with
      | some op => chainFailed p op
      | none => p)
    sendPacket (cacheReply s1 h q) q) s

/-- FAB_MCAST (R178, R179). -/
def execFabMcast (s : State) : Host.Outcome State Fault Refusal :=
  match s.event with
  | some (.fabMcast p) => .next (fabMcast p { s with event := none })
  | _ => .next s

/-! ### The source: what a response brings (R159, R168 to R172, R179, R183) -/

/-- How a request ends: data, or the status and the cause of its failure, with the peer that was reset. -/
inductive ReqEnd where
  | done (v : Nat)
  | failed (status cause : BitVec 8) (peer : BitVec 64)
  deriving DecidableEq, Repr

/-- The values that the lanes of a combined group receive from the word that came back. -/
def groupValues (h : Hdr) (lanes : List Nat) (vals : List (BitVec 64)) (v : Nat) : List (Nat × Nat) :=
  let n := reqBytes h
  if h.kind = kLOAD then lanes.map (fun l => (l, extend n (decide (vals.headD 0 = 1)) (v % 2 ^ (8 * n))))
  else (List.range lanes.length).map (fun i =>
    (lanes.getD i 0, fetched (AOp.ofCode h.op) (8 * n) (v % 2 ^ (8 * n)) (vals.map (·.toNat)) i))

/-- The future of an RMCAST: every byte, or those of the peers before the first that failed; a future that its slice refuses is
reported (R62, R112, R179). (DEDUCED, log 45 and log 53) -/
def mcastDone (s : State) (q : OutReq) (c fut : Nat) (sp : SplitRef) (r : ReqEnd) (idx : Nat) : State :=
  let h := hdrOf q.packet
  let res : FutureResult := match r with
    | .done _ => { status := 0, bytes := satBytes (reqBytes h * h.npeer), coord := 0, side := 0 }
    | .failed st _ _ => { status := st, bytes := satBytes (reqBytes h * idx), coord := 0, side := if within st.toNat 3 8 then 1 else 0 }
  releaseAreas (if objRefused s c fut then
      (match teamOf s sp.team with
        | some t => queueRec s c { teamRec s t 2 0x42 with entry := 2 * t.slot + sp.high.toNat }
        | none => s)
    else futComplete s fut res)

/-- What the end of a request brings to the one who waits for it. -/
def landReq (s : State) (q : OutReq) (r : ReqEnd) (idx : Nat) : State :=
  let h := hdrOf q.packet
  match q.waiter, r with
  | .team sp ls vals code regs flight _ _ _, .done v =>
    updFlight s sp.team flight (fun e => flightValues e code regs (groupValues h ls vals v))
  | .team sp ls _ _ _ flight pc ga acc, .failed _ cause peer =>
    lateFault (updFlight s sp.team flight (fun e => flightDrop e ls)) sp cause pc ls acc ga peer
  | .close _ _, _ => s
  | .counter _ _, .done _ => s
  | .counter c base, .failed _ _ _ => bbError s c base
  | .engine op _, .done _ => updXe s op (fun o => { o with placed := o.placed + reqBytes h })
  | .engine op elem, .failed st cause _ =>
    match xeOf s op with
    | none => s
    | some o =>
      let f := causeFail cause elem ((tensorOf o.dst).coords elem) 1 (match elemPair o elem with
        | .ok (_, d) => some d
        | .error _ => none) true
      xeFail s op { f with status := st }
  | .brim d elem, .done _ => brimAnswer s d elem h none
  | .brim d elem, .failed st cause _ => brimAnswer s d elem h (some (st, cause))
  | .mcast c fut sp, _ => mcastDone s q c fut sp r idx
  | .fetch (.lane _ 1024) _, _ => s
  | .fetch who pa, .done v => fetchLanded { s with fetched := s.fetched ++ [{ who := who, pa := pa, val := v, cause := 0 }] } who
  | .fetch who pa, .failed _ cause _ => fetchLanded { s with fetched := s.fetched ++ [{ who := who, pa := pa, val := 0, cause := cause }] } who
where
  /-- A binding goes on once its bytes are here. -/
  fetchLanded (s : State) (who : FetchFor) : State :=
    match who with
    | .bind op => addAgenda s [.gridBindRequest op]
    | _ => s

/-- A team that ended while a response was outstanding leaves the tables with the last one if its block has ended, and its
dispatch may be complete (R390, R214). (DEDUCED, log 78) -/
def leaveTeam (s : State) (k : TeamKey) : State :=
  match teamOf s k with
  | none => s
  | some t =>
    if !t.ended || owes s k then s
    else match blockOf s k.disp k.block with
      | some b => if b.exited then gone s k else s
      | none => gone s k
where
  /-- Without the team. -/
  gone (s : State) (k : TeamKey) : State :=
    addAgenda { s with teams := s.teams.filter (fun t => decide (t.key ≠ k)) } [.dispatchComplete k.disp]

/-- The operation in flight of a request is ready once it has none left. -/
def landSettled (s : State) (q : OutReq) : State :=
  match q.waiter with
  | .team sp _ _ _ _ flight _ _ _ => leaveTeam (settleFlight s sp.team flight) sp.team
  | _ => s

/-- A request ends: it leaves the table, and its waiter goes on. (DESIGN CHOICE, log 5) -/
def endReq (s : State) (q : OutReq) (r : ReqEnd) (idx : Nat) : State := landSettled (landReq (retireReq s q) q r idx) q

/-- The request that a response answers: by responder and number; a multicast is answered by any of its peers. -/
def answered (s : State) (h : Hdr) : Option OutReq :=
  if h.npeer = 0 then
    match reqOf s h.src h.reqid with
    | some q => some q
    | none => chain s h
  else chain s h
where
  /-- The oldest multicast with the number that names the responder among its peers. -/
  chain (s : State) (h : Hdr) : Option OutReq :=
    s.outReqs.find? (fun q => !q.queued && decide (q.reqid.toNat = h.reqid) && (match q.waiter with
      | .mcast _ _ _ => (List.range (hdrOf q.packet).npeer).any (fun i => decide (chainPeer q.packet i = h.src))
      | _ => false))

/-- A response: one of a stale incarnation, or that answers nothing, is discarded (R183). (DEDUCED, log 23) -/
def response (p : Packet) (f : OutReq → Hdr → State → State) (s : State) : State :=
  let h := hdrOf p
  if !incFits s h then s
  else match answered s h with
    | none => s
    | some q => f q h s

/-- FAB_DATA (R168, R172). -/
def execFabData (s : State) : Host.Outcome State Fault Refusal :=
  match s.event with
  | some (.fabData p) => .next (response p (fun q _ s => endReq s q (.done (flitData p.data)) 0) { s with event := none })
  | _ => .next s

/-- FAB_ACK (R168, R179). -/
def execFabAck (s : State) : Host.Outcome State Fault Refusal :=
  match s.event with
  | some (.fabAck p) => .next (response p (fun q _ s => endReq s q (.done 0) 0) { s with event := none })
  | _ => .next s

/-- FAB_ERROR: the code is the fault or the status of its name (R159). -/
def execFabError (s : State) : Host.Outcome State Fault Refusal :=
  match s.event with
  | some (.fabError p) => .next (response p (fun q h s => endReq s q (.failed (errStatus h.op) (errCause h.op) 0) h.pidx)
      { s with event := none })
  | _ => .next s

/-- FAB_BUSY: the request is sent again later (R176). -/
def execFabBusy (s : State) : Host.Outcome State Fault Refusal :=
  match s.event with
  | some (.fabBusy p) => .next (response p (fun q _ s =>
      { s with outReqs := s.outReqs.map (fun o => if o = q then { o with busyAt := some s.cycle } else o) }) { s with event := none })
  | _ => .next s

/-! ### Retransmission and peer resets (R162, R176, R180, R183) -/

/-- A request of the table by its target and number. -/
def sentReq (s : State) (dev : BitVec 8) (id : BitVec 16) : Option OutReq :=
  s.outReqs.find? (fun q => decide (q.dev = dev) && decide (q.reqid = id) && !q.queued)

/-- Sends a request again under its number. -/
def sendAgain (s : State) (q : OutReq) (retx : Nat) (tries : Nat) : State × Bool :=
  let p := rehdr q.packet (fun h => { h with retx := retx })
  let (s1, ok) := inject s p
  ({ s1 with outReqs := s1.outReqs.map (fun o => if o = q then { o with packet := p, busyAt := none, sent := s.cycle, tries := tries } else o) }, ok)

/-- What reaches everyone who waits for a peer that was reset. -/
def resetEnd (dev : BitVec 8) : ReqEnd := .failed 0x0B 0x18 (dev.setWidth 64)

/-- A peer is reset or down: its requests end, and what the target kept for it is cleared (R183). -/
def peerReset (s : State) (dev : BitVec 8) : State :=
  let mine := s.outReqs.filter (fun q => decide (q.dev = dev))
  let s1 := { s with
    outReqs := s.outReqs.filter (fun q => decide (q.dev ≠ dev))
    replies := s.replies.filter (fun r => decide (r.1 ≠ dev)), streamTab := s.streamTab.filter (fun e => decide (e.src ≠ dev))
    peerDown := (dev :: s.peerDown).eraseDups }
  let s2 := mine.foldl (fun s q => match reqTeam q with
    | some k => if q.write then updTeam s k (fun t => { t with remote := t.remote - 1 }) else s
    | none => s) s1
  sendWaiting (mine.foldl landSettled (mine.foldl (fun s q => landReq s q (resetEnd dev) 0) s2))

/-- BUSY_RESEND: 1,024 network cycles after the BUSY, with the same number and RETX = 0. -/
def busyResend (dev : BitVec 8) (id : BitVec 16) (s : State) : State :=
  match sentReq s dev id with
  | none => s
  | some q => match q.busyAt with
    | none => s
    | some at_ =>
      if s.cycle.toNat < at_.toNat + 512 then s
      else match sendAgain s q 0 q.tries with
        | (s1, true) => s1
        | (_, false) => endReq s q (resetEnd dev) 0

/-- BUSY_RESEND (R176). -/
def execBusyResend (s : State) : Host.Outcome State Fault Refusal :=
  match s.event with
  | some (.busyResend dev id) => .next (busyResend dev id { s with event := none })
  | _ => .next s

/-- Has the response timeout of a request passed? A request that found no route ends at once. -/
def timedOut (s : State) (q : OutReq) : Bool :=
  decide (q.tries = 16) ||
  (q.busyAt.isNone && !q.queued && decide (bits s.fabrto 23 0 ≤ 2 * (s.cycle.toNat - q.sent.toNat)))

/-- RESPONSE_TIMEOUT: the request is sent again with RETX = 1, and after the last time the target is down. -/
def responseTimeout (dev : BitVec 8) (id : BitVec 16) (s : State) : State :=
  match sentReq s dev id with
  | none => s
  | some q =>
    if !timedOut s q then s
    else if q.tries = 16 then endReq s q (resetEnd dev) 0
    else if q.tries < bits s.fabrto 27 24 then
      match sendAgain s q 1 (q.tries + 1) with
      | (s1, true) => s1
      | (_, false) => endReq s q (resetEnd dev) 0
    else peerReset s dev

/-- RESPONSE_TIMEOUT (R162, R180, R183). -/
def execResponseTimeout (s : State) : Host.Outcome State Fault Refusal :=
  match s.event with
  | some (.responseTimeout dev id) => .next (responseTimeout dev id { s with event := none })
  | _ => .next s

/-! ### Links (R154, R182) -/

/-- The incarnation handshake with the device at a port, or about one that is two hops away. -/
def handshake (src inc dst : Nat) : Packet :=
  packetOf { kind := kLINKMGMT, src := src, dst := dst, inc := inc } 0 0

/-- The ports of the other dimension, over which a neighbour's incarnation is passed on. -/
def otherPorts (s : State) (port : Nat) : List Nat :=
  (List.range 30).filter (fun p => portUp s p && decide ((p < 15) ≠ (port < 15)))

/-- LINKMGMT: the peer's incarnation is recorded; a change resets the peer. A neighbour's is passed on to the devices that
reach it over two hops. (DEDUCED, log 53) -/
def linkmgmt (port : Nat) (p : Packet) (s : State) : State :=
  let h := hdrOf p
  let dev : BitVec 8 := BitVec.ofNat 8 h.src
  let changed := decide ((mapGet (0 : BitVec 16) s.peerInc h.src).toNat ≠ h.inc)
  let s1 := if changed then peerReset s dev else s
  let s2 := { s1 with peerInc := mapSet 0 s1.peerInc h.src (BitVec.ofNat 16 h.inc), peerDown := s1.peerDown.filter (· ≠ dev) }
  if changed && decide (portDev (devNum s) port = h.src) then
    { s2 with outbox := s2.outbox ++ (otherPorts s port).map (fun q => (q, handshake h.src h.inc (portDev (devNum s) q))) }
  else s2

/-- LINKMGMT (R182, R183). -/
def execLinkmgmt (s : State) : Host.Outcome State Fault Refusal :=
  match s.event with
  | some (.linkmgmt port p) => .next (linkmgmt port p { s with event := none })
  | _ => .next s

/-- The alignment source: REFDEV where it shares a row or column, else the device of this row in its column (R185). -/
def alignSource (s : State) : Nat :=
  let ref := bits s.fabcfg 53 46
  let own := devNum s
  if ref / 16 = own / 16 ∨ ref % 16 = own % 16 then ref else own / 16 * 16 + ref % 16

/-- Is the count still to be aligned over a port? The reference device keeps FABOFS at zero. -/
def alignsOver (s : State) (port : Nat) : Bool :=
  decide (bits s.fabcfg 53 46 ≠ devNum s) && decide (portDev (devNum s) port = alignSource s) && decide (bits s.fabtstat 0 0 = 0)

/-- The packet that opens a count exchange over a port, and the one that answers it: t2, t3 and the answering device's FABOFS stand in
its data flit (R185). (DESIGN CHOICE, log 53) -/
def timexAsk (s : State) (port : Nat) : Packet :=
  packetOf { kind := kTIMEX, src := devNum s, dst := portDev (devNum s) port, inc := s.fabinc.toNat } 0 0
def timexReply (s : State) (port : Nat) (t2 : BitVec 64) : Packet :=
  packetOf { kind := kTIMEX, src := devNum s, dst := portDev (devNum s) port, inc := s.fabinc.toNat }
    (t2.toNat + (s.cycle.toNat <<< 64) + (s.fabofs.toNat <<< 128)) 32

/-- LINK_UP: the incarnations are exchanged, with those of the neighbours of the other dimension, and toward the alignment source the
counts too (R182, R185). -/
def linkUp (port : Nat) (s : State) : State :=
  if !portUp s port then s
  else
    let dst := portDev (devNum s) port
    let known : List (Nat × Packet) := ((otherPorts s port).filter s.linksUp.contains).map (fun q =>
      (port, handshake (portDev (devNum s) q) (mapGet (0 : BitVec 16) s.peerInc (portDev (devNum s) q)).toNat dst))
    let asks : List (Nat × Packet) := if alignsOver s port then [(port, timexAsk s port)] else []
    { s with linksUp := (port :: s.linksUp).eraseDups
             timexSent := if asks = [] then s.timexSent else some (port, s.cycle)
             outbox := s.outbox ++ (port, handshake (devNum s) s.fabinc.toNat dst) :: (known ++ asks) }

/-- LINK_UP (R182, R185). -/
def execLinkUp (s : State) : Host.Outcome State Fault Refusal :=
  match s.event with
  | some (.linkUp port) => .next (linkUp port { s with event := none })
  | _ => .next s

/-- FABOFS from the four counts and the source's own offset: halved and rounded toward zero (R185). (DEDUCED, log 53) -/
def timexOffset (t1 t2 t3 t4 ofs : BitVec 64) : BitVec 64 :=
  BitVec.ofInt 64 (((((t2.toNat : Int) - t1.toNat) - ((t4.toNat : Int) - t3.toNat)).tdiv 2) + ofs.toInt)

/-- TIMEX: the exchange over the port toward the alignment source sets FABOFS once. -/
def timex (port : Nat) (t1 t2 t3 t4 ofs : BitVec 64) (s : State) : State :=
  if alignsOver s port then { s with fabofs := timexOffset t1 t2 t3 t4 ofs, fabtstat := s.fabtstat ||| 1 } else s

/-- TIMEX (R185). -/
def execTimex (s : State) : Host.Outcome State Fault Refusal :=
  match s.event with
  | some (.timex port t1 t2 t3 t4 ofs) => .next (timex port t1 t2 t3 t4 ofs { s with event := none })
  | _ => .next s

/-- TIMEX_REPEAT: a later result that differs by more than 2 cycles sets DRIFT and tells the host; FABOFS stays. -/
def timexRepeat (result : BitVec 64) (s : State) : State :=
  let d := result.toInt - s.fabofs.toInt
  if bits s.fabtstat 0 0 = 1 ∧ 2 < d.natAbs then mgmtInterrupt { s with fabtstat := s.fabtstat ||| 2 } 4 else s

/-- TIMEX_REPEAT (R186). -/
def execTimexRepeat (s : State) : Host.Outcome State Fault Refusal :=
  match s.event with
  | some (.timexRepeat r) => .next (timexRepeat r { s with event := none })
  | _ => .next s

/-- A packet of the count exchange has arrived: one that opens an exchange is answered with t2, its answer ends the exchange with t4,
this device's count now (R185, R186). (DEDUCED, log 53) -/
def timexArrive (port : Nat) (p : Packet) (s : State) : State :=
  if p.data = [] then { s with timexDue := s.timexDue ++ [(port, s.cycle)] }
  else match s.timexSent with
    | some (q, t1) =>
      if q ≠ port then s
      else
        let v := flitData p.data
        let f (lo : Nat) : BitVec 64 := BitVec.ofNat 64 (v >>> lo)
        addAgenda { s with timexSent := none }
          [if bits s.fabtstat 0 0 = 0 then .timex port t1 (f 0) (f 64) s.cycle (f 128)
           else .timexRepeat (timexOffset t1 (f 0) (f 64) s.cycle (f 128))]
    | none => s

/-- The exchanges of a cycle: those that wait are answered once this device is aligned itself, and at the multiples of 2^24 the device
opens its own again (R185, R186). -/
def alignTick (s : State) : State :=
  let own := decide (bits s.fabcfg 53 46 = devNum s)
  let s1 := if own || decide (bits s.fabtstat 0 0 = 1) then
      { s with timexDue := [], outbox := s.outbox ++ s.timexDue.map (fun d => (d.1, timexReply s d.1 d.2)) }
    else s
  if own || decide (s.cycle.toNat % 2 ^ 24 ≠ 0) then s1
  else match s.linksUp.find? (fun p => portUp s p && decide (portDev (devNum s) p = alignSource s)) with
    | some p => { s1 with outbox := s1.outbox ++ [(p, timexAsk s p)], timexSent := some (p, s.cycle) }
    | none => s1

/-! ### Packets that pass through (R160, R161, R165) -/

/-- A packet for another device goes on: after a detour on FIRST, then on SECOND; on ESCAPE to its end. -/
def forward (port : Nat) (p : Packet) (s : State) : State :=
  let h := hdrOf p
  let q := if h.esc = 1 then p else rehdr p (fun h => { h with vc := if h.vc = 0 then 1 else 2 })
  toPort s port (minimalPort (devNum s) h.dst) q

/-- A packet that a port has received and its gate has delivered: for this device, link-local, or to be passed on. -/
def arrive (port : Nat) (p : Packet) (s : State) : State :=
  let h := hdrOf p
  if hdrReserved p then addAgenda s [.reservedKindDiscard port p]
  else if h.kind = kTIMEX then timexArrive port p s
  else if h.kind = kLINKMGMT ∨ h.dst = devNum s then addAgenda s [packetEvent port p]
  else forward port p s

/-- Has the packet at a place of the ports' queues waited 4,096 network cycles at the head of its queue (R165)? -/
def escapes (s : State) (n : Nat) : Bool :=
  match s.portQ[n]? with
  | none => false
  | some q => headsQueue s n && decide ((hdrOf q.pkt).esc = 0) && decide (q.since.toNat + 2048 ≤ s.cycle.toNat)

/-- ESCAPE_TIMEOUT: the packet moves to ESCAPE of its class and takes the minimal route from here. -/
def escapeTimeout (n : Nat) (s : State) : State :=
  match s.portQ[n]? with
  | none => s
  | some q =>
    if escapes s n then
      let p := rehdr q.pkt (fun h => { h with vc := 3, esc := 1 })
      toPort { s with portQ := newHead s q (s.portQ.eraseIdx n) } q.inp (minimalPort (devNum s) (hdrOf p).dst) p
    else s

/-- ESCAPE_TIMEOUT (R165). -/
def execEscapeTimeout (s : State) : Host.Outcome State Fault Refusal :=
  match s.event with
  | some (.escapeTimeout n) => .next (escapeTimeout n { s with event := none })
  | _ => .next s

/-- RESERVED_KIND_DISCARD: the packet is counted in the port's error count and has no other effect (R158). -/
def execReservedKindDiscard (s : State) : Host.Outcome State Fault Refusal :=
  match s.event with
  | some (.reservedKindDiscard port _) =>
    .next { s with event := none, portErrs := mapSet 0 s.portErrs port (mapGet 0 s.portErrs port + 1) }
  | _ => .next s

/-- The health unit of a fabric port: its stop is the fabric router's. -/
def portUnit (port : Nat) : HealthUnit := { kind := .fabricPort, stop := 5, index := BitVec.ofNat 32 port }

/-- The flits that a port has sent, in order: the number of a flit is its sequence number, and the port retains them (R156).
(DEDUCED, log 53) -/
def linkFlits (s : State) (port : Nat) : List (BitVec 256) :=
  (s.outbox.filter (fun p => decide (p.1 = port))).flatMap (fun p => p.2.hdr :: p.2.data)

/-- FLIT_RESEND: the sending port resends a flit from its retained copy, with every flit after it; the retry counts for the port's
health (R156, R478). -/
def execFlitResend (s : State) : Host.Outcome State Fault Refusal :=
  match s.event with
  | some (.flitResend port seq) =>
    .next (addAgenda { s with event := none, linkSeq := mapSet 0 s.linkSeq port (mapGet 0 s.linkSeq port + 1)
                              resent := s.resent ++ (((linkFlits s port).drop seq).zipIdx seq).map (fun f => (port, f.2, f.1)) }
      [.correctedError (portUnit port) seq])
  | _ => .next s

/-- The steps of the fabric router that are due in a cycle. -/
def fabricDue (s : State) : List Event :=
  s.outReqs.filterMap (fun q => match q.busyAt with
    | some at_ => if at_.toNat + 512 ≤ s.cycle.toNat then some (.busyResend q.dev q.reqid) else none
    | none => if timedOut s q && !q.queued then some (.responseTimeout q.dev q.reqid) else none) ++
  (List.range s.portQ.length).reverse.filterMap (fun n => if escapes s n then some (.escapeTimeout n) else none)

end Sys2Proof.Machine
end

