-- ==== Sys2Proof/Machine/GridForms.lean ====
section
/-! DEFINITION. GBIND, HLD, HSTEP and HQUERY (R136, R140, R146 to R151, R307 to R310). -/
namespace Sys2Proof.Machine
open Sys2Proof.Forms

/-- GBIND: a release at dev, and then a request to the launch unit; the flag clears when it completes (R136, R307). -/
def execGbind (d : BitVec 4) (a : BitVec 8) (s : State) : Host.Outcome State Fault Refusal :=
  issue (.gbind d a) s (fun x s =>
    if x.active = 0 then retire x s
    else releaseThen x 3 (fun s =>
      let id := s.nextOp
      let s1 := { s with nextOp := id + 1
                         binds := s.binds ++ [{ id := id, split := x.ref, ctx := x.team.ctx, core := x.team.core, slot := d.toNat, ga := readU64 x a,
                                                lane := x.first, pc := x.pc, word := x.f.word, desc := none, map := none, todo := [], page := none, failed := [] }] }
      addAgenda (retire x (addFlight x true (.bind id) [] [] 0 none s1)) [.gridBindRequest id]) s)

/-- The handle checks of the grid forms: the slot is bound, and the block owns a partition of it in the binding dispatch
(R136, R140, R146, R151). (DEDUCED, log 36) -/
def gridThen (x : Iss) (n : Nat) (eff : GridSlot → Option Nat → State → State) (s : State) : State :=
  let g := slotOf x.ctx n
  if slotBound g then
    eff g (if g.dispatch = x.ref.team.disp then ownPart s g x.ref.team.block else none) s
  else faultAt x 0x34 x.f.word s

/-- A lane's access to word `k` of the own partition's step area. -/
def stepLane (x : Iss) (g : GridSlot) (q k l : Nat) (write : Bool) : LaneAcc :=
  let _ := x
  ⟨l, stepAccess (stepGa (gridOf g.desc) (slotPart g q) k) write⟩

/-- What a checked access to a step word reads: UNKNOWN where the storage is not local any more (R132). (DEDUCED, log 36) -/
def stepValue (x : Iss) (s : State) (k : Nat) (ts : List Target) : Option Nat :=
  if isRemote ts then some (unknown x.fresh (2 ^ 23 + 2 ^ 22 + k)).toNat else readChecked s x.block ts 4

/-- Reads word `k` of the own step area as lane `l`: a failed check is the lane's fault, an open page request a hold. -/
def readStep (x : Iss) (g : GridSlot) (q k l : Nat) (eff : Nat → State → State) (s : State) : State :=
  settleThen x 0 false [stepLane x g q k l false] (fun ok bad s => match ok, bad with
    | (a, ts) :: _, [] => match stepValue x s k ts with
      | some v => eff v (noteReads x [(4, ts)] s)
      | none => reportLanes x [⟨l, 0x17, some a.acc.ga, none⟩] true 0 false s
    | _, bad => reportLanes x bad true 0 false s) s

/-- The publication of HSTEP once every check and the release have passed; PSTEP of a spoilt partition stays UNKNOWN (R132, R140). -/
def publish (x : Iss) (g : GridSlot) (q slot step : Nat) (s : State) : State :=
  settleThen x 1 true [stepLane x g q wPSTEP x.first true] (fun ok bad s => match ok, bad with
    | (_, ts) :: _, [] =>
      let bad := g.spoilt.contains q
      let s0 := { s with fresh := if bad then s.fresh + 1 else s.fresh }
      let s1 := if isRemote ts then s0
        else (writeChecked x.team.core s0 (partOfCtx s x.team.ctx) x.ref.team.disp x.ref.team.block ts 4 (if bad then freeNat s.fresh 4 else step)).getD s0
      let (s2, pa, h) := futAllocate s1 x.block slot (0x100 + x.team.core)
      let s3 := retire x (addFlight x true .ready [{ code := x.f.d.toNat, lane := 0, val := h }] [] 0 none s2)
      if step % (gridOf g.desc).depth ≠ 0 then futComplete s3 pa { status := 0, bytes := 0, coord := 0, side := 0 }
      else startExchange s3
        { id := 0, team := x.ref.team, ctx := x.team.ctx, core := x.team.core, spart := x.team.part,
          entry := 2 * x.team.slot + x.ref.high.toNat, lane := x.first, pc := x.pc, slot := (x.f.b.toNat % 16),
          part := q, owner := x.ref.team.block, step := BitVec.ofNat 32 step, future := some pa, handle := h, fail := none, stored := [], placed := 0,
          cancelled := false } g
    | _, bad => reportLanes x bad true 1 true s) s

/-- The grid-step check of HSTEP without an active lane: no lane makes the read, so that neither a fault of it nor a page request
arises; a word that can be read is compared (R273, R309). (DEDUCED, log 36) -/
def idleStep (x : Iss) (g : GridSlot) (q step : Nat) (s : State) : State :=
  let bad : Bool := match checkAccess s (whoOf x 0) (stepLane x g q wPSTEP 0 false).acc with
    | (_, .ok ts _) => (stepValue x s wPSTEP ts).any (fun p => decide (step ≠ p + 1))
    | _ => false
  if bad then faultAt x 0x37 x.f.word s
  else if poolRefused s x.ctx x.block.area then faultAt x 0x42 x.f.word s
  else retire x s

/-- HSTEP (R140, R144, R309). -/
def execHstep (d a : BitVec 8) (b : BitVec 4) (s : State) : Host.Outcome State Fault Refusal :=
  issue (.hstep d a b) s (fun x => gridThen x b.toNat (fun g q s => match q with
    | none => faultAt x 0x36 x.f.word s
    | some q =>
      let step := (readU x a).toNat
      if x.active = 0 then idleStep x g q step s
      else readStep x g q wPSTEP x.first (fun p s =>
        if step ≠ p + 1 then faultAt x 0x37 x.f.word s
        else if poolRefused s x.ctx x.block.area then faultAt x 0x42 x.f.word s
        else match freeFuture x.block with
          | none => faultAt x 0x33 x.f.word s
          | some slot =>
            if poisonAt s (futureAt x.ctx x.block.area slot) 32 then objectPoison x s
            else if step % (gridOf g.desc).depth = 0 ∧ 16 ≤ exchangesOf s x.team.core then holdAt x (.stall .engine) s
            else releaseThen x 4 (publish x g q slot step) s) s))

/-! ### HLD (R146 to R149) -/

/-- What the check of one lane finds. -/
inductive HaloEnd where
  | ready                               -- the element may be loaded
  | bounds
  | bad (b : Bad)                       -- the read of its slab's word, or of PSTEP, fails (R52)
  | stale (slab word : Nat)             -- the stale-halo fault
  | stall (slab : Nat)
  deriving DecidableEq, Repr

/-- The check of a lane whose slab word has been read (R147). -/
def haloCheck (g : Grid) (req pstep k word : Nat) : HaloEnd :=
  if pstep < req ∨ req < word then .stale k word
  else if word = req then .ready
  else if g.fault then .stale k word
  else .stall k

/-- The slabs that the lanes' elements lie in, without repeats. -/
def slabsOf (g : Grid) (ix : List (Nat × Nat)) : List Nat := (ix.filterMap (fun p => slabOf g p.2)).eraseDups

/-- What the read of word `k` of the own step area gave: its number, or its failure (R147). -/
def stepRead (x : Iss) (g : GridSlot) (q : Nat) (s : State) (ok : List (LaneAcc × List Target)) (bad : List Bad) (k : Nat) : Except Bad Nat :=
  let ga := stepGa (gridOf g.desc) (slotPart g q) k
  match ok.find? (fun p => decide (p.1.acc.ga = ga)) with
  | some (_, ts) => match stepValue x s k ts with
    | some v => .ok v
    | none => .error ⟨0, 0x17, some ga, none⟩
  | none => .error ((bad.find? (fun b => decide (b.ga = some ga))).getD ⟨0, 0x10, some ga, none⟩)

/-- The check of a lane: an element of a slab by its word and PSTEP, either of which may not have been read (R146, R147). -/
def laneHalo (gd : Grid) (req i : Nat) (word : Nat → Except Bad Nat) : HaloEnd :=
  if gd.total ≤ i then .bounds
  else match slabOf gd i with
    | none => .ready
    | some k => match word wPSTEP, word k with
      | .ok p, .ok w => haloCheck gd req p k w
      | .error b, _ => .bad b
      | _, .error b => .bad b

/-- Watches the step words that lanes await; a refused watch is polled (R63, R64, R148). -/
def watchWords (x : Iss) : List (List Target) → State → State × List WatchOn
  | [], s => (s, [])
  | (.mem pa _ _ :: _) :: rest, s =>
    let (s1, on) := watchLine s x.ref pa
    let (s2, l) := watchWords x rest s1
    (s2, on :: l)
  | _ :: rest, s =>
    let (s2, l) := watchWords x rest s
    (s2, .poll :: l)

/-- The lanes of a HLD once the step words are known: a stall of any lane holds all; else faults, and the loads of the lanes that
pass, which the acquire of the step words precedes (R146 to R148). -/
def haloLanes (x : Iss) (g : GridSlot) (q req : Nat) (ix : List (Nat × Nat)) (ok : List (LaneAcc × List Target)) (bad : List Bad)
    (s : State) : State :=
  let gd := gridOf g.desc
  let ends := ix.map (fun p => (p.1, laneHalo gd req p.2 (stepRead x g q s ok bad)))
  let stalls := ends.filterMap (fun p => match p.2 with
    | .stall k => some (p.1, k)
    | _ => none)
  if stalls ≠ [] then
    let words := (stalls.map (·.2)).eraseDups.filterMap (fun k =>
      (ok.find? (fun p => decide (p.1.acc.ga = stepGa gd (slotPart g q) k))).map (·.2))
    let (s1, on) := watchWords x words s
    holdAt x (.wait on) (updSplit s1 x.ref (fun sp => { sp with unmet := stalls }))
  else
    let late := ends.filterMap (fun p => match p.2 with
      | .stale k w => some (⟨p.1, 0x52, none, some (k, BitVec.ofNat 64 (req % 2 ^ 32 + ((w % 2 ^ 32) <<< 32)))⟩ : Bad)
      | .bounds => some ⟨p.1, 0x12, none, none⟩
      | .bad b => some { b with lane := p.1 }
      | _ => none)
    let n := gd.bytes
    let go := ix.filterMap (fun p => if ends.any (fun e => decide (e.1 = p.1 ∧ e.2 = .ready)) then
      some (⟨p.1, { ga := elemGa gd (slotPart g q) p.2, n := n, align := n, write := false, atom := false, tags := true
                    l1 := some x.team.core }⟩ : LaneAcc)
      else none)
    let s1 := dropWatches s x.ref
    loadForm x (plainLoad x) false go late [] id (if ok = [] then s1 else acquire x 4 s1)

/-- HLD (R146 to R149, R308). -/
def execHld (d a b : BitVec 8) (s : State) : Host.Outcome State Fault Refusal :=
  issue (.hld d a b) s (fun x => gridThen x (bits x.m 3 0) (fun g q s => match q with
    | none => faultAt x 0x36 x.f.word s
    | some q =>
      if x.active = 0 then retire x s
      else
        let gd := gridOf g.desc
        let step := (readS x (bits x.m 9 4)).toNat
        let req := step - step % gd.depth
        let ix := (lanesOf x.n x.active).map (fun l => (l, (readWord x a 0 l).toNat))
        let ks := slabsOf gd (ix.filter (fun p => decide (p.2 < gd.total)))
        if ks = [] then haloLanes x g q req ix [] [] s
        else
          let lane (k : Nat) : Nat := ((ix.find? (fun p => decide (p.2 < gd.total) && decide (slabOf gd p.2 = some k))).map (·.1)).getD x.first
          settleThen x 0 false ((wPSTEP :: ks).map (fun k => stepLane x g q k (if k = wPSTEP then lane (ks.headD 0) else lane k) false))
            (fun ok bad s => haloLanes x g q req ix ok bad
              (noteReads x (ok.map (fun p => (4, p.2))) (slicePass (partOfCtx s x.team.ctx) false false (ok.flatMap (·.2)) s))) s))

/-- The values of HQUERY that the grid alone gives (R151). -/
def queryValue (g : Grid) (q sel : Nat) : Nat :=
  match sel with
  | 0x02 => let c := partCoords g q
            c.getD 0 0 % 256 + ((c.getD 1 0 % 256) <<< 8) + ((c.getD 2 0 % 256) <<< 16)
  | 0x03 => g.E 0
  | 0x04 => g.E 1
  | 0x05 => g.E 2
  | 0x06 => g.rlo 0 + (g.rhi 0 <<< 8)
  | 0x07 => g.rlo 1 + (g.rhi 1 <<< 8)
  | 0x08 => g.rlo 2 + (g.rhi 2 <<< 8)
  | 0x09 => g.depth
  | 0x0A => q
  | _ => 0

/-- HQUERY (R151, R310). A selector that names slab 13, which no grid has, gives word 13 of the step area, PSTEP. (DESIGN CHOICE, log 36) -/
def execHquery (d a : BitVec 8) (b : BitVec 4) (s : State) : Host.Outcome State Fault Refusal :=
  issue (.hquery d a b) s (fun x => gridThen x b.toNat (fun g q s =>
    let v := (readU x a).toNat
    let sel := v % 256
    let k := fld v 8 5
    match q with
    | none => if sel ≠ 0x0A then faultAt x 0x36 x.f.word s
              else if x.active = 0 then retire x s
              else teamResult x 0xFFFFFFFF s
    | some q =>
      if x.active = 0 then retire x s
      else if sel = 0 then readStep x g q wPSTEP x.first (fun w s => teamResult x w s) s
      else if sel = 1 ∧ k ≤ 26 then readStep x g q k x.first (fun w s => teamResult x w (acquire x 4 s)) s
      else teamResult x (queryValue (gridOf g.desc) q sel) s))

end Sys2Proof.Machine
end

