-- ==== Sys2Proof/Machine/MatrixForms.lean ====
section
/-! DEFINITION. The matrix forms at issue, and MREADY (R355 to R365, R367, R371 to R374, R377). -/
namespace Sys2Proof.Machine
open Sys2Proof.Forms

/-- The quadrant of a partition (R221). -/
def quadOf (t : Team) : Nat := t.part / 3

/-- The accumulator tile a form names. -/
def tileOf (x : Iss) : Nat := if within x.op 0xDC 0xDE then x.f.d.toNat else bits x.m 2 0

/-- Do the ranges that a team has written since its last MREADY touch `n` bytes from `o` (R209)? (DEDUCED, log 20) -/
def unready (x : Iss) (o n : Nat) : Bool :=
  (x.team.wroteS.any (fun p => touches p.1 p.2 o n)) ||
  ((x.block.placed.take x.team.acquired).drop x.team.readied).any (fun p => touches p.1 p.2 o n)

/-- Is the block of an operation saved, or stopped for a save (R379)? -/
def mqSaved (s : State) (q : MqOp) : Bool :=
  match blockOf s q.split.team.disp q.split.team.block with
  | some b => b.saved || b.saving
  | none => false

/-- The operations of a partition that its quadrant holds (R365); those of saved blocks are in their images (R379). -/
def mqShare (s : State) (t : Team) : Nat :=
  (s.mqOps.filter (fun q => decide (q.core = t.core) && decide (q.part = t.part) && !q.started && !mqSaved s q)).length

/-- Does an operation in flight still write a vector register: one, or any? -/
def owesV (t : Team) (p : Nat → Bool) : Bool :=
  t.inflight.any (fun e => decide (e.state ≠ .done) && e.writes.any (fun w => decide (w.code < 128) && p w.code))

/-- A lane fault of the form as a whole, for the lowest active lane (R359, R372). -/
def formFault (x : Iss) (cause acc : BitVec 8) (ga : Option (BitVec 64)) (write : Bool) (s : State) : State :=
  raiseFault s x.ref { cause := cause, pc := x.pc, lanes := x.active, atInstr := true, lane := x.first, acc := acc, addr := ga,
                       write := write, info := BitVec.ofNat 32 (lanesOf x.n x.active).length, info2 := 0, side := false }

/-- The handle checks of every matrix form, whatever the guard (R221, R363, R367). -/
def matrixThen (x : Iss) (lanes : Nat) (eff : State → State) (s : State) : State :=
  if x.n < lanes then faultAt x 0x3D x.f.word s
  else if x.disp.nacc ≤ tileOf x then faultAt x 0x3C x.f.word s
  else if x.active = 0 then retire x s
  else eff s

/-- The form enters its partition's share of the quadrant, and the split goes on (R365); `raced` are the operand registers that are
not made ready, `free` says so of A. -/
def mqIssue (x : Iss) (kind : MqKind) (ga ga2 : BitVec 64) (aOff : Nat) (reads raced : List Nat) (free : Bool) (s : State) : State :=
  if 8 ≤ mqShare s x.team then holdAt x (.stall .engine) s
  else
    let id := s.nextOp
    let q : MqOp :=
      { id := id, kind := kind, split := x.ref, core := x.team.core, quad := quadOf x.team, part := x.team.part,
        accepted := false, started := false, matched := false, count := 0, rows := x.active &&& BitVec.ofNat 1024 (2 ^ 64 - 1), active := x.active
        mod0 := if within x.op 0xDC 0xDE then setTile x.m (tileOf x) else x.m, mod1 := x.q, aOff := aOff, bReg := x.f.b.toNat,
        ga := ga, ga2 := ga2, pc := x.pc, word := x.f.word, age := s.cycle, flight := id + 1, free := free, raced := raced, waited := 0, limit := 0, held := false,
        page := [], failed := [] }
    let s1 := { s with nextOp := id + 1, mqOps := s.mqOps ++ [q] }
    addAgenda (retire x (addFlight x true (.matrix id) [] reads 0 none s1)) [.mqAccept x.team.core (quadOf x.team)]
where
  /-- The tile of MZERO, MLDACC and MDRAIN, kept above the fields of their modifier word. -/
  setTile (m : Word) (t : Nat) : Word := (m &&& 0x000FFFFF) ||| BitVec.ofNat 32 (t <<< 20)

/-- The tile that an operation names. -/
def mqTile (q : MqOp) : Nat :=
  match q.kind with
  | .mma _ _ | .drainT => bits q.mod0 2 0
  | _ => bits q.mod0 22 20

/-- The operand registers of a multiply: B, and the scale registers of the Q4 forms (R360, R361, R369). -/
def mmaReads (x : Iss) (q4 joint : Bool) : List Nat :=
  let ks := bits x.m 4 3 + 1
  (List.range (4 * ks)).map (fun i => x.f.b.toNat + i) ++
  (if q4 then bits x.q 6 0 :: (List.range (if joint then 1 else 4)).map (fun i => bits x.q 14 8 + i) else [])

/-- Is the team of an issuing split diverged: does a lane that has not exited stand outside the split, in the other split or among
the pending entries of its stack (R367, R385, R388)? (DEDUCED, log 20) -/
def diverged (x : Iss) : Bool :=
  (x.team.low.isSome && x.team.high.isSome) || (List.range x.n).any (fun l => !laneIn x.team.absent l && !laneIn x.split.mask l)

/-- Is the block short of a member of group `g`, or the team none of it, or diverged (R367)? -/
def jointBad (x : Iss) : Bool :=
  let g := bits x.m 6 5
  decide (x.disp.teams < 4 * g + 4) || decide (x.team.key.team / 4 ≠ g) || diverged x

/-- A multiply: A in the scratchpad is checked as a whole (R359), and the operation is accepted by its quadrant. -/
def mmaForm (x : Iss) (fmt : Nat) (joint : Bool) (s : State) : State :=
  let q4 := decide (fmt = 5)
  let pitch := 16 * bits x.m 18 8
  let bytes := 16 * (bits x.m 4 3 + 1)
  let off := (readU x x.f.a).toNat
  if x.n < (if joint then 64 else 256) then faultAt x 0x3D x.f.word s
  else if x.disp.nacc ≤ tileOf x then faultAt x 0x3C x.f.word s
  else if joint && jointBad x then faultAt x 0x3E x.f.word s
  else if x.active = 0 then retire x s
  else if off % 16 ≠ 0 then formFault x 0x11 0 none false s
  else if x.disp.spBytes < off + 63 * pitch + bytes then formFault x 0x10 0 none false s
  else
    let regs := mmaReads x q4 joint
    let raced := regs.filter (fun v => x.team.wroteV.contains v || owesV x.team (fun w => decide (w = v)))
    mqIssue x (.mma fmt joint) 0 0 off regs raced ((List.range 64).any (fun i => unready x (off + i * pitch) bytes)) s

/-- MMAE4 (R355, R362). -/
def execMmae4 (d a b : BitVec 8) (s : State) : Host.Outcome State Fault Refusal := issue (.mmae4 d a b) s (fun x => mmaForm x 0 false)
/-- MMAE5 (R355, R362). -/
def execMmae5 (d a b : BitVec 8) (s : State) : Host.Outcome State Fault Refusal := issue (.mmae5 d a b) s (fun x => mmaForm x 1 false)
/-- MMABF (R355, R362). -/
def execMmabf (d a b : BitVec 8) (s : State) : Host.Outcome State Fault Refusal := issue (.mmabf d a b) s (fun x => mmaForm x 2 false)
/-- MMAHF (R355, R362). -/
def execMmahf (d a b : BitVec 8) (s : State) : Host.Outcome State Fault Refusal := issue (.mmahf d a b) s (fun x => mmaForm x 3 false)
/-- MMAS8 (R355, R362). -/
def execMmas8 (d a b : BitVec 8) (s : State) : Host.Outcome State Fault Refusal := issue (.mmas8 d a b) s (fun x => mmaForm x 4 false)
/-- MMAQ4 (R355, R361, R362). -/
def execMmaq4 (d a b : BitVec 8) (s : State) : Host.Outcome State Fault Refusal := issue (.mmaq4 d a b) s (fun x => mmaForm x 5 false)
/-- MMQE4 (R355, R367). -/
def execMmqe4 (d a b : BitVec 8) (s : State) : Host.Outcome State Fault Refusal := issue (.mmqe4 d a b) s (fun x => mmaForm x 0 true)
/-- MMQE5 (R355, R367). -/
def execMmqe5 (d a b : BitVec 8) (s : State) : Host.Outcome State Fault Refusal := issue (.mmqe5 d a b) s (fun x => mmaForm x 1 true)
/-- MMQBF (R355, R367). -/
def execMmqbf (d a b : BitVec 8) (s : State) : Host.Outcome State Fault Refusal := issue (.mmqbf d a b) s (fun x => mmaForm x 2 true)
/-- MMQHF (R355, R367). -/
def execMmqhf (d a b : BitVec 8) (s : State) : Host.Outcome State Fault Refusal := issue (.mmqhf d a b) s (fun x => mmaForm x 3 true)
/-- MMQS8 (R355, R367). -/
def execMmqs8 (d a b : BitVec 8) (s : State) : Host.Outcome State Fault Refusal := issue (.mmqs8 d a b) s (fun x => mmaForm x 4 true)
/-- MMQQ4 (R355, R367, R369). -/
def execMmqq4 (d a b : BitVec 8) (s : State) : Host.Outcome State Fault Refusal := issue (.mmqq4 d a b) s (fun x => mmaForm x 5 true)

/-- MZERO (R371). -/
def execMzero (d : BitVec 3) (s : State) : Host.Outcome State Fault Refusal :=
  issue (.mzero d) s (fun x => matrixThen x 64 (mqIssue x .zero 0 0 0 [] [] false))

/-- Checks 1, 2 and 5 for the whole range of rows: `n` bytes from the address (R372). -/
def rangeThen (x : Iss) (ga : BitVec 64) (align n : Nat) (write : Bool) (eff : State → State) (s : State) : State :=
  match earlyFault s (whoOf x x.first) { ga := ga, n := n, align := align, write := write, atom := false, tags := true } with
  | some c => formFault x c (if write then 1 else 0) (some ga) write s
  | none => eff s

/-- MLDACC (R372). -/
def execMldacc (d a b : BitVec 8) (s : State) : Host.Outcome State Fault Refusal :=
  issue (.mldacc d a b) s (fun x => matrixThen x 64 (fun s =>
    let ga := readU64 x a
    rangeThen x ga 16 (63 * (16 * bits x.m 19 8) + 1024) false (mqIssue x .load ga 0 0 [] [] false) s))

/-- MDRAIN (R373). -/
def execMdrain (d a b : BitVec 8) (s : State) : Host.Outcome State Fault Refusal :=
  issue (.mdrain d a b) s (fun x => matrixThen x 64 (fun s =>
    let ga := readU64 x a
    rangeThen x ga 16 (63 * (16 * bits x.m 19 8) + (if bits x.m 1 0 = 0 then 1024 else 512)) true
      (mqIssue x .drain ga 0 0 [] [] false) s))

/-- MDRAINT (R374). -/
def execMdraint (d a b : BitVec 8) (s : State) : Host.Outcome State Fault Refusal :=
  issue (.mdraint d a b) s (fun x => matrixThen x 64 (fun s =>
    let sd := readU64 x a
    let ss := readU64 x b
    let full : LaneMask := BitVec.ofNat 1024 (2 ^ 64 - 1)
    if x.active &&& full ≠ full then faultAt x 0x3D x.f.word s
    else rangeThen x sd 16 (255 * (16 * bits x.m 19 8) + 64) true
      (rangeThen x ss 256 1024 true (mqIssue x .drainT sd ss 0 [] [] false)) s))

/-- MREADY: once the operations in flight have written their vector registers, and the remote writes made before have their
responses, every earlier write but those in the side log counts as made ready; with an empty active set it orders nothing (R209,
R377). (DEDUCED, log 20) -/
def execMready (s : State) : Host.Outcome State Fault Refusal :=
  issue .mready s (fun x s =>
    if x.active = 0 then retire x s
    else if owesV x.team (fun _ => true) then
      addAgenda (holdAt x (.stall .results) s) ((x.team.inflight.filter (fun e => decide (e.state = .ready) &&
        e.writes.any (fun w => decide (w.code < 128)))).map (fun e => .operationComplete x.ref.team e.id))
    else if madeBefore s (relMark x s) (fun _ => true) then holdMarked x .writes s
    else retire x (updTeam s x.ref.team (fun t => { t with wroteV := [], wroteS := [], readied := t.acquired })))

end Sys2Proof.Machine
end

