-- ==== Sys2Proof/Machine/Memory.lean ====
section
/-! DEFINITION. Loads and stores, buffer and scratchpad accesses, prefetch and cache control, memory tags, scale tiles,
fences and waits on memory (R285 to R294, R298 to R301). -/
namespace Sys2Proof.Machine
open Sys2Proof.Forms

/-! ### Loads and stores through generic addresses (R285 to R287) -/

/-- The width in bytes of MEMMOD. -/
def memWidth (x : Iss) : Nat := 2 ^ bits x.m 2 0

/-- The accesses of lanes at their effective addresses, and the lanes whose sum leaves the address range. -/
def memLanes (x : Iss) (write : Bool) (ls : List Nat) : List LaneAcc × List Bad :=
  ls.foldr (fun l acc =>
    let ga := BitVec.ofNat 64 (readNat x x.f.a l 2)
    match effAddr ga (modOff x.m) with
    | some e => (⟨l, { ga := e, n := memWidth x, align := memWidth x, write := write, atom := false, tags := true }⟩ :: acc.1, acc.2)
    | none => (acc.1, ⟨l, 0x10, some ga, none⟩ :: acc.2)) ([], [])

/-- The data of a store lane: the low bytes of its registers (R282). -/
def storeData (x : Iss) (n l : Nat) : Nat := readNat x x.f.d l (fieldRegs x).1 % 2 ^ (8 * n)

/-- The accesses of a load's lanes, whose tags are compared in an L1 that may serve them. -/
def throughL1 (l1 : Option Nat) (p : List LaneAcc × List Bad) : List LaneAcc × List Bad :=
  (p.1.map (fun a => { a with acc := { a.acc with l1 := l1 } }), p.2)

/-- LD, LDNT and LDACQ. -/
def memLoad (x : Iss) (lc : LoadCache) (after : State → State) (s : State) : State :=
  if x.active = 0 then retire x s
  else
    let p := throughL1 lc.l1 (memLanes x false (accLanes x))
    loadForm x lc (decide (bits x.m 3 3 = 1)) p.1 p.2 [] after s

/-- ST and the store of STREL. -/
def memStore (x : Iss) (s : State) : State :=
  let p := memLanes x true (lanesOf x.n x.active)
  storeForm x p.1 p.2 (storeData x (memWidth x)) s

/-- LD: a plain load (R287). -/
def execLd (d a b : BitVec 8) (s : State) : Host.Outcome State Fault Refusal := issue (.ld d a b) s (fun x => memLoad x (plainLoad x) id)

/-- LDNT: as LD, but the L1 does not allocate, and a slice that allocates does so at lowest retention (R287). -/
def execLdnt (d a b : BitVec 8) (s : State) : Host.Outcome State Fault Refusal :=
  issue (.ldnt d a b) s (fun x => memLoad x { l1 := some x.team.core, keep := false, low := true } id)

/-- LDACQ: each lane's load is an acquire at scope SC; from scope dev the read bypasses the L1 and the core's L1 drops its lines (R86,
R198, R287). -/
def execLdacq (d a b : BitVec 8) (s : State) : Host.Outcome State Fault Refusal :=
  issue (.ldacq d a b) s (fun x => memLoad x (if 3 ≤ bits x.m 6 4 then bypassLoad else plainLoad x) (acquire x (bits x.m 6 4)))

/-- ST: a plain store (R287). -/
def execSt (d a b : BitVec 8) (s : State) : Host.Outcome State Fault Refusal :=
  issue (.st d a b) s (fun x s => if x.active = 0 then retire x s else memStore x s)

/-- STREL: the stores are one release at scope SC (R197, R287). -/
def execStrel (d a b : BitVec 8) (s : State) : Host.Outcome State Fault Refusal :=
  issue (.strel d a b) s (fun x s => if x.active = 0 then retire x s else releaseThen x (bits x.m 6 4) (memStore x) s)

/-! ### Scratchpad (R289) -/

/-- The offsets of lanes: a misaligned one is an alignment fault, one outside the block's bytes an address fault. -/
def spadLanes (x : Iss) (ls : List Nat) : List (LaneAcc × List Target) × List Bad :=
  let n := memWidth x
  ls.foldr (fun l acc =>
    let o : Int := ((readWord x x.f.a 0 l).toNat : Int) + modOff x.m
    if o % (n : Int) ≠ 0 then (acc.1, ⟨l, 0x11, none, none⟩ :: acc.2)
    else if o < 0 ∨ (x.disp.spBytes : Int) < o + n then (acc.1, ⟨l, 0x10, none, none⟩ :: acc.2)
    else ((⟨l, { ga := BitVec.ofNat 64 (bits x.ctx.spbase 55 0 + o.toNat), n := n, align := n, write := false, atom := false, tags := false }⟩,
      [.spad o.toNat]) :: acc.1, acc.2))
    ([], [])

/-- LDS (R289). -/
def execLds (d a b : BitVec 8) (s : State) : Host.Outcome State Fault Refusal :=
  issue (.lds d a b) s (fun x s =>
    if x.active = 0 then retire x s
    else
      let p := spadLanes x (accLanes x)
      loadLanes x (plainLoad x) (decide (bits x.m 3 3 = 1)) [] id p.1 p.2 s)

/-- STS (R289). -/
def execSts (d a b : BitVec 8) (s : State) : Host.Outcome State Fault Refusal :=
  issue (.sts d a b) s (fun x s =>
    if x.active = 0 then retire x s
    else
      let p := spadLanes x (lanesOf x.n x.active)
      let r := storeLanes x (storeData x (memWidth x)) p.1 s
      if p.2 = [] then conflicts x p.1 (retire x r.1) else reportLanes x p.2 true 1 true (conflicts x p.1 r.1))

/-! ### Buffers (R46 to R50, R290) -/

/-- The elements of lanes: accesses of those in range, faults of the others (R48, R49). -/
def bufLanes (x : Iss) (d : Desc) (write : Bool) (ls : List Nat) : List LaneAcc × List Bad × List Nat :=
  let n := 2 ^ d.esz
  ls.foldr (fun l acc =>
    let i := (readWord x x.f.b 0 l).toNat
    let ga := BitVec.ofNat 64 ((d.tag.toNat <<< 56) + (d.base + i * n) % 2 ^ 56)
    if d.len < (i + 1) * n then (acc.1, ⟨l, 0x12, some ga, none⟩ :: acc.2.1, l :: acc.2.2)
    else if (write && d.ro) || (!write && d.wo) then (acc.1, ⟨l, 0x13, some ga, none⟩ :: acc.2.1, acc.2.2)
    else (⟨l, { ga := ga, n := n, align := n, write := write, atom := false, tags := true }⟩ :: acc.1, acc.2.1, acc.2.2))
    ([], [], [])

/-- A buffer form: an invalid descriptor is a handle fault whatever the guard (R47). -/
def bufThen (x : Iss) (eff : Desc → State → State) (s : State) : State :=
  let d := quadDesc x x.f.a
  if d.valid = false then faultAt x 0x30 x.f.word s
  else if x.active = 0 then retire x s
  else eff d s

/-- LDB (R290). -/
def execLdb (d a b : BitVec 8) (s : State) : Host.Outcome State Fault Refusal :=
  issue (.ldb d a b) s (fun x => bufThen x (fun dd s =>
    let p := bufLanes x dd false (accLanes x)
    let q := throughL1 (some x.team.core) (p.1, p.2.1)
    loadForm x (plainLoad x) false q.1 q.2 [] id s))

/-- LDBZ: an out-of-range lane writes zero and raises nothing (R50). -/
def execLdbz (d a b : BitVec 8) (s : State) : Host.Outcome State Fault Refusal :=
  issue (.ldbz d a b) s (fun x => bufThen x (fun dd s =>
    let p := bufLanes x dd false (accLanes x)
    let q := throughL1 (some x.team.core) (p.1, p.2.1.filter (fun q => decide (q.cause ≠ 0x12)))
    loadForm x (plainLoad x) false q.1 q.2 (p.2.2.map (fun l => (l, 0))) id s))

/-- STB (R290). -/
def execStb (d a b : BitVec 8) (s : State) : Host.Outcome State Fault Refusal :=
  issue (.stb d a b) s (fun x => bufThen x (fun dd s =>
    let p := bufLanes x dd true (lanesOf x.n x.active)
    storeForm x p.1 p.2.1 (storeData x (2 ^ dd.esz)) s))

/-! ### Prefetch and cache control (R291, R292) -/

/-- Translates the line of a lane that PREF asks for, without a page request: its local address and the page's policy. -/
def prefLane (x : Iss) (l : Nat) (s : State) : State × Option (Nat × Nat) :=
  match effAddr (BitVec.ofNat 64 (readNat x x.f.a l 2)) (modOff x.m) with
  | none => (s, none)
  | some ga => match checkAccess s (whoOf x l) { ga := ga, n := 1, align := 1, write := false, atom := false, tags := true } with
    | (s1, .ok [.mem pa _ cp] _) => (s1, if poisonAt s1 pa 1 then none else some (pa / 128 * 128, cp))
    | (s1, _) => (s1, none)

/-- Requests a line: the home slice allocates it as the policy of its page says, and with `l1` the core's L1 takes it from a WB page. -/
def prefLine (x : Iss) (l1 : Bool) (pa cp : Nat) (s : State) : State :=
  loadPass (partOfCtx s x.team.ctx) (if l1 then some x.team.core else none) true false [.mem pa 128 cp] s

/-- PREF: requests the line of each active lane; a lane that fails a check is dropped (R291). -/
def execPref (a b : BitVec 8) (s : State) : Host.Outcome State Fault Refusal :=
  issue (.pref a b) s (fun x s => retire x ((lanesOf x.n x.active).foldl (fun s l => match prefLane x l s with
    | (s1, some (pa, cp)) => prefLine x (decide (bits x.m 0 0 = 1)) pa cp s1
    | (s1, none) => s1) s))

/-- What operations 1 to 3 of CCTL do to the line of a local address (R292). -/
def cctlLine (x : Iss) (pa : Nat) (s : State) : State :=
  match bits x.m 1 0 with
  | 1 => l1Kill s x.team.core (pa / 128 * 128) 128
  | 2 => sliceClean s pa false
  | _ => sliceClean s pa true

/-- CCTL: the core's L1 drops every line, or for each lane the L1 drops its line, or the home slice writes it back, or does so and
drops it; the lanes of operations 1 to 3 make checks 1, 5 and 6, and no operation changes a value in memory (R292). -/
def execCctl (a b : BitVec 8) (s : State) : Host.Outcome State Fault Refusal :=
  issue (.cctl a b) s (fun x s =>
    if x.active = 0 then retire x s
    else if bits x.m 1 0 = 0 then retire x (l1Drop s x.team.core)
    else
      let p := (lanesOf x.n x.active).foldr (fun l (acc : List LaneAcc × List Bad) =>
        let ga := BitVec.ofNat 64 (readNat x x.f.a l 2)
        match effAddr ga (modOff x.m) with
        | some e => (⟨l, { ga := e, n := 1, align := 1, write := false, atom := false, tags := false }⟩ :: acc.1, acc.2)
        | none => (acc.1, ⟨l, 0x10, some ga, none⟩ :: acc.2)) ([], [])
      settleThen x 0 false p.1 (fun ok bad s =>
        let s1 := ok.foldl (fun s p => match p.2 with
          | [.mem pa _ _] => cctlLine x pa s
          | _ => s) s
        if bad ++ p.2 = [] then retire x s1 else reportLanes x (bad ++ p.2) true 0 false s1) s)

/-! ### Memory tags (R293) -/

/-- The checks of STTAG and LDTAG for one lane, in their order; no store of data clears poison here (R293, R474). -/
def tagCheck (x : Iss) (write : Bool) (l : Nat) (s : State) : State × Checked :=
  let ga := BitVec.ofNat 64 (readNat x x.f.a l 2)
  let va := bits ga 55 0
  if ga.extractLsb' 60 4 ≠ 0 then (s, .fault 0x10)
  else if va % 32 ≠ 0 then (s, .fault 0x11)
  else if inAperture (bits x.ctx.spbase 55 0) (bits x.ctx.stkbase 55 0) ga then (s, .fault 0x10)
  else if bits x.ctx.ctxtr 61 61 = 0 then (s, .fault 0x13)
  else match translate s (.pipe x.team.core x.team.part) x.team.ctx va with
    | (s1, .fail c) => (s1, .fault c)
    | (s1, .request) => (s1, if x.split.pageFail.contains (va / 65536) then .fault 0x15 else .page (va / 65536))
    | (s1, .page p) =>
      if !isLocal s p.pa || decide (hostBase ≤ p.pa % 2 ^ 48) then (s1, .fault 0x10)
      else if write && p.ro then (s1, .fault 0x13)
      else if poisonAt s (p.pa % 2 ^ 48) 32 then (s1, .fault 0x17)
      else (s1, .ok [.mem (p.pa % 2 ^ 48) 32 p.cp] (decide (p.cp = 2)))

/-- The checks of STTAG and LDTAG for every lane, in ascending lanes. -/
def tagChecks (x : Iss) (write : Bool) (ls : List Nat) (s : State) : State × List (LaneAcc × Checked) :=
  ls.foldl (fun (acc : State × List (LaneAcc × Checked)) l =>
    let (s1, c) := tagCheck x write l acc.1
    (s1, acc.2 ++ [(⟨l, { ga := BitVec.ofNat 64 (readNat x x.f.a l 2), n := 32, align := 32, write := write, atom := false,
                          tags := false }⟩, c)])) (s, [])

/-- The checks of all lanes; open page requests, and side-log entries of the team for one of the sectors, hold the split, and then
`perform` acts on the lanes that pass (R45, R205). -/
def tagForm (x : Iss) (write : Bool) (ls : List Nat) (perform : List (Nat × Nat) → List Bad → State → State) (s : State) : State :=
  let (s1, rs) := tagChecks x write ls s
  let (s2, open_, refused) := askPages x 5 write (pageLanes rs) s1
  let l := rs.map (·.1)
  if open_ ≠ [] then holdAt x (.page (open_.map (·.2)).eraseDups) s2
  else if heldBy x s2 l true ≠ [] then parkAtWait x (fun e => (heldBy x s2 l true).contains e) s2
  else match heldBy x s2 l false with
    | e :: _ => holdAt x (.stall (.location e.ga e.size)) s2
    | [] => perform ((okLanes rs).filterMap (fun p => match p.2 with
      | [.mem pa _ _] => some (p.1.lane, pa)
      | _ => none)) (badLanes rs ++ refused) s2

/-- The tag of one sector is set at its home slice, and the sector leaves every L1 of the partition (R87, R293). -/
def setTag (x : Iss) (pa : Nat) (tag : BitVec 4) (s : State) : State :=
  l1KillIn { s with tags := mapSet 0 s.tags (pa / 32) tag } (partOfCtx s x.team.ctx) (pa / 32 * 32) 32

/-- STTAG: the tag of each lane's sector; the highest lane of one sector stays (R203, R293). -/
def execSttag (d a : BitVec 8) (s : State) : Host.Outcome State Fault Refusal :=
  issue (.sttag d a) s (fun x s =>
    if x.active = 0 then retire x s
    else tagForm x true (lanesOf x.n x.active) (fun ok bad s =>
      let s1 := ok.foldl (fun s p => setTag x p.2 ((readWord x x.f.d 0 p.1).extractLsb' 0 4) s) s
      if bad = [] then retire x s1 else reportLanes x bad true 5 true s1) s)

/-- LDTAG: the sector's tag, read at the home slice (R293). -/
def execLdtag (d a : BitVec 8) (s : State) : Host.Outcome State Fault Refusal :=
  issue (.ldtag d a) s (fun x s =>
    if x.active = 0 then retire x s
    else tagForm x false (accLanes x) (fun ok bad s =>
      let get (l : Nat) : Nat := match ok.find? (fun p => decide (p.1 = l)) with
        | some p => (tagOf s p.2).toNat
        | none => 0
      let done := maskOf x.n (fun l => ok.any (fun p => decide (p.1 = l)))
      let s1 := if done = 0 then s
        else addFlight x false .ready (regWrites x d 1 done (if x.scalarDst then fun _ => get x.first else get)) [] 0 none s
      if bad = [] then retire x s1 else reportLanes x bad true 5 false s1) s)

/-! ### Scale tiles (R246, R247, R294) -/

/-- A fault of the instruction as a whole, naming the lowest active lane; the active set is the resume mask (R294). (DEDUCED, log 27) -/
def wholeFault (x : Iss) (cause : BitVec 8) (accCode : BitVec 8) (ga : Option (BitVec 64)) (more : Option (Nat × BitVec 64)) (s : State) : State :=
  raiseFault s x.ref { cause := cause, pc := x.pc, lanes := x.active, atInstr := true, lane := x.first, acc := accCode,
                       addr := ga, write := false, info := if cause = 0x53 then 0 else BitVec.ofNat 32 (lanesOf x.n x.active).length
                       info2 := more.elim 0 (·.2), side := false }

/-- The word of lane `l` from a scale tile: byte k from row r xor 16k (R294). -/
def tileWord (byte : Nat → Nat) (l : Nat) : Nat :=
  let r := l % 64
  byte (4 * r) + (byte (4 * (r ^^^ 16) + 1) <<< 8) + (byte (4 * (r ^^^ 32) + 2) <<< 16) + (byte (4 * (r ^^^ 48) + 3) <<< 24)

/-- The end of LDSC: the split is held until every remote piece is here, then the words of the lanes are in flight; a failure is one
of the instruction as a whole (R168, R294). -/
def tileEnd (x : Iss) (la : LaneAcc) (ts : List Target) (s : State) : State :=
  let who := FetchFor.lane x.ref x.first
  if fetching s who ts then holdAt x (.stall .fetch) (askLanes x [(la, ts)] s)
  else match loadValue s (some x.team.core) x.block who ts 256 with
    | .error c => wholeFault x c 0 (some la.acc.ga) (badRead s who x.first la.acc.ga ts c).more (fetchForget s x.ref)
    | .ok v =>
      let ws := regWrites x x.f.d 1 x.active (tileWord (fun i => fld v (8 * i) 8))
      let s1 := addFlight x false .ready ws [] 0 none s
      let s2 := loadPass (partOfCtx s1 x.team.ctx) (some x.team.core) true false ts s1
      conflicts x [(la, ts)] (retire x (noteReads x [(256, ts)] (fetchForget s2 x.ref)))

/-- LDSC (R294). -/
def execLdsc (d a b : BitVec 8) (s : State) : Host.Outcome State Fault Refusal :=
  issue (.ldsc d a b) s (fun x s => bufThen x (fun dd s =>
    let t := (readU x b).toNat
    let ga := BitVec.ofNat 64 ((dd.tag.toNat <<< 56) + (dd.base + 256 * t) % 2 ^ 56)
    let la : LaneAcc := ⟨x.first, { ga := ga, n := 256, align := 1, write := false, atom := false, tags := true, l1 := some x.team.core }⟩
    if dd.base % 256 ≠ 0 ∨ dd.len < (t + 1) * 256 then wholeFault x 0x53 0xFF none none s
    else if dd.wo then wholeFault x 0x13 0 (some ga) none s
    else settleThen x 0 false [la] (fun ok bad s =>
      match ok, bad with
      | (_, ts) :: _, [] => tileEnd x la ts s
      | _, bd :: _ => wholeFault x bd.cause 0 (some ga) none s
      | [], [] => retire x s) s) s)

/-! ### Fences (R298) -/

/-- FENCE: a kind with an acquire waits for the responses of the team's remote atomics and reductions and drops the core's L1 from scope
dev; a kind with a release waits as a release does (R170, R199, R298). -/
def execFence (b : BitVec 8) (s : State) : Host.Outcome State Fault Refusal :=
  issue (.fence b) s (fun x s =>
    let scope := bits x.m 4 2
    let acq := if bits x.m 1 0 = 1 then id else acquire x scope
    if x.active = 0 then retire x s
    else if bits x.m 1 0 = 0 then
      if madeBefore s (relMark x s) (atomicOf x.ref.team) then holdMarked x .atomics s else retire x (acq s)
    else releaseThen x scope (fun s => retire x (acq s)) s)

/-! ### Waits on memory (R299 to R301, R421) -/

/-- Is the dispatch live: accepted and not complete? -/
def liveDispatch (s : State) (c : Nat) (low16 : Nat) : Option Dispatch :=
  s.dispatches.find? (fun d => decide (d.cmd.ctx = c) && decide (d.id.toNat % 65536 = low16))

/-- Is the declared party legal (R300, R421)? -/
def waitLegal (x : Iss) (s : State) : Bool :=
  let arg := bits x.m 23 8
  match bits x.m 5 4 with
  | 0 => true
  | 1 => decide (x.disp.cls = 0)
  | 2 => decide (x.disp.cls ≠ 2) && decide (arg ≤ x.team.key.block)
  | _ => match liveDispatch s x.team.ctx arg with
    | some d => decide (d.cls = 0)
    | none => false

/-- The wait on a word that has been read: the form retires when the condition holds, and the read is an acquire at scope SC. -/
def waitWord (x : Iss) (eq : Bool) (v cmp : Nat) (again : State → State) (s : State) : State :=
  if decide (v = cmp) = eq then leaveWait x (bits x.m 3 1) s else again s

/-- The check of the declaration is made once, when the wait issues (R300). -/
def legalThen (x : Iss) (eff : State → State) (s : State) : State :=
  if x.split.legal then eff s
  else if waitLegal x s then eff (updSplit s x.ref (fun sp => { sp with legal := true }))
  else raiseFault s x.ref { plainFault 0x50 x.pc x.active 0 with lane := x.first }

/-- WAITEQ and WAITNE (R299 to R301). A remote word is read again every 256 cc; the first read holds the split as a load's does, and
the wait's count starts with its first unmet check (R423). -/
def waitForm (x : Iss) (eq : Bool) (s : State) : State :=
  let n := if bits x.m 0 0 = 1 then 8 else 4
  let ga := readU64 x x.f.a
  let cmp := readNat x x.f.b 0 (n / 4)
  let who := FetchFor.split x.ref
  if x.active = 0 then retire x s
  else legalThen x (settleThen x 0 false [⟨x.first, { ga := ga, n := n, align := n, write := false, atom := false, tags := true }⟩]
    (fun ok bad s => match ok, bad with
      | (_, ts) :: _, [] =>
        if fetching s who ts then
          holdAt x (.stall .fetch)
            (fetchAsk s who (teamHdr s x.team kLOAD 0 0 1 (bits ga 59 56) false) ts)
        else match loadValue s none x.block who ts n with
          | .error c => reportLanes x [badRead s who x.first ga ts c] true 0 false (fetchForget s x.ref)
          | .ok v => waitWord x eq v cmp (fun s => match ts with
              | [.spad o] => let (s1, on) := watchSpad s x.ref o; holdAt x (.wait [on]) s1
              | .mem pa _ _ :: _ => waitOn x pa s
              | _ => holdAt x (.wait [.poll]) s)
            (noteReads x [(n, ts)] (fetchForget (loadPass (partOfCtx s x.team.ctx) none false false ts s) x.ref))
      | _, bad => reportLanes x bad true 0 false s)) s

/-- WAITEQ (R299). -/
def execWaiteq (d a b : BitVec 8) (s : State) : Host.Outcome State Fault Refusal :=
  issue (.waiteq d a b) s (fun x s => waitForm x true s)

/-- WAITNE (R299). -/
def execWaitne (d a b : BitVec 8) (s : State) : Host.Outcome State Fault Refusal :=
  issue (.waitne d a b) s (fun x s => waitForm x false s)

end Sys2Proof.Machine
end

