-- ==== Sys2Proof/Machine/Sched.lean ====
section
/-! DEFINITION. The scheduler of a partition: readiness, the priority list, clause fetch, the completion of long-latency
operations, taking a user trap, promotion, release and timed events of splits (R252 to R261, R411 to R426, R439, R440). -/
namespace Sys2Proof.Machine
open Sys2Proof.Forms

/-! ### Lists in order -/

/-- Is one list of keys before another? -/
def lexLt : List Nat → List Nat → Bool
  | a :: as, b :: bs => if a = b then lexLt as bs else decide (a < b)
  | [], _ :: _ => true
  | _, [] => false

/-- Puts an element behind those whose key is not greater. -/
def insertBy {α : Type} (key : α → List Nat) (x : α) : List α → List α
  | [] => [x]
  | y :: rest => if lexLt (key x) (key y) then x :: y :: rest else y :: insertBy key x rest

/-- A list in ascending order of its keys; equal keys keep their order. -/
def sortBy {α : Type} (key : α → List Nat) (l : List α) : List α := l.foldl (fun acc x => insertBy key x acc) []

/-! ### Readiness (R414, R425, R447, R472) -/

/-- Is the quarter of a core held or gated by the thermal guard, or powered down (R91, R472)? -/
def coreHeld (s : State) (core : Nat) : Bool := (s.thold ||| s.pwrgate).getLsbD (core / 64)

/-- Is a team resident: placed, not saved or about to be, not ended (R414, R454)? It still issues in the cycle in which a save is
decided, so that a BKPT of that cycle is taken first (R410). -/
def resident (s : State) (t : Team) : Bool :=
  !t.ended && (match blockOf s t.key.disp t.key.block with
    | some b => !b.saved && !(b.saving && decide (b.saveAt ≠ s.cycle))
    | none => false)

/-- May the team's split act: resident, not parked, not halted unless a step is under way, not held by the guard? -/
def canRun (s : State) (t : Team) (sp : Split) : Bool :=
  resident s t && !t.parked && (!t.halted || sp.stepping) && !coreHeld s t.core

/-- The split's requests for a user trap. -/
def trapsOf (t : Team) (high : Bool) : List TrapReq := t.traps.filter (fun q => decide (q.high = high))

/-- Is a trap request of the split to be taken before it issues again (R439, R440)? -/
def trapDue (t : Team) (high : Bool) (sp : Split) : Bool := sp.handler.isNone && decide (trapsOf t high ≠ [])

/-- Is a dispatch in ordered issue mode? -/
def orderedDisp (s : State) (id : BitVec 64) : Bool := ((dispOf s id).getD noDispatch).ordered

/-- The turn of an ordered block: its holder, or the next split where the holder has vanished (R425). -/
def turnOf (s : State) (b : Block) : Nat :=
  if s.teams.any (fun t => decide (t.key.disp = b.disp) && decide (t.key.block = b.index) && !t.ended &&
      decide (t.key.team = b.turn / 2) && (splitIn t (decide (b.turn % 2 = 1))).isSome) then b.turn
  else nextTurn s b

/-- Has the split the turn? None has while the last holder's accesses are not performed. In a dispatch that is not ordered there is
none to hold (R217, R425). -/
def hasTurn (s : State) (t : Team) (high : Bool) : Bool :=
  if orderedDisp s t.key.disp then
    match blockOf s t.key.disp t.key.block with
    | some b => !b.owed && decide (turnOf s b = 2 * t.key.team + high.toNat)
    | none => false
  else true

/-- Has what a structural stall waits for come about? The queue that a start waits for depends on its opcode. -/
def stallOver (s : State) (t : Team) (r : SplitRef) (sp : Split) (st : Stall) : Bool :=
  let mark := sp.relAt.getD s.reqNum
  match st with
  | .log => decide (openEntries s r.team = []) || decide (failedEntries s r.team ≠ [])
  | .location ga n => !(openEntries s r.team).any (fun e => decide (e.ga = ga) && decide (e.size = n))
  | .logFull => decide ((s.sideLog.filter (fun e => decide (e.core = t.core) && !e.failed)).length < 256)
  | .remote => !madeBefore s mark (fun q => decide (reqTeam q = some r.team))
  | .writes => !madeBefore s mark (fun _ => true)
  | .atomics => !madeBefore s mark (atomicOf r.team)
  | .reads dev => !readsToward s r.team dev.toNat mark
  | .flush => s.flushes.any (fun f => decide (f.2 = r) && decide (f.1 = flushDone))
  | .engine =>
    let op := match sp.clause with
      | some c => bits (c.words.getD sp.pos 0) 31 24
      | none => 0
    if within op 0xD0 0xDF then decide (mqShare s t < 8)
    else if op = 0xC6 then decide (exchangesOf s t.core < 16)
    else decide (xeQueued s t.core < 64)
  | .releases n => decide (unacked s t n < 128)
  | .results => !t.inflight.any (fun e => decide (e.state ≠ .done) && decide (e.state ≠ .ready) && e.writes.any (fun w => decide (w.code < 128)))
  | .service => false
  | .fetch => !s.outReqs.any (fun q => match q.waiter with
      | .fetch who _ => who.isOf r
      | _ => false)

/-- Does a hold let the split issue? In ordered mode a pending wait and a JOIN wait make one check each turn (R425). -/
def holdOver (s : State) (t : Team) (r : SplitRef) (sp : Split) : Bool :=
  match sp.hold with
  | .none => true
  | .stall st => stallOver s t r sp st
  | .wait on => orderedDisp s t.key.disp && decide (on ≠ [])
  | .join => orderedDisp s t.key.disp
  | _ => false

/-- Is a split ready in this cycle: none of its remote requests waits for room in the remote-line table (R169, R414)? -/
def ready (s : State) (t : Team) (r : SplitRef) (sp : Split) : Bool :=
  canRun s t sp && decide (sp.busy = 0) && sp.clause.isSome && !trapDue t r.high sp && holdOver s t r sp && hasTurn s t r.high &&
  !linesFull s r

/-! ### The priority list of a partition (R416, R417) -/

/-- A split's place in the list: tier, and the order within it. -/
def listKey (s : State) (t : Team) (r : SplitRef) (sp : Split) : List Nat :=
  match sp.tier with
  | 0 => [0, sp.dropAt.toNat, t.slot, r.high.toNat]
  | 1 => [1, 7 - ((dispOf s t.key.disp).getD noDispatch).prio, sp.stamp.toNat]
  | _ => [2, sp.stamp.toNat]

/-- The splits of a partition in list order. -/
def partList (s : State) (k : Nat) : List (Team × SplitRef × Split) :=
  sortBy (fun p => listKey s p.1 p.2.1 p.2.2)
    ((s.teams.filter (fun t => decide (partKey t = k) && resident s t)).flatMap (fun t => (splitsOf t).map (fun p => (t, p.1, p.2))))

/-- The partitions that hold a resident team, ascending. -/
def partsInUse (s : State) : List Nat := sortBy (fun k => [k]) ((s.teams.filter (resident s)).map partKey).eraseDups

/-- Is a team's storage in place: placed, not saved, not ended? A block that is being saved is. -/
def inPlace (s : State) (t : Team) : Bool :=
  !t.ended && (match blockOf s t.key.disp t.key.block with
    | some b => !b.saved
    | none => false)

/-- Pipes of a partition that no pass of an earlier instruction occupies, of a team that is being saved either (R415). -/
def freePipes (s : State) (k : Nat) : Nat :=
  2 - ((s.teams.filter (fun t => decide (partKey t = k) && inPlace s t)).flatMap splitsOf |>.filter (fun p => decide (p.2.busy ≠ 0))).length

/-- The splits that the pipes of a partition take: the first ready ones of its list (R417). -/
def takes (s : State) (k : Nat) (l : List (Team × SplitRef × Split)) : List SplitRef :=
  ((l.filter (fun p => ready s p.1 p.2.1 p.2.2)).map (fun p => p.2.1)).take (freePipes s k)

/-! ### Clause fetch (R26, R252 to R256, R259, R272) -/

/-- What the fetch of a word gives. -/
inductive FetchEnd where
  | word (w : Word)
  | bad (cause : BitVec 8)
  | page (page : Nat)
  deriving DecidableEq, Repr

/-- A word of code through the core's instruction cache: as it was first fetched, and where memory holds another by now, one of the
two, which a free value says (R256). (DESIGN CHOICE, log 4 and log 81) -/
def cachedWord (s : State) (core pa : Nat) : State × Word :=
  let now := BitVec.ofNat 32 (readMem s pa 4)
  match mapGet none (coreOf s core).icache (pa / 4) with
  | none => (updCore s core (fun k => { k with icache := mapSet none k.icache (pa / 4) (some now) }), now)
  | some old =>
    if old = now then (s, now)
    else ({ s with fresh := s.fresh + 1 }, if (unknown s.fresh 0).getLsbD 0 then old else now)

/-- Who fetches: a scheduler partition of a core, for a context. -/
structure Fetcher where
  ctx  : Nat
  core : Nat
  part : Nat
  deriving DecidableEq, Repr

def fetcherOf (t : Team) : Fetcher := { ctx := t.ctx, core := t.core, part := t.part }

/-- Fetches one word of code: no tag check; an aperture, an XN page and a remote address are XN faults (R26). -/
def fetchWord (s : State) (c : Fetcher) (failed : List Nat) (va : Nat) : State × FetchEnd :=
  let x := ctxOf s c.ctx
  if inAperture (bits x.spbase 55 0) (bits x.stkbase 55 0) (BitVec.ofNat 64 va) then (s, .bad 0x14)
  else match translate s (.pipe c.core c.part) c.ctx va with
    | (s1, .fail c) => (s1, .bad c)
    | (s1, .request) => (s1, if failed.contains (va / 65536) then .bad 0x15 else .page (va / 65536))
    | (s1, .page p) =>
      if p.xn || !isLocal s1 p.pa then (s1, .bad 0x14)
      else if poisonAt s1 (p.pa % 2 ^ 48) 4 then (s1, .bad 0x17)
      else
        let (s2, w) := cachedWord (sliceTouch s1 (partOfCtx s1 c.ctx) p.cp false (p.pa % 2 ^ 48) 4 false) c.core (p.pa % 2 ^ 48)
        (s2, .word w)

/-- Fetches `n` words from an address on; the first that fails ends it, with its address. -/
def fetchWords (c : Fetcher) (failed : List Nat) : Nat → BitVec 56 → State → State × Except (FetchEnd × BitVec 56) (List Word)
  | 0, _, s => (s, .ok [])
  | n + 1, va, s =>
    match fetchWord s c failed va.toNat with
    | (s1, .word w) => match fetchWords c failed n (va + 4) s1 with
      | (s2, .ok l) => (s2, .ok (w :: l))
      | r => r
    | (s1, e) => (s1, .error (e, va))

/-- Is a header malformed in itself (R255)? -/
def headerBad (h : Word) : Bool :=
  bits h 31 29 ≠ 6 || bits h 23 20 = 0 || bits h 28 28 = 1 || within (bits h 15 12) 0xC 0xE || within (bits h 19 16) 0xC 0xE

/-- Literal words of a clause (R253). -/
def literalCount (h : Word) : Nat := if bits h 26 24 = 7 then 8 else bits h 26 24

/-- Is the clause malformed in its forms: a final form before the end, or a long-latency form without a flag (R255)? -/
def formsBad (h : Word) (ws : List Word) : Bool :=
  (List.range ws.length).any (fun i =>
    let op := bits (ws.getD i 0) 31 24
    (final op && decide (i + 1 ≠ ws.length)) ||
    (decide (latency op = .memory) && decide (bits h 15 12 = 15)) ||
    (decide (latency op = .execution) && decide (bits h 19 16 = 15)))

/-- The literals of a clause of a dispatch, with the patches laid over (R272). -/
def overlaid (d : Dispatch) (a : BitVec 56) (lits : List Word) : List Word :=
  (List.range lits.length).map (fun i =>
    match d.overlays.find? (fun o => decide (o.clause = a) && decide (o.slot = i)) with
    | some o => o.value
    | none => lits.getD i 0)

/-- Past a clause as its header counts its words. -/
def pastHeader (sp : Split) (h : Word) : BitVec 56 := sp.pc + BitVec.ofNat 56 (4 * (1 + bits h 23 20 + literalCount h))

/-- A fault of the fetch: held at the clause, naming the word; a SKIP goes on at `after` (R255, R256, R450). (DEDUCED, log 39 and log 56) -/
def fetchFault (s : State) (r : SplitRef) (t : Team) (sp : Split) (cause : BitVec 8) (pc : BitVec 56) (info : Word) (after : BitVec 56) :
    State :=
  let access := within cause.toNat 0x10 0x1B
  raiseFault s r { plainFault cause pc (activeOf t sp) info with
    after := some after, acc := if access then 4 else 0xFF, addr := if access then some (pc.setWidth 64) else none }

/-- A fetch that meets an open page request holds the split; with the ring disabled the request counts as failed. (DEDUCED, log 39) -/
def fetchStop (s : State) (r : SplitRef) (t : Team) (sp : Split) (e : FetchEnd) (va after : BitVec 56) : State :=
  match e with
  | .page p =>
    match requestPage s t.ctx p { teamRec s t 1 0x1B with entry := 2 * t.slot + r.high.toNat, acc := 4, pc := va.setWidth 64, addr := va.setWidth 64 } with
    | (s1, some q) => updSplit s1 r (fun sp => { sp with hold := .page [q], ready := 0 })
    | (s1, none) => fetchFault s1 r t sp 0x15 va 0 after
  | .bad c => fetchFault s r t sp c va 0 after
  | .word _ => s

/-- The position of the JOIN of a clause for a split that resumes at it; else the position stands (R389). -/
def startPos (sp : Split) (ws : List Word) : Nat :=
  if sp.pos = atJoin then (ws.findIdx? (fun w => decide (bits w 31 24 = 0x05))).getD 0 else sp.pos

/-- Completes the operations whose results are in hand and whose flag the split waits for (R259). (DESIGN CHOICE, log 5) -/
def awaited (t : Team) (high : Bool) (wait : Nat) : List Event :=
  (t.inflight.filter (fun e => decide (e.state = .ready) && (if high then e.high else e.low) && decide (e.flag < 12) &&
    decide (fld wait e.flag 1 = 1))).map (fun e => .operationComplete t.key e.id)

/-- CLAUSE_FETCH: the clause is fetched and checked whole, and starts once every flag of its WAIT is clear. (DEDUCED, log 39) -/
def clauseFetch (r : SplitRef) (s : State) : State :=
  match teamOf s r.team with
  | none => s
  | some t => match splitIn t r.high with
    | none => s
    | some sp =>
      if sp.clause.isSome then s
      else match fetchWords (fetcherOf t) sp.pageFail 1 sp.pc s with
        | (s1, .error (e, va)) => fetchStop s1 r t sp e va (sp.pc + 4)
        | (s1, .ok hs) =>
          let h := hs.headD 0
          if headerBad h then fetchFault s1 r t sp 0x20 sp.pc h (pastHeader sp h)
          else match fetchWords (fetcherOf t) sp.pageFail (bits h 23 20 + literalCount h) (sp.pc + 4) s1 with
            | (s2, .error (e, va)) => fetchStop s2 r t sp e va (pastHeader sp h)
            | (s2, .ok ws) =>
              let body := ws.take (bits h 23 20)
              if formsBad h body then fetchFault s2 r t sp 0x20 sp.pc h (pastHeader sp h)
              else if fld (flagBits t r.high) 0 12 &&& bits h 11 0 ≠ 0 then addAgenda s2 (awaited t r.high (bits h 11 0))
              else
                let c : Clause := { addr := sp.pc, header := h, words := body,
                                    lits := overlaid ((dispOf s r.team.disp).getD noDispatch) sp.pc (ws.drop (bits h 23 20)) }
                updSplit s2 r (fun sp => { sp with clause := some c, pos := startPos sp body, bypass := [], pageFail := [] })

/-- CLAUSE_FETCH (R252 to R256, R259, R272). -/
def execClauseFetch (s : State) : Host.Outcome State Fault Refusal :=
  match s.event with
  | some (.clauseFetch r) => .next (clauseFetch r { s with event := none })
  | _ => .next s

/-! ### Completion of long-latency operations (R210, R230, R259, R260) -/

/-- Do two operations share a flag in a split? -/
def sharesFlag (a b : InFlight) : Bool := decide (a.flag = b.flag) && ((a.low && b.low) || (a.high && b.high))

/-- An operation that is done and whose flag no unfinished one keeps set. -/
def flagOver (l : List InFlight) (e : InFlight) : Bool :=
  decide (e.state = .done) && !l.any (fun u => decide (u.state ≠ .done) && sharesFlag e u)

/-- What an operation leaves when its flag clears: exception bits in MODE, and a dropped split sees the flag (R230, R420). -/
def flagClears (e : InFlight) (high : Bool) (sp : Split) : Split :=
  if (if high then e.high else e.low) then
    { sp with mode := orXF sp.mode e.xf, dropAt := if sp.tier = 2 then 0 else sp.dropAt }
  else sp

/-- Puts a trap request among those that stand, in the issue order of the instructions that made them (R440). -/
def insertTrap (q : TrapReq) : List TrapReq → List TrapReq
  | [] => [q]
  | p :: rest => if q.num < p.num then q :: p :: rest else p :: insertTrap q rest

/-- Clears the flags whose operations are all done; their trap requests stand from now on (R440). (DEDUCED, log 18) -/
def clearFlags (t : Team) : Team :=
  let done_ := t.inflight.filter (flagOver t.inflight)
  done_.foldl (fun t e =>
    { t with low := t.low.map (flagClears e false), high := t.high.map (flagClears e true)
             traps := match e.trap with
               | some q => if (splitIn t q.high).isSome then insertTrap q t.traps else t.traps
               | none => t.traps })
    { t with inflight := t.inflight.filter (fun e => !flagOver t.inflight e) }

/-- The writes of an operation; a register written in the meantime and the results beside it are UNKNOWN (R210, R260). (DESIGN CHOICE, log 5) -/
def landWrites (fresh : Nat) (e : InFlight) (t : Team) : Team :=
  let t1 := e.writes.foldl (fun t w =>
    putReg t (if e.lost || w.lost then { w with val := unknown fresh (1024 * w.code + w.lane) } else w)) t
  e.spoilt.foldl (fun t v => putV t v (maskOf (lanes t) (fun _ => true)) (fun l => unknown fresh (2 ^ 20 + vKey v l))) t1

/-- What an operation has written, as the spin detector compares it (R420). (DEDUCED, log 24) -/
def landedValues (e : InFlight) : List Word := e.writes.flatMap (fun w => [BitVec.ofNat 32 (1024 * w.code + w.lane), w.val])

/-- The splits whose flag it set count its values among those of the iteration. -/
def noteLanded (e : InFlight) (t : Team) : Team :=
  let f (sp : Split) : Split := { sp with spinNow := sp.spinNow ++ landedValues e }
  { t with low := if e.low then t.low.map f else t.low, high := if e.high then t.high.map f else t.high }

/-- OPERATION_COMPLETE: the results are written, and the flag clears with the last operation that set it. (DESIGN CHOICE, log 5) -/
def operationComplete (k : TeamKey) (op : Nat) (s : State) : State :=
  match teamOf s k with
  | none => s
  | some t => match t.inflight.find? (fun e => decide (e.id = op) && decide (e.state = .ready)) with
    | none => s
    | some e =>
      let wv := t.wroteV
      let s1 := updTeam { s with fresh := s.fresh + 1 } k (fun t =>
        let t1 := noteLanded e (landWrites s.fresh e t)
        clearFlags { t1 with wroteV := (t1.wroteV ++ wv).eraseDups
                             inflight := t1.inflight.map (fun u => if u.id = op then { u with state := .done } else u) })
      addAgenda s1 (match teamOf s1 k with
        | some t => (splitsOf t).filterMap (fun p => if trapsOf t p.1.high ≠ [] then some (.userTrapEntry p.1) else none)
        | none => [])

/-- OPERATION_COMPLETE (R259). -/
def execOperationComplete (s : State) : Host.Outcome State Fault Refusal :=
  match s.event with
  | some (.operationComplete k op) => .next (operationComplete k op { s with event := none })
  | _ => .next s

/-! ### User traps (R400, R439, R440) -/

/-- Does a hold leave the split between two instructions, so that it takes a trap request: a structural stall does, since the
instruction has not been issued (R321, R439)? (DEDUCED, log 18) -/
def trapsIn : Hold → Bool
  | .none | .trap | .stall _ => true
  | _ => false

/-- A split leaves the instruction that it could not issue: what it has asked for is forgotten. -/
def leaveStall (r : SplitRef) (sp : Split) (s : State) : State :=
  match sp.hold with
  | .stall _ => fetchForget { s with flushes := s.flushes.filter (fun f => decide (f.2 ≠ r)) } r
  | _ => s

/-- USER_TRAP_ENTRY: the first request of the split is taken, or held while the other split is in handler state; without a
vector it becomes a fault. -/
def userTrapEntry (r : SplitRef) (s : State) : State :=
  match teamOf s r.team with
  | none => s
  | some t => match splitIn t r.high, trapsOf t r.high with
    | some sp, q :: _ =>
      if sp.handler.isSome || !canRun s t sp || !trapsIn sp.hold then s
      else if (match splitIn t (!r.high) with
          | some o => o.handler.isSome
          | none => false) then updSplit (leaveStall r sp s) r (fun sp => { sp with hold := .trap })
      else
        let s1 := updTeam (leaveStall r sp s) r.team (fun t => { t with traps := t.traps.erase q })
        if t.trapVec.setWidth 56 = (0 : BitVec 56) then
          raiseFault (updSplit s1 r (fun sp => { sp with hold := .none })) r
            { plainFault 0x58 q.addr q.lanes 0 with atInstr := false }
        else endStep (takeTrap s1 r q) r
    | _, _ => s

/-- USER_TRAP_ENTRY (R439). -/
def execUserTrapEntry (s : State) : Host.Outcome State Fault Refusal :=
  match s.event with
  | some (.userTrapEntry r) => .next (userTrapEntry r { s with event := none })
  | _ => .next s

/-! ### Tiers (R416, R419, R420) -/

/-- STARVATION_PROMOTE: to tier 0 for 16 instructions; a split that leaves tier 2 receives a new stamp. (DEDUCED, log 73) -/
def starvationPromote (r : SplitRef) (s : State) : State :=
  match splitOf s r with
  | none => s
  | some sp =>
    let s1 := if sp.tier = 2 then newStamp s r else s
    if sp.tier = 0 then s else updSplit s1 r (fun sp => { sp with tier := 0, promoted := 16, dropAt := s.cycle, ready := 0 })

/-- STARVATION_PROMOTE (R419). -/
def execStarvationPromote (s : State) : Host.Outcome State Fault Refusal :=
  match s.event with
  | some (.starvationPromote r) => .next (starvationPromote r { s with event := none })
  | _ => .next s

/-- A split in tier 1, its spin detector at the start. (DEDUCED, log 24) -/
def inTierOne (sp : Split) : Split :=
  { sp with tier := 1, promoted := 0, dropAt := 0, spinAt := none, spinRuns := 0, spinNow := [], spinLast := [], spinRead := [] }

/-- A split returns to tier 1 with a new stamp. (DEDUCED, log 73) -/
def toTierOne (r : SplitRef) (s : State) : State := newStamp (updSplit s r inTierOne) r

/-- Has a release event of R420 come: an observed change (the drop cycle is cleared), or 1,024 cycles? (DEDUCED, log 24) -/
def dropOver (s : State) (sp : Split) : Bool :=
  decide (sp.tier = 2) && (decide (sp.dropAt = 0) || decide (sp.dropAt.toNat + 1024 ≤ s.cycle.toNat))

/-- SPIN_RELEASE_TIMEOUT (R420). -/
def execSpinReleaseTimeout (s : State) : Host.Outcome State Fault Refusal :=
  match s.event with
  | some (.spinReleaseTimeout r) =>
    .next (match splitOf s r with
      | some sp => if dropOver s sp then toTierOne r { s with event := none } else { s with event := none }
      | none => { s with event := none })
  | _ => .next s

/-! ### Timed holds -/

/-- SLEEP_EXPIRE: the split goes on (R393). -/
def execSleepExpire (s : State) : Host.Outcome State Fault Refusal :=
  match s.event with
  | some (.sleepExpire r) => .next (updSplit { s with event := none } r (fun sp =>
      if sp.hold = .sleep 0 then { sp with hold := .none } else sp))
  | _ => .next s

/-- WATCH_WAKE: the split reads the word again, and a dropped one returns to tier 1 (R63, R420). -/
def execWatchWake (s : State) : Host.Outcome State Fault Refusal :=
  match s.event with
  | some (.watchWake r) => .next (updSplit { s with event := none } r (fun sp =>
      match sp.hold with
      | .wait _ => { sp with hold := .none, dropAt := if sp.tier = 2 then 0 else sp.dropAt }
      | _ => sp))
  | _ => .next s

/-- WATCH_POLL: a wait whose watch was refused, or whose word is remote or in the host window, reads again (R64, R301). -/
def execWatchPoll (s : State) : Host.Outcome State Fault Refusal :=
  match s.event with
  | some (.watchPoll r) => .next (updSplit { s with event := none } r (fun sp =>
      match sp.hold with
      | .wait on => if on.contains .poll then { sp with hold := .none } else sp
      | _ => sp))
  | _ => .next s

/-! ### Wait timeout (R149, R423) -/

/-- The step-area words BIND and RESIDENT of the sources of the slabs that unmet lanes of a HLD await, in turn: the pointer tag and
the access of each (R149). -/
def unmetSources (g : GridSlot) (q : Nat) (unmet : List (Nat × Nat)) : List (Nat × Access) :=
  let gd := gridOf g.desc
  let src := ((unmet.map (·.2)).eraseDups.map (fun k => (slabSource gd q k).2)).eraseDups
  src.flatMap (fun p => [wBIND, wRESIDENT].map (fun k => ((slotPart g p).stag, stepAccess (stepGa gd (slotPart g p) k) false)))

/-- Who reads them: the core, for no lane. -/
def sourceWho (t : Team) (sp : Split) : Who :=
  { ctx := t.ctx, via := .pipe t.core t.part, spBytes := 0, slot := 0, lane := 0, failed := sp.pageFail }

/-- Their checks, in order. -/
def checkSources (w : Who) : List (Nat × Access) → State → State × List (Nat × Access × Checked)
  | [], s => (s, [])
  | (tag, a) :: rest, s =>
    let (s1, c) := checkAccess s w a
    let (s2, l) := checkSources w rest s1
    (s2, (tag, a, c) :: l)

/-- The words read: 0 where a check or the read fails. (DEDUCED, log 41) -/
def sourceWords (s : State) (who : FetchFor) : List (Nat × Access × Checked) → List Nat
  | [] => []
  | (_, _, .ok ts _) :: rest => (match fetchValue s none noBlock who ts with
      | .ok v => v
      | .error _ => 0) :: sourceWords s who rest
  | _ :: rest => 0 :: sourceWords s who rest

/-- The page requests of the sources that need one: their identities (R38, R149). (DEDUCED, log 41) -/
def askSources (r : SplitRef) (t : Team) (sp : Split) (lane : Nat) : List (Nat × Access × Checked) → State → State × List (BitVec 32)
  | [], s => (s, [])
  | (_, a, .page p) :: rest, s =>
    let (s1, q) := requestPage s t.ctx p { teamRec s t 1 0x1B with
      entry := 2 * t.slot + r.high.toNat, flags := 1, acc := 0, lane := BitVec.ofNat 16 lane, pc := (instrPc sp).setWidth 64, addr := a.ga }
    let (s2, l) := askSources r t sp lane rest s1
    (s2, q.toList ++ l)
  | _ :: rest, s => askSources r t sp lane rest s

/-- Does the count of a stalled HLD restart: no source reads BIND = 0, and one reads RESIDENT = 0 (R149)? The list holds
BIND and RESIDENT in turn. -/
def restarts : List Nat → Bool × Bool
  | b :: r :: rest => (decide (b ≠ 0) && (restarts rest).1, decide (r = 0) || (restarts rest).2)
  | _ => (true, false)

/-- The slot that the HLD at which a split stands names. -/
def hldSlot (s : State) (t : Team) (r : SplitRef) (sp : Split) : GridSlot :=
  match sp.clause with
  | some c => slotOf (ctxOf s t.ctx) (bits (issOf s r t sp c (wordFields (c.words.getD sp.pos 0))).m 3 0)
  | none => GridSlot.reset

/-- The lowest unmet lane of a HLD, else the lowest active lane (R423). -/
def waitLane (t : Team) (sp : Split) : Nat :=
  match sp.unmet with
  | [] => firstLane (lanes t) (activeOf t sp)
  | u => u.foldl (fun m p => min m p.1) 1023

/-- The timeout fault (R423). -/
def timeoutFault (r : SplitRef) (t : Team) (sp : Split) (s : State) : State :=
  let s1 := updSplit (dropWatches s r) r (fun sp => { newAttempt sp with hold := .none })
  raiseFault (fetchForget s1 r) r { plainFault 0x51 (instrPc sp) (activeOf t sp) 0 with lane := waitLane t sp }

/-- The end of a HLD's wait: BIND and RESIDENT of the sources are read, behind page requests and remote reads where they need them;
the count restarts, or the wait has timed out (R149). -/
def haloTimeout (r : SplitRef) (t : Team) (sp : Split) (g : GridSlot) (q : Nat) (s : State) : State :=
  let who := FetchFor.split r
  let (s1, l) := checkSources (sourceWho t sp) (unmetSources g q sp.unmet) s
  match askSources r t sp (waitLane t sp) l s1 with
  | (s2, id :: ids) => updSplit s2 r (fun sp => { sp with hold := .page (id :: ids) })
  | (s2, []) =>
    if l.any (fun o => match o.2.2 with
        | .ok ts _ => fetching s2 who ts
        | _ => false) then
      l.foldl (fun s o => match o.2.2 with
        | .ok ts _ => fetchAsk s who (teamHdr s t kLOAD 0 0 1 o.1 false) ts
        | _ => s) s2
    else
      let (bound, absent) := restarts (sourceWords s2 who l)
      if bound && absent then fetchDrop (updSplit s2 r (fun sp => { sp with waited := some 0 })) who
      else timeoutFault r t sp s2

/-- WAIT_TIMEOUT (R423); of a HLD the sources are read first (R149). -/
def waitTimeout (r : SplitRef) (s : State) : State :=
  match teamOf s r.team with
  | none => s
  | some t => match splitIn t r.high with
    | none => s
    | some sp => match sp.waited with
      | none => s
      | some n =>
        if n < sp.limit then s
        else match sp.unmet with
          | [] => timeoutFault r t sp s
          | _ =>
            let g := hldSlot s t r sp
            match ownPart s g r.team.block with
            | none => timeoutFault r t sp s
            | some q => haloTimeout r t sp g q s

end Sys2Proof.Machine
end

