-- ==== Sys2Proof/Machine/Cuff.lean ====
section
/-! DEFINITION. The Cuff gates: stamping, the log and its records, delivery eight network cycles later, and replay (R479, R480,
R489 to R496). -/
namespace Sys2Proof.Machine
open Sys2Proof.Forms

/-! ### Records (R491, R495) -/

/-- The words of a Band message: header and payload (R89). -/
def bandHeader (m : BandMsg) : BitVec 64 := m.addr ++ (0 : BitVec 5) ++ m.len ++ m.kind ++ m.source ++ m.dest
def bandOf (h : BitVec 64) (payload : List (BitVec 64)) : BandMsg :=
  { dest := h.extractLsb' 0 10, source := h.extractLsb' 10 10, kind := h.extractLsb' 20 4, len := h.extractLsb' 24 3,
    addr := h.extractLsb' 32 32, payload := payload }

/-- KIND, source and payload of an arrival. -/
def arrivalHead : Arrival → Nat × Nat × List Byte
  | .tlp t => (0, t.fn, t.raw)
  | .packet port p => (1, port, numBytes p.hdr.toNat 32 ++ p.data.flatMap (fun f => numBytes f.toNat 32))
  | .mgmt m => (2, m.source.toNat, numBytes (bandHeader m).toNat 8 ++ m.payload.flatMap (fun w => numBytes w.toNat 8))
  | .event ty stop num info => (4, stop.toNat % 1024,
      numBytes (ty.toNat + (stop.toNat <<< 16) + (num.toNat <<< 32) + (info.toNat <<< 64)) 16)

/-- Continuation records of a payload. -/
def contCount (len : Nat) : Nat := (len - 16 + 31) / 32

/-- The 32 bytes of a head record. -/
def headRecord (cyc ph kind src : Nat) (payload : List Byte) : List Byte :=
  numBytes (cyc + (ph <<< 64) + (kind <<< 65) + ((if kind = 2 ∨ kind = 4 then src / 256 else 0) <<< 68) + ((src % 256) <<< 72) +
    (contCount payload.length <<< 80) + (payload.length <<< 96) + (bytesNum (payload.take 16) <<< 128)) 32

/-- Every record of an arrival. -/
def records (cyc ph : Nat) (a : Arrival) : List Byte :=
  let (kind, src, payload) := arrivalHead a
  let n := contCount payload.length
  headRecord cyc ph kind src payload ++ numBytes (bytesNum (payload.drop 16)) (32 * n)

/-- The record that begins a log. -/
def startRecord (cyc : Nat) : List Byte := headRecord cyc 0 3 0 []

/-! ### Logging (R492 to R494) -/

/-- Bytes of a gate's staging buffer and of its region, and its base. -/
def stagingBytes : Nat := 262144
def regionSize (g : Gate) : Nat := bits g.log 63 44 * 65536
def regionBase (g : Gate) : Nat := (bits g.log 43 0 * 4096) % 2 ^ 48

/-- Sets bits of LOGOVF; the host is told (R494, R496). -/
def logFlag (s : State) (bit : Nat) : State :=
  let m := BitVec.ofNat 32 (2 ^ bit)
  if s.logovf &&& m = 0 then mgmtInterrupt { s with logovf := s.logovf ||| m } 1 else s

/-- Stages records, unless the gate has stopped logging; records that do not fit stop it (R494). (DEDUCED, log 61) -/
def logRecords (g cyc : Nat) (l : List Byte) (s : State) : State :=
  let x := gateOf s g
  if x.mode ≠ 1 ∨ x.lost ≠ BitVec.allOnes 64 then s
  else if stagingBytes < x.staged.length + l.length ∨ regionSize x < x.pos.toNat + l.length then
    logFlag (updGate s g (fun x => { x with lost := BitVec.ofNat 64 cyc })) g
  else updGate s g (fun x => { x with staged := x.staged ++ l, pos := x.pos + BitVec.ofNat 64 l.length })

/-- Moves staged bytes to the region: 128 bytes a cycle of gate 0, 1,024 of gate 1 (R493). (DEDUCED, log 61) -/
def drainGate (s : State) (g : Nat) : State :=
  let x := gateOf s g
  let l := x.staged.take (if g = 0 then 128 else 1024)
  if l = [] then s
  else writeList (updGate s g (fun x => { x with staged := x.staged.drop l.length })) (regionBase x + x.pos.toNat - x.staged.length) l

/-! ### Replay records (R496) -/

/-- A record as it is read: CYC, PH, KIND, source, its payload and its bytes in all. -/
structure Record where
  cyc  : Nat
  ph   : Bool
  kind : Nat
  src  : Nat
  data : List Byte
  size : Nat
  bad  : Bool                   -- a reserved field is not zero (R9)
  deriving DecidableEq, Repr

/-- The record at an offset of a gate's region. -/
def recordAt (s : State) (g off : Nat) : Record :=
  let pa := regionBase (gateOf s g) + off
  let h := readMem s pa 32
  let n := fld h 80 16
  let len := fld h 96 16
  { cyc := fld h 0 64, ph := decide (fld h 64 1 = 1), kind := fld h 65 3, src := fld h 72 8 + 256 * fld h 68 2,
    data := ((readBytes s (pa + 16) 16) ++ readBytes s (pa + 32) (32 * n)).take len, size := 32 + 32 * n
    bad := decide (fld h 70 2 ≠ 0) || decide (fld h 112 16 ≠ 0) }

/-- Eight bytes of a list as a word. -/
def wordAt (l : List Byte) (i : Nat) : BitVec 64 := BitVec.ofNat 64 (bytesNum ((l.drop (8 * i)).take 8))

/-- The arrival that a record holds. (DESIGN CHOICE, log 64) -/
def recordArrival (r : Record) : Arrival :=
  match r.kind with
  | 0 =>
    let (fn, bar, off, write, len, data) := Config.tlpDecode r.data
    .tlp { raw := r.data, fn := fn, bar := bar, off := off, write := write, len := len, data := data }
  | 1 => .packet r.src { hdr := BitVec.ofNat 256 (bytesNum (r.data.take 32)),
                         data := (List.range (r.data.length / 32 - 1)).map (fun i => BitVec.ofNat 256 (bytesNum ((r.data.drop (32 * (i + 1))).take 32))) }
  | 2 => .mgmt (bandOf (wordAt r.data 0) ((List.range (r.data.length / 8 - 1)).map (fun i => wordAt r.data (i + 1))))
  | _ => .event ((wordAt r.data 0).setWidth 8) ((wordAt r.data 0).extractLsb' 16 16) ((wordAt r.data 0).extractLsb' 32 32) (wordAt r.data 1)

/-- Does the log of a gate hold an arrival at a stamp, from an offset on? -/
def logHolds (s : State) (g cyc : Nat) (ph : Bool) (a : Arrival) : Nat → Nat → Bool
  | 0, _ => false
  | fuel + 1, off =>
    if (gateOf s g).endAt.toNat ≤ off then false
    else
      let r := recordAt s g off
      (decide (r.cyc = cyc) && decide (r.ph = ph) && decide ((r.kind, r.src, r.data) = arrivalHead a)) ||
      (decide (r.cyc ≤ cyc) && logHolds s g cyc ph a fuel (off + r.size))

/-! ### CUFF_STAMP (R489, R490, R494 to R496) -/

/-- The order of arrivals of one network cycle at a gate (R490). -/
def sourceRank : Arrival → Nat
  | .tlp _ => 0
  | .mgmt _ => 1
  | .packet port _ => port
  | .event _ _ _ _ => 64

/-- The place of a stamped arrival in its gate's queue. -/
def stampKey (x : Stamped) : List Nat := [x.cyc.toNat, x.ph.toNat, sourceRank x.arr]

/-- The next network cycle in which the gate has not yet stamped an arrival of the same source. -/
def stampSlot (l : List Stamped) (a : Arrival) : Nat → BitVec 64 → Bool → BitVec 64 × Bool
  | 0, c, ph => (c, ph)
  | fuel + 1, c, ph =>
    if l.any (fun x => decide (x.cyc = c) && decide (x.ph = ph) && decide (sourceRank x.arr = sourceRank a)) then
      (if ph then stampSlot l a fuel (c + 1) false else stampSlot l a fuel c true)
    else (c, ph)

/-- An arrival is stamped, logged and queued for delivery. -/
def stampIt (g : Nat) (ph : Bool) (a : Arrival) (s : State) : State :=
  let l := (gateOf s g).queue
  let (c, ph) := stampSlot l a (l.length + 1) s.cycle ph
  let s1 := logRecords g c.toNat (records c.toNat ph.toNat a) s
  updGate s1 g (fun x => { x with queue := insertBy stampKey { cyc := c, ph := ph, arr := a } x.queue })

/-- Does a TLP address the determinism registers, which bypass the gate (R481, R488)? -/
def bypasses (t : Tlp) : Bool := decide (t.fn = 4) && decide (t.bar = 0) && decide (0x100000 ≤ t.off)

/-- Is the function present: the management function, or one that heads a partition (R479)? -/
def fnPresent (s : State) (fn : Nat) : Bool := decide (fn = 4) || (fnWindows s fn).isSome

/-- A TLP at its destination: the registers, the memory window, the recovery window, or the interrupt table (R480). (DESIGN CHOICE, log 19) -/
def deliverTlp (t : Tlp) (s : State) : State :=
  if !fnPresent s t.fn then (if t.write then s else { s with hostOut := s.hostOut ++ [.unsupported t.fn] })
  else if t.bar = 0 then
    if t.write then postRegister t s else nowAgenda s [.hostRead t.fn (barAddress 0 t.off) t.len]
  else if t.bar = 2 then
    if t.fn = 4 then nowAgenda s (if t.write then [.recoveryWindowWrite t.off t.data] else [.hostRead 4 (barAddress 2 t.off) t.len])
    else
      let pa := t.fn * quarterBytes + t.off
      nowAgenda s (if t.write then [.hostPostedWrite t.fn pa t.data] else [.hostRead t.fn pa t.len])
  else if t.bar = 4 then
    if t.write then { s with msixTab := mapPut 0 s.msixTab (65536 * t.fn + t.off) t.data.length (fun i => t.data.getD i 0) }
    else nowAgenda s [.hostRead t.fn (barAddress 4 t.off) t.len]
  else if t.write then s else { s with hostOut := s.hostOut ++ [.unsupported t.fn] }

/-- CUFF_STAMP: an arrival at a gate. In a replay live ingress is discarded; a write of the controller and an event that the
log does not hold act all the same and set REPDIV. -/
def cuffStamp (g : Nat) (ph : Bool) (a : Arrival) (s : State) : State :=
  let x := gateOf s g
  let held := logHolds s g s.cycle.toNat ph a (x.endAt.toNat / 32 + 1) 0
  match a with
  | .tlp t =>
    if bypasses t then deliverTlp t s
    else if x.mode = 2 then (if t.write then s else { s with hostOut := s.hostOut ++ [.abort t.fn] })
    else stampIt g ph a s
  | .packet _ _ => if x.mode = 2 then s else stampIt g ph a s
  | .mgmt _ => if x.mode = 2 then (if held then s else logFlag (stampIt g ph a s) 4) else stampIt g ph a s
  | .event _ _ _ _ =>
    if x.mode = 2 then (if held then s else logFlag s 4) else logRecords g s.cycle.toNat (records s.cycle.toNat ph.toNat a) s

/-- CUFF_STAMP (R489, R494 to R496). -/
def execCuffStamp (s : State) : Host.Outcome State Fault Refusal :=
  match s.event with
  | some (.cuffStamp g ph a) => .next (cuffStamp g ph a { s with event := none })
  | _ => .next s

/-! ### CUFF_DELIVER (R489, R490) -/

/-- An arrival at its destination; a write of the controller goes onto the Band ring (R485). -/
def deliver (a : Arrival) (s : State) : State :=
  match a with
  | .tlp t => deliverTlp t s
  | .packet port p => arrive port p s
  | .mgmt m => { s with bandWait := s.bandWait ++ [m] }
  | .event _ _ _ _ => s

/-- Has the delivery time of a stamp come: eight network cycles, four core cycles, later? -/
def stampDue (s : State) (x : Stamped) : Bool := decide (x.cyc.toNat + 4 ≤ s.cycle.toNat)

/-- CUFF_DELIVER: the first arrival of the gate's queue, once it is due. -/
def cuffDeliver (g : Nat) (s : State) : State :=
  match (gateOf s g).queue with
  | x :: rest => if stampDue s x then deliver x.arr (updGate s g (fun y => { y with queue := rest })) else s
  | [] => s

/-- CUFF_DELIVER (R489). -/
def execCuffDeliver (s : State) : Host.Outcome State Fault Refusal :=
  match s.event with
  | some (.cuffDeliver g) => .next (cuffDeliver g { s with event := none })
  | _ => .next s

/-- The deliveries of a cycle in the order of R490: phase, then gate, then source. -/
def deliveriesDue (s : State) : List Event :=
  let due (g : Nat) : List (List Nat × Event) := ((gateOf s g).queue.filter (stampDue s)).map (fun x =>
    ([x.cyc.toNat, x.ph.toNat, g, sourceRank x.arr], .cuffDeliver g))
  (sortBy (·.1) (due 0 ++ due 1)).map (·.2)

/-! ### CUFFCFG_WRITE and CUFF_MODE_APPLY (R488, R492, R496) -/

/-- What a write of MODE = 1 or 2 sets: POS, OVF and CUFFLOST. -/
def modeWritten (s : State) (g mode : Nat) : State :=
  if mode = 1 ∨ mode = 2 then
    updGate { s with logovf := s.logovf &&& ~~~(BitVec.ofNat 32 (2 ^ g)) } g (fun x => { x with pos := 0, lost := BitVec.allOnes 64 })
  else s

/-- CUFFCFG_WRITE: MODE = 3 is ignored; MODE takes effect at the next multiple of 1,024 cycles. -/
def cuffcfgWrite (g : Nat) (v : BitVec 32) (s : State) : State :=
  let x := gateOf s g
  let mode := if bits v 1 0 = 3 then bits x.cfg 1 0 else bits v 1 0
  let s1 := updGate s g (fun x => { x with cfg := (v &&& 0xC) ||| BitVec.ofNat 32 mode })
  if bits v 1 0 = 3 then s1 else updGate (modeWritten s1 g mode) g (fun x => { x with due := true })

/-- CUFFCFG_WRITE (R492). -/
def execCuffcfgWrite (s : State) : Host.Outcome State Fault Refusal :=
  match s.event with
  | some (.cuffcfgWrite g v) => .next (cuffcfgWrite g v { s with event := none })
  | _ => .next s

/-- A gate starts a log with the start record of the cycle. (DEDUCED, log 61) -/
def startLog (g : Nat) (s : State) : State :=
  logRecords g s.cycle.toNat (startRecord s.cycle.toNat) (updGate s g (fun x => { x with mode := 1, pos := 0, staged := [] }))

/-- CUFF_MODE_APPLY: log or off takes effect; leaving a replay drops the records not yet delivered. Replay starts only at a
reset or a RESUME (R492). (DEDUCED, log 61) -/
def cuffModeApply (g : Nat) (s : State) : State :=
  let x := gateOf s g
  if !x.due then s
  else
    let s1 := updGate s g (fun x => { x with due := false })
    match bits x.cfg 1 0 with
    | 0 => updGate s1 g (fun x => { x with mode := 0, replayed := false, queue := if x.mode = 2 then [] else x.queue })
    | 1 => startLog g (updGate s1 g (fun x => { x with replayed := false, queue := if x.mode = 2 then [] else x.queue }))
    | _ => s1

/-- CUFF_MODE_APPLY (R492, R496). -/
def execCuffModeApply (s : State) : Host.Outcome State Fault Refusal :=
  match s.event with
  | some (.cuffModeApply g) => .next (cuffModeApply g { s with event := none })
  | _ => .next s

/-- The gates whose MODE takes effect in a cycle. -/
def modesDue (s : State) : List Event :=
  if s.cycle.toNat % 1024 = 0 then ([0, 1].filter (fun g => (gateOf s g).due)).map Event.cuffModeApply else []

end Sys2Proof.Machine
end

