-- ==== Sys2Proof/Machine/Mac.lean ====
section
/-! DEFINITION. The sum orders of the matrix arrays and the values that drains write (R244 to R249, R356, R373, R374). -/
namespace Sys2Proof.Machine

/-- acc + round(s), rounded to FP32 to nearest even (R248). -/
def macAdd (acc : Nat) (s : FVal) : Nat :=
  (fround fp32 rne 0 (fAdd false (fval fp32 false acc) (fval fp32 false (fround fp32 rne 0 s).1)).1).1

/-- The exact sum of products of a group (R249). (DEDUCED, log 35) -/
def groupSum : List (FVal × FVal) → FVal
  | [] => fZero false
  | (a, b) :: rest => rest.foldl (fun s p => (fAdd false s (fMul p.1 p.2).1).1) (fMul a b).1

/-- mac_fp8 and mac_16: `n` groups of `g` elements of `w` bits in ascending k (R248). -/
def macFloat (f : Fmt) (w g acc a b : Nat) : Nat → Nat
  | 0 => acc
  | n + 1 => macAdd (macFloat f w g acc a b n)
      (groupSum ((List.range g).map (fun i =>
        (fval f false (fld a (w * (g * n + i)) w), fval f false (fld b (w * (g * n + i)) w)))))

/-- mac_s8 over `n` elements (R248). -/
def macInt (acc a b n : Nat) : Nat :=
  wrap 32 ((acc : Int) + (List.range n).foldl (fun s k => s + sgn 8 (fld a (8 * k) 8) * sgn 8 (fld b (8 * k) 8)) 0)

/-- The exact sum of one 4-bit block with its scale bytes; 0xFF marks a NaN block (R244, R245, R248). -/
def blockSum (a b sa sb : Nat) : FVal :=
  if sa = 0xFF ∨ sb = 0xFF then .nan false
  else
    let t := (List.range 32).foldl (fun s i => s + code4x8 (fld sa 6 2) (fld a (4 * i) 4) * code4x8 (fld sb 6 2) (fld b (4 * i) 4)) 0
    .num (decide (t < 0)) t.natAbs ((fld sa 0 6 : Int) + (fld sb 0 6 : Int) - 64 - 6) false

/-- mac_q4 over `n` blocks with the scale bytes `sa k`, `sb k` (R248). -/
def macQ4 (acc a b : Nat) (sa sb : Nat → Nat) : Nat → Nat
  | 0 => acc
  | n + 1 => macAdd (macQ4 acc a b sa sb n) (blockSum (fld a (128 * n) 128) (fld b (128 * n) 128) (sa n) (sb n))

/-- mac by the operation's format: 0 E4M3, 1 E5M2, 2 BF16, 3 FP16, 4 S8, 5 the 4-bit block; `ks` steps (R355, R356). -/
def mac (fmt ks acc a b : Nat) (sa sb : Nat → Nat) : Nat :=
  match fmt with
  | 0 => macFloat e4m3 8 4 acc a b (4 * ks)
  | 1 => macFloat e5m2 8 4 acc a b (4 * ks)
  | 2 => macFloat bf16 16 2 acc a b (4 * ks)
  | 3 => macFloat fp16 16 2 acc a b (4 * ks)
  | 4 => macInt acc a b (16 * ks)
  | _ => macQ4 acc a b sa sb ks

/-- An element of MDRAIN: the word, or FP16 or BF16 with the SAT field (R373). -/
def drainElem (fmt : Nat) (sat : Bool) (w : Nat) : Nat :=
  match fmt with
  | 0 => w
  | 1 => (fround fp16 ⟨0, sat, false⟩ 0 (fval fp32 false w)).1
  | _ => (fround bf16 ⟨0, sat, false⟩ 0 (fval fp32 false w)).1

/-- Bytes of such an element. -/
def drainBytes (fmt : Nat) : Nat := if fmt = 0 then 4 else 2

/-- The smallest integer E with |x| ≤ 448 × 2^E for every finite x of a list, from −32 to 30; 0 where all are zero (R374). -/
def blockExp (xs : List FVal) : Int :=
  let nz := xs.filter (fun x => !x.isZero)
  if nz = [] then 0
  else nz.foldl (fun e x => match x with
    | .num _ m e' _ => fitExp m e' 448 (30 - e).toNat e
    | _ => e) (-32)

/-- One block of MDRAINT: the scale byte and the bytes of its elements (R374). -/
def drainBlock (sat : Bool) (ws : List Nat) : Nat × List Nat :=
  let xs := ws.map (fval fp32 false)
  if xs.any (fun x => x.isNan || x.isInf) then (0xFF, ws.map (fun _ => 0x7F))
  else
    let e := blockExp xs
    ((e + 32).toNat, xs.map (fun x => (fround e4m3 ⟨0, sat, false⟩ 0 (match x with
      | .num n m e' st => .num n m (e' - e) st
      | y => y)).1))

end Sys2Proof.Machine
end

