-- ==== Sys2Proof/Machine/Matrix.lean ====
section
/-! DEFINITION. The matrix quadrants: acceptance and the match of joint operations, starts, the end of an operation with its
tile or drain writes, and the timeout of a rendezvous (R209, R210, R356, R359 to R376, R423). -/
namespace Sys2Proof.Machine
open Sys2Proof.Forms

/-! ### Operations in the tables -/

def updMq (s : State) (id : Nat) (f : MqOp → MqOp) : State :=
  { s with mqOps := s.mqOps.map (fun q => if q.id = id then f q else q) }

/-- Is the operation a joint one, and its group (R367)? -/
def isJoint (q : MqOp) : Bool := match q.kind with
  | .mma _ j => j
  | _ => false
def jointGroup (q : MqOp) : Nat := bits q.mod0 6 5

/-- The participants of the joint operation that `q` belongs to: same block, group and count. -/
def partners (s : State) (q : MqOp) : List MqOp :=
  s.mqOps.filter (fun p => isJoint p && p.accepted && decide (p.core = q.core) && decide (p.split.team.disp = q.split.team.disp) &&
    decide (p.split.team.block = q.split.team.block) && decide (jointGroup p = jointGroup q) && decide (p.count = q.count) &&
    decide (p.matched = q.matched))

/-- The operation is over: it leaves its quadrant, and its flag clears at once, or with the responses of its remote writes (R366). -/
def mqOver (s : State) (q : MqOp) (remote : Bool) : State :=
  let s1 := fetchDrop { s with mqOps := s.mqOps.filter (fun p => decide (p.id ≠ q.id)) } (.engine q.id)
  if remote then updFlight s1 q.split.team q.flight (fun e => { e with state := .remote })
  else operationComplete q.split.team q.flight (updFlight s1 q.split.team q.flight (fun e => { e with state := .ready }))

/-- The joint-op fault of a participant: its operation is not performed and its flag clears (R368, R370). -/
def jointFault (s : State) (q : MqOp) : State :=
  let r := if (splitOf s q.split).isSome then q.split else { q.split with high := !q.split.high }
  raiseFault (mqOver s q false) r { plainFault 0x3E q.pc q.active q.word with atInstr := false }

/-! ### MQ_ACCEPT (R364, R365, R368) -/

/-- Do the four operations of a match agree in opcode, steps and scale bytes (R368)? -/
def jointAgree (a b : MqOp) : Bool :=
  decide (a.kind = b.kind) && decide (bits a.mod0 4 3 = bits b.mod0 4 3) &&
  (match a.kind with
   | .mma 5 _ => decide (bits a.mod1 17 16 = bits b.mod1 17 16)
   | _ => true)

/-- The match of the joint operation that an accepted operation completes. -/
def jointMatch (s : State) (q : MqOp) : State :=
  let ps := partners s q
  if ps.length < 4 then s
  else if ps.all (jointAgree q) then
    ps.foldl (fun s p => updMq s p.id (fun p => { p with matched := true, age := s.cycle, waited := 0 })) s
  else ps.foldl jointFault s

/-- The operation that a quadrant accepts next: the first issued one; of two that the splits of a team issue in one cycle that of
the lower entry, which is waited for while it is still to issue (R364). -/
def mqFirst (s : State) (core quad : Nat) : Option MqOp :=
  match s.mqOps.find? (fun q => decide (q.core = core) && decide (q.quad = quad) && !q.accepted) with
  | none => none
  | some q =>
    if q.split.high then
      let low : SplitRef := { q.split with high := false }
      if s.issueQ.contains low then none
      else some ((s.mqOps.find? (fun p => decide (p.split = low) && decide (p.age = q.age) && !p.accepted)).getD q)
    else some q

/-- MQ_ACCEPT: the quadrant accepts an issued operation; a joint one counts and may complete a match. -/
def mqAccept (core quad : Nat) (s : State) : State :=
  match mqFirst s core quad with
  | none => s
  | some q =>
    let n := ((teamOf s q.split.team).map (·.mqCount)).getD 0
    let limit := match teamOf s q.split.team with
      | some t => max 1 (bits (ctxOf s t.ctx).waitlim 47 0)
      | none => 1
    let q1 := { q with accepted := true, count := n, limit := limit }
    let s1 := { s with mqOps := s.mqOps.filter (fun p => decide (p.id ≠ q.id)) ++ [q1] }
    if isJoint q then jointMatch (updTeam s1 q.split.team (fun t => { t with mqCount := t.mqCount + 1 })) q1 else s1

/-- MQ_ACCEPT (R364, R365, R368). -/
def execMqAccept (s : State) : Host.Outcome State Fault Refusal :=
  match s.event with
  | some (.mqAccept core quad) => .next (mqAccept core quad { s with event := none })
  | _ => .next s

/-! ### MQ_START (R365, R368, R375) -/

/-- Is a quadrant free? -/
def quadFree (s : State) (core quad : Nat) : Bool :=
  !s.mqOps.any (fun q => decide (q.core = core) && decide (q.quad = quad) && q.started)

/-- The first operation of its team that has not started: teams start theirs in the order they were accepted. (DEDUCED, log 55) -/
def teamHead (s : State) (q : MqOp) : Bool :=
  match s.mqOps.find? (fun p => decide (p.split.team = q.split.team) && p.accepted && !p.started) with
  | some p => decide (p.id = q.id)
  | none => false

/-- Does a row operation still wait for a page, for remote bytes, or for the side log (R375, R377)? (DEDUCED, log 35) -/
def mqWaits (s : State) (q : MqOp) : Bool :=
  decide (q.page ≠ []) ||
  s.outReqs.any (fun o => match o.waiter with
    | .fetch (.engine id) _ => decide (id = q.id)
    | _ => false) ||
  (decide (q.kind = .load) && (mqRows q).any (fun p =>
    (openEntries s q.split.team).any (fun e => touches p.1 p.2 (bits e.ga 55 0) e.size)))

/-- May the operation be started but for the state of its quadrant? -/
def mqEligible (s : State) (q : MqOp) : Bool :=
  q.accepted && !q.started && teamHead s q && !mqSaved s q && (!isJoint q || q.matched) && !(q.held && mqWaits s q)

/-- The oldest matched joint operation of a core, by its match, then block and group, as a quadrant's first preference: none where
its own participant still has an earlier operation to start. (DEDUCED, log 55) -/
def jointNext (s : State) (core quad : Nat) : Option MqOp :=
  match (sortBy (fun q => [q.age.toNat, q.split.team.disp.toNat, q.split.team.block, jointGroup q])
    (s.mqOps.filter (fun q => decide (q.core = core) && isJoint q && q.matched && !q.started && !mqSaved s q))).head? with
  | none => none
  | some q => if (partners s q).any (fun p => decide (p.quad = quad) && teamHead s p) then some q else none

/-- The oldest accepted operation of a partition that is neither held nor saved; a joint one is passed over. -/
def partNext (s : State) (core part : Nat) : Option MqOp :=
  match s.mqOps.find? (fun q => decide (q.core = core) && decide (q.part = part) && q.accepted && !q.started && teamHead s q &&
      !mqSaved s q && !(q.held && mqWaits s q)) with
  | some q => if isJoint q then none else some q
  | none => none

/-- Starts an operation; the rotation of its quadrant advances by one. -/
def mqBegin (s : State) (q : MqOp) : State :=
  updCore (updMq s q.id (fun q => { q with started := true, held := false, age := s.cycle })) q.core
    (fun k => { k with mqRot := mapSet 0 k.mqRot q.quad ((mapGet 0 k.mqRot q.quad + 1) % 3) })

/-- MQ_START: a free quadrant starts the oldest matched joint operation once all four quadrants may start it, and starts nothing
else until then; otherwise the next partition's oldest operation, in rotating order. (DEDUCED, log 55) -/
def mqStart (core quad : Nat) (s : State) : State :=
  if !quadFree s core quad then s
  else match jointNext s core quad with
    | some q => if (List.range 4).all (quadFree s core) && (partners s q).all (mqEligible s) then (partners s q).foldl mqBegin s else s
    | none =>
      let rot := mapGet 0 (coreOf s core).mqRot quad
      match (List.range 3).findSome? (fun i => partNext s core (3 * quad + (rot + i) % 3)) with
      | some q => mqBegin s q
      | none => s

/-- MQ_START (R365, R368). -/
def execMqStart (s : State) : Host.Outcome State Fault Refusal :=
  match s.event with
  | some (.mqStart core quad) => .next (mqStart core quad { s with event := none })
  | _ => .next s

/-! ### Tiles (R81, R221, R356) -/

/-- The key of the first word of row `i` of a tile. -/
def tileKey (quad tile i : Nat) : Nat := ((8 * quad + tile) * 64 + i) * 256

/-- A word of a tile. -/
def tileWordAt (b : Block) (quad tile i j : Nat) : Nat := (mapGet (0 : Word) b.tiles (tileKey quad tile i + j)).toNat

/-- Writes a row of a tile. -/
def putRow (s : State) (q : MqOp) (i : Nat) (f : Nat → Nat) : State :=
  updBlock s q.split.team.disp q.split.team.block (fun b => { b with
    tiles := mapPut (0 : Word) b.tiles (tileKey q.quad (mqTile q) i) 256 (fun j => BitVec.ofNat 32 (f j)) })

/-- Writes UNKNOWN words to the rows that an operation owns. (DESIGN CHOICE, log 77) -/
def freeRows (s : State) (q : MqOp) : State :=
  (lanesOf 64 q.rows).foldl (fun t i => putRow t q i (fun j => (unknown s.fresh (256 * i + j)).toNat)) { s with fresh := s.fresh + 1 }

/-! ### The products (R356, R359 to R362, R369) -/

/-- Row `i` of A: 16 bytes for each step. -/
def aRow (b : Block) (q : MqOp) (i : Nat) : Nat :=
  spRead b (q.aOff + i * (16 * bits q.mod0 18 8)) (16 * (bits q.mod0 4 3 + 1))

/-- Column `j` of B: the registers of a lane of the team that supplies it. -/
def bColumn (t : Team) (q : MqOp) (lane : Nat) : Nat :=
  (List.range (4 * (bits q.mod0 4 3 + 1))).foldl (fun n u => n + ((vReg t (q.bReg + u) lane).toNat <<< (32 * u))) 0

/-- The team, the operation and the lane that supply column `j`: of a joint operation participant j div 64 (R369). -/
def columnOf (s : State) (ps : List MqOp) (q : MqOp) (j : Nat) : Team × MqOp × Nat :=
  let p := if isJoint q then (ps.find? (fun p => decide (p.quad = j / 64))).getD q else q
  ((teamOf s p.split.team).getD (emptyTeam p.split.team), p, if isJoint q then j % 64 else j)
where
  /-- What stands for a team that is no longer in the tables. -/
  emptyTeam (k : TeamKey) : Team :=
    { key := k, ctx := 0, core := 0, part := 0, slot := 0, stackSlot := 0, rows := 1, nv := 1, vregs := [], sregs := [], preds := [],
      srsv := [], srcnt := [], absent := 0, low := none, high := none, inflight := [], traps := [], trapPc := 0, trapAddr := 0,
      trapInfo := 0, trapCause := 0, trapRows := 0, trapMask := 0, trapVec := 0, bbBase := 0, streams := [], curStream := none,
      remote := 0, mqCount := 0, parked := false, halted := false, ended := true, wroteV := [], wroteS := [], acquired := 0,
      readied := 0 }

/-- The scale byte of step `k` in a register of a lane (R361). -/
def scaleByte (t : Team) (q : MqOp) (reg lane k : Nat) : Nat := fld (vReg t reg lane).toNat (8 * (bits q.mod1 17 16 + k)) 8

/-- One element of a multiply. -/
def mmaElem (s : State) (b : Block) (ps : List MqOp) (t : Team) (q : MqOp) (fmt i j : Nat) : Nat :=
  let (tb, p, lane) := columnOf s ps q j
  let sb (k : Nat) : Nat := scaleByte tb p (bits p.mod1 14 8 + (if isJoint q then 0 else j / 64)) lane k
  mac fmt (bits q.mod0 4 3 + 1) (tileWordAt b q.quad (mqTile q) i j) (aRow b q i) (bColumn tb p lane)
    (scaleByte t q (bits q.mod1 6 0) i) sb

/-- The operand registers that were not made ready, or have been written since the issue: their reads are UNKNOWN (R209, R210). -/
def racedRegs (s : State) (q : MqOp) : List Nat :=
  q.raced ++ (match teamOf s q.split.team with
    | some t => (t.inflight.filter (fun e => decide (e.id = q.flight))).flatMap (·.spoilt)
    | none => [])

/-- Is any operand of an operation read UNKNOWN? (DEDUCED, log 20) -/
def mqRaced (s : State) (q : MqOp) : Bool := q.free || decide (racedRegs s q ≠ [])

/-- Do the rows of an operation depend on an operand that is read UNKNOWN: A, or the register of the A scales (R359, R361)? -/
def rowsRaced (s : State) (q : MqOp) (fmt : Nat) : Bool :=
  q.free || (decide (fmt = 5) && (racedRegs s q).contains (bits q.mod1 6 0))

/-- Does column `j` depend on one: the registers of B and of the B scales of the operation that supplies it (R360, R361, R369)? -/
def columnRaced (s : State) (p : MqOp) (fmt j : Nat) : Bool :=
  (racedRegs s p).any (fun v => (decide (p.bReg ≤ v) && decide (v < p.bReg + 4 * (bits p.mod0 4 3 + 1))) ||
    (decide (fmt = 5) && decide (v = bits p.mod1 14 8 + (if isJoint p then 0 else j / 64))))

/-- An element after a multiply: UNKNOWN where it depends on an operand that is read so. (DESIGN CHOICE, log 77; DEDUCED, log 20) -/
def mmaValue (s : State) (b : Block) (ps : List MqOp) (t : Team) (q : MqOp) (fmt i j : Nat) : Nat :=
  if rowsRaced s q fmt || columnRaced s (columnOf s ps q j).2.1 fmt j then (unknown s.fresh ((q.quad * 64 + i) * 256 + j)).toNat
  else mmaElem s b ps t q fmt i j

/-- The tile writes of a multiply with the operands as they stand in `s0`. -/
def mmaWrite (s0 : State) (ps : List MqOp) (fmt : Nat) (s : State) (q : MqOp) : State :=
  match blockOf s0 q.split.team.disp q.split.team.block, teamOf s0 q.split.team with
  | some b, some t => (lanesOf 64 q.rows).foldl (fun s i => putRow s q i (mmaValue s0 b ps t q fmt i)) s
  | _, _ => s

/-! ### Rows in memory (R372 to R376) -/

/-- The accesses of a row operation: address, bytes and the row that each belongs to. -/
def rowAccesses (q : MqOp) : List (BitVec 64 × Nat × Nat) :=
  let ga (base : BitVec 64) (o : Nat) : BitVec 64 := (base &&& 0xFF00000000000000) ||| BitVec.ofNat 64 ((bits base 55 0 + o) % 2 ^ 56)
  let pitch := 16 * bits q.mod0 19 8
  match q.kind with
  | .load => (lanesOf 64 q.rows).map (fun i => (ga q.ga (pitch * i), 1024, i))
  | .drain => (lanesOf 64 q.rows).map (fun i => (ga q.ga (pitch * i), if bits q.mod0 1 0 = 0 then 1024 else 512, i))
  | .drainT => (List.range 256).map (fun r => (ga q.ga (pitch * r), 64, r)) ++
      (List.range 256).flatMap (fun r => [0, 1].map (fun kb =>
        let b := 2 * bits q.mod0 3 3 + kb
        (ga q.ga2 (256 * (r / 64) + 4 * ((r % 64) ^^^ (16 * b)) + b), 1, 256 + 2 * r + kb)))
  | _ => []

/-- The lowest active lane of an operation. -/
def mqLane (q : MqOp) : Nat := firstLane 1024 q.active

/-- Who makes the accesses of a row operation: its team, by its lowest active lane. -/
def mqWho (s : State) (q : MqOp) (t : Team) : Who :=
  { ctx := t.ctx, via := .pipe t.core t.part, spBytes := ((dispOf s t.key.disp).getD noDispatch).spBytes, slot := t.stackSlot
    lane := mqLane q, failed := q.failed }

/-- The checks of every row: the places of those that pass, the first failure, and the pages that are asked for. Of a row of a drain
that fails the places are given too where it has some: its bytes become UNKNOWN with the others (R375). -/
def rowChecks (q : MqOp) (t : Team) (write : Bool) : List (BitVec 64 × Nat × Nat) → State →
    State × List (Nat × BitVec 64 × Nat × List Target) × Option (BitVec 8 × BitVec 64) × List (Nat × BitVec 64)
  | [], s => (s, [], none, [])
  | (ga, n, i) :: rest, s =>
    let a : Access := { ga := ga, n := n, align := 1, write := write, atom := false, tags := true }
    let (s1, c) := checkAccess s (mqWho s q t) a
    let (s2, ok, bad, pages) := rowChecks q t write rest s1
    match c with
    | .ok ts _ => (s2, (i, ga, n, ts) :: ok, bad, pages)
    | .fault c => match write, (checkAccess s2 (mqWho s q t) { a with write := false, tags := false }).2 with
      | true, .ok ts _ => (s2, (i, ga, n, ts) :: ok, some (c, ga), pages)
      | _, _ => (s2, ok, some (c, ga), pages)
    | .page p => (s2, ok, bad, (p, ga) :: pages)

/-- Asks for the pages that rows need; the operation is held by its quadrant. None is open with the ring disabled. -/
def mqPark (s : State) (q : MqOp) (t : Team) (write : Bool) (pages : List (Nat × BitVec 64)) : State × List (BitVec 32) :=
  pages.foldl (fun (acc : State × List (BitVec 32)) p =>
    match requestPage acc.1 t.ctx p.1 { teamRec acc.1 t 1 0x1B with
        entry := 2 * t.slot + q.split.high.toNat, flags := if write then 33 else 1, acc := if write then 1 else 0
        lane := BitVec.ofNat 16 (mqLane q), pc := q.pc.setWidth 64, addr := p.2 } with
    | (s1, some id) => (s1, if acc.2.contains id then acc.2 else acc.2 ++ [id])
    | (s1, none) => (s1, acc.2)) (s, [])

/-- The failure of a row: the fault of the lowest active lane; the flag clears (R375). -/
def rowFault (s : State) (q : MqOp) (cause : BitVec 8) (ga : BitVec 64) (write : Bool) : State :=
  lateFault (mqOver s q false) q.split cause q.pc [mqLane q] (if write then 1 else 0) ga 0

/-- Byte `o` of row `i` of a drain, from the tile. -/
def drainByte (b : Block) (q : MqOp) (i o : Nat) : Nat :=
  let fmt := bits q.mod0 1 0
  let n := drainBytes fmt
  fld (drainElem fmt (bits q.mod0 2 2 = 1) (tileWordAt b q.quad (mqTile q) i (o / n))) (8 * (o % n)) 8

/-- What MDRAINT writes for transposed row `r` and half `kb`: the scale byte and 32 bytes. -/
def drainHalf (b : Block) (q : MqOp) (r kb : Nat) : Nat × List Nat :=
  drainBlock (bits q.mod0 4 4 = 1) ((List.range 32).map (fun i => tileWordAt b q.quad (mqTile q) (32 * kb + i) r))

/-- The number that a row access of a drain writes. -/
def drainNat (b : Block) (q : MqOp) (row n : Nat) : Nat :=
  match q.kind with
  | .drainT =>
    if row < 256 then
      let l := (drainHalf b q row 0).2 ++ (drainHalf b q row 1).2
      (List.range 64).foldl (fun v i => v + (l.getD i 0 <<< (8 * i))) 0
    else (drainHalf b q ((row - 256) / 2) (row % 2)).1
  | _ => (List.range n).foldl (fun v o => v + (drainByte b q row o <<< (8 * o))) 0

/-- Is byte `o` of an access also a byte of another one: rows that overlap leave it UNKNOWN (R373, R374)? -/
def drainOverlap (all : List (BitVec 64 × Nat × Nat)) (ga : BitVec 64) (row o : Nat) : Bool :=
  all.any (fun a => decide (a.2.2 ≠ row) && decide (bits a.1 55 0 ≤ bits ga 55 0 + o) &&
    decide (bits ga 55 0 + o < bits a.1 55 0 + a.2.1))

/-- The number with UNKNOWN bytes where `free` says so. (DESIGN CHOICE, log 77) -/
def freeBytes (fresh row n v : Nat) (free : Nat → Bool) : Nat :=
  (List.range n).foldl (fun w o => w + ((if free o then ((unknown fresh (1024 * row + o)).setWidth 8 : Byte).toNat else fld v (8 * o) 8) <<< (8 * o))) 0

/-- Performs the writes of a drain; `spoil` makes every byte UNKNOWN. The first row at a poisoned sector fails. -/
def drainWrite (q : MqOp) (t : Team) (b : Block) (spoil : Bool) : List (Nat × BitVec 64 × Nat × List Target) → State →
    State × Option (BitVec 64)
  | [], s => (s, none)
  | (i, ga, n, ts) :: rest, s =>
    let v := freeBytes s.fresh i n (drainNat b q i n) (fun o => spoil || drainOverlap (rowAccesses q) ga i o)
    let done : Option State :=
      if isRemote ts then
        some ((remotePieces 0 ts).foldl (fun s (o, pa, k, tc) =>
          teamRequest s t (teamHdr s t kSTORE (pa / 2 ^ 48) pa k (bits ga 59 56) tc) (fld v (8 * o) (8 * k)) k
            (.team q.split [mqLane q] [] 0 0 q.flight q.pc ga 1)) s)
      else (writeChecked t.core s (partOfCtx s t.ctx) t.key.disp t.key.block ts n v).map (noteSpad t.key ts n)
    match done with
    | some s1 => drainWrite q t b spoil rest s1
    | none => if spoil then drainWrite q t b spoil rest s else (s, some ga)

/-- Ends a drain whose rows have been checked. (DEDUCED, log 35 and log 55) -/
def drainEnd (q : MqOp) (t : Team) (b : Block) (ok : List (Nat × BitVec 64 × Nat × List Target)) (bad : Option (BitVec 8 × BitVec 64))
    (s : State) : State :=
  let fresh (s : State) : State := { s with fresh := s.fresh + 1 }
  match bad with
  | some (c, ga) => rowFault (fresh (drainWrite q t b true ok s).1) q c ga true
  | none => match drainWrite q t b q.free ok s with
    | (s1, none) => mqOver (fresh s1) q (ok.any (fun r => isRemote r.2.2.2))
    | (s1, some ga) => rowFault (fresh (drainWrite q t b true ok (fresh s1)).1) q 0x17 ga true

/-- The rows that an MLDACC has read, or its first failure. -/
def loadRows (s : State) (q : MqOp) (b : Block) : List (Nat × BitVec 64 × Nat × List Target) →
    Except (BitVec 8 × BitVec 64) (List (Nat × Nat))
  | [] => .ok []
  | (i, ga, n, ts) :: rest =>
    match (match ts with
      | [.spad o] => Except.ok (spRead b o n)
      | _ => fetchValue s none b (.engine q.id) ts), loadRows s q b rest with
    | .error c, _ => .error (c, ga)
    | .ok v, .ok l => .ok ((i, v) :: l)
    | .ok _, .error e => .error e

/-- Ends an MLDACC whose rows have been checked; remote rows are fetched first. (DEDUCED, log 35) -/
def loadEnd (q : MqOp) (t : Team) (b : Block) (ok : List (Nat × BitVec 64 × Nat × List Target)) (bad : Option (BitVec 8 × BitVec 64))
    (s : State) : State :=
  let who := FetchFor.engine q.id
  match bad with
  | some (c, ga) => rowFault (freeRows s q) q c ga false
  | none =>
    if ok.any (fun r => fetching s who r.2.2.2) then
      let s1 := ok.foldl (fun s r => fetchAsk s who (teamHdr s t kLOAD 0 0 1 (bits r.2.1 59 56) false) r.2.2.2) s
      updMq s1 q.id (fun q => { q with started := false, held := true })
    else match loadRows s q b ok with
      | .error (c, ga) => rowFault (freeRows s q) q c ga false
      | .ok l =>
        let s0 := ok.foldl (fun s r => slicePass (partOfCtx s t.ctx) false false r.2.2.2 s) s
        let s1 := if q.free then freeRows s0 q
          else l.foldl (fun s r => putRow s q r.1 (fun j => fld r.2 (32 * j) 32)) s0
        mqOver s1 q false

/-- The end of a drain or MLDACC: every row is checked, open page requests hold the operation, and then the rows move. -/
def rowsEnd (q : MqOp) (write : Bool) (s : State) : State :=
  match teamOf s q.split.team, blockOf s q.split.team.disp q.split.team.block with
  | some t, some b =>
    if mqWaits s q then updMq s q.id (fun q => { q with started := false, held := true })
    else
      let (s1, ok, bad, pages) := rowChecks q t write (rowAccesses q) s
      let (s2, ids) := if bad.isNone then mqPark s1 q t write pages else (s1, [])
      if ids ≠ [] then updMq s2 q.id (fun q => { q with started := false, held := true, page := ids })
      else
        let bad' := match bad, pages with
          | none, (_, ga) :: _ => some (0x15, ga)
          | b, _ => b
        if write then drainEnd q t b ok bad' s2 else loadEnd q t b ok bad' s2
  | _, _ => mqOver s q false

/-! ### MQ_END (R210, R356, R366, R369) -/

/-- MQ_END: the operation's writes are performed and its flag clears; the four parts of a joint operation end together. -/
def mqEnd (op : Nat) (s : State) : State :=
  match s.mqOps.find? (fun q => decide (q.id = op) && q.started) with
  | none => s
  | some q => match q.kind with
    | .mma fmt joint =>
      let ps := if joint then partners s q else [q]
      ps.foldl (fun s p => mqOver s p false) (ps.foldl (mmaWrite s ps fmt) { s with fresh := s.fresh + 1 })
    | .zero => mqOver ((lanesOf 64 q.rows).foldl (fun s i => putRow s q i (fun _ => 0)) s) q false
    | .load => rowsEnd q false s
    | .drain | .drainT => rowsEnd q true s

/-- MQ_END (R210, R356, R366, R371 to R375). -/
def execMqEnd (s : State) : Host.Outcome State Fault Refusal :=
  match s.event with
  | some (.mqEnd op) => .next (mqEnd op { s with event := none })
  | _ => .next s

/-- Cycles that an operation occupies its quadrant (R366); for the row operations the manual binds none. (DEDUCED, log 35) -/
def mqCycles (q : MqOp) : Nat :=
  match q.kind with
  | .mma _ _ => 16 * (bits q.mod0 4 3 + 1)
  | .zero => 4
  | _ => 1

/-- Quadrants that a list of operations stands in, without repeats. -/
def quadsOf (l : List MqOp) : List (Nat × Nat) := (l.map (fun q => (q.core, q.quad))).eraseDups

/-- The steps of the quadrants that are due in a cycle. -/
def mqDue (s : State) : List Event :=
  let ends := s.mqOps.filter (fun q => q.started && decide (q.age.toNat + mqCycles q ≤ s.cycle.toNat))
  ends.map (fun q => .mqEnd q.id) ++ (quadsOf (s.mqOps.filter (fun q => q.accepted && !q.started))).map (fun p => .mqStart p.1 p.2)

/-! ### WAIT_TIMEOUT, of a rendezvous too (R370, R423) -/

/-- The wait of a participant has expired: the wait-timeout fault, and its operation is withdrawn (R370). -/
def mqTimeout (s : State) (q : MqOp) : State :=
  let r := if (splitOf s q.split).isSome then q.split else { q.split with high := !q.split.high }
  raiseFault (mqOver s q false) r { plainFault 0x51 q.pc q.active 0 with atInstr := false, lane := mqLane q }

/-- Has the rendezvous of a joint operation lasted to its bound? -/
def mqLate (q : MqOp) : Bool := isJoint q && q.accepted && !q.matched && decide (q.limit ≤ q.waited)

/-- The joint operations of a split whose rendezvous has lasted to its bound. -/
def mqExpired (s : State) (r : SplitRef) : List MqOp := s.mqOps.filter (fun q => decide (q.split = r) && mqLate q)

/-- WAIT_TIMEOUT (R149, R370, R423). -/
def execWaitTimeout (s : State) : Host.Outcome State Fault Refusal :=
  match s.event with
  | some (.waitTimeout r) => .next (waitTimeout r ((mqExpired s r).foldl mqTimeout { s with event := none }))
  | _ => .next s

end Sys2Proof.Machine
end

