-- ==== Sys2Proof/Machine/Teams.lean ====
section
/-! DEFINITION. The end of a team, of a block and of a dispatch, and the host's operations on single teams (R139, R177, R213,
R370, R390, R432, R449, R450, R461). -/
namespace Sys2Proof.Machine
open Sys2Proof.Forms

/-! ### STATUS of a command (R429, R432) -/

/-- The local address of the slot at which a command stood. -/
def cmdPa (s : State) (c : CmdRef) : Nat :=
  let q := queueOf (ctxOf s c.ctx) c.queue
  (bits q.cq 43 0 * 4096) % 2 ^ 48 + 64 * (c.k.toNat % 2 ^ bits q.cq 47 44)

/-- A field of a command: `w` bits from bit `lo` on. -/
def cmdField (c : Cmd) (lo w : Nat) : Nat := fld c.body.toNat lo w

/-- The command that a reference names, while it is not complete. -/
def cmdOf (s : State) (c : CmdRef) : Option Cmd := (queueOf (ctxOf s c.ctx) c.queue).order.find? (fun d => decide (d.k = c.k))

/-- Writes a command's STATUS: the command is complete, and the host is told where the queue asks for it (R432, R484). -/
def cmdStatus (s : State) (c : CmdRef) (v : Nat) : State :=
  let pa := cmdPa s c + 0x38
  let s1 := if coversPoison s pa 4 then writeNat s pa 4 v else s
  let s2 := updQueue s1 c.ctx c.queue (fun q => { q with order := q.order.filter (fun d => decide (d.k ≠ c.k)) })
  if bits (queueOf (ctxOf s c.ctx) c.queue).cq 51 51 = 1 then ctxInterrupt s2 c.ctx 32 22 else s2

/-! ### DISPATCH_COMPLETE (R139, R213, R390, R432) -/

/-- Blocks of a dispatch. -/
def dispBlocks (d : Dispatch) : Nat := d.nbx * d.nby * d.nbz

/-- Has every block of a dispatch ended, or been discarded with a stop? -/
def dispOver (d : Dispatch) : Bool := decide (d.live = 0) && (d.stop.isSome || decide (d.next = dispBlocks d))

/-- DISPATCH_COMPLETE: the dispatch leaves the tables, its grid slots are released, and its STATUS is written. It is a
release at scope sys, so every remote write of its teams has its response first (R170, R214). (DEDUCED, log 78) -/
def dispatchComplete (id : BitVec 64) (s : State) : State :=
  match dispOf s id with
  | none => s
  | some d =>
    if !dispOver d || dispOwes s id then s
    else
      let c := d.cmd.ctx
      let s1 := releaseSlots c id { s with dispatches := s.dispatches.filter (fun e => decide (e.id ≠ id)) }
      let s2 := updCtx s1 c (fun x => { x with handles := x.handles.filterMap (fun h =>
        let u : HandleUse := { writer := if h.2.writer = some id then none else h.2.writer, readers := h.2.readers.filter (· ≠ id) }
        if u = { writer := none, readers := [] } then none else some (h.1, u)) })
      cmdStatus s2 d.cmd (match d.stop with
        | some v => v.toNat
        | none => if d.faulted then 2 else 1)

/-- DISPATCH_COMPLETE (R432). -/
def execDispatchComplete (s : State) : Host.Outcome State Fault Refusal :=
  match s.event with
  | some (.dispatchComplete d) => .next (dispatchComplete d { s with event := none })
  | _ => .next s

/-! ### TEAM_END (R177, R370, R390) -/

/-- Is a block of a context, other than the one named, resident on a core? -/
def ctxOnCore (s : State) (c core : Nat) (but : BitVec 64 × Nat) : Bool :=
  s.blocks.any (fun b => decide (b.ctx = c) && decide (b.core = core) && !b.exited && !b.saved && decide ((b.disp, b.index) ≠ but))

/-- A block whose teams have all ended: its storage is scrubbed, its area released once no operation names it, and its
dispatch may be complete (R81, R108, R390). A team stays in the tables, ended, while it owes a remote write's response.
(DEDUCED, log 78) -/
def blockEnd (s : State) (disp : BitVec 64) (i : Nat) : State :=
  match blockOf s disp i with
  | none => s
  | some b =>
    let s1 := if ctxOnCore s b.ctx b.core (disp, i) then s else laneFlush s b.core b.ctx
    let s2 := { s1 with teams := s1.teams.filter (fun t => !(decide (t.key.disp = disp) && decide (t.key.block = i)) || owes s1 t.key)
                        mqOps := s1.mqOps.filter (fun q => !(decide (q.split.team.disp = disp) && decide (q.split.team.block = i)))
                        xeOps := s1.xeOps.map (fun o => if o.team.disp = disp ∧ o.recvs.contains i = true then { o with gone := true } else o) }
    let s3 := updBlock s2 disp i (fun b => { b with exited := true, saved := false, saving := false, claimable := false, spad := [],
                                                    tiles := [], placed := [] })
    addAgenda (releaseAreas (updDisp s3 disp (fun d => { d with live := d.live - 1 }))) [.dispatchComplete disp]

/-- Unmatched joint operations of a team are withdrawn, and each waiting participant takes the joint-op fault (R370). -/
def withdrawJoint (s : State) (k : TeamKey) : State :=
  let mine := s.mqOps.filter (fun q => decide (q.split.team = k) && isJoint q && !q.matched)
  mine.foldl (fun s q => ((partners s q).filter (fun p => decide (p.split.team ≠ k))).foldl jointFault (mqOver s q false)) s

/-- The service calls of a team that ends are no longer answered (R403). (DEDUCED, log 28) -/
def svcDrop (t : Team) (s : State) : State :=
  updCtx s t.ctx (fun x => { x with svcQ := x.svcQ.filter (fun q => decide (q.split.team ≠ t.key))
                                    svcOpen := x.svcOpen.filter (fun o => decide (o.split.team ≠ t.key)) })

/-- The team is over: its counters are written back, its streams closed, and its block ends with the last team. -/
def teamOver (t : Team) (s : State) : State :=
  let s1 := bbFlush (svcDrop t s) t.core t.ctx t.bbBase
  let s2 := (List.range 16).foldl (fun s n => match teamOf s t.key with
    | some t => closeStream s t n
    | none => s) s1
  let s3 := updTeam { s2 with watches := s2.watches.filter (fun w => decide (w.split.team ≠ t.key))
                              flushes := s2.flushes.filter (fun f => decide (f.2.team ≠ t.key)) }
    t.key (fun t => { t with ended := true, traps := [], inflight := [], ctl := [] })
  if s3.teams.all (fun u => u.ended || decide (u.key.disp ≠ t.key.disp) || decide (u.key.block ≠ t.key.block)) then
    blockEnd s3 t.key.disp t.key.block
  else s3

/-- Is the team's block saved? Nothing of it is in flight then, and its image is discarded. -/
def teamSaved (s : State) (k : TeamKey) : Bool := match blockOf s k.disp k.block with
  | some b => b.saved
  | none => false

/-- TEAM_END: once no split is left, every flag clears and every side-log entry is performed; a failed entry parks the team
there (R390, R452). (DEDUCED, log 57) -/
def teamEnd (k : TeamKey) (s : State) : State :=
  match teamOf s k with
  | none => s
  | some t =>
    if t.ended || t.low.isSome || t.high.isSome || t.parked then s
    else
      let s1 := withdrawJoint s k
      let t1 := (teamOf s1 k).getD t
      if teamSaved s k then teamOver t1 s1
      else if failedEntries s1 k ≠ [] then
        parkTeam { s1 with sideLog := s1.sideLog.filter (fun e => !(decide (e.split.team = k) && e.failed)) } k
      else if openEntries s1 k ≠ [] then s1
      else if t1.inflight = [] then teamOver t1 s1
      else addAgenda s1 ((t1.inflight.filter (fun e => decide (e.state = .ready))).map (fun e => .operationComplete k e.id))

/-- TEAM_END (R390). -/
def execTeamEnd (s : State) : Host.Outcome State Fault Refusal :=
  match s.event with
  | some (.teamEnd k) => .next (teamEnd k { s with event := none })
  | _ => .next s

/-! ### Operations of the host on a team (R425, R450) -/

/-- The teams that HALT, RUN and STEP act on: every team of the block of an ordered dispatch. -/
def ctlTeams (s : State) (k : TeamKey) : List TeamKey :=
  if orderedDisp s k.disp then
    (s.teams.filter (fun t => decide (t.key.disp = k.disp) && decide (t.key.block = k.block) && !t.ended)).map (·.key)
  else [k]

/-- An operation on a saved team is recorded in its image and takes effect at the restore; on another team it acts at once (R450).
(DEDUCED, log 56) -/
def ctlOr (k : TeamKey) (e : Event) (f : State → State) (s : State) : State :=
  if teamSaved s k then updTeam s k (fun t => if t.ended then t else { t with ctl := t.ctl ++ [e] }) else f s

/-- CTL_HALT: a team that is not halted halts as at a breakpoint. -/
def ctlHalt (k : TeamKey) (s : State) : State :=
  (ctlTeams s k).foldl (fun s k => updTeam s k (fun t => if t.ended || t.halted then t else { t with halted := true })) s

/-- CTL_HALT (R450). (DEDUCED, log 56) -/
def execCtlHalt (s : State) : Host.Outcome State Fault Refusal :=
  match s.event with
  | some (.ctlHalt k) => .next (ctlOr k (.ctlHalt k) (ctlHalt k) { s with event := none })
  | _ => .next s

/-- A step that is under way ends with the halt. -/
def noStep (sp : Split) : Split := { sp with stepping := false }

/-- CTL_RUN: a halted team runs. -/
def ctlRun (k : TeamKey) (s : State) : State :=
  (ctlTeams s k).foldl (fun s k => updTeam s k (fun t =>
    if t.halted then { t with halted := false, low := t.low.map noStep, high := t.high.map noStep } else t)) s

/-- CTL_RUN (R450). -/
def execCtlRun (s : State) : Host.Outcome State Fault Refusal :=
  match s.event with
  | some (.ctlRun k) => .next (ctlOr k (.ctlRun k) (ctlRun k) { s with event := none })
  | _ => .next s

/-- A split that resumes mid-clause: its later readers of a bypass receive the register as it stands (R266). -/
def resumed (sp : Split) : Split := { sp with resume := none, bypass := sp.bypass.map (fun b => { b with live := false }) }

/-- A faulting split goes on: one held at its instruction issues it again for the lanes of its resume mask, one held where it stands
goes on waiting for what it waits for (R447, R450). (DEDUCED, log 56) -/
def retrySplit (sp : Split) : Split :=
  match sp.resume with
  | none => sp
  | some r =>
    if r.atInstr then { resumed sp with hold := .none, pageFail := [], retry := if sp.clause.isSome then some r.mask else none }
    else resumed sp

/-- Past the instruction at which the split stands, with no effect of it; past the clause that a fetch could not take. (DEDUCED, log 56) -/
def pastInstr (r : Resume) (sp : Split) : Split :=
  match sp.clause with
  | none => { newAttempt sp with pc := r.after.getD sp.pc }
  | some c =>
    let sp1 := newAttempt sp
    if sp.pos + 1 = c.words.length then { sp1 with pc := nextClause c, clause := none, pos := 0, bypass := [] }
    else { sp1 with pos := sp.pos + 1 }

/-- A faulting split goes on after its instruction (R450). (DEDUCED, log 56) -/
def skipSplit (sp : Split) : Split :=
  match sp.resume with
  | none => sp
  | some r => if r.atInstr then pastInstr r { resumed sp with retry := none, hold := .none } else resumed sp

/-- Does a skip leave the last instruction of a clause that gives up the priority at its end (R262)? -/
def skipYields (sp : Split) : Bool :=
  match sp.resume, sp.clause with
  | some r, some c => r.atInstr && decide (sp.pos + 1 = c.words.length) && decide (bits c.header 27 27 = 1)
  | _, _ => false

/-- A parked team resumes; one that was parked at its end ends. The splits that `yields` picks receive new stamps. -/
def unpark (k : TeamKey) (f : Split → Split) (yields : Split → Bool) (s : State) : State :=
  match teamOf s k with
  | none => s
  | some t =>
    if !t.parked || t.ended then s
    else
      let s1 := ((splitsOf t).filter (fun p => yields p.2)).foldl (fun s p => newStamp s p.1)
        (updTeam s k (fun t => { t with parked := false, low := t.low.map f, high := t.high.map f }))
      if t.low.isNone && t.high.isNone then addAgenda s1 [.teamEnd k] else s1

/-- CTL_RETRY (R450). -/
def execCtlRetry (s : State) : Host.Outcome State Fault Refusal :=
  match s.event with
  | some (.ctlRetry k) => .next (ctlOr k (.ctlRetry k) (unpark k retrySplit (fun _ => false)) { s with event := none })
  | _ => .next s

/-- CTL_SKIP (R450). -/
def execCtlSkip (s : State) : Host.Outcome State Fault Refusal :=
  match s.event with
  | some (.ctlSkip k) => .next (ctlOr k (.ctlSkip k) (unpark k skipSplit skipYields) { s with event := none })
  | _ => .next s

/-- A split that is to make one step: a pending blocking wait makes one check (R461). (DEDUCED, log 56) -/
def stepSplit (sp : Split) : Split :=
  { sp with stepping := true, hold := match sp.hold with
      | .wait _ => .none
      | h => h }

/-- CTL_STEP: the named split of a halted team makes one step. -/
def ctlStep (r : SplitRef) (s : State) : State :=
  (ctlTeams s r.team).foldl (fun s k => updTeam s k (fun t =>
    if t.halted && !t.ended then putSplit t r.high ((splitIn t r.high).map stepSplit) else t)) s

/-- CTL_STEP (R450, R461). -/
def execCtlStep (s : State) : Host.Outcome State Fault Refusal :=
  match s.event with
  | some (.ctlStep r) => .next (ctlOr r.team (.ctlStep r) (ctlStep r) { s with event := none })
  | _ => .next s

/-- CTL_KILL: every lane is absent, entries with an open page request are discarded, and the team ends (R450). (DEDUCED, log 56) -/
def ctlKill (k : TeamKey) (s : State) : State :=
  match teamOf s k with
  | none => s
  | some t =>
    if t.ended then s
    else
      let s1 := fetchForget (fetchForget s { team := k, high := false }) { team := k, high := true }
      let s2 := updTeam { s1 with sideLog := s1.sideLog.filter (fun e => decide (e.split.team ≠ k))
                                  watches := s1.watches.filter (fun w => decide (w.split.team ≠ k)) }
        k (fun t => { t with absent := BitVec.allOnes 1024, low := none, high := none, traps := [], parked := false, halted := false, ctl := [] })
      addAgenda s2 [.teamEnd k]

/-- CTL_KILL (R450). -/
def execCtlKill (s : State) : Host.Outcome State Fault Refusal :=
  match s.event with
  | some (.ctlKill k) => .next (ctlKill k { s with event := none })
  | _ => .next s

end Sys2Proof.Machine
end

