-- ==== Sys2Proof/Machine/Launch.lean ====
section
/-! DEFINITION. The launch unit's command queues: decoding a command, its effect, and the acceptance of a launch with its
header, patch table, parameter block and handles (R33, R36, R45, R109, R268 to R272, R405, R427 to R435, R483). -/
namespace Sys2Proof.Machine
open Sys2Proof.Forms

/-! ### Contexts and partitions (R33, R36, R109, R405, R472, R476, R483) -/

/-- Is the pool of a context configured, in local HBM of its partition, with at least one area (R109)? R109 names an enabled pool alone;
a context whose pool is not enabled is unlaunchable too. (DESIGN CHOICE, log 58) -/
def poolOk (s : State) (c : Nat) : Bool :=
  let p := (ctxOf s c).cmplpool
  let pa := bits p 43 0 * 4096
  let n := bits p 59 44 * 4096
  decide (bits p 63 63 = 1) && decide (n ≠ 0) && isLocal s pa && inWindows (partOfCtx s c) (pa % 2 ^ 48) &&
  inWindows (partOfCtx s c) (pa % 2 ^ 48 + n - 1)

/-- Do the apertures of a context lie as R483 asks? -/
def aperturesOk (x : Ctx) : Bool :=
  let sp := bits x.spbase 55 0
  let stk := bits x.stkbase 55 0
  let top := stk + 0x10000 + 2 ^ 41
  decide (sp % 0x800000 = 0) && decide (stk % 0x10000 = 0) && decide (top ≤ 2 ^ 56) &&
  !(decide (sp < top) && decide (stk < sp + 0x800000))

/-- Is a LAUNCH of a context refused with 0x1B: unlaunchable, or its ASID stale (R33, R36, R109, R405, R483)? (DEDUCED, log 58) -/
def unlaunchable (s : State) (c : Nat) : Bool :=
  let x := ctxOf s c
  let svc := x.svcring
  decide (bits x.ctxtr 60 48 = 0) || !isLocal s (bits x.ctxtr 44 0 * 2048) || !poolOk s c ||
  (decide (bits svc 63 63 = 1) && (decide (bits svc 51 44 = 0) || !ringPlace s c (bits svc 43 0 * 4096) (bits svc 51 44 * 4096))) ||
  !aperturesOk x || s.stale.contains (x.ctxtr.extractLsb' 48 13)

/-- The quarters of a partition. -/
def quartersOf (p : Nat × Nat) : List Nat := (List.range p.2).map (fun i => p.1 + i)

/-- May the launch unit act for a partition: not held by the guard, not gated, not lost (R472, R476)? -/
def partOpen (s : State) (p : Nat × Nat) : Bool :=
  (quartersOf p).all (fun q => !(s.thold ||| s.pwrgate).getLsbD q && !quarterLost s q)

/-- The cores of a partition that are in service (R434, R475). -/
def coresOf (s : State) (p : Nat × Nat) : List Nat :=
  ((List.range (64 * p.2)).map (fun i => 64 * p.1 + i)).filter (fun c => !(coreOf s c).removed)

/-! ### COMMAND_DECODE (R428, R429) -/

/-- Is a command a LAUNCH, an INVAL, a WAITEV? -/
def cmdOp (c : Cmd) : Nat := cmdField c 0 8

/-- The dispatch identifier of a LAUNCH (R429). -/
def dispId (c : CmdRef) : BitVec 64 := BitVec.ofNat 64 ((c.ctx <<< 48) + (c.queue <<< 42) + c.k.toNat)

/-- Is the queue held: by a WAITEV, or by a LAUNCH that is not yet accepted (R270, R430, R431)? -/
def queueHeld (s : State) (c n : Nat) (q : Queue) : Bool :=
  q.order.any (fun d => decide (cmdOp d = 3) || (decide (cmdOp d = 1) && (dispOf s (dispId ⟨c, n, d.k⟩)).isNone))

/-- The local address of the next command of a queue. -/
def headPa (q : Queue) : Nat := (bits q.cq 43 0 * 4096) % 2 ^ 48 + 64 * (q.head.toNat % 2 ^ bits q.cq 47 44)

/-- Is a LAUNCH at the head held: EN = 0, or behind an INVAL that is not complete (R36, R428)? -/
def launchHeld (s : State) (c : Nat) (q : Queue) : Bool :=
  decide (readMem s (headPa q) 1 = 1) &&
  (decide (bits (ctxOf s c).ctxtr 63 63 = 0) || q.order.any (fun d => decide (cmdOp d = 4)))

/-- May a command of a queue be decoded? -/
def decodable (s : State) (c n : Nat) (q : Queue) : Bool :=
  decide (bits q.cq 63 63 = 1) && decide (q.head ≠ q.tail) && partOpen s (partOfCtx s c) && !queueHeld s c n q && !launchHeld s c q

/-- The queues with a command that may be decoded, by PRIO, then from the rotating pointer on. -/
def decodeList (s : State) : List (Nat × Nat) :=
  let all := s.ctxs.flatMap (fun p => p.2.queues.filterMap (fun q =>
    if decodable s p.1 q.1 q.2 then some (p.1, q.1, bits q.2.cq 50 48) else none))
  (sortBy (fun p => [7 - p.2.2, (64 * p.1 + p.2.1 + 2 ^ 18 - s.decodePtr) % 2 ^ 18]) all).map (fun p => (p.1, p.2.1))

/-- Reserved bytes of a command, and the reserved bits of FLAGS (R429). (DEDUCED, log 58) -/
def cmdReserved (c : Cmd) : Bool :=
  decide (5 < cmdOp c) || decide (cmdField c 9 7 ≠ 0) || decide (cmdField c 24 8 ≠ 0) || decide (cmdField c 288 32 ≠ 0) ||
  decide (cmdField c 480 32 ≠ 0)

/-- The step of a command; one that is refused outright has none. -/
def cmdEvent (c : CmdRef) (d : Cmd) : Option Event :=
  match cmdOp d with
  | 0 => if cmdReserved d then none else some (.cmdNop c)
  | 1 => some (.cmdLaunch c)
  | 2 => if cmdReserved d then none else some (.cmdSignal c)
  | 3 => if cmdReserved d then none else some (.cmdWaitev c)
  | 4 => if cmdReserved d then none else some (.cmdInval c)
  | 5 => if cmdReserved d then none else some (.cmdScrub c)
  | _ => none

/-- COMMAND_DECODE: one command is read, and HEAD advances. -/
def commandDecode (s : State) : State :=
  match decodeList s with
  | [] => s
  | (c, n) :: _ =>
    let q := queueOf (ctxOf s c) n
    let d : Cmd := { k := q.head, body := BitVec.ofNat 512 (readMem s (headPa q) 64), at_ := s.cycle, pred := q.launch }
    let r : CmdRef := ⟨c, n, q.head⟩
    let s1 := updQueue { s with decodePtr := (64 * c + n + 1) % 2 ^ 18 } c n (fun q => { q with
      head := q.head + 1, order := q.order ++ [d], launch := if cmdOp d = 1 then some q.head else q.launch })
    match cmdEvent r d with
    | some e => addAgenda s1 [e]
    | none => cmdStatus s1 r 0x1C

/-- COMMAND_DECODE (R428). -/
def execCommandDecode (s : State) : Host.Outcome State Fault Refusal :=
  match s.event with
  | some .commandDecode => .next (commandDecode { s with event := none })
  | _ => .next s

/-! ### NOP, SIGNAL, WAITEV, SCRUB, INVAL (R36, R45, R431) -/

/-- A step of a command that is not yet complete. -/
def withCmd (c : CmdRef) (f : Cmd → State → State) (s : State) : State :=
  match cmdOf s c with
  | some d => f d s
  | none => s

/-- Is the command the oldest of its queue that is not complete? -/
def cmdFirst (s : State) (c : CmdRef) : Bool :=
  match (queueOf (ctxOf s c.ctx) c.queue).order with
  | d :: _ => decide (d.k = c.k)
  | [] => false

/-- CMD_NOP (R431). -/
def execCmdNop (s : State) : Host.Outcome State Fault Refusal :=
  match s.event with
  | some (.cmdNop c) => .next (withCmd c (fun _ s => cmdStatus s c 1) { s with event := none })
  | _ => .next s

/-- CMD_SIGNAL: the count goes up once every earlier command of the queue is complete. -/
def cmdSignal (c : CmdRef) (d : Cmd) (s : State) : State :=
  let e := cmdField d 32 32
  if 1023 < e then cmdStatus s c 0x1C
  else if cmdFirst s c then
    cmdStatus (updCtx s c.ctx (fun x => { x with events := mapSet 0 x.events e (mapGet 0 x.events e + 1) })) c 1
  else s

/-- CMD_SIGNAL (R431). -/
def execCmdSignal (s : State) : Host.Outcome State Fault Refusal :=
  match s.event with
  | some (.cmdSignal c) => .next (withCmd c (cmdSignal c) { s with event := none })
  | _ => .next s

/-- CMD_WAITEV: the queue is held until the count reaches VALUE. -/
def cmdWaitev (c : CmdRef) (d : Cmd) (s : State) : State :=
  let e := cmdField d 32 32
  if 1023 < e then cmdStatus s c 0x1C
  else if cmdField d 64 64 ≤ (mapGet 0 (ctxOf s c.ctx).events e).toNat then cmdStatus s c 1
  else s

/-- CMD_WAITEV (R431). -/
def execCmdWaitev (s : State) : Host.Outcome State Fault Refusal :=
  match s.event with
  | some (.cmdWaitev c) => .next (withCmd c (cmdWaitev c) { s with event := none })
  | _ => .next s

/-- CMD_SCRUB: data and tags of the range become zero once every earlier command of the queue is complete, and no L1 of the partition
keeps a copy. -/
def cmdScrub (c : CmdRef) (d : Cmd) (s : State) : State :=
  let pa := cmdField d 64 64
  let n := cmdField d 128 64
  if !cmdFirst s c then s
  else if pa / 2 ^ 48 = devNum s ∧ pa % 4096 = 0 ∧ n % 4096 = 0 ∧ n ≠ 0 ∧ inWindows (partOfCtx s c.ctx) (pa % 2 ^ 48) = true ∧
      inWindows (partOfCtx s c.ctx) (pa % 2 ^ 48 + n - 1) = true then
    cmdStatus (l1KillIn (scrubRange s (pa % 2 ^ 48) n) (partOfCtx s c.ctx) (pa % 2 ^ 48) n) c 1
  else cmdStatus s c 0x1C

/-- CMD_SCRUB (R431). -/
def execCmdScrub (s : State) : Host.Outcome State Fault Refusal :=
  match s.event with
  | some (.cmdScrub c) => .next (withCmd c (cmdScrub c) { s with event := none })
  | _ => .next s

/-- Cores whose engine has pieces of a context's address space in hand, one entry for each piece. (DEDUCED, log 63) -/
def asidPieces (s : State) (asid : BitVec 13) : List Nat :=
  s.xeOps.flatMap (fun o => if (ctxOf s o.ctx).ctxtr.extractLsb' 48 13 = asid then
    (o.pieces.filter (xePlaceable s o)).map (fun _ => o.core) else [])

/-- CMD_INVAL: no cache of the partition keeps an entry of the range; pieces of engines that were translated are placed, and
the command completes once the requests sent before it are answered (R36). With WB the lines leave every L1 (R86), and those of the
partition's slices are written back and dropped. (DEDUCED, log 63 and log 81) -/
def cmdInval (c : CmdRef) (d : Cmd) (s : State) : State :=
  let asid := (ctxOf s c.ctx).ctxtr.extractLsb' 48 13
  let va := cmdField d 64 64
  let n := cmdField d 128 64
  let part := partOfCtx s c.ctx
  let hit (e : TlbEntry) : Bool := decide (e.asid = asid) &&
    (decide (n = 0) || (decide (e.base < va + n) && decide (va < e.base + 2 ^ e.bits)))
  let s1 := tlbDrop s part hit
  let s2 := if cmdField d 192 1 = 1 then l1DropIn (sliceDrop s1 (fun q _ => decide (part.1 ≤ q) && decide (q < part.1 + part.2))) part else s1
  addAgenda s2 ((asidPieces s asid).map Event.xePiecePlace ++ [.invalComplete c])

/-- CMD_INVAL (R36, R431). -/
def execCmdInval (s : State) : Host.Outcome State Fault Refusal :=
  match s.event with
  | some (.cmdInval c) => .next (withCmd c (cmdInval c) { s with event := none })
  | _ => .next s

/-- INVAL_COMPLETE: STATUS is written; a whole-ASID invalidation clears the mark of a stale ASID. (DEDUCED, log 63) -/
def invalComplete (c : CmdRef) (d : Cmd) (s : State) : State :=
  let asid := (ctxOf s c.ctx).ctxtr.extractLsb' 48 13
  if s.outReqs.any (fun q => decide ((hdrOf q.packet).asid = asid.toNat) && (decide (q.sent.toNat ≤ d.at_.toNat) || decide (q.tries ≠ 0))) then s
  else cmdStatus { s with stale := if cmdField d 128 64 = 0 then s.stale.filter (· ≠ asid) else s.stale } c 1

/-- INVAL_COMPLETE (R36). -/
def execInvalComplete (s : State) : Host.Outcome State Fault Refusal :=
  match s.event with
  | some (.invalComplete c) => .next (withCmd c (invalComplete c) { s with event := none })
  | _ => .next s

/-! ### CMD_LAUNCH (R268 to R272, R430, R432) -/

/-- A launch is refused: STATUS is written and no block runs. -/
def refuse (c : CmdRef) (code : Nat) (s : State) : State :=
  cmdStatus (updQueue s c.ctx c.queue (fun q => { q with page := none, failed := [], taken := [] })) c code

/-- Has a page of the access been answered failed? -/
def failedPage (q : Queue) (ga : BitVec 64) (n : Nat) : Bool :=
  q.failed.any (fun p => decide (65536 * p < bits ga 55 0 + n) && decide (bits ga 55 0 < 65536 * (p + 1)))

/-- What a read of the LAUNCH at the head of a queue has given, where it has been made. -/
def takenAt (s : State) (c : CmdRef) (i : Nat) : Option Nat :=
  ((queueOf (ctxOf s c.ctx) c.queue).taken.find? (fun p => decide (p.1 = i))).map (·.2)

/-- Read `i` of a launch: through the context's translation with the checks of a load; it goes on with the number, which is read once.
A page request holds the queue; an answer that it failed, and any other failure, refuses the launch with the code given (R270).
(DEDUCED, log 58) -/
def luThen (c : CmdRef) (i : Nat) (ga : BitVec 64) (n align code : Nat) (eff : Nat → State → State) (s : State) : State :=
  let x := ctxOf s c.ctx
  if n = 0 then eff 0 s
  else match takenAt s c i with
  | some v => eff v s
  | none =>
  if inAperture (bits x.spbase 55 0) (bits x.stkbase 55 0) ga || failedPage (queueOf x c.queue) ga n then refuse c code s
  else match checkAccess s (deviceWho c.ctx) { ga := ga, n := n, align := align, write := false, atom := false, tags := true } with
    | (s1, .ok ts _) =>
      if ts.any (fun t => match t with
          | .remote _ _ _ => true
          | _ => false) then refuse c code s1
      else match readTargets s1 noBlock ts with
        | some v => eff v (updQueue (slicePass (partOfCtx s1 c.ctx) false false ts s1) c.ctx c.queue (fun q => { q with taken := q.taken ++ [(i, v)] }))
        | none => refuse c code s1
    | (s1, .page p) =>
      match requestPage s1 c.ctx p { noRec with disp := dispId c, acc := 0, addr := ga, cyc := s1.cycle } with
      | (s2, some id) => updQueue s2 c.ctx c.queue (fun q => { q with page := some id })
      | (s2, none) => refuse c code s2
    | (s1, .fault _) => refuse c code s1

/-- A kernel header (R269). -/
structure Kernel where
  rows    : Nat
  teams   : Nat
  nv      : Nat
  spBytes : Nat
  nbar    : Nat
  nacc    : Nat
  ssDepth : Nat
  cls     : Nat
  ordered : Bool
  entry   : Nat
  trapDef : Nat
  ptOff   : Nat
  nPatch  : Nat
  pBytes  : Nat
  codeLen : Nat
  deriving DecidableEq, Repr

/-- The header of 512 bits (R269). -/
def kernelOf (v : Nat) : Kernel :=
  { rows := fld v 40 5 + 1, teams := fld v 45 4 + 1, nv := fld v 49 7 + 1, spBytes := fld v 64 23, nbar := fld v 87 5,
    nacc := fld v 92 4, ssDepth := fld v 96 8, cls := fld v 104 2, ordered := decide (fld v 106 1 = 1), entry := fld v 128 32,
    trapDef := fld v 160 32, ptOff := fld v 192 32, nPatch := fld v 224 16, pBytes := fld v 240 16, codeLen := fld v 256 32 }

/-- Does a word of `n` bytes at a code offset lie in the code range (R269, R270)? -/
def inCode (k : Kernel) (off n : Nat) : Bool := decide (off % 4 = 0) && decide (64 ≤ off) && decide (off + n ≤ 64 + k.codeLen)

/-- The first failed check of a header, by its STATUS (R270, R432). (DEDUCED, log 58) -/
def headerFault (v : Nat) : Option Nat :=
  let k := kernelOf v
  if fld v 0 32 ≠ 0x5A394B48 ∨ fld v 32 8 ≠ 1 then some 0x10
  else if fld v 56 8 ≠ 0 ∨ fld v 107 21 ≠ 0 ∨ fld v 288 224 ≠ 0 then some 0x11
  else if k.cls = 3 ∨ 16 < k.nbar ∨ 8 < k.nacc ∨ 5767168 < k.spBytes then some 0x12
  else if 2048 < k.rows * k.nv then some 0x13
  else if inCode k k.entry 4 = false ∨ (k.trapDef ≠ 0 ∧ inCode k k.trapDef 4 = false) then some 0x14
  else if 1024 < k.nPatch ∨ (k.nPatch = 0 ∧ k.ptOff ≠ 0) ∨ (k.nPatch ≠ 0 ∧ (k.ptOff % 8 ≠ 0 ∨ inCode k k.ptOff (8 * k.nPatch) = false))
    then some 0x15
  else none

/-- Width of a patched value in bytes. -/
def patchWidth (r : Nat) : Nat := 2 ^ fld r 27 2

/-- Is a patch record valid but for the clause it names (R271)? -/
def patchOk (k : Kernel) (all : List Nat) (r : Nat) : Bool :=
  inCode k (fld r 0 24) 4 && decide (fld r 27 2 ≠ 3) && decide (fld r 30 2 = 0) && decide (fld r 48 16 = 0) &&
  decide (fld r 32 16 % patchWidth r = 0) && decide (fld r 32 16 + patchWidth r ≤ k.pBytes) &&
  decide ((all.filter (fun q => decide (fld q 0 27 = fld r 0 27))).length ≤ 1)

/-- Checks the records in turn, reading the word that each one patches: reads 3 and above of the launch. -/
def patchThen (c : CmdRef) (k : Kernel) (ka : BitVec 64) (all : List Nat) (eff : State → State) : List Nat → State → State
  | [], s => eff s
  | r :: rest, s =>
    if patchOk k all r then
      luThen c (3 + all.length - (r :: rest).length) (ka + BitVec.ofNat 64 (fld r 0 24)) 4 4 0x15 (fun w s =>
        let h : Word := BitVec.ofNat 32 w
        if bits h 31 29 = 6 ∧ fld r 24 3 < literalCount h then patchThen c k ka all eff rest s else refuse c 0x15 s) s
    else refuse c 0x15 s

/-- The value that a record lays over its literal, from the bytes of the parameter block (R271, R272). -/
def overlayOf (ka : BitVec 64) (param r : Nat) : Overlay :=
  let w := 8 * patchWidth r
  let v := fld param (8 * fld r 32 16) w
  { clause := (ka + BitVec.ofNat 64 (fld r 0 24)).setWidth 56, slot := fld r 24 3,
    value := BitVec.ofNat 32 (if fld r 29 1 = 1 then wrap 32 (sgn w v) else v) }

/-! #### Handles (R429, R430) -/

/-- Handle entry `i` of a command. -/
def handleEntry (d : Cmd) (i : Nat) : Nat := cmdField d (320 + 16 * i) 16

/-- Are the handle entries well-formed? -/
def handlesOk (d : Cmd) : Bool :=
  let nh := cmdField d 16 8
  decide (nh ≤ 8) && (List.range 8).all (fun i =>
    let e := handleEntry d i
    if i < nh then decide (fld e 15 1 = 1) && decide (fld e 14 1 = 0) && decide (fld e 12 2 ≠ 0) else decide (e = 0))

/-- The handles that a command names: number, and whether it writes. -/
def handleList (d : Cmd) : List (Nat × Bool) :=
  (List.range (cmdField d 16 8)).map (fun i => (fld (handleEntry d i) 0 12, decide (fld (handleEntry d i) 13 1 = 1)))

/-- The table's record of a handle. -/
def handleUse (x : Ctx) (h : Nat) : HandleUse := mapGet { writer := none, readers := [] } x.handles h

/-- The dispatches that a launch depends on, whatever the queues of those that the handle table names: of the dispatches that R430 lists
those that are not complete; a LAUNCH before it that was refused has none. (DEDUCED, log 58) -/
def launchDeps (s : State) (c : CmdRef) (d : Cmd) : List (BitVec 64) :=
  let x := ctxOf s c.ctx
  let byHandle := (handleList d).flatMap (fun h => (handleUse x h.1).writer.toList ++ (if h.2 then (handleUse x h.1).readers else []))
  let pred := if cmdField d 8 1 = 1 then (d.pred.map (fun k => dispId { c with k := k })).toList else []
  ((byHandle ++ pred).filter (fun i => (dispOf s i).isSome)).eraseDups

/-- Would the launch be a 17th reader of a handle that it only reads? -/
def readersFull (s : State) (c : CmdRef) (d : Cmd) : Bool :=
  (handleList d).any (fun h => !(handleList d).contains (h.1, true) && decide (16 ≤ (handleUse (ctxOf s c.ctx) h.1).readers.length))

/-- The handle table after acceptance. -/
def takeHandles (s : State) (c : CmdRef) (d : Cmd) : State :=
  let id := dispId c
  updCtx s c.ctx (fun x => { x with handles := (handleList d).foldl (fun m h =>
    let u := mapGet { writer := none, readers := [] } m h.1
    mapSet { writer := none, readers := [] } m h.1
      (if h.2 then { writer := some id, readers := [] }
       else if u.writer = some id ∨ u.readers.contains id = true then u else { u with readers := u.readers ++ [id] })) x.handles })

/-! #### What the partition can hold (R433, R434) -/

/-- Teams of a block in a quadrant. -/
def teamsInQuad (teams q : Nat) : Nat := ((List.range teams).filter (fun i => decide (i % 4 = q))).length

/-- The number of blocks that one empty core can hold (R433). -/
def kmax (rows nv teams nacc spBytes : Nat) : Nat :=
  let cap := 3 * min 8 (2048 / (rows * nv))
  let quads := ((List.range 4).filter (fun q => decide (teamsInQuad teams q ≠ 0))).map (fun q => cap / teamsInQuad teams q)
  let all := quads ++ (if nacc = 0 then [] else [8 / nacc]) ++ (if spBytes = 0 then [] else [5767168 / spBytes])
  all.foldl min (all.headD 0)

/-- The kmax of a dispatch. -/
def dispMax (d : Dispatch) : Nat := kmax d.rows d.nv d.teams d.nacc d.spBytes

/-- The first of the later checks that fails, by its STATUS (R432). (DEDUCED, log 58) -/
def launchFault (s : State) (c : CmdRef) (d : Cmd) (k : Kernel) : Option Nat :=
  let n := cmdField d 192 32 * cmdField d 224 32 * cmdField d 256 32
  let m := kmax k.rows k.nv k.teams k.nacc k.spBytes
  if n = 0 ∨ 2 ^ 32 < n then some 0x17
  else if !handlesOk d then some 0x18
  else if m = 0 ∨ coresOf s (partOfCtx s c.ctx) = [] then some 0x19
  else if k.cls = 0 ∧ m * (coresOf s (partOfCtx s c.ctx)).length < n then some 0x1A
  else if cmdReserved d then some 0x1C
  else none

/-- The dispatch of an accepted launch. -/
def dispatchOf (s : State) (c : CmdRef) (d : Cmd) (k : Kernel) (l : List Overlay) : Dispatch :=
  { id := dispId c, cmd := c, seq := s.accepted, prio := bits (queueOf (ctxOf s c.ctx) c.queue).cq 50 48,
    ka := BitVec.ofNat 56 (cmdField d 64 64), param := BitVec.ofNat 64 (cmdField d 128 64), rows := k.rows, teams := k.teams,
    nv := k.nv, spBytes := k.spBytes, nbar := k.nbar, nacc := k.nacc, ssDepth := k.ssDepth, cls := k.cls, ordered := k.ordered,
    entry := k.entry, trapDef := k.trapDef, nbx := cmdField d 192 32, nby := cmdField d 224 32, nbz := cmdField d 256 32,
    overlays := l, deps := launchDeps s c d, reserved := [], next := 0, live := 0, faulted := false, stop := none }

/-- Acceptance: the dependences and the handle table (R430). -/
def accept (c : CmdRef) (d : Cmd) (k : Kernel) (l : List Overlay) (s : State) : State :=
  match launchFault s c d k with
  | some code => refuse c code s
  | none =>
    if readersFull s c d then s
    else
      let s1 := takeHandles { s with dispatches := s.dispatches ++ [dispatchOf s c d k l], accepted := s.accepted + 1 } c d
      updQueue s1 c.ctx c.queue (fun q => { q with page := none, failed := [], taken := [] })

/-- May the kernel header be read at its address: not on a page with XN (R269)? (DEDUCED, log 58) -/
def headerXn (s : State) (c : Nat) (va : Nat) : Bool :=
  match (translate s (deviceWho c).via c va).2 with
  | .page p => p.xn
  | _ => false

/-- CMD_LAUNCH: the checks of R432 in their order, and acceptance. -/
def cmdLaunch (c : CmdRef) (d : Cmd) (s : State) : State :=
  let ka := BitVec.ofNat 64 (cmdField d 64 64)
  if (dispOf s (dispId c)).isSome ∨ (queueOf (ctxOf s c.ctx) c.queue).page.isSome then s
  else if unlaunchable s c.ctx then refuse c 0x1B s
  else let first := (takenAt s c 0).isNone
  luThen c 0 ka 64 64 0x10 (fun v s =>
    let k := kernelOf v
    if first && headerXn s c.ctx (bits ka 55 0) then refuse c 0x10 s
    else match headerFault v with
      | some code => refuse c code s
      | none => luThen c 1 (ka + BitVec.ofNat 64 k.ptOff) (8 * k.nPatch) 8 0x15 (fun t s =>
          let rs := (List.range k.nPatch).map (fun i => fld t (64 * i) 64)
          patchThen c k ka rs (fun s => luThen c 2 (BitVec.ofNat 64 (cmdField d 128 64)) k.pBytes 1 0x16
            (fun p s => accept c d k (rs.map (overlayOf ka p)) s) s) rs s) s) s

/-- CMD_LAUNCH (R269 to R272, R430, R432). -/
def execCmdLaunch (s : State) : Host.Outcome State Fault Refusal :=
  match s.event with
  | some (.cmdLaunch c) => .next (withCmd c (cmdLaunch c) { s with event := none })
  | _ => .next s

/-- The steps of commands that are decoded and not yet complete, and the next decode. -/
def commandsDue (s : State) : List Event :=
  s.ctxs.flatMap (fun p => if partOpen s (partOfCtx s p.1) then p.2.queues.flatMap (fun q => q.2.order.filterMap (fun d =>
    let c : CmdRef := ⟨p.1, q.1, d.k⟩
    match cmdOp d with
    | 1 => if (dispOf s (dispId c)).isNone && q.2.page.isNone then some (.cmdLaunch c) else none
    | 2 => some (.cmdSignal c)
    | 3 => some (.cmdWaitev c)
    | 4 => some (.invalComplete c)
    | 5 => some (.cmdScrub c)
    | _ => none)) else []) ++
  (if decodeList s = [] then [] else [.commandDecode])

end Sys2Proof.Machine
end

