-- ==== Sys2Proof/Machine/Band.lean ====
section
/-! DEFINITION. The Band ring and its messages, configuration writes by the management controller, and the mailbox (R88 to R91,
R155, R163, R167, R171, R180, R472 to R474, R485). -/
namespace Sys2Proof.Machine
open Sys2Proof.Forms

/-! ### The ring (R88 to R90) -/

/-- Stops of the ring, and the reserved ones. -/
def bandStops : Nat := 528
def reservedStop (n : Nat) : Bool := within n 8 15

/-- Is a message invalid: a reserved KIND, or a DEST that is reserved or above 527 (R89)? -/
def bandInvalid (m : BandMsg) : Bool := decide (5 < m.kind.toNat) || reservedStop m.dest.toNat || decide (bandStops ≤ m.dest.toNat)

/-- The step of a message that is removed at its destination. -/
def bandEvent (m : BandMsg) : Event :=
  if bandInvalid m then .bandInvalidRemove m
  else match m.kind.toNat with
    | 0 => .configurationRead m
    | 1 => .configurationWrite m
    | 2 => .readReply m
    | 3 => .bandWake m
    | 4 => .bandInterrupt m
    | _ => .bandManagement m

/-- Is a message removed at a stop? -/
def removedAt (m : BandMsg) (n : Nat) : Bool := decide (m.dest.toNat = n) || (bandInvalid m && reservedStop n)

/-- The slots that a message fills: its header's stop and those behind it. -/
def bandSlots (p : BandMsg × BitVec 10) : List Nat := (List.range (1 + p.1.len.toNat)).map (fun i => (p.2.toNat + bandStops - i) % bandStops)

/-- Inserts messages that wait, each where its slots are empty; one for its own stop is there at once. Messages that wait at one stop
need not keep their order: where an earlier one does not fit, a shorter later one goes in (R89). (DESIGN CHOICE, log 42) -/
def bandInsert : List BandMsg → List (BandMsg × BitVec 10) → List (BandMsg × BitVec 10) × List BandMsg × List Event
  | [], ring => (ring, [], [])
  | m :: rest, ring =>
    if removedAt m m.source.toNat then
      let (r, w, e) := bandInsert rest ring
      (r, w, bandEvent m :: e)
    else if (ring.flatMap bandSlots).any ((bandSlots (m, m.source)).contains ·) then
      let (r, w, e) := bandInsert rest ring
      (r, m :: w, e)
    else bandInsert rest (ring ++ [(m, m.source)])

/-- One network cycle of the ring: every message moves one stop, and those at their stop are removed. -/
def bandMove (s : State) : State × List Event :=
  let moved := s.band.map (fun p => (p.1, BitVec.ofNat 10 ((p.2.toNat + 1) % bandStops)))
  let here := moved.filter (fun p => removedAt p.1 p.2.toNat)
  let (ring, waits, more) := bandInsert s.bandWait (moved.filter (fun p => !removedAt p.1 p.2.toNat))
  ({ s with band := ring, bandWait := waits }, here.map (fun p => bandEvent p.1) ++ more)

/-- The two network cycles of a core cycle: the state of the ring then, and the messages removed. (DEDUCED, log 42) -/
def bandTick (s : State) : State :=
  let (s1, a) := bandMove s
  let (s2, b) := bandMove s1
  addAgenda s2 (a ++ b)

/-! ### The steps of messages (R89 to R91) -/

/-- CONFIGURATION_READ: the register's value goes back to the source in a read reply. -/
def configurationRead (m : BandMsg) (s : State) : State :=
  { s with bandWait := s.bandWait ++ [{ dest := m.source, source := m.dest, kind := 2, len := 1, addr := m.addr
                                        payload := [mgmtRead s m.addr.toNat] }] }

/-- CONFIGURATION_READ (R89). -/
def execConfigurationRead (s : State) : Host.Outcome State Fault Refusal :=
  match s.event with
  | some (.configurationRead m) => .next (configurationRead m { s with event := none })
  | _ => .next s

/-- Is a context of the device enabled, or one of a quarter's partition (R91, R155)? -/
def anyEnabled (s : State) : Bool := s.ctxs.any (fun p => decide (bits p.2.ctxtr 63 63 = 1))
def partEnabled (s : State) (q : Nat) : Bool :=
  s.ctxs.any (fun p => decide (bits p.2.ctxtr 63 63 = 1) && decide (partOfCtx s p.1 = partOfQuarter s q))

/-- A quarter whose gate bit clears wakes 2,400 network cycles later; one that is gated keeps no translation and no line (R91). -/
def writePwrgate (s : State) (v : Word) : State :=
  let woken := (List.range 4).filter (fun q => s.pwrgate.getLsbD q && !v.getLsbD q)
  let gone := (List.range 4).filter (fun q => !s.pwrgate.getLsbD q && v.getLsbD q)
  let s1 := gone.foldl (fun s q => l1DropIn (tlbDrop s (q, 1) (fun _ => true)) (q, 1)) s
  sliceDrop { s1 with
    pwrgate := v &&& 0xF
    wakeAt := woken.foldl (fun m q => mapSet 0 m q (s.cycle + 1200)) s.wakeAt } (fun q _ => gone.contains q)

/-- FABCFG: while a context is enabled only bits of PORTEN may clear (R155, R475, R478). (DEDUCED, log 62) -/
def writeFabcfg (s : State) (v : BitVec 64) : State :=
  let new := v &&& 0x003FFFFFFFFFFFFF
  if anyEnabled s then
    if s.fabcfg &&& 0xFFFFC0000000FFFF = new &&& 0xFFFFC0000000FFFF then { s with fabcfg := s.fabcfg &&& new } else s
  else { s with fabcfg := new }

/-- A management write at its register, by the register's offset in R481 and under its map. -/
def applyConfig (s : State) (off : Nat) (v : BitVec 64) : State :=
  let w := v.setWidth 32
  if 0x031000 ≤ off ∧ off < 0x031800 then
    { s with fabacl := mapSet 0 s.fabacl ((off - 0x031000) / 8) (v &&& 0xFFFFFFFFFF) }
  else match off with
    | 0x010000 => { s with hlthcfg := w &&& 0xFFFF }
    | 0x020000 => if bits w 7 0 < bits w 15 8 then { s with thermcfg := w &&& 0xFFFFFF } else s
    | 0x020010 => { s with thold := w &&& 0xF }
    | 0x030040 => writePwrgate s w
    | 0x030048 => writeFabcfg s v
    | 0x030050 => { s with fabrte := w &&& 0x1FFFF }
    | 0x030058 => { s with fabqos := w }
    | 0x030060 => { s with fabrto := w &&& 0x0FFFFFFF }
    | _ => s

/-- CONFIGURATION_WRITE (R89, R155, R163, R167, R171, R180, R473, R474). -/
def execConfigurationWrite (s : State) : Host.Outcome State Fault Refusal :=
  match s.event with
  | some (.configurationWrite m) => .next (applyConfig { s with event := none } m.addr.toNat (m.payload.headD 0))
  | _ => .next s

/-- READ_REPLY: the mailbox read that waits for it ends (R485). -/
def readReply (m : BandMsg) (s : State) : State :=
  if bits s.mbstat 1 0 = 1 ∧ m.dest = 0 then mgmtInterrupt { s with mbdata := m.payload.headD 0, mbstat := 2 } 6 else s

/-- READ_REPLY (R89, R485). -/
def execReadReply (s : State) : Host.Outcome State Fault Refusal :=
  match s.event with
  | some (.readReply m) => .next (readReply m { s with event := none })
  | _ => .next s

/-- BAND_WAKE: a network interface has been sent a wake (R90). (DEDUCED, log 42) -/
def execBandWake (s : State) : Host.Outcome State Fault Refusal :=
  match s.event with
  | some (.bandWake m) => .next { s with event := none, routersAwake := (m.dest :: s.routersAwake).eraseDups }
  | _ => .next s

/-- BAND_INTERRUPT: an interrupt code has reached the I/O die (R90). -/
def execBandInterrupt (s : State) : Host.Outcome State Fault Refusal :=
  match s.event with
  | some (.bandInterrupt m) => .next { s with event := none, hostOut := s.hostOut ++ [.bandCode m.source m.addr] }
  | _ => .next s

/-- BAND_MANAGEMENT: the message is removed; the spec gives it no other effect (R89). -/
def execBandManagement (s : State) : Host.Outcome State Fault Refusal :=
  match s.event with
  | some (.bandManagement _) => .next { s with event := none }
  | _ => .next s

/-- BAND_INVALID_REMOVE: the message is counted, and the host is told (R89, R484). -/
def execBandInvalidRemove (s : State) : Host.Outcome State Fault Refusal :=
  match s.event with
  | some (.bandInvalidRemove _) => .next (mgmtInterrupt { s with event := none, banderr := s.banderr + 1 } 7)
  | _ => .next s

/-- QUARTER_WAKE_READY: 2,400 network cycles after its gate cleared a quarter accepts traffic (R91). -/
def execQuarterWakeReady (s : State) : Host.Outcome State Fault Refusal :=
  match s.event with
  | some (.quarterWakeReady q) =>
    let t := mapGet 0 s.wakeAt q
    .next { s with event := none, wakeAt := if t.toNat ≤ s.cycle.toNat then mapSet 0 s.wakeAt q 0 else s.wakeAt }
  | _ => .next s

/-- The quarters that are ready in a cycle. -/
def wakesDue (s : State) : List Event :=
  (s.wakeAt.filter (fun p => decide (p.2.toNat ≤ s.cycle.toNat))).map (fun p => .quarterWakeReady p.1)

/-! ### The mailbox (R485) -/

/-- The Band stop of a register that the controller writes. (DEDUCED, log 42) -/
def regStop (off : Nat) : BitVec 10 :=
  if 0x030048 ≤ off ∧ off < 0x031800 then 5 else if off = 0x020010 ∨ off = 0x030040 then 1 else 0

/-- A write by the management controller into the domain; gate 0 stamps it (R489). (DEDUCED, log 42) -/
def mgmtMsg (off : Nat) (v : BitVec 64) : BandMsg :=
  { dest := regStop off, source := 0, kind := 1, len := 1, addr := BitVec.ofNat 32 off, payload := [v] }
def controllerWrite (s : State) (off : Nat) (v : BitVec 64) : State := cuffStamp 0 false (.mgmt (mgmtMsg off v)) s

/-- The mailbox registers, with the bits that their maps define (R481). -/
def mailboxMask (off : Nat) : Option Nat :=
  if 0x031000 ≤ off ∧ off < 0x031800 ∧ off % 8 = 0 then some 0xFFFFFFFFFF
  else match off with
    | 0x010000 => some 0xFFFF
    | 0x020000 => some 0xFFFFFF
    | 0x030040 => some 0xF
    | 0x030048 => some 0x003FFFFFFFFFFFFF
    | 0x030050 => some 0x1FFFF
    | 0x030058 => some 0xFFFFFFFF
    | 0x030060 => some 0x0FFFFFFF
    | _ => none

/-- The code of a refused write: a register that is no mailbox register, a value outside its map or rules, or a register not
writable now (R91, R155, R473, R485). -/
def mailboxFault (s : State) (off : Nat) (v : BitVec 64) : Option Nat :=
  match mailboxMask off with
  | none => some 1
  | some m =>
    if v.toNat &&& m ≠ v.toNat then some 2
    else if off = 0x020000 ∧ bits v 15 8 ≤ bits v 7 0 then some 2
    else if off = 0x030048 ∧ anyEnabled s = true then some 3
    else if off = 0x030040 ∧ (List.range 4).any (fun q => v.getLsbD q && !s.pwrgate.getLsbD q && partEnabled s q) = true then some 3
    else none

/-- A mailbox request ends (R484, R485). -/
def mailboxEnd (s : State) (state code : Nat) : State := mgmtInterrupt { s with mbstat := BitVec.ofNat 32 (state + 4 * code) } 6

/-- MAILBOX_WRITE: a write while STATE is busy is ignored. -/
def mailboxWrite (s : State) : State :=
  let off := bits s.mbaddr 23 0
  if bits s.mbstat 1 0 = 1 then s
  else match mailboxFault s off s.mbdata with
    | some c => mailboxEnd s 3 c
    | none => mailboxEnd (controllerWrite s off s.mbdata) 2 0

/-- MAILBOX_WRITE (R485). -/
def execMailboxWrite (s : State) : Host.Outcome State Fault Refusal :=
  match s.event with
  | some .mailboxWrite => .next (mailboxWrite { s with event := none })
  | _ => .next s

/-- MAILBOX_READ: a Band read of the register; STATE is busy until its reply. -/
def mailboxRead (s : State) : State :=
  let off := bits s.mbaddr 23 0
  if bits s.mbstat 1 0 = 1 then s
  else if (mailboxMask off).isNone then mailboxEnd s 3 1
  else { s with mbstat := 1, bandWait := s.bandWait ++ [{ dest := regStop off, source := 0, kind := 0, len := 0, addr := BitVec.ofNat 32 off, payload := [] }] }

/-- MAILBOX_READ (R485). -/
def execMailboxRead (s : State) : Host.Outcome State Fault Refusal :=
  match s.event with
  | some .mailboxRead => .next (mailboxRead { s with event := none })
  | _ => .next s

end Sys2Proof.Machine
end

