-- ==== Sys2Proof/Machine/Convert.lean ====
section
/-! DEFINITION. Conversions, packing, 4-bit quantisation and stochastic seeds (R343 to R349). -/
namespace Sys2Proof.Machine
open Sys2Proof.Forms

/-- One converted element: `kind` 0 CVTFF, 1 CVTFI, 2 CVTIF, 3 CVTII (R344). -/
def convertOne (kind : Nat) (st dt : ETy) (r : Rnd) (sr : Word) (v : Nat) : Nat × Exc :=
  match kind with
  | 0 => fround (fmtOf dt) r sr (fval (fmtOf st) r.ftz v)
  | 1 => cvtToInt dt r.mode sr (fval (fmtOf st) r.ftz v)
  | 2 => fround (fmtOf dt) r sr (ofInt (iVal st v))
  | _ => (iReduce dt r.sat (iVal st v), 0)

/-- A conversion in a lane: element SSEL of a to element DSEL of d; a narrow element leaves the other bits of d (R344). -/
def convertLane (x : Iss) (kind : Nat) (l : Nat) : Nat × Exc :=
  let st := (tyOfCode (bits x.m 4 0)).getD .s32
  let dt := x.t
  let sw := st.width
  let dw := dt.width
  let dsel := bits x.m 11 10
  let (v, e) := convertOne kind st dt x.r (srOf x l dsel) (fld (x.va l) (sw * bits x.m 9 8) sw)
  if 32 ≤ dw then (v, e)
  else
    let old := x.vd l
    (old - (fld old (dw * dsel) dw <<< (dw * dsel)) + ((v % 2 ^ dw) <<< (dw * dsel)), e)

/-- PACK2 in a lane (R345). -/
def packLane (x : Iss) (l : Nat) : Nat × Exc :=
  let dt := x.t
  let one (e v : Nat) : Nat × Exc :=
    if dt.float then convertOne 0 .fp32 dt x.r (srOf x l e) v
    else convertOne 3 (if dt.signed then .s32 else .n32) dt x.r 0 v
  let (a, p) := one 0 (x.va l)
  let (b, q) := one 1 (x.vb l)
  (a % 2 ^ 16 + ((b % 2 ^ 16) <<< 16), p ||| q)

/-- QPACK in a lane: nibble n of d, the other bits kept (R347). -/
def qpackLane (x : Iss) (l : Nat) : Nat × Exc :=
  let b := x.vb l
  let n := fld b 8 3
  let (c, e) := qPack x.rnd (srOf x l n) (x.va l) (fld b 0 8)
  (x.vd l - (fld (x.vd l) (4 * n) 4 <<< (4 * n)) + ((c % 16) <<< (4 * n)), e)

/-- CVTFF (R343, R344). -/
def execCvtff (d a b : BitVec 8) (s : State) : Host.Outcome State Fault Refusal :=
  issue (.cvtff d a b) s (fun x => fixedForm x true 0x02 (convertLane x 0))

/-- CVTFI (R343, R344). -/
def execCvtfi (d a b : BitVec 8) (s : State) : Host.Outcome State Fault Refusal :=
  issue (.cvtfi d a b) s (fun x => fixedForm x true 0x02 (convertLane x 1))

/-- CVTIF (R343, R344). -/
def execCvtif (d a b : BitVec 8) (s : State) : Host.Outcome State Fault Refusal :=
  issue (.cvtif d a b) s (fun x => fixedForm x true 0x02 (convertLane x 2))

/-- CVTII (R343, R344). -/
def execCvtii (d a b : BitVec 8) (s : State) : Host.Outcome State Fault Refusal :=
  issue (.cvtii d a b) s (fun x => fixedForm x false 0x02 (convertLane x 3))

/-- PACK2 (R345). -/
def execPack2 (d a b : BitVec 8) (s : State) : Host.Outcome State Fault Refusal :=
  issue (.pack2 d a b) s (fun x => fixedForm x x.t.float 0x02 (packLane x))

/-- SCALEMAKE (R346). -/
def execScalemake (d a b : BitVec 8) (s : State) : Host.Outcome State Fault Refusal :=
  issue (.scalemake d a b) s (fun x => fixedForm x false 0x02 (fun l => (scaleMake (x.va l) (fld (x.vb l) 0 2), 0)))

/-- QPACK (R347). -/
def execQpack (d a b : BitVec 8) (s : State) : Host.Outcome State Fault Refusal :=
  issue (.qpack d a b) s (fun x => fixedForm x true 0x02 (qpackLane x))

/-- QUNPACK (R348). -/
def execQunpack (d a b : BitVec 8) (s : State) : Host.Outcome State Fault Refusal :=
  issue (.qunpack d a b) s (fun x => fixedForm x false 0x02 (fun l =>
    (qUnpack (fld (x.va l) (4 * fld (x.vb l) 8 3) 4) (fld (x.vb l) 0 8), 0)))

/-- SRSEED: SRSV of each active and helper lane takes a, SRCNT zero (R349);
the lanes of R320 are left UNKNOWN. -/
def execSrseed (a : BitVec 8) (s : State) : Host.Outcome State Fault Refusal :=
  issue (.srseed a) s (fun x s => retire x (updTeam s x.ref.team (fun t => { t with
    srsv := mapPut 0 t.srsv 0 x.n (fun l => if laneIn x.mixed l then unknown x.fresh (2 ^ 21 + 2 ^ 20 + 1024 + l)
      else if laneIn x.all l then readWord x x.f.a 0 l else mapGet 0 t.srsv l)
    srcnt := mapPut 0 t.srcnt 0 x.n (fun l => if laneIn x.mixed l then unknown x.fresh (2 ^ 21 + 2 ^ 20 + l)
      else if laneIn x.all l then 0 else mapGet 0 t.srcnt l) })))

end Sys2Proof.Machine
end

