-- ==== Sys2Proof/Machine/Image.lean ====
section
/-! DEFINITION. The image of a saved block: its contents as words, and the coding of its parts (R455, R456). The spec names what a part
holds and how long it is uncoded, and not where in the part each item stands: items follow one another in the order in which R455
names them, each from a fresh word. (DESIGN CHOICE, log 50) -/
namespace Sys2Proof.Machine
open Sys2Proof.Forms

/-! ### Items (R455) -/

/-- A number as `k` words, the lowest first. -/
def natWords (k v : Nat) : List (BitVec 64) := (List.range k).map (fun i => BitVec.ofNat 64 (v >>> (64 * i)))

/-- Exactly `n` words: what is there, and zeros. -/
def padWords (n : Nat) (l : List (BitVec 64)) : List (BitVec 64) := l.take n ++ List.replicate (n - l.length) 0

/-- `2 n` registers as words, two to a word. -/
def pairWords (n : Nat) (get : Nat → Word) : List (BitVec 64) :=
  (List.range n).map (fun i => (get (2 * i)).setWidth 64 ||| ((get (2 * i + 1)).setWidth 64 <<< 32))

/-- A list, headed by its length. -/
def listWords {α : Type} (f : α → List (BitVec 64)) (l : List α) : List (BitVec 64) := BitVec.ofNat 64 l.length :: l.flatMap f

/-- A part that may be absent. -/
def optWords {α : Type} (f : α → List (BitVec 64)) : Option α → List (BitVec 64)
  | none => [0]
  | some a => 1 :: f a

def maskWords (m : LaneMask) : List (BitVec 64) := natWords 16 m.toNat

def flag64 (b : Bool) : BitVec 64 := (BitVec.ofBool b).setWidth 64

/-- A split-stack entry. -/
def stackWords : StackEntry → List (BitVec 64)
  | .rejoin j m mode xf => [0, j.setWidth 64, mode.setWidth 64 ||| (xf.setWidth 64 <<< 32)] ++ maskWords m
  | .pending j m a mode => [1, j.setWidth 64, mode.setWidth 64, a.setWidth 64] ++ maskWords m

/-- The handler-entry record of a split. -/
def handlerWords (h : Handler) : List (BitVec 64) :=
  [BitVec.ofNat 64 h.depth, flag64 h.wrote, h.clause.elim 0 (fun c => c.addr.setWidth 64), BitVec.ofNat 64 h.pos] ++ maskWords h.mask

/-- What holds a split in its image: the cycles left of a SLEEP, a service park, a JOIN, or a wait that it makes again. -/
def holdWords : Hold → List (BitVec 64)
  | .sleep n => [1, BitVec.ofNat 64 n]
  | .service q reg m => [2, q.setWidth 64, BitVec.ofNat 64 reg] ++ maskWords m
  | .join => [3, 0]
  | .trap => [4, 0]
  | _ => [0, 0]

/-- A split: MODE, PC, mask, the on-chip entries of its stack, the handler-entry record and its park. -/
def splitWords (sp : Split) : List (BitVec 64) :=
  [sp.mode.setWidth 64, sp.pc.setWidth 64, BitVec.ofNat 64 sp.pos, (sp.dualJoin.getD 0).setWidth 64, sp.dualMode.setWidth 64] ++
  maskWords sp.mask ++ listWords stackWords (sp.stack.drop (sp.stack.length - 16)) ++ optWords handlerWords sp.handler ++ holdWords sp.hold ++
  optWords (fun r => maskWords r.mask ++ [flag64 r.atInstr]) sp.resume

/-- A trap request. -/
def trapWords (q : TrapReq) : List (BitVec 64) :=
  [flag64 q.high, q.cause.setWidth 64 ||| (q.exc.setWidth 64 <<< 8) ||| (q.info.setWidth 64 <<< 16), q.addr.setWidth 64] ++ maskWords q.lanes

/-- A release stream. -/
def streamWord (x : Stream) : BitVec 64 :=
  flag64 x.valid ||| (x.target.setWidth 64 <<< 8) ||| (x.epoch.setWidth 64 <<< 16) ||| (x.count.setWidth 64 <<< 32)

/-- A side-log entry. -/
def entryWords (e : SideEntry) : List (BitVec 64) :=
  [e.ga, BitVec.ofNat 64 (e.size + 256 * e.lane), e.pc.setWidth 64, e.seq.setWidth 64] ++ natWords 2 e.data.toNat

/-- The state of a team but for its vector rows: 32 KiB. -/
def teamState (s : State) (t : Team) : List (BitVec 64) :=
  padWords 4096
    (pairWords 32 (sReg t) ++ (List.range 8).flatMap (fun p => maskWords (mapGet 0 t.preds p)) ++
     pairWords (16 * t.rows) (mapGet 0 t.srsv) ++ pairWords (16 * t.rows) (mapGet 0 t.srcnt) ++ maskWords t.absent ++
     [BitVec.ofNat 64 (flagBits t false), BitVec.ofNat 64 (flagBits t true)] ++ optWords splitWords t.low ++ optWords splitWords t.high ++
     [t.trapPc, t.trapAddr, t.trapInfo.setWidth 64, t.trapCause.setWidth 64, t.trapRows.setWidth 64] ++ maskWords t.trapMask ++
     [t.trapVec, t.bbBase] ++ (List.range 16).map (fun n => streamWord (mapGet Stream.reset t.streams n)) ++
     [BitVec.ofNat 64 t.stackSlot, flag64 t.parked ||| (flag64 t.halted <<< 1), BitVec.ofNat 64 t.mqCount] ++
     listWords entryWords (s.sideLog.filter (fun e => decide (e.split.team = t.key))) ++ listWords trapWords t.traps)

/-- The vector rows of a team, register by register; a row that was never written is zero (R219). -/
def teamRows (t : Team) : List (BitVec 64) :=
  (List.range t.nv).flatMap (fun v => pairWords (16 * t.rows) (vReg t v))

/-- A matrix operation that has not started, with its joint count (R379). -/
def mqWords (q : MqOp) : List (BitVec 64) :=
  [BitVec.ofNat 64 q.split.team.team, BitVec.ofNat 64 q.count, flag64 q.matched, q.mod0.setWidth 64 ||| (q.mod1.setWidth 64 <<< 32),
   q.word.setWidth 64, q.ga, q.ga2, q.pc.setWidth 64] ++ maskWords q.rows

/-- The state of a block but for its scratchpad and tiles: 4 KiB. -/
def blockState (s : State) (b : Block) : List (BitVec 64) :=
  padWords 512 ([BitVec.ofNat 64 b.turn, b.retired] ++
    listWords mqWords (s.mqOps.filter (fun q => decide (q.split.team.disp = b.disp) && decide (q.split.team.block = b.index))))

/-- The tiles of the quadrants that hold a team. -/
def tileWords (d : Dispatch) (b : Block) : List (BitVec 64) :=
  (List.range (min d.teams 4)).flatMap (fun q => (List.range d.nacc).flatMap (fun t =>
    pairWords 8192 (fun n => mapGet 0 b.tiles ((8 * q + t) * 16384 + n))))

/-! ### Coding (R456) -/

/-- Equal words at the head of a list. -/
def runLength (w : BitVec 64) : List (BitVec 64) → Nat
  | [] => 0
  | v :: rest => if v = w then runLength w rest + 1 else 0

/-- Does a zero run or a repeat run start here? -/
def runStarts (l : List (BitVec 64)) : Bool :=
  match l with
  | [] => true
  | w :: _ => (decide (w = 0) && decide (2 ≤ runLength 0 l)) || decide (3 ≤ runLength w l)

/-- The words of a literal run. -/
def literalRun : List (BitVec 64) → List (BitVec 64)
  | [] => []
  | w :: rest => if runStarts rest then [w] else w :: literalRun rest

/-- The header of a run (R456). -/
def runHeader (kind n : Nat) : BitVec 64 := BitVec.ofNat 64 (kind + 4 * n)

/-- The coding of a part (R456); `fuel` is the number of words. -/
def codeRuns : Nat → List (BitVec 64) → List (BitVec 64)
  | 0, _ => []
  | _, [] => []
  | fuel + 1, w :: rest =>
    let l := w :: rest
    let z := min (runLength 0 l) (2 ^ 30 - 1)
    let r := min (runLength w l) (2 ^ 30 - 1)
    if 2 ≤ z then runHeader 1 z :: codeRuns fuel (l.drop z)
    else if 3 ≤ r then runHeader 2 r :: w :: codeRuns fuel (l.drop r)
    else
      let t := (literalRun l).take (2 ^ 30 - 1)
      runHeader 0 t.length :: (t ++ codeRuns fuel (l.drop t.length))

/-- The coded image: each team's part, in ascending team index, and the block's. An ended team's part is zeros. -/
def imageWords (s : State) (d : Dispatch) (b : Block) : List (BitVec 64) :=
  let code (l : List (BitVec 64)) : List (BitVec 64) := codeRuns l.length l
  let spad := (List.range ((d.spBytes + 7) / 8)).map (fun i => BitVec.ofNat 64 (spRead b (8 * i) 8))
  (List.range d.teams).flatMap (fun i => code (match teamOf s { disp := b.disp, block := b.index, team := i } with
    | some t => if t.ended then List.replicate (4096 + 16 * d.rows * d.nv) 0 else teamState s t ++ teamRows t
    | none => List.replicate (4096 + 16 * d.rows * d.nv) 0)) ++
  code (blockState s b ++ spad ++ tileWords d b)

end Sys2Proof.Machine
end

