-- ==== Sys2Proof/Machine/Place.lean ====
section
/-! DEFINITION. The launch unit's placement list, the placing, saving and restoring of blocks with their images, reservations,
time slices and pre-emption (R25, R80, R81, R108, R124, R138, R379, R411 to R413, R424, R433 to R437, R453 to R460). -/
namespace Sys2Proof.Machine
open Sys2Proof.Forms

/-! ### What a core holds (R80, R81, R411 to R413, R433) -/

/-- The blocks that hold storage on a core; with `claim`, those whose storage may be claimed hold none (R458). -/
def holders (s : State) (core : Nat) (claim : Bool) : List Block :=
  s.blocks.filter (fun b => decide (b.core = core) && !b.exited && (!b.saved || (b.claimable && !claim)))

/-- The live teams of some blocks. -/
def teamsOf (s : State) (bs : List Block) : List Team :=
  s.teams.filter (fun t => !t.ended && bs.any (fun b => decide (b.disp = t.key.disp) && decide (b.index = t.key.block)))

/-- A team's place in a core: team index, partition and slot. -/
structure Seat where
  team : Nat
  part : Nat
  slot : Nat
  deriving DecidableEq, Repr

/-- Teams that a partition holds, and its free slots, with the seats already given. -/
def partTeams (ts : List Team) (given : List Seat) (p : Nat) : Nat :=
  (ts.filter (fun t => decide (t.part = p))).length + (given.filter (fun g => decide (g.part = p))).length
def freeSlot (ts : List Team) (given : List Seat) (p : Nat) : Option Nat :=
  (List.range 8).find? (fun n => !ts.any (fun t => decide (t.part = p) && decide (t.slot = n)) &&
    !given.any (fun g => decide (g.part = p) && decide (g.slot = n)))

/-- Row-registers of a partition in use. -/
def rowsUsed (ts : List Team) (given : List Seat) (need p : Nat) : Nat :=
  (ts.filter (fun t => decide (t.part = p))).foldl (fun n t => n + t.rows * t.nv) 0 +
  need * (given.filter (fun g => decide (g.part = p))).length

/-- The seat of the next team of a block: of the partitions of its quadrant with a free slot and room the one with the
fewest teams, the lowest for a tie (R413). -/
def seatFor (ts : List Team) (given : List Seat) (need i : Nat) : Option Seat :=
  let q := i % 4
  let ok := [3 * q, 3 * q + 1, 3 * q + 2].filter (fun p => (freeSlot ts given p).isSome && decide (rowsUsed ts given need p + need ≤ 2048))
  match ok with
  | [] => none
  | p :: rest =>
    let best := rest.foldl (fun b p => if partTeams ts given p < partTeams ts given b then p else b) p
    (freeSlot ts given best).map (fun n => { team := i, part := best, slot := n })

/-- Seats for teams in ascending index, each counting those before it. -/
def seats (ts : List Team) (need : Nat) : List Nat → List Seat → Option (List Seat)
  | [], given => some given
  | i :: rest, given => match seatFor ts given need i with
    | some g => seats ts need rest (given ++ [g])
    | none => none

/-- Bytes of a scratchpad region: whole granules of 4 KiB. -/
def regionBytes (d : Dispatch) : Nat := (d.spBytes + 4095) / 4096 * 4096

/-- The lowest base at which a region of `n` bytes fits below a limit. (DEDUCED, log 59) -/
def regionFor (used : List (Nat × Nat)) (n limit : Nat) : Option Nat :=
  ((sortBy (fun b => [b]) (0 :: used.map (fun u => u.1 + u.2))).filter (fun b => decide (b + n ≤ limit) &&
    used.all (fun u => decide (n = 0) || decide (u.2 = 0) || !touches b n u.1 u.2))).head?

/-- Tiles in use in a quadrant of a core: NACC of each block with a team there. -/
def tilesUsed (s : State) (bs : List Block) (q : Nat) : Nat :=
  bs.foldl (fun n b => let d := (dispOf s b.disp).getD noDispatch
    if teamsInQuad d.teams q = 0 then n else n + d.nacc) 0

/-- The place that a core has for a block: the seats of its teams, the base of its region, and SPSTEPS from now on. -/
structure CoreRoom where
  core  : Nat
  seats : List Seat
  base  : Nat
  steps : Nat
  claim : Bool
  deriving DecidableEq, Repr

/-- Why a core takes no block: the scratchpad's size alone, or something else (R459). -/
inductive FitEnd where
  | fits (p : CoreRoom)
  | small
  | no
  deriving DecidableEq, Repr

/-- Does a core accept blocks: in service, neither gated nor waking (R91, R475)? -/
def coreOpen (s : State) (core : Nat) : Bool :=
  !(coreOf s core).removed && !coreHeld s core && quarterOpen s (core / 64)

/-- The checks of R433 for a block of a dispatch on a core: `idx` are its live teams, `log` its side-log entries (R453). (DEDUCED, log 59) -/
def fitCore (s : State) (d : Dispatch) (idx : List Nat) (log : Nat) (claim : Bool) (core : Nat) : FitEnd :=
  let bs := holders s core claim
  let ts := teamsOf s bs
  let steps := if bs = [] then min 11 ((dispMax d * d.spBytes + 524287) / 524288) else bits (coreOf s core).csramcfg 3 0
  let used := bs.map (fun b => (b.spBase, regionBytes ((dispOf s b.disp).getD noDispatch)))
  let tilesFit := (List.range 4).all (fun q => decide (teamsInQuad d.teams q = 0) || decide (tilesUsed s bs q + d.nacc ≤ 8))
  let logFit := decide ((s.sideLog.filter (fun e => decide (e.core = core))).length + log ≤ 256)
  if coreOpen s core && tilesFit && logFit then
    match seats ts (d.rows * d.nv) idx [] with
    | none => .no
    | some g =>
      if steps * 524288 < d.spBytes then .small
      else match regionFor used (regionBytes d) (steps * 524288) with
        | some b => .fits { core := core, seats := g, base := b, steps := steps, claim := claim }
        | none => .no
  else .no

/-! ### The placement list (R434, R435) -/

/-- Saved blocks of a dispatch, ascending. -/
def savedBlocks (s : State) (d : Dispatch) : List Block :=
  sortBy (fun b => [b.index]) (s.blocks.filter (fun b => decide (b.disp = d.id) && b.saved && !b.exited))

/-- Has a saved PAR block of the dispatch waited for a whole slice of its context? Two slices are the bound: the block then takes the
place of one of equal priority whose slice is not used up (R424). (DEDUCED, log 59) -/
def overdue (s : State) (d : Dispatch) : Bool :=
  let slice := 256 * bits (ctxOf s d.cmd.ctx).ctxsched 23 0
  decide (d.cls = 1) && decide (slice ≠ 0) && (savedBlocks s d).any (fun b => decide (b.since.toNat + slice ≤ s.cycle.toNat))

/-- Accepted dispatches with unplaced or saved blocks whose dependences have completed, in a partition that the launch unit
serves: by PRIO, then acceptance. (DEDUCED, log 59) -/
def placeList (s : State) : List Dispatch :=
  sortBy (fun d => [7 - d.prio, d.seq])
    (s.dispatches.filter (fun d => d.stop.isNone && d.deps.all (fun i => (dispOf s i).isNone) &&
      partOpen s (partOfCtx s d.cmd.ctx) && (decide (d.next < dispBlocks d) || decide (savedBlocks s d ≠ []))))

/-- The next block of a dispatch: the lowest saved one, else the lowest never placed; and its side-log entries. -/
def nextBlock (s : State) (d : Dispatch) : Option (Nat × Option Block) :=
  match savedBlocks s d with
  | b :: _ => some (b.index, some b)
  | [] => if d.next < dispBlocks d then some (d.next, none) else none

/-- The cores of a dispatch's partition from the rotating pointer on. (DEDUCED, log 59) -/
def coreOrder (s : State) (d : Dispatch) : List Nat :=
  let p := partOfCtx s d.cmd.ctx
  let l := coresOf s p
  let ptr := mapGet 0 s.placePtr p.1
  l.filter (fun c => decide (ptr ≤ c)) ++ l.filter (fun c => decide (c < ptr))

/-- Areas of a context in use, and the lowest free one (R108). -/
def freeArea (s : State) (c : Nat) : Option Nat :=
  (List.range (bits (ctxOf s c).cmplpool 59 44)).find? (fun a => !s.blocks.any (fun b => decide (b.ctx = c) && decide (b.area = a)))

/-- Stack slots of a context in use, and the lowest free one (R25). -/
def stackSlots (s : State) (c : Nat) : List Nat := (s.teams.filter (fun t => decide (t.ctx = c) && !t.ended)).map (·.stackSlot)
def freeStack (used : List Nat) : Option Nat := (List.range (used.length + 1)).find? (fun n => !used.contains n)

/-- Live teams of a block and entries of its teams in the side log. -/
def blockTeams (s : State) (b : Block) : List Team :=
  s.teams.filter (fun t => decide (t.key.disp = b.disp) && decide (t.key.block = b.index) && !t.ended)
def blockEntries (s : State) (b : Block) : Nat :=
  (s.sideLog.filter (fun e => decide (e.split.team.disp = b.disp) && decide (e.split.team.block = b.index))).length

/-- What the search over the cores finds: the first core that fits, and the first that is too small alone. (DEDUCED, log 59) -/
def searchCores (fit : Nat → FitEnd) (cores : List Nat) : Option CoreRoom × Option Nat :=
  (cores.findSome? (fun c => match fit c with
    | .fits p => some p
    | _ => none),
   cores.findSome? (fun c => match fit c with
    | .small => some c
    | _ => none))

/-- A place for the next block of a dispatch on some of the cores: storage that no block holds before storage that may be
claimed (R433, R458). A block whose storage has not been claimed resumes where it lies. -/
def findPlace (s : State) (d : Dispatch) (cores : List Nat) : Option CoreRoom × Option Nat :=
  match nextBlock s d with
  | none => (none, none)
  | some (_, some b) =>
    let idx := (blockTeams s b).map (·.key.team)
    if b.claimable then
      (if coreOpen s b.core && decide ((s.sideLog.filter (fun e => decide (e.core = b.core))).length + blockEntries s b ≤ 256) then some { core := b.core, seats := [], base := b.spBase, steps := 0, claim := false } else none, none)
    else
      let r := searchCores (fitCore s d idx (blockEntries s b) false) cores
      if r.1.isSome then r else searchCores (fitCore s d idx (blockEntries s b) true) cores
  | some (_, none) =>
    if (freeArea s d.cmd.ctx).isNone || decide (32768 < (stackSlots s d.cmd.ctx).length + d.teams) then (none, none)
    else
      let r := searchCores (fitCore s d (List.range d.teams) 0 false) cores
      if r.1.isSome then r else searchCores (fitCore s d (List.range d.teams) 0 true) cores

/-! ### Space for images (R455, R457) -/

/-- Uncoded bytes of a block's image (R455). -/
def imageBytes (d : Dispatch) : Nat :=
  d.teams * (32768 + d.rows * d.nv * 128) + 4096 + d.spBytes + d.nacc * 65536 * min d.teams 4

/-- Pages of the image. (DEDUCED, log 50) -/
def imagePages (d : Dispatch) : Nat := (imageBytes d + 4095) / 4096

/-- Pages of the save area that images hold. -/
def areaUsed (s : State) (c : Nat) : List (Nat × Nat) :=
  (s.blocks.filter (fun b => decide (b.ctx = c) && !b.exited && (b.saved || b.saving))).map
    (fun b => (b.imageAt, imagePages ((dispOf s b.disp).getD noDispatch)))

/-- The first fit of a block's image in its context's save area; none while EN is 0 (R457). -/
def imageFit (s : State) (d : Dispatch) : Option Nat :=
  let v := (ctxOf s d.cmd.ctx).ctxsave
  if bits v 63 63 = 0 then none else regionFor (areaUsed s d.cmd.ctx) (imagePages d) (bits v 59 44)

/-- Writes the image into the save area; its storage is free from now on. (DEDUCED, log 50) -/
def writeImage (s : State) (d : Dispatch) (b : Block) : State :=
  let pa := (bits (ctxOf s b.ctx).ctxsave 43 0 * 4096 + 4096 * b.imageAt) % 2 ^ 48
  let ws := imageWords s d b
  let s1 := writeMem s pa (8 * ws.length) (fun i => byteOf (ws.getD (i / 8) 0).toNat (i % 8))
  updBlock s1 b.disp b.index (fun b => { b with claimable := false })

/-! ### SAVE_BLOCK (R124, R379, R453, R454, R457, R458) -/

/-- A block is to be saved: its teams stop issuing, and its image has its pages. Without room in the save area nothing
happens. -/
def markSave (s : State) (d : Dispatch) (b : Block) (lazy : Bool) : State :=
  match imageFit s d with
  | none => s
  | some p => updBlock s b.disp b.index (fun b => { b with saving := true, saveAt := s.cycle, claimable := lazy, imageAt := p })

/-- What is withdrawn at a save, to be made again after the restore; a wait keeps what it watches (R65, R454). -/
def withdraw (sp : Split) : Split :=
  match sp.hold with
  | .page _ => { sp with hold := .none, ready := 0 }
  | .stall .service => sp
  | .stall _ => { sp with hold := .none, ready := 0 }
  | _ => { sp with ready := 0 }

/-- Is the flag of an operation kept set in the image: a matrix operation that has not started (R379)? -/
def keptFlight (s : State) (e : InFlight) : Bool :=
  match e.state with
  | .matrix op => s.mqOps.any (fun q => decide (q.id = op) && !q.started)
  | .done => true
  | _ => false

/-- RESIDENT of the partitions that a block owns in bound slots (R138). (DEDUCED, log 60) -/
def residency (s : State) (b : Block) (v : Nat) : State :=
  (List.range 16).foldl (fun s n =>
    let g := slotOf (ctxOf s b.ctx) n
    if g.bound && decide (g.dispatch = b.disp) then
      ((localParts s g).filter (fun p => decide ((slotPart g p).block = b.index))).foldl (fun s p => stepWrite s b.ctx g p wRESIDENT v) s
    else s) s

/-- The last steps of a save: watches go, RESIDENT becomes 0, counters are written back, and the state is coded unless the
block stays in place. -/
def saveEnd (s : State) (d : Dispatch) (b : Block) : State :=
  let mine (k : TeamKey) : Bool := decide (k.disp = b.disp) && decide (k.block = b.index)
  let s1 := { s with watches := s.watches.filter (fun w => !mine w.split.team)
                     sideLog := s.sideLog.map (fun e => if mine e.split.team then { e with core := 256 } else e) }
  let s2 := (blockTeams s1 b).foldl (fun s t => bbFlush s t.core t.ctx t.bbBase) (residency s1 b 0)
  let s3 := if ctxOnCore s2 b.ctx b.core (b.disp, b.index) then s2 else laneFlush s2 b.core b.ctx
  let s4 := updBlock s3 b.disp b.index (fun b => { b with saving := false, saved := true, refused := false, since := s.cycle })
  if b.claimable then s4 else writeImage s4 d b

/-- The steps that a save waits for: results in hand, and pieces of engines toward the block's region or from it (R124). -/
def saveWork (s : State) (b : Block) : List Event :=
  (blockTeams s b).flatMap (fun t => (t.inflight.filter (fun e => decide (e.state = .ready))).map (fun e => .operationComplete t.key e.id)) ++
  s.xeOps.flatMap (fun o => if o.team.disp = b.disp then
    (o.pieces.filter (fun p => xePlaceable s o p && ((p.own && decide (o.team.block = b.index)) || (match p.place with
      | .spad _ => decide (o.team.block = b.index)
      | .recv i _ => decide (i = b.index)
      | _ => false)))).map (fun _ => .xePiecePlace o.core) else [])

/-- Is every other operation over: passes, operations in flight but unstarted matrix operations, remote writes, and remote pieces of the
block's engines (R124, R454)? -/
def saveOver (s : State) (b : Block) : Bool :=
  (blockTeams s b).all (fun t => t.inflight.all (keptFlight s) && (splitsOf t).all (fun p => decide (p.2.busy = 0)) && !owes s t.key) &&
  !s.xeOps.any (fun o => decide (o.team.disp = b.disp) && decide (o.team.block = b.index) && xeRemote s o.id)

/-- SAVE_BLOCK: the teams have stopped; once passes are over and every operation but unstarted matrix operations is complete,
the block is saved. A block that is not yet marked is to be saved eagerly; the teams stop with the cycle of the decision (R410). -/
def saveBlock (disp : BitVec 64) (i : Nat) (s : State) : State :=
  match dispOf s disp, blockOf s disp i with
  | some d, some b =>
    if b.saved || b.exited then s
    else
      let s0 := if b.saving then s else markSave s d b false
      match blockOf s0 disp i with
      | none => s0
      | some b =>
        if !b.saving || decide (b.saveAt = s.cycle) then s0
        else
          let rs := (blockTeams s0 b).flatMap (fun t => (splitsOf t).map (·.1))
          let mine (r : SplitRef) : Bool := decide (r.team.disp = disp) && decide (r.team.block = i)
          let s1 := rs.foldl (fun s r => updSplit (match splitOf s r with
              | some sp => leaveStall r sp s
              | none => s) r withdraw)
            { s0 with issueQ := s0.issueQ.filter (fun r => !mine r), watches := s0.watches.filter (fun w => !mine w.split) }
          if saveWork s1 b ≠ [] then addAgenda s1 (saveWork s1 b ++ [.saveBlock disp i])
          else if saveOver s1 b then saveEnd s1 d b
          else s1
  | _, _ => s

/-- SAVE_BLOCK (R454 to R458). -/
def execSaveBlock (s : State) : Host.Outcome State Fault Refusal :=
  match s.event with
  | some (.saveBlock d i) => .next (saveBlock d i { s with event := none })
  | _ => .next s

/-! ### BLOCK_PLACE (R108, R413, R416, R424, R433, R435, R458 to R460) -/

/-- A split at the entry clause of a dispatch. -/
def startSplit (d : Dispatch) : Split :=
  { mask := maskOf (32 * d.rows) (fun _ => true), pc := d.ka + BitVec.ofNat 56 d.entry, pos := 0, clause := none, bypass := [],
    mode := modeReset, stack := [], dualJoin := none, dualMode := 0, swapped := false, handler := none, hold := .none, waited := none, limit := 0,
    resume := none, retry := none, stepping := false, tier := 1, stamp := 0, issued := 0, promoted := 0, ready := 0, dropAt := 0,
    busy := 0, spinAt := none, spinRuns := 0, spinNow := [], spinLast := [], spinRead := [], pageFail := [], unmet := [], legal := false, relAt := none }

/-- A team at its start (R219, R270, R407). -/
def startTeam (d : Dispatch) (block core stack : Nat) (g : Seat) : Team :=
  { key := { disp := d.id, block := block, team := g.team }, ctx := d.cmd.ctx, core := core, part := g.part, slot := g.slot,
    stackSlot := stack, rows := d.rows, nv := d.nv, vregs := [], sregs := [], preds := [], srsv := [], srcnt := [], absent := 0,
    low := some (startSplit d), high := none, inflight := [], traps := [], trapPc := 0, trapAddr := 0, trapInfo := 0, trapCause := 0,
    trapRows := 0, trapMask := 0,
    trapVec := if d.trapDef = 0 then 0 else (d.ka + BitVec.ofNat 56 d.trapDef).setWidth 64,
    bbBase := 0, streams := [], curStream := none, remote := 0, mqCount := 0, parked := false, halted := false, ended := false,
    wroteV := [], wroteS := [], acquired := 0, readied := 0 }

/-- A team's stack slot is the lowest free one; the teams of a block take theirs in ascending index (R25). -/
def placeTeam (d : Dispatch) (block core : Nat) (s : State) (g : Seat) : State :=
  let t := startTeam d block core ((freeStack (stackSlots s d.cmd.ctx)).getD 0) g
  newStamp { s with teams := s.teams ++ [t] } { team := t.key, high := false }

/-- A new block: its area is zeroed, and its teams start. -/
def placeNew (d : Dispatch) (i : Nat) (p : CoreRoom) (s : State) : State :=
  let c := d.cmd.ctx
  let area := (freeArea s c).getD 0
  let b : Block := { noBlock with disp := d.id, index := i, ctx := c, core := p.core, area := area, spBase := p.base, since := s.cycle }
  let s1 := scrubRange { s with blocks := s.blocks ++ [b] } (areaPa (ctxOf s c) area 0 % 2 ^ 48) 4096
  let s2 := p.seats.foldl (placeTeam d i p.core) s1
  residency (updDisp s2 d.id (fun d => { d with next := d.next + 1, live := d.live + 1 })) b 1

/-- The seat that a restored team takes; in place it keeps its own. -/
def reseat (p : CoreRoom) (t : Team) : Team :=
  match p.seats.find? (fun g => decide (g.team = t.key.team)) with
  | some g => { t with core := p.core, part := g.part, slot := g.slot }
  | none => t

/-- A split of a restored block: promoted no longer, its bypasses the registers as they stand (R266, R419). -/
def restoredSplit (sp : Split) : Split :=
  let sp1 := if sp.tier = 0 then inTierOne sp else sp
  { sp1 with bypass := sp.bypass.map (fun b => { b with live := false }) }

/-- A withdrawn wait registers its watches again and reads its words before anything else (R65, R460). -/
def rewatch (r : SplitRef) (s : State) : State :=
  let again (s : State) : WatchOn → State
    | .line n => (watchLine s r (128 * n)).1
    | .spad _ _ off => (watchSpad s r off).1
    | .poll => s
  match splitOf s r with
  | none => s
  | some sp => updSplit (match sp.hold with
      | .wait on => on.foldl again s
      | _ => s) r (fun sp => restoredSplit { sp with hold := match sp.hold with
        | .wait _ => .none
        | h => h })

/-- A saved block goes on: new seats and stamps, its matrix operations behind those of its core, its entries in the log with retries of
those answered, RESIDENT, and the operations of the host that its image holds (R450, R460). (DEDUCED, log 50) -/
def restore (b : Block) (p : CoreRoom) (s : State) : State :=
  let mine (k : TeamKey) : Bool := decide (k.disp = b.disp) && decide (k.block = b.index)
  let part (q : MqOp) : Nat := match p.seats.find? (fun g => decide (g.team = q.split.team.team)) with
    | some g => g.part
    | none => q.part
  let s1 := { s with
    teams := s.teams.map (fun t => if mine t.key && !t.ended then reseat p t else t)
    mqOps := s.mqOps.filter (fun q => !mine q.split.team) ++
      (s.mqOps.filter (fun q => mine q.split.team)).map (fun q => { q with core := p.core, part := part q })
    sideLog := s.sideLog.map (fun e => if mine e.split.team then { e with core := p.core } else e) }
  let s2 := updBlock s1 b.disp b.index (fun b => { b with core := p.core, spBase := p.base, saved := false, claimable := false, since := s.cycle })
  let s3 := (sortBy (fun t => [t.key.team]) (blockTeams s2 b)).foldl (fun s t => (splitsOf t).foldl (fun s q => newStamp (rewatch q.1 s) q.1) s) s2
  let s4 := ((ctxOf s3 b.ctx).pages.filter (fun q => q.answered.isSome)).foldl (fun s q =>
    retryEntries b.ctx q.id (if q.answered = some false then [q.page] else []) s) s3
  let s5 := residency (dropPages s4 b.ctx) b 1
  let ts := blockTeams s5 b
  let s6 := ts.foldl (fun s t => updTeam s t.key (fun t => { t with ctl := [] })) s5
  addAgenda s6 (ts.flatMap (fun t => t.ctl ++
    (splitsOf t).filterMap (fun q => if trapDue t q.1.high q.2 then some (.userTrapEntry q.1) else none) ++
    (if t.low.isNone && t.high.isNone then [.teamEnd t.key] else [])))

/-- Blocks whose storage is claimed are coded; SPSTEPS of a core without a resident block is set, and the L1 drops its lines where it changes
(R80, R433, R458). (DEDUCED, log 59) -/
def claimCore (p : CoreRoom) (s : State) : State :=
  let lazy := s.blocks.filter (fun b => decide (b.core = p.core) && !b.exited && b.saved && b.claimable)
  let s1 := if p.claim then lazy.foldl (fun s b => writeImage s ((dispOf s b.disp).getD noDispatch) b) s else s
  if holders s1 p.core p.claim = [] ∧ (coreOf s1 p.core).csramcfg ≠ BitVec.ofNat 32 p.steps then
    updCore (l1Drop s1 p.core) p.core (fun k => { k with csramcfg := BitVec.ofNat 32 p.steps })
  else s1

/-- The caches of a core before a block is placed there: the L1 drops its lines for a context that has no other block there, and for the
first block of a dispatch, with the instruction cache (R86, R213, R256). (DEDUCED, log 81) -/
def freshCaches (d : Dispatch) (i core : Nat) (s : State) : State :=
  let first := !d.cores.contains core
  let s1 := if first || !ctxOnCore s d.cmd.ctx core (d.id, i) then l1Drop s core else s
  if first then updCore (updDisp s1 d.id (fun d => { d with cores := core :: d.cores })) core (fun k => { k with icache := [] }) else s1

/-- A context whose block is placed or restored: a slice begins with its first resident block, and its wait is over (R437). -/
def sliceStart (c : Nat) (s : State) : State :=
  let first := !s.blocks.any (fun b => decide (b.ctx = c) && !b.exited && !b.saved)
  updCtx s c (fun x => { x with waiting := 0, slice := if first then 0 else x.slice })

/-- Places or restores the next block of a dispatch on a core. -/
def placeOn (d : Dispatch) (p : CoreRoom) (s : State) : State :=
  let f := (partOfCtx s d.cmd.ctx).1
  let inPlace := decide (p.seats = [])
  let s1 := { sliceStart d.cmd.ctx (if inPlace then s else claimCore p s) with
    placePtr := if inPlace then s.placePtr else mapSet 0 s.placePtr f (p.core + 1) }
  match nextBlock s d with
  | some (i, some b) => restore b p (freshCaches d i p.core s1)
  | some (i, none) => placeNew d i p (freshCaches d i p.core s1)
  | none => s1

/-- The dispatch that the launch unit serves in a cycle: a reserved one first, else the first of the list that can place a
block; nothing behind a CONC dispatch that is not reserved (R424, R434, R435). -/
def servedFirst (s : State) : List Dispatch → Option (Dispatch × CoreRoom)
  | [] => none
  | d :: rest =>
    if d.cls = 0 then none
    else match (findPlace s d (coreOrder s d)).1 with
      | some p => some (d, p)
      | none => servedFirst s rest

/-- A restore refused for the size of a scratchpad is told once in a saved period (R459). -/
def refusal (s : State) (d : Dispatch) : Option (Block × Nat) :=
  match nextBlock s d, (findPlace s d (coreOrder s d)).2 with
  | some (_, some b), some c => if b.refused then none else some (b, c)
  | _, _ => none

/-- The notice of such a refusal. -/
def noteRefusal (s : State) (d : Dispatch) : State :=
  match refusal s d with
  | some (b, c) => raiseLuNotice (updBlock s b.disp b.index (fun b => { b with refused := true })) b.ctx 0x70 b.disp b.index c 0
  | none => s

/-- A reserved dispatch that may be served now. -/
def reservedNow (s : State) : Option Dispatch :=
  s.dispatches.find? (fun d => decide (d.reserved ≠ []) && partOpen s (partOfCtx s d.cmd.ctx))

/-- BLOCK_PLACE: one block of a reserved dispatch goes into its place, or one block of the first dispatch of the list that
can place one. -/
def blockPlace (s : State) : State :=
  match reservedNow s with
  | some d =>
    match (findPlace s d (d.reserved.take 1)).1 with
    | some p => updDisp (placeOn d p s) d.id (fun d => { d with reserved := d.reserved.tail })
    | none => updDisp s d.id (fun d => { d with reserved := [] })
  | none =>
    let s1 := (placeList s).foldl noteRefusal s
    match servedFirst s1 (placeList s1) with
    | some (d, p) => placeOn d p s1
    | none => s1

/-- BLOCK_PLACE (R433 to R435, R458 to R460). -/
def execBlockPlace (s : State) : Host.Outcome State Fault Refusal :=
  match s.event with
  | some .blockPlace => .next (blockPlace { s with event := none })
  | _ => .next s

/-! ### CONC_RESERVE (R424, R434) -/

/-- Blocks that a dispatch has to place at once: the saved ones, else those never placed. -/
def toPlace (s : State) (d : Dispatch) : Nat := match savedBlocks s d with
  | [] => dispBlocks d - d.next
  | l => l.length

/-- The places of `n` blocks in turn, chosen as if they were placed in successive cycles; none unless every one has a place. -/
def reserveCores (id : BitVec 64) : Nat → State → List Nat → Option (List Nat)
  | 0, _, acc => some acc
  | n + 1, s, acc => match dispOf s id with
    | none => none
    | some d => match (findPlace s d (coreOrder s d)).1 with
      | some p => reserveCores id n (placeOn d p s) (acc ++ [p.core])
      | none => none

/-- CONC_RESERVE: places for all blocks of a CONC dispatch are reserved in one cycle. -/
def concReserve (id : BitVec 64) (s : State) : State :=
  match dispOf s id with
  | none => s
  | some d =>
    if d.reserved ≠ [] ∨ d.stop.isSome = true then s
    else match reserveCores id (toPlace s d) s [] with
      | some l => updDisp s id (fun d => { d with reserved := l })
      | none => s

/-- CONC_RESERVE (R434). -/
def execConcReserve (s : State) : Host.Outcome State Fault Refusal :=
  match s.event with
  | some (.concReserve d) => .next (concReserve d { s with event := none })
  | _ => .next s

/-! ### TIME_SLICE_EXPIRE (R410, R436 to R438, R457, R458) -/

/-- Resident blocks of a context. -/
def residentBlocks (s : State) (c : Nat) : List Block :=
  s.blocks.filter (fun b => decide (b.ctx = c) && !b.exited && !b.saved && !b.saving)

/-- Marks every block of a dispatch for a save, or leaves the state where its area has no room for all of them. -/
def markAll (d : Dispatch) (lazy : Bool) (s : State) : State :=
  let mine (s : State) : List Block := s.blocks.filter (fun b => decide (b.disp = d.id) && !b.exited && !b.saved)
  let s1 := (mine s).foldl (fun s b => if b.saving then s else markSave s d b lazy) s
  if (mine s1).all (·.saving) then s1 else s

/-- May a block be a victim: its context's area has room for it, or for the whole of a CONC dispatch, and a team of it is not
parked (R424, R437, R457)? -/
def victimBlock (s : State) (b : Block) : Bool :=
  let d := (dispOf s b.disp).getD noDispatch
  (if d.cls = 0 then (markAll d false s).blocks.any (fun b => decide (b.disp = d.id) && b.saving) else (imageFit s d).isSome) &&
  (blockTeams s b).any (fun t => !t.parked)

/-- The highest PRIO among a context's resident dispatches. -/
def residentPrio (s : State) (c : Nat) : Nat :=
  (residentBlocks s c).foldl (fun m b => max m ((dispOf s b.disp).getD noDispatch).prio) 0

/-- The slice of a context in cycles; 0 for one that is never sliced (R436). (DEDUCED, log 60) -/
def sliceOfCtx (s : State) (c : Nat) : Nat := 256 * bits (ctxOf s c).ctxsched 23 0

/-- May a context be pre-empted for a dispatch: of lower priority, or of equal priority with its slice used up while the
waiting context has waited for a whole slice, or for a saved block that has; a context of halted teams only is skipped (R424, R437).
(DEDUCED, log 59) -/
def victimCtx (s : State) (d : Dispatch) (c : Nat) : Bool :=
  let live := s.teams.filter (fun t => decide (t.ctx = c) && resident s t)
  let bs := residentBlocks s c
  let p := residentPrio s c
  decide (partOfCtx s c = partOfCtx s d.cmd.ctx) && decide (bs ≠ []) && live.any (fun t => !t.halted) && bs.any (victimBlock s) &&
  (decide (p < d.prio) ||
   (decide (p = d.prio) && decide (c ≠ d.cmd.ctx) && decide (sliceOfCtx s c ≠ 0) && decide (sliceOfCtx s c ≤ (ctxOf s c).slice) &&
    decide (sliceOfCtx s d.cmd.ctx ≠ 0) && decide (sliceOfCtx s d.cmd.ctx ≤ (ctxOf s d.cmd.ctx).waiting)) ||
   (decide (p = d.prio) && decide (c ≠ d.cmd.ctx) && decide (sliceOfCtx s c ≠ 0) && overdue s d))

/-- The victim: lowest priority, then longest residency since its last restore, then the lower number. -/
def victim (s : State) (d : Dispatch) : Option Nat :=
  (sortBy (fun c => [residentPrio s c, (residentBlocks s c).foldl (fun m b => min m b.since.toNat) (2 ^ 64), c])
    ((s.ctxs.map (·.1)).filter (victimCtx s d))).head?

/-- Is pre-emption lazy between two contexts: equal tenant groups, not zero (R458)? -/
def lazyPair (s : State) (a b : Nat) : Bool :=
  decide (bits (ctxOf s a).ctxpol 31 16 ≠ 0) && decide (bits (ctxOf s a).ctxpol 31 16 = bits (ctxOf s b).ctxpol 31 16)

/-- TIME_SLICE_EXPIRE: the victim's resident block with the highest linear index is to be saved, a CONC dispatch whole. -/
def timeSliceExpire (c : Nat) (s : State) : State :=
  let l := sortBy (fun b => [2 ^ 32 - b.index, 2 ^ 64 - ((dispOf s b.disp).getD noDispatch).seq]) ((residentBlocks s c).filter (victimBlock s))
  match l with
  | [] => s
  | b :: _ =>
    let d := (dispOf s b.disp).getD noDispatch
    let lazy := match placeList s with
      | w :: _ => lazyPair s c w.cmd.ctx
      | [] => false
    if d.cls = 0 then markAll d lazy s else markSave s d b lazy

/-- TIME_SLICE_EXPIRE (R437). -/
def execTimeSliceExpire (s : State) : Host.Outcome State Fault Refusal :=
  match s.event with
  | some (.timeSliceExpire c) => .next (timeSliceExpire c { s with event := none })
  | _ => .next s

/-! ### What the launch unit does in a cycle -/

/-- Saves under way in the partition of a context. -/
def savingIn (s : State) (p : Nat × Nat) : Bool := s.blocks.any (fun b => b.saving && decide (partOfCtx s b.ctx = p))

/-- Reserving, placing, or pre-empting for the first dispatch of the list (R424, R434, R435, R437). -/
def placementDue (s : State) : List Event :=
  if (reservedNow s).isSome then [.blockPlace]
  else
    let l := placeList s
    let serve : List Event := match l.find? (fun d => decide (d.cls = 0) || (findPlace s d (coreOrder s d)).1.isSome) with
      | some d => if d.cls = 0 then (if (reserveCores d.id (toPlace s d) s []).isSome then [.concReserve d.id] else []) else [.blockPlace]
      | none => []
    let notes : List Event := if l.any (fun d => (refusal s d).isSome) then [.blockPlace] else []
    match l with
    | [] => []
    | d :: _ =>
      let first : Bool := if d.cls = 0 then !serve.isEmpty else (findPlace s d (coreOrder s d)).1.isSome
      let pre : List Event := if first || savingIn s (partOfCtx s d.cmd.ctx) then [] else match victim s d with
        | some c => [.timeSliceExpire c]
        | none => []
      (if serve.isEmpty then notes else serve) ++ pre

/-- Saves under way, teams and dispatches whose end is due. -/
def endsDue (s : State) : List Event :=
  (s.blocks.filter (fun b => b.saving && !b.exited)).map (fun b => .saveBlock b.disp b.index) ++
  (s.teams.filter (fun t => !t.ended && t.low.isNone && t.high.isNone && !t.parked && !teamSaved s t.key)).map (fun t => .teamEnd t.key) ++
  (s.dispatches.filter (fun d => dispOver d && !dispOwes s d.id)).map (fun d => .dispatchComplete d.id)

/-- Slice and waiting counts of a cycle (R437); they pause for a partition that the guard holds (R472). (DEDUCED, log 60) -/
def sliceTick (s : State) : State :=
  let waits := match placeList s with
    | d :: _ => some d.cmd.ctx
    | [] => none
  { s with ctxs := s.ctxs.map (fun p =>
      if partOpen s (partOfCtx s p.1) then
        (p.1, { p.2 with slice := if residentBlocks s p.1 = [] then 0 else p.2.slice + 1
                         waiting := if waits = some p.1 then p.2.waiting + 1 else 0 })
      else p) }

end Sys2Proof.Machine
end

