-- ==== Sys2Proof/Machine/Mgmt.lean ====
section
/-! DEFINITION. The management controller: partition changes, attestation, firmware recovery, reset and the staged start
(R19, R72, R182, R464 to R471, R477, R486, R488, R492, R516). -/
namespace Sys2Proof.Machine
open Sys2Proof.Forms

/-! ### PART_MERGE and PART_SPLIT (R464 to R466) -/

/-- Does a merge name a partition whose quarters form exactly two partitions of half its size? -/
def mergeShape (s : State) (f nq : Nat) : Bool :=
  let n := 2 ^ nq
  (decide (nq = 1) || decide (nq = 2)) && decide (f % n = 0) && decide (partOfQuarter s f = (f, n / 2)) &&
  decide (partOfQuarter s (f + n / 2) = (f + n / 2, n / 2))

/-- Does a split name a current partition of two or four quarters? -/
def splitShape (s : State) (f nq : Nat) : Bool :=
  (decide (nq = 1) || decide (nq = 2)) && decide (partOfQuarter s f = (f, 2 ^ nq))

/-- The contexts of a row of quarters that the table lists, ascending. -/
def ctxsIn (s : State) (f n : Nat) : List (Nat × Ctx) := s.ctxs.filter (fun p => decide (1024 * f ≤ p.1) && decide (p.1 < 1024 * (f + n)))

/-- Is a command queue busy (R466 step 2)? -/
def queueBusy (s : State) (c n : Nat) (q : Queue) : Bool :=
  decide (bits q.cq 63 63 = 1) &&
  (decide (q.head ≠ q.tail) || q.order.any (fun d => decide (cmdOp d = 1) || decide (cmdOp d = 3)) ||
   s.dispatches.any (fun d => decide (d.cmd.ctx = c) && decide (d.cmd.queue = n)))

/-- The lowest busy queue of the lowest context that has one. -/
def firstBusy (s : State) (f n : Nat) : Option (Nat × Nat) :=
  (ctxsIn s f n).findSome? (fun p => (p.2.queues.find? (fun q => queueBusy s p.1 q.1 q.2)).map (fun q => (p.1, q.1)))

/-- The lowest enabled context. -/
def firstEnabled (s : State) (f n : Nat) : Option Nat := ((ctxsIn s f n).find? (fun p => decide (bits p.2.ctxtr 63 63 = 1))).map (·.1)

/-- PARTSTAT of an end; a context is named by its number in its quarter, as in the example of R466. (DEDUCED, log 49) -/
def partEnd (s : State) (state code c q : Nat) : State :=
  mgmtInterrupt { s with partstat := BitVec.ofNat 32 (state + (code <<< 2) + ((c % 1024) <<< 8) + (q <<< 24)) } 0

/-- The quarter bits of a partition. -/
def quarterMask (f n : Nat) : Nat := (2 ^ n - 1) * 2 ^ f

/-- A new attestation key for a partition: its count goes up (R469). -/
def rekey (s : State) (f n : Nat) : State := { s with attest := mapSet 0 s.attest (quarterMask f n) (mapGet 0 s.attest (quarterMask f n) + 1) }

/-- Is a quarter in service for a partition change? -/
def quarterUp (s : State) (q : Nat) : Bool := !quarterLost s q

/-- MEMILq and NETBNDq of the quarters of a new partition (R19, R72). -/
def layPart (s : State) (f n : Nat) : State :=
  (List.range n).foldl (fun s i => { s with
    memil := mapSet 0b1000 s.memil (f + i) (BitVec.ofNat 32 (f + 4 * (if n = 1 then 0 else if n = 2 then 1 else 2)))
    netbnd := mapSet 0b1111 s.netbnd (f + i) (BitVec.ofNat 32 (quarterMask f n)) }) s

/-- Steps 5 to 9 of R466, with every cache of the quarters emptied, for the quarters `f` to `f + n - 1` that become partitions of `m` quarters. -/
def relayout (f n m : Nat) (s : State) : State :=
  let s1 := ((List.range n).filter (fun i => quarterUp s (f + i))).foldl (fun s i => scrubRange s ((f + i) * quarterBytes) quarterBytes) s
  let firsts := (List.range (n / m)).map (fun i => f + m * i)
  let s2 := firsts.foldl (fun s g => layPart s g m) s1
  let s3 := l1DropIn (sliceDrop (tlbDrop s2 (f, n) (fun _ => true)) (fun q _ => decide (f ≤ q) && decide (q < f + n))) (f, n)
  partEnd (firsts.foldl (fun s g => rekey s g m) s3) 2 0 0 0

/-- The sequence of R466. (DEDUCED, log 49) -/
def partChange (merge : Bool) (f nq : Nat) (s : State) : State :=
  let n := 2 ^ nq
  let s0 := { s with partreq := BitVec.ofNat 32 ((if merge then 1 else 2) + 4 * f + 16 * nq) }
  if !(if merge then mergeShape s f nq else splitShape s f nq) then partEnd s0 3 1 0 0
  else match firstBusy s f n with
    | some (c, q) => partEnd s0 3 2 c q
    | none => match firstEnabled s f n with
      | some c => partEnd s0 3 3 c 0
      | none =>
        if merge && !((List.range n).all (fun i => quarterUp s (f + i))) then partEnd s0 3 4 0 0
        else relayout f n (if merge then n else n / 2) s0

/-- PART_MERGE (R465, R466). -/
def execPartMerge (s : State) : Host.Outcome State Fault Refusal :=
  match s.event with
  | some (.partMerge f nq) => .next (partChange true f.toNat nq.toNat { s with event := none })
  | _ => .next s

/-- PART_SPLIT (R465, R466). -/
def execPartSplit (s : State) : Host.Outcome State Fault Refusal :=
  match s.event with
  | some (.partSplit f nq) => .next (partChange false f.toNat nq.toNat { s with event := none })
  | _ => .next s

/-! ### ATTESTATION_REPORT (R467 to R469) -/

/-- What a report holds, little-endian and in the order of R468. (DEDUCED, log 66) -/
def reportBody (s : State) (nonce : BitVec 256) : List Byte :=
  numBytes nonce.toNat 32 ++ numBytes (Config.imageHash s.running).toNat 32 ++ numBytes (bits s.startstat 23 16) 1 ++
  numBytes s.startstat.toNat 4 ++ (List.range 4).flatMap (fun q => numBytes (memil s q).toNat 4) ++
  (List.range 4).flatMap (fun q => numBytes (netbnd s q).toNat 4) ++ numBytes s.pwrgate.toNat 4 ++ numBytes s.fabcfg.toNat 8 ++
  (s.fabacl.filter (fun p => decide (bits p.2 0 0 = 1))).flatMap (fun p => numBytes p.1 2 ++ numBytes p.2.toNat 8) ++
  s.oosMap.flatMap (fun o => numBytes (oosBits o) 16) ++ numBytes s.cycle.toNat 8

/-- ATTESTATION_REPORT: signed by the key of the partition named; a quarter that heads no partition names none. (DEDUCED, log 66) -/
def attestationReport (nonce : BitVec 256) (f : Nat) (s : State) : State :=
  let p := partOfQuarter s f
  if f < 4 ∧ p.1 = f then
    let m := quarterMask f p.2
    let body := reportBody s nonce
    { s with hostOut := s.hostOut ++ [.report body (Config.sign (Config.deriveKey Config.deviceSecret (BitVec.ofNat 4 m) (mapGet 0 s.attest m)) body)] }
  else s

/-- ATTESTATION_REPORT (R468). -/
def execAttestationReport (s : State) : Host.Outcome State Fault Refusal :=
  match s.event with
  | some (.attestationReport nonce f) => .next (attestationReport nonce f { s with event := none })
  | _ => .next s

/-! ### Firmware (R470, R471, R486) -/

/-- FWSVN, and STARTSTAT with a new one. -/
def fwsvn (s : State) : Nat := bits s.startstat 23 16
def withSvn (s : State) (v : Nat) : State := { s with startstat := (s.startstat &&& 0xFF00FFFF) ||| BitVec.ofNat 32 ((v % 256) <<< 16) }

/-- FWCOMMIT: GO after Stage C raises FWSVN to the running image's version. -/
def fwcommit (v : BitVec 32) (s : State) : State :=
  let ver := (Config.imageVersion s.running).toNat
  if bits v 0 0 = 1 ∧ bits s.startstat 1 0 = 3 ∧ fwsvn s < ver then withSvn s ver else s

/-- FWCOMMIT (R471). -/
def execFwcommit (s : State) : Host.Outcome State Fault Refusal :=
  match s.event with
  | some (.fwcommit v) => .next (fwcommit v { s with event := none })
  | _ => .next s

/-- RECOVERY_WINDOW_WRITE: the bytes of the 32 MiB store, while UNLOCK is 1. -/
def recoveryWindowWrite (off : Nat) (l : List Byte) (s : State) : State :=
  if bits s.recovctl 0 0 = 1 then
    { s with image := mapPut 0 s.image off (min l.length (2 ^ 25 - off)) (fun i => l.getD i 0) }
  else s

/-- RECOVERY_WINDOW_WRITE (R486). -/
def execRecoveryWindowWrite (s : State) : Host.Outcome State Fault Refusal :=
  match s.event with
  | some (.recoveryWindowWrite off l) => .next (recoveryWindowWrite off l { s with event := none })
  | _ => .next s

/-- The first bytes of the store. (DEDUCED, log 67) -/
def storedImage (s : State) (len : Nat) : SMap Byte := mapBelow len s.image

/-- Why an image is refused, by CODE of RECOVSTAT. -/
def imageFault (s : State) (m : SMap Byte) : Option Nat :=
  if !Config.imageSigned m then some 1 else if (Config.imageVersion m).toNat < fwsvn s then some 2 else none

/-- A verification ends (R484, R486). -/
def recovEnd (s : State) (state code : Nat) : State := mgmtInterrupt { s with recovstat := BitVec.ofNat 32 (state + 4 * code) } 7

/-- RECOVERY_GO: an image that is accepted while Stage A holds a refused one restarts Stage A. (DEDUCED, log 67) -/
def recoveryGo (s : State) : State :=
  let len := bits s.recovctl 57 32
  if len = 0 ∨ 2 ^ 25 < len then recovEnd s 3 3
  else
    let s1 := { s with imageLen := len }
    match imageFault s (storedImage s len) with
    | some c => recovEnd s1 3 c
    | none => recovEnd (if bits s.startstat 2 0 = 4 then { s1 with startstat := s.startstat &&& 0xFFFFFFFB } else s1) 2 0

/-- RECOVERY_GO (R486). -/
def execRecoveryGo (s : State) : Host.Outcome State Fault Refusal :=
  match s.event with
  | some .recoveryGo => .next (recoveryGo { s with event := none })
  | _ => .next s

/-! ### POWER_ON and PACKAGE_RESET (R182, R481, R488, R492, R516) -/

/-- POWER_ON: every register at its reset value; the firmware store, FWSVN, FABINC and the counts of keys are non-volatile. (DEDUCED, log 68) -/
def powerOn (s : State) : State :=
  { State.reset with
    startstat := s.startstat &&& 0x00FF0000, image := s.image, imageLen := s.imageLen, attest := s.attest, fabinc := s.fabinc + 1
    starts := s.starts + 1, inbox := s.inbox }

/-- POWER_ON (R481, R488). -/
def execPowerOn (s : State) : Host.Outcome State Fault Refusal :=
  match s.event with
  | some .powerOn => .next (powerOn { s with event := none })
  | _ => .next s

/-- The MODE that a gate has after a reset. -/
def resetMode (g : Gate) : Nat := if bits g.cfg 2 2 = 1 then bits g.cfg 1 0 else 0

/-- A gate after a reset: its log configuration stays; MODE stays with ATRST. (DEDUCED, log 68) -/
def resetGate (g : Gate) : Gate :=
  { Gate.reset with cfg := (g.cfg &&& 0xC) ||| BitVec.ofNat 32 (resetMode g), log := g.log, endAt := g.endAt, pos := g.pos, lost := g.lost
                    mode := if resetMode g = 2 then 2 else 0 }

/-- Bytes that a gate has staged reach its region (R494). (DEDUCED, log 68) -/
def flushGate (s : State) (g : Nat) : State :=
  let x := gateOf s g
  if x.staged = [] then s else writeList s (regionBase x + x.pos.toNat - x.staged.length) x.staged

/-- A gate's MODE from cycle 0 on: a log begins, or the records of cycle 0 are replayed. -/
def resetCuff (s : State) (g : Nat) : State :=
  let mode := resetMode (gateOf s g)
  let s1 := modeWritten s g mode
  if mode = 1 then startLog g s1 else if mode = 2 then addAgenda s1 [.cuffReplayDeliver g] else s1

/-- The core at the Band stop of a compute router (R88). -/
def stopCore (stop : Nat) : Nat := (stop - 16) / 128 * 64 + (stop - 16) % 128

/-- The cores that have been taken out of service. (DEDUCED, log 68) -/
def lostCores (s : State) : SMap Core :=
  (s.oosMap.filter (fun o => decide (o.u.kind = .core))).foldl (fun m o => mapSet Core.reset m (stopCore o.u.stop.toNat) { Core.reset with removed := true }) []

/-- PACKAGE_RESET: every register of R481 and R482 returns to its reset value, but for those that R488 and R516 name. HBM, the
interrupt tables and what waits at the edge stay. (DEDUCED, log 68) -/
def packageReset (s : State) : State :=
  let s1 := [0, 1].foldl flushGate s
  [0, 1].foldl resetCuff
    { State.reset with
      toDomain := { Domain.reset with gates := s1.gates.map (fun p => (p.1, resetGate p.2)), logovf := s1.logovf, cores := lostCores s1 }
      mem := s1.mem, tags := s1.tags, poison := s1.poison, inbox := s1.inbox, hostOut := s1.hostOut, msixTab := s1.msixTab
      startstat := s1.startstat &&& 0x00FF0000, image := s1.image, imageLen := s1.imageLen, fabinc := s1.fabinc + 1, oosMap := s1.oosMap
      banderr := s1.banderr, attest := s1.attest, stopat := s1.stopat, stopctl := s1.stopctl &&& 3, visorimg := s1.visorimg
      scan := s1.scan, starts := s1.starts + 1 }

/-- PACKAGE_RESET (R516). -/
def execPackageReset (s : State) : Host.Outcome State Fault Refusal :=
  match s.event with
  | some .packageReset => .next (packageReset { s with event := none })
  | _ => .next s

/-! ### STAGE_A, STAGE_B, STAGE_C (R469 to R471, R477) -/

/-- STARTSTAT with a stage. -/
def withStage (s : State) (n : Nat) : State := { s with startstat := (s.startstat &&& 0xFFFFFFF8) ||| BitVec.ofNat 32 n }

/-- STAGE_A: the stored image is verified and becomes the running one, or the start stays in Stage A. -/
def stageA (s : State) : State :=
  let m := storedImage s s.imageLen
  if bits s.startstat 1 0 ≠ 0 then s
  else match imageFault s m with
    | some _ => { s with startstat := s.startstat ||| 4 }
    | none => withStage { s with running := m } 1

/-- STAGE_A (R470, R471). -/
def execStageA (s : State) : Host.Outcome State Fault Refusal :=
  match s.event with
  | some .stageA => .next (stageA { s with event := none })
  | _ => .next s

/-- Has a quarter a unit out of service that takes it out with it (R475, R477)? (DEDUCED, log 69) -/
def quarterOut (s : State) (q : Nat) : Bool :=
  s.oosMap.any (fun o => [UnitKind.pchan, .cacheRouter, .die].contains o.u.kind && decide ((o.u.stop.toNat - 16) / 128 = q))

/-- STAGE_B: the quarters whose memory passes are in service. -/
def stageB (s : State) : State :=
  if bits s.startstat 1 0 ≠ 1 then s
  else
    let ok := maskNat (fun q => Config.trainingOk s.starts q && !quarterOut s q) 4
    withStage { s with startstat := (s.startstat &&& 0xFFFFFF87) ||| BitVec.ofNat 32 (ok <<< 3) } 2

/-- STAGE_B (R470, R471). -/
def execStageB (s : State) : Host.Outcome State Fault Refusal :=
  match s.event with
  | some .stageB => .next (stageB { s with event := none })
  | _ => .next s

/-- The out-of-service map with one more unit, up to its 256 entries; the host is told (R475, R481). -/
def recordRemoval (u : HealthUnit) (s : State) : State :=
  mgmtInterrupt { s with oosMap := if s.oosMap.length < 256 then s.oosMap ++ [{ u := u, cyc := s.cycle }] else s.oosMap } 3

/-- A quarter whose die cannot meet the margin leaves service. -/
def marginCheck (s : State) (q : Nat) : State :=
  if s.startstat.getLsbD (3 + q) && !Config.marginOk s.starts q then
    recordRemoval { kind := .die, stop := BitVec.ofNat 16 (16 + 128 * q), index := 0 } { s with startstat := s.startstat &&& ~~~(BitVec.ofNat 32 (2 ^ (3 + q))) }
  else s

/-- The partitions of the layout. -/
def partitions (s : State) : List (Nat × Nat) := ((List.range 4).map (partOfQuarter s)).eraseDups

/-- STAGE_C: dies that fail their margin take their quarters out, and every partition gets its key. -/
def stageC (s : State) : State :=
  if bits s.startstat 1 0 ≠ 2 then s
  else
    let s1 := (List.range 4).foldl marginCheck s
    withStage ((partitions s1).foldl (fun s p => rekey s p.1 p.2) s1) 3

/-- STAGE_C (R469, R470, R477). -/
def execStageC (s : State) : Host.Outcome State Fault Refusal :=
  match s.event with
  | some .stageC => .next (stageC { s with event := none })
  | _ => .next s

end Sys2Proof.Machine
end

