-- ==== Sys2Proof/Machine/Health.lean ====
section
/-! DEFINITION. The thermal guard, the health counts and removal from service, resends after errors, and failed links (R472 to
R478, R495). -/
namespace Sys2Proof.Machine
open Sys2Proof.Forms

/-! ### The thermal guard (R472, R473) -/

/-- Limits of THERMCFG. -/
def holdLimit (s : State) : Nat := bits s.thermcfg 7 0
def gateLimit (s : State) : Nat := bits s.thermcfg 15 8
def hyst (s : State) : Nat := bits s.thermcfg 23 16

/-- HELD and GATED of THERMSTAT, the guard's own view of the quarters. -/
def heldBits (s : State) : Nat := bits s.thermstat 3 0
def gatedBits (s : State) : Nat := bits s.thermstat 7 4

/-- The quarter bits of the partition of a quarter. -/
def partBits (s : State) (q : Nat) : Nat := let p := partOfQuarter s q; quarterMask p.1 p.2

/-- THERMSTAT with new bits; the host is told of the change (R484). -/
def thermChange (s : State) (held gated temp : Nat) : State :=
  mgmtInterrupt { s with thermstat := BitVec.ofNat 32 (held + 16 * gated + 256 * (temp % 256)) } 5

/-- The guard's writes of THOLD and PWRGATE; gate 0 stamps them. -/
def writeHold (s : State) (held : Nat) : State := controllerWrite s 0x020010 (BitVec.ofNat 64 held)
def writeGate (s : State) (v : Nat) : State := controllerWrite s 0x030040 (BitVec.ofNat 64 v)

/-- TMAX with one more temperature. (DEDUCED, log 70) -/
def hotter (s : State) (temp : Nat) : Nat := max temp (bits s.thermstat 15 8)

/-- THERMAL_HOLD: a die of the partition reaches HOLD. -/
def thermalHold (q temp : Nat) (s : State) : State :=
  let m := partBits s q
  if holdLimit s ≤ temp ∧ q < 4 ∧ heldBits s &&& m = 0 then
    let h := heldBits s ||| m
    thermChange (writeHold s h) h (gatedBits s) (hotter s temp)
  else s

/-- THERMAL_HOLD (R472). -/
def execThermalHold (s : State) : Host.Outcome State Fault Refusal :=
  match s.event with
  | some (.thermalHold q temp) => .next (thermalHold q temp { s with event := none })
  | _ => .next s

/-- The bits without those of a mask. -/
def without (v m : Nat) : Nat := v &&& (15 - m)

/-- THERMAL_HOLD_CLEAR: every die of a held partition that is not gated is below HOLD − HYST. (DEDUCED, log 70) -/
def thermalHoldClear (q hottest : Nat) (s : State) : State :=
  let m := partBits s q
  if hottest + hyst s < holdLimit s ∧ q < 4 ∧ heldBits s &&& m ≠ 0 ∧ gatedBits s &&& m = 0 ∧ s.gating.contains (partOfQuarter s q).1 = false ∧
     mapGet 0 s.tholdAt (partOfQuarter s q).1 = 0 then
    let h := without (heldBits s) m
    thermChange (writeHold s h) h (gatedBits s) hottest
  else s

/-- THERMAL_HOLD_CLEAR (R472). -/
def execThermalHoldClear (s : State) : Host.Outcome State Fault Refusal :=
  match s.event with
  | some (.thermalHoldClear q hottest) => .next (thermalHoldClear q hottest { s with event := none })
  | _ => .next s

/-- Does a block belong to a partition? -/
def blockIn (s : State) (p : Nat × Nat) (b : Block) : Bool := decide (partOfCtx s b.ctx = p)

/-- A dispatch that the device stops: it completes with STATUS 0x04, and a notice says why (R472, R475). (DEDUCED, log 69) -/
def deviceStop (s : State) (b : Block) (why : Nat) : State :=
  match dispOf s b.disp with
  | none => s
  | some d => if d.stop.isSome then s
    else raiseLuNotice (stopDispatch s b.disp 4) b.ctx 0x71 b.disp b.index b.core (BitVec.ofNat 32 why)

/-- An eager save of a resident block, or the stop of its dispatch where its area has no room; a block whose storage is
claimable is coded. -/
def evict (why : Nat) (s : State) (b0 : Block) : State :=
  match blockOf s b0.disp b0.index with
  | none => s
  | some b =>
    if b.exited then s
    else if b.saved then (if b.claimable then writeImage s ((dispOf s b.disp).getD noDispatch) b else s)
    else if b.saving then updBlock s b.disp b.index (fun b => { b with claimable := false })
    else
      let s1 := markSave s ((dispOf s b.disp).getD noDispatch) b false
      if (blockOf s1 b.disp b.index).any (·.saving) then s1 else deviceStop s b why

/-- The gate step of a partition: its blocks are evicted, and once none is resident the quarters are gated. (DEDUCED, log 70) -/
def gateStep (q : Nat) (s : State) : State :=
  let p := partOfQuarter s q
  let s1 := (s.blocks.filter (blockIn s p)).foldl (evict 0) s
  if s1.blocks.any (fun b => blockIn s1 p b && !b.exited && !b.saved) then s1
  else
    let g := gatedBits s1 ||| partBits s1 q
    thermChange (writeGate { s1 with gating := s1.gating.filter (· ≠ p.1) } (bits s1.pwrgate 3 0 ||| g)) (heldBits s1) g (bits s1.thermstat 15 8)

/-- THERMAL_GATE: a die of a held partition reaches GATE; the step goes on in later cycles until its blocks are saved. -/
def thermalGate (q temp : Nat) (s : State) : State :=
  let f := (partOfQuarter s q).1
  let m := partBits s q
  if q < 4 ∧ s.gating.contains f = true then gateStep q s
  else if q < 4 ∧ gateLimit s ≤ temp ∧ heldBits s &&& m = m ∧ gatedBits s &&& m = 0 then
    gateStep q { s with gating := f :: s.gating, thermstat := BitVec.ofNat 32 (heldBits s + 16 * gatedBits s + 256 * (hotter s temp % 256)) }
  else s

/-- THERMAL_GATE (R472). -/
def execThermalGate (s : State) : Host.Outcome State Fault Refusal :=
  match s.event with
  | some (.thermalGate q temp) => .next (thermalGate q temp { s with event := none })
  | _ => .next s

/-- THERMAL_UNGATE: every die of a gated partition is below GATE − HYST; its hold ends 2,400 network cycles later. (DEDUCED, log 70) -/
def thermalUngate (q hottest : Nat) (s : State) : State :=
  let m := partBits s q
  if q < 4 ∧ hottest + hyst s < gateLimit s ∧ gatedBits s &&& m ≠ 0 then
    let g := without (gatedBits s) m
    let s1 := writeGate s (without (bits s.pwrgate 3 0) m ||| g)
    thermChange { s1 with tholdAt := mapSet 0 s1.tholdAt (partOfQuarter s q).1 (s1.cycle + 1200) } (heldBits s) g hottest
  else s

/-- THERMAL_UNGATE (R472). -/
def execThermalUngate (s : State) : Host.Outcome State Fault Refusal :=
  match s.event with
  | some (.thermalUngate q hottest) => .next (thermalUngate q hottest { s with event := none })
  | _ => .next s

/-- THERMAL_THOLD_RELEASE: the hold of an ungated partition ends. -/
def thermalTholdRelease (q : Nat) (s : State) : State :=
  let t := mapGet 0 s.tholdAt q
  if t ≠ 0 ∧ t.toNat ≤ s.cycle.toNat then
    let h := without (heldBits s) (partBits s q)
    thermChange (writeHold { s with tholdAt := mapSet 0 s.tholdAt q 0 } h) h (gatedBits s) (bits s.thermstat 15 8)
  else s

/-- THERMAL_THOLD_RELEASE (R472). -/
def execThermalTholdRelease (s : State) : Host.Outcome State Fault Refusal :=
  match s.event with
  | some (.thermalTholdRelease q) => .next (thermalTholdRelease q { s with event := none })
  | _ => .next s

/-- The guard's steps of a cycle. (DEDUCED, log 70) -/
def guardDue (s : State) : List Event :=
  (s.tholdAt.filter (fun p => decide (p.2.toNat ≤ s.cycle.toNat))).map (fun p => .thermalTholdRelease p.1) ++
  s.gating.map (fun q => .thermalGate q 0)

/-! ### CORRECTED_ERROR and UNCORRECTABLE_ERROR (R474) -/

/-- THRESH; 0 is read as 1. (DEDUCED, log 48) -/
def threshold (s : State) : Nat := max 1 (bits s.hlthcfg 15 0)

/-- No errors of a unit. -/
def noErrors (u : HealthUnit) : ErrCount := { u := u, count := 0, here := [], last := [], lasting := false }

/-- Changes the count of a unit. -/
def updErr (s : State) (u : HealthUnit) (f : ErrCount → ErrCount) : State :=
  if s.errs.any (fun e => decide (e.u = u)) then { s with errs := s.errs.map (fun e => if e.u = u then f e else e) }
  else { s with errs := s.errs ++ [f (noErrors u)] }

/-- CORRECTED_ERROR: counted; lasting at the threshold, or at a location of the window before. -/
def correctedError (u : HealthUnit) (loc : Nat) (s : State) : State :=
  updErr s u (fun e => { e with count := e.count + 1, here := (loc :: e.here).eraseDups
                                lasting := e.lasting || decide (threshold s ≤ e.count + 1) || e.last.contains loc })

/-- CORRECTED_ERROR (R474). -/
def execCorrectedError (s : State) : Host.Outcome State Fault Refusal :=
  match s.event with
  | some (.correctedError u loc) => .next (correctedError u loc { s with event := none })
  | _ => .next s

/-- A sector is poisoned (R15, R474). -/
def poisonSector (s : State) (pa : Nat) : State := { s with poison := mapSet false s.poison (pa / 32) true }

/-- UNCORRECTABLE_ERROR: the sector is poisoned, which gate 0 logs, and the unit's fault is lasting. -/
def uncorrectableError (u : HealthUnit) (pa : Nat) (s : State) : State :=
  updErr (poisonSector (cuffStamp 0 false (.event 0 u.stop 0 (BitVec.ofNat 64 pa)) s) pa) u (fun e => { e with lasting := true })

/-- UNCORRECTABLE_ERROR (R474, R495). -/
def execUncorrectableError (s : State) : Host.Outcome State Fault Refusal :=
  match s.event with
  | some (.uncorrectableError u pa) => .next (uncorrectableError u pa { s with event := none })
  | _ => .next s

/-! ### HEALTH_WINDOW_BOUNDARY (R424, R475, R476) -/

/-- A saved CONC dispatch that the cores in service can no longer hold is stopped. -/
def concCheck (p : Nat × Nat) (s : State) (d : Dispatch) : State :=
  match s.blocks.find? (fun b => decide (b.disp = d.id) && !b.exited && (b.saved || b.saving)) with
  | some b => if d.cls = 0 ∧ partOfCtx s d.cmd.ctx = p ∧ dispMax d * (coresOf s p).length < dispBlocks d then deviceStop s b 2 else s
  | none => s

/-- A core leaves placement: its blocks are evicted, with every block of a CONC dispatch. -/
def removeCore (core : Nat) (s : State) : State :=
  let s1 := updCore s core (fun k => { k with removed := true })
  let here := s1.blocks.filter (fun b => decide (b.core = core) && !b.exited && (!b.saved || b.claimable))
  let whole (b : Block) : Bool := decide (((dispOf s1 b.disp).getD noDispatch).cls = 0) && here.any (fun h => decide (h.disp = b.disp))
  let s2 := (s1.blocks.filter (fun b => here.contains b || whole b)).foldl (evict 2) s1
  s2.dispatches.foldl (concCheck (partOfQuarter s (core / 64))) s2

/-- A quarter leaves service: every dispatch of its partition stops, its contexts are told and disabled (R476). -/
def removeQuarter (q : Nat) (s : State) : State :=
  let s1 := { s with startstat := s.startstat &&& ~~~(BitVec.ofNat 32 (2 ^ (3 + q))) }
  let p := partOfQuarter s1 q
  let s2 := (s1.dispatches.filter (fun d => decide (partOfCtx s1 d.cmd.ctx = p))).foldl (fun s d => stopDispatch s d.id 4) s1
  let cs := (s2.ctxs.filter (fun c => decide (partOfCtx s2 c.1 = p))).map (·.1)
  let s3 := cs.foldl (fun s c => raiseLuNotice s c 0x71 0 0 0 1) s2
  mgmtInterrupt (cs.foldl (fun s c => ctxtrWrite c ((ctxOf s c).ctxtr &&& 0x7FFFFFFFFFFFFFFF) s) s3) 3

/-- The number of the slice that a unit is (R53, R88). -/
def unitSlice (u : HealthUnit) : Nat :=
  512 * ((u.stop.toNat - 16) / 128) + 8 * ((u.stop.toNat - 16) % 128 - 64) + u.index.toNat

/-- What the removal of a unit does in the domain. A slice gives up its lines, which are served uncached from now on. (DEDUCED, log 69) -/
def removeUnit (u : HealthUnit) (s : State) : State :=
  match u.kind with
  | .core => removeCore (stopCore u.stop.toNat) s
  | .slice => { s with slices := mapSet Cache.empty s.slices (unitSlice u) Cache.empty }
  | .pchan => removeQuarter ((u.stop.toNat - 16) / 128) s
  | .cacheRouter => removeQuarter ((u.stop.toNat - 16) / 128) s
  | .fabricPort => { s with fabcfg := s.fabcfg &&& ~~~(BitVec.ofNat 64 (2 ^ (16 + u.index.toNat))) }
  | .die => s

/-- A unit with a lasting fault: gate 0 logs the removal, the map records it, and it takes effect. -/
def removal (s : State) (u : HealthUnit) : State :=
  removeUnit u (recordRemoval u (cuffStamp 0 false (.event 1 u.stop 0 (u.index.setWidth 64)) s))

/-- The counts of a new window; units that were removed are counted no more. -/
def rollWindow (l : List ErrCount) : List ErrCount :=
  (l.filter (fun e => !e.lasting)).map (fun e => { e with count := 0, last := e.here, here := [] })

/-- HEALTH_WINDOW_BOUNDARY: at a multiple of 2^32 cycles. -/
def healthWindowBoundary (s : State) : State :=
  if s.cycle.toNat % 2 ^ 32 ≠ 0 then s
  else
    let gone := sortBy (fun u => [u.stop.toNat, u.index.toNat]) ((s.errs.filter (·.lasting)).map (·.u))
    gone.foldl removal { s with errs := rollWindow s.errs }

/-- HEALTH_WINDOW_BOUNDARY (R475, R476). -/
def execHealthWindowBoundary (s : State) : Host.Outcome State Fault Refusal :=
  match s.event with
  | some .healthWindowBoundary => .next (healthWindowBoundary { s with event := none })
  | _ => .next s

/-! ### ERROR_RESEND and LINK_FAILURE (R478, R495) -/

/-- ERROR_RESEND: the unit that retains the transfer sends it again; gate 0 logs it, and the retry is counted. (DEDUCED, log 69) -/
def errorResend (stop : BitVec 10) (queue : BitVec 32) (seq : BitVec 64) (s : State) : State :=
  let s1 := cuffStamp 0 false (.event 2 (stop.setWidth 16) queue seq) s
  if 16 ≤ stop.toNat ∧ 64 ≤ (stop.toNat - 16) % 128 then
    correctedError { kind := .cacheRouter, stop := stop.setWidth 16, index := 0 } queue.toNat s1
  else s1

/-- ERROR_RESEND (R478). -/
def execErrorResend (s : State) : Host.Outcome State Fault Refusal :=
  match s.event with
  | some (.errorResend stop queue seq) => .next (errorResend stop queue seq { s with event := none })
  | _ => .next s

/-- LINK_FAILURE: the management controller disables the port by a write of PORTEN. -/
def execLinkFailure (s : State) : Host.Outcome State Fault Refusal :=
  match s.event with
  | some (.linkFailure port) =>
    .next (controllerWrite { s with event := none } 0x030048 (s.fabcfg &&& ~~~(BitVec.ofNat 64 (2 ^ (16 + port)))))
  | _ => .next s

end Sys2Proof.Machine
end

