-- ==== Sys2Proof/Machine/Visor.lean ====
section
/-! DEFINITION. Replay from a log, the stop of the package, and Visor's scan, load and resume (R488, R495 to R500). -/
namespace Sys2Proof.Machine
open Sys2Proof.Forms

/-! ### CUFF_REPLAY_DELIVER (R495, R496, R500) -/

/-- The unit of a removal record: a core at a compute stop, a port at the fabric router; at a cache stop the indices 0 to 7 are
its slices and the others its stacks' units. (DEDUCED, log 72) -/
def recordUnit (stop : BitVec 16) (index : BitVec 32) : HealthUnit :=
  { kind := if stop = 5 then .fabricPort else if (stop.toNat - 16) % 128 < 64 then .core else if index.toNat < 8 then .slice else .pchan
    stop := stop, index := index }

/-- An event record is applied at its stamp. -/
def replayEvent (r : Record) (s : State) : State :=
  match recordArrival r with
  | .event ty stop _ info => match ty.toNat with
    | 0 => poisonSector s info.toNat
    | 1 => removeUnit (recordUnit stop (info.setWidth 32)) s
    | _ => s
  | _ => s

/-- The gate takes a record: an arrival joins its queue with the stamp of the record. -/
def replayRecord (g : Nat) (r : Record) (s : State) : State :=
  if r.kind = 3 then s
  else if r.kind = 4 then replayEvent r s
  else updGate s g (fun x => { x with queue := insertBy stampKey { cyc := BitVec.ofNat 64 r.cyc, ph := r.ph, arr := recordArrival r } x.queue })

/-- The replay of a gate ends with a bit of LOGOVF. -/
def replayOver (g bit : Nat) (s : State) : State := logFlag (updGate s g (fun x => { x with replayed := true })) bit

/-- The records of a cycle, in the order of the log. R9 asks for a fault of a reserved field that is not zero and R491 names none: such a
record ends the gate's replay as a reserved KIND does. (DESIGN CHOICE, log 72) -/
def replayRecords (g : Nat) : Nat → State → State
  | 0, s => s
  | fuel + 1, s =>
    let x := gateOf s g
    if x.replayed then s
    else if x.endAt.toNat ≤ x.pos.toNat then replayOver g (2 + g) s
    else
      let r := recordAt s g x.pos.toNat
      if r.bad = true ∨ 4 < r.kind ∨ r.cyc < s.cycle.toNat then replayOver g 4 s
      else if s.cycle.toNat < r.cyc then s
      else replayRecords g fuel (replayRecord g r (updGate s g (fun x => { x with pos := x.pos + BitVec.ofNat 64 r.size })))

/-- CUFF_REPLAY_DELIVER: a gate in replay takes the records stamped with this cycle. -/
def cuffReplayDeliver (g : Nat) (s : State) : State :=
  let x := gateOf s g
  if x.mode = 2 then replayRecords g (x.endAt.toNat / 32 + 1) s else s

/-- CUFF_REPLAY_DELIVER (R496). -/
def execCuffReplayDeliver (s : State) : Host.Outcome State Fault Refusal :=
  match s.event with
  | some (.cuffReplayDeliver g) => .next (cuffReplayDeliver g { s with event := none })
  | _ => .next s

/-- The gates in replay. -/
def replaysDue (s : State) : List Event :=
  ([0, 1].filter (fun g => decide ((gateOf s g).mode = 2) && !(gateOf s g).replayed)).map Event.cuffReplayDeliver

/-- The offset of the first record with a stamp after a cycle. (DEDUCED, log 72) -/
def skipRecords (s : State) (g cyc : Nat) : Nat → Nat → Nat
  | 0, off => off
  | fuel + 1, off =>
    if (gateOf s g).endAt.toNat ≤ off then off
    else if cyc < (recordAt s g off).cyc then off
    else skipRecords s g cyc fuel (off + (recordAt s g off).size)

/-! ### PACKAGE_STOP (R497, R498) -/

/-- STATE of VISORCTL. -/
def visorState (n : Nat) : Word := BitVec.ofNat 32 (4 * n)

/-- PACKAGE_STOP: EN clears, and the package is frozen. -/
def packageStop (s : State) : State :=
  mgmtInterrupt { s with stopctl := (s.stopctl &&& 2) ||| 4, visorctl := visorState 1 } 2

/-- PACKAGE_STOP (R498). -/
def execPackageStop (s : State) : Host.Outcome State Fault Refusal :=
  match s.event with
  | some .packageStop => .next (packageStop { s with event := none })
  | _ => .next s

/-- Is the package frozen? -/
def frozen (s : State) : Bool := s.stopctl.getLsbD 2

/-- Does the count compared reach CYC at the end of this cycle: PKG_CYCLE, or FABCYC with FAB = 1 (R184, R497)? -/
def stopNow (s : State) : Bool :=
  s.stopctl.getLsbD 0 && decide (s.stopat = (if s.stopctl.getLsbD 1 then s.cycle + s.fabofs else s.cycle))

/-! ### Visor (R499, R500) -/

/-- The sections of an image: every array of the domain in the order of the scan manifest, which the spec does not give. (DEDUCED, log 71) -/
opaque scanSections : Domain → List Byte

/-- The domain that sections stand for. (DEDUCED, log 71) -/
opaque scanDomain : List Byte → Option Domain

/-- The header of an image. -/
def scanHeader (d : Domain) (hash : BitVec 256) (count : BitVec 64) (size : Nat) : List Byte :=
  numBytes (0x56495331 + (1 <<< 32) + (d.cycle.toNat <<< 64) + (hash.toNat <<< 128) + (size <<< 384) + (count.toNat <<< 448)) 64

/-- The bytes of an image. -/
def scanBytes (running : SMap Byte) (d : Domain) (hash : BitVec 256) : List Byte :=
  let body := scanSections d
  scanHeader d hash (Config.scanSectionCount running) (64 + body.length) ++ body

/-- The local address of the image region. -/
def imageBase (s : State) : Nat := (bits s.visorimg 43 0 * 4096) % 2 ^ 48

/-- A Visor operation ends; the package is frozen still. -/
def visorEnd (s : State) (state : Nat) : State := mgmtInterrupt { s with visorctl := visorState state } 2

/-- VISOR_SCAN: the domain is written to the image region. -/
def visorScan (s : State) : State :=
  if !frozen s then s
  else
    let h := Config.imageHash s.running
    visorEnd (writeList { s with scan := some (s.toDomain, h) } (imageBase s) (scanBytes s.running s.toDomain h)) 1

/-- VISOR_SCAN (R499). -/
def execVisorScan (s : State) : Host.Outcome State Fault Refusal :=
  match s.event with
  | some .visorScan => .next (visorScan { s with event := none })
  | _ => .next s

/-- The domain that the image region holds: the last one scanned while its bytes stand there. (DEDUCED, log 71) -/
def imageDomain (s : State) : Option Domain :=
  let size := readMem s (imageBase s + 48) 8
  let l := readBytes s (imageBase s) size
  match s.scan with
  | some (d, h) => if l = scanBytes s.running d h then some d else scanDomain (l.drop 64)
  | none => scanDomain (l.drop 64)

/-- A gate after a load: the arrivals of the image, and the registers as they stand. -/
def loadGate (s : State) (d : Domain) (g : Nat) : Gate := { gateOf s g with queue := (mapGet Gate.reset d.gates g).queue }

/-- The partition registers of a domain. -/
def layoutOf (memils netbnds : SMap Word) : List Word :=
  (List.range 4).map (mapGet 0b1000 memils) ++ (List.range 4).map (mapGet 0b1111 netbnds)

/-- VISOR_LOAD: the domain is written from the image, unless its firmware or its layout is another. -/
def visorLoad (s : State) : State :=
  if !frozen s then s
  else if readMem s (imageBase s + 16) 32 ≠ (Config.imageHash s.running).toNat then visorEnd s 3
  else match imageDomain s with
    | none => visorEnd s 3
    | some d =>
      if layoutOf d.memil d.netbnd ≠ layoutOf s.memil s.netbnd then visorEnd s 3
      else
        let gates := mapSet Gate.reset (mapSet Gate.reset [] 0 (loadGate s d 0)) 1 (loadGate s d 1)
        visorEnd { s with toDomain := { d with gates := gates, logovf := s.logovf, event := none } } 1

/-- VISOR_LOAD (R500). -/
def execVisorLoad (s : State) : Host.Outcome State Fault Refusal :=
  match s.event with
  | some .visorLoad => .next (visorLoad { s with event := none })
  | _ => .next s

/-- A gate whose MODE is replay goes on with the first record after the frozen cycle. -/
def resumeGate (s : State) (g : Nat) : State :=
  let x := gateOf s g
  if bits x.cfg 1 0 = 2 then
    updGate s g (fun x => { x with mode := 2, due := false, replayed := false
                                   pos := BitVec.ofNat 64 (skipRecords s g s.cycle.toNat (x.endAt.toNat / 32 + 1) 0) })
  else s

/-- VISOR_RESUME: the package goes on with the cycle after the one it holds. -/
def visorResume (s : State) : State :=
  if !frozen s then s
  else visorEnd ([0, 1].foldl resumeGate { s with stopctl := s.stopctl &&& 3 }) 0

/-- VISOR_RESUME (R500). -/
def execVisorResume (s : State) : Host.Outcome State Fault Refusal :=
  match s.event with
  | some .visorResume => .next (visorResume { s with event := none })
  | _ => .next s

end Sys2Proof.Machine
end

