-- ==== Sys2Proof/Machine/Cycle.lean ====
section
/-! DEFINITION. One cycle of the package: its counters and timers, the steps of the units that are due, and the splits that the
issue pipes take (R3, R414 to R420, R423, R487, R503). -/
namespace Sys2Proof.Machine
open Sys2Proof.Forms

/-! ### Timers of splits (R393, R419, R420, R423) -/

/-- Is a team's time running: resident, and its quarter not held by the guard (R423, R472)? -/
def timeRuns (s : State) (t : Team) : Bool := resident s t && !coreHeld s t.core

/-- The cycles left of a SLEEP and the cycles of a wait, one cycle on. -/
def tickSplit (sp : Split) : Split :=
  { sp with hold := (match sp.hold with
              | .sleep n => .sleep (n - 1)
              | h => h)
            waited := sp.waited.map (· + 1) }

/-- Every split whose time runs, one cycle on. -/
def tickTeams (s : State) : State :=
  { s with teams := s.teams.map (fun t => if timeRuns s t then { t with low := t.low.map tickSplit, high := t.high.map tickSplit } else t) }

/-- The rendezvous of joint operations, one cycle on; it restarts while a partner is saved (R370). -/
def tickJoint (s : State) : State :=
  { s with mqOps := s.mqOps.map (fun q =>
      if isJoint q && q.accepted && !q.matched then
        (if mqSaved s q then { q with waited := 0 } else if coreHeld s q.core then q else { q with waited := q.waited + 1 })
      else q) }

/-- The timed events of a split: a sleep that ends, a wait at its bound or at a poll, promotion and release (R64, R301, R393, R419,
R420, R423). A wait's re-reads stand at the multiples of 256 cycles of the whole wait, also where a watch was refused at a later read.
(DESIGN CHOICE, log 87) -/
def splitTimers (s : State) (t : Team) (p : SplitRef × Split) : List Event :=
  let r := p.1
  let sp := p.2
  let cls := ((dispOf s t.key.disp).getD noDispatch).cls
  (if sp.hold = .sleep 0 then [.sleepExpire r] else []) ++
  (match sp.waited with
   | some n => if sp.limit ≤ n then [.waitTimeout r] else (match sp.hold with
     | .wait on => if on.contains .poll && decide (n % 256 = 0) then [.watchPoll r] else []
     | _ => [])
   | none => []) ++
  (if sp.tier ≠ 0 ∧ ((cls = 0 ∧ 4096 ≤ sp.ready) ∨ (cls = 1 ∧ 65536 ≤ sp.ready)) then [.starvationPromote r]
   else if dropOver s sp = true then [.spinReleaseTimeout r] else [])

/-- The teams whose time runs, by core, partition and slot. -/
def teamOrder (s : State) : List Team := sortBy (fun t => [t.core, t.part, t.slot]) (s.teams.filter (timeRuns s))

/-- A promoted split that has stopped being ready returns to tier 1 (R419). (DEDUCED, log 73) -/
def demote (s : State) : State :=
  (teamOrder s).foldl (fun s t => (splitsOf t).foldl (fun s p => if p.2.tier = 0 ∧ p.2.promoted = 0 then toTierOne p.1 s else s) s) s

/-- What a split does at the start of a cycle before it may issue: it takes a trap request, or fetches its next clause. (DESIGN CHOICE, log 13) -/
def splitStarts (s : State) (t : Team) (p : SplitRef × Split) : List Event :=
  let r := p.1
  let sp := p.2
  if canRun s t sp && decide (sp.busy = 0) then
    (if trapDue t r.high sp then (if trapsIn sp.hold then [.userTrapEntry r] else [])
     else if sp.clause.isNone && decide (sp.hold = .none) && hasTurn s t r.high then [.clauseFetch r] else [])
  else []

/-- The rendezvous that have lasted to their bound, whether or not the issuing splits still live (R370). -/
def jointDue (s : State) : List Event := ((s.mqOps.filter mqLate).map (fun q => Event.waitTimeout q.split)).eraseDups

/-- The timed events and the clause fetches of a cycle. -/
def splitsDue (s : State) : List Event :=
  jointDue s ++
  (teamOrder s).flatMap (fun t => (splitsOf t).flatMap (splitTimers s t)) ++
  (teamOrder s).flatMap (fun t => (splitsOf t).flatMap (splitStarts s t))

/-! ### The pipes (R415, R417, R419, R503) -/

/-- The readiness count of a split that was not taken; a promoted one that is not ready is marked (R419). -/
def countReady (s : State) (p : Team × SplitRef × Split) (sp : Split) : Split :=
  if coreHeld s p.1.core then sp
  else if ready s p.1 p.2.1 p.2.2 then { sp with ready := sp.ready + 1 }
  else { sp with ready := 0, promoted := if sp.tier = 0 then 0 else sp.promoted }

/-- An idle pipe is charged to the first split of the list (R503). -/
def chargeFree (l : List (Team × SplitRef × Split)) (n : Nat) (s : State) : State :=
  match l with
  | [] => s
  | (t, _, sp) :: _ => laneCharge s t.core t.ctx (instrPc sp) 4 (32 * n)

/-- One partition: its free pipes take the first ready splits; the readiness counts and idle pipes follow. -/
def takePart (s : State) (k : Nat) : State :=
  let l := partList s k
  let tk := takes s k l
  let s1 := l.foldl (fun u p => updSplit u p.2.1 (fun sp => if tk.contains p.2.1 then { sp with ready := 0 } else countReady s p sp)) s
  chargeFree l (freePipes s k - tk.length) { s1 with issueQ := s1.issueQ ++ tk }

/-- Passes of instructions issued earlier, one cycle on (R415). (DESIGN CHOICE, log 13) -/
def tickPasses (s : State) : State :=
  let f (sp : Split) : Split := { sp with busy := sp.busy - 1 }
  { s with teams := s.teams.map (fun t => { t with low := t.low.map f, high := t.high.map f }) }

/-- The splits that the pipes of every partition take in this cycle. -/
def takePipes (s : State) : State := tickPasses ((partsInUse s).foldl takePart { s with taking := false })

/-! ### The events of a cycle -/

/-- The start of a window of the health counts (R474). -/
def windowDue (s : State) : List Event := if s.cycle.toNat % 2 ^ 32 = 0 then [.healthWindowBoundary] else []

/-- The steps of every unit that are due in a cycle after the refresh, in one fixed order: records of the cycle before, memory and networks, the
guard, engines, matrix arrays and fabric, the launch unit, and the gates. (DESIGN CHOICE, log 3 and log 13) -/
def unitsDue (s : State) : List Event :=
  recordsDue s ++ windowDue s ++ patrolDue s ++ hopsDue s ++ wakesDue s ++ guardDue s ++ xeDue s ++ brimDue s ++
  mqDue s ++ fabricDue s ++ commandsDue s ++ placementDue s ++ endsDue s ++ modesDue s ++ replaysDue s ++ deliveriesDue s

/-- Matrix operations issued and not yet accepted (R365). -/
def acceptsDue (s : State) : List Event :=
  (quadsOf (s.mqOps.filter (fun q => !q.accepted))).map (fun p => .mqAccept p.1 p.2)

/-- The next cycle begins: the gates have drained at the end of the last, the counts go up, and every step that is due stands on the
agenda, a refresh before any access (R74). -/
def startCycle (s : State) : State :=
  let s0 := [0, 1].foldl drainGate (noteOccupancy s)
  let s1 := { s0 with cycle := s.cycle + 1, taking := true }
  let s2 := demote (sliceTick (tickJoint (tickTeams (s1.blocks.foldl settleTurn s1))))
  let s3 := alignTick (bandTick (addAgenda s2 (refreshDue s2)))
  addAgenda s3 (acceptsDue s3 ++ unitsDue s3 ++ splitsDue s3)

/-- ISSUE_CYCLE: a cycle begins with the steps that are due, and goes on with the splits that the pipes take. At the end of the
cycle that PKG_STOPAT names the package stops; a frozen package stands. -/
def issueCycle (s : State) : State :=
  if frozen s then s
  else if s.taking then takePipes s
  else if stopNow s then addAgenda s [.packageStop]
  else startCycle s

/-- ISSUE_CYCLE (R3, R417, R498). -/
def execIssueCycle (s : State) : Host.Outcome State Fault Refusal :=
  match s.event with
  | some .issueCycle => .next (issueCycle { s with event := none })
  | _ => .next s

end Sys2Proof.Machine
end

