-- ==== Sys2Proof/Machine/Float.lean ====
section
/-! DEFINITION. Floating-point arithmetic, compares, classes and dot products (R334 to R342). -/
namespace Sys2Proof.Machine
open Sys2Proof.Forms

/-- The width of a count or mask of a floating form: 16 bits per packed element, else 32 (R339, R341). -/
def sideWidth (x : Iss) : Nat := if x.t.width = 16 then 16 else 32

/-- a × b + d with the signs given (R250). -/
def fmaOf (rdn negP negD : Bool) (a b d : FVal) : FVal × Exc :=
  let (p, e) := fMul a b
  let (s, q) := fAdd rdn (if negP then fNeg p else p) (if negD then fNeg d else d)
  (s, e ||| q)

/-- An integral rounding form of R340. -/
def rintLane (x : Iss) (mode : Nat) (nx : Bool) (l : Nat) : Nat × Exc :=
  patternLane x x.t.width (fun fm e a _ => fRint fm mode nx (srOf x l e) (fval fm x.ftz a)) l

/-- A compare form of R338. -/
def fcmpLane (x : Iss) (kind : Nat) (l : Nat) : Nat × Exc :=
  compareLane x (sideWidth x) (fun a b =>
    fCompare kind (fval (fmtOf x.t) x.ftz a) (fval (fmtOf x.t) x.ftz b)) l

/-- A minimum or maximum form of R337. -/
def minMaxLane (x : Iss) (big prop : Bool) (l : Nat) : Nat × Exc :=
  floatLane x (fun _ a b _ => fMinMax big prop a b) l

/-- A dot product of `k` packed elements with the FP32 accumulator, rounded once to FP32 (R342). -/
def dotLane (x : Iss) (k : Nat) (l : Nat) : Nat × Exc :=
  let fm := fmtOf x.t
  let w := x.t.width
  let a := x.va l
  let b := x.vb l
  let ps := (List.range k).map (fun e => (fval fm x.ftz (fld a (w * e) w), fval fm x.ftz (fld b (w * e) w)))
  let (v, p) := fDot (decide (x.rnd = 3)) ps (fval fp32 x.ftz (x.vd l))
  let (r, q) := fround fp32 x.r (srOf x l 0) v
  (r, p ||| q)

/-- FADD: a + b (R334). -/
def execFadd (d a b : BitVec 8) (s : State) : Host.Outcome State Fault Refusal :=
  issue (.fadd d a b) s (fun x => fixedForm x true 0x02 (floatLane x (fun rdn a b _ => fAdd rdn a b)))

/-- FSUB: a − b (R334). -/
def execFsub (d a b : BitVec 8) (s : State) : Host.Outcome State Fault Refusal :=
  issue (.fsub d a b) s (fun x => fixedForm x true 0x02 (floatLane x (fun rdn a b _ => fAdd rdn a (fNeg b))))

/-- FMUL: a × b (R334). -/
def execFmul (d a b : BitVec 8) (s : State) : Host.Outcome State Fault Refusal :=
  issue (.fmul d a b) s (fun x => fixedForm x true 0x02 (floatLane x (fun _ a b _ => fMul a b)))

/-- FMA: a × b + d, rounded once (R250, R334). -/
def execFma (d a b : BitVec 8) (s : State) : Host.Outcome State Fault Refusal :=
  issue (.fma d a b) s (fun x => fixedForm x true 0x02 (floatLane x (fun rdn a b d => fmaOf rdn false false a b d)))

/-- FMS: a × b − d, rounded once (R250, R334). -/
def execFms (d a b : BitVec 8) (s : State) : Host.Outcome State Fault Refusal :=
  issue (.fms d a b) s (fun x => fixedForm x true 0x02 (floatLane x (fun rdn a b d => fmaOf rdn false true a b d)))

/-- FNMA: −(a × b) + d, rounded once (R250, R334). -/
def execFnma (d a b : BitVec 8) (s : State) : Host.Outcome State Fault Refusal :=
  issue (.fnma d a b) s (fun x => fixedForm x true 0x02 (floatLane x (fun rdn a b d => fmaOf rdn true false a b d)))

/-- FMIN (R337). -/
def execFmin (d a b : BitVec 8) (s : State) : Host.Outcome State Fault Refusal :=
  issue (.fmin d a b) s (fun x => fixedForm x false 0x02 (minMaxLane x false false))

/-- FMAX (R337). -/
def execFmax (d a b : BitVec 8) (s : State) : Host.Outcome State Fault Refusal :=
  issue (.fmax d a b) s (fun x => fixedForm x false 0x02 (minMaxLane x true false))

/-- FMINM (R337). -/
def execFminm (d a b : BitVec 8) (s : State) : Host.Outcome State Fault Refusal :=
  issue (.fminm d a b) s (fun x => fixedForm x false 0x02 (minMaxLane x false true))

/-- FMAXM (R337). -/
def execFmaxm (d a b : BitVec 8) (s : State) : Host.Outcome State Fault Refusal :=
  issue (.fmaxm d a b) s (fun x => fixedForm x false 0x02 (minMaxLane x true true))

/-- FABS: clears the sign bit (R336). -/
def execFabs (d a : BitVec 8) (s : State) : Host.Outcome State Fault Refusal :=
  issue (.fabs d a) s (fun x => fixedForm x false 0x02 (bitLane x x.t.width x.t.width (fun w a _ => a % 2 ^ (w - 1))))

/-- FNEG: inverts the sign bit (R336). -/
def execFneg (d a : BitVec 8) (s : State) : Host.Outcome State Fault Refusal :=
  issue (.fneg d a) s (fun x => fixedForm x false 0x02 (bitLane x x.t.width x.t.width (fun w a _ => a ^^^ 2 ^ (w - 1))))

/-- FCOPYSIGN: the sign bit of b (R336). -/
def execFcopysign (d a b : BitVec 8) (s : State) : Host.Outcome State Fault Refusal :=
  issue (.fcopysign d a b) s (fun x => fixedForm x false 0x02 (bitLane x x.t.width x.t.width
    (fun w a b => a % 2 ^ (w - 1) + (b >>> (w - 1)) * 2 ^ (w - 1))))

/-- FCMPEQ (R338). -/
def execFcmpeq (d a b : BitVec 8) (s : State) : Host.Outcome State Fault Refusal :=
  issue (.fcmpeq d a b) s (fun x => fixedForm x false 0x02 (fcmpLane x 0))

/-- FCMPNE (R338). -/
def execFcmpne (d a b : BitVec 8) (s : State) : Host.Outcome State Fault Refusal :=
  issue (.fcmpne d a b) s (fun x => fixedForm x false 0x02 (fcmpLane x 1))

/-- FCMPLT (R338). -/
def execFcmplt (d a b : BitVec 8) (s : State) : Host.Outcome State Fault Refusal :=
  issue (.fcmplt d a b) s (fun x => fixedForm x false 0x02 (fcmpLane x 2))

/-- FCMPLE (R338). -/
def execFcmple (d a b : BitVec 8) (s : State) : Host.Outcome State Fault Refusal :=
  issue (.fcmple d a b) s (fun x => fixedForm x false 0x02 (fcmpLane x 3))

/-- FCMPUN (R338). -/
def execFcmpun (d a b : BitVec 8) (s : State) : Host.Outcome State Fault Refusal :=
  issue (.fcmpun d a b) s (fun x => fixedForm x false 0x02 (fcmpLane x 4))

/-- FCLASS: one bit per class (R339). -/
def execFclass (d a : BitVec 8) (s : State) : Host.Outcome State Fault Refusal :=
  issue (.fclass d a) s (fun x => fixedForm x false 0x02 (patternLane x (sideWidth x) (fun fm _ a _ => (fClass fm a, 0))))

/-- FRCP: 1 / a, execution class (R334, R335). -/
def execFrcp (d a : BitVec 8) (s : State) : Host.Outcome State Fault Refusal :=
  issue (.frcp d a) s (fun x => executionForm x true 0x02 (floatLane x (fun _ a _ _ => fDiv fOne a)))

/-- FRSQ: 1 / √a, execution class (R334, R335). -/
def execFrsq (d a : BitVec 8) (s : State) : Host.Outcome State Fault Refusal :=
  issue (.frsq d a) s (fun x => executionForm x true 0x02 (floatLane x (fun _ a _ _ => fRsqrt a)))

/-- FSQRT: √a, execution class (R334, R335). -/
def execFsqrt (d a : BitVec 8) (s : State) : Host.Outcome State Fault Refusal :=
  issue (.fsqrt d a) s (fun x => executionForm x true 0x02 (floatLane x (fun _ a _ _ => fSqrt a)))

/-- FDIV: a / b, execution class (R334, R335). -/
def execFdiv (d a b : BitVec 8) (s : State) : Host.Outcome State Fault Refusal :=
  issue (.fdiv d a b) s (fun x => executionForm x true 0x02 (floatLane x (fun _ a b _ => fDiv a b)))

/-- FEXP2: 2^a, execution class (R334, R335). -/
def execFexp2 (d a : BitVec 8) (s : State) : Host.Outcome State Fault Refusal :=
  issue (.fexp2 d a) s (fun x => executionForm x true 0x02 (floatLane x (fun _ a _ _ => fExp2 a)))

/-- FLOG2: log2 a, execution class (R334, R335). -/
def execFlog2 (d a : BitVec 8) (s : State) : Host.Outcome State Fault Refusal :=
  issue (.flog2 d a) s (fun x => executionForm x true 0x02 (floatLane x (fun _ a _ _ => fLog2 a)))

/-- FSIN: sin(π × a), execution class (R334, R335). -/
def execFsin (d a : BitVec 8) (s : State) : Host.Outcome State Fault Refusal :=
  issue (.fsin d a) s (fun x => executionForm x true 0x02 (floatLane x (fun _ a _ _ => fSinCos false a)))

/-- FCOS: cos(π × a), execution class (R334, R335). -/
def execFcos (d a : BitVec 8) (s : State) : Host.Outcome State Fault Refusal :=
  issue (.fcos d a) s (fun x => executionForm x true 0x02 (floatLane x (fun _ a _ _ => fSinCos true a)))

/-- FTANH: tanh a, execution class (R334, R335). -/
def execFtanh (d a : BitVec 8) (s : State) : Host.Outcome State Fault Refusal :=
  issue (.ftanh d a) s (fun x => executionForm x true 0x02 (floatLane x (fun _ a _ _ => fTanh a)))

/-- FFLOOR (R340). -/
def execFfloor (d a : BitVec 8) (s : State) : Host.Outcome State Fault Refusal :=
  issue (.ffloor d a) s (fun x => fixedForm x false 0x02 (rintLane x 3 false))

/-- FCEIL (R340). -/
def execFceil (d a : BitVec 8) (s : State) : Host.Outcome State Fault Refusal :=
  issue (.fceil d a) s (fun x => fixedForm x false 0x02 (rintLane x 2 false))

/-- FTRUNC (R340). -/
def execFtrunc (d a : BitVec 8) (s : State) : Host.Outcome State Fault Refusal :=
  issue (.ftrunc d a) s (fun x => fixedForm x false 0x02 (rintLane x 1 false))

/-- FRINT: under MODE.RND, raises inexact (R340). -/
def execFrint (d a : BitVec 8) (s : State) : Host.Outcome State Fault Refusal :=
  issue (.frint d a) s (fun x => fixedForm x true 0x02 (rintLane x x.rnd true))

/-- FLDEXP: a × 2^n, n from the S32 or S16 value of b (R334). -/
def execFldexp (d a b : BitVec 8) (s : State) : Host.Outcome State Fault Refusal :=
  issue (.fldexp d a b) s (fun x => fixedForm x true 0x02 (fun l =>
    let fm := fmtOf x.t
    let w := x.t.width
    let bw := if w = 64 then 32 else w
    elems w (fun e =>
      let (v, p) := fLdexp (sgn bw (fld (x.vb l) (bw * e) bw)) (fval fm x.ftz (fld (x.va l) (w * e) w))
      let (r, q) := fround fm x.r (srOf x l e) v
      (r, p ||| q)) x.t.elems))

/-- FGETEXP: floor(log2 |a|) (R341). -/
def execFgetexp (d a : BitVec 8) (s : State) : Host.Outcome State Fault Refusal :=
  issue (.fgetexp d a) s (fun x => fixedForm x false 0x02 (patternLane x (sideWidth x)
    (fun fm _ a _ => fGetexp (sideWidth x) (fval fm x.ftz a))))

/-- FDOT2 (R342). -/
def execFdot2 (d a b : BitVec 8) (s : State) : Host.Outcome State Fault Refusal :=
  issue (.fdot2 d a b) s (fun x => fixedForm x true 0x02 (dotLane x 2))

/-- FDOT4 (R342). -/
def execFdot4 (d a b : BitVec 8) (s : State) : Host.Outcome State Fault Refusal :=
  issue (.fdot4 d a b) s (fun x => fixedForm x true 0x02 (dotLane x 4))

end Sys2Proof.Machine
end

