-- ==== Sys2Proof/Machine/Integer.lean ====
section
/-! DEFINITION. Integer arithmetic (R322, R323). -/
namespace Sys2Proof.Machine
open Sys2Proof.Forms

/-- IADD: a + b, SAT applies (R322). -/
def execIadd (d a b : BitVec 8) (s : State) : Host.Outcome State Fault Refusal :=
  issue (.iadd d a b) s (fun x => fixedForm x false 0x02 (intLane x true (fun a b _ => a + b)))

/-- ISUB: a − b, SAT applies (R322). -/
def execIsub (d a b : BitVec 8) (s : State) : Host.Outcome State Fault Refusal :=
  issue (.isub d a b) s (fun x => fixedForm x false 0x02 (intLane x true (fun a b _ => a - b)))

/-- IMUL: a × b, SAT applies (R322). -/
def execImul (d a b : BitVec 8) (s : State) : Host.Outcome State Fault Refusal :=
  issue (.imul d a b) s (fun x => fixedForm x false 0x02 (intLane x true (fun a b _ => a * b)))

/-- IMULH: floor(a × b / 2^w), always in range (R322). -/
def execImulh (d a b : BitVec 8) (s : State) : Host.Outcome State Fault Refusal :=
  issue (.imulh d a b) s (fun x => fixedForm x false 0x02 (intLane x false (fun a b _ => (a * b) / ((2 ^ x.t.width : Nat) : Int))))

/-- IMAD: a × b + d, SAT applies (R322). -/
def execImad (d a b : BitVec 8) (s : State) : Host.Outcome State Fault Refusal :=
  issue (.imad d a b) s (fun x => fixedForm x false 0x02 (intLane x true (fun a b d => a * b + d)))

/-- The quotient rounded toward zero; all ones for a zero divisor (R322, R323). -/
def divValue (t : ETy) (a b : Int) : Int := if b = 0 then (if t.signed then -1 else iMax t) else a.tdiv b

/-- The remainder with the sign of a; a for a zero divisor (R322, R323). -/
def remValue (a b : Int) : Int := if b = 0 then a else a.tmod b

/-- Divide by zero of a lane with a zero divisor in some element (R323). -/
def divExc (x : Iss) (l : Nat) : Exc :=
  let w := x.t.width
  if (List.range x.t.elems).any (fun e => decide (fld (x.vb l) (w * e) w = 0)) then excDZ else 0

/-- IDIV: execution class; zero divisors raise divide by zero, trap cause 0x03 (R322, R323, R440). -/
def execIdiv (d a b : BitVec 8) (s : State) : Host.Outcome State Fault Refusal :=
  issue (.idiv d a b) s (fun x => executionForm x false 0x03
    (fun l => ((intLane x true (fun a b _ => divValue x.t a b) l).1, divExc x l)))

/-- IREM: execution class (R322, R323, R440). -/
def execIrem (d a b : BitVec 8) (s : State) : Host.Outcome State Fault Refusal :=
  issue (.irem d a b) s (fun x => executionForm x false 0x03
    (fun l => ((intLane x false (fun a b _ => remValue a b) l).1, divExc x l)))

/-- IMIN: the smaller of a and b (R322). -/
def execImin (d a b : BitVec 8) (s : State) : Host.Outcome State Fault Refusal :=
  issue (.imin d a b) s (fun x => fixedForm x false 0x02 (intLane x false (fun a b _ => min a b)))

/-- IMAX: the larger of a and b (R322). -/
def execImax (d a b : BitVec 8) (s : State) : Host.Outcome State Fault Refusal :=
  issue (.imax d a b) s (fun x => fixedForm x false 0x02 (intLane x false (fun a b _ => max a b)))

/-- IABS: |a|, SAT applies (R322). -/
def execIabs (d a : BitVec 8) (s : State) : Host.Outcome State Fault Refusal :=
  issue (.iabs d a) s (fun x => fixedForm x false 0x02 (intLane x true (fun a _ _ => (a.natAbs : Int))))

/-- INEG: −a, SAT applies (R322). -/
def execIneg (d a : BitVec 8) (s : State) : Host.Outcome State Fault Refusal :=
  issue (.ineg d a) s (fun x => fixedForm x false 0x02 (intLane x true (fun a _ _ => -a)))

end Sys2Proof.Machine
end

