-- ==== Sys2Proof/Machine/Logic.lean ====
section
/-! DEFINITION. Logic, shifts, bit fields, select, move and integer compares (R324 to R327). -/
namespace Sys2Proof.Machine
open Sys2Proof.Forms

/-- The bits of a destination of 32-bit registers. -/
def allBits (x : Iss) : Nat := 2 ^ (32 * (fieldRegs x).1) - 1

/-- The width of a shift amount: one register under a 64-bit TYPE (R316). -/
def amountWidth (x : Iss) : Nat := if x.t.width = 64 then 32 else x.t.width

/-- Leading zero bits of a number of `w` bits; w for zero (R324). -/
def clzOf (w a : Nat) : Nat := if a = 0 then w else w - 1 - log2 a

/-- Trailing zero bits of a number of at most `w` bits; w for zero (R324). -/
def ctzOf (w a : Nat) : Nat := ((List.range w).find? (fun i => a.testBit i)).getD w

/-- The number of one bits below `w`. -/
def popOf (w a : Nat) : Nat := ((List.range w).filter (fun i => a.testBit i)).length

/-- The bits of a number in reverse order. -/
def revOf (w a : Nat) : Nat := maskNat (fun i => a.testBit (w - 1 - i)) w

/-- Arithmetic shift right (R324). -/
def sarOf (w a s : Nat) : Nat := wrap w ((sgn w a) / ((2 ^ (min s w) : Nat) : Int))

/-- The effective length of a bit field (R325). -/
def fieldLen (w b : Nat) : Nat := if w ≤ fld b 0 8 then 0 else min (fld b 8 8) (w - fld b 0 8)

/-- BFX (R325). -/
def bfxOf (t : ETy) (a b : Nat) : Nat :=
  let n := fieldLen t.width b
  if n = 0 then 0
  else
    let f := fld a (fld b 0 8) n
    if t.signed then wrap t.width (sgn n f) else f

/-- BFI (R325). -/
def bfiOf (t : ETy) (a b d : Nat) : Nat :=
  let n := fieldLen t.width b
  let lo := fld b 0 8
  if n = 0 then d else d - (fld d lo n <<< lo) + (fld a 0 n <<< lo)

/-- An integer compare of TYPE (R326). -/
def icmpLane (x : Iss) (f : Int → Int → Bool) (l : Nat) : Nat × Exc :=
  compareLane x (if x.t.width = 64 then 32 else x.t.width) (fun a b => (f (iVal x.t a) (iVal x.t b), 0)) l

/-- AND (R324). -/
def execAnd (d a b : BitVec 8) (s : State) : Host.Outcome State Fault Refusal :=
  issue (.and d a b) s (fun x => fixedForm x false 0x02 (fun l => (x.va l &&& x.vb l, 0)))

/-- OR (R324). -/
def execOr (d a b : BitVec 8) (s : State) : Host.Outcome State Fault Refusal :=
  issue (.or d a b) s (fun x => fixedForm x false 0x02 (fun l => (x.va l ||| x.vb l, 0)))

/-- XOR (R324). -/
def execXor (d a b : BitVec 8) (s : State) : Host.Outcome State Fault Refusal :=
  issue (.xor d a b) s (fun x => fixedForm x false 0x02 (fun l => (x.va l ^^^ x.vb l, 0)))

/-- ANDN: a and not b (R324). -/
def execAndn (d a b : BitVec 8) (s : State) : Host.Outcome State Fault Refusal :=
  issue (.andn d a b) s (fun x => fixedForm x false 0x02 (fun l => (x.va l ^^^ (x.va l &&& x.vb l), 0)))

/-- NOT (R324). -/
def execNot (d a : BitVec 8) (s : State) : Host.Outcome State Fault Refusal :=
  issue (.not d a) s (fun x => fixedForm x false 0x02 (fun l => (allBits x ^^^ x.va l, 0)))

/-- SHL: zero from s ≥ w on (R324). -/
def execShl (d a b : BitVec 8) (s : State) : Host.Outcome State Fault Refusal :=
  issue (.shl d a b) s (fun x => fixedForm x false 0x02 (bitLane x (amountWidth x) x.t.width (fun w a s => if w ≤ s then 0 else a <<< s)))

/-- SHR: zero fill (R324). -/
def execShr (d a b : BitVec 8) (s : State) : Host.Outcome State Fault Refusal :=
  issue (.shr d a b) s (fun x => fixedForm x false 0x02 (bitLane x (amountWidth x) x.t.width (fun w a s => if w ≤ s then 0 else a >>> s)))

/-- SAR: copies of the top bit (R324). -/
def execSar (d a b : BitVec 8) (s : State) : Host.Outcome State Fault Refusal :=
  issue (.sar d a b) s (fun x => fixedForm x false 0x02 (bitLane x (amountWidth x) x.t.width (fun w a s => sarOf w a s)))

/-- ROL: rotate left by s mod w (R324). -/
def execRol (d a b : BitVec 8) (s : State) : Host.Outcome State Fault Refusal :=
  issue (.rol d a b) s (fun x => fixedForm x false 0x02 (bitLane x (amountWidth x) x.t.width
    (fun w a s => (a <<< (s % w)) ||| (a >>> (w - s % w)))))

/-- POPC (R324). -/
def execPopc (d a : BitVec 8) (s : State) : Host.Outcome State Fault Refusal :=
  issue (.popc d a) s (fun x => fixedForm x false 0x02 (bitLane x x.t.width (amountWidth x) (fun w a _ => popOf w a)))

/-- CLZ (R324). -/
def execClz (d a : BitVec 8) (s : State) : Host.Outcome State Fault Refusal :=
  issue (.clz d a) s (fun x => fixedForm x false 0x02 (bitLane x x.t.width (amountWidth x) (fun w a _ => clzOf w a)))

/-- CTZ (R324). -/
def execCtz (d a : BitVec 8) (s : State) : Host.Outcome State Fault Refusal :=
  issue (.ctz d a) s (fun x => fixedForm x false 0x02 (bitLane x x.t.width (amountWidth x) (fun w a _ => ctzOf w a)))

/-- BREV (R324). -/
def execBrev (d a : BitVec 8) (s : State) : Host.Outcome State Fault Refusal :=
  issue (.brev d a) s (fun x => fixedForm x false 0x02 (bitLane x x.t.width x.t.width (fun w a _ => revOf w a)))

/-- BFX: the field position comes from the 32-bit b (R325). -/
def execBfx (d a b : BitVec 8) (s : State) : Host.Outcome State Fault Refusal :=
  issue (.bfx d a b) s (fun x => fixedForm x false 0x02 (fun l => (bfxOf x.t (x.va l) (x.vb l), 0)))

/-- BFI: the other bits of d are kept (R325). -/
def execBfi (d a b : BitVec 8) (s : State) : Host.Outcome State Fault Refusal :=
  issue (.bfi d a b) s (fun x => fixedForm x false 0x02 (fun l => (bfiOf x.t (x.va l) (x.vb l) (x.vd l), 0)))

/-- SEL: a where the old d is non-zero, b where it is zero (R327). -/
def execSel (d a b : BitVec 8) (s : State) : Host.Outcome State Fault Refusal :=
  issue (.sel d a b) s (fun x => fixedForm x false 0x02 (fun l => (if x.vd l = 0 then x.vb l else x.va l, 0)))

/-- MOV: copies bits; a predicate destination takes a ≠ 0 (R327). -/
def execMov (d a : BitVec 8) (s : State) : Host.Outcome State Fault Refusal :=
  issue (.mov d a) s (fun x => fixedForm x false 0x02 (fun l => (if x.predDst then (if x.va l = 0 then 0 else 1) else x.va l, 0)))

/-- ICMPEQ: a = b (R326). -/
def execIcmpeq (d a b : BitVec 8) (s : State) : Host.Outcome State Fault Refusal :=
  issue (.icmpeq d a b) s (fun x => fixedForm x false 0x02 (icmpLane x (fun a b => decide (a = b))))

/-- ICMPNE: a ≠ b (R326). -/
def execIcmpne (d a b : BitVec 8) (s : State) : Host.Outcome State Fault Refusal :=
  issue (.icmpne d a b) s (fun x => fixedForm x false 0x02 (icmpLane x (fun a b => decide (a ≠ b))))

/-- ICMPLT: a < b (R326). -/
def execIcmplt (d a b : BitVec 8) (s : State) : Host.Outcome State Fault Refusal :=
  issue (.icmplt d a b) s (fun x => fixedForm x false 0x02 (icmpLane x (fun a b => decide (a < b))))

/-- ICMPLE: a ≤ b (R326). -/
def execIcmple (d a b : BitVec 8) (s : State) : Host.Outcome State Fault Refusal :=
  issue (.icmple d a b) s (fun x => fixedForm x false 0x02 (icmpLane x (fun a b => decide (a ≤ b))))

/-- ICMPGT: b < a (R326). -/
def execIcmpgt (d a b : BitVec 8) (s : State) : Host.Outcome State Fault Refusal :=
  issue (.icmpgt d a b) s (fun x => fixedForm x false 0x02 (icmpLane x (fun a b => decide (b < a))))

/-- ICMPGE: b ≤ a (R326). -/
def execIcmpge (d a b : BitVec 8) (s : State) : Host.Outcome State Fault Refusal :=
  issue (.icmpge d a b) s (fun x => fixedForm x false 0x02 (icmpLane x (fun a b => decide (b ≤ a))))

end Sys2Proof.Machine
end

