-- ==== Sys2Proof/Machine/Dispatch.lean ====
section
/-! DEFINITION. One arm per row of the opcode table: the meaning it calls, or the row rejected by name. -/
namespace Sys2Proof.Machine

def exec (i : Instr) (s : State) : Host.Outcome State Fault Refusal :=
  match i with
  | .nop => Sys2Proof.Machine.execNop s
  | .bra b => Sys2Proof.Machine.execBra b s
  | .brp d a b => Sys2Proof.Machine.execBrp d a b s
  | .brany a b => Sys2Proof.Machine.execBrany a b s
  | .brall a b => Sys2Proof.Machine.execBrall a b s
  | .join => Sys2Proof.Machine.execJoin s
  | .btbl a => Sys2Proof.Machine.execBtbl a s
  | .call d b => Sys2Proof.Machine.execCall d b s
  | .calli d a => Sys2Proof.Machine.execCalli d a s
  | .ret a => Sys2Proof.Machine.execRet a s
  | .exit => Sys2Proof.Machine.execExit s
  | .modeset a b => Sys2Proof.Machine.execModeset a b s
  | .modegrd a b => Sys2Proof.Machine.execModegrd a b s
  | .modetyp a => Sys2Proof.Machine.execModetyp a s
  | .modernd a => Sys2Proof.Machine.execModernd a s
  | .yield => Sys2Proof.Machine.execYield s
  | .iadd d a b => Sys2Proof.Machine.execIadd d a b s
  | .isub d a b => Sys2Proof.Machine.execIsub d a b s
  | .imul d a b => Sys2Proof.Machine.execImul d a b s
  | .imulh d a b => Sys2Proof.Machine.execImulh d a b s
  | .imad d a b => Sys2Proof.Machine.execImad d a b s
  | .idiv d a b => Sys2Proof.Machine.execIdiv d a b s
  | .irem d a b => Sys2Proof.Machine.execIrem d a b s
  | .imin d a b => Sys2Proof.Machine.execImin d a b s
  | .imax d a b => Sys2Proof.Machine.execImax d a b s
  | .iabs d a => Sys2Proof.Machine.execIabs d a s
  | .ineg d a => Sys2Proof.Machine.execIneg d a s
  | .and d a b => Sys2Proof.Machine.execAnd d a b s
  | .or d a b => Sys2Proof.Machine.execOr d a b s
  | .xor d a b => Sys2Proof.Machine.execXor d a b s
  | .andn d a b => Sys2Proof.Machine.execAndn d a b s
  | .not d a => Sys2Proof.Machine.execNot d a s
  | .shl d a b => Sys2Proof.Machine.execShl d a b s
  | .shr d a b => Sys2Proof.Machine.execShr d a b s
  | .sar d a b => Sys2Proof.Machine.execSar d a b s
  | .rol d a b => Sys2Proof.Machine.execRol d a b s
  | .popc d a => Sys2Proof.Machine.execPopc d a s
  | .clz d a => Sys2Proof.Machine.execClz d a s
  | .ctz d a => Sys2Proof.Machine.execCtz d a s
  | .brev d a => Sys2Proof.Machine.execBrev d a s
  | .bfx d a b => Sys2Proof.Machine.execBfx d a b s
  | .bfi d a b => Sys2Proof.Machine.execBfi d a b s
  | .sel d a b => Sys2Proof.Machine.execSel d a b s
  | .mov d a => Sys2Proof.Machine.execMov d a s
  | .icmpeq d a b => Sys2Proof.Machine.execIcmpeq d a b s
  | .icmpne d a b => Sys2Proof.Machine.execIcmpne d a b s
  | .icmplt d a b => Sys2Proof.Machine.execIcmplt d a b s
  | .icmple d a b => Sys2Proof.Machine.execIcmple d a b s
  | .icmpgt d a b => Sys2Proof.Machine.execIcmpgt d a b s
  | .icmpge d a b => Sys2Proof.Machine.execIcmpge d a b s
  | .iadd64 d a b => Sys2Proof.Machine.execIadd64 d a b s
  | .isub64 d a b => Sys2Proof.Machine.execIsub64 d a b s
  | .adda d a b => Sys2Proof.Machine.execAdda d a b s
  | .tagset d a b => Sys2Proof.Machine.execTagset d a b s
  | .tagget d a => Sys2Proof.Machine.execTagget d a s
  | .bdmake d a b => Sys2Proof.Machine.execBdmake d a b s
  | .bdnarrow d a b => Sys2Proof.Machine.execBdnarrow d a b s
  | .bdquery d a b => Sys2Proof.Machine.execBdquery d a b s
  | .fadd d a b => Sys2Proof.Machine.execFadd d a b s
  | .fsub d a b => Sys2Proof.Machine.execFsub d a b s
  | .fmul d a b => Sys2Proof.Machine.execFmul d a b s
  | .fma d a b => Sys2Proof.Machine.execFma d a b s
  | .fms d a b => Sys2Proof.Machine.execFms d a b s
  | .fnma d a b => Sys2Proof.Machine.execFnma d a b s
  | .fmin d a b => Sys2Proof.Machine.execFmin d a b s
  | .fmax d a b => Sys2Proof.Machine.execFmax d a b s
  | .fminm d a b => Sys2Proof.Machine.execFminm d a b s
  | .fmaxm d a b => Sys2Proof.Machine.execFmaxm d a b s
  | .fabs d a => Sys2Proof.Machine.execFabs d a s
  | .fneg d a => Sys2Proof.Machine.execFneg d a s
  | .fcopysign d a b => Sys2Proof.Machine.execFcopysign d a b s
  | .fcmpeq d a b => Sys2Proof.Machine.execFcmpeq d a b s
  | .fcmpne d a b => Sys2Proof.Machine.execFcmpne d a b s
  | .fcmplt d a b => Sys2Proof.Machine.execFcmplt d a b s
  | .fcmple d a b => Sys2Proof.Machine.execFcmple d a b s
  | .fcmpun d a b => Sys2Proof.Machine.execFcmpun d a b s
  | .fclass d a => Sys2Proof.Machine.execFclass d a s
  | .frcp d a => Sys2Proof.Machine.execFrcp d a s
  | .frsq d a => Sys2Proof.Machine.execFrsq d a s
  | .fsqrt d a => Sys2Proof.Machine.execFsqrt d a s
  | .fdiv d a b => Sys2Proof.Machine.execFdiv d a b s
  | .fexp2 d a => Sys2Proof.Machine.execFexp2 d a s
  | .flog2 d a => Sys2Proof.Machine.execFlog2 d a s
  | .fsin d a => Sys2Proof.Machine.execFsin d a s
  | .fcos d a => Sys2Proof.Machine.execFcos d a s
  | .ftanh d a => Sys2Proof.Machine.execFtanh d a s
  | .ffloor d a => Sys2Proof.Machine.execFfloor d a s
  | .fceil d a => Sys2Proof.Machine.execFceil d a s
  | .ftrunc d a => Sys2Proof.Machine.execFtrunc d a s
  | .frint d a => Sys2Proof.Machine.execFrint d a s
  | .fldexp d a b => Sys2Proof.Machine.execFldexp d a b s
  | .fgetexp d a => Sys2Proof.Machine.execFgetexp d a s
  | .fdot2 d a b => Sys2Proof.Machine.execFdot2 d a b s
  | .fdot4 d a b => Sys2Proof.Machine.execFdot4 d a b s
  | .cvtff d a b => Sys2Proof.Machine.execCvtff d a b s
  | .cvtfi d a b => Sys2Proof.Machine.execCvtfi d a b s
  | .cvtif d a b => Sys2Proof.Machine.execCvtif d a b s
  | .cvtii d a b => Sys2Proof.Machine.execCvtii d a b s
  | .qpack d a b => Sys2Proof.Machine.execQpack d a b s
  | .qunpack d a b => Sys2Proof.Machine.execQunpack d a b s
  | .scalemake d a b => Sys2Proof.Machine.execScalemake d a b s
  | .pack2 d a b => Sys2Proof.Machine.execPack2 d a b s
  | .srseed a => Sys2Proof.Machine.execSrseed a s
  | .qswapx d a => Sys2Proof.Machine.execQswapx d a s
  | .qswapy d a => Sys2Proof.Machine.execQswapy d a s
  | .qswapd d a => Sys2Proof.Machine.execQswapd d a s
  | .qbcast d a b => Sys2Proof.Machine.execQbcast d a b s
  | .lshfl d a b => Sys2Proof.Machine.execLshfl d a b s
  | .lshflup d a b => Sys2Proof.Machine.execLshflup d a b s
  | .lshfldn d a b => Sys2Proof.Machine.execLshfldn d a b s
  | .lbcast d a b => Sys2Proof.Machine.execLbcast d a b s
  | .lvote d a b => Sys2Proof.Machine.execLvote d a b s
  | .lpopc d a => Sys2Proof.Machine.execLpopc d a s
  | .lscan d a b => Sys2Proof.Machine.execLscan d a b s
  | .lred d a b => Sys2Proof.Machine.execLred d a b s
  | .lfirst d a => Sys2Proof.Machine.execLfirst d a s
  | .lmatch d a => Sys2Proof.Machine.execLmatch d a s
  | .rdlane d a b => Sys2Proof.Machine.execRdlane d a b s
  | .wrlane d a b => Sys2Proof.Machine.execWrlane d a b s
  | .ld d a b => Sys2Proof.Machine.execLd d a b s
  | .st d a b => Sys2Proof.Machine.execSt d a b s
  | .ldb d a b => Sys2Proof.Machine.execLdb d a b s
  | .ldbz d a b => Sys2Proof.Machine.execLdbz d a b s
  | .stb d a b => Sys2Proof.Machine.execStb d a b s
  | .lds d a b => Sys2Proof.Machine.execLds d a b s
  | .sts d a b => Sys2Proof.Machine.execSts d a b s
  | .ldacq d a b => Sys2Proof.Machine.execLdacq d a b s
  | .strel d a b => Sys2Proof.Machine.execStrel d a b s
  | .ldnt d a b => Sys2Proof.Machine.execLdnt d a b s
  | .pref a b => Sys2Proof.Machine.execPref a b s
  | .cctl a b => Sys2Proof.Machine.execCctl a b s
  | .sttag d a => Sys2Proof.Machine.execSttag d a s
  | .ldtag d a => Sys2Proof.Machine.execLdtag d a s
  | .ldsc d a b => Sys2Proof.Machine.execLdsc d a b s
  | .aadd d a b => Sys2Proof.Machine.execAadd d a b s
  | .amin d a b => Sys2Proof.Machine.execAmin d a b s
  | .amax d a b => Sys2Proof.Machine.execAmax d a b s
  | .aand d a b => Sys2Proof.Machine.execAand d a b s
  | .aor d a b => Sys2Proof.Machine.execAor d a b s
  | .axor d a b => Sys2Proof.Machine.execAxor d a b s
  | .axchg d a b => Sys2Proof.Machine.execAxchg d a b s
  | .acas d a b => Sys2Proof.Machine.execAcas d a b s
  | .afadd d a b => Sys2Proof.Machine.execAfadd d a b s
  | .redadd a b => Sys2Proof.Machine.execRedadd a b s
  | .redmin a b => Sys2Proof.Machine.execRedmin a b s
  | .redmax a b => Sys2Proof.Machine.execRedmax a b s
  | .redand a b => Sys2Proof.Machine.execRedand a b s
  | .redor a b => Sys2Proof.Machine.execRedor a b s
  | .redxor a b => Sys2Proof.Machine.execRedxor a b s
  | .redfadd a b => Sys2Proof.Machine.execRedfadd a b s
  | .fence b => Sys2Proof.Machine.execFence b s
  | .waiteq d a b => Sys2Proof.Machine.execWaiteq d a b s
  | .waitne d a b => Sys2Proof.Machine.execWaitne d a b s
  | .xcopy d a b => Sys2Proof.Machine.execXcopy d a b s
  | .xcopyt d a b => Sys2Proof.Machine.execXcopyt d a b s
  | .xgather d a b => Sys2Proof.Machine.execXgather d a b s
  | .xfill d a b => Sys2Proof.Machine.execXfill d a b s
  | .gbind d a => Sys2Proof.Machine.execGbind d a s
  | .hld d a b => Sys2Proof.Machine.execHld d a b s
  | .hstep d a b => Sys2Proof.Machine.execHstep d a b s
  | .hquery d a b => Sys2Proof.Machine.execHquery d a b s
  | .rstrel d a b => Sys2Proof.Machine.execRstrel d a b s
  | .rmcast d a => Sys2Proof.Machine.execRmcast d a s
  | .rfence => Sys2Proof.Machine.execRfence s
  | .rstream a b => Sys2Proof.Machine.execRstream a b s
  | .mmae4 d a b => Sys2Proof.Machine.execMmae4 d a b s
  | .mmae5 d a b => Sys2Proof.Machine.execMmae5 d a b s
  | .mmabf d a b => Sys2Proof.Machine.execMmabf d a b s
  | .mmahf d a b => Sys2Proof.Machine.execMmahf d a b s
  | .mmas8 d a b => Sys2Proof.Machine.execMmas8 d a b s
  | .mmaq4 d a b => Sys2Proof.Machine.execMmaq4 d a b s
  | .mmqe4 d a b => Sys2Proof.Machine.execMmqe4 d a b s
  | .mmqe5 d a b => Sys2Proof.Machine.execMmqe5 d a b s
  | .mmqbf d a b => Sys2Proof.Machine.execMmqbf d a b s
  | .mmqhf d a b => Sys2Proof.Machine.execMmqhf d a b s
  | .mmqs8 d a b => Sys2Proof.Machine.execMmqs8 d a b s
  | .mmqq4 d a b => Sys2Proof.Machine.execMmqq4 d a b s
  | .mzero d => Sys2Proof.Machine.execMzero d s
  | .mldacc d a b => Sys2Proof.Machine.execMldacc d a b s
  | .mdrain d a b => Sys2Proof.Machine.execMdrain d a b s
  | .mdraint d a b => Sys2Proof.Machine.execMdraint d a b s
  | .barinit d a => Sys2Proof.Machine.execBarinit d a s
  | .bararv d a => Sys2Proof.Machine.execBararv d a s
  | .barexp d a => Sys2Proof.Machine.execBarexp d a s
  | .barwait d a b => Sys2Proof.Machine.execBarwait d a b s
  | .bartest d a b => Sys2Proof.Machine.execBartest d a b s
  | .fwait d a b => Sys2Proof.Machine.execFwait d a b s
  | .ftest d a b => Sys2Proof.Machine.execFtest d a b s
  | .fcancel a => Sys2Proof.Machine.execFcancel a s
  | .mready => Sys2Proof.Machine.execMready s
  | .sleep a => Sys2Proof.Machine.execSleep a s
  | .trap a => Sys2Proof.Machine.execTrap a s
  | .svc d a => Sys2Proof.Machine.execSvc d a s
  | .rte => Sys2Proof.Machine.execRte s
  | .rdsr d a b => Sys2Proof.Machine.execRdsr d a b s
  | .wrsr d a => Sys2Proof.Machine.execWrsr d a s
  | .cycle d a => Sys2Proof.Machine.execCycle d a s
  | .bbhint a => Sys2Proof.Machine.execBbhint a s
  | .bkpt a => Sys2Proof.Machine.execBkpt a s
  | .issueCycle => Sys2Proof.Machine.execIssueCycle s
  | .clauseFetch => Sys2Proof.Machine.execClauseFetch s
  | .operationComplete => Sys2Proof.Machine.execOperationComplete s
  | .userTrapEntry => Sys2Proof.Machine.execUserTrapEntry s
  | .starvationPromote => Sys2Proof.Machine.execStarvationPromote s
  | .spinReleaseTimeout => Sys2Proof.Machine.execSpinReleaseTimeout s
  | .sleepExpire => Sys2Proof.Machine.execSleepExpire s
  | .waitTimeout => Sys2Proof.Machine.execWaitTimeout s
  | .watchWake => Sys2Proof.Machine.execWatchWake s
  | .watchPoll => Sys2Proof.Machine.execWatchPoll s
  | .sliceAccess => Sys2Proof.Machine.execSliceAccess s
  | .objArrive => Sys2Proof.Machine.execObjArrive s
  | .objExpect => Sys2Proof.Machine.execObjExpect s
  | .objComplete => Sys2Proof.Machine.execObjComplete s
  | .objCancel => Sys2Proof.Machine.execObjCancel s
  | .barrierInit => Sys2Proof.Machine.execBarrierInit s
  | .packetHop => Sys2Proof.Machine.execPacketHop s
  | .refreshTick => Sys2Proof.Machine.execRefreshTick s
  | .patrolScrub => Sys2Proof.Machine.execPatrolScrub s
  | .configurationRead => Sys2Proof.Machine.execConfigurationRead s
  | .configurationWrite => Sys2Proof.Machine.execConfigurationWrite s
  | .readReply => Sys2Proof.Machine.execReadReply s
  | .bandWake => Sys2Proof.Machine.execBandWake s
  | .bandInterrupt => Sys2Proof.Machine.execBandInterrupt s
  | .bandManagement => Sys2Proof.Machine.execBandManagement s
  | .bandInvalidRemove => Sys2Proof.Machine.execBandInvalidRemove s
  | .quarterWakeReady => Sys2Proof.Machine.execQuarterWakeReady s
  | .hostPostedWrite => Sys2Proof.Machine.execHostPostedWrite s
  | .sequencerSend => Sys2Proof.Machine.execSequencerSend s
  | .hostRead => Sys2Proof.Machine.execHostRead s
  | .xeAccept => Sys2Proof.Machine.execXeAccept s
  | .xeActivate => Sys2Proof.Machine.execXeActivate s
  | .xePieceIssue => Sys2Proof.Machine.execXePieceIssue s
  | .xePiecePlace => Sys2Proof.Machine.execXePiecePlace s
  | .xeOperationEnd => Sys2Proof.Machine.execXeOperationEnd s
  | .engineCancel => Sys2Proof.Machine.execEngineCancel s
  | .gridBindRequest => Sys2Proof.Machine.execGridBindRequest s
  | .brimDeliveryPoll => Sys2Proof.Machine.execBrimDeliveryPoll s
  | .brimDelivery => Sys2Proof.Machine.execBrimDelivery s
  | .brimStepWord => Sys2Proof.Machine.execBrimStepWord s
  | .mqAccept => Sys2Proof.Machine.execMqAccept s
  | .mqStart => Sys2Proof.Machine.execMqStart s
  | .mqEnd => Sys2Proof.Machine.execMqEnd s
  | .fabLoad => Sys2Proof.Machine.execFabLoad s
  | .fabStore => Sys2Proof.Machine.execFabStore s
  | .fabAtomic => Sys2Proof.Machine.execFabAtomic s
  | .fabReduce => Sys2Proof.Machine.execFabReduce s
  | .fabRelease => Sys2Proof.Machine.execFabRelease s
  | .fabClose => Sys2Proof.Machine.execFabClose s
  | .fabMcast => Sys2Proof.Machine.execFabMcast s
  | .fabData => Sys2Proof.Machine.execFabData s
  | .fabAck => Sys2Proof.Machine.execFabAck s
  | .fabError => Sys2Proof.Machine.execFabError s
  | .fabBusy => Sys2Proof.Machine.execFabBusy s
  | .busyResend => Sys2Proof.Machine.execBusyResend s
  | .linkmgmt => Sys2Proof.Machine.execLinkmgmt s
  | .timex => Sys2Proof.Machine.execTimex s
  | .timexRepeat => Sys2Proof.Machine.execTimexRepeat s
  | .escapeTimeout => Sys2Proof.Machine.execEscapeTimeout s
  | .responseTimeout => Sys2Proof.Machine.execResponseTimeout s
  | .flitResend => Sys2Proof.Machine.execFlitResend s
  | .linkUp => Sys2Proof.Machine.execLinkUp s
  | .pgresp => Sys2Proof.Machine.execPgresp s
  | .faultRecordWrite => Sys2Proof.Machine.execFaultRecordWrite s
  | .svcRecordWrite => Sys2Proof.Machine.execSvcRecordWrite s
  | .svcdone => Sys2Proof.Machine.execSvcdone s
  | .teamEnd => Sys2Proof.Machine.execTeamEnd s
  | .dispatchComplete => Sys2Proof.Machine.execDispatchComplete s
  | .commandDecode => Sys2Proof.Machine.execCommandDecode s
  | .cmdNop => Sys2Proof.Machine.execCmdNop s
  | .cmdLaunch => Sys2Proof.Machine.execCmdLaunch s
  | .cmdSignal => Sys2Proof.Machine.execCmdSignal s
  | .cmdWaitev => Sys2Proof.Machine.execCmdWaitev s
  | .cmdInval => Sys2Proof.Machine.execCmdInval s
  | .invalComplete => Sys2Proof.Machine.execInvalComplete s
  | .cmdScrub => Sys2Proof.Machine.execCmdScrub s
  | .blockPlace => Sys2Proof.Machine.execBlockPlace s
  | .concReserve => Sys2Proof.Machine.execConcReserve s
  | .timeSliceExpire => Sys2Proof.Machine.execTimeSliceExpire s
  | .saveBlock => Sys2Proof.Machine.execSaveBlock s
  | .ctlHalt => Sys2Proof.Machine.execCtlHalt s
  | .ctlRun => Sys2Proof.Machine.execCtlRun s
  | .ctlRetry => Sys2Proof.Machine.execCtlRetry s
  | .ctlSkip => Sys2Proof.Machine.execCtlSkip s
  | .ctlStep => Sys2Proof.Machine.execCtlStep s
  | .ctlKill => Sys2Proof.Machine.execCtlKill s
  | .cqDoorbell => Sys2Proof.Machine.execCqDoorbell s
  | .cqEnable => Sys2Proof.Machine.execCqEnable s
  | .svcringWrite => Sys2Proof.Machine.execSvcringWrite s
  | .fltringWrite => Sys2Proof.Machine.execFltringWrite s
  | .ctxtrWrite => Sys2Proof.Machine.execCtxtrWrite s
  | .registerWrite => Sys2Proof.Machine.execRegisterWrite s
  | .partMerge => Sys2Proof.Machine.execPartMerge s
  | .partSplit => Sys2Proof.Machine.execPartSplit s
  | .attestationReport => Sys2Proof.Machine.execAttestationReport s
  | .fwcommit => Sys2Proof.Machine.execFwcommit s
  | .recoveryWindowWrite => Sys2Proof.Machine.execRecoveryWindowWrite s
  | .recoveryGo => Sys2Proof.Machine.execRecoveryGo s
  | .mailboxWrite => Sys2Proof.Machine.execMailboxWrite s
  | .mailboxRead => Sys2Proof.Machine.execMailboxRead s
  | .powerOn => Sys2Proof.Machine.execPowerOn s
  | .packageReset => Sys2Proof.Machine.execPackageReset s
  | .stageA => Sys2Proof.Machine.execStageA s
  | .stageB => Sys2Proof.Machine.execStageB s
  | .stageC => Sys2Proof.Machine.execStageC s
  | .thermalHold => Sys2Proof.Machine.execThermalHold s
  | .thermalHoldClear => Sys2Proof.Machine.execThermalHoldClear s
  | .thermalGate => Sys2Proof.Machine.execThermalGate s
  | .thermalUngate => Sys2Proof.Machine.execThermalUngate s
  | .thermalTholdRelease => Sys2Proof.Machine.execThermalTholdRelease s
  | .correctedError => Sys2Proof.Machine.execCorrectedError s
  | .uncorrectableError => Sys2Proof.Machine.execUncorrectableError s
  | .healthWindowBoundary => Sys2Proof.Machine.execHealthWindowBoundary s
  | .errorResend => Sys2Proof.Machine.execErrorResend s
  | .cuffStamp => Sys2Proof.Machine.execCuffStamp s
  | .cuffDeliver => Sys2Proof.Machine.execCuffDeliver s
  | .cuffReplayDeliver => Sys2Proof.Machine.execCuffReplayDeliver s
  | .cuffcfgWrite => Sys2Proof.Machine.execCuffcfgWrite s
  | .cuffModeApply => Sys2Proof.Machine.execCuffModeApply s
  | .packageStop => Sys2Proof.Machine.execPackageStop s
  | .visorScan => Sys2Proof.Machine.execVisorScan s
  | .visorLoad => Sys2Proof.Machine.execVisorLoad s
  | .visorResume => Sys2Proof.Machine.execVisorResume s
  | .trcbcWrite => Sys2Proof.Machine.execTrcbcWrite s
  | .traceCounterWriteback => Sys2Proof.Machine.execTraceCounterWriteback s
  | .linkFailure => Sys2Proof.Machine.execLinkFailure s
  | .pcieCompletion => Sys2Proof.Machine.execPcieCompletion s
  | .reservedKindDiscard => Sys2Proof.Machine.execReservedKindDiscard s

end Sys2Proof.Machine
end

