-- ==== Sys2Proof/WellFormed.lean ====
section
/-! DEFINITION. Well-formed instructions: every operand code is of a class its field accepts, every unused field is
zero and every number is one the entry lists (R226, R263, R264, R265, R380). What depends on MODE, on the clause or on
the registers is checked at issue (R273). -/
namespace Sys2Proof

/-- A well-formed instruction form; the operations and events carry no operand codes and are well formed. -/
def Instr.wellFormed (i : Instr) : Bool :=
  match Forms.fieldsOf i with
  | some f => Forms.staticOk f
  | none => true

end Sys2Proof
end

