-- ==== Sys2Proof/Decode.lean ====
section
/-! DEFINITION. The decoder of instruction words and the encoder beside it (R263, R275), on words and on bytes in memory
order (R7). A word of an unassigned opcode, or with a bit set that its form gives no meaning, is refused by name. -/
namespace Sys2Proof

/-- Why a word is no instruction (R273 checks 1 and 2). -/
inductive DecodeError where
  /-- the opcode map gives the code no form (R275) -/
  | unassignedOpcode (op : BitVec 8)
  /-- a bit outside the form's fields is set: a field it does not use, or a number beyond the field (R263, R265) -/
  | reservedField (op : BitVec 8)
  /-- fewer than four bytes -/
  | tooShort
  deriving DecidableEq, Repr

/-- The opcode of a word: bits [31:24] (R263). -/
def opcodeOf (w : Word) : BitVec 8 := w.extractLsb' 24 8

/-- Reads the fields of one form when the bits of `mask` have the values of `pat`; else the word is refused. -/
def decodeRow (w mask pat : Word) (i : Instr) : Except DecodeError Instr :=
  if w &&& mask = pat then .ok i else .error (.reservedField (opcodeOf w))

/-- The form of an instruction word by its opcode (R275), with the fields of its entry. -/
def decode (w : Word) : Except DecodeError Instr :=
  match (opcodeOf w).toNat with
  | 0x00 => decodeRow w 0xFFFFFFFF 0x00000000 (.nop)
  | 0x01 => decodeRow w 0xFFFFFF00 0x01000000 (.bra (w.extractLsb' 0 8))
  | 0x02 => decodeRow w 0xFF000000 0x02000000 (.brp (w.extractLsb' 16 8) (w.extractLsb' 8 8) (w.extractLsb' 0 8))
  | 0x03 => decodeRow w 0xFFFF0000 0x03000000 (.brany (w.extractLsb' 8 8) (w.extractLsb' 0 8))
  | 0x04 => decodeRow w 0xFFFF0000 0x04000000 (.brall (w.extractLsb' 8 8) (w.extractLsb' 0 8))
  | 0x05 => decodeRow w 0xFFFFFFFF 0x05000000 (.join)
  | 0x06 => decodeRow w 0xFFFF00FF 0x06000000 (.btbl (w.extractLsb' 8 8))
  | 0x07 => decodeRow w 0xFF00FF00 0x07000000 (.call (w.extractLsb' 16 8) (w.extractLsb' 0 8))
  | 0x08 => decodeRow w 0xFF0000FF 0x08000000 (.calli (w.extractLsb' 16 8) (w.extractLsb' 8 8))
  | 0x09 => decodeRow w 0xFFFF00FF 0x09000000 (.ret (w.extractLsb' 8 8))
  | 0x0A => decodeRow w 0xFFFFFFFF 0x0A000000 (.exit)
  | 0x0B => decodeRow w 0xFFFF0000 0x0B000000 (.modeset (w.extractLsb' 8 8) (w.extractLsb' 0 8))
  | 0x0C => decodeRow w 0xFFFFF8FE 0x0C00C000 (.modegrd (w.extractLsb' 8 3) (w.extractLsb' 0 1))
  | 0x0D => decodeRow w 0xFFFFE0FF 0x0D000000 (.modetyp (w.extractLsb' 8 5))
  | 0x0E => decodeRow w 0xFFFFF8FF 0x0E000000 (.modernd (w.extractLsb' 8 3))
  | 0x0F => decodeRow w 0xFFFFFFFF 0x0F000000 (.yield)
  | 0x10 => decodeRow w 0xFF000000 0x10000000 (.iadd (w.extractLsb' 16 8) (w.extractLsb' 8 8) (w.extractLsb' 0 8))
  | 0x11 => decodeRow w 0xFF000000 0x11000000 (.isub (w.extractLsb' 16 8) (w.extractLsb' 8 8) (w.extractLsb' 0 8))
  | 0x12 => decodeRow w 0xFF000000 0x12000000 (.imul (w.extractLsb' 16 8) (w.extractLsb' 8 8) (w.extractLsb' 0 8))
  | 0x13 => decodeRow w 0xFF000000 0x13000000 (.imulh (w.extractLsb' 16 8) (w.extractLsb' 8 8) (w.extractLsb' 0 8))
  | 0x14 => decodeRow w 0xFF000000 0x14000000 (.imad (w.extractLsb' 16 8) (w.extractLsb' 8 8) (w.extractLsb' 0 8))
  | 0x15 => decodeRow w 0xFF000000 0x15000000 (.idiv (w.extractLsb' 16 8) (w.extractLsb' 8 8) (w.extractLsb' 0 8))
  | 0x16 => decodeRow w 0xFF000000 0x16000000 (.irem (w.extractLsb' 16 8) (w.extractLsb' 8 8) (w.extractLsb' 0 8))
  | 0x17 => decodeRow w 0xFF000000 0x17000000 (.imin (w.extractLsb' 16 8) (w.extractLsb' 8 8) (w.extractLsb' 0 8))
  | 0x18 => decodeRow w 0xFF000000 0x18000000 (.imax (w.extractLsb' 16 8) (w.extractLsb' 8 8) (w.extractLsb' 0 8))
  | 0x19 => decodeRow w 0xFF0000FF 0x19000000 (.iabs (w.extractLsb' 16 8) (w.extractLsb' 8 8))
  | 0x1A => decodeRow w 0xFF0000FF 0x1A000000 (.ineg (w.extractLsb' 16 8) (w.extractLsb' 8 8))
  | 0x1B => decodeRow w 0xFF000000 0x1B000000 (.and (w.extractLsb' 16 8) (w.extractLsb' 8 8) (w.extractLsb' 0 8))
  | 0x1C => decodeRow w 0xFF000000 0x1C000000 (.or (w.extractLsb' 16 8) (w.extractLsb' 8 8) (w.extractLsb' 0 8))
  | 0x1D => decodeRow w 0xFF000000 0x1D000000 (.xor (w.extractLsb' 16 8) (w.extractLsb' 8 8) (w.extractLsb' 0 8))
  | 0x1E => decodeRow w 0xFF000000 0x1E000000 (.andn (w.extractLsb' 16 8) (w.extractLsb' 8 8) (w.extractLsb' 0 8))
  | 0x1F => decodeRow w 0xFF0000FF 0x1F000000 (.not (w.extractLsb' 16 8) (w.extractLsb' 8 8))
  | 0x20 => decodeRow w 0xFF000000 0x20000000 (.shl (w.extractLsb' 16 8) (w.extractLsb' 8 8) (w.extractLsb' 0 8))
  | 0x21 => decodeRow w 0xFF000000 0x21000000 (.shr (w.extractLsb' 16 8) (w.extractLsb' 8 8) (w.extractLsb' 0 8))
  | 0x22 => decodeRow w 0xFF000000 0x22000000 (.sar (w.extractLsb' 16 8) (w.extractLsb' 8 8) (w.extractLsb' 0 8))
  | 0x23 => decodeRow w 0xFF000000 0x23000000 (.rol (w.extractLsb' 16 8) (w.extractLsb' 8 8) (w.extractLsb' 0 8))
  | 0x24 => decodeRow w 0xFF0000FF 0x24000000 (.popc (w.extractLsb' 16 8) (w.extractLsb' 8 8))
  | 0x25 => decodeRow w 0xFF0000FF 0x25000000 (.clz (w.extractLsb' 16 8) (w.extractLsb' 8 8))
  | 0x26 => decodeRow w 0xFF0000FF 0x26000000 (.ctz (w.extractLsb' 16 8) (w.extractLsb' 8 8))
  | 0x27 => decodeRow w 0xFF0000FF 0x27000000 (.brev (w.extractLsb' 16 8) (w.extractLsb' 8 8))
  | 0x28 => decodeRow w 0xFF000000 0x28000000 (.bfx (w.extractLsb' 16 8) (w.extractLsb' 8 8) (w.extractLsb' 0 8))
  | 0x29 => decodeRow w 0xFF000000 0x29000000 (.bfi (w.extractLsb' 16 8) (w.extractLsb' 8 8) (w.extractLsb' 0 8))
  | 0x2A => decodeRow w 0xFF000000 0x2A000000 (.sel (w.extractLsb' 16 8) (w.extractLsb' 8 8) (w.extractLsb' 0 8))
  | 0x2B => decodeRow w 0xFF0000FF 0x2B000000 (.mov (w.extractLsb' 16 8) (w.extractLsb' 8 8))
  | 0x2C => decodeRow w 0xFF000000 0x2C000000 (.icmpeq (w.extractLsb' 16 8) (w.extractLsb' 8 8) (w.extractLsb' 0 8))
  | 0x2D => decodeRow w 0xFF000000 0x2D000000 (.icmpne (w.extractLsb' 16 8) (w.extractLsb' 8 8) (w.extractLsb' 0 8))
  | 0x2E => decodeRow w 0xFF000000 0x2E000000 (.icmplt (w.extractLsb' 16 8) (w.extractLsb' 8 8) (w.extractLsb' 0 8))
  | 0x2F => decodeRow w 0xFF000000 0x2F000000 (.icmple (w.extractLsb' 16 8) (w.extractLsb' 8 8) (w.extractLsb' 0 8))
  | 0x30 => decodeRow w 0xFF000000 0x30000000 (.icmpgt (w.extractLsb' 16 8) (w.extractLsb' 8 8) (w.extractLsb' 0 8))
  | 0x31 => decodeRow w 0xFF000000 0x31000000 (.icmpge (w.extractLsb' 16 8) (w.extractLsb' 8 8) (w.extractLsb' 0 8))
  | 0x32 => decodeRow w 0xFF000000 0x32000000 (.iadd64 (w.extractLsb' 16 8) (w.extractLsb' 8 8) (w.extractLsb' 0 8))
  | 0x33 => decodeRow w 0xFF000000 0x33000000 (.isub64 (w.extractLsb' 16 8) (w.extractLsb' 8 8) (w.extractLsb' 0 8))
  | 0x34 => decodeRow w 0xFF000000 0x34000000 (.adda (w.extractLsb' 16 8) (w.extractLsb' 8 8) (w.extractLsb' 0 8))
  | 0x35 => decodeRow w 0xFF000000 0x35000000 (.tagset (w.extractLsb' 16 8) (w.extractLsb' 8 8) (w.extractLsb' 0 8))
  | 0x36 => decodeRow w 0xFF0000FF 0x36000000 (.tagget (w.extractLsb' 16 8) (w.extractLsb' 8 8))
  | 0x37 => decodeRow w 0xFF000000 0x37000000 (.bdmake (w.extractLsb' 16 8) (w.extractLsb' 8 8) (w.extractLsb' 0 8))
  | 0x38 => decodeRow w 0xFF000000 0x38000000 (.bdnarrow (w.extractLsb' 16 8) (w.extractLsb' 8 8) (w.extractLsb' 0 8))
  | 0x39 => decodeRow w 0xFF000000 0x39000000 (.bdquery (w.extractLsb' 16 8) (w.extractLsb' 8 8) (w.extractLsb' 0 8))
  | 0x40 => decodeRow w 0xFF000000 0x40000000 (.fadd (w.extractLsb' 16 8) (w.extractLsb' 8 8) (w.extractLsb' 0 8))
  | 0x41 => decodeRow w 0xFF000000 0x41000000 (.fsub (w.extractLsb' 16 8) (w.extractLsb' 8 8) (w.extractLsb' 0 8))
  | 0x42 => decodeRow w 0xFF000000 0x42000000 (.fmul (w.extractLsb' 16 8) (w.extractLsb' 8 8) (w.extractLsb' 0 8))
  | 0x43 => decodeRow w 0xFF000000 0x43000000 (.fma (w.extractLsb' 16 8) (w.extractLsb' 8 8) (w.extractLsb' 0 8))
  | 0x44 => decodeRow w 0xFF000000 0x44000000 (.fms (w.extractLsb' 16 8) (w.extractLsb' 8 8) (w.extractLsb' 0 8))
  | 0x45 => decodeRow w 0xFF000000 0x45000000 (.fnma (w.extractLsb' 16 8) (w.extractLsb' 8 8) (w.extractLsb' 0 8))
  | 0x46 => decodeRow w 0xFF000000 0x46000000 (.fmin (w.extractLsb' 16 8) (w.extractLsb' 8 8) (w.extractLsb' 0 8))
  | 0x47 => decodeRow w 0xFF000000 0x47000000 (.fmax (w.extractLsb' 16 8) (w.extractLsb' 8 8) (w.extractLsb' 0 8))
  | 0x48 => decodeRow w 0xFF000000 0x48000000 (.fminm (w.extractLsb' 16 8) (w.extractLsb' 8 8) (w.extractLsb' 0 8))
  | 0x49 => decodeRow w 0xFF000000 0x49000000 (.fmaxm (w.extractLsb' 16 8) (w.extractLsb' 8 8) (w.extractLsb' 0 8))
  | 0x4A => decodeRow w 0xFF0000FF 0x4A000000 (.fabs (w.extractLsb' 16 8) (w.extractLsb' 8 8))
  | 0x4B => decodeRow w 0xFF0000FF 0x4B000000 (.fneg (w.extractLsb' 16 8) (w.extractLsb' 8 8))
  | 0x4C => decodeRow w 0xFF000000 0x4C000000 (.fcopysign (w.extractLsb' 16 8) (w.extractLsb' 8 8) (w.extractLsb' 0 8))
  | 0x4D => decodeRow w 0xFF000000 0x4D000000 (.fcmpeq (w.extractLsb' 16 8) (w.extractLsb' 8 8) (w.extractLsb' 0 8))
  | 0x4E => decodeRow w 0xFF000000 0x4E000000 (.fcmpne (w.extractLsb' 16 8) (w.extractLsb' 8 8) (w.extractLsb' 0 8))
  | 0x4F => decodeRow w 0xFF000000 0x4F000000 (.fcmplt (w.extractLsb' 16 8) (w.extractLsb' 8 8) (w.extractLsb' 0 8))
  | 0x50 => decodeRow w 0xFF000000 0x50000000 (.fcmple (w.extractLsb' 16 8) (w.extractLsb' 8 8) (w.extractLsb' 0 8))
  | 0x51 => decodeRow w 0xFF000000 0x51000000 (.fcmpun (w.extractLsb' 16 8) (w.extractLsb' 8 8) (w.extractLsb' 0 8))
  | 0x52 => decodeRow w 0xFF0000FF 0x52000000 (.fclass (w.extractLsb' 16 8) (w.extractLsb' 8 8))
  | 0x53 => decodeRow w 0xFF0000FF 0x53000000 (.frcp (w.extractLsb' 16 8) (w.extractLsb' 8 8))
  | 0x54 => decodeRow w 0xFF0000FF 0x54000000 (.frsq (w.extractLsb' 16 8) (w.extractLsb' 8 8))
  | 0x55 => decodeRow w 0xFF0000FF 0x55000000 (.fsqrt (w.extractLsb' 16 8) (w.extractLsb' 8 8))
  | 0x56 => decodeRow w 0xFF000000 0x56000000 (.fdiv (w.extractLsb' 16 8) (w.extractLsb' 8 8) (w.extractLsb' 0 8))
  | 0x57 => decodeRow w 0xFF0000FF 0x57000000 (.fexp2 (w.extractLsb' 16 8) (w.extractLsb' 8 8))
  | 0x58 => decodeRow w 0xFF0000FF 0x58000000 (.flog2 (w.extractLsb' 16 8) (w.extractLsb' 8 8))
  | 0x59 => decodeRow w 0xFF0000FF 0x59000000 (.fsin (w.extractLsb' 16 8) (w.extractLsb' 8 8))
  | 0x5A => decodeRow w 0xFF0000FF 0x5A000000 (.fcos (w.extractLsb' 16 8) (w.extractLsb' 8 8))
  | 0x5B => decodeRow w 0xFF0000FF 0x5B000000 (.ftanh (w.extractLsb' 16 8) (w.extractLsb' 8 8))
  | 0x5C => decodeRow w 0xFF0000FF 0x5C000000 (.ffloor (w.extractLsb' 16 8) (w.extractLsb' 8 8))
  | 0x5D => decodeRow w 0xFF0000FF 0x5D000000 (.fceil (w.extractLsb' 16 8) (w.extractLsb' 8 8))
  | 0x5E => decodeRow w 0xFF0000FF 0x5E000000 (.ftrunc (w.extractLsb' 16 8) (w.extractLsb' 8 8))
  | 0x5F => decodeRow w 0xFF0000FF 0x5F000000 (.frint (w.extractLsb' 16 8) (w.extractLsb' 8 8))
  | 0x60 => decodeRow w 0xFF000000 0x60000000 (.fldexp (w.extractLsb' 16 8) (w.extractLsb' 8 8) (w.extractLsb' 0 8))
  | 0x61 => decodeRow w 0xFF0000FF 0x61000000 (.fgetexp (w.extractLsb' 16 8) (w.extractLsb' 8 8))
  | 0x62 => decodeRow w 0xFF000000 0x62000000 (.fdot2 (w.extractLsb' 16 8) (w.extractLsb' 8 8) (w.extractLsb' 0 8))
  | 0x63 => decodeRow w 0xFF000000 0x63000000 (.fdot4 (w.extractLsb' 16 8) (w.extractLsb' 8 8) (w.extractLsb' 0 8))
  | 0x70 => decodeRow w 0xFF000000 0x70000000 (.cvtff (w.extractLsb' 16 8) (w.extractLsb' 8 8) (w.extractLsb' 0 8))
  | 0x71 => decodeRow w 0xFF000000 0x71000000 (.cvtfi (w.extractLsb' 16 8) (w.extractLsb' 8 8) (w.extractLsb' 0 8))
  | 0x72 => decodeRow w 0xFF000000 0x72000000 (.cvtif (w.extractLsb' 16 8) (w.extractLsb' 8 8) (w.extractLsb' 0 8))
  | 0x73 => decodeRow w 0xFF000000 0x73000000 (.cvtii (w.extractLsb' 16 8) (w.extractLsb' 8 8) (w.extractLsb' 0 8))
  | 0x74 => decodeRow w 0xFF000000 0x74000000 (.qpack (w.extractLsb' 16 8) (w.extractLsb' 8 8) (w.extractLsb' 0 8))
  | 0x75 => decodeRow w 0xFF000000 0x75000000 (.qunpack (w.extractLsb' 16 8) (w.extractLsb' 8 8) (w.extractLsb' 0 8))
  | 0x76 => decodeRow w 0xFF000000 0x76000000 (.scalemake (w.extractLsb' 16 8) (w.extractLsb' 8 8) (w.extractLsb' 0 8))
  | 0x77 => decodeRow w 0xFF000000 0x77000000 (.pack2 (w.extractLsb' 16 8) (w.extractLsb' 8 8) (w.extractLsb' 0 8))
  | 0x78 => decodeRow w 0xFFFF00FF 0x78000000 (.srseed (w.extractLsb' 8 8))
  | 0x80 => decodeRow w 0xFF0000FF 0x80000000 (.qswapx (w.extractLsb' 16 8) (w.extractLsb' 8 8))
  | 0x81 => decodeRow w 0xFF0000FF 0x81000000 (.qswapy (w.extractLsb' 16 8) (w.extractLsb' 8 8))
  | 0x82 => decodeRow w 0xFF0000FF 0x82000000 (.qswapd (w.extractLsb' 16 8) (w.extractLsb' 8 8))
  | 0x83 => decodeRow w 0xFF000000 0x83000000 (.qbcast (w.extractLsb' 16 8) (w.extractLsb' 8 8) (w.extractLsb' 0 8))
  | 0x84 => decodeRow w 0xFF000000 0x84000000 (.lshfl (w.extractLsb' 16 8) (w.extractLsb' 8 8) (w.extractLsb' 0 8))
  | 0x85 => decodeRow w 0xFF000000 0x85000000 (.lshflup (w.extractLsb' 16 8) (w.extractLsb' 8 8) (w.extractLsb' 0 8))
  | 0x86 => decodeRow w 0xFF000000 0x86000000 (.lshfldn (w.extractLsb' 16 8) (w.extractLsb' 8 8) (w.extractLsb' 0 8))
  | 0x87 => decodeRow w 0xFF000000 0x87000000 (.lbcast (w.extractLsb' 16 8) (w.extractLsb' 8 8) (w.extractLsb' 0 8))
  | 0x88 => decodeRow w 0xFF000000 0x88000000 (.lvote (w.extractLsb' 16 8) (w.extractLsb' 8 8) (w.extractLsb' 0 8))
  | 0x89 => decodeRow w 0xFF0000FF 0x89000000 (.lpopc (w.extractLsb' 16 8) (w.extractLsb' 8 8))
  | 0x8A => decodeRow w 0xFF000000 0x8A000000 (.lscan (w.extractLsb' 16 8) (w.extractLsb' 8 8) (w.extractLsb' 0 8))
  | 0x8B => decodeRow w 0xFF000000 0x8B000000 (.lred (w.extractLsb' 16 8) (w.extractLsb' 8 8) (w.extractLsb' 0 8))
  | 0x8C => decodeRow w 0xFF0000FF 0x8C000000 (.lfirst (w.extractLsb' 16 8) (w.extractLsb' 8 8))
  | 0x8D => decodeRow w 0xFF0000FF 0x8D000000 (.lmatch (w.extractLsb' 16 8) (w.extractLsb' 8 8))
  | 0x8E => decodeRow w 0xFF000000 0x8E000000 (.rdlane (w.extractLsb' 16 8) (w.extractLsb' 8 8) (w.extractLsb' 0 8))
  | 0x8F => decodeRow w 0xFF000000 0x8F000000 (.wrlane (w.extractLsb' 16 8) (w.extractLsb' 8 8) (w.extractLsb' 0 8))
  | 0x90 => decodeRow w 0xFF000000 0x90000000 (.ld (w.extractLsb' 16 8) (w.extractLsb' 8 8) (w.extractLsb' 0 8))
  | 0x91 => decodeRow w 0xFF000000 0x91000000 (.st (w.extractLsb' 16 8) (w.extractLsb' 8 8) (w.extractLsb' 0 8))
  | 0x92 => decodeRow w 0xFF000000 0x92000000 (.ldb (w.extractLsb' 16 8) (w.extractLsb' 8 8) (w.extractLsb' 0 8))
  | 0x93 => decodeRow w 0xFF000000 0x93000000 (.ldbz (w.extractLsb' 16 8) (w.extractLsb' 8 8) (w.extractLsb' 0 8))
  | 0x94 => decodeRow w 0xFF000000 0x94000000 (.stb (w.extractLsb' 16 8) (w.extractLsb' 8 8) (w.extractLsb' 0 8))
  | 0x95 => decodeRow w 0xFF000000 0x95000000 (.lds (w.extractLsb' 16 8) (w.extractLsb' 8 8) (w.extractLsb' 0 8))
  | 0x96 => decodeRow w 0xFF000000 0x96000000 (.sts (w.extractLsb' 16 8) (w.extractLsb' 8 8) (w.extractLsb' 0 8))
  | 0x97 => decodeRow w 0xFF000000 0x97000000 (.ldacq (w.extractLsb' 16 8) (w.extractLsb' 8 8) (w.extractLsb' 0 8))
  | 0x98 => decodeRow w 0xFF000000 0x98000000 (.strel (w.extractLsb' 16 8) (w.extractLsb' 8 8) (w.extractLsb' 0 8))
  | 0x99 => decodeRow w 0xFF000000 0x99000000 (.ldnt (w.extractLsb' 16 8) (w.extractLsb' 8 8) (w.extractLsb' 0 8))
  | 0x9A => decodeRow w 0xFFFF0000 0x9A000000 (.pref (w.extractLsb' 8 8) (w.extractLsb' 0 8))
  | 0x9B => decodeRow w 0xFFFF0000 0x9B000000 (.cctl (w.extractLsb' 8 8) (w.extractLsb' 0 8))
  | 0x9C => decodeRow w 0xFF0000FF 0x9C000000 (.sttag (w.extractLsb' 16 8) (w.extractLsb' 8 8))
  | 0x9D => decodeRow w 0xFF0000FF 0x9D000000 (.ldtag (w.extractLsb' 16 8) (w.extractLsb' 8 8))
  | 0x9E => decodeRow w 0xFF000000 0x9E000000 (.ldsc (w.extractLsb' 16 8) (w.extractLsb' 8 8) (w.extractLsb' 0 8))
  | 0xA0 => decodeRow w 0xFF000000 0xA0000000 (.aadd (w.extractLsb' 16 8) (w.extractLsb' 8 8) (w.extractLsb' 0 8))
  | 0xA1 => decodeRow w 0xFF000000 0xA1000000 (.amin (w.extractLsb' 16 8) (w.extractLsb' 8 8) (w.extractLsb' 0 8))
  | 0xA2 => decodeRow w 0xFF000000 0xA2000000 (.amax (w.extractLsb' 16 8) (w.extractLsb' 8 8) (w.extractLsb' 0 8))
  | 0xA3 => decodeRow w 0xFF000000 0xA3000000 (.aand (w.extractLsb' 16 8) (w.extractLsb' 8 8) (w.extractLsb' 0 8))
  | 0xA4 => decodeRow w 0xFF000000 0xA4000000 (.aor (w.extractLsb' 16 8) (w.extractLsb' 8 8) (w.extractLsb' 0 8))
  | 0xA5 => decodeRow w 0xFF000000 0xA5000000 (.axor (w.extractLsb' 16 8) (w.extractLsb' 8 8) (w.extractLsb' 0 8))
  | 0xA6 => decodeRow w 0xFF000000 0xA6000000 (.axchg (w.extractLsb' 16 8) (w.extractLsb' 8 8) (w.extractLsb' 0 8))
  | 0xA7 => decodeRow w 0xFF000000 0xA7000000 (.acas (w.extractLsb' 16 8) (w.extractLsb' 8 8) (w.extractLsb' 0 8))
  | 0xA8 => decodeRow w 0xFF000000 0xA8000000 (.afadd (w.extractLsb' 16 8) (w.extractLsb' 8 8) (w.extractLsb' 0 8))
  | 0xB0 => decodeRow w 0xFFFF0000 0xB0000000 (.redadd (w.extractLsb' 8 8) (w.extractLsb' 0 8))
  | 0xB1 => decodeRow w 0xFFFF0000 0xB1000000 (.redmin (w.extractLsb' 8 8) (w.extractLsb' 0 8))
  | 0xB2 => decodeRow w 0xFFFF0000 0xB2000000 (.redmax (w.extractLsb' 8 8) (w.extractLsb' 0 8))
  | 0xB3 => decodeRow w 0xFFFF0000 0xB3000000 (.redand (w.extractLsb' 8 8) (w.extractLsb' 0 8))
  | 0xB4 => decodeRow w 0xFFFF0000 0xB4000000 (.redor (w.extractLsb' 8 8) (w.extractLsb' 0 8))
  | 0xB5 => decodeRow w 0xFFFF0000 0xB5000000 (.redxor (w.extractLsb' 8 8) (w.extractLsb' 0 8))
  | 0xB6 => decodeRow w 0xFFFF0000 0xB6000000 (.redfadd (w.extractLsb' 8 8) (w.extractLsb' 0 8))
  | 0xB8 => decodeRow w 0xFFFFFF00 0xB8000000 (.fence (w.extractLsb' 0 8))
  | 0xB9 => decodeRow w 0xFF000000 0xB9000000 (.waiteq (w.extractLsb' 16 8) (w.extractLsb' 8 8) (w.extractLsb' 0 8))
  | 0xBA => decodeRow w 0xFF000000 0xBA000000 (.waitne (w.extractLsb' 16 8) (w.extractLsb' 8 8) (w.extractLsb' 0 8))
  | 0xC0 => decodeRow w 0xFF000000 0xC0000000 (.xcopy (w.extractLsb' 16 8) (w.extractLsb' 8 8) (w.extractLsb' 0 8))
  | 0xC1 => decodeRow w 0xFF000000 0xC1000000 (.xcopyt (w.extractLsb' 16 8) (w.extractLsb' 8 8) (w.extractLsb' 0 8))
  | 0xC2 => decodeRow w 0xFF000000 0xC2000000 (.xgather (w.extractLsb' 16 8) (w.extractLsb' 8 8) (w.extractLsb' 0 8))
  | 0xC3 => decodeRow w 0xFF000000 0xC3000000 (.xfill (w.extractLsb' 16 8) (w.extractLsb' 8 8) (w.extractLsb' 0 8))
  | 0xC4 => decodeRow w 0xFFF000FF 0xC4000000 (.gbind (w.extractLsb' 16 4) (w.extractLsb' 8 8))
  | 0xC5 => decodeRow w 0xFF000000 0xC5000000 (.hld (w.extractLsb' 16 8) (w.extractLsb' 8 8) (w.extractLsb' 0 8))
  | 0xC6 => decodeRow w 0xFF0000F0 0xC6000000 (.hstep (w.extractLsb' 16 8) (w.extractLsb' 8 8) (w.extractLsb' 0 4))
  | 0xC7 => decodeRow w 0xFF0000F0 0xC7000000 (.hquery (w.extractLsb' 16 8) (w.extractLsb' 8 8) (w.extractLsb' 0 4))
  | 0xC8 => decodeRow w 0xFF000000 0xC8000000 (.rstrel (w.extractLsb' 16 8) (w.extractLsb' 8 8) (w.extractLsb' 0 8))
  | 0xC9 => decodeRow w 0xFF0000FF 0xC9000000 (.rmcast (w.extractLsb' 16 8) (w.extractLsb' 8 8))
  | 0xCA => decodeRow w 0xFFFFFFFF 0xCA000000 (.rfence)
  | 0xCB => decodeRow w 0xFFFF0000 0xCB000000 (.rstream (w.extractLsb' 8 8) (w.extractLsb' 0 8))
  | 0xD0 => decodeRow w 0xFF000000 0xD0000000 (.mmae4 (w.extractLsb' 16 8) (w.extractLsb' 8 8) (w.extractLsb' 0 8))
  | 0xD1 => decodeRow w 0xFF000000 0xD1000000 (.mmae5 (w.extractLsb' 16 8) (w.extractLsb' 8 8) (w.extractLsb' 0 8))
  | 0xD2 => decodeRow w 0xFF000000 0xD2000000 (.mmabf (w.extractLsb' 16 8) (w.extractLsb' 8 8) (w.extractLsb' 0 8))
  | 0xD3 => decodeRow w 0xFF000000 0xD3000000 (.mmahf (w.extractLsb' 16 8) (w.extractLsb' 8 8) (w.extractLsb' 0 8))
  | 0xD4 => decodeRow w 0xFF000000 0xD4000000 (.mmas8 (w.extractLsb' 16 8) (w.extractLsb' 8 8) (w.extractLsb' 0 8))
  | 0xD5 => decodeRow w 0xFF000000 0xD5000000 (.mmaq4 (w.extractLsb' 16 8) (w.extractLsb' 8 8) (w.extractLsb' 0 8))
  | 0xD6 => decodeRow w 0xFF000000 0xD6000000 (.mmqe4 (w.extractLsb' 16 8) (w.extractLsb' 8 8) (w.extractLsb' 0 8))
  | 0xD7 => decodeRow w 0xFF000000 0xD7000000 (.mmqe5 (w.extractLsb' 16 8) (w.extractLsb' 8 8) (w.extractLsb' 0 8))
  | 0xD8 => decodeRow w 0xFF000000 0xD8000000 (.mmqbf (w.extractLsb' 16 8) (w.extractLsb' 8 8) (w.extractLsb' 0 8))
  | 0xD9 => decodeRow w 0xFF000000 0xD9000000 (.mmqhf (w.extractLsb' 16 8) (w.extractLsb' 8 8) (w.extractLsb' 0 8))
  | 0xDA => decodeRow w 0xFF000000 0xDA000000 (.mmqs8 (w.extractLsb' 16 8) (w.extractLsb' 8 8) (w.extractLsb' 0 8))
  | 0xDB => decodeRow w 0xFF000000 0xDB000000 (.mmqq4 (w.extractLsb' 16 8) (w.extractLsb' 8 8) (w.extractLsb' 0 8))
  | 0xDC => decodeRow w 0xFFF8FFFF 0xDC000000 (.mzero (w.extractLsb' 16 3))
  | 0xDD => decodeRow w 0xFF000000 0xDD000000 (.mldacc (w.extractLsb' 16 8) (w.extractLsb' 8 8) (w.extractLsb' 0 8))
  | 0xDE => decodeRow w 0xFF000000 0xDE000000 (.mdrain (w.extractLsb' 16 8) (w.extractLsb' 8 8) (w.extractLsb' 0 8))
  | 0xDF => decodeRow w 0xFF000000 0xDF000000 (.mdraint (w.extractLsb' 16 8) (w.extractLsb' 8 8) (w.extractLsb' 0 8))
  | 0xE0 => decodeRow w 0xFFF000FF 0xE0000000 (.barinit (w.extractLsb' 16 4) (w.extractLsb' 8 8))
  | 0xE1 => decodeRow w 0xFFF0F8FF 0xE1000000 (.bararv (w.extractLsb' 16 4) (w.extractLsb' 8 3))
  | 0xE2 => decodeRow w 0xFFF000FF 0xE2000000 (.barexp (w.extractLsb' 16 4) (w.extractLsb' 8 8))
  | 0xE3 => decodeRow w 0xFFF000F8 0xE3000000 (.barwait (w.extractLsb' 16 4) (w.extractLsb' 8 8) (w.extractLsb' 0 3))
  | 0xE4 => decodeRow w 0xFF00F000 0xE4000000 (.bartest (w.extractLsb' 16 8) (w.extractLsb' 8 4) (w.extractLsb' 0 8))
  | 0xE5 => decodeRow w 0xFF0000FE 0xE5000000 (.fwait (w.extractLsb' 16 8) (w.extractLsb' 8 8) (w.extractLsb' 0 1))
  | 0xE6 => decodeRow w 0xFF0000FE 0xE6000000 (.ftest (w.extractLsb' 16 8) (w.extractLsb' 8 8) (w.extractLsb' 0 1))
  | 0xE7 => decodeRow w 0xFFFF00FF 0xE7000000 (.fcancel (w.extractLsb' 8 8))
  | 0xE8 => decodeRow w 0xFFFFFFFF 0xE8000000 (.mready)
  | 0xE9 => decodeRow w 0xFFFF00FF 0xE9000000 (.sleep (w.extractLsb' 8 8))
  | 0xF0 => decodeRow w 0xFFFF00FF 0xF0000000 (.trap (w.extractLsb' 8 8))
  | 0xF1 => decodeRow w 0xFF0000FF 0xF1000000 (.svc (w.extractLsb' 16 8) (w.extractLsb' 8 8))
  | 0xF2 => decodeRow w 0xFFFFFFFF 0xF2000000 (.rte)
  | 0xF3 => decodeRow w 0xFF00F000 0xF3000000 (.rdsr (w.extractLsb' 16 8) (w.extractLsb' 8 4) (w.extractLsb' 0 8))
  | 0xF4 => decodeRow w 0xFFF000FF 0xF4000000 (.wrsr (w.extractLsb' 16 4) (w.extractLsb' 8 8))
  | 0xF5 => decodeRow w 0xFF00FEFF 0xF5000000 (.cycle (w.extractLsb' 16 8) (w.extractLsb' 8 1))
  | 0xF6 => decodeRow w 0xFFFF00FF 0xF6000000 (.bbhint (w.extractLsb' 8 8))
  | 0xF7 => decodeRow w 0xFFFF00FF 0xF7000000 (.bkpt (w.extractLsb' 8 8))
  | _ => .error (.unassignedOpcode (opcodeOf w))

/-- The word of an instruction, from the fields of its encoding; the operations and events have none. -/
def encode (i : Instr) : Option Word := (Forms.fieldsOf i).map Forms.Fields.word


/-- A word from four bytes, the first at the lowest address and least significant (R7, R252). -/
def wordOfBytes (b0 b1 b2 b3 : Byte) : Word := b3 ++ b2 ++ b1 ++ b0

/-- The first word of bytes in memory order, and the bytes after it. -/
def takeWord : List Byte → Option (Word × List Byte)
  | b0 :: b1 :: b2 :: b3 :: rest => some (wordOfBytes b0 b1 b2 b3, rest)
  | _ => none

/-- Decodes the instruction at the head of a byte sequence. -/
def decodeBytes (bs : List Byte) : Except DecodeError (Instr × List Byte) :=
  match takeWord bs with
  | none => .error .tooShort
  | some (w, rest) => (decode w).map (fun i => (i, rest))

/-- The four bytes of a word in memory order (R7). -/
def bytesOfWord (w : Word) : List Byte :=
  [w.extractLsb' 0 8, w.extractLsb' 8 8, w.extractLsb' 16 8, w.extractLsb' 24 8]

/-- What the decoder reads from an instruction whose bits are `w`, numbered as the opcode table numbers them. -/
def decodeTableWord (nbits w : Nat) : Option Instr :=
  match decodeBytes (bytesOfWord (BitVec.ofNat 32 (w % 2 ^ nbits))) with
  | .ok (i, _) => some i
  | .error _ => none

end Sys2Proof
end

