-- ==== Sys2Proof/Machine/Fetch.lean ====
section
/-! DEFINITION. What the machine does next: the steps on the agenda, the splits taken in this cycle, the stages of a
start, the inputs from outside, and else the next cycle; and the team that runs one instruction word from a start. -/
namespace Sys2Proof.Machine
open Sys2Proof.Forms

/-- What a step of the machine is: a row of the opcode table at a state, or a state reached without one. -/
inductive Todo where
  | run (i : Instr) (s : State)
  | done (s : State)
  deriving DecidableEq, Repr

/-- A step of a unit at a state. (DESIGN CHOICE, log 3) -/
def todoEvent (e : Event) (s : State) : Todo := .run e.instr { s with event := some e }

/-- The word the issuing split stands at. -/
def issueWord (sp : Split) (c : Clause) : Word := c.words.getD sp.pos 0

/-- The cause of the decode fault of a word that no form has: check 1 of R273 comes first; what the decoder refuses in the fields of
a known opcode (a field that is not zero, a number beyond its class or its list) fails check 2. -/
def wordFault (x : Iss) : DecodeError → BitVec 8
  | .unassignedOpcode _ => 0x21
  | .reservedField _ | .tooShort => if typeOk x then 0x22 else 0x21

/-- The decode fault of a word that no form has (R265, R273, R380). -/
def faultWord (r : SplitRef) (t : Team) (sp : Split) (c : Clause) (w : Word) (e : DecodeError) (s : State) : State :=
  let x := issOf s r t sp c (wordFields w)
  faultAt x (wordFault x e) w (popIssue s)

/-- The head of the issue queue: its word is decoded and runs; a split that can no longer issue is dropped. -/
def issueHead (s : State) : Todo :=
  match issuing s with
  | none => .done (popIssue s)
  | some (r, t, sp, c) => match decode (issueWord sp c) with
    | .ok i => .run i s
    | .error e => .done (faultWord r t sp c (issueWord sp c) e s)

/-- The stage of a start that is next, by STARTSTAT.STAGE; a refused image keeps the start in Stage A (R470, R471). -/
def startStage (s : State) : Option Event :=
  match bits s.startstat 1 0 with
  | 0 => if bits s.startstat 2 2 = 1 then none else some .stageA
  | 1 => some .stageB
  | 2 => some .stageC
  | _ => none

/-- Is an input taken while the package is frozen: the determinism registers, whose path bypasses Cuff, a reset, power-on
(R488, R498, R516)? The others wait. (DEDUCED, log 71) -/
def takenFrozen : Event → Bool
  | .cuffStamp _ _ (.tlp t) => decide (t.fn = 4) && decide (t.bar = 0) && decide (0x100000 ≤ t.off)
  | .registerWrite fn off _ => decide (fn = 4) && decide (0x100000 ≤ off)
  | .cuffcfgWrite _ _ | .visorScan | .visorLoad | .visorResume | .powerOn | .packageReset => true
  | _ => false

/-- The first input that is taken, and the others. -/
def takeInput (ok : Event → Bool) : List Event → Option (Event × List Event)
  | [] => none
  | e :: rest => if ok e then some (e, rest) else (takeInput ok rest).map (fun p => (p.1, e :: p.2))

/-- The input taken next. (DESIGN CHOICE, log 1) -/
def nextInput (s : State) : Option (Event × List Event) := takeInput (fun e => !s.stopctl.getLsbD 2 || takenFrozen e) s.inbox

/-- The next step (log 3). -/
def nextTodo (s : State) : Todo :=
  match s.agenda, s.issueQ, startStage s with
  | e :: rest, _, _ => todoEvent e { s with agenda := rest }
  | [], _ :: _, _ => issueHead s
  | [], [], some e => todoEvent e s
  | [], [], none => match nextInput s with
    | some (e, rest) => todoEvent e { s with inbox := rest }
    | none => todoEvent .issueCycle s

/-! ### One instruction word from a start -/

/-- A clause of one instruction: NI = 1, eight zero literals, SETM = F0, SETX = F1 (R253). (DESIGN CHOICE, log 11) -/
def oneWordClause (w : Word) : Clause :=
  { addr := 0x1000, header := 0xC7110000, words := [w], lits := List.replicate 8 0 }

/-- A split at the first instruction of a clause. (DESIGN CHOICE, log 11) -/
def splitAt (mask : LaneMask) (c : Clause) : Split :=
  { mask := mask, pc := c.addr, pos := 0, clause := some c, bypass := [], mode := modeReset, stack := [],
    dualJoin := none, dualMode := 0, swapped := false, handler := none, hold := .none, waited := none, limit := 0, resume := none, retry := none,
    stepping := false, tier := 1, stamp := 0, issued := 0, promoted := 0, ready := 0, dropAt := 0, busy := 0,
    spinAt := none, spinRuns := 0, spinNow := [], spinLast := [], spinRead := [], pageFail := [], unmet := [], legal := false, relAt := none }

/-- A team of one row in its first split. (DESIGN CHOICE, log 11) -/
def oneRowTeam (k : TeamKey) (c : Clause) : Team :=
  { key := k, ctx := 0, core := 0, part := 0, slot := 0, stackSlot := 0, rows := 1, nv := 128, vregs := [], sregs := [],
    preds := [], srsv := [], srcnt := [], absent := 0, low := some (splitAt 0xFFFFFFFF c), high := none, inflight := [],
    traps := [], trapPc := 0, trapAddr := 0, trapInfo := 0, trapCause := 0, trapRows := 0, trapMask := 0, trapVec := 0,
    bbBase := 0, streams := [], curStream := none, remote := 0, mqCount := 0, parked := false, halted := false,
    ended := false, wroteV := [], wroteS := [], acquired := 0, readied := 0 }

/-- A dispatch of one block of one such team. (DESIGN CHOICE, log 11) -/
def oneTeamDispatch (id : BitVec 64) : Dispatch :=
  { noDispatch with id := id, nv := 128, spBytes := 0x1000, nbar := 16, nacc := 8, nbx := 1, nby := 1, nbz := 1,
                    ssDepth := 8, next := 1, live := 1 }

/-- The block of that dispatch. (DESIGN CHOICE, log 11) -/
def oneTeamBlock (id : BitVec 64) : Block := { noBlock with disp := id }

/-- The state in which the next step runs the instruction word `w`: a team of one row, resident on core 0, is the head of
the issue queue and stands at it (log 11). -/
def withWord (s : State) (w : Word) : State :=
  let k : TeamKey := { disp := 0, block := 0, team := 0 }
  { s with agenda := [], issueQ := [{ team := k, high := false }], teams := oneRowTeam k (oneWordClause w) :: s.teams
           dispatches := oneTeamDispatch 0 :: s.dispatches, blocks := oneTeamBlock 0 :: s.blocks }

end Sys2Proof.Machine
end

