-- ==== Sys2Proof/Machine/Step.lean ====
section
/-! DEFINITION. One step of the machine, and the state whose next step runs a given instruction word. -/
namespace Sys2Proof.Machine

/-- One step: the row of the opcode table that is next, at its state (log 3). -/
def step (s : State) : Host.Outcome State Fault Refusal :=
  match nextTodo s with
  | .run i s' => exec i s'
  | .done s' => .next s'

/-- `s` with an instruction word where the next step fetches: the low 32 bits of the number, the bits from `nbits` on
zero (log 11). -/
def State.withFetchWord (s : State) (nbits w : Nat) : State := withWord s (BitVec.ofNat 32 (w % 2 ^ nbits))

end Sys2Proof.Machine
end

