-- ==== Sys2Proof/Safety.lean ====
section
/-! DEFINITION. The terms claims are made in: a safe step, the canonical forms a run keeps, the instruction that issues
next, the registers and the storage that programs and the host read, and what an instruction leaves as it was. -/
namespace Sys2Proof.Machine
open Sys2Proof.Forms

/-- Did a step answer a next state? -/
def Safe (o : Host.Outcome State Fault Refusal) : Prop := ∃ s, o = .next s

/-- Memory, memory tags and poison marks are in their canonical forms (log 2). -/
def Canonical (s : State) : Prop := Memory.wf s.mem = true ∧ mapWf 0 s.tags = true ∧ mapWf false s.poison = true

/-! ### The instruction that issues -/

/-- The issuing split stands at `i`, none of the checks 1 to 6 of R273 fails, and `x` is the issue. -/
def Issues (i : Instr) (s : State) (x : Iss) : Prop :=
  ∃ r t sp c f, issuing s = some (r, t, sp, c) ∧ fieldsOf i = some f ∧ x = issOf s r t sp c f ∧ decodeFault x (readU x) = none

/-- The split is past its instruction: at the next one of the clause, or at the clause that follows (R252). -/
def Advanced (x : Iss) (t : State) : Prop :=
  ∃ sp, splitOf t x.ref = some sp ∧
    if x.split.pos + 1 = x.clause.words.length then sp.pc = nextClause x.clause ∧ sp.clause = none
    else sp.pc = x.split.pc ∧ sp.pos = x.split.pos + 1 ∧ sp.clause = some x.clause

/-- The split has gone to a clause at an address (R257). -/
def WentTo (x : Iss) (target : BitVec 56) (t : State) : Prop :=
  ∃ sp, splitOf t x.ref = some sp ∧ sp.pc = target ∧ sp.clause = none

/-! ### Registers -/

/-- The registers of a team that no split holds, and whether it is parked or halted. -/
structure TeamRegs where
  vregs    : SMap Word
  sregs    : SMap Word
  preds    : SMap LaneMask
  srsv     : SMap Word
  srcnt    : SMap Word
  absent   : LaneMask
  trapPc   : BitVec 64
  trapAddr : BitVec 64
  trapInfo : Word
  trapCause : Word
  trapRows : Word
  trapMask : LaneMask
  trapVec  : BitVec 64
  bbBase   : BitVec 64
  streams  : SMap Stream
  curStream : Option Nat
  parked   : Bool
  halted   : Bool
  deriving DecidableEq, Repr

def Team.regs (t : Team) : TeamRegs :=
  { vregs := t.vregs, sregs := t.sregs, preds := t.preds, srsv := t.srsv, srcnt := t.srcnt, absent := t.absent,
    trapPc := t.trapPc, trapAddr := t.trapAddr, trapInfo := t.trapInfo, trapCause := t.trapCause, trapRows := t.trapRows,
    trapMask := t.trapMask, trapVec := t.trapVec, bbBase := t.bbBase, streams := t.streams, curStream := t.curStream,
    parked := t.parked, halted := t.halted }

def teamRegs (s : State) (k : TeamKey) : Option TeamRegs := (teamOf s k).map Team.regs

/-- The registers of a split: its lanes, MODE, its place in divergence and its handler state (R228, R385, R387, R400). -/
structure SplitRegs where
  mask     : LaneMask
  mode     : Word
  stack    : List StackEntry
  dualJoin : Option (BitVec 56)
  dualMode : Word
  handler  : Option Handler
  deriving DecidableEq, Repr

def Split.regs (sp : Split) : SplitRegs :=
  { mask := sp.mask, mode := sp.mode, stack := sp.stack, dualJoin := sp.dualJoin, dualMode := sp.dualMode, handler := sp.handler }

def splitRegs (s : State) (r : SplitRef) : Option SplitRegs := (splitOf s r).map Split.regs

/-- Completion flag `n` as a split sees it (R259). -/
def flagAt (s : State) (r : SplitRef) (n : Nat) : Bool :=
  match teamOf s r.team with
  | some t => flagSet t r.high n
  | none => false

/-- A register of a team by its name: lane `l` of vector register `v`, a scalar register, lane `l` of a predicate. -/
inductive RegName where
  | v (n l : Nat)
  | s (n : Nat)
  | p (n l : Nat)
  deriving DecidableEq, Repr

/-- What a register of a team reads as. -/
def regAt (s : State) (k : TeamKey) (r : RegName) : Word :=
  match teamOf s k with
  | none => 0
  | some t => match r with
    | .v n l => if l < 1024 then vReg t n l else 0
    | .s n => sReg t n
    | .p n l => if laneIn (pReg t n) l then 1 else 0

/-- Is a register one of those that a destination of `k` registers names in the lanes of a mask? -/
def namedBy (code : BitVec 8) (k : Nat) (m : LaneMask) : RegName → Bool
  | .v n l => match opd code with
    | .vec v => decide (v ≤ n) && decide (n < v + k) && laneIn m l
    | _ => false
  | .s n => match opd code with
    | .scal v => decide (v ≤ n) && decide (n < v + k)
    | _ => false
  | .p n l => match opd code with
    | .pred v => decide (n = v) && laneIn m l
    | _ => false

/-- The number that a destination of `k` registers holds in a lane, the lowest register first (R224). -/
def dstAt (s : State) (t : TeamKey) (code : BitVec 8) (l : Nat) : Nat → Nat
  | 0 => 0
  | k + 1 => dstAt s t code l k + ((regAt s t (match opd code with
      | .vec v => .v (v + k) l
      | .scal v => .s (v + k)
      | .pred v => .p v l
      | _ => .s 0)).toNat <<< (32 * k))

/-- Is the destination P0, which discards writes and reads one (R222)? -/
def discards (code : BitVec 8) : Bool := decide (opd code = .pred 0)

/-! ### What stays as it was -/

/-- The registers of a context and the launch unit's tables for it; only records may have been queued for its ring. -/
def ctxRegs (s : State) (c : Nat) : Ctx := { ctxOf s c with faultQ := [] }

/-- A block but for the turn of an ordered one, whether it waits to pass on, and the count of retired instructions (R217, R425). -/
def blockRegs (s : State) (d : BitVec 64) (i : Nat) : Option Block :=
  (blockOf s d i).map (fun b => { b with turn := 0, owed := false, retired := 0 })

/-- The state without the tables that every instruction works on: what is left is memory and every unit but the issuing
core's own. -/
def outside (s : State) : State :=
  { s with teams := [], blocks := [], cores := [], ctxs := [], stamps := [], agenda := [], issueQ := [], fresh := 0, nextOp := 0 }

/-- Nothing has changed but the issuing team, its split and the counters of its core: not memory, not another unit, not
another team, not the team's other split, no register of a context or block. -/
structure Inner (s t : State) (x : Iss) : Prop where
  outside : outside t = outside s
  ctxs    : ∀ c, ctxRegs t c = ctxRegs s c
  blocks  : ∀ d i, blockRegs t d i = blockRegs s d i
  teams   : ∀ k, k ≠ x.ref.team → teamOf t k = teamOf s k
  partner : splitOf t { x.ref with high := !x.ref.high } = splitOf s { x.ref with high := !x.ref.high }

/-- A form that writes one destination has retired: the split is past it, its MODE has gathered `e` and its other registers
are as they were; no flag has changed; of the team's registers at most those of the destination and the stochastic counts
have (R219 to R223, R230, R243, R252). -/
structure Computed (s t : State) (x : Iss) (e : Exc) : Prop extends Inner s t x where
  next    : Advanced x t
  split   : splitRegs t x.ref = some { x.split.regs with mode := orXF x.split.mode e }
  flags   : ∀ n, flagAt t x.ref n = flagAt s x.ref n
  regs    : ∀ r, namedBy x.f.d (fieldRegs x).1 x.writers r = false → regAt t x.ref.team r = regAt s x.ref.team r
  special : (teamRegs t x.ref.team).map (fun r => { r with vregs := [], sregs := [], preds := [], srcnt := [] }) =
    (teamRegs s x.ref.team).map (fun r => { r with vregs := [], sregs := [], preds := [], srcnt := [] })

/-- The stochastic counts: one more in each lane that writes under SR, the same in the others (R243); not said of the lanes
of R320, whose counts are UNKNOWN. -/
def Counts (s t : State) (x : Iss) (sr : Bool) : Prop :=
  ∀ l, l < x.n → laneIn x.mixed l = false → mapGet 0 (((teamRegs t x.ref.team).map (·.srcnt)).getD []) l =
    mapGet 0 (((teamRegs s x.ref.team).map (·.srcnt)).getD []) l + (if sr && decide (x.rnd = 5) && laneIn x.writers l then 1 else 0)

/-- The registers of the destination: a predicate is one. -/
def dstRegs (x : Iss) : Nat := if x.predDst then 1 else (fieldRegs x).1

/-- In every lane that writes, but those whose result is UNKNOWN (R320), the destination holds the number of the lane, cut to its registers, of which a predicate
takes bit 0; P0 discards it (R222, R224, R318, R319). -/
def Holds (t : State) (x : Iss) (f : Nat → Nat) : Prop :=
  discards x.f.d = false → ∀ l, l < x.n → laneIn x.sure l = true →
    dstAt t x.ref.team x.f.d l (dstRegs x) = f l % 2 ^ (if x.predDst then 1 else 32 * dstRegs x)

/-- In every lane whose result is the form's own (R320) and for each element of TYPE, `P` holds of the element of a, of b (of `bw` bits), of the old d
and of the result (of `dw` bits) (R225, R317). -/
def Elements (t : State) (x : Iss) (bw dw : Nat) (P : (a b d r : Nat) → Prop) : Prop :=
  ∀ l, l < x.n → laneIn x.sure l = true → ∀ e, e < x.t.elems →
    P (fld (x.va l) (x.t.width * e) x.t.width) (fld (x.vb l) (bw * e) bw) (fld (x.vd l) (x.t.width * e) x.t.width)
      (fld (dstAt t x.ref.team x.f.d l (dstRegs x)) (dw * e) dw)

/-- In every lane whose result is the form's own (R320), bit `i` of the destination is `f` of the bits `i` of a and b. -/
def Bitwise (t : State) (x : Iss) (f : Bool → Bool → Bool) : Prop :=
  ∀ l, l < x.n → laneIn x.sure l = true → ∀ i, i < 32 * dstRegs x →
    (dstAt t x.ref.team x.f.d l (dstRegs x)).testBit i = f ((x.va l).testBit i) ((x.vb l).testBit i)

/-- A fixed-class form completes: it has retired with exceptions `e`, it counts under SR where `sr` says so, and `P` holds of
the state it leaves. -/
def Completes (o : Host.Outcome State Fault Refusal) (s : State) (x : Iss) (sr : Bool) (e : Exc) (P : State → Prop) : Prop :=
  ∃ t, o = .next t ∧ Computed s t x e ∧ Counts s t x sr ∧ P t

/-- An integer form: each element is the exact value of `f`, clamped to the range of TYPE where `sat` and MODE.SAT say so,
modulo 2^w (R234, R322). -/
def IntegerResult (o : Host.Outcome State Fault Refusal) (s : State) (x : Iss) (sat : Bool) (f : Int → Int → Int → Int) : Prop :=
  Completes o s x false 0 (fun t => Elements t x x.t.width x.t.width (fun a b d r =>
    let v := f (iVal x.t a) (iVal x.t b) (iVal x.t d)
    r = wrap x.t.width (if sat = true ∧ x.sat = true then max (iMin x.t) (min (iMax x.t) v) else v)))

/-- A bit form: `P` of the type width, the element, the amount and the result, whatever the signedness of TYPE (R324). -/
def BitResult (o : Host.Outcome State Fault Refusal) (s : State) (x : Iss) (bw dw : Nat) (P : (w a b r : Nat) → Prop) : Prop :=
  Completes o s x false 0 (fun t => Elements t x bw dw (fun a b _ r => P x.t.width a b r))

/-- A compare form: a predicate takes the outcome, each element of a register all ones or zero (R326). -/
def CompareResult (o : Host.Outcome State Fault Refusal) (s : State) (x : Iss) (c : Int → Int → Bool) : Prop :=
  Completes o s x false 0 (fun t =>
    (x.predDst = true → Holds t x (fun l => if c (iVal x.t (x.va l)) (iVal x.t (x.vb l)) then 1 else 0)) ∧
    (x.predDst = false → Elements t x x.t.width (amountWidth x) (fun a b _ r =>
      r = if c (iVal x.t a) (iVal x.t b) then 2 ^ amountWidth x - 1 else 0)))

/-- The exceptions `e` that a form gathers: each is raised by some element of some lane that raises (R230, R317, R319). -/
def RaisedBy (x : Iss) (n : Nat) (e : Exc) (exc : Nat → Nat → Exc) : Prop :=
  ∀ i, e.getLsbD i = true ↔ ∃ l k, l < x.n ∧ k < n ∧ laneIn x.raisers l = true ∧ (exc l k).getLsbD i = true

/-- A form of packed elements: element `k` of lane `l` is `g l k`, of `dw` bits, and MODE gathers what the elements raise. -/
def ElementResult (o : Host.Outcome State Fault Refusal) (s : State) (x : Iss) (sr : Bool) (dw : Nat) (g : Nat → Nat → Nat × Exc) : Prop :=
  ∃ ex, RaisedBy x x.t.elems ex (fun l k => (g l k).2) ∧ Completes o s x sr ex (fun t =>
    ∀ l, l < x.n → laneIn x.sure l = true → ∀ k, k < x.t.elems →
      fld (dstAt t x.ref.team x.f.d l (dstRegs x)) (dw * k) dw = (g l k).1 % 2 ^ dw)

/-- A form with one result a lane. -/
def LaneResult (o : Host.Outcome State Fault Refusal) (s : State) (x : Iss) (sr : Bool) (g : Nat → Nat × Exc) : Prop :=
  ∃ ex, RaisedBy x 1 ex (fun l _ => (g l).2) ∧ Completes o s x sr ex (fun t => Holds t x (fun l => (g l).1))

/-- Element `k` of lane `l` of an operand of TYPE, as a bit pattern and as a floating-point value (R235, R237, R317). -/
def aBits (x : Iss) (l k : Nat) : Nat := fld (x.va l) (x.t.width * k) x.t.width
def bBits (x : Iss) (l k : Nat) : Nat := fld (x.vb l) (x.t.width * k) x.t.width
def dBits (x : Iss) (l k : Nat) : Nat := fld (x.vd l) (x.t.width * k) x.t.width
def aVal (x : Iss) (l k : Nat) : FVal := fval (fmtOf x.t) x.ftz (aBits x l k)
def bVal (x : Iss) (l k : Nat) : FVal := fval (fmtOf x.t) x.ftz (bBits x l k)
def dVal (x : Iss) (l k : Nat) : FVal := fval (fmtOf x.t) x.ftz (dBits x l k)

/-- An exact result with its exceptions, rounded once for element `k` of lane `l` under MODE (R237 to R241, R334). -/
def rounded (x : Iss) (fm : Fmt) (l k : Nat) (v : FVal × Exc) : Nat × Exc :=
  let r := fround fm { mode := x.rnd, sat := x.sat, ftz := x.ftz } (srOf x l k) v.1
  (r.1, v.2 ||| r.2)

/-- A fault of this instruction has been taken: a record of KIND 0 with the cause, the instruction's address and INFO waits
for the fault ring, the team is parked, and the split stands where it stood with the active set as its resume mask; no
register, no byte of memory and no tag has changed (R273, R444, R447). -/
structure FaultTaken (s t : State) (x : Iss) (cause : BitVec 8) (info : Word) : Prop where
  recorded : ∃ r ∈ (ctxOf t x.team.ctx).faultQ, r.kind = 0 ∧ r.cause = cause ∧ r.pc = x.pc.setWidth 64 ∧ r.info = info ∧
    r.disp = x.ref.team.disp ∧ r.block = BitVec.ofNat 32 x.ref.team.block ∧ r.team = BitVec.ofNat 8 x.ref.team.team ∧
    r.core = BitVec.ofNat 8 x.team.core ∧ r.part = BitVec.ofNat 8 x.team.part ∧ r.cyc = s.cycle
  parked   : ∃ u sp, teamOf t x.ref.team = some u ∧ u.parked = true ∧ splitIn u x.ref.high = some sp ∧
    sp.resume = some { mask := x.active, atInstr := true } ∧ sp.pc = x.split.pc ∧ sp.pos = x.split.pos ∧
    sp.clause = x.split.clause ∧ sp.regs = x.split.regs
  regs     : ∀ r, regAt t x.ref.team r = regAt s x.ref.team r
  mem      : t.mem = s.mem
  tags     : t.tags = s.tags

/-- The form takes a fault. -/
def TakesFault (o : Host.Outcome State Fault Refusal) (s : State) (x : Iss) (cause : BitVec 8) (info : Word) : Prop :=
  ∃ t, o = .next t ∧ FaultTaken s t x cause info

/-- What an operation in flight will write to a register of a lane: vector codes below 128, scalar ones from 128 on (R264). -/
def willWrite (e : InFlight) (code lane : Nat) : Option Word :=
  (e.writes.find? (fun w => decide (w.code = code) && (decide (128 ≤ code) || decide (w.lane = lane)))).map (·.val)

/-- It will write a number of `k` registers to the registers from a destination code on, in one lane. -/
def WillHold (e : InFlight) (code : BitVec 8) (l k v : Nat) : Prop :=
  ∀ i, i < k → willWrite e (code.toNat + i) l = some (BitVec.ofNat 32 (v / 2 ^ (32 * i)))

/-- The operation that the issue numbered `s.nextOp` has put in flight. -/
def flightOf (s t : State) (x : Iss) (e : InFlight) : Prop :=
  ∃ u, teamOf t x.ref.team = some u ∧ e ∈ u.inflight ∧ e.id = s.nextOp

/-- A long-latency form has retired and set its flag: MODE and every register are as they were, and `P` holds of the
operation in flight (R259, R262). -/
structure Launched (s t : State) (x : Iss) (flag : Nat) (P : InFlight → Prop) : Prop extends Inner s t x where
  next   : Advanced x t
  split  : splitRegs t x.ref = some x.split.regs
  regs   : ∀ r, regAt t x.ref.team r = regAt s x.ref.team r
  flags  : ∀ n, flagAt t x.ref n = (flagAt s x.ref n || decide (n = flag))
  flight : ∃ e, flightOf s t x e ∧ e.flag = flag ∧ P e

/-- A form with an empty active set, or one that changes no more: it retires and leaves all else (R232, R252). -/
structure Retired (s t : State) (x : Iss) : Prop extends Inner s t x where
  next  : Advanced x t
  split : splitRegs t x.ref = some x.split.regs
  flags : ∀ n, flagAt t x.ref n = flagAt s x.ref n
  regs  : teamRegs t x.ref.team = teamRegs s x.ref.team

/-- An execution-class form: with an active lane its results and exceptions are in flight under the SETX flag; else it
performs nothing (R258, R259, R321). -/
def ExecutionResult (o : Host.Outcome State Fault Refusal) (s : State) (x : Iss) (n : Nat) (g : Nat → Nat → Nat × Exc) : Prop :=
  ∃ t, o = .next t ∧
    (x.active = 0 → Retired s t x) ∧
    (x.active ≠ 0 → Launched s t x (bits x.clause.header 19 16) (fun e =>
      e.state = .ready ∧ RaisedBy x n e.xf (fun l k => (g l k).2) ∧
      ∀ l, l < x.n → laneIn x.sure l = true → ∃ v, WillHold e x.f.d l (fieldRegs x).1 v ∧
        ∀ k, k < n → fld v (x.t.width * k) x.t.width = (g l k).1 % 2 ^ x.t.width))

/-- A floating compare: the outcome and whether invalid is raised, for a predicate from element 0, for a register from each
element, all ones or zero (R338). -/
def FloatCompare (o : Host.Outcome State Fault Refusal) (s : State) (x : Iss) (c : Nat → Nat → Bool × Bool) : Prop :=
  (x.predDst = true → LaneResult o s x false (fun l => (if (c l 0).1 then 1 else 0, if (c l 0).2 then excIV else 0))) ∧
  (x.predDst = false → ElementResult o s x false (sideWidth x) (fun l k =>
    (if (c l k).1 then 2 ^ sideWidth x - 1 else 0, if (c l k).2 then excIV else 0)))

/-- Scratchpad and tiles of a block. -/
def blockStore (s : State) (d : BitVec 64) (i : Nat) : Option (List Host.Cell × SMap Word) :=
  (blockOf s d i).map (fun b => (b.spad, b.tiles))

/-- Memory with its tags and poison marks, scratchpads, tiles and the registers of the contexts are as they were. -/
structure SameStore (s t : State) : Prop where
  mem    : t.mem = s.mem
  tags   : t.tags = s.tags
  poison : t.poison = s.poison
  blocks : ∀ d i, blockStore t d i = blockStore s d i
  ctxs   : ∀ c, ctxRegs t c = ctxRegs s c

/-- A form that moves values between lanes: each lane that writes holds the value of lane `src l` (R351). -/
def Moves (o : Host.Outcome State Fault Refusal) (s : State) (x : Iss) (src : Nat → Nat) : Prop :=
  Completes o s x false 0 (fun t => ∀ l, l < x.n → laneIn x.sure l = true → laneIn x.theirs (src l) = false →
    dstAt t x.ref.team x.f.d l 1 = (readWord x x.f.a 0 (src l)).toNat)

/-- A form has retired and changed no register, flag or memory but what its split holds: that is `r` (R252). -/
structure Passed (s t : State) (x : Iss) (r : SplitRegs) : Prop extends Inner s t x where
  next  : Advanced x t
  split : splitRegs t x.ref = some r
  flags : ∀ n, flagAt t x.ref n = flagAt s x.ref n
  regs  : teamRegs t x.ref.team = teamRegs s x.ref.team

/-- A form has gone to a clause at an address, its split holding `r` (R257). -/
structure Went (s t : State) (x : Iss) (target : BitVec 56) (r : SplitRegs) : Prop extends Inner s t x where
  went  : WentTo x target t
  split : splitRegs t x.ref = some r
  flags : ∀ n, flagAt t x.ref n = flagAt s x.ref n
  regs  : teamRegs t x.ref.team = teamRegs s x.ref.team

/-- A split stands where it stood, held as `h`; nothing else has changed (R262). -/
structure HeldHere (s t : State) (x : Iss) (h : Hold) : Prop extends Inner s t x where
  held  : ∃ sp, splitOf t x.ref = some sp ∧ sp.hold = h ∧ sp.pc = x.split.pc ∧ sp.pos = x.split.pos ∧ sp.clause = some x.clause ∧
    sp.regs = x.split.regs
  flags : ∀ n, flagAt t x.ref n = flagAt s x.ref n
  regs  : teamRegs t x.ref.team = teamRegs s x.ref.team

/-- A form goes to a clause, passes, or is held. -/
def Goes (o : Host.Outcome State Fault Refusal) (s : State) (x : Iss) (target : BitVec 56) (r : SplitRegs) : Prop :=
  ∃ t, o = .next t ∧ Went s t x target r
def Passes (o : Host.Outcome State Fault Refusal) (s : State) (x : Iss) (r : SplitRegs) : Prop :=
  ∃ t, o = .next t ∧ Passed s t x r

/-- A form has written `k` registers from a destination code on, in the lanes of a mask, and no other register, flag or
memory. -/
structure Wrote (s t : State) (x : Iss) (code : BitVec 8) (k : Nat) (m : LaneMask) : Prop extends Inner s t x where
  split   : splitRegs t x.ref = some x.split.regs
  flags   : ∀ n, flagAt t x.ref n = flagAt s x.ref n
  regs    : ∀ r, namedBy code k m r = false → regAt t x.ref.team r = regAt s x.ref.team r
  special : (teamRegs t x.ref.team).map (fun r => { r with vregs := [], sregs := [], preds := [] }) =
    (teamRegs s x.ref.team).map (fun r => { r with vregs := [], sregs := [], preds := [] })

/-- Does the condition of a branch hold in some lane of the active set, in all of them (R380)? -/
def someLane (x : Iss) (p : Nat → Bool) : Prop := ∃ l, l < x.n ∧ laneIn x.active l = true ∧ p l = true
def everyLane (x : Iss) (p : Nat → Bool) : Prop := ∀ l, l < x.n → laneIn x.active l = true → p l = true

/-- The address that a literal offset names (R257). -/
def goal (x : Iss) (w : Word) : BitVec 56 := x.clause.addr + BitVec.ofInt 56 (4 * w.toInt)

/-- The registers of every team and split are as they were. -/
structure SameRegs (s t : State) : Prop where
  teams  : ∀ k, teamRegs t k = teamRegs s k
  splits : ∀ r, splitRegs t r = splitRegs s r

/-! ### Accesses of lanes -/

/-- No entry of the team stands in the side log (R451). -/
def NoLog (s : State) (x : Iss) : Prop := ∀ e ∈ s.sideLog, e.split.team ≠ x.ref.team

/-- The registers of a context but for the two counters of its bank-conflict trace (R505). -/
def ctxKept (s : State) (c : Nat) : Ctx := { ctxRegs s c with trcnext := 0, trcdrop := 0 }

/-- The byte that a store of the number `v` to the pieces of a checked access leaves at a local address, if it stores there. -/
def pieceByte : List Target → Nat → Nat → Option Byte
  | [], _, _ => none
  | .mem pa n _ :: rest, v, a => match pieceByte rest (v >>> (8 * n)) a with
    | some b => some b
    | none => if pa ≤ a ∧ a < pa + n then some (byteOf v (a - pa)) else none
  | _ :: _, _, _ => none

/-- Do the pieces of a checked access cover `n` bytes of memory from a local address on? -/
def spans : List Target → Nat → Nat → Bool
  | [], _, n => decide (n = 0)
  | .mem a k _ :: rest, pa, n => decide (a = pa) && decide (k ≤ n) && spans rest (pa + k) (n - k)
  | _ :: _, _, _ => false

/-- The byte that the stores of lanes leave at a local address: the highest lane's stays (R203). -/
def storedBy (data : Nat → Nat) : List (LaneAcc × List Target) → Nat → Option Byte
  | [], _ => none
  | p :: rest, a => match storedBy data rest a with
    | some b => some b
    | none => pieceByte p.2 (data p.1.lane) a

/-- The byte that they leave at an offset of the block's scratchpad. -/
def spadBy (data : Nat → Nat) : List (LaneAcc × List Target) → Nat → Option Byte
  | [], _ => none
  | p :: rest, o => match spadBy data rest o, p.2 with
    | some b, _ => some b
    | none, [.spad q] => if q ≤ o ∧ o < q + p.1.acc.n then some (byteOf (data p.1.lane) (o - q)) else none
    | none, _ => none

/-- A lane of an instruction has failed a check: a record with the lowest failing lane's cause and address waits for the fault
ring, and the team is parked with the split held at the instruction and the failing lanes as its resume mask (R444, R447). -/
structure LaneFaulted (s t : State) (x : Iss) (b : Bad) (bad : List Bad) : Prop where
  recorded : ∃ r ∈ (ctxOf t x.team.ctx).faultQ, r.kind = 0 ∧ r.cause = b.cause ∧ r.pc = x.pc.setWidth 64 ∧ r.addr = b.ga.getD 0 ∧
    r.disp = x.ref.team.disp ∧ r.block = BitVec.ofNat 32 x.ref.team.block ∧ r.team = BitVec.ofNat 8 x.ref.team.team
  parked   : ∃ u sp, teamOf t x.ref.team = some u ∧ u.parked = true ∧ splitIn u x.ref.high = some sp ∧
    sp.resume = some { mask := maskOf x.n (fun l => bad.any (fun c => decide (c.lane = l))), atInstr := true } ∧
    sp.pc = x.split.pc ∧ sp.pos = x.split.pos ∧ sp.clause = x.split.clause ∧ sp.regs = x.split.regs

/-- A form that reads memory has retired with its values in flight under a flag: every register, byte of memory and tag is as
it was; a bank-conflict trace may have written its record (R259, R283, R505). -/
structure Loaded (s t : State) (x : Iss) (flag : Nat) (P : InFlight → Prop) : Prop where
  next   : Advanced x t
  regs   : SameRegs s t
  flags  : ∀ n, flagAt t x.ref n = (flagAt s x.ref n || decide (n = flag))
  others : ∀ r n, r ≠ x.ref → flagAt t r n = flagAt s r n
  tags   : t.tags = s.tags
  blocks : ∀ d i, blockStore t d i = blockStore s d i
  ctxs   : ∀ c, ctxKept t c = ctxKept s c
  mem    : bits x.ctx.trcbc 63 63 = 0 → t.mem = s.mem
  flight : ∃ e, flightOf s t x e ∧ e.flag = flag ∧ e.state = .ready ∧ P e

/-- A form that stores has retired: memory and the block's scratchpad hold the bytes stored and are else as they were; no
register, flag or tag has changed (R203, R287). -/
structure Stored (s t : State) (x : Iss) (data : Nat → Nat) (ok : List (LaneAcc × List Target)) : Prop where
  next   : Advanced x t
  regs   : SameRegs s t
  flags  : ∀ r n, flagAt t r n = flagAt s r n
  tags   : t.tags = s.tags
  ctxs   : ∀ c, ctxKept t c = ctxKept s c
  mem    : bits x.ctx.trcbc 63 63 = 0 → ∀ a, readByte t a = (storedBy data ok a).getD (readByte s a)
  spad   : blockOf s x.ref.team.disp x.ref.team.block ≠ none → ∀ o,
    spByte ((blockOf t x.ref.team.disp x.ref.team.block).getD noBlock) o = (spadBy data ok o).getD (spByte x.block o)
  blocks : ∀ d i, ¬ (d = x.ref.team.disp ∧ i = x.ref.team.block) → blockStore t d i = blockStore s d i

/-- The lanes of a load have been checked from the state `s0` and all their pieces are on this device: the values of the
lanes, as the L1 `l1` or the home slices give them, are in flight under SETM, zero in the lanes of `extra`; a lane that fails is reported
(R85, R283, R288). -/
def LoadResult (o : Host.Outcome State Fault Refusal) (s : State) (x : Iss) (s0 : State) (l1 : Option Nat) (sx : Bool) (l : List LaneAcc)
    (pre : List Bad) (extra : List Nat) : Prop :=
  let c := checkLanes x l s0
  let ok := okLanes c.2
  let bad := badLanes c.2 ++ pre ++ (laneValues x l1 c.1 ok).2
  lanesOf x.n x.active ≠ [] → pageLanes c.2 = [] → (∀ p ∈ ok, isRemote p.2 = false) → NoLog s x →
    (bad = [] → ∃ t, o = .next t ∧ Loaded s t x (bits x.clause.header 15 12) (fun e =>
      (∀ p ∈ ok, ∀ v, loadValue c.1 l1 x.block (.lane x.ref p.1.lane) p.2 p.1.acc.n = .ok v →
        WillHold e x.f.d p.1.lane (fieldRegs x).1 (extend p.1.acc.n sx v)) ∧
      ∀ l ∈ extra, WillHold e x.f.d l (fieldRegs x).1 0)) ∧
    (∀ b, lowest bad = some b → ∃ t, o = .next t ∧ LaneFaulted s t x b bad)

/-- The lanes of a store have been checked from the state `s0`, all their pieces are on this device and no sector that they
cover in part is poisoned: the bytes are stored; a lane that fails is reported (R203, R288). -/
def StoreResult (o : Host.Outcome State Fault Refusal) (s : State) (x : Iss) (s0 : State) (l : List LaneAcc) (pre : List Bad)
    (data : Nat → Nat) : Prop :=
  let c := checkLanes x l s0
  let ok := okLanes c.2
  let bad := badLanes c.2 ++ pre
  lanesOf x.n x.active ≠ [] → pageLanes c.2 = [] → (∀ p ∈ ok, isRemote p.2 = false) → NoLog s x → (storeLanes x data ok c.1).2 = [] →
    (bad = [] → ∃ t, o = .next t ∧ Stored s t x data ok) ∧
    (∀ b, lowest bad = some b → ∃ t, o = .next t ∧ LaneFaulted s t x b bad)

/-- An atomic or reduction whose lanes go to distinct words of memory on this device: each word is combined with its lane's
operand, and `P` holds of what stood there (R60, R203). -/
def AtomResult (o : Host.Outcome State Fault Refusal) (s : State) (x : Iss) (op : AOp) (ls : List Nat) (P : State → List (Nat × Nat) → Prop) : Prop :=
  let w := atomBits x
  let c := checkLanes x (atomLanes x ls) (popIssue s)
  let ok := okLanes c.2
  let at_ := ok.filterMap (fun p => match p.2 with
    | [.mem pa _ _] => some (p.1.lane, pa)
    | _ => none)
  lanesOf x.n x.active ≠ [] → pageLanes c.2 = [] → badLanes c.2 = [] → at_.length = ok.length → NoLog s x →
    at_.Pairwise (fun p q => p.2 + w / 8 ≤ q.2 ∨ q.2 + w / 8 ≤ p.2) → (∀ p ∈ at_, poisonAt s p.2 (w / 8) = false) →
    ∃ t, o = .next t ∧ Advanced x t ∧ SameRegs s t ∧ t.tags = s.tags ∧ (∀ c, ctxRegs t c = ctxRegs s c) ∧
      (∀ p ∈ at_, readMem t p.2 (w / 8) = atomicResult op w (readMem s p.2 (w / 8)) (atomParts op w (atomOperand x p.1)).1
        (atomParts op w (atomOperand x p.1)).2 % 2 ^ w) ∧
      (∀ a, (∀ p ∈ at_, a < p.2 ∨ p.2 + w / 8 ≤ a) → readByte t a = readByte s a) ∧
      P t (at_.map (fun p => (p.1, readMem s p.2 (w / 8))))

/-- A wait of a team goes on: no register, flag or byte changes, and the split watches no longer (R65, R301). -/
structure WaitOver (s t : State) (x : Iss) : Prop where
  next    : Advanced x t
  regs    : SameRegs s t
  flags   : ∀ r n, flagAt t r n = flagAt s r n
  mem     : t.mem = s.mem
  watches : ∀ w ∈ t.watches, w.split ≠ x.ref

/-- A wait is held at its instruction, watching the line of a local address or, where its table is full, polling (R63, R64). -/
structure WaitsOn (s t : State) (x : Iss) (pa : Nat) : Prop where
  held  : ∃ sp on, splitOf t x.ref = some sp ∧ sp.hold = .wait [on] ∧ sp.pc = x.split.pc ∧ sp.pos = x.split.pos ∧ sp.clause = some x.clause ∧
    (on = .poll ∨ (on = .line (pa / 128) ∧ ∃ w ∈ t.watches, w.split = x.ref ∧ w.on = .line (pa / 128)))
  regs  : SameRegs s t
  flags : ∀ r n, flagAt t r n = flagAt s r n
  mem   : t.mem = s.mem

/-- Nothing that a release at a scope waits for is outstanding, but for the flushing read of one at sys: no side-log entry of the team,
none of its remote atomics and reductions without a response, and from fab on no remote write of any team without one (R197, R205). -/
def ReleaseReady (s : State) (x : Iss) (scope : Nat) : Prop :=
  NoLog s x ∧ ∀ q ∈ s.outReqs, q.write = true → atomicOf x.ref.team q = false ∧ (4 ≤ scope → reqTeam q = none)

/-- A release need not wait: nothing is outstanding and it is not at sys. -/
def ReleaseFree (s : State) (x : Iss) (scope : Nat) : Prop := ReleaseReady s x scope ∧ scope ≠ 5

/-- A release at a scope goes on: nothing is outstanding, and at sys its flushing read has completed (R211). -/
def ReleaseDone (s : State) (x : Iss) (scope : Nat) : Prop :=
  ReleaseReady s x scope ∧ (scope = 5 → s.flushes.find? (fun f => decide (f.2 = x.ref)) = some (flushDone, x.ref))

/-- The accesses `l` of the issuing instruction pass every check of R52 in `s`, without a page request: they lie at the places `ok`,
and `s'` is the state that the checks leave. -/
def PassChecks (x : Iss) (l : List LaneAcc) (s s' : State) (ok : List (LaneAcc × List Target)) : Prop :=
  (checkLanes x l s).1 = s' ∧ okLanes (checkLanes x l s).2 = ok ∧ badLanes (checkLanes x l s).2 = [] ∧ pageLanes (checkLanes x l s).2 = []

/-- The split stands held at its instruction; no register and no byte of memory has changed. -/
def StaysHeld (o : Host.Outcome State Fault Refusal) (s : State) (x : Iss) (h : Hold) : Prop :=
  ∃ t sp, o = .next t ∧ splitOf t x.ref = some sp ∧ sp.hold = h ∧ sp.pc = x.split.pc ∧ sp.pos = x.split.pos ∧ SameRegs s t ∧ t.mem = s.mem

/-- An object operation on a barrier: the form has retired, the barrier holds `b`, and every byte but its sixteen is as it was. -/
structure BarrierStep (s t : State) (x : Iss) (pa : Nat) (b : Bar) : Prop where
  next  : Advanced x t
  regs  : SameRegs s t
  flags : ∀ r n, flagAt t r n = flagAt s r n
  bar   : readBar t pa = b
  mem   : ∀ a, a < pa ∨ pa + 16 ≤ a → readByte t a = readByte s a

/-! ### Steps of units -/

/-- A step has acted on one split: it holds `sp`; no other split, no register, flag or byte of memory has changed. -/
structure SplitStep (s t : State) (r : SplitRef) (sp : Split) : Prop where
  split  : splitOf t r = some sp
  others : ∀ q, q ≠ r → splitOf t q = splitOf s q
  regs   : ∀ k, teamRegs t k = teamRegs s k
  flags  : ∀ q n, flagAt t q n = flagAt s q n
  rest   : outside t = outside { s with event := none }

/-- The register that an operation in flight writes. -/
def RegWrite.name (w : RegWrite) : RegName := if w.code < 128 then .v w.code w.lane else .s (w.code - 128)

/-- Do the writes of an operation go to distinct registers of the team's lanes? -/
def Distinct (u : Team) (l : List RegWrite) : Prop :=
  l.Pairwise (fun a b => a.name ≠ b.name) ∧ ∀ w ∈ l, w.code < 192 ∧ (w.code < 128 → w.lane < min 1024 (lanes u))

/-- A record of a fault of a split waits for its context's ring, and its team is parked (R444, R447). -/
def FaultedAt (s t : State) (r : SplitRef) (cause : BitVec 8) (pc : BitVec 56) : Prop :=
  ∃ u, teamOf s r.team = some u ∧ (∃ q ∈ (ctxOf t u.ctx).faultQ, q.kind = 0 ∧ q.cause = cause ∧ q.pc = pc.setWidth 64 ∧
    q.disp = r.team.disp ∧ q.block = BitVec.ofNat 32 r.team.block ∧ q.team = BitVec.ofNat 8 r.team.team ∧ q.cyc = s.cycle) ∧
  (teamOf t r.team).map (·.parked) = some true ∧ t.mem = s.mem ∧ t.tags = s.tags ∧ ∀ n, regAt t r.team n = regAt s r.team n

/-- A step of a memory unit: only `n` bytes from a local address on may have changed, and no register or flag. -/
structure MemStep (s t : State) (pa n : Nat) : Prop where
  mem   : ∀ a, (a < pa ∨ pa + n ≤ a) → readByte t a = readByte s a
  regs  : SameRegs s t
  flags : ∀ q k, flagAt t q k = flagAt s q k

/-- A step has left memory with its tags, every register and every flag as they were. -/
structure Quiet (s t : State) : Prop where
  mem    : t.mem = s.mem
  tags   : t.tags = s.tags
  poison : t.poison = s.poison
  regs   : SameRegs s t
  flags  : ∀ q k, flagAt t q k = flagAt s q k

/-- The end of a phase of a barrier: with no arrival and no byte missing PHASE flips and ARR reloads (R120). -/
def phaseEnd (b : Bar) : Bar := if b.arr = 0 ∧ b.bytes = 0 then { b with phase := !b.phase, arr := b.load } else b

/-- BYTES of a barrier with `d` more; a sum that leaves 32 bits is the overrun (R121). -/
def moreBytes (b : Bar) (d : Int) : Bar :=
  if -(2 ^ 31 : Int) ≤ b.bytes + d ∧ b.bytes + d < (2 ^ 31 : Int) then phaseEnd { b with bytes := b.bytes + d } else { b with err := 2 }

/-- The state that a message of an interrupt vector leaves: one more message, unless it has been sent in this cycle (R484). -/
def told (s : State) (fn vector : Nat) : List HostOut :=
  if HostOut.msix fn vector s.cycle ∈ s.hostOut then s.hostOut else s.hostOut ++ [HostOut.msix fn vector s.cycle]

/-- One packet has been queued at the port of its route toward another device (R160, R162). -/
def Sent (s t : State) (dev : Nat) (P : Hdr → List (BitVec 256) → Prop) : Prop :=
  ∃ q det, t.portQ = s.portQ ++ [q] ∧ route s dev = some (q.port, det) ∧ (hdrOf q.pkt).dst = dev ∧ P (hdrOf q.pkt) q.pkt.data

/-- A request has been answered: one response toward its source, with its number (R158, R168). -/
def Replied (s t : State) (h : Hdr) (kind op : Nat) (P : List (BitVec 256) → Prop) : Prop :=
  Sent s t h.src (fun r d => r.kind = kind ∧ r.cls = 1 ∧ r.src = devNum s ∧ r.reqid = h.reqid ∧ r.op = op ∧ P d)

/-- The counted stores of a stream that have settled: none for one without an entry (R176). -/
def settled (s : State) (h : Hdr) : Nat := match streamOf s h with
  | some e => e.count.toNat
  | none => 0

/-- A command is complete: its STATUS holds `v`, it has left its queue, and no other byte, register or flag has changed (R432). -/
structure CommandDone (s t : State) (c : CmdRef) (v : Nat) : Prop extends MemStep s t (cmdPa s c + 0x38) 4 where
  status : readMem t (cmdPa s c + 0x38) 4 = v
  gone   : cmdOf t c = none
  tags   : t.tags = s.tags

/-- A write to the context table has left one context as `x` and the others, memory, registers and flags as they were. -/
structure CtxWritten (s t : State) (c : Nat) (x : Ctx) : Prop extends Quiet s t where
  ctxs : ∀ e, ctxOf t e = if e = c then x else ctxOf s e

/-- A context with one command queue changed. -/
structure QueueWritten (s t : State) (c n : Nat) (q : Queue) : Prop extends Quiet s t where
  queues : ∀ m, queueOf (ctxOf t c) m = if m = n then q else queueOf (ctxOf s c) m
  kept   : { ctxOf t c with queues := [] } = { ctxOf s c with queues := [] }
  ctxs   : ∀ e, e ≠ c → ctxOf t e = ctxOf s e

/-- A message of an interrupt vector of the management function has been sent, and `f` is the state but for it (R484). -/
def Told (o : Host.Outcome State Fault Refusal) (s f : State) (vector : Nat) : Prop :=
  o = .next { f with hostOut := told s 4 vector }

/-- A write by the management controller waits at gate 0 with its stamp (R485, R489). -/
def ControllerWrote (t : State) (off : Nat) (v : BitVec 64) : Prop := ∃ x ∈ (gateOf t 0).queue, x.arr = .mgmt (mgmtMsg off v)

/-- A step of the thermal guard: THERMSTAT, and the register that the guard has written (R472, R473). -/
structure Guarded (s t : State) (held gated hottest off v : Nat) : Prop extends Quiet s t where
  stat  : t.thermstat = BitVec.ofNat 32 (held + 16 * gated + 256 * hottest)
  write : (gateOf s 0).mode ≠ 2 → ControllerWrote t off (BitVec.ofNat 64 v)

/-- A translation cache, by the number of `tlbName`, holds an entry (R34). -/
def Cached (s : State) (name : Nat) (e : TlbEntry) : Prop := ∃ p ∈ s.tlb, p.1 = name ∧ ∃ w ∈ p.2.ways, w.val = e

/-- PARTSTAT of an end: STATE, CODE, context and queue (R466). -/
def partCode (state code c q : Nat) : Word := BitVec.ofNat 32 (state + 4 * code + 256 * c + 2 ^ 24 * q)

end Sys2Proof.Machine
end

