-- ==== Sys2Proof/Certificates/Slice0/Obligations.lean ====
section
/-! DEFINITION. The statements about the Z9 for the provers. -/
open Sys2Proof Sys2Proof.Machine Sys2Proof.Forms

/-! ### Integer arithmetic, logic, shifts, compares, moves (R322 to R327) -/

/-- R322 but for IDIV and IREM: every integer form that issues completes, and each element is the exact value of the table, reduced under R234; no
exception is raised; nothing but the destination changes.
Lanes that R320 leaves UNKNOWN are not spoken of. -/
def Obligations.IntegerArithmeticResults : Prop :=
  ∀ (s : State) (x : Iss) (d a b : BitVec 8),
    (Issues (.iadd d a b) s x → IntegerResult (exec (.iadd d a b) s) s x true (fun a b _ => a + b)) ∧
    (Issues (.isub d a b) s x → IntegerResult (exec (.isub d a b) s) s x true (fun a b _ => a - b)) ∧
    (Issues (.imul d a b) s x → IntegerResult (exec (.imul d a b) s) s x true (fun a b _ => a * b)) ∧
    (Issues (.imulh d a b) s x → IntegerResult (exec (.imulh d a b) s) s x false
      (fun a b _ => (a * b) / ((2 ^ x.t.width : Nat) : Int))) ∧
    (Issues (.imad d a b) s x → IntegerResult (exec (.imad d a b) s) s x true (fun a b d => a * b + d)) ∧
    (Issues (.imin d a b) s x → IntegerResult (exec (.imin d a b) s) s x false (fun a b _ => if a ≤ b then a else b)) ∧
    (Issues (.imax d a b) s x → IntegerResult (exec (.imax d a b) s) s x false (fun a b _ => if a ≤ b then b else a)) ∧
    (Issues (.iabs d a) s x → IntegerResult (exec (.iabs d a) s) s x true (fun a _ _ => if a < 0 then -a else a)) ∧
    (Issues (.ineg d a) s x → IntegerResult (exec (.ineg d a) s) s x true (fun a _ _ => -a))

/-- R324, AND to NOT: every bit of the destination is the function of the same bits of the operands. R324, SHL to BREV: the shifts, the rotation, the
counts and the reversal on elements of the TYPE width.
Lanes that R320 leaves UNKNOWN are not spoken of. -/
def Obligations.LogicShiftAndCountResults : Prop :=
  (∀ (s : State) (x : Iss) (d a b : BitVec 8),
      (Issues (.and d a b) s x → Completes (exec (.and d a b) s) s x false 0 (fun t => Bitwise t x (fun a b => a && b))) ∧
      (Issues (.or d a b) s x → Completes (exec (.or d a b) s) s x false 0 (fun t => Bitwise t x (fun a b => a || b))) ∧
      (Issues (.xor d a b) s x → Completes (exec (.xor d a b) s) s x false 0 (fun t => Bitwise t x (fun a b => a ^^ b))) ∧
      (Issues (.andn d a b) s x → Completes (exec (.andn d a b) s) s x false 0 (fun t => Bitwise t x (fun a b => a && !b))) ∧
      (Issues (.not d a) s x → Completes (exec (.not d a) s) s x false 0 (fun t => Bitwise t x (fun a _ => !a)))) ∧
  (∀ (s : State) (x : Iss) (d a b : BitVec 8),
      (Issues (.shl d a b) s x → BitResult (exec (.shl d a b) s) s x (amountWidth x) x.t.width
        (fun w a n r => r = if w ≤ n then 0 else a * 2 ^ n % 2 ^ w)) ∧
      (Issues (.shr d a b) s x → BitResult (exec (.shr d a b) s) s x (amountWidth x) x.t.width
        (fun w a n r => r = if w ≤ n then 0 else a / 2 ^ n)) ∧
      (Issues (.sar d a b) s x → BitResult (exec (.sar d a b) s) s x (amountWidth x) x.t.width
        (fun w a n r => ∀ i, i < w → r.testBit i = if i + n < w then a.testBit (i + n) else a.testBit (w - 1))) ∧
      (Issues (.rol d a b) s x → BitResult (exec (.rol d a b) s) s x (amountWidth x) x.t.width
        (fun w a n r => ∀ i, i < w → r.testBit ((i + n) % w) = a.testBit i)) ∧
      (Issues (.popc d a) s x → BitResult (exec (.popc d a) s) s x x.t.width (amountWidth x)
        (fun w a _ r => r = ((List.range w).filter (fun i => a.testBit i)).length)) ∧
      (Issues (.clz d a) s x → BitResult (exec (.clz d a) s) s x x.t.width (amountWidth x)
        (fun w a _ r => r ≤ w ∧ a < 2 ^ (w - r) ∧ (r < w → a.testBit (w - 1 - r) = true))) ∧
      (Issues (.ctz d a) s x → BitResult (exec (.ctz d a) s) s x x.t.width (amountWidth x)
        (fun w a _ r => r ≤ w ∧ (∀ i, i < r → a.testBit i = false) ∧ (r < w → a.testBit r = true))) ∧
      (Issues (.brev d a) s x → BitResult (exec (.brev d a) s) s x x.t.width x.t.width
        (fun w a _ r => ∀ i, i < w → r.testBit i = a.testBit (w - 1 - i))))

/-- R325: BFX reads the field of b sign- or zero-extended, BFI replaces it in d and keeps the other bits; the effective length is 0 from lo = w on,
and else the smaller of len and w - lo.
Lanes that R320 leaves UNKNOWN are not spoken of. -/
def Obligations.BitFieldResults : Prop :=
  ∀ (s : State) (x : Iss) (d a b : BitVec 8),
    (Issues (.bfx d a b) s x → BitResult (exec (.bfx d a b) s) s x 32 x.t.width (fun w a b r =>
      let lo := b % 256
      let len := if w ≤ lo then 0 else min (b / 256 % 256) (w - lo)
      ∀ i, i < w → r.testBit i = if i < len then a.testBit (lo + i) else if x.t.signed ∧ len ≠ 0 then a.testBit (lo + len - 1) else false)) ∧
    (Issues (.bfi d a b) s x → Completes (exec (.bfi d a b) s) s x false 0 (fun t => Elements t x 32 x.t.width (fun a b d r =>
      let lo := b % 256
      let len := if x.t.width ≤ lo then 0 else min (b / 256 % 256) (x.t.width - lo)
      ∀ i, i < x.t.width → r.testBit i = if lo ≤ i ∧ i < lo + len then a.testBit (i - lo) else d.testBit i)))

/-- R326: each compare gives a predicate its outcome, and each element of a register all ones or zero; under a 64-bit TYPE the result is one register.
R327: SEL takes a where the old d is not zero and b where it is; MOV copies bits, and writes (a ≠ 0) to a predicate.
Lanes that R320 leaves UNKNOWN are not spoken of. -/
def Obligations.CompareSelectAndMoveResults : Prop :=
  (∀ (s : State) (x : Iss) (d a b : BitVec 8),
      (Issues (.icmpeq d a b) s x → CompareResult (exec (.icmpeq d a b) s) s x (fun a b => decide (a = b))) ∧
      (Issues (.icmpne d a b) s x → CompareResult (exec (.icmpne d a b) s) s x (fun a b => decide (a ≠ b))) ∧
      (Issues (.icmplt d a b) s x → CompareResult (exec (.icmplt d a b) s) s x (fun a b => decide (a < b))) ∧
      (Issues (.icmple d a b) s x → CompareResult (exec (.icmple d a b) s) s x (fun a b => decide (a < b) || decide (a = b))) ∧
      (Issues (.icmpgt d a b) s x → CompareResult (exec (.icmpgt d a b) s) s x (fun a b => decide (b < a))) ∧
      (Issues (.icmpge d a b) s x → CompareResult (exec (.icmpge d a b) s) s x (fun a b => !decide (a < b)))) ∧
  (∀ (s : State) (x : Iss) (d a b : BitVec 8),
      (Issues (.sel d a b) s x → Completes (exec (.sel d a b) s) s x false 0 (fun t =>
        Holds t x (fun l => if x.vd l ≠ 0 then x.va l else x.vb l))) ∧
      (Issues (.mov d a) s x → Completes (exec (.mov d a) s) s x false 0 (fun t =>
        Holds t x (fun l => if x.predDst = true then (if x.va l ≠ 0 then 1 else 0) else x.va l))))

/-! ### Addresses and descriptors (R328 to R333) -/

/-- R328 to R330: 64-bit sums and differences, ADDA with bit 60 set outside the 56-bit range, and the tag field. R331 to R333: a descriptor form
builds, derives or reads a descriptor, and takes the handle fault 0x30 with its word as INFO where the descriptor or the request is invalid.
Lanes that R320 leaves UNKNOWN are not spoken of. -/
def Obligations.AddressAndDescriptorForms : Prop :=
  (∀ (s : State) (x : Iss) (d a b : BitVec 8),
      (Issues (.iadd64 d a b) s x → Completes (exec (.iadd64 d a b) s) s x false 0 (fun t =>
        Holds t x (fun l => (x.va l + x.vb l) % 2 ^ 64))) ∧
      (Issues (.isub64 d a b) s x → Completes (exec (.isub64 d a b) s) s x false 0 (fun t =>
        Holds t x (fun l => wrap 64 ((x.va l : Int) - (x.vb l : Int))))) ∧
      (Issues (.adda d a b) s x → Completes (exec (.adda d a b) s) s x false 0 (fun t =>
        ∀ l, l < x.n → laneIn x.sure l = true →
          let r := dstAt t x.ref.team x.f.d l 2
          let sum : Int := ((x.va l % 2 ^ 56 : Nat) : Int) + sgn 32 (x.vb l)
          r % 2 ^ 56 = wrap 56 sum ∧ fld r 56 4 = fld (x.va l) 56 4 ∧
          fld r 60 4 = fld (x.va l) 60 4 ||| (if sum < 0 ∨ ((2 ^ 56 : Nat) : Int) ≤ sum then 1 else 0))) ∧
      (Issues (.tagset d a b) s x → Completes (exec (.tagset d a b) s) s x false 0 (fun t =>
        ∀ l, l < x.n → laneIn x.sure l = true →
          let r := dstAt t x.ref.team x.f.d l 2
          r % 2 ^ 56 = x.va l % 2 ^ 56 ∧ fld r 56 4 = x.vb l % 16 ∧ fld r 60 4 = fld (x.va l) 60 4)) ∧
      (Issues (.tagget d a) s x → Completes (exec (.tagget d a) s) s x false 0 (fun t =>
        Holds t x (fun l => x.va l / 2 ^ 56 % 16)))) ∧
  (∀ (s : State) (x : Iss) (d a b : BitVec 8),
      (Issues (.bdmake d a b) s x →
        let p := x.va 0
        let q := x.vb 0
        let v := p % 2 ^ 60 + (q % 2 ^ 45) * 2 ^ 64 + 2 ^ 127
        if p / 2 ^ 60 = 0 ∧ q / 2 ^ 45 = 0 ∧ (descOf v).valid = true
        then Completes (exec (.bdmake d a b) s) s x false 0 (fun t => Holds t x (fun _ => v))
        else TakesFault (exec (.bdmake d a b) s) s x 0x30 x.f.word) ∧
      (Issues (.bdnarrow d a b) s x →
        let old := descOf (x.va 0)
        let q := x.vb 0
        let start := q % 2 ^ 32 * 2 ^ old.esz
        let count := q / 2 ^ 32 % 2 ^ 28
        let ro := old.ro || q.testBit 60
        let wo := old.wo || q.testBit 61
        if old.valid = true ∧ q / 2 ^ 62 = 0 ∧ start ≤ old.len ∧ (ro && wo) = false
        then Completes (exec (.bdnarrow d a b) s) s x false 0 (fun t => laneIn x.sure x.first = true → x.first < x.n →
          descOf (dstAt t x.ref.team x.f.d x.first 4) = { old with
            base := (old.base + start) % 2 ^ 56
            len := if count = 2 ^ 28 - 1 then old.len - start else min (old.len - start) (count * 2 ^ old.esz)
            ro := ro
            wo := wo })
        else TakesFault (exec (.bdnarrow d a b) s) s x 0x30 x.f.word) ∧
      (Issues (.bdquery d a b) s x →
        let old := descOf (readNat x x.f.a 0 4)
        if old.valid = true
        then Completes (exec (.bdquery d a b) s) s x false 0 (fun t => Holds t x (fun _ => bdqueryOf old (readU x x.f.b).toNat))
        else TakesFault (exec (.bdquery d a b) s) s x 0x30 x.f.word))

/-! ### Floating point (R334 to R342) -/

/-- R334, the fixed-class rows: the exact result of the table is rounded once under MODE for each element, and MODE gathers the exceptions; under SR
each writing lane counts one.
Lanes that R320 leaves UNKNOWN are not spoken of. -/
def Obligations.FloatArithmeticResults : Prop :=
  ∀ (s : State) (x : Iss) (d a b : BitVec 8),
    let fm := fmtOf x.t
    let rdn := decide (x.rnd = 3)
    (Issues (.fadd d a b) s x → ElementResult (exec (.fadd d a b) s) s x true x.t.width (fun l k =>
      rounded x fm l k (fAdd rdn (aVal x l k) (bVal x l k)))) ∧
    (Issues (.fsub d a b) s x → ElementResult (exec (.fsub d a b) s) s x true x.t.width (fun l k =>
      rounded x fm l k (fAdd rdn (aVal x l k) (fNeg (bVal x l k))))) ∧
    (Issues (.fmul d a b) s x → ElementResult (exec (.fmul d a b) s) s x true x.t.width (fun l k =>
      rounded x fm l k (fMul (aVal x l k) (bVal x l k)))) ∧
    (Issues (.fma d a b) s x → ElementResult (exec (.fma d a b) s) s x true x.t.width (fun l k =>
      let p := fMul (aVal x l k) (bVal x l k)
      let q := fAdd rdn p.1 (dVal x l k)
      rounded x fm l k (q.1, p.2 ||| q.2))) ∧
    (Issues (.fms d a b) s x → ElementResult (exec (.fms d a b) s) s x true x.t.width (fun l k =>
      let p := fMul (aVal x l k) (bVal x l k)
      let q := fAdd rdn p.1 (fNeg (dVal x l k))
      rounded x fm l k (q.1, p.2 ||| q.2))) ∧
    (Issues (.fnma d a b) s x → ElementResult (exec (.fnma d a b) s) s x true x.t.width (fun l k =>
      let p := fMul (aVal x l k) (bVal x l k)
      let q := fAdd rdn (fNeg p.1) (dVal x l k)
      rounded x fm l k (q.1, p.2 ||| q.2))) ∧
    (Issues (.fldexp d a b) s x → ElementResult (exec (.fldexp d a b) s) s x true x.t.width (fun l k =>
      rounded x fm l k (fLdexp (sgn (amountWidth x) (fld (x.vb l) (amountWidth x * k) (amountWidth x))) (aVal x l k))))

/-- R336: the sign bit is cleared, inverted or copied from b and every other bit is kept; nothing is raised. R337 to R339 and R341: minimum and
maximum, FCLASS and FGETEXP. R338: a predicate takes the outcome of a floating compare, an element of a register all ones or zero, and the invalid
exception is the one of the table.
Lanes that R320 leaves UNKNOWN are not spoken of. -/
def Obligations.FloatSignOrderAndCompareResults : Prop :=
  (∀ (s : State) (x : Iss) (d a b : BitVec 8),
      (Issues (.fabs d a) s x → BitResult (exec (.fabs d a) s) s x x.t.width x.t.width
        (fun w a _ r => ∀ i, i < w → r.testBit i = if i = w - 1 then false else a.testBit i)) ∧
      (Issues (.fneg d a) s x → BitResult (exec (.fneg d a) s) s x x.t.width x.t.width
        (fun w a _ r => ∀ i, i < w → r.testBit i = if i = w - 1 then !a.testBit i else a.testBit i)) ∧
      (Issues (.fcopysign d a b) s x → BitResult (exec (.fcopysign d a b) s) s x x.t.width x.t.width
        (fun w a b r => ∀ i, i < w → r.testBit i = if i = w - 1 then b.testBit i else a.testBit i))) ∧
  (∀ (s : State) (x : Iss) (d a b : BitVec 8),
      let fm := fmtOf x.t
      (Issues (.fmin d a b) s x → ElementResult (exec (.fmin d a b) s) s x false x.t.width (fun l k =>
        rounded x fm l k (fMinMax false false (aVal x l k) (bVal x l k)))) ∧
      (Issues (.fmax d a b) s x → ElementResult (exec (.fmax d a b) s) s x false x.t.width (fun l k =>
        rounded x fm l k (fMinMax true false (aVal x l k) (bVal x l k)))) ∧
      (Issues (.fminm d a b) s x → ElementResult (exec (.fminm d a b) s) s x false x.t.width (fun l k =>
        rounded x fm l k (fMinMax false true (aVal x l k) (bVal x l k)))) ∧
      (Issues (.fmaxm d a b) s x → ElementResult (exec (.fmaxm d a b) s) s x false x.t.width (fun l k =>
        rounded x fm l k (fMinMax true true (aVal x l k) (bVal x l k)))) ∧
      (Issues (.fclass d a) s x → ElementResult (exec (.fclass d a) s) s x false (sideWidth x) (fun l k => (fClass fm (aBits x l k), 0))) ∧
      (Issues (.fgetexp d a) s x → ElementResult (exec (.fgetexp d a) s) s x false (sideWidth x) (fun l k =>
        fGetexp (sideWidth x) (aVal x l k)))) ∧
  (∀ (s : State) (x : Iss) (d a b : BitVec 8),
      let unordered := fun l k => (aVal x l k).isNan || (bVal x l k).isNan
      let signalling := fun l k => (aVal x l k).isSNan || (bVal x l k).isSNan
      let less := fun l k => !unordered l k && fLt (aVal x l k) (bVal x l k)
      let equal := fun l k => !unordered l k && fEq (aVal x l k) (bVal x l k)
      (Issues (.fcmpeq d a b) s x → FloatCompare (exec (.fcmpeq d a b) s) s x (fun l k => (equal l k, signalling l k))) ∧
      (Issues (.fcmpne d a b) s x → FloatCompare (exec (.fcmpne d a b) s) s x (fun l k => (!equal l k, signalling l k))) ∧
      (Issues (.fcmplt d a b) s x → FloatCompare (exec (.fcmplt d a b) s) s x (fun l k => (less l k, unordered l k))) ∧
      (Issues (.fcmple d a b) s x → FloatCompare (exec (.fcmple d a b) s) s x (fun l k => (less l k || equal l k, unordered l k))) ∧
      (Issues (.fcmpun d a b) s x → FloatCompare (exec (.fcmpun d a b) s) s x (fun l k => (unordered l k, signalling l k))))

/-- R340: the integral roundings use RDN, RUP, RTZ and MODE.RND, and only FRINT may raise inexact; of the four only FRINT takes stochastic words.
R342: a dot product of packed elements and the FP32 accumulator d is exact and rounded once to FP32.
Lanes that R320 leaves UNKNOWN are not spoken of. -/
def Obligations.RoundingAndDotProductResults : Prop :=
  (∀ (s : State) (x : Iss) (d a : BitVec 8),
      let fm := fmtOf x.t
      (Issues (.ffloor d a) s x → ElementResult (exec (.ffloor d a) s) s x false x.t.width (fun l k => fRint fm 3 false (srOf x l k) (aVal x l k))) ∧
      (Issues (.fceil d a) s x → ElementResult (exec (.fceil d a) s) s x false x.t.width (fun l k => fRint fm 2 false (srOf x l k) (aVal x l k))) ∧
      (Issues (.ftrunc d a) s x → ElementResult (exec (.ftrunc d a) s) s x false x.t.width (fun l k => fRint fm 1 false (srOf x l k) (aVal x l k))) ∧
      (Issues (.frint d a) s x → ElementResult (exec (.frint d a) s) s x true x.t.width (fun l k => fRint fm x.rnd true (srOf x l k) (aVal x l k)))) ∧
  (∀ (s : State) (x : Iss) (d a b : BitVec 8),
      let dot := fun (n : Nat) (l : Nat) => rounded x fp32 l 0 (fDot (decide (x.rnd = 3))
        ((List.range n).map (fun k => (aVal x l k, bVal x l k))) (fval fp32 x.ftz (x.vd l)))
      (Issues (.fdot2 d a b) s x → LaneResult (exec (.fdot2 d a b) s) s x true (dot 2)) ∧
      (Issues (.fdot4 d a b) s x → LaneResult (exec (.fdot4 d a b) s) s x true (dot 4)))

/-- R322, R323, R334 and R335, the execution-class forms: with an active lane their results and exceptions are in flight under SETX, to be written by
OPERATION_COMPLETE; IDIV and IREM raise divide by zero for a zero divisor. R335, the rows whose operands are one value: what the exact forms give at
zeros, infinities and negative numbers.
Lanes that R320 leaves UNKNOWN are not spoken of. -/
def Obligations.ExecutionForms : Prop :=
  (∀ (s : State) (x : Iss) (d a b : BitVec 8),
      let t := x.t
      let fm := fmtOf t
      let zero := fun l k => if bBits x l k = 0 then excDZ else excNone
      (Issues (.idiv d a b) s x → ExecutionResult (exec (.idiv d a b) s) s x t.elems (fun l k =>
        let p := iVal t (aBits x l k)
        let q := iVal t (bBits x l k)
        (iReduce t x.sat (if q = 0 then (if t.signed then -1 else iMax t) else p.tdiv q), zero l k))) ∧
      (Issues (.irem d a b) s x → ExecutionResult (exec (.irem d a b) s) s x t.elems (fun l k =>
        let p := iVal t (aBits x l k)
        let q := iVal t (bBits x l k)
        (wrap t.width (if q = 0 then p else p - q * p.tdiv q), zero l k))) ∧
      (Issues (.fdiv d a b) s x → ExecutionResult (exec (.fdiv d a b) s) s x t.elems (fun l k => rounded x fm l k (fDiv (aVal x l k) (bVal x l k)))) ∧
      (Issues (.frcp d a) s x → ExecutionResult (exec (.frcp d a) s) s x t.elems (fun l k => rounded x fm l k (fDiv fOne (aVal x l k)))) ∧
      (Issues (.frsq d a) s x → ExecutionResult (exec (.frsq d a) s) s x t.elems (fun l k => rounded x fm l k (fRsqrt (aVal x l k)))) ∧
      (Issues (.fsqrt d a) s x → ExecutionResult (exec (.fsqrt d a) s) s x t.elems (fun l k => rounded x fm l k (fSqrt (aVal x l k)))) ∧
      (Issues (.fexp2 d a) s x → ExecutionResult (exec (.fexp2 d a) s) s x t.elems (fun l k => rounded x fm l k (fExp2 (aVal x l k)))) ∧
      (Issues (.flog2 d a) s x → ExecutionResult (exec (.flog2 d a) s) s x t.elems (fun l k => rounded x fm l k (fLog2 (aVal x l k)))) ∧
      (Issues (.fsin d a) s x → ExecutionResult (exec (.fsin d a) s) s x t.elems (fun l k => rounded x fm l k (fSinCos false (aVal x l k)))) ∧
      (Issues (.fcos d a) s x → ExecutionResult (exec (.fcos d a) s) s x t.elems (fun l k => rounded x fm l k (fSinCos true (aVal x l k)))) ∧
      (Issues (.ftanh d a) s x → ExecutionResult (exec (.ftanh d a) s) s x t.elems (fun l k => rounded x fm l k (fTanh (aVal x l k))))) ∧
  ((∀ n n' m e st, m ≠ 0 → fDiv (.num n m e st) (.num n' 0 0 false) = (.inf (n ^^ n'), excDZ)) ∧
    (∀ n n', (fDiv (fZero n) (fZero n')).1.isNan = true ∧ (fDiv (fZero n) (fZero n')).2 = excIV) ∧
    (∀ n n', (fDiv (.inf n) (.inf n')).1.isNan = true ∧ (fDiv (.inf n) (.inf n')).2 = excIV) ∧
    (∀ n, fDiv fOne (fZero n) = (.inf n, excDZ)) ∧ (∀ n, fDiv fOne (.inf n) = (fZero n, 0)) ∧
    (∀ n, fRsqrt (fZero n) = (.inf n, excDZ)) ∧ fRsqrt (.inf false) = (fZero false, 0) ∧
    (∀ m e, m ≠ 0 → (fRsqrt (.num true m e false)).1.isNan = true ∧ (fRsqrt (.num true m e false)).2 = excIV) ∧
    (∀ m e, m ≠ 0 → (fSqrt (.num true m e false)).1.isNan = true ∧ (fSqrt (.num true m e false)).2 = excIV) ∧
    fSqrt (fZero true) = (fZero true, 0) ∧
    fExp2 (.inf true) = (fZero false, 0) ∧ fExp2 (.inf false) = (.inf false, 0) ∧
    (∀ n, fLog2 (fZero n) = (.inf true, excDZ)) ∧
    (∀ m e, m ≠ 0 → (fLog2 (.num true m e false)).1.isNan = true ∧ (fLog2 (.num true m e false)).2 = excIV) ∧
    (fLog2 (.inf true)).1.isNan = true ∧ (fLog2 (.inf true)).2 = excIV ∧
    (∀ c n, (fSinCos c (.inf n)).1.isNan = true ∧ (fSinCos c (.inf n)).2 = excIV) ∧
    (∀ n, fTanh (.inf n) = (.num n 1 0 false, 0)) ∧ (∀ n, fTanh (fZero n) = (fZero n, 0)))

/-! ### Conversions, packing and lanes (R343 to R354) -/

/-- R343 and R344: element SSEL of a is converted once to TYPE and stands in element DSEL of the destination, the rest of which a narrow element
keeps; R345: PACK2 fills both halves.
Lanes that R320 leaves UNKNOWN are not spoken of. -/
def Obligations.ConversionResults : Prop :=
  ∀ (s : State) (x : Iss) (d a b : BitVec 8),
    let st := (tyOfCode (bits x.m 4 0)).getD .s32
    let dt := x.t
    let src := fun l => fld (x.va l) (st.width * bits x.m 9 8) st.width
    let sr := fun l => srOf x l (bits x.m 11 10)
    let r : Rnd := { mode := x.rnd, sat := x.sat, ftz := x.ftz }
    let ConvertResult := fun (o : Host.Outcome State Fault Refusal) (random : Bool) (g : Nat → Nat × Exc) =>
      ∃ ex, RaisedBy x 1 ex (fun l _ => (g l).2) ∧ Completes o s x random ex (fun t =>
        ∀ l, l < x.n → laneIn x.sure l = true →
          let v := dstAt t x.ref.team x.f.d l (dstRegs x)
          fld v (dt.width * bits x.m 11 10) dt.width = (g l).1 % 2 ^ dt.width ∧
          ∀ i, i < 32 → (i < dt.width * bits x.m 11 10 ∨ dt.width * bits x.m 11 10 + dt.width ≤ i) → v.testBit i = (x.vd l).testBit i)
    (Issues (.cvtff d a b) s x → ConvertResult (exec (.cvtff d a b) s) true (fun l => fround (fmtOf dt) r (sr l) (fval (fmtOf st) x.ftz (src l)))) ∧
    (Issues (.cvtfi d a b) s x → ConvertResult (exec (.cvtfi d a b) s) true (fun l => cvtToInt dt x.rnd (sr l) (fval (fmtOf st) x.ftz (src l)))) ∧
    (Issues (.cvtif d a b) s x → ConvertResult (exec (.cvtif d a b) s) true (fun l => fround (fmtOf dt) r (sr l) (ofInt (iVal st (src l))))) ∧
    (Issues (.cvtii d a b) s x → ConvertResult (exec (.cvtii d a b) s) false (fun l => (iReduce dt x.sat (iVal st (src l)), 0))) ∧
    (Issues (.pack2 d a b) s x →
      let half := fun (l e v : Nat) => if dt.float then fround (fmtOf dt) r (srOf x l e) (fval fp32 x.ftz v)
        else (iReduce dt x.sat (iVal (if dt.signed then .s32 else .n32) v), 0)
      ∃ ex, RaisedBy x 1 ex (fun l _ => (half l 0 (x.va l)).2 ||| (half l 1 (x.vb l)).2) ∧
        Completes (exec (.pack2 d a b) s) s x dt.float ex (fun t => ∀ l, l < x.n → laneIn x.sure l = true →
          let v := dstAt t x.ref.team x.f.d l 1
          fld v 0 16 = (half l 0 (x.va l)).1 % 2 ^ 16 ∧ fld v 16 16 = (half l 1 (x.vb l)).1 % 2 ^ 16))

/-- R346 to R349: SCALEMAKE, QPACK into one nibble of d, QUNPACK, and SRSEED, which seeds the active and helper lanes.
Lanes that R320 leaves UNKNOWN are not spoken of. -/
def Obligations.QuantisationResults : Prop :=
  ∀ (s : State) (x : Iss) (d a b : BitVec 8),
    (Issues (.scalemake d a b) s x → LaneResult (exec (.scalemake d a b) s) s x false (fun l => (scaleMake (x.va l) (fld (x.vb l) 0 2), 0))) ∧
    (Issues (.qpack d a b) s x →
      let code := fun l => qPack x.rnd (srOf x l (fld (x.vb l) 8 3)) (x.va l) (fld (x.vb l) 0 8)
      ∃ ex, RaisedBy x 1 ex (fun l _ => (code l).2) ∧ Completes (exec (.qpack d a b) s) s x true ex (fun t =>
        ∀ l, l < x.n → laneIn x.sure l = true →
          let n := fld (x.vb l) 8 3
          let v := dstAt t x.ref.team x.f.d l 1
          fld v (4 * n) 4 = (code l).1 % 16 ∧ ∀ i, i < 32 → (i < 4 * n ∨ 4 * n + 4 ≤ i) → v.testBit i = (x.vd l).testBit i)) ∧
    (Issues (.qunpack d a b) s x → LaneResult (exec (.qunpack d a b) s) s x false (fun l =>
      (qUnpack (fld (x.va l) (4 * fld (x.vb l) 8 3) 4) (fld (x.vb l) 0 8), 0))) ∧
    (Issues (.srseed a) s x → ∃ t, exec (.srseed a) s = .next t ∧ Inner s t x ∧ Advanced x t ∧ splitRegs t x.ref = some x.split.regs ∧
      (∀ n, flagAt t x.ref n = flagAt s x.ref n) ∧ (∀ r, regAt t x.ref.team r = regAt s x.ref.team r) ∧
      ∃ u, teamOf t x.ref.team = some u ∧ ∀ l, l < x.n → laneIn x.mixed l = false →
        mapGet 0 u.srsv l = (if laneIn x.all l then readWord x x.f.a 0 l else mapGet 0 x.team.srsv l) ∧
        mapGet 0 u.srcnt l = (if laneIn x.all l then 0 else mapGet 0 x.team.srcnt l))

/-- R350 to R352: each lane form gives its lane the value of the lane the table names; RDLANE, LBCAST give 0 from %nlanes on, and WRLANE writes the
one lane it names when that is active.
Lanes that R320 leaves UNKNOWN are not spoken of. -/
def Obligations.LaneMoveResults : Prop :=
  ∀ (s : State) (x : Iss) (d a b : BitVec 8),
    let k := (readU x x.f.b).toNat
    (Issues (.qswapx d a) s x → Moves (exec (.qswapx d a) s) s x (fun l => l ^^^ 1)) ∧
    (Issues (.qswapy d a) s x → Moves (exec (.qswapy d a) s) s x (fun l => l ^^^ 2)) ∧
    (Issues (.qswapd d a) s x → Moves (exec (.qswapd d a) s) s x (fun l => l ^^^ 3)) ∧
    (Issues (.qbcast d a b) s x → Moves (exec (.qbcast d a b) s) s x (fun l => 4 * (l / 4) + k % 4)) ∧
    (Issues (.lshfl d a b) s x → Moves (exec (.lshfl d a b) s) s x (fun l => 32 * (l / 32) + (readWord x x.f.b 0 l).toNat % 32)) ∧
    (Issues (.lshflup d a b) s x → Moves (exec (.lshflup d a b) s) s x (fun l => if k ≤ l % 32 then l - k else l)) ∧
    (Issues (.lshfldn d a b) s x → Moves (exec (.lshfldn d a b) s) s x (fun l => if l % 32 + k < 32 then l + k else l)) ∧
    (Issues (.lbcast d a b) s x → (k < x.n → Moves (exec (.lbcast d a b) s) s x (fun _ => k)) ∧
      (x.n ≤ k → LaneResult (exec (.lbcast d a b) s) s x false (fun _ => (0, 0)))) ∧
    (Issues (.rdlane d a b) s x → (k < x.n → Moves (exec (.rdlane d a b) s) s x (fun _ => k)) ∧
      (x.n ≤ k → LaneResult (exec (.rdlane d a b) s) s x false (fun _ => (0, 0)))) ∧
    (Issues (.wrlane d a b) s x → Completes (exec (.wrlane d a b) s) s x false 0 (fun t => ∀ l, l < x.n →
      dstAt t x.ref.team x.f.d l 1 = if l = k ∧ laneIn x.active l = true then (readU x x.f.a).toNat else dstAt s x.ref.team x.f.d l 1))

/-- R353: any, all and ballot, the count of the true active lanes, the lowest of them, and the lanes of a row that hold a lane's value. R354: LSCAN
combines the active lanes below a lane, with the lane itself unless EX is set, by a left fold; LRED combines the whole active set, floating values by
the tree of R172; integers are combined exactly and reduced once.
Lanes that R320 leaves UNKNOWN are not spoken of. -/
def Obligations.VoteAndScanResults : Prop :=
  (∀ (s : State) (x : Iss) (d a b : BitVec 8),
      let yes := fun l => laneIn x.active l && readTrue x x.f.a l
      (Issues (.lvote d a b) s x → Completes (exec (.lvote d a b) s) s x false 0 (fun t =>
        (bits x.m 1 0 = 0 → (someLane x (readTrue x x.f.a) → Holds t x (fun _ => 1)) ∧ (¬ someLane x (readTrue x x.f.a) → Holds t x (fun _ => 0))) ∧
        (bits x.m 1 0 = 1 → (everyLane x (readTrue x x.f.a) → Holds t x (fun _ => 1)) ∧ (¬ everyLane x (readTrue x x.f.a) → Holds t x (fun _ => 0))) ∧
        (bits x.m 1 0 = 2 → ∀ l, l < x.n → laneIn x.sure l = true → ∀ i, i < 32 →
          ((dstAt t x.ref.team x.f.d l 1).testBit i = true ↔
            if x.scalarDst then i < x.team.rows ∧ ∃ k, k / 32 = i ∧ k < x.n ∧ yes k = true
            else 32 * (l / 32) + i < x.n ∧ yes (32 * (l / 32) + i) = true)))) ∧
      (Issues (.lpopc d a) s x → LaneResult (exec (.lpopc d a) s) s x false (fun _ => (((List.range x.n).filter yes).length, 0))) ∧
      (Issues (.lfirst d a) s x → Completes (exec (.lfirst d a) s) s x false 0 (fun t => ∀ l, l < x.n → laneIn x.sure l = true →
        let r := dstAt t x.ref.team x.f.d l 1
        (someLane x (readTrue x x.f.a) → r < x.n ∧ yes r = true ∧ ∀ j, j < r → yes j = false) ∧
        (¬ someLane x (readTrue x x.f.a) → r = 0xFFFFFFFF))) ∧
      (Issues (.lmatch d a) s x → Completes (exec (.lmatch d a) s) s x false 0 (fun t => ∀ l, l < x.n → laneIn x.sure l = true → ∀ i, i < 32 →
        let k := 32 * (l / 32) + i
        (dstAt t x.ref.team x.f.d l 1).testBit i = (laneIn x.active k && decide (readWord x x.f.a 0 k = readWord x x.f.a 0 l))))) ∧
  (∀ (s : State) (x : Iss) (d a b : BitVec 8),
      let op := bits x.m 2 0
      let ty := x.t
      let value := fun (tree : Bool) (ls : List Nat) =>
        if ty.float then
          let vs := ls.map (fun l => (x.va l, (0 : Exc)))
          let f := floatComb (fmtOf ty) x.ftz op
          if tree then (treeFold f vs.length vs).getD (floatIdent (fmtOf ty) op, 0) else foldFrom (floatIdent (fmtOf ty) op, 0) f vs
        else (iReduce ty x.sat (foldFrom (intIdent ty op) (intComb ty op) (ls.map (fun l => iVal ty (x.va l)))), 0)
      (Issues (.lscan d a b) s x → LaneResult (exec (.lscan d a b) s) s x false (fun l =>
        value false ((List.range x.n).filter (fun k => laneIn x.active k && (decide (k < l) || (decide (k = l) && decide (bits x.m 3 3 = 0))))))) ∧
      (Issues (.lred d a b) s x → LaneResult (exec (.lred d a b) s) s x false (fun _ =>
        value true ((List.range x.n).filter (fun k => laneIn x.active k)))))

/-! ### MODE, pacing, control transfer and divergence (R382 to R393) -/

/-- R391 to R393: NOP retires; YIELD takes a new stamp, the highest of its partition; SLEEP holds the split for the cycles of its operand, at most
2^20; the MODE forms write their fields and no other bit of MODE. -/
def Obligations.ModeAndPacingForms : Prop :=
  ∀ (s : State) (x : Iss) (a b : BitVec 8) (g : BitVec 3) (n : BitVec 1) (ty : BitVec 5),
    let ModeBecomes := fun (o : Host.Outcome State Fault Refusal) (P : Word → Prop) =>
      ∃ m, P m ∧ Passes o s x { x.split.regs with mode := m }
    (Issues .nop s x → Passes (exec .nop s) s x x.split.regs) ∧
    (Issues .yield s x → ∃ t sp, exec .yield s = .next t ∧ Retired s t x ∧ splitOf t x.ref = some sp ∧
      mapGet 0 t.stamps (partKey x.team) = sp.stamp + 1) ∧
    (Issues (.sleep a) s x → ∃ t, exec (.sleep a) s = .next t ∧ Retired s t x ∧
      (x.active ≠ 0 → x.disp.ordered = false → 0 < (readU x a).toNat →
        ∃ sp, splitOf t x.ref = some sp ∧ sp.hold = .sleep (min (readU x a).toNat (2 ^ 20)))) ∧
    (Issues (.modeset a b) s x → ModeBecomes (exec (.modeset a b) s) (fun m => ∀ i, i < 32 →
      m.getLsbD i = if (readU x b).getLsbD i then (readU x a).getLsbD i else x.split.mode.getLsbD i)) ∧
    (Issues (.modegrd g n) s x → ModeBecomes (exec (.modegrd g n) s) (fun m => bits m 2 0 = g.toNat ∧ bits m 3 3 = n.toNat ∧
      ∀ i, 4 ≤ i → m.getLsbD i = x.split.mode.getLsbD i)) ∧
    (Issues (.modetyp ty) s x → ModeBecomes (exec (.modetyp ty) s) (fun m => bits m 8 4 = ty.toNat ∧
      ∀ i, i < 4 ∨ 9 ≤ i → m.getLsbD i = x.split.mode.getLsbD i)) ∧
    (Issues (.modernd g) s x → ModeBecomes (exec (.modernd g) s) (fun m => bits m 11 9 = g.toNat ∧
      ∀ i, i < 9 ∨ 12 ≤ i → m.getLsbD i = x.split.mode.getLsbD i))

/-- R382 and R383: a branch takes the whole split to its target where its condition holds, and passes where it does not; a call leaves the address of
the next clause in its destination pair, and a target outside the address range or not aligned is the fault of its check. R388: BTBL faults with an
index beyond the table, goes whole where every active lane has one index, and else takes the lowest index and leaves the others pending in ascending
order. -/
def Obligations.BranchForms : Prop :=
  (∀ (s : State) (x : Iss) (d a b : BitVec 8),
      let Links := fun (o : Host.Outcome State Fault Refusal) (to_ : BitVec 56) =>
        ∃ t, o = .next t ∧ Wrote s t x d 2 x.active ∧ WentTo x to_ t ∧ ∀ l, laneIn x.active l = true →
          dstAt t x.ref.team d l 2 = (nextClause x.clause).toNat
      let ga := readU64 x a
      (Issues (.bra b) s x → (x.active = 0 → Passes (exec (.bra b) s) s x x.split.regs) ∧
        (x.active ≠ 0 → Goes (exec (.bra b) s) s x (goal x (readU x b)) x.split.regs)) ∧
      (Issues (.brany a b) s x → (¬ someLane x (readTrue x a) → Passes (exec (.brany a b) s) s x x.split.regs) ∧
        (someLane x (readTrue x a) → Goes (exec (.brany a b) s) s x (goal x (readU x b)) x.split.regs)) ∧
      (Issues (.brall a b) s x →
        (x.active = 0 ∨ ¬ everyLane x (readTrue x a) → Passes (exec (.brall a b) s) s x x.split.regs) ∧
        (x.active ≠ 0 → everyLane x (readTrue x a) → Goes (exec (.brall a b) s) s x (goal x (readU x b)) x.split.regs)) ∧
      (Issues (.call d b) s x → (x.active = 0 → Passes (exec (.call d b) s) s x x.split.regs) ∧
        (x.active ≠ 0 → Links (exec (.call d b) s) (goal x (readU x b)))) ∧
      (Issues (.calli d a) s x → (x.active = 0 → Passes (exec (.calli d a) s) s x x.split.regs) ∧
        (x.active ≠ 0 → if ga.extractLsb' 60 4 ≠ 0 then TakesFault (exec (.calli d a) s) s x 0x10 1
          else if bits ga 1 0 ≠ 0 then TakesFault (exec (.calli d a) s) s x 0x11 1
          else Links (exec (.calli d a) s) (ga.setWidth 56))) ∧
      (Issues (.ret a) s x → (x.active = 0 → Passes (exec (.ret a) s) s x x.split.regs) ∧
        (x.active ≠ 0 → if ga.extractLsb' 60 4 ≠ 0 then TakesFault (exec (.ret a) s) s x 0x10 1
          else if bits ga 1 0 ≠ 0 then TakesFault (exec (.ret a) s) s x 0x11 1
          else Goes (exec (.ret a) s) s x (ga.setWidth 56) x.split.regs))) ∧
  (∀ (s : State) (x : Iss) (a : BitVec 8), Issues (.btbl a) s x →
      let at_ := fun l => (readWord x a 0 l).toNat
      let count := x.clause.lits.length
      let goesTo := fun i => goal x (litWord x.clause i)
      let group := fun i => maskOf x.n (fun l => laneIn x.active l && decide (at_ l = i))
      let join := nextClause x.clause
      let depth := x.split.stack.length
      (someLane x (fun l => decide (count ≤ at_ l)) → TakesFault (exec (.btbl a) s) s x 0x55 0) ∧
      (¬ someLane x (fun l => decide (count ≤ at_ l)) → ∀ keys, keys = (List.range count).filter (fun i =>
          (List.range x.n).any (fun l => laneIn x.active l && decide (at_ l = i))) →
        (keys = [] → Passes (exec (.btbl a) s) s x x.split.regs) ∧
        (∀ i, keys = [i] → Goes (exec (.btbl a) s) s x (goesTo i) x.split.regs) ∧
        (∀ i j more, keys = i :: j :: more →
          (x.disp.ssDepth < depth + keys.length → TakesFault (exec (.btbl a) s) s x 0x54 0) ∧
          (depth + keys.length ≤ x.disp.ssDepth → depth + keys.length ≤ 16 → Goes (exec (.btbl a) s) s x (goesTo i)
            { x.split.regs with mask := group i, stack := (j :: more).map (fun k => StackEntry.pending join (group k) (goesTo k) x.split.mode) ++
                (StackEntry.rejoin join x.split.mask x.split.mode 0 :: x.split.stack) }))))

/-- R384 and R385: BRP passes with no taken lane, goes whole with no other, splits the team in two where it is one split with an empty stack, and else
pushes the two entries, which is the overflow fault beyond SSDEPTH. -/
def Obligations.DivergentBranch : Prop :=
  ∀ (s : State) (x : Iss) (d a b : BitVec 8), Issues (.brp d a b) s x →
    let yes := maskOf x.n (fun l => laneIn x.active l && readTrue x a l)
    let other := x.split.mask &&& ~~~yes
    let there := goal x (readU x b)
    let join := goal x (readU x d)
    let next := nextClause x.clause
    let depth := x.split.stack.length
    let o : SplitRef := { x.ref with high := !x.ref.high }
    (yes = 0 → Passes (exec (.brp d a b) s) s x x.split.regs) ∧
    (yes ≠ 0 → other = 0 → Goes (exec (.brp d a b) s) s x there x.split.regs) ∧
    (yes ≠ 0 → other ≠ 0 →
      (splitIn x.team (!x.ref.high) = none → x.split.stack = [] → ∃ t, exec (.brp d a b) s = .next t ∧ WentTo x there t ∧
        splitRegs t x.ref = some { x.split.regs with mask := yes, dualJoin := some join, dualMode := x.split.mode } ∧
        (∃ sp, splitOf t o = some sp ∧ sp.pc = next ∧ sp.clause = none ∧
          sp.regs = { mask := other, mode := x.split.mode, stack := [], dualJoin := some join, dualMode := x.split.mode, handler := none }) ∧
        (∀ n, flagAt t x.ref n = flagAt s x.ref n ∧ flagAt t o n = flagAt s x.ref n) ∧
        teamRegs t x.ref.team = teamRegs s x.ref.team ∧ (∀ k, k ≠ x.ref.team → teamOf t k = teamOf s k) ∧ outside t = outside s) ∧
      (splitIn x.team (!x.ref.high) ≠ none ∨ x.split.stack ≠ [] →
        (x.disp.ssDepth < depth + 2 → TakesFault (exec (.brp d a b) s) s x 0x54 0) ∧
        (depth + 2 ≤ x.disp.ssDepth → depth + 2 ≤ 16 → Goes (exec (.brp d a b) s) s x there { x.split.regs with
          mask := yes, stack := .pending join other next x.split.mode :: .rejoin join x.split.mask x.split.mode 0 :: x.split.stack })))

/-- R386, for stacks of at most 16 entries and the dual pair: a JOIN that is the join address of the top entry goes on with its pending lanes, or
passes with the rejoined mask and the MODE of the branch; the two splits of a pair fuse when both stand at it, and the first waits; any other JOIN
passes. R194: a JOIN that ends a divergence is held while the team has an access that is not performed. R389: EXIT makes the active lanes absent; a split that keeps lanes goes on, one with none takes the next entry of its stack that has lanes,
and one with an empty stack is gone; the last split of a team ends it. -/
def Obligations.JoinAndExitForms : Prop :=
  (∀ (s : State) (x : Iss), Issues .join s x →
      let here := x.clause.addr
      let live := ~~~x.team.absent
      let o := exec .join s
      let done := NoLog s x ∧ ∀ q ∈ s.outReqs, q.write = true → reqTeam q ≠ some x.ref.team
      let Waits := openEntries s x.ref.team ≠ [] → ∃ t, o = .next t ∧ HeldHere s t x (.stall .log)
      (∀ j m at_ md rest, x.split.stack = .pending j m at_ md :: rest → rest.length < 16 →
        (j = here → Goes o s x at_ (takePending x.split (m &&& live) at_ md rest).regs) ∧ (j ≠ here → Passes o s x x.split.regs)) ∧
      (∀ j m md f rest, x.split.stack = .rejoin j m md f :: rest → rest.length < 16 →
        (j = here → Waits ∧ (done → Passes o s x { x.split.regs with
          mask := m &&& live, mode := joinMode md (f ||| xfOf x.split.mode), stack := rest })) ∧
        (j ≠ here → Passes o s x x.split.regs)) ∧
      (x.split.stack = [] → (x.split.dualJoin ≠ some here → Passes o s x x.split.regs) ∧
        (x.split.dualJoin = some here →
          (splitIn x.team (!x.ref.high) = none → Waits ∧
            (done → Passes o s x { x.split.regs with dualJoin := none, mode := joinMode x.split.dualMode (xfOf x.split.mode) })) ∧
          (∀ p, splitIn x.team (!x.ref.high) = some p →
            (¬ (p.hold = .join ∧ p.pc = here) → ∃ t, o = .next t ∧ HeldHere s t x .join) ∧
            (p.hold = .join ∧ p.pc = here → Waits) ∧
            (p.hold = .join ∧ p.pc = here → done → ∃ t, o = .next t ∧ Advanced { x with ref := { x.ref with high := false } } t ∧
              splitOf t { x.ref with high := true } = none ∧
              splitRegs t { x.ref with high := false } = some { x.split.regs with
                mask := (x.split.mask ||| p.mask) &&& live, dualJoin := none, handler := x.split.handler <|> p.handler,
                mode := joinMode x.split.dualMode (xfOf x.split.mode ||| xfOf p.mode) } ∧
              (∀ n, flagAt t { x.ref with high := false } n = (flagAt s x.ref n || flagAt s { x.ref with high := !x.ref.high } n)) ∧
              teamRegs t x.ref.team = teamRegs s x.ref.team ∧ outside t = outside (lowerRefs x.ref.team s)))))) ∧
  (∀ (s : State) (x : Iss), Issues .exit s x →
      let left := x.split.mask &&& ~~~x.active
      let gone := x.team.absent ||| x.active
      (x.active = 0 → Passes (exec .exit s) s x x.split.regs) ∧
      (x.active ≠ 0 → ∃ t, exec .exit s = .next t ∧ outside t = outside s ∧ (∀ k, k ≠ x.ref.team → teamOf t k = teamOf s k) ∧
        teamRegs t x.ref.team = some { x.team.regs with absent := gone } ∧
        (left ≠ 0 → Advanced x t ∧ splitRegs t x.ref = some { x.split.regs with mask := left }) ∧
        (left = 0 → x.split.stack.length ≤ 16 →
          (∀ q, popFind x gone x.split x.split.stack (popIssue s) = some q →
            WentTo x q.pc t ∧ splitRegs t x.ref = some { x.split.regs with mask := q.mask, mode := q.mode, stack := q.stack }) ∧
          (popFind x gone x.split x.split.stack (popIssue s) = none → splitOf t x.ref = none ∧
            (splitIn x.team (!x.ref.high) = none → Event.teamEnd x.ref.team ∈ t.agenda) ∧
            (∀ p, splitIn x.team (!x.ref.high) = some p → splitRegs t { x.ref with high := !x.ref.high } = some p.regs)))))

/-! ### Traps and the system forms (R399 to R410) -/

/-- R399 to R401: TRAP requests a user trap for the active set and is the double-trap fault in handler state; RTE ends handler state and resumes at
TRAPPC, where the mask and the depth are those of the entry. -/
def Obligations.TrapForms : Prop :=
  ∀ (s : State) (x : Iss) (a : BitVec 8),
    (Issues (.trap a) s x → (x.active = 0 → Passes (exec (.trap a) s) s x x.split.regs) ∧
      (x.active ≠ 0 → x.split.handler ≠ none → TakesFault (exec (.trap a) s) s x 0x56 0) ∧
      (x.active ≠ 0 → x.split.handler = none → ∃ t u, exec (.trap a) s = .next t ∧ Retired s t x ∧ teamOf t x.ref.team = some u ∧
        u.traps = x.team.traps ++ [{ high := x.ref.high, num := s.nextOp, cause := 0x01, exc := 0, info := a, lanes := x.active, addr := x.pc }] ∧
        Event.userTrapEntry x.ref ∈ t.agenda)) ∧
    (Issues .rte s x → (x.active = 0 → Passes (exec .rte s) s x x.split.regs) ∧
      (x.active ≠ 0 → x.split.handler = none → TakesFault (exec .rte s) s x 0x57 0) ∧
      (∀ h, x.active ≠ 0 → x.split.handler = some h → (h.mask ≠ x.split.mask ∨ h.depth ≠ x.split.stack.length) →
        TakesFault (exec .rte s) s x 0x57 0) ∧
      (∀ h, x.active ≠ 0 → x.split.handler = some h → h.mask = x.split.mask → h.depth = x.split.stack.length →
        ∃ t sp, exec .rte s = .next t ∧ Inner s t x ∧ splitOf t x.ref = some sp ∧ sp.regs = { x.split.regs with handler := none } ∧
          (h.wrote = true ∨ h.clause = none → sp.pc = x.team.trapPc.setWidth 56) ∧
          (h.wrote = true → sp.clause = none) ∧
          (∀ c, h.wrote = false → h.clause = some c → sp.pc = c.addr ∧ sp.clause = some c ∧ sp.pos = h.pos) ∧
          (∀ n, flagAt t x.ref n = flagAt s x.ref n) ∧ teamRegs t x.ref.team = teamRegs s x.ref.team))

/-- R406 to R408: RDSR gives the special register that is named, CYCLE the package cycle, the fabric's or, in ordered mode, the block's retired
instructions; WRSR writes TRAPVEC and, in handler state, TRAPPC, and faults on a value that breaks the map. -/
def Obligations.SpecialRegisterForms : Prop :=
  ∀ (s : State) (x : Iss) (d e : BitVec 8) (n : BitVec 4) (f : BitVec 1),
    let Gives := fun (o : Host.Outcome State Fault Refusal) (k v : Nat) =>
      (x.active = 0 → Passes o s x x.split.regs) ∧
      (x.active ≠ 0 → ∃ t, o = .next t ∧ Wrote s t x d k x.active ∧ Advanced x t ∧ dstAt t x.ref.team d 0 k = v % 2 ^ (32 * k))
    let v := readU64 x e
    let bad := if n = 5 then bits v 6 2 ≠ 0 ∨ bits v 63 60 ≠ 0 else bits v 63 56 ≠ 0 ∨ bits v 1 0 ≠ 0
    let Sets := fun (o : Host.Outcome State Fault Refusal) (r : SplitRegs) (g : TeamRegs) =>
      ∃ t, o = .next t ∧ Inner s t x ∧ Advanced x t ∧ splitRegs t x.ref = some r ∧ teamRegs t x.ref.team = some g ∧
        ∀ n, flagAt t x.ref n = flagAt s x.ref n
    (Issues (.rdsr d n e) s x →
      let i := (readU x e).toNat
      let T := x.team
      Gives (exec (.rdsr d n e) s) (fieldRegs x).1 (match n.toNat with
        | 0x00 => x.split.mode.toNat | 0x01 => T.trapVec.toNat | 0x02 => x.ctx.waitlim.toNat | 0x03 => x.ctx.spbase.toNat
        | 0x04 => x.ctx.stkbase.toNat | 0x05 => T.bbBase.toNat
        | 0x06 => (if T.low.isSome ∧ T.high.isSome then 1 else 0) + (if x.split.handler.isSome then 2 else 0) +
            4 * (x.split.stack.length % 256) + (if x.ref.high then 1024 else 0)
        | 0x08 => T.trapPc.toNat | 0x09 => T.trapInfo.toNat | 0x0A => T.trapRows.toNat
        | 0x0B => if i < 32 then bits T.trapMask (32 * i + 31) (32 * i) else 0
        | 0x0C => T.trapCause.toNat | 0x0D => T.trapAddr.toNat | _ => 0)) ∧
    (Issues (.cycle d f) s x → Gives (exec (.cycle d f) s) 2
      (if x.disp.ordered then x.block.retired else if f = 1 then s.cycle + s.fabofs else s.cycle).toNat) ∧
    (Issues (.wrsr n e) s x →
      (bad → TakesFault (exec (.wrsr n e) s) s x 0x3F x.f.word) ∧
      (¬ bad → x.active = 0 → Passes (exec (.wrsr n e) s) s x x.split.regs) ∧
      (¬ bad → x.active ≠ 0 → n = 1 → Sets (exec (.wrsr n e) s) x.split.regs { x.team.regs with trapVec := v }) ∧
      (¬ bad → x.active ≠ 0 → n = 8 → Sets (exec (.wrsr n e) s)
        { x.split.regs with handler := x.split.handler.map (fun h => { h with wrote := true }) } { x.team.regs with trapPc := v }) ∧
      (¬ bad → x.active ≠ 0 → n = 5 → (∀ p ∈ (coreOf s x.team.core).bbhint, ∀ c, p.2 = some c →
          ¬ (c.ctx = x.team.ctx ∧ c.base = bbKey x.team.bbBase)) →
        Sets (exec (.wrsr n e) s) x.split.regs { x.team.regs with bbBase := v }))

/-- R402, R405, R409 and R410: SVC parks its split and queues the record of its call, and without a service ring is a fault; BBHINT adds one to its
counter; BKPT halts the team with a notice where the context enables it. -/
def Obligations.ServiceAndDebugForms : Prop :=
  ∀ (s : State) (x : Iss) (d a : BitVec 8),
    (Issues (.svc d a) s x → (bits x.ctx.svcring 63 63 = 1 → x.active = 0 → Passes (exec (.svc d a) s) s x x.split.regs) ∧
      (bits x.ctx.svcring 63 63 = 0 → TakesFault (exec (.svc d a) s) s x 0x43 x.f.word) ∧
      (x.active ≠ 0 → bits x.ctx.svcring 63 63 = 1 → ReleaseReady s x 5 →
        (s.flushes.find? (fun f => decide (f.2 = x.ref)) = none → ∃ t sp, exec (.svc d a) s = .next t ∧ splitOf t x.ref = some sp ∧
          sp.hold = .stall .flush ∧ sp.pc = x.split.pc ∧ sp.pos = x.split.pos ∧ SameRegs s t ∧ t.mem = s.mem ∧
          ∃ n, (n, x.ref) ∈ t.flushes ∧ Event.pcieCompletion n ∈ t.agenda) ∧
        (s.flushes.find? (fun f => decide (f.2 = x.ref)) = some (flushDone, x.ref) → ∃ t sp, exec (.svc d a) s = .next t ∧ Advanced x t ∧
          splitOf t x.ref = some sp ∧ sp.hold = .stall .service ∧ SameRegs s t ∧ t.mem = s.mem ∧
          (ctxOf t x.team.ctx).svcQ = x.ctx.svcQ ++ [{ split := x.ref, code := a, reg := d.toNat, pc := x.pc, lanes := x.active }] ∧
          Event.svcRecordWrite x.team.ctx ∈ t.agenda))) ∧
    (Issues (.bbhint a) s x → (x.active = 0 → Passes (exec (.bbhint a) s) s x x.split.regs) ∧
      (x.active ≠ 0 →
        let n := (readU x a).toNat % 65536
        let base := bbKey x.team.bbBase
        let cached := fun (i : Nat) => mapGet none (coreOf s x.team.core).bbhint i
        let mine := fun (e : Option BbCounter) => ∃ c, e = some { ctx := x.team.ctx, base := base, n := n, count := c }
        (∀ i c, i < 256 → cached i = some { ctx := x.team.ctx, base := base, n := n, count := c } → (∀ j, j < i → ¬ mine (cached j)) →
          ∃ t, exec (.bbhint a) s = .next t ∧ Retired s t x ∧
            mapGet none (coreOf t x.team.core).bbhint i = some { ctx := x.team.ctx, base := base, n := n, count := c + 1 }) ∧
        ((∀ i, i < 256 → ¬ mine (cached i)) → (∃ i, i < 256 ∧ cached i = none) → ∃ t i, exec (.bbhint a) s = .next t ∧ Retired s t x ∧
          cached i = none ∧ mapGet none (coreOf t x.team.core).bbhint i = some { ctx := x.team.ctx, base := base, n := n, count := 1 }))) ∧
    (Issues (.bkpt a) s x →
      (x.active = 0 ∨ bits x.ctx.ctxpol 2 2 = 0 → Passes (exec (.bkpt a) s) s x x.split.regs) ∧
      (x.active ≠ 0 → bits x.ctx.ctxpol 2 2 = 1 → ∃ t, exec (.bkpt a) s = .next t ∧ Inner s t x ∧ Advanced x t ∧
        splitRegs t x.ref = some x.split.regs ∧ teamRegs t x.ref.team = some { x.team.regs with halted := true } ∧
        ∃ r ∈ (ctxOf t x.team.ctx).faultQ, r.kind = 3 ∧ r.cause = 0x60 ∧ r.pc = x.pc.setWidth 64 ∧ r.info = a.setWidth 32))

/-! ### Memory (R283 to R301) -/

/-- R285 to R288: LD, LDNT and LDACQ load every lane from its effective address, extended as SX says; a lane whose address leaves the range or fails a
check is reported, and the others' values are in flight. LDACQ is an acquire, which from scope dev does not read the L1 (R198). -/
def Obligations.LoadForms : Prop :=
  ∀ (s : State) (x : Iss) (d a b : BitVec 8),
    let p := memLanes x false (accLanes x)
    let sx := decide (bits x.m 3 3 = 1)
    let core := some x.team.core
    let acq := if 3 ≤ bits x.m 6 4 then none else core
    (Issues (.ld d a b) s x → (x.active = 0 → Passes (exec (.ld d a b) s) s x x.split.regs) ∧
      LoadResult (exec (.ld d a b) s) s x (popIssue s) core sx (throughL1 core p).1 p.2 []) ∧
    (Issues (.ldnt d a b) s x → (x.active = 0 → Passes (exec (.ldnt d a b) s) s x x.split.regs) ∧
      LoadResult (exec (.ldnt d a b) s) s x (popIssue s) core sx (throughL1 core p).1 p.2 []) ∧
    (Issues (.ldacq d a b) s x → (x.active = 0 → Passes (exec (.ldacq d a b) s) s x x.split.regs) ∧
      LoadResult (exec (.ldacq d a b) s) s x (popIssue s) acq sx (throughL1 acq p).1 p.2 []) ∧
    (∀ l, l ∈ accLanes x → ∀ e, effAddr (BitVec.ofNat 64 (readNat x x.f.a l 2)) (modOff x.m) = some e →
      ∃ q ∈ p.1, q.lane = l ∧ q.acc.ga = e ∧ q.acc.n = 2 ^ bits x.m 2 0 ∧ q.acc.align = 2 ^ bits x.m 2 0 ∧ q.acc.write = false ∧
        e.extractLsb' 56 8 = (BitVec.ofNat 64 (readNat x x.f.a l 2)).extractLsb' 56 8 ∧
        ((bits e 55 0 : Nat) : Int) = (bits (BitVec.ofNat 64 (readNat x x.f.a l 2)) 55 0 : Int) + modOff x.m)

/-- R203, R287: ST stores the low bytes of each lane's data at its effective address, the highest lane's staying where several store to one byte;
STREL does once its release need not wait (R197), and at sys first sends the flushing read (R211). -/
def Obligations.StoreForms : Prop :=
  ∀ (s : State) (x : Iss) (d a b : BitVec 8),
    let p := memLanes x true (lanesOf x.n x.active)
    let data := fun l => readNat x x.f.d l (fieldRegs x).1 % 2 ^ (8 * 2 ^ bits x.m 2 0)
    (Issues (.st d a b) s x → (x.active = 0 → Passes (exec (.st d a b) s) s x x.split.regs) ∧
      StoreResult (exec (.st d a b) s) s x (popIssue s) p.1 p.2 data) ∧
    (Issues (.strel d a b) s x → (x.active = 0 → Passes (exec (.strel d a b) s) s x x.split.regs) ∧
      (ReleaseFree s x (bits x.m 6 4) → StoreResult (exec (.strel d a b) s) s x (popIssue s) p.1 p.2 data) ∧
      (x.active ≠ 0 → bits x.m 6 4 = 5 → ReleaseReady s x 5 → s.flushes.find? (fun f => decide (f.2 = x.ref)) = none →
        ∃ t sp n, exec (.strel d a b) s = .next t ∧ splitOf t x.ref = some sp ∧ sp.hold = .stall .flush ∧ sp.pc = x.split.pc ∧
          sp.pos = x.split.pos ∧ SameRegs s t ∧ t.mem = s.mem ∧ (n, x.ref) ∈ t.flushes ∧ Event.pcieCompletion n ∈ t.agenda) ∧
      (bits x.m 6 4 = 5 → ReleaseDone s x 5 → StoreResult (exec (.strel d a b) s) s x
        { popIssue s with flushes := s.flushes.filter (fun f => decide (f.2 ≠ x.ref)) } p.1 p.2 data))

/-- R46 to R50, R290: a buffer form takes the handle fault for an invalid descriptor, and else reads or writes the elements that the lanes name; LDBZ
writes zero in the lanes outside the buffer and reports no fault for them. R294: LDSC reads the 256-byte tile that its index names, at a base that is
a multiple of 256, and gives lane l the bytes 0 to 3 of rows l, l xor 16, l xor 32 and l xor 48 of the tile. -/
def Obligations.BufferAndScaleTileForms : Prop :=
  (∀ (s : State) (x : Iss) (d a b : BitVec 8),
      let ds := descOf (readNat x x.f.a 0 4)
      let r := bufLanes x ds false (accLanes x)
      let w := bufLanes x ds true (lanesOf x.n x.active)
      let data := fun l => readNat x x.f.d l (fieldRegs x).1 % 2 ^ (8 * 2 ^ ds.esz)
      let core := some x.team.core
      let l := (throughL1 core (r.1, r.2.1)).1
      (Issues (.ldb d a b) s x → (ds.valid = false → TakesFault (exec (.ldb d a b) s) s x 0x30 x.f.word) ∧
        (ds.valid = true → (x.active = 0 → Passes (exec (.ldb d a b) s) s x x.split.regs) ∧
          LoadResult (exec (.ldb d a b) s) s x (popIssue s) core false l r.2.1 [])) ∧
      (Issues (.ldbz d a b) s x → (ds.valid = false → TakesFault (exec (.ldbz d a b) s) s x 0x30 x.f.word) ∧
        (ds.valid = true → (x.active = 0 → Passes (exec (.ldbz d a b) s) s x x.split.regs) ∧
          LoadResult (exec (.ldbz d a b) s) s x (popIssue s) core false l (r.2.1.filter (fun q => decide (q.cause ≠ 0x12))) r.2.2)) ∧
      (Issues (.stb d a b) s x → (ds.valid = false → TakesFault (exec (.stb d a b) s) s x 0x30 x.f.word) ∧
        (ds.valid = true → (x.active = 0 → Passes (exec (.stb d a b) s) s x x.split.regs) ∧
          StoreResult (exec (.stb d a b) s) s x (popIssue s) w.1 w.2.1 data)) ∧
      (∀ l, l ∈ accLanes x → let i := (readWord x x.f.b 0 l).toNat
        (l ∈ r.2.2 ↔ ds.len < (i + 1) * 2 ^ ds.esz) ∧
        (ds.len < (i + 1) * 2 ^ ds.esz → ∃ q ∈ r.2.1, q.lane = l ∧ q.cause = 0x12) ∧
        ((i + 1) * 2 ^ ds.esz ≤ ds.len → ds.wo = true → ∃ q ∈ r.2.1, q.lane = l ∧ q.cause = 0x13) ∧
        ((i + 1) * 2 ^ ds.esz ≤ ds.len → ds.wo = false → ∃ q ∈ r.1, q.lane = l ∧ q.acc.n = 2 ^ ds.esz ∧
          bits q.acc.ga 55 0 = (ds.base + i * 2 ^ ds.esz) % 2 ^ 56 ∧ bits q.acc.ga 59 56 = ds.tag.toNat))) ∧
  (∀ (s : State) (x : Iss) (d a b : BitVec 8), Issues (.ldsc d a b) s x →
      let ds := descOf (readNat x x.f.a 0 4)
      let t := (readU x b).toNat
      let ga := BitVec.ofNat 64 ((ds.tag.toNat <<< 56) + (ds.base + 256 * t) % 2 ^ 56)
      let la : LaneAcc := ⟨x.first, { ga := ga, n := 256, align := 1, write := false, atom := false, tags := true, l1 := some x.team.core }⟩
      let c := checkLanes x [la] (popIssue s)
      (ds.valid = false → TakesFault (exec (.ldsc d a b) s) s x 0x30 x.f.word) ∧
      (ds.valid = true → x.active = 0 → Passes (exec (.ldsc d a b) s) s x x.split.regs) ∧
      (ds.valid = true → x.active ≠ 0 → (ds.base % 256 ≠ 0 ∨ ds.len < (t + 1) * 256) → TakesFault (exec (.ldsc d a b) s) s x 0x53 0) ∧
      (ds.valid = true → x.active ≠ 0 → ds.base % 256 = 0 → (t + 1) * 256 ≤ ds.len → ds.wo = false → NoLog s x →
        ∀ ts v, okLanes c.2 = [(la, ts)] →
          isRemote ts = false → loadValue c.1 (some x.team.core) x.block (.lane x.ref x.first) ts 256 = .ok v →
          ∃ u, exec (.ldsc d a b) s = .next u ∧ Loaded s u x (bits x.clause.header 15 12) (fun e => ∀ l, l < x.n → laneIn x.active l = true →
            ∃ word, WillHold e d l 1 word ∧ ∀ k, k < 4 → fld word (8 * k) 8 = fld v (8 * (4 * ((l % 64) ^^^ (16 * k)) + k)) 8)))

/-- R289: LDS loads from and STS stores to the block's scratchpad at the operand plus the offset; a misaligned offset is an alignment fault and one
outside the block's bytes an address fault. -/
def Obligations.ScratchpadForms : Prop :=
  ∀ (s : State) (x : Iss) (d a b : BitVec 8),
    let r := spadLanes x (accLanes x)
    let w := spadLanes x (lanesOf x.n x.active)
    let data := fun l => readNat x x.f.d l (fieldRegs x).1 % 2 ^ (8 * 2 ^ bits x.m 2 0)
    (Issues (.lds d a b) s x → (x.active = 0 → Passes (exec (.lds d a b) s) s x x.split.regs) ∧
      (lanesOf x.n x.active ≠ [] → (r.2 = [] → ∃ t, exec (.lds d a b) s = .next t ∧ Loaded s t x (bits x.clause.header 15 12) (fun e =>
          ∀ p ∈ r.1, ∀ o, p.2 = [.spad o] → WillHold e x.f.d p.1.lane (fieldRegs x).1
            (extend p.1.acc.n (decide (bits x.m 3 3 = 1)) (spRead x.block o p.1.acc.n)))) ∧
        (∀ q, lowest r.2 = some q → ∃ t, exec (.lds d a b) s = .next t ∧ LaneFaulted s t x q r.2))) ∧
    (Issues (.sts d a b) s x → (x.active = 0 → Passes (exec (.sts d a b) s) s x x.split.regs) ∧
      (x.active ≠ 0 → (w.2 = [] → ∃ t, exec (.sts d a b) s = .next t ∧ Stored s t x data w.1) ∧
        (∀ q, lowest w.2 = some q → ∃ t, exec (.sts d a b) s = .next t ∧ LaneFaulted s t x q w.2))) ∧
    (∀ l, l ∈ accLanes x →
      let n := 2 ^ bits x.m 2 0
      let o : Int := ((readWord x x.f.a 0 l).toNat : Int) + modOff x.m
      (o % (n : Int) ≠ 0 → ∃ q ∈ r.2, q.lane = l ∧ q.cause = 0x11) ∧
      (o % (n : Int) = 0 → (o < 0 ∨ (x.disp.spBytes : Int) < o + n) → ∃ q ∈ r.2, q.lane = l ∧ q.cause = 0x10) ∧
      (o % (n : Int) = 0 → 0 ≤ o → o + n ≤ (x.disp.spBytes : Int) → ∃ q ∈ r.1, q.1.lane = l ∧ q.1.acc.n = n ∧ q.2 = [.spad o.toNat]))

/-- R291 to R293: a prefetch and a cache control change no byte, tag, register or flag, and operation 0 of CCTL empties the core's L1; STTAG gives
the sectors of its lanes their tags and LDTAG reads them, each with the checks of its entry. -/
def Obligations.CacheAndTagForms : Prop :=
  ∀ (s : State) (x : Iss) (d a b : BitVec 8),
    let w := tagChecks x true (lanesOf x.n x.active) (popIssue s)
    let r := tagChecks x false (accLanes x) (popIssue s)
    let at_ := fun (l : List (LaneAcc × Checked)) => (okLanes l).filterMap (fun p => match p.2 with
      | [.mem pa _ _] => some (p.1.lane, pa)
      | _ => none)
    (Issues (.pref a b) s x → ∃ t, exec (.pref a b) s = .next t ∧ Advanced x t ∧ SameRegs s t ∧ (∀ r n, flagAt t r n = flagAt s r n) ∧
      t.mem = s.mem ∧ t.tags = s.tags) ∧
    (Issues (.cctl a b) s x →
      (x.active = 0 ∨ bits x.m 1 0 = 0 → Passes (exec (.cctl a b) s) s x x.split.regs) ∧
      (x.active ≠ 0 → bits x.m 1 0 = 0 → ∃ t, exec (.cctl a b) s = .next t ∧ (coreOf t x.team.core).l1.ways = []) ∧
      (∀ l, NoLog s x → x.active ≠ 0 → bits x.m 1 0 ≠ 0 →
        l = (lanesOf x.n x.active).map (fun i => (i, effAddr (BitVec.ofNat 64 (readNat x x.f.a i 2)) (modOff x.m))) →
        (∀ p ∈ l, p.2 ≠ none) →
        (∀ q ∈ (checkLanes x (l.filterMap (fun p => p.2.map (fun e => LaneAcc.mk p.1 (Access.mk e 1 1 false false false none)))) (popIssue s)).2,
          ∃ ts uc, q.2 = .ok ts uc) →
        ∃ t, exec (.cctl a b) s = .next t ∧ Advanced x t ∧ SameRegs s t ∧ t.mem = s.mem ∧ t.tags = s.tags)) ∧
    (Issues (.sttag d a) s x → (x.active = 0 → Passes (exec (.sttag d a) s) s x x.split.regs) ∧
      (x.active ≠ 0 → NoLog s x → pageLanes w.2 = [] → badLanes w.2 = [] → ∃ t, exec (.sttag d a) s = .next t ∧ Advanced x t ∧ SameRegs s t ∧ t.mem = s.mem ∧
        ∀ k, mapGet 0 t.tags k = match ((at_ w.2).filter (fun p => decide (p.2 / 32 = k))).getLast? with
          | some p => (readWord x x.f.d 0 p.1).extractLsb' 0 4
          | none => mapGet 0 s.tags k) ∧
      (∀ q, x.active ≠ 0 → NoLog s x → pageLanes w.2 = [] → lowest (badLanes w.2) = some q →
        ∃ t, exec (.sttag d a) s = .next t ∧ LaneFaulted s t x q (badLanes w.2))) ∧
    (Issues (.ldtag d a) s x → (x.active = 0 → Passes (exec (.ldtag d a) s) s x x.split.regs) ∧
      (lanesOf x.n x.active ≠ [] → NoLog s x → pageLanes r.2 = [] → badLanes r.2 = [] → ∃ t, exec (.ldtag d a) s = .next t ∧
        Loaded s t x (bits x.clause.header 15 12) (fun e => ∀ p ∈ at_ r.2, WillHold e d p.1 1 (mapGet 0 s.tags (p.2 / 32)).toNat)) ∧
      (∀ q, lanesOf x.n x.active ≠ [] → NoLog s x → pageLanes r.2 = [] → lowest (badLanes r.2) = some q →
        ∃ t, exec (.ldtag d a) s = .next t ∧ LaneFaulted s t x q (badLanes r.2)))

/-- R60, R295 and R297: an atomic combines the words of its lanes with their operands at the home slice, and each lane's word as it stood is in flight
to its destination. R295 and R296: a reduction combines the words of its lanes in the same way and returns nothing: no flag and no register changes. -/
def Obligations.AtomicAndReductionForms : Prop :=
  (∀ (s : State) (x : Iss) (d a b : BitVec 8),
      let Atomic := fun (o : Host.Outcome State Fault Refusal) (op : AOp) =>
        (x.active = 0 → Passes o s x x.split.regs) ∧
        AtomResult o s x op (accLanes x) (fun t old => (∀ n, flagAt t x.ref n = (flagAt s x.ref n || decide (n = bits x.clause.header 15 12))) ∧
          ∃ e, flightOf s t x e ∧ e.flag = bits x.clause.header 15 12 ∧ e.state = .ready ∧
            ∀ p ∈ old, WillHold e x.f.d p.1 (fieldRegs x).1 p.2)
      let signed := (x.ty.getD .s32).signed
      (Issues (.aadd d a b) s x → Atomic (exec (.aadd d a b) s) .add) ∧
      (Issues (.amin d a b) s x → Atomic (exec (.amin d a b) s) (if signed then .minS else .minU)) ∧
      (Issues (.amax d a b) s x → Atomic (exec (.amax d a b) s) (if signed then .maxS else .maxU)) ∧
      (Issues (.aand d a b) s x → Atomic (exec (.aand d a b) s) .and) ∧
      (Issues (.aor d a b) s x → Atomic (exec (.aor d a b) s) .or) ∧
      (Issues (.axor d a b) s x → Atomic (exec (.axor d a b) s) .xor) ∧
      (Issues (.axchg d a b) s x → Atomic (exec (.axchg d a b) s) .xchg) ∧
      (Issues (.acas d a b) s x → Atomic (exec (.acas d a b) s) .cas) ∧
      (Issues (.afadd d a b) s x → Atomic (exec (.afadd d a b) s) .fadd)) ∧
  (∀ (s : State) (x : Iss) (a b : BitVec 8),
      let Reduce := fun (o : Host.Outcome State Fault Refusal) (op : AOp) =>
        (x.active = 0 → Passes o s x x.split.regs) ∧
        AtomResult o s x op (lanesOf x.n x.active) (fun t _ => ∀ r n, flagAt t r n = flagAt s r n)
      let signed := (x.ty.getD .s32).signed
      (Issues (.redadd a b) s x → Reduce (exec (.redadd a b) s) .add) ∧
      (Issues (.redmin a b) s x → Reduce (exec (.redmin a b) s) (if signed then .minS else .minU)) ∧
      (Issues (.redmax a b) s x → Reduce (exec (.redmax a b) s) (if signed then .maxS else .maxU)) ∧
      (Issues (.redand a b) s x → Reduce (exec (.redand a b) s) .and) ∧
      (Issues (.redor a b) s x → Reduce (exec (.redor a b) s) .or) ∧
      (Issues (.redxor a b) s x → Reduce (exec (.redxor a b) s) .xor) ∧
      (Issues (.redfadd a b) s x → Reduce (exec (.redfadd a b) s) .fadd))

/-- R172, R203: lanes of one location combined by the tree leave what the lanes leave in ascending order, and each fetches what it would fetch then. -/
def Obligations.CombinedLanesAreOrdered : Prop :=
  ∀ (op : AOp) (w m : Nat) (vs : List Nat), op ≠ .cas → op ≠ .xchg → op ≠ .fadd → 0 < w → m < 2 ^ w → (∀ v ∈ vs, v < 2 ^ w) →
    (vs ≠ [] → atomicResult op w m (groupOperand op w vs) 0 = vs.foldl (fun a v => atomicResult op w a v 0) m) ∧
    ∀ i, i < vs.length → fetched op w m vs i = (vs.take i).foldl (fun a v => atomicResult op w a v 0) m

/-- R197, R198, R298 to R301: a fence that need not wait retires, one at sys sends its flushing read; WAITEQ and WAITNE end where the word they read
meets their condition, and else wait on its line; an illegal party is its fault. R120 to R123, R394 to R396: a barrier form faults on a number the
dispatch does not have, and else initialises, arrives at, expects on, waits for or tests the barrier object of its block.
Lanes that R320 leaves UNKNOWN are not spoken of. -/
def Obligations.FenceWaitAndBarrierForms : Prop :=
  (∀ (s : State) (x : Iss) (d a b : BitVec 8),
      let n := if bits x.m 0 0 = 1 then 8 else 4
      let cmp := readNat x x.f.b 0 (n / 4)
      let s0 := if x.split.legal = true then popIssue s else updSplit (popIssue s) x.ref (fun sp => { sp with legal := true })
      let c := checkLanes x [⟨x.first, { ga := readU64 x x.f.a, n := n, align := n, write := false, atom := false, tags := true }⟩] s0
      let Waits := fun (o : Host.Outcome State Fault Refusal) (met : Nat → Bool) =>
        (x.active = 0 → Passes o s x x.split.regs) ∧
        (x.active ≠ 0 → x.split.legal = false → waitLegal x s = false → TakesFault o s x 0x50 0) ∧
        (∀ q ts v, x.active ≠ 0 → (x.split.legal = true ∨ waitLegal x s = true) → NoLog s x → okLanes c.2 = [(q, ts)] →
          fetching c.1 (.split x.ref) ts = false → loadValue c.1 none x.block (.split x.ref) ts n = .ok v →
          (met v = true → ∃ t, o = .next t ∧ WaitOver s t x) ∧
          (∀ pa k cp, met v = false → ts = [.mem pa k cp] → ∃ t, o = .next t ∧ WaitsOn s t x pa))
      (Issues (.fence b) s x →
        (x.active = 0 → Passes (exec (.fence b) s) s x x.split.regs) ∧
        (x.active ≠ 0 → bits x.m 1 0 = 0 → (∀ q ∈ s.outReqs, q.write = true → atomicOf x.ref.team q = false) →
          Passes (exec (.fence b) s) s x x.split.regs) ∧
        (x.active ≠ 0 → bits x.m 1 0 ≠ 0 → ReleaseFree s x (bits x.m 4 2) → Passes (exec (.fence b) s) s x x.split.regs) ∧
        (x.active ≠ 0 → bits x.m 1 0 ≠ 0 → ReleaseDone s x (bits x.m 4 2) → ∃ t, exec (.fence b) s = .next t ∧ Advanced x t ∧ SameRegs s t ∧
          (∀ r n, flagAt t r n = flagAt s r n) ∧ t.mem = s.mem) ∧
        (x.active ≠ 0 → bits x.m 1 0 ≠ 0 → bits x.m 4 2 = 5 → ReleaseReady s x 5 →
          s.flushes.find? (fun f => decide (f.2 = x.ref)) = none →
          ∃ t sp k, exec (.fence b) s = .next t ∧ splitOf t x.ref = some sp ∧ sp.hold = .stall .flush ∧ SameRegs s t ∧ t.mem = s.mem ∧
            (k, x.ref) ∈ t.flushes ∧ Event.pcieCompletion k ∈ t.agenda)) ∧
      (Issues (.waiteq d a b) s x → Waits (exec (.waiteq d a b) s) (fun v => decide (v = cmp))) ∧
      (Issues (.waitne d a b) s x → Waits (exec (.waitne d a b) s) (fun v => !decide (v = cmp)))) ∧
  (∀ (s : State) (x : Iss) (d : BitVec 4) (e a : BitVec 8) (sc : BitVec 3),
      let pa := barrierAt x.ctx x.block.area d.toNat
      let old := readBar s pa
      let n := (readU x a).toNat
      let Common := fun (o : Host.Outcome State Fault Refusal) =>
        (x.disp.nbar ≤ d.toNat → TakesFault o s x 0x39 x.f.word) ∧
        (d.toNat < x.disp.nbar → poolRefused s x.ctx x.block.area = true → TakesFault o s x 0x42 x.f.word) ∧
        (d.toNat < x.disp.nbar → x.active ≠ 0 → poolRefused s x.ctx x.block.area = false → poisonAt s pa 16 = true →
          TakesFault o s x 0x17 (BitVec.ofNat 32 (lanesOf x.n x.active).length))
      let sound := d.toNat < x.disp.nbar ∧ poolRefused s x.ctx x.block.area = false ∧ poisonAt s pa 16 = false
      let here := sound ∧ x.active ≠ 0
      let Bare := fun (o : Host.Outcome State Fault Refusal) => Common o ∧ (sound → x.active = 0 → Passes o s x x.split.regs)
      let Needs := fun (o : Host.Outcome State Fault Refusal) => Common o ∧ (sound → old.init = true → x.active = 0 → Passes o s x x.split.regs) ∧
        (sound → old.init = false → TakesFault o s x 0x3A x.f.word)
      (Issues (.barinit d a) s x →
        (1 ≤ n → n ≤ 65535 → Bare (exec (.barinit d a) s) ∧ (here → ∃ t, exec (.barinit d a) s = .next t ∧
          BarrierStep s t x pa { arr := n, load := n, bytes := 0, phase := false, init := true, err := 0 })) ∧
        (d.toNat < x.disp.nbar → (n = 0 ∨ 65535 < n) → TakesFault (exec (.barinit d a) s) s x 0x3B x.f.word)) ∧
      (Issues (.bararv d sc) s x → Needs (exec (.bararv d sc) s) ∧
        (here → old.init = true → ReleaseDone s x sc.toNat → ∃ t, exec (.bararv d sc) s = .next t ∧ BarrierStep s t x pa
          (if old.arr = 0 then { old with err := 2 }
           else if old.arr = 1 ∧ old.bytes = 0 then { old with arr := old.load, phase := !old.phase }
           else { old with arr := old.arr - 1 }))) ∧
      (Issues (.barexp d a) s x → Needs (exec (.barexp d a) s) ∧
        (here → old.init = true → let v := old.bytes + (readU x a).toInt
          ∃ t, exec (.barexp d a) s = .next t ∧ BarrierStep s t x pa
          (if v < -(2 ^ 31 : Int) ∨ (2 ^ 31 : Int) ≤ v then { old with err := 2 }
           else if old.arr = 0 ∧ v = 0 then { old with bytes := 0, arr := old.load, phase := !old.phase }
           else { old with bytes := v }))) ∧
      (Issues (.barwait d a sc) s x → Needs (exec (.barwait d a sc) s) ∧
        (here → old.init = true → (old.phase.toNat ≠ n % 2 → ∃ t, exec (.barwait d a sc) s = .next t ∧ WaitOver s t x) ∧
          (old.phase.toNat = n % 2 → ∃ t, exec (.barwait d a sc) s = .next t ∧ WaitsOn s t x pa))) ∧
      (Issues (.bartest e d a) s x → Bare (exec (.bartest e d a) s) ∧
        (here → ∃ t, exec (.bartest e d a) s = .next t ∧ Launched s t x (bits x.clause.header 15 12) (fun f => f.state = .ready ∧
          ∀ l, l < x.n → laneIn x.all l = true → laneIn x.mixed l = false → WillHold f e l 1
            ((if old.phase.toNat ≠ n % 2 then 1 else 0) + 2 * old.phase.toNat + 4 * (old.err % 4) + 65536 * old.arr)))))

/-! ### Barriers, futures and the starts of engines (R116 to R123, R302 to R314, R394 to R398) -/

/-- R110 to R118, R397 and R398: FWAIT waits for DONE and then gives the status, with its slot retired unless it keeps it; FTEST gives 0 for a pending
future; FCANCEL makes a pending future done with status CANCELLED.
Lanes that R320 leaves UNKNOWN are not spoken of. -/
def Obligations.FutureForms : Prop :=
  ∀ (s : State) (x : Iss) (d a : BitVec 8) (k : BitVec 1),
    let h := readU x a
    let pa := futureAt x.ctx (bits h 21 6) (bits h 5 0)
    let Common := fun (o : Host.Outcome State Fault Refusal) =>
      (∀ c, handleFault s x.team.ctx h = some c → TakesFault o s x c x.f.word) ∧
      (handleFault s x.team.ctx h = none → x.active = 0 → Passes o s x x.split.regs)
    let live := handleFault s x.team.ctx h = none ∧ x.active ≠ 0 ∧ poisonAt s pa 32 = false
    let Retires := fun (t : State) => (∀ i, i ≠ pa + 2 → readByte t i = readByte s i) ∧
      futGen t pa = if k = 0 then (futGen s pa + 1) % 256 else futGen s pa
    (Issues (.fwait d a k) s x → Common (exec (.fwait d a k) s) ∧
      (live → futDone s pa = true → ∃ t, exec (.fwait d a k) s = .next t ∧ Advanced x t ∧ splitRegs t x.ref = some x.split.regs ∧
        (∀ r, namedBy d 1 x.active r = false → regAt t x.ref.team r = regAt s x.ref.team r) ∧
        dstAt t x.ref.team d 0 1 = futStatus s pa + 256 ∧ Retires t) ∧
      (live → futDone s pa = false → ∃ t, exec (.fwait d a k) s = .next t ∧ WaitsOn s t x pa)) ∧
    (Issues (.ftest d a k) s x → Common (exec (.ftest d a k) s) ∧
      (live → ∃ t, exec (.ftest d a k) s = .next t ∧ Advanced x t ∧ SameRegs s t ∧
        (∀ n, flagAt t x.ref n = (flagAt s x.ref n || decide (n = bits x.clause.header 15 12))) ∧
        (futDone s pa = true → Retires t) ∧ (futDone s pa = false → t.mem = s.mem) ∧
        ∃ e, flightOf s t x e ∧ e.state = .ready ∧ ∀ l, l < x.n → laneIn x.all l = true → laneIn x.mixed l = false →
          WillHold e d l 1 (if futDone s pa then futStatus s pa + 256 else 0))) ∧
    (Issues (.fcancel a) s x → Common (exec (.fcancel a) s) ∧
      (live → futDone s pa = true → Passes (exec (.fcancel a) s) s x x.split.regs) ∧
      (live → futDone s pa = false → ∃ t, exec (.fcancel a) s = .next t ∧ Advanced x t ∧ SameRegs s t ∧ futDone t pa = true ∧
        futStatus t pa = 1 ∧ (∀ i, i < pa ∨ pa + 32 ≤ i → readByte t i = readByte s i) ∧
        ∀ id, opOfFuture s pa = some id → Event.engineCancel id ∈ t.agenda))

/-- R92 to R95, R110, R123, R302 and R303: a copy-engine start checks its barrier number and the future slots, and then its operation is in the
engine's queue, its future is pending, and its handle is in flight under SETX. -/
def Obligations.EngineStarts : Prop :=
  ∀ (s : State) (x : Iss) (d a b : BitVec 8),
    let Starts := fun (o : Host.Outcome State Fault Refusal) (kind : XeKind) =>
      let bad := bits x.m 3 3 = 1 ∧ x.disp.nbar ≤ bits x.m 7 4
      (bad → TakesFault o s x 0x39 x.f.word) ∧
      let refused := poolRefused s x.ctx x.block.area
      (¬ bad → refused = true → TakesFault o s x 0x42 x.f.word) ∧
      (¬ bad → refused = false → x.active = 0 → Passes o s x x.split.regs) ∧
      (¬ bad → refused = false → x.active ≠ 0 → freeFuture x.block = none → TakesFault o s x 0x33 x.f.word) ∧
      (∀ slot, ¬ bad → refused = false → x.active ≠ 0 → freeFuture x.block = some slot →
        let sound := poisonAt s (futureAt x.ctx x.block.area slot) 32 = false
        (sound → 64 ≤ xeQueued s x.team.core → ∃ t, o = .next t ∧ HeldHere s t x (.stall .engine)) ∧
        (sound → xeQueued s x.team.core < 64 → ReleaseDone s x (bits x.m 2 0) →
          ∀ blk, blockOf s x.ref.team.disp x.ref.team.block = some blk → x.team.ctx = blk.ctx → blk.disp = x.ref.team.disp → blk.index = x.ref.team.block →
          let pa := futureAt x.ctx x.block.area slot
          let h := handleOf slot x.block.area (futGen s pa)
          ∃ t, o = .next t ∧ Advanced x t ∧ SameRegs s t ∧ t.xeOps = s.xeOps ++ [newXeOp x kind s.nextOp pa h] ∧
            (∀ n, flagAt t x.ref n = (flagAt s x.ref n || decide (n = bits x.clause.header 19 16))) ∧
            futDone t pa = false ∧ futEng t pa = x.team.core % 65536 ∧
            (∀ i, i ≠ pa → i ≠ pa + 4 → i ≠ pa + 5 → readByte t i = readByte s i) ∧
            ∃ u e, teamOf t x.ref.team = some u ∧ e ∈ u.inflight ∧ e.state = .engine s.nextOp ∧ WillHold e x.f.d 0 1 h.toNat))
    (Issues (.xcopy d a b) s x → Starts (exec (.xcopy d a b) s) .copy) ∧
    (Issues (.xcopyt d a b) s x → Starts (exec (.xcopyt d a b) s) .copyT) ∧
    (Issues (.xgather d a b) s x → Starts (exec (.xgather d a b) s) .gather) ∧
    (Issues (.xfill d a b) s x → Starts (exec (.xfill d a b) s) .fill)

/-- R136, R140, R144, R146 to R151 and R307 to R310: GBIND completes with its request at the launch unit; the other grid forms fault on a slot that is
not bound and on a block without a partition of it, and else complete: HSTEP publishes the next step and no other, HQUERY reads the grid's numbers,
and HLD loads the elements whose slabs are at the step that is asked for. R147 to R149: an element of a slab may be loaded where its word is the step
asked for; below it the lane waits, or faults where the grid says so, and a step not published or overtaken is a fault.
Lanes that R320 leaves UNKNOWN are not spoken of. -/
def Obligations.GridAndHaloForms : Prop :=
  (∀ (s : State) (x : Iss) (g : BitVec 4) (d a b : BitVec 8) (n : BitVec 4),
      let Slot := fun (o : Host.Outcome State Fault Refusal) (k : Nat) (owns : Bool) =>
        (slotBound (slotOf x.ctx k) = false → TakesFault o s x 0x34 x.f.word) ∧
        (owns = true → slotBound (slotOf x.ctx k) = true →
          (if (slotOf x.ctx k).dispatch = x.ref.team.disp then ownPart s (slotOf x.ctx k) x.ref.team.block else none) = none →
          TakesFault o s x 0x36 x.f.word)
      let Owns := fun (k q : Nat) => slotBound (slotOf x.ctx k) = true ∧ (slotOf x.ctx k).dispatch = x.ref.team.disp ∧
        ownPart s (slotOf x.ctx k) x.ref.team.block = some q
      (Issues (.gbind g a) s x → (x.active = 0 → Passes (exec (.gbind g a) s) s x x.split.regs) ∧
        (x.active ≠ 0 → ReleaseReady s x 3 → ∃ t u e, exec (.gbind g a) s = .next t ∧ Advanced x t ∧ SameRegs s t ∧ t.mem = s.mem ∧
          (∀ k, flagAt t x.ref k = (flagAt s x.ref k || decide (k = bits x.clause.header 19 16))) ∧
          teamOf t x.ref.team = some u ∧ e ∈ u.inflight ∧ e.state = .bind s.nextOp ∧ Event.gridBindRequest s.nextOp ∈ t.agenda ∧
          t.binds = s.binds ++ [{ id := s.nextOp, split := x.ref, ctx := x.team.ctx, core := x.team.core, slot := g.toNat, ga := readU64 x a,
                                  lane := x.first, pc := x.pc, word := x.f.word, desc := none, map := none, todo := [], page := none,
                                  failed := [] }])) ∧
      (Issues (.hstep d a n) s x → Slot (exec (.hstep d a n) s) n.toNat true ∧
        ∀ q, Owns n.toNat q →
          let sl := slotOf x.ctx n.toNat
          let gd := gridOf sl.desc
          let step := (readU x a).toNat
          let refused := poolRefused s x.ctx x.block.area
          (x.active = 0 →
            let c := checkAccess (popIssue s) (whoOf x 0) (stepLane x sl q wPSTEP 0 false).acc
            let bad := ∃ ts tc p, c.2 = .ok ts tc ∧ stepValue x (popIssue s) wPSTEP ts = some p ∧ step ≠ p + 1
            (bad → TakesFault (exec (.hstep d a n) s) s x 0x37 x.f.word) ∧
            (¬ bad → refused = true → TakesFault (exec (.hstep d a n) s) s x 0x42 x.f.word) ∧
            (¬ bad → refused = false → Passes (exec (.hstep d a n) s) s x x.split.regs)) ∧
          (∀ s1 la ts p, x.active ≠ 0 → NoLog s x → PassChecks x [stepLane x sl q wPSTEP x.first false] (popIssue s) s1 [(la, ts)] →
            stepValue x s1 wPSTEP ts = some p →
            (step ≠ p + 1 → TakesFault (exec (.hstep d a n) s) s x 0x37 x.f.word) ∧
            (step = p + 1 → refused = true → TakesFault (exec (.hstep d a n) s) s x 0x42 x.f.word) ∧
            (step = p + 1 → refused = false → freeFuture x.block = none → TakesFault (exec (.hstep d a n) s) s x 0x33 x.f.word) ∧
            ∀ slot, step = p + 1 → refused = false → freeFuture x.block = some slot → poisonAt s (futureAt x.ctx x.block.area slot) 32 = false →
              let full := step % gd.depth = 0 ∧ 16 ≤ exchangesOf s x.team.core
              let fu := futureAt (ctxOf s x.block.ctx) x.block.area slot
              (full → StaysHeld (exec (.hstep d a n) s) s x (.stall .engine)) ∧
              (∀ s2 lw qa cp, ¬ full → ReleaseReady s x 4 → poisonAt s fu 32 = false →
                PassChecks x [stepLane x sl q wPSTEP x.first true] (noteReads x [(4, ts)] s1) s2 [(lw, [.mem qa 4 cp])] → coversPoison s qa 4 = true →
                ∃ t, exec (.hstep d a n) s = .next t ∧ Advanced x t ∧ SameRegs s t ∧
                  (∀ k, flagAt t x.ref k = (flagAt s x.ref k || decide (k = bits x.clause.header 19 16))) ∧
                  (sl.spoilt.contains q = false → (step % gd.depth = 0 → deliveriesOf gd q ≠ []) → (qa + 4 ≤ fu ∨ fu + 32 ≤ qa) →
                    readMem t qa 4 = step % 2 ^ 32) ∧
                  (step % gd.depth ≠ 0 → futDone t fu = true) ∧
                  (step % gd.depth = 0 → deliveriesOf gd q ≠ [] → ∃ e ∈ t.exchanges, e.part = q ∧ e.step = BitVec.ofNat 32 step ∧
                    e.future = some fu)))) ∧
      (Issues (.hquery d a n) s x → Slot (exec (.hquery d a n) s) n.toNat (decide (fld (readU x a).toNat 0 8 ≠ 0x0A)) ∧
        let sel := fld (readU x a).toNat 0 8
        let k := fld (readU x a).toNat 8 5
        let Gives := fun (v : Nat) => ∃ t, exec (.hquery d a n) s = .next t ∧ Launched s t x (bits x.clause.header 15 12) (fun e =>
          ∀ l, l < x.n → laneIn x.all l = true → laneIn x.mixed l = false → WillHold e d l 1 v)
        (slotBound (slotOf x.ctx n.toNat) = true → sel = 0x0A →
          (if (slotOf x.ctx n.toNat).dispatch = x.ref.team.disp then ownPart s (slotOf x.ctx n.toNat) x.ref.team.block else none) = none →
          (x.active = 0 → Passes (exec (.hquery d a n) s) s x x.split.regs) ∧ (x.active ≠ 0 → Gives 0xFFFFFFFF)) ∧
        ∀ q, Owns n.toNat q →
          let gd := gridOf (slotOf x.ctx n.toNat).desc
          let word := sel = 0 ∨ (sel = 1 ∧ k ≤ 26)
          (x.active = 0 → Passes (exec (.hquery d a n) s) s x x.split.regs) ∧
          (x.active ≠ 0 → ¬ word → Gives (queryValue gd q sel)) ∧
          (∀ s1 la ts v, x.active ≠ 0 → word → NoLog s x →
            let w := if sel = 0 then wPSTEP else k
            PassChecks x [stepLane x (slotOf x.ctx n.toNat) q w x.first false] (popIssue s) s1 [(la, ts)] → stepValue x s1 w ts = some v →
            ∃ t, exec (.hquery d a n) s = .next t ∧ Loaded s t x (bits x.clause.header 15 12) (fun e =>
              ∀ l, l < x.n → laneIn x.all l = true → laneIn x.mixed l = false → WillHold e d l 1 v))) ∧
      (Issues (.hld d a b) s x → Slot (exec (.hld d a b) s) (bits x.m 3 0) true ∧
        ∀ q, Owns (bits x.m 3 0) q →
          let sl := slotOf x.ctx (bits x.m 3 0)
          let gd := gridOf sl.desc
          let ix := (lanesOf x.n x.active).map (fun l => (l, (readWord x a 0 l).toNat))
          let elems := ix.map (fun p => (⟨p.1, { ga := elemGa gd (slotPart sl q) p.2, n := gd.bytes, align := gd.bytes, write := false
                                                 atom := false, tags := true, l1 := some x.team.core }⟩ : LaneAcc))
          let ks := slabsOf gd (ix.filter (fun p => decide (p.2 < gd.total)))
          let lane := fun (k : Nat) => ((ix.find? (fun p => decide (p.2 < gd.total) && decide (slabOf gd p.2 = some k))).map (·.1)).getD x.first
          let words := (wPSTEP :: ks).map (fun k => stepLane x sl q k (if k = wPSTEP then lane (ks.headD 0) else lane k) false)
          (x.active = 0 → Passes (exec (.hld d a b) s) s x x.split.regs) ∧
          (x.active ≠ 0 → ks = [] → (∀ p ∈ ix, p.2 < gd.total) →
            LoadResult (exec (.hld d a b) s) s x (dropWatches (popIssue s) x.ref) (some x.team.core) false elems [] []) ∧
          (∀ s1 ok, x.active ≠ 0 → ks ≠ [] → NoLog s x → PassChecks x words (popIssue s) s1 ok →
            let at_ := fun (p : Nat × Nat) => laneHalo gd ((readS x (bits x.m 9 4)).toNat - (readS x (bits x.m 9 4)).toNat % gd.depth) p.2
              (stepRead x sl q (noteReads x (ok.map (fun p => (4, p.2))) (slicePass (partOfCtx s1 x.team.ctx) false false (ok.flatMap (·.2)) s1))
                ok [])
            ((∀ p ∈ ix, at_ p = .ready) → LoadResult (exec (.hld d a b) s) s x
              (acquire x 4 (dropWatches (noteReads x (ok.map (fun p => (4, p.2)))
                (slicePass (partOfCtx s1 x.team.ctx) false false (ok.flatMap (·.2)) s1)) x.ref)) (some x.team.core) false elems [] []) ∧
            (∀ p ∈ ix, ∀ k, at_ p = .stall k → ∃ on, StaysHeld (exec (.hld d a b) s) s x (.wait on))))) ∧
  (∀ (g : Grid) (req pstep k word : Nat),
      (req ≤ pstep → word = req → haloCheck g req pstep k word = .ready) ∧
      (req ≤ pstep → word < req → g.fault = false → haloCheck g req pstep k word = .stall k) ∧
      (req ≤ pstep → word < req → g.fault = true → haloCheck g req pstep k word = .stale k word) ∧
      ((pstep < req ∨ req < word) → haloCheck g req pstep k word = .stale k word))

/-- R170, R173 to R178 and R311 to R314: RSTREAM selects a stream and its target, closing one that still counts; RFENCE completes once no remote write
of the team is without its response; RSTREL sends a RELEASE that carries the stream's count and starts its next epoch, and RMCAST sends its MCAST
with a future. -/
def Obligations.FabricForms : Prop :=
  ∀ (s : State) (x : Iss) (d a b : BitVec 8),
    let str := (readU x a).toNat
    let dev := (readU x b).toNat
    let bad := str ≠ 0xFFFFFFFF ∧ (15 < str ∨ 255 < dev ∨ dev = devNum s ∨ inShape s dev = false)
    let old := mapGet Stream.reset x.team.streams str
    let Becomes := fun (g : TeamRegs) => ∃ t, exec (.rstream a b) s = .next t ∧ Inner s t x ∧ Advanced x t ∧
      splitRegs t x.ref = some x.split.regs ∧ (∀ n, flagAt t x.ref n = flagAt s x.ref n) ∧ teamRegs t x.ref.team = some g
    (Issues .rfence s x →
      (x.active = 0 ∨ (∀ q ∈ s.outReqs, q.write = true → reqTeam q ≠ some x.ref.team) → Passes (exec .rfence s) s x x.split.regs) ∧
      (x.active ≠ 0 → (∃ q ∈ s.outReqs, q.write = true ∧ reqTeam q = some x.ref.team ∧ q.num < relMark x s) →
        ∃ t, exec .rfence s = .next t ∧ HeldHere s t x (.stall .remote))) ∧
    (Issues (.rstream a b) s x → (bad → TakesFault (exec (.rstream a b) s) s x 0x40 x.f.word) ∧
      (¬ bad → x.active = 0 → Passes (exec (.rstream a b) s) s x x.split.regs) ∧
      (¬ bad → x.active ≠ 0 → str = 0xFFFFFFFF → Becomes { x.team.regs with curStream := none }) ∧
      (¬ bad → x.active ≠ 0 → str ≠ 0xFFFFFFFF → (old.valid = false ∨ old.target.toNat = dev ∨ old.count = 0) →
        Becomes { x.team.regs with curStream := some str
                                   streams := mapSet Stream.reset x.team.streams str { old with valid := true, target := BitVec.ofNat 8 dev } }) ∧
      (¬ bad → x.active ≠ 0 → str ≠ 0xFFFFFFFF → old.valid = true → old.target.toNat ≠ dev → old.count ≠ 0 →
        (128 ≤ unacked s x.team str → ∃ t, exec (.rstream a b) s = .next t ∧ HeldHere s t x (.stall (.releases str))) ∧
        (unacked s x.team str < 128 → ∃ t u, exec (.rstream a b) s = .next t ∧ Advanced x t ∧ t.mem = s.mem ∧ teamOf t x.ref.team = some u ∧
          u.curStream = some str ∧ (∀ n, mapGet Stream.reset u.streams n = if n = str
            then { valid := true, target := BitVec.ofNat 8 dev, count := 0, epoch := old.epoch + 1 } else mapGet Stream.reset x.team.streams n) ∧
          ∃ q ∈ t.outReqs, q.dev = old.target ∧ q.write = true ∧ q.waiter = .close x.ref.team str))) ∧
    (Issues (.rstrel d a b) s x → (x.team.curStream = none → TakesFault (exec (.rstrel d a b) s) s x 0x40 x.f.word) ∧
      (x.team.curStream ≠ none → x.active = 0 → Passes (exec (.rstrel d a b) s) s x x.split.regs) ∧
      (∀ k ga s1 la pa m tc, x.active ≠ 0 → x.team.curStream = some k →
        effAddr (BitVec.ofNat 64 (readNat x a x.first 2)) (modOff x.m) = some ga → NoLog s x →
        let n := if bits x.m 0 0 = 1 then 8 else 4
        let st := mapGet Stream.reset x.team.streams k
        PassChecks x [⟨x.first, { ga := ga, n := n, align := n, write := true, atom := false, tags := false }⟩] (popIssue s) s1
          [(la, [.remote pa m tc])] →
        let wrong : Bad := ⟨x.first, 0x1A, some ga, none⟩
        (pa / 2 ^ 48 ≠ st.target.toNat → ∃ t, exec (.rstrel d a b) s = .next t ∧ LaneFaulted s t x wrong [wrong] ∧ t.outReqs = s.outReqs) ∧
        (pa / 2 ^ 48 = st.target.toNat → readsToward s x.ref.team st.target.toNat (relMark x s) = true →
          StaysHeld (exec (.rstrel d a b) s) s x (.stall (.reads st.target))) ∧
        (pa / 2 ^ 48 = st.target.toNat → readsToward s x.ref.team st.target.toNat (relMark x s) = false → unacked s x.team k < 128 →
          ∃ t u, exec (.rstrel d a b) s = .next t ∧ Advanced x t ∧ t.mem = s.mem ∧ teamOf t x.ref.team = some u ∧
            u.streams = mapSet Stream.reset x.team.streams k { st with count := 0, epoch := st.epoch + 1 } ∧
            u.remote = x.team.remote + 1 ∧ ∃ q ∈ t.outReqs, q.dev = st.target ∧ q.write = true ∧
            q.waiter = .team x.ref [x.first] [] 0 0 0 x.pc ga 1))) ∧
    (Issues (.rmcast d a) s x →
      let refused := poolRefused s x.ctx x.block.area
      (refused = true → TakesFault (exec (.rmcast d a) s) s x 0x42 x.f.word) ∧
      (refused = false → x.active = 0 → Passes (exec (.rmcast d a) s) s x x.split.regs) ∧
      (let who := FetchFor.split x.ref
       let read := fun (ga : BitVec 64) (n al : Nat) => [(⟨x.first, { ga := ga, n := n, align := al, write := false, atom := false, tags := true }⟩ : LaneAcc)]
       let after := fun (n : Nat) (ts : List Target) (s : State) =>
         noteReads x [(n, ts)] (loadPass (partOfCtx s x.team.ctx) none false false ts s)
       ∀ s1 la ts v, refused = false → x.active ≠ 0 → NoLog s x → PassChecks x (read (readU64 x a) 64 64) (popIssue s) s1 [(la, ts)] →
        fetching s1 who ts = false → loadValue s1 none x.block who ts 64 = .ok v →
        let bad := mcastBad v (bits x.ctx.spbase 55 0) (bits x.ctx.stkbase 55 0)
        (bad = true → TakesFault (exec (.rmcast d a) s) s x 0x41 x.f.word) ∧
        (∀ s2 lb tb w, bad = false → PassChecks x (read (readU64 x a + 64) (fld v 72 8) 1) (after 64 ts s1) s2 [(lb, tb)] →
          fetching s2 who tb = false → loadValue s2 none x.block who tb (fld v 72 8) = .ok w →
          ∀ s3 lc pa m tc slot,
            PassChecks x [⟨x.first, { ga := BitVec.ofNat 64 (fld v 128 64), n := 1, align := 1, write := true, atom := false, tags := false }⟩]
              (after (fld v 72 8) tb s2) s3 [(lc, [.remote pa m tc])] →
            (128 < pa % 128 + fld v 72 8 → TakesFault (exec (.rmcast d a) s) s x 0x41 x.f.word) ∧
            (pa % 128 + fld v 72 8 ≤ 128 → freeFuture x.block = none → TakesFault (exec (.rmcast d a) s) s x 0x33 x.f.word) ∧
            (pa % 128 + fld v 72 8 ≤ 128 → freeFuture x.block = some slot → poisonAt s (futureAt x.ctx x.block.area slot) 32 = false →
              ∃ t u e, exec (.rmcast d a) s = .next t ∧ Advanced x t ∧ teamOf t x.ref.team = some u ∧ u.remote = x.team.remote + 1 ∧
                e ∈ u.inflight ∧ e.flag = bits x.clause.header 19 16 ∧ ∃ q ∈ t.outReqs, q.dev = BitVec.ofNat 8 (fld v 0 8) ∧ q.write = true ∧
                q.waiter = .mcast x.team.ctx (futureAt (ctxOf s x.block.ctx) x.block.area slot) x.ref))))

/-! ### Matrix operations (R355 to R377) -/

/-- R355 to R365 and R367: a multiply checks its lanes, its tile, its group and its A operand, and is then in its partition's share of the quadrant
with its flag set; with the share full it waits. R363 to R365, R371 to R374 and R377: MZERO, MLDACC, MDRAIN and MDRAINT make their handle checks and
the early checks of their whole range, and are then in the quadrant's share; MREADY passes once the writes before it have been performed. -/
def Obligations.MatrixForms : Prop :=
  (∀ (s : State) (x : Iss) (d a b : BitVec 8),
      let Multiplies := fun (o : Host.Outcome State Fault Refusal) (fmt : Nat) (joint : Bool) =>
        let off := (readU x x.f.a).toNat
        let grp := bits x.m 6 5
        let last := off + 63 * (16 * bits x.m 18 8) + 16 * (bits x.m 4 3 + 1)
        let lanesOk := (if joint then 64 else 256) ≤ x.n
        let tileOk := bits x.m 2 0 < x.disp.nacc
        let groupOk := joint = true → 4 * grp + 4 ≤ x.disp.teams ∧ x.team.key.team / 4 = grp ∧ diverged x = false
        (¬ lanesOk → TakesFault o s x 0x3D x.f.word) ∧
        (lanesOk → ¬ tileOk → TakesFault o s x 0x3C x.f.word) ∧
        (lanesOk → tileOk → ¬ groupOk → TakesFault o s x 0x3E x.f.word) ∧
        (lanesOk → tileOk → groupOk → x.active = 0 → Passes o s x x.split.regs) ∧
        (lanesOk → tileOk → groupOk → x.active ≠ 0 → off % 16 ≠ 0 → TakesFault o s x 0x11 (BitVec.ofNat 32 (lanesOf x.n x.active).length)) ∧
        (lanesOk → tileOk → groupOk → x.active ≠ 0 → off % 16 = 0 → x.disp.spBytes < last →
          TakesFault o s x 0x10 (BitVec.ofNat 32 (lanesOf x.n x.active).length)) ∧
        (lanesOk → tileOk → groupOk → x.active ≠ 0 → off % 16 = 0 → last ≤ x.disp.spBytes →
          (8 ≤ mqShare s x.team → ∃ t, o = .next t ∧ HeldHere s t x (.stall .engine)) ∧
          (mqShare s x.team < 8 → ∃ t u e q, o = .next t ∧ Advanced x t ∧ SameRegs s t ∧ t.mem = s.mem ∧
            (∀ n, flagAt t x.ref n = (flagAt s x.ref n || decide (n = bits x.clause.header 19 16))) ∧
            teamOf t x.ref.team = some u ∧ e ∈ u.inflight ∧ e.state = .matrix s.nextOp ∧ t.mqOps = s.mqOps ++ [q] ∧
            q.kind = .mma fmt joint ∧ q.split = x.ref ∧ q.aOff = off ∧ q.bReg = x.f.b.toNat ∧ q.mod0 = x.m ∧ q.mod1 = x.q ∧
            q.rows = x.active &&& BitVec.ofNat 1024 (2 ^ 64 - 1) ∧ q.accepted = false ∧ q.flight = e.id ∧
            Event.mqAccept x.team.core (x.team.part / 3) ∈ t.agenda))
      (Issues (.mmae4 d a b) s x → Multiplies (exec (.mmae4 d a b) s) 0 false) ∧
      (Issues (.mmae5 d a b) s x → Multiplies (exec (.mmae5 d a b) s) 1 false) ∧
      (Issues (.mmabf d a b) s x → Multiplies (exec (.mmabf d a b) s) 2 false) ∧
      (Issues (.mmahf d a b) s x → Multiplies (exec (.mmahf d a b) s) 3 false) ∧
      (Issues (.mmas8 d a b) s x → Multiplies (exec (.mmas8 d a b) s) 4 false) ∧
      (Issues (.mmaq4 d a b) s x → Multiplies (exec (.mmaq4 d a b) s) 5 false) ∧
      (Issues (.mmqe4 d a b) s x → Multiplies (exec (.mmqe4 d a b) s) 0 true) ∧
      (Issues (.mmqe5 d a b) s x → Multiplies (exec (.mmqe5 d a b) s) 1 true) ∧
      (Issues (.mmqbf d a b) s x → Multiplies (exec (.mmqbf d a b) s) 2 true) ∧
      (Issues (.mmqhf d a b) s x → Multiplies (exec (.mmqhf d a b) s) 3 true) ∧
      (Issues (.mmqs8 d a b) s x → Multiplies (exec (.mmqs8 d a b) s) 4 true) ∧
      (Issues (.mmqq4 d a b) s x → Multiplies (exec (.mmqq4 d a b) s) 5 true)) ∧
  (∀ (s : State) (x : Iss) (z : BitVec 3) (d a b : BitVec 8),
      let full : LaneMask := BitVec.ofNat 1024 (2 ^ 64 - 1)
      let pitch := 16 * bits x.m 19 8
      let early := fun (ga : BitVec 64) (align n : Nat) (w : Bool) =>
        earlyFault s (whoOf x x.first) { ga := ga, n := n, align := align, write := w, atom := false, tags := true }
      let Tile := fun (o : Host.Outcome State Fault Refusal) (tile : Nat) (kind : MqKind) (ga ga2 : BitVec 64) (ok : Prop) =>
        (x.n < 64 → TakesFault o s x 0x3D x.f.word) ∧
        (64 ≤ x.n → x.disp.nacc ≤ tile → TakesFault o s x 0x3C x.f.word) ∧
        (64 ≤ x.n → tile < x.disp.nacc → x.active = 0 → Passes o s x x.split.regs) ∧
        (64 ≤ x.n → tile < x.disp.nacc → x.active ≠ 0 → ok →
          (8 ≤ mqShare s x.team → ∃ t, o = .next t ∧ HeldHere s t x (.stall .engine)) ∧
          (mqShare s x.team < 8 → ∃ t u e q, o = .next t ∧ Advanced x t ∧ SameRegs s t ∧ t.mem = s.mem ∧
            (∀ n, flagAt t x.ref n = (flagAt s x.ref n || decide (n = bits x.clause.header 19 16))) ∧
            teamOf t x.ref.team = some u ∧ e ∈ u.inflight ∧ e.state = .matrix s.nextOp ∧ t.mqOps = s.mqOps ++ [q] ∧
            q.kind = kind ∧ q.split = x.ref ∧ (tile < 8 → mqTile q = tile) ∧ q.ga = ga ∧ q.ga2 = ga2 ∧ bits q.mod0 19 8 = bits x.m 19 8 ∧
            q.rows = x.active &&& full ∧ q.accepted = false ∧ q.flight = e.id ∧ Event.mqAccept x.team.core (x.team.part / 3) ∈ t.agenda))
      let ga := readU64 x a
      (Issues (.mzero z) s x → Tile (exec (.mzero z) s) z.toNat .zero 0 0 True) ∧
      (Issues (.mldacc d a b) s x → Tile (exec (.mldacc d a b) s) x.f.d.toNat .load ga 0 (early ga 16 (63 * pitch + 1024) false = none)) ∧
      (Issues (.mdrain d a b) s x → Tile (exec (.mdrain d a b) s) x.f.d.toNat .drain ga 0
        (early ga 16 (63 * pitch + (if bits x.m 1 0 = 0 then 1024 else 512)) true = none)) ∧
      (Issues (.mdraint d a b) s x → Tile (exec (.mdraint d a b) s) (bits x.m 2 0) .drainT ga (readU64 x b)
          (x.active &&& full = full ∧ early ga 16 (255 * pitch + 64) true = none ∧ early (readU64 x b) 256 1024 true = none) ∧
        (64 ≤ x.n → bits x.m 2 0 < x.disp.nacc → x.active ≠ 0 → x.active &&& full ≠ full → TakesFault (exec (.mdraint d a b) s) s x 0x3D x.f.word)) ∧
      (Issues .mready s x →
        (x.active = 0 ∨ (owesV x.team (fun _ => true) = false ∧ ∀ q ∈ s.outReqs, q.write = true → reqTeam q = none) →
          Passes (exec .mready s) s x x.split.regs) ∧
        (x.active ≠ 0 → owesV x.team (fun _ => true) = true → StaysHeld (exec .mready s) s x (.stall .results))))

/-! ### Steps of the scheduler (R3, R252 to R259, R393, R414 to R423, R439, R440) -/

/-- R3, R417, R423, R498: a cycle begins with PKG_CYCLE one higher and every time that runs one cycle on, its due steps on the agenda; it goes on with
the splits that the pipes take; the cycle of PKG_STOPAT ends in the package's stop, and a frozen package stands. R252 to R259: CLAUSE_FETCH starts a
clause whose WAIT flags are clear, and a malformed header faults; OPERATION_COMPLETE writes the results and clears the flag. -/
def Obligations.CycleSteps : Prop :=
  ∀ (s : State),
    (s.event = some .issueCycle → let s0 := { s with event := none }
      (frozen s = true → exec .issueCycle s = .next s0) ∧
      (frozen s = false → s.taking = false → stopNow s = true → exec .issueCycle s = .next { s0 with agenda := s.agenda ++ [.packageStop] }) ∧
      (frozen s = false → s.taking = false → stopNow s = false → ∃ t, exec .issueCycle s = .next t ∧ t.cycle = s.cycle + 1 ∧ t.taking = true ∧
        (∀ k, teamRegs t k = teamRegs s k) ∧ (∀ r n, flagAt t r n = flagAt s r n) ∧ t.tags = s.tags ∧
        ((∀ g, g < 2 → (gateOf s g).staged = []) → t.mem = s.mem) ∧
        ∀ r u sp, teamOf s r.team = some u → splitIn u r.high = some sp → timeRuns { s with cycle := s.cycle + 1 } u = true →
          ∃ sp', splitOf t r = some sp' ∧ sp'.regs = sp.regs ∧ sp'.waited = sp.waited.map (· + 1) ∧
            (∀ n, sp.hold = .sleep n → sp'.hold = .sleep (n - 1)) ∧ (sp.hold = .sleep 1 → Event.sleepExpire r ∈ t.agenda) ∧
            (∀ on n, sp.hold = .wait on → sp.waited = some n → sp.limit ≤ n + 1 → Event.waitTimeout r ∈ t.agenda)) ∧
      (frozen s = false → s.taking = true → ∃ t, exec .issueCycle s = .next t ∧ t.cycle = s.cycle ∧ t.taking = false ∧ t.mem = s.mem ∧
        (∀ k, partsInUse s = [k] → t.issueQ = s.issueQ ++ takes s k (partList s k)) ∧
        (partsInUse s = [] → t.issueQ = s.issueQ))) ∧
    (∀ r u sp, s.event = some (.clauseFetch r) → teamOf s r.team = some u → splitIn u r.high = some sp → sp.clause = none →
      let s0 := { s with event := none }
      ∀ s1 h, fetchWords (fetcherOf u) sp.pageFail 1 sp.pc s0 = (s1, .ok [h]) →
        (headerBad h = true → ∃ t, exec .clauseFetch s = .next t ∧ FaultedAt s t r 0x20 sp.pc) ∧
        ∀ s2 ws, headerBad h = false → fetchWords (fetcherOf u) sp.pageFail (bits h 23 20 + literalCount h) (sp.pc + 4) s1 = (s2, .ok ws) →
          let body := ws.take (bits h 23 20)
          let waits := ∃ n, n < 12 ∧ h.getLsbD n = true ∧ flagAt s r n = true
          (formsBad h body = true → ∃ t, exec .clauseFetch s = .next t ∧ FaultedAt s t r 0x20 sp.pc) ∧
          (formsBad h body = false → waits → ∃ t, exec .clauseFetch s = .next t ∧ (∀ q, splitOf t q = splitOf s q) ∧ t.mem = s.mem) ∧
          (formsBad h body = false → ¬ waits → sp.pos = 0 → ∃ t c, exec .clauseFetch s = .next t ∧
            splitOf t r = some { sp with clause := some c, bypass := [], pageFail := [] } ∧ (∀ q, q ≠ r → splitOf t q = splitOf s q) ∧
            t.mem = s.mem ∧ c.addr = sp.pc ∧ c.header = h ∧ c.words = body ∧
            ((dispOf s r.team.disp).map (·.overlays) = some [] → c.lits = ws.drop (bits h 23 20)))) ∧
    (∀ k op u e, s.event = some (.operationComplete k op) → teamOf s k = some u →
      u.inflight.find? (fun f => decide (f.id = op) && decide (f.state = .ready)) = some e → e.lost = false → (∀ w ∈ e.writes, w.lost = false) → e.spoilt = [] → e.trap = none →
      Distinct u e.writes → (∀ f ∈ u.inflight, f.state ≠ .done ∧ (f.id = op → f = e)) →
      ∃ t, exec .operationComplete s = .next t ∧ t.mem = s.mem ∧
        (∀ w ∈ e.writes, regAt t k w.name = w.val) ∧ (∀ n, (∀ w ∈ e.writes, w.name ≠ n) → regAt t k n = regAt s k n) ∧
        (∀ b n, n ≠ e.flag → flagAt t ⟨k, b⟩ n = flagAt s ⟨k, b⟩ n) ∧
        ((∀ f ∈ u.inflight, f.id ≠ op → sharesFlag e f = false) →
          (∀ b, flagAt t ⟨k, b⟩ e.flag = (!(if b then e.high else e.low) && flagAt s ⟨k, b⟩ e.flag)) ∧
          ∀ b, (splitOf t ⟨k, b⟩).map (·.mode) =
            (splitOf s ⟨k, b⟩).map (fun sp => if (if b then e.high else e.low) then orXF sp.mode e.xf else sp.mode)))

/-- R439 and R440: a user trap saves the address of the next instruction, the cause and the lanes, and the split starts the clause at TRAPVEC, its
mask, MODE and stack as they were; without a vector it is a fault 0x58. R419 and R420: promotion and release. R393, R63 and R64: the end of a SLEEP, a
wake and a poll. R423: a wait at its bound is a fault 0x51. -/
def Obligations.SplitEvents : Prop :=
  ∀ (s : State) (r : SplitRef) (u : Team) (sp : Split), teamOf s r.team = some u → splitIn u r.high = some sp →
    (s.event = some (.userTrapEntry r) → ∀ q rest, trapsOf u r.high = q :: rest → sp.handler = none → canRun s u sp = true → sp.hold = .none →
      (∀ o, splitIn u (!r.high) = some o → o.handler = none) →
      (u.trapVec.setWidth 56 = (0 : BitVec 56) → ∃ t, exec .userTrapEntry s = .next t ∧ FaultedAt s t r 0x58 q.addr) ∧
      (u.trapVec.setWidth 56 ≠ (0 : BitVec 56) → ∃ t w v, exec .userTrapEntry s = .next t ∧ teamOf t r.team = some w ∧ splitIn w r.high = some v ∧
        w.trapPc = (instrPc sp).setWidth 64 ∧ w.trapAddr = q.addr.setWidth 64 ∧ w.trapInfo = q.info.setWidth 32 ∧ bits w.trapCause 7 0 = q.cause.toNat ∧
        bits w.trapCause 12 8 = q.exc.toNat ∧ w.trapMask = q.lanes ∧ w.trapVec = u.trapVec ∧
        v.pc = u.trapVec.setWidth 56 ∧ v.clause = none ∧ v.pos = 0 ∧ v.mask = sp.mask ∧ v.mode = sp.mode ∧ v.stack = sp.stack ∧
        v.handler = some { mask := sp.mask, depth := sp.stack.length, clause := sp.clause, pos := sp.pos, wrote := false } ∧
        (∀ n, regAt t r.team n = regAt s r.team n) ∧ (∀ b n, flagAt t ⟨r.team, b⟩ n = flagAt s ⟨r.team, b⟩ n) ∧ t.mem = s.mem)) ∧
    (s.event = some (.starvationPromote r) → sp.tier ≠ 0 → ∃ t v, exec .starvationPromote s = .next t ∧ SplitStep s t r v ∧
      v.tier = 0 ∧ v.promoted = 16 ∧ v.regs = sp.regs ∧ v.hold = sp.hold ∧ v.pc = sp.pc ∧
      v.stamp = if sp.tier = 2 then mapGet 0 s.stamps (partKey u) else sp.stamp) ∧
    (s.event = some (.spinReleaseTimeout r) → dropOver s sp = true → ∃ t v, exec .spinReleaseTimeout s = .next t ∧ SplitStep s t r v ∧
      v.tier = 1 ∧ v.stamp = mapGet 0 s.stamps (partKey u) ∧ v.regs = sp.regs ∧ v.hold = sp.hold ∧ v.pc = sp.pc) ∧
    (s.event = some (.sleepExpire r) → sp.hold = .sleep 0 → ∃ t, exec .sleepExpire s = .next t ∧ SplitStep s t r { sp with hold := .none }) ∧
    (s.event = some (.waitTimeout r) → mqExpired s r = [] → sp.unmet = [] → ∀ n, sp.waited = some n → sp.limit ≤ n →
      ∃ t v, exec .waitTimeout s = .next t ∧ FaultedAt s t r 0x51 (instrPc sp) ∧ splitOf t r = some v ∧ v.hold = .none ∧ v.waited = none ∧
        v.regs = sp.regs ∧ ∀ w ∈ t.watches, w.split ≠ r) ∧
    (s.event = some (.watchWake r) → ∀ on, sp.hold = .wait on → ∃ t v, exec .watchWake s = .next t ∧ SplitStep s t r v ∧
      v.hold = .none ∧ v.regs = sp.regs ∧ v.pc = sp.pc ∧ v.pos = sp.pos ∧ v.waited = sp.waited) ∧
    (s.event = some (.watchPoll r) → ∀ on, sp.hold = .wait on → .poll ∈ on → ∃ t, exec .watchPoll s = .next t ∧ SplitStep s t r { sp with hold := .none })

/-! ### Steps of memory and the networks (R56 to R63, R66 to R78, R88 to R91, R110 to R121) -/

/-- R56 to R60 and R62: an access at its home slice is one step on its line; R110, R112, R118, R120, R121: the object operations on barriers and
futures, each of them once; objects in the host window are refused. -/
def Obligations.SliceAndObjectSteps : Prop :=
  ∀ (s : State),
    (∀ q, s.event = some (.sliceAccess q) → ∃ t, exec .sliceAccess s = .next t ∧ MemStep s t q.pa q.size ∧
      (q.op ≠ .tagWrite → t.tags = s.tags) ∧
      ((q.op = .read ∨ q.op = .tagRead ∨ q.op = .tagWrite) → t.mem = s.mem) ∧
      (q.op = .tagWrite → ∀ a, tagOf t a = if a / 32 = q.pa / 32 then q.data.setWidth 4 else tagOf s a) ∧
      (q.op = .write → readMem t q.pa q.size = if coversPoison s q.pa q.size then q.data.toNat % 2 ^ (8 * q.size) else readMem s q.pa q.size) ∧
      (∀ op, q.op = .atomic op → readMem t q.pa q.size = if poisonAt s q.pa q.size then readMem s q.pa q.size else
        atomicResult op (8 * q.size) (readMem s q.pa q.size) (q.data.toNat % 2 ^ (8 * q.size)) q.cmp.toNat % 2 ^ (8 * q.size)) ∧
      (∀ fn num, q.src = some (fn, num) → Event.sequencerSend fn ∈ t.agenda ∧
        ∀ p ∈ t.posted, p.fn = fn → p.num = num → ∀ x ∈ p.pieces, x.1 ≠ q.pa)) ∧
    (∀ pa,
      let b := readBar s pa
      let Becomes := fun (o : Host.Outcome State Fault Refusal) (c : Bar) =>
        (hostBase ≤ pa ∨ poisonAt s pa 16 = true → o = .next { s with event := none }) ∧
        (pa < hostBase → poisonAt s pa 16 = false → ∃ t, o = .next t ∧ readBar t pa = c ∧ MemStep s t pa 16 ∧ t.tags = s.tags)
      (s.event = some (.objArrive pa none) → Becomes (exec .objArrive s)
        (if b.init = false then b else if b.arr = 0 then { b with err := 2 } else phaseEnd { b with arr := b.arr - 1 })) ∧
      (∀ n : BitVec 32, s.event = some (.objArrive pa (some n)) → Becomes (exec .objArrive s)
        (if b.init = false then b else moreBytes b (-(n.toNat : Int)))) ∧
      (∀ n : BitVec 32, s.event = some (.objExpect pa n) → Becomes (exec .objExpect s) (if b.init = false then b else moreBytes b n.toInt)) ∧
      (∀ n : BitVec 16, s.event = some (.barrierInit pa n) → Becomes (exec .barrierInit s)
        { arr := n.toNat, load := n.toNat, bytes := 0, phase := false, init := true, err := 0 })) ∧
    (∀ pa, pa < hostBase → poisonAt s pa 32 = false →
      (∀ r, s.event = some (.objComplete pa r) → ∃ t, exec .objComplete s = .next t ∧ MemStep s t pa 32 ∧ t.tags = s.tags ∧
        futGen t pa = futGen s pa ∧ futEng t pa = futEng s pa ∧ futDone t pa = true ∧
        (futDone s pa = true → t.mem = s.mem) ∧
        (futDone s pa = false → futStatus t pa = r.status.toNat ∧ readMem t (pa + 8) 4 = r.bytes.toNat ∧
          readMem t (pa + 12) 15 = r.coord.toNat ∧ readMem t (pa + 27) 1 = r.side.toNat)) ∧
      (s.event = some (.objCancel pa) → ∃ t, exec .objCancel s = .next t ∧ MemStep s t pa 32 ∧ t.tags = s.tags ∧
        futGen t pa = futGen s pa ∧ futDone t pa = true ∧
        (futDone s pa = true → t.mem = s.mem) ∧
        (futDone s pa = false → futStatus t pa = 1 ∧ ∀ id, opOfFuture s pa = some id → Event.engineCancel id ∈ t.agenda)))

/-- R66 to R71: a packet moves along x, then y, on its layer, to a slice that makes its access; R160 to R167: a packet at a port goes onto the link;
R74 and R75: refresh and patrol; R76 to R78: posted writes wait for each other and reads for them. -/
def Obligations.NetworkSteps : Prop :=
  ∀ (s : State),
    let s0 := { s with event := none }
    (∀ n p q x y l dq dx dy dl, s.event = some (.packetHop n) → n < 65536 → s.network[n]? = some p →
      p.at_ = some (q, x, y, l) → p.dest = some (dq, dx, dy, dl) →
      let To := fun (a : Nat × Nat × Nat × Nat) => ∃ t p', exec .packetHop s = .next t ∧ Quiet s t ∧
        t.network = s.network.set n p' ∧ p'.at_ = some a ∧ p'.dest = p.dest ∧ p'.req = p.req
      let Arrives := ∃ t, exec .packetHop s = .next t ∧ Quiet s t ∧ t.network = s.network.eraseIdx n ∧ t.agenda = s.agenda ++ [.sliceAccess p.req]
      (q = dq → l = dl → l ≤ 1 → x < dx → To (q, x + 1, y, l)) ∧
      (q = dq → l = dl → l ≤ 1 → dx < x → To (q, x - 1, y, l)) ∧
      (q = dq → l = dl → l ≤ 1 → x = dx → y < dy → To (q, x, y + 1, l)) ∧
      (q = dq → l = dl → l ≤ 1 → x = dx → dy < y → To (q, x, y - 1, l)) ∧
      (q = dq → l = dl → l ≤ 1 → x = dx → y = dy → Arrives) ∧
      (q = dq → l = 0 → dl = 1 → To (q, x, y, 1)) ∧
      (q = dq → l = 1 → dl = 0 → x = dx → y = dy → To (q, x, y, 0)) ∧
      (q ≠ dq → l = 0 → To (q, x, y, 1)) ∧
      (q ≠ dq → l = 1 → x ≠ 0 → To (q, x - 1, y, 1))) ∧
    (∀ n p, s.event = some (.packetHop (65536 + n)) → s.portQ[n]? = some p →
      (portUp s p.port = false → exec .packetHop s = .next s0) ∧
      (portUp s p.port = true → ∃ t, exec .packetHop s = .next t ∧ Quiet s t ∧ t.portQ.map (·.pkt) = (s.portQ.eraseIdx n).map (·.pkt) ∧
        t.outbox = if egress s 1 then s.outbox ++ [(p.port, p.pkt)] else s.outbox)) ∧
    (∀ p, s.event = some (.refreshTick p) → ∃ t, exec .refreshTick s = .next t ∧ t = { s0 with refreshed := t.refreshed } ∧
      ∀ k, mapGet 0 t.refreshed k = if k = p then s.cycle else mapGet 0 s.refreshed k) ∧
    (s.event = some .patrolScrub → exec .patrolScrub s = .next { s0 with patrol := (s.patrol + 1) % 2 ^ 23 }) ∧
    (∀ fn pa l, s.event = some (.hostPostedWrite fn pa l) → l ≠ [] → pa % 128 + l.length ≤ 128 →
      ((fnGated s fn = true ∨ fnReaches s fn pa l.length = false) → exec .hostPostedWrite s = .next s0) ∧
      (fnGated s fn = false → fnReaches s fn pa l.length = true → exec .hostPostedWrite s = .next { s0 with
        posted := s.posted ++ [{ fn := fn, num := s.postedNum, pieces := [(pa, l)], sent := false, reg := none }]
        postedNum := s.postedNum + 1, agenda := s.agenda ++ [.sequencerSend fn] })) ∧
    (∀ fn p, s.event = some (.sequencerSend fn) → s.posted.find? (fun p => decide (p.fn = fn)) = some p → p.reg = none →
      (p.sent = true → exec .sequencerSend s = .next s0) ∧
      (p.sent = false → ∃ t l, exec .sequencerSend s = .next t ∧ Quiet s t ∧ t.network = s.network ++ l ∧ l.length = p.pieces.length ∧
        (∀ a b, (a, b) ∈ p.pieces → ∃ k ∈ l, k.dest = some (homeNode s (partOfQuarter s fn) a) ∧ k.req.pa = a ∧ k.req.op = .write ∧ k.req.size = b.length ∧
          k.req.src = some (fn, p.num)) ∧
        ∀ c ∈ t.posted, c = { p with sent := true } ∨ (c ∈ s.posted ∧ c ≠ p))) ∧
    (∀ fn pa n, s.event = some (.hostRead fn pa n) → pa < 2 ^ 48 → s.hostReads = [] →
      ((∃ p ∈ s.posted, p.fn = fn ∧ p.num < s.postedNum) → exec .hostRead s = .next { s0 with hostReads := [(fn, pa, n, s.postedNum)] }) ∧
      ((∀ p ∈ s.posted, p.fn = fn → s.postedNum ≤ p.num) → ∃ t, exec .hostRead s = .next t ∧ Quiet s t ∧ t.hostReads = [] ∧
        (egress s 0 = true → fnReaches s fn pa n = true → fnGated s fn = false → poisonAt s pa n = false →
          t.hostOut = s.hostOut ++ [.completion fn (readBytes s pa n) false])))

/-- R88 to R91, R155, R163, R167, R171, R180, R473, R474, R484, R485: the messages of the Band ring that reach their stop. -/
def Obligations.BandSteps : Prop :=
  ∀ (s : State) (m : BandMsg),
    let s0 := { s with event := none }
    let v := m.payload.headD 0
    (s.event = some (.configurationRead m) → exec .configurationRead s = .next { s0 with
      bandWait := s.bandWait ++ [{ dest := m.source, source := m.dest, kind := 2, len := 1, addr := m.addr, payload := [mgmtRead s m.addr.toNat] }] }) ∧
    (s.event = some (.configurationWrite m) →
      (m.addr = 0x010000 → exec .configurationWrite s = .next { s0 with hlthcfg := v.setWidth 32 &&& 0xFFFF }) ∧
      (m.addr = 0x020000 → exec .configurationWrite s = .next { s0 with
        thermcfg := if bits v 7 0 < bits v 15 8 then v.setWidth 32 &&& 0xFFFFFF else s.thermcfg }) ∧
      (m.addr = 0x020010 → exec .configurationWrite s = .next { s0 with thold := v.setWidth 32 &&& 0xF }) ∧
      (m.addr = 0x030048 → anyEnabled s = false → exec .configurationWrite s = .next { s0 with fabcfg := v &&& 0x003FFFFFFFFFFFFF }) ∧
      (m.addr = 0x030050 → exec .configurationWrite s = .next { s0 with fabrte := v.setWidth 32 &&& 0x1FFFF }) ∧
      (m.addr = 0x030058 → exec .configurationWrite s = .next { s0 with fabqos := v.setWidth 32 }) ∧
      (m.addr = 0x030060 → exec .configurationWrite s = .next { s0 with fabrto := v.setWidth 32 &&& 0x0FFFFFFF }) ∧
      (0x031000 ≤ m.addr.toNat → m.addr.toNat < 0x031800 → ∃ t, exec .configurationWrite s = .next t ∧ t = { s0 with fabacl := t.fabacl } ∧
        ∀ k, mapGet 0 t.fabacl k = if k = (m.addr.toNat - 0x031000) / 8 then v &&& 0xFFFFFFFFFF else mapGet 0 s.fabacl k) ∧
      (m.addr = 0x030040 → ∃ t, exec .configurationWrite s = .next t ∧ Quiet s t ∧ t.pwrgate = v.setWidth 32 &&& 0xF ∧
        ∀ q, q < 4 → mapGet 0 t.wakeAt q = if s.pwrgate.getLsbD q && !v.getLsbD q then s.cycle + 1200 else mapGet 0 s.wakeAt q)) ∧
    (s.event = some (.readReply m) →
      ((bits s.mbstat 1 0 ≠ 1 ∨ m.dest ≠ 0) → exec .readReply s = .next s0) ∧
      (bits s.mbstat 1 0 = 1 → m.dest = 0 → exec .readReply s = .next { s0 with mbdata := v, mbstat := 2, hostOut := told s 4 6 })) ∧
    (s.event = some (.bandWake m) → ∃ t, exec .bandWake s = .next t ∧ t = { s0 with routersAwake := t.routersAwake } ∧
      ∀ r, r ∈ t.routersAwake ↔ r = m.dest ∨ r ∈ s.routersAwake) ∧
    (s.event = some (.bandInterrupt m) → exec .bandInterrupt s = .next { s0 with hostOut := s.hostOut ++ [.bandCode m.source m.addr] }) ∧
    (s.event = some (.bandManagement m) → exec .bandManagement s = .next s0) ∧
    (s.event = some (.bandInvalidRemove m) → exec .bandInvalidRemove s = .next { s0 with banderr := s.banderr + 1, hostOut := told s 4 7 }) ∧
    (∀ q, s.event = some (.quarterWakeReady q) → ∃ t, exec .quarterWakeReady s = .next t ∧ t = { s0 with wakeAt := t.wakeAt } ∧
      ∀ k, mapGet 0 t.wakeAt k = if k = q ∧ (mapGet 0 s.wakeAt q).toNat ≤ s.cycle.toNat then 0 else mapGet 0 s.wakeAt k)

/-! ### Steps of the engines and the matrix quadrants (R92 to R126, R136 to R145, R364 to R370) -/

/-- R92 to R94, R96, R101, R106, R112 to R114, R118, R123, R304: the copy engine accepts one start in rotation, activates the oldest, issues a piece
of a copy, places a piece, ends an operation with its arrival and its future, and begins no more of a cancelled one. -/
def Obligations.CopyEngineSteps : Prop :=
  ∀ (s : State),
    let s0 := { s with event := none }
    (∀ core, s.event = some (.xeAccept core) → (∀ p ∈ s.xeOps, p.part < 12) →
      let far := fun (p : XeOp) => (p.part + 12 - (coreOf s core).xeRot % 12) % 12
      ((∀ p ∈ s.xeOps, p.core = core → p.accepted = true) → exec .xeAccept s = .next s0) ∧
      ((∃ p ∈ s.xeOps, p.core = core ∧ p.accepted = false) → ∃ t o, exec .xeAccept s = .next t ∧ Quiet s t ∧ o ∈ s.xeOps ∧ o.core = core ∧
        o.accepted = false ∧ (∀ p ∈ s.xeOps, p.core = core → p.accepted = false → far o ≤ far p) ∧
        t.xeOps = s.xeOps.filter (fun p => decide (p.id ≠ o.id)) ++ [{ o with accepted := true }] ∧ (coreOf t core).xeRot = (o.part + 1) % 12 ∧
        ∀ u e, teamOf s o.team = some u → e ∈ u.inflight → e.state = .engine o.id →
          ∃ w, teamOf t o.team = some w ∧ { e with state := .ready } ∈ w.inflight)) ∧
    (∀ core o i, s.event = some (.xeActivate core) → s.xeOps.find? (fun o => decide (o.core = core) && o.accepted && !o.active) = some o →
      xeOf s o.id = some o → o.cancelled = false → i < 8 →
      (∀ p ∈ s.xeOps, p.core = core → p.active = true → p.slot ≠ i) → (∀ j, j < i → ∃ p ∈ s.xeOps, p.core = core ∧ p.active = true ∧ p.slot = j) →
      let o1 := { o with active := true, slot := i }
      let s1 := updXe s0 o.id (fun _ => o1)
      let n := if o.kind = .gather then 192 else 128
      (bits o.param 55 0 % 64 ≠ 0 → o.fail = none → ∃ t f, exec .xeActivate s = .next t ∧ Quiet s t ∧ xeOf t o.id = some { o1 with fail := some f } ∧
        f.status = 0x04 ∧ f.cause = 0x11 ∧ f.side = 4 ∧ f.elem = 0) ∧
      (∀ pa ts tc, bits o.param 55 0 % 64 = 0 → (xeCheck s1 o1 o.param n 64 false).2 = .ok ts tc → spans ts pa n = true → poisonAt s pa n = false →
        (∀ o2, o.kind ≠ .copyT → xeSetup s o1 (readMem s pa n) = .ok o2 → ∃ t, exec .xeActivate s = .next t ∧ Quiet s t ∧ xeOf t o.id = some o2) ∧
        (∀ f, o.kind ≠ .copyT → o.fail = none → xeSetup s o1 (readMem s pa n) = .error f → ∃ t, exec .xeActivate s = .next t ∧ Quiet s t ∧
          xeOf t o.id = some { o1 with fail := some f }))) ∧
    (∀ core o a d, s.event = some (.xePieceIssue core) → (∀ p ∈ s.xeOps, p.core = core → xeRuns s p = true → p = o) →
      o ∈ s.xeOps → xeOf s o.id = some o → o.core = core → xeRuns s o = true → o.slot < 8 → o.loaded = true → o.kind = .copy →
      elemPair o o.next = .ok (some a, d) →
      let m := runLen s o (some a, d) 128 1
      let n := m * xeElem o
      let s1 := updCore s0 core (fun k => { k with xeTurn := (o.slot + 1) % 8 })
      let c := xeCheck s1 o d n (xeElem o) true
      ∀ pa pb cp ta tb ca cb, c.2 = .ok tb cb → placeOfTargets tb (bits d 59 56) = .mem pb cp → (xeCheck c.1 o a n (xeElem o) false).2 = .ok ta ca → spans ta pa n = true →
        poisonAt s pa n = false →
        ∃ t l, exec .xePieceIssue s = .next t ∧ Quiet s t ∧ l.length = n ∧ (∀ i, i < n → l.getD i 0 = readByte s (pa + i)) ∧
          xeOf t o.id = some { o with pieces := o.pieces ++ [{ elem := o.next, ga := d, place := .mem pb cp, own := false, data := l }]
                                      next := o.next + m, read := o.read ++ readSpace o n ta }) ∧
    (∀ core o p, s.event = some (.xePiecePlace core) → xeOf s o.id = some o →
      s.xeOps.findSome? (fun o => if o.core = core then (o.pieces.find? (xePlaceable s o)).map (fun p => (o, p)) else none) = some (o, p) →
      let n := p.data.length
      let rest := o.pieces.erase p
      (∀ pa cp, p.place = .mem pa cp → coversPoison s pa n = true → ∃ t, exec .xePiecePlace s = .next t ∧ MemStep s t pa n ∧ t.tags = s.tags ∧
        (∀ i, i < n → readByte t (pa + i) = p.data.getD i 0) ∧
        xeOf t o.id = some { o with pieces := rest, placed := o.placed + n, wrote := o.wrote ++ [(0, pa, n)] }) ∧
      (∀ pa cp, p.place = .mem pa cp → coversPoison s pa n = false → o.fail = none → ∃ t f, exec .xePiecePlace s = .next t ∧ Quiet s t ∧
        xeOf t o.id = some { o with pieces := rest, fail := some f } ∧ f.status = 0x08 ∧ f.elem = p.elem ∧ f.side = 1) ∧
      (∀ a b, p.place = .spad a → blockOf s o.team.disp o.team.block = some b → ∃ t b', exec .xePiecePlace s = .next t ∧ Quiet s t ∧
        blockOf t o.team.disp o.team.block = some b' ∧
        (∀ k, spByte b' k = if a ≤ k ∧ k < a + n then p.data.getD (k - a) 0 else spByte b k) ∧
        xeOf t o.id = some { o with pieces := rest, placed := o.placed + n, wrote := o.wrote ++ [(o.team.block + 1, a, n)] }) ∧
      (∀ pa tag tc, p.place = .remote pa tag tc → ∃ t q, exec .xePiecePlace s = .next t ∧ Quiet s t ∧ q ∈ t.outReqs ∧
        q.waiter = .engine o.id p.elem ∧ q.dev = BitVec.ofNat 8 (pa / 2 ^ 48) ∧ q.write = true ∧
        let dev := pa / 2 ^ 48
        xeOf t o.id = some { o with pieces := rest, sent := mapSet 0 o.sent dev (mapGet 0 o.sent dev + 1) }) ∧
      (∀ i a b, p.place = .recv i a → blockOf s o.team.disp i = some b → b.exited = false →
        let bar := barrierAt (ctxOf s o.ctx) b.area (bits o.extra 91 88)
        (objRefused s o.ctx bar = true → ∃ t, exec .xePiecePlace s = .next t ∧ t.mem = s.mem ∧
          ∃ r ∈ (ctxOf t o.ctx).faultQ, r.kind = 2 ∧ r.cause = 0x42 ∧ r.pc = o.pc.setWidth 64) ∧
        (objRefused s o.ctx bar = false → (readBar s bar).init = true → poisonAt s bar 16 = false → ∃ t b', exec .xePiecePlace s = .next t ∧ MemStep s t bar 16 ∧
          readBar t bar = moreBytes (readBar s bar) (-(n : Int)) ∧ blockOf t o.team.disp i = some b' ∧
          (∀ k, spByte b' k = if a ≤ k ∧ k < a + n then p.data.getD (k - a) 0 else spByte b k)))) ∧
    (∀ id o, s.event = some (.xeOperationEnd id) → xeOf s id = some o →
      (xeFinished s o = false → exec .xeOperationEnd s = .next s0) ∧
      (xeFinished s o = true → o.cancelled = false → overlapBytes o = [] → (∀ b ∈ s.blocks, b.exited = false) → futDone s o.future = false →
        poisonAt s o.future 32 = false → objRefused s o.ctx o.future = false →
        (o.member = none → ∃ t, exec .xeOperationEnd s = .next t ∧ MemStep s t o.future 32 ∧ xeOf t id = none ∧ futDone t o.future = true ∧
          futStatus t o.future = (match o.fail with
            | some f => f.status.toNat
            | none => if o.gone then 0x09 else 0x00) ∧
          readMem t (o.future + 8) 4 = min o.placed 0xFFFFFFFF ∧
          (∀ f, o.fail = some f → within f.status.toNat 3 8 = true → ∃ r ∈ (ctxOf t o.ctx).faultQ, r.kind = 2 ∧ r.cause = f.cause ∧
            r.pc = o.pc.setWidth 64 ∧ r.disp = o.team.disp ∧ r.info2 = o.handle.setWidth 64 ||| (f.status.setWidth 64 <<< 32))) ∧
        (∀ n b, o.member = some n → blockOf s o.team.disp o.team.block = some b → o.fail = none → o.gone = false →
          let bar := barrierAt (ctxOf s o.ctx) b.area n
          (bar + 16 ≤ o.future ∨ o.future + 32 ≤ bar) → poisonAt s bar 16 = false → objRefused s o.ctx bar = false → ∃ t, exec .xeOperationEnd s = .next t ∧ xeOf t id = none ∧ futDone t o.future = true ∧
            futStatus t o.future = (if (readBar s bar).init then 0x00 else 0x0A) ∧
            readBar t bar = if (readBar s bar).init = false then readBar s bar else if (readBar s bar).arr = 0 then { readBar s bar with err := 2 }
              else phaseEnd { readBar s bar with arr := (readBar s bar).arr - 1 }))) ∧
    (∀ id, s.event = some (.engineCancel id) → ∃ t, exec .engineCancel s = .next t ∧
      (∀ o, xeOf s id = some o → xeOf t id = some { o with cancelled := true, parked := none }) ∧
      (∀ e ∈ t.exchanges, e.id = id → e.cancelled = true) ∧ (∀ d ∈ t.deliveries, d.exch = id → d.begun = true ∨ d.isOver = true) ∧
      ((∀ e ∈ s.exchanges, e.id ≠ id) → Quiet s t))

/-- R136 to R138: a second GBIND of a bound slot, the refusals of R137, and the binding; R140 to R145: the polls, elements and step word of a
delivery. -/
def Obligations.HaloEngineSteps : Prop :=
  ∀ (s : State),
    let s0 := { s with event := none }
    (∀ op b u d, s.event = some (.gridBindRequest op) → s.binds.find? (fun b => decide (b.id = op)) = some b → teamOf s b.split.team = some u →
      dispOf s b.split.team.disp = some d → b.page = none → b.todo = [] → b.desc = none → b.map = none →
      let g := slotOf (ctxOf s b.ctx) b.slot
      let Over := fun (t : State) => (∀ c ∈ t.binds, c.id ≠ op) ∧
        ∀ e ∈ u.inflight, e.state = .bind op → ∃ w, teamOf t b.split.team = some w ∧ { e with state := .ready } ∈ w.inflight
      let Fails := fun (cause : BitVec 8) (info : Word) => ∃ t, exec .gridBindRequest s = .next t ∧ FaultedAt s t b.split cause b.pc ∧ Over t ∧
        ∃ r ∈ (ctxOf t u.ctx).faultQ, r.cause = cause ∧ r.pc = b.pc.setWidth 64 ∧ r.info = info
      g.releasing = false →
        (g.bound = true → g.dispatch = d.id → g.dva = b.ga.setWidth 56 → ∃ t, exec .gridBindRequest s = .next t ∧ Quiet s t ∧ Over t) ∧
        (g.bound = true → ¬ (g.dispatch = d.id ∧ g.dva = b.ga.setWidth 56) → Fails 0x35 b.word) ∧
        (g.bound = false → d.cls ≠ 0 → Fails 0x38 0) ∧
        (g.bound = false → d.cls = 0 →
          let w : Who := { ctx := b.ctx, via := .die (b.ctx / 1024), spBytes := d.spBytes, slot := u.stackSlot, lane := b.lane, failed := b.failed }
          let read := fun (ga : BitVec 64) (n al : Nat) (s : State) =>
            checkAccess s w { ga := ga, n := n, align := al, write := false, atom := false, tags := true }
          let pass := fun (ts : List Target) (s : State) => slicePass (partOfCtx s b.ctx) false false ts s
          ∀ s1 pa cp tc, read b.ga 64 64 s0 = (s1, .ok [.mem pa 64 cp] tc) → poisonAt s pa 64 = false →
            let desc := BitVec.ofNat 512 (readMem s pa 64)
            let gd := gridOf desc
            let n := 16 * gd.count
            let kept := bindKeep b (fun c => { c with desc := some desc }) (pass [.mem pa 64 cp] s1)
            (gridOk desc = false → Fails 0x38 1) ∧
            (∀ s2 pb ts td, gridOk desc = true → read (BitVec.ofNat 64 ((gd.mapTag <<< 56) + gd.mapVa)) n 16 kept = (s2, .ok ts td) →
              spans ts pb n = true → poisonAt s pb n = false →
              let map := (List.range gd.count).map (fun i => BitVec.ofNat 128 (readMem s (pb + 16 * i) 16))
              let own := (map.map partOf).filter (fun e => decide (e.dev = devNum s))
              let good := (∀ e ∈ map, partOk e = true) ∧ (∀ e ∈ own, e.block < d.nbx * d.nby * d.nbz) ∧ (own.map (·.block)).Nodup
              let store := (storageCheck b gd own (bindKeep b (fun c => { c with map := some map }) (pass ts s2))).2
              (¬ good → Fails 0x38 2) ∧
              (good → store = .refused → Fails 0x38 3) ∧
              (good → store = .fine → ∃ t, exec .gridBindRequest s = .next t ∧
                (exchangesOf s b.core + own.length ≤ 16 → Over t) ∧
                (slotOf (ctxOf t b.ctx) b.slot).bound = true ∧ (slotOf (ctxOf t b.ctx) b.slot).dva = b.ga.setWidth 56 ∧
                (slotOf (ctxOf t b.ctx) b.slot).desc = desc ∧ (slotOf (ctxOf t b.ctx) b.slot).map = map ∧
                (slotOf (ctxOf t b.ctx) b.slot).dispatch = b.split.team.disp)))) ∧
    (∀ id d e, dlvOf s id = some (d, e) → d.page = none → d.isOver = false →
      let (g, tp, sp) := dlvGrid s d e
      let pass := fun (ts : List Target) (s : State) => slicePass (partOfCtx s e.ctx) false false ts s
      (s.event = some (.brimDeliveryPoll id) → d.begun = false → ∀ s1 pb cb tb pa cp ta,
        dlvCheck s0 d e (stepGa g tp wBIND) 4 false = (s1, .ok [.mem pb 4 cb] tb) → poisonAt s pb 4 = false →
        (dlvCheck (pass [.mem pb 4 cb] s1) d e (stepGa g tp wPSTEP) 4 false).2 = .ok [.mem pa 4 cp] ta → poisonAt s pa 4 = false →
        let go := readMem s pb 4 = 1 ∧ e.step.toNat ≤ readMem s pa 4 ∧ dlvBehind s d e = false
        ∃ t, exec .brimDeliveryPoll s = .next t ∧ Quiet s t ∧
          (go → dlvOf t id = some ({ d with begun := true }, e)) ∧ (¬ go → dlvOf t id = some ({ d with pollAt := s.cycle + 256 }, e))) ∧
      (s.event = some (.brimDelivery id) → d.begun = true → d.next < slabCount g d.slab →
        let at_ := indexOf g (slabCoords g d.slab d.next)
        let i := sourceIndex g d.target d.slab d.next
        let Writes := fun (s1 : State) (v : Nat) => ∀ pb cb tb, (dlvCheck s1 d e (elemGa g tp at_) g.bytes true).2 = .ok [.mem pb g.bytes cb] tb →
          coversPoison s pb g.bytes = true → ∃ t d' e', exec .brimDelivery s = .next t ∧ MemStep s t pb g.bytes ∧
            (dlvAstray s d e [.mem pb g.bytes cb] = false → readMem t pb g.bytes = v % 2 ^ (8 * g.bytes)) ∧ dlvOf t id = some (d', e') ∧
            d'.next = d.next + 1 ∧ e'.placed = e.placed + g.bytes
        ((slabSource g d.target d.slab).1 = .external → ∃ t, exec .brimDelivery s = .next t ∧ Quiet s t ∧
          dlvOf t id = some ({ d with next := slabCount g d.slab }, e)) ∧
        ((slabSource g d.target d.slab).1 = .const → Writes s0 g.cval) ∧
        ((slabSource g d.target d.slab).1 = .map → elemStored g sp e i = false → ∀ s1 pa cp ta,
          dlvCheck s0 d e (elemGa g sp i) g.bytes false = (s1, .ok [.mem pa g.bytes cp] ta) → poisonAt s pa g.bytes = false →
            Writes (fetchDrop (pass [.mem pa g.bytes cp] s1) (.engine d.id)) (readMem s pa g.bytes))) ∧
      (s.event = some (.brimStepWord id) → d.begun = true → slabCount g d.slab ≤ d.next → dlvRemote s id = false →
        (d.spoilt < e.stored.length → ∃ t d', exec .brimStepWord s = .next t ∧ t.tags = s.tags ∧ dlvOf t id = some (d', e) ∧
          d'.spoilt = e.stored.length ∧ d'.isOver = false) ∧
        (e.stored.length ≤ d.spoilt → ∀ pa cp tc,
          (dlvCheck { s0 with fresh := s.fresh + 1 } d e (stepGa g tp d.slab) 4 true).2 = .ok [.mem pa 4 cp] tc → coversPoison s pa 4 = true →
          dlvAstray s d e [.mem pa 4 cp] = false → (slotOf (ctxOf s e.ctx) e.slot).releasing = false →
          ((∃ x ∈ s.deliveries, x.exch = e.id ∧ x.id ≠ d.id ∧ x.isOver = false) → ∃ t d', exec .brimStepWord s = .next t ∧ MemStep s t pa 4 ∧
            readMem t pa 4 = e.step.toNat ∧ dlvOf t id = some (d', e) ∧ d'.isOver = true) ∧
          (∀ fut, (∀ x ∈ s.deliveries, x.exch = e.id → x.id = d.id ∨ x.isOver = true) → e.future = some fut → e.cancelled = false → e.fail = none →
            futDone s fut = false → poisonAt s fut 32 = false → objRefused s e.ctx fut = false → (∀ b ∈ s.blocks, b.exited = false) →
            (pa + 4 ≤ fut ∨ fut + 32 ≤ pa) →
            ∃ t, exec .brimStepWord s = .next t ∧ readMem t pa 4 = e.step.toNat ∧ (∀ x ∈ t.deliveries, x.exch ≠ e.id) ∧
              (∀ f ∈ t.exchanges, f.id ≠ e.id) ∧ futDone t fut = true ∧ futStatus t fut = 0 ∧
              readMem t (fut + 8) 4 = min e.placed 0xFFFFFFFF))))

/-- R364 to R368: a quadrant accepts the oldest operation and starts one in the rotation of its partitions, or all four parts of a matched joint
operation; R356, R366, R369, R371: the end of a multiply and of MZERO writes the rows that their lanes own and no other. -/
def Obligations.QuadrantSteps : Prop :=
  ∀ (s : State),
    let s0 := { s with event := none }
    (∀ core quad q u, s.event = some (.mqAccept core quad) →
      mqFirst s core quad = some q → teamOf s q.split.team = some u →
      let q1 := { q with accepted := true, count := u.mqCount, limit := max 1 (bits (ctxOf s u.ctx).waitlim 47 0) }
      (isJoint q = false → exec .mqAccept s = .next { s0 with mqOps := s.mqOps.filter (fun p => decide (p.id ≠ q.id)) ++ [q1] }) ∧
      (isJoint q = true → (partners { s0 with mqOps := s.mqOps.filter (fun p => decide (p.id ≠ q.id)) ++ [q1] } q1).length < 4 →
        ∃ t w, exec .mqAccept s = .next t ∧ Quiet s t ∧ t.mqOps = s.mqOps.filter (fun p => decide (p.id ≠ q.id)) ++ [q1] ∧
          teamOf t q.split.team = some w ∧ w.mqCount = u.mqCount + 1)) ∧
    (∀ core quad, s.event = some (.mqStart core quad) →
      let rot := mapGet 0 (coreOf s core).mqRot quad
      (quadFree s core quad = false → exec .mqStart s = .next s0) ∧
      (∀ q, quadFree s core quad = true → jointNext s core quad = none →
        (List.range 3).findSome? (fun i => partNext s core (3 * quad + (rot + i) % 3)) = some q → q.core = core → q.quad = quad →
        ∃ t, exec .mqStart s = .next t ∧ Quiet s t ∧ mapGet 0 (coreOf t core).mqRot quad = (rot + 1) % 3 ∧
          t.mqOps = s.mqOps.map (fun p => if p.id = q.id then { p with started := true, held := false, age := s.cycle } else p)) ∧
      (∀ q, quadFree s core quad = true → jointNext s core quad = some q →
        ((∃ k, k < 4 ∧ quadFree s core k = false) ∨ ∃ p ∈ partners s q, mqEligible s p = false) → exec .mqStart s = .next s0) ∧
      (∀ q, quadFree s core quad = true → jointNext s core quad = some q → (∀ k, k < 4 → quadFree s core k = true) →
        (∀ p ∈ partners s q, mqEligible s p = true) → ∃ t, exec .mqStart s = .next t ∧ Quiet s t ∧ ∀ p ∈ partners s q, ∃ p' ∈ t.mqOps, p'.id = p.id ∧ p'.started = true)) ∧
    (∀ op q u b e, s.event = some (.mqEnd op) → s.mqOps.find? (fun q => decide (q.id = op) && q.started) = some q →
      teamOf s q.split.team = some u → blockOf s q.split.team.disp q.split.team.block = some b → e ∈ u.inflight → e.id = q.flight →
      (∀ f ∈ u.inflight, f.id = q.flight → f = e) → e.writes = [] → e.spoilt = [] →
      let Ends := fun (f : Nat → Nat → Nat) => ∃ t w b', exec .mqEnd s = .next t ∧ t.mem = s.mem ∧ t.tags = s.tags ∧ t.poison = s.poison ∧
        (∀ k n, regAt t k n = regAt s k n) ∧ (∀ p ∈ t.mqOps, p.id ≠ op) ∧ teamOf t q.split.team = some w ∧
        (∀ f ∈ w.inflight, f.id = e.id → f.state = .done) ∧ (∀ r n, n ≠ e.flag → (∀ f ∈ u.inflight, f.state ≠ .done) → flagAt t r n = flagAt s r n) ∧
        ((∀ f ∈ u.inflight, f = e ∨ f.flag ≠ e.flag) → ∀ h, flagAt t ⟨q.split.team, h⟩ e.flag = false) ∧
        blockOf t q.split.team.disp q.split.team.block = some b' ∧
        ∀ quad tile i j, tile < 8 → i < 64 → j < 256 → tileWordAt b' quad tile i j =
          if quad = q.quad ∧ tile = mqTile q ∧ laneIn q.rows i = true then f i j % 2 ^ 32 else tileWordAt b quad tile i j
      (q.kind = .zero → Ends (fun _ _ => 0)) ∧
      (∀ fmt, q.kind = .mma fmt false → mqRaced s q = false → Ends (fun i j =>
        mac fmt (bits q.mod0 4 3 + 1) (tileWordAt b q.quad (mqTile q) i j) (aRow b q i) (bColumn u q j)
          (scaleByte u q (bits q.mod1 6 0) i) (fun k => scaleByte u q (bits q.mod1 14 8 + j / 64) j k))))

/-! ### Steps of the fabric router (R153 to R186) -/

/-- R159, R168, R171, R174 to R176, R178, R179, R181, R183: a request at its target. A packet of a stale incarnation is discarded, a request that
fails a check is answered with ERROR and writes nothing, a write that comes again is answered from the cache and not made again. -/
def Obligations.FabricTargetSteps : Prop :=
  ∀ (s : State) (p : Packet),
    let s0 := { s with event := none }
    let h := hdrOf p
    let n := h.bytes + 1
    let old := readMem s h.addr n
    let Writes := fun (o : Host.Outcome State Fault Refusal) (counts : Bool) (kind : Nat) (answer : List (BitVec 256) → Prop) (v : Nat) =>
      (∀ op, reqError s h = some op → ∃ t, o = .next t ∧ Quiet s t ∧ Replied s t h kERROR op (fun _ => True) ∧ (cachedReply t h).isSome = true) ∧
      (reqError s h = none → ∃ t, o = .next t ∧ MemStep s t h.addr n ∧ t.tags = s.tags ∧ readMem t h.addr n = v % 2 ^ (8 * n) ∧
        Replied s t h kind 0 answer ∧ (cachedReply t h).isSome = true ∧
        (counts = true → ∀ e, streamOf s h = some e → e.held = none → streamOf t h = some { e with count := e.count + 1 }))
    let Again := fun (o : Host.Outcome State Fault Refusal) =>
      (incFits s h = false → o = .next s0) ∧
      (incFits s h = true → h.retx = 1 → h.src ≠ devNum s → route s h.src ≠ none →
        (aclPasses s h = false → ∃ t, o = .next t ∧ Quiet s t ∧ Replied s t h kERROR 1 (fun _ => True)) ∧
        (aclPasses s h = true → cachedReply s h = none → ∃ t, o = .next t ∧ Quiet s t ∧ Replied s t h kERROR 5 (fun _ => True)))
    let Fresh := incFits s h = true ∧ h.retx = 0 ∧ h.src ≠ devNum s ∧ route s h.src ≠ none
    let operand := fld (flitData p.data) 0 (8 * n)
    let swapped := fld (flitData p.data) (8 * n) (8 * n)
    let after := atomicResult (AOp.ofCode h.op) (8 * n) old operand swapped
    let idle := ∀ e, streamOf s h = some e → e.held = none
    (s.event = some (.fabLoad p) →
      (incFits s h = false → exec .fabLoad s = .next s0) ∧
      (incFits s h = true → h.src ≠ devNum s → route s h.src ≠ none → ∃ t, exec .fabLoad s = .next t ∧ Quiet s t ∧
        (∀ op, reqError s h = some op → Replied s t h kERROR op (fun _ => True)) ∧
        (reqError s h = none → Replied s t h kDATA 0 (fun d => flitData d = old)))) ∧
    (s.event = some (.fabStore p) → Again (exec .fabStore s) ∧
      (Fresh → h.cnt = 0 → Writes (exec .fabStore s) false kACK (fun _ => True) (flitData p.data)) ∧
      (Fresh → h.cnt = 1 → streamRoom s h = true → idle → Writes (exec .fabStore s) true kACK (fun _ => True) (flitData p.data)) ∧
      (Fresh → h.cnt = 1 → aclPasses s h = true → streamRoom s h = false → ∃ t, exec .fabStore s = .next t ∧ Quiet s t ∧ Replied s t h kBUSY 0 (fun _ => True))) ∧
    (s.event = some (.fabAtomic p) → Again (exec .fabAtomic s) ∧
      (Fresh → h.op ≤ 10 → Writes (exec .fabAtomic s) false kDATA (fun d => flitData d = old) after) ∧
      (Fresh → 10 < h.op → ∃ v, Writes (exec .fabAtomic s) false kDATA (fun d => flitData d = old) v)) ∧
    (s.event = some (.fabReduce p) → Again (exec .fabReduce s) ∧
      (Fresh → h.op ≤ 10 → h.cnt = 0 → Writes (exec .fabReduce s) false kACK (fun _ => True) after) ∧
      (Fresh → h.op ≤ 10 → h.cnt = 1 → streamRoom s h = true → idle → Writes (exec .fabReduce s) true kACK (fun _ => True) after) ∧
      (Fresh → 10 < h.op → h.cnt = 0 → ∃ v, Writes (exec .fabReduce s) false kACK (fun _ => True) v)) ∧
    (s.event = some (.fabRelease p) → Again (exec .fabRelease s) ∧
      (Fresh → aclPasses s h = true → streamRoom s h = false → ∃ t, exec .fabRelease s = .next t ∧ Quiet s t ∧ Replied s t h kBUSY 0 (fun _ => True)) ∧
      (Fresh → aclPasses s h = true → streamRoom s h = true → settled s h < h.count → ∃ t e, exec .fabRelease s = .next t ∧ Quiet s t ∧ t.portQ = s.portQ ∧
        streamOf t h = some e ∧ e.held = some p ∧ e.count.toNat = settled s h) ∧
      (Fresh → streamRoom s h = true → h.count ≤ settled s h → h.kind = kRELEASE →
        Writes (exec .fabRelease s) false kACK (fun _ => True) (flitData p.data) ∧ ∃ t, exec .fabRelease s = .next t ∧ streamOf t h = none)) ∧
    (s.event = some (.fabClose p) → Again (exec .fabClose s) ∧
      (Fresh → aclPasses s h = true → streamRoom s h = true → settled s h < h.count → ∃ t e, exec .fabClose s = .next t ∧ Quiet s t ∧ t.portQ = s.portQ ∧
        streamOf t h = some e ∧ e.held = some p) ∧
      (Fresh → streamRoom s h = true → h.count ≤ settled s h → h.kind = kCLOSE → aclPasses s h = true →
        ∃ t, exec .fabClose s = .next t ∧ Quiet s t ∧ streamOf t h = none ∧ Replied s t h kACK 0 (fun _ => True))) ∧
    (s.event = some (.fabMcast p) → Again (exec .fabMcast s) ∧
      let peer := chainPeer p (h.pidx + 1)
      (incFits s h = true → h.retx = 0 → h.errf = 0 → reqError s h = none → h.npeer ≤ 8 →
        (h.pidx + 1 < h.npeer → peer ≠ devNum s → route s peer ≠ none → ∃ t, exec .fabMcast s = .next t ∧ MemStep s t h.addr n ∧
          readMem t h.addr n = flitData p.data.tail % 2 ^ (8 * n) ∧
          Sent s t peer (fun r d => r.kind = h.kind ∧ r.pidx = h.pidx + 1 ∧ r.npeer = h.npeer ∧ r.src = h.src ∧ r.reqid = h.reqid ∧ d = p.data)) ∧
        (h.npeer ≤ h.pidx + 1 → h.src ≠ devNum s → route s h.src ≠ none → ∃ t, exec .fabMcast s = .next t ∧ MemStep s t h.addr n ∧
          readMem t h.addr n = flitData p.data.tail % 2 ^ (8 * n) ∧ Replied s t h kACK 0 (fun _ => True))))

/-- R154, R156, R158, R159, R165, R168, R172, R176, R180, R182, R183, R185, R186: responses at the source and what they bring to the one who waits,
retransmission, the end of a peer, links, counts and packets that pass. -/
def Obligations.FabricSourceSteps : Prop :=
  ∀ (s : State) (p : Packet),
    let s0 := { s with event := none }
    let h := hdrOf p
    let v := flitData p.data
    let Nothing := fun (o : Host.Outcome State Fault Refusal) => (incFits s h = false ∨ answered s h = none) → o = .next s0
    (s.event = some (.fabData p) → Nothing (exec .fabData s) ∧
      (∀ q r l vals code regs flight pc ga acc u e, incFits s h = true → answered s h = some q →
        q.waiter = .team r [l] vals code regs flight pc ga acc → (hdrOf q.packet).kind = kLOAD → q.write = false → code < 128 →
        teamOf s r.team = some u → u.ended = false → e ∈ u.inflight → e.id = flight → e.state = .remote →
        (∀ x ∈ s.outReqs.erase q, reqTeam x ≠ some r.team ∧ x.queued = false) →
        let n := (hdrOf q.packet).bytes + 1
        ∃ t w e', exec .fabData s = .next t ∧ Quiet s t ∧ t.outReqs = s.outReqs.erase q ∧ teamOf t r.team = some w ∧ e' ∈ w.inflight ∧
          e'.id = flight ∧ e'.state = .ready ∧
          ∀ y ∈ e.writes, y.lane = l → code ≤ y.code → y.code < code + regs →
            { y with val := BitVec.ofNat 32 (extend n (decide (vals.headD 0 = 1)) (v % 2 ^ (8 * n)) / 2 ^ (32 * (y.code - code))) } ∈ e'.writes)) ∧
    (s.event = some (.fabAck p) → Nothing (exec .fabAck s) ∧
      (∀ q op i o, incFits s h = true → answered s h = some q → q.waiter = .engine op i → xeOf s op = some o →
        ∃ t, exec .fabAck s = .next t ∧ Quiet s t ∧ t.outReqs = s.outReqs.erase q ∧
          xeOf t op = some { o with placed := o.placed + (hdrOf q.packet).bytes + 1 }) ∧
      (∀ q r ls vals code regs flight pc ga acc u, incFits s h = true → answered s h = some q →
        q.waiter = .team r ls vals code regs flight pc ga acc → q.write = true → teamOf s r.team = some u → u.ended = false →
        (∀ x ∈ s.outReqs.erase q, reqTeam x ≠ some r.team ∧ x.queued = false) →
        ∃ t w, exec .fabAck s = .next t ∧ Quiet s t ∧ t.outReqs = s.outReqs.erase q ∧ teamOf t r.team = some w ∧ w.remote = u.remote - 1)) ∧
    (s.event = some (.fabError p) → Nothing (exec .fabError s) ∧
      (∀ q r ls vals code regs flight pc ga acc u, incFits s h = true → answered s h = some q →
        q.waiter = .team r ls vals code regs flight pc ga acc → teamOf s r.team = some u → u.ended = false →
        ∃ t, exec .fabError s = .next t ∧ FaultedAt s t r (errCause h.op) pc) ∧
      (∀ q op i o, incFits s h = true → answered s h = some q → q.waiter = .engine op i → xeOf s op = some o → o.fail = none →
        ∃ t f, exec .fabError s = .next t ∧ Quiet s t ∧ xeOf t op = some { o with fail := some f } ∧ f.status = errStatus h.op ∧ f.elem = i)) ∧
    (s.event = some (.fabBusy p) → Nothing (exec .fabBusy s) ∧
      (∀ q, incFits s h = true → answered s h = some q → exec .fabBusy s = .next { s0 with
        outReqs := s.outReqs.map (fun o => if o = q then { o with busyAt := some s.cycle } else o) })) ∧
    (∀ dev id q, sentReq s dev id = some q →
      let to_ := (hdrOf q.packet).dst
      let Resent := fun (o : Host.Outcome State Fault Refusal) (retx tries : Nat) => ∃ t x, o = .next t ∧ Quiet s t ∧ x ∈ t.outReqs ∧ x.dev = q.dev ∧
        x.reqid = q.reqid ∧ x.waiter = q.waiter ∧ x.busyAt = none ∧ x.sent = s.cycle ∧ x.tries = tries ∧
        Sent s t to_ (fun r d => r.retx = retx ∧ r.reqid = (hdrOf q.packet).reqid ∧ r.kind = (hdrOf q.packet).kind ∧ d = q.packet.data)
      let Ends := fun (o : Host.Outcome State Fault Refusal) => ∀ r ls vals code regs flight pc ga acc u,
        q.waiter = .team r ls vals code regs flight pc ga acc → teamOf s r.team = some u → u.ended = false → ∃ t, o = .next t ∧ FaultedAt s t r 0x18 pc
      (s.event = some (.busyResend dev id) →
        (q.busyAt = none → exec .busyResend s = .next s0) ∧
        (∀ a, q.busyAt = some a → s.cycle.toNat < a.toNat + 512 → exec .busyResend s = .next s0) ∧
        (∀ a, q.busyAt = some a → a.toNat + 512 ≤ s.cycle.toNat → to_ ≠ devNum s → route s to_ ≠ none → Resent (exec .busyResend s) 0 q.tries) ∧
        (∀ a, q.busyAt = some a → a.toNat + 512 ≤ s.cycle.toNat → to_ ≠ devNum s → route s to_ = none → Ends (exec .busyResend s))) ∧
      (s.event = some (.responseTimeout dev id) →
        (timedOut s q = false → exec .responseTimeout s = .next s0) ∧
        (timedOut s q = true → q.tries = 16 → Ends (exec .responseTimeout s)) ∧
        (timedOut s q = true → q.tries ≠ 16 → q.tries < bits s.fabrto 27 24 → to_ ≠ devNum s → route s to_ ≠ none →
          Resent (exec .responseTimeout s) 1 (q.tries + 1)) ∧
        (timedOut s q = true → q.tries ≠ 16 → bits s.fabrto 27 24 ≤ q.tries → ∃ t, exec .responseTimeout s = .next t ∧ dev ∈ t.peerDown ∧
          ∀ e ∈ t.streamTab, e.src ≠ dev))) ∧
    (∀ port, s.event = some (.linkmgmt port p) → ∃ t, exec .linkmgmt s = .next t ∧
      (∀ k, mapGet 0 t.peerInc k = if k = h.src then BitVec.ofNat 16 h.inc else mapGet 0 s.peerInc k) ∧ (∀ d ∈ t.peerDown, d.toNat ≠ h.src) ∧
      ((mapGet 0 s.peerInc h.src).toNat = h.inc → Quiet s t ∧ t.outReqs = s.outReqs ∧ t.streamTab = s.streamTab ∧ t.replies = s.replies) ∧
      ((mapGet 0 s.peerInc h.src).toNat ≠ h.inc → (∀ e ∈ t.streamTab, e.src.toNat ≠ h.src) ∧ ∀ r ∈ t.replies, r.1.toNat ≠ h.src)) ∧
    (∀ port t1 t2 t3 t4 ofs, s.event = some (.timex port t1 t2 t3 t4 ofs) →
      (alignsOver s port = false → exec .timex s = .next s0) ∧
      (alignsOver s port = true → ∃ d : Int, d = ((t2.toNat : Int) - t1.toNat) - ((t4.toNat : Int) - t3.toNat) ∧
        exec .timex s = .next { s0 with fabofs := BitVec.ofInt 64 (d.tdiv 2 + ofs.toInt), fabtstat := s.fabtstat ||| 1 })) ∧
    (∀ r : BitVec 64, s.event = some (.timexRepeat r) →
      let d := r.toInt - s.fabofs.toInt
      (bits s.fabtstat 0 0 = 1 → (d < -2 ∨ 2 < d) → exec .timexRepeat s = .next { s0 with fabtstat := s.fabtstat ||| 2, hostOut := told s 4 4 }) ∧
      ((bits s.fabtstat 0 0 ≠ 1 ∨ (-2 ≤ d ∧ d ≤ 2)) → exec .timexRepeat s = .next s0)) ∧
    (∀ n q, s.event = some (.escapeTimeout n) → s.portQ[n]? = some q →
      (escapes s n = false → exec .escapeTimeout s = .next s0) ∧
      (escapes s n = true → ∃ t x, exec .escapeTimeout s = .next t ∧ Quiet s t ∧ t.portQ.map (·.pkt) = (s.portQ.eraseIdx n).map (·.pkt) ++ [x.pkt] ∧
        x ∈ t.portQ ∧ x.port = minimalPort (devNum s) (hdrOf q.pkt).dst ∧ (hdrOf x.pkt).vc = 3 ∧ (hdrOf x.pkt).esc = 1 ∧
        (hdrOf x.pkt).dst = (hdrOf q.pkt).dst ∧ x.pkt.data = q.pkt.data)) ∧
    (∀ port seq, s.event = some (.flitResend port seq) → ∃ t, exec .flitResend s = .next t ∧ Quiet s t ∧
      mapGet 0 t.linkSeq port = mapGet 0 s.linkSeq port + 1 ∧ t.agenda = s.agenda ++ [.correctedError (portUnit port) seq] ∧
      (∃ l, t.resent = s.resent ++ l ∧ l.map (fun f => f.2.2) = (linkFlits s port).drop seq ∧ ∀ f ∈ l, f.1 = port)) ∧
    (∀ port, s.event = some (.linkUp port) →
      (portUp s port = false → exec .linkUp s = .next s0) ∧
      (portUp s port = true → ∃ t x known rest, exec .linkUp s = .next t ∧ Quiet s t ∧ port ∈ t.linksUp ∧
        t.outbox = s.outbox ++ (port, x) :: (known ++ rest) ∧
        (hdrOf x).kind = kLINKMGMT ∧ (hdrOf x).src = devNum s ∧ (hdrOf x).inc = s.fabinc.toNat ∧
        (∀ y ∈ known, y.1 = port ∧ (hdrOf y.2).kind = kLINKMGMT) ∧
        known.map (fun y => (hdrOf y.2).src) = ((otherPorts s port).filter s.linksUp.contains).map (portDev (devNum s)) ∧
        (∀ y ∈ known, (hdrOf y.2).inc = (mapGet 0 s.peerInc (hdrOf y.2).src).toNat) ∧
        (if alignsOver s port then t.timexSent = some (port, s.cycle) ∧ ∃ y, rest = [(port, y)] ∧ (hdrOf y).kind = kTIMEX else rest = []))) ∧
    (∀ port, s.event = some (.reservedKindDiscard port p) → ∃ t, exec .reservedKindDiscard s = .next t ∧ t = { s0 with portErrs := t.portErrs } ∧
      ∀ k, mapGet 0 t.portErrs k = if k = port then mapGet 0 s.portErrs port + 1 else mapGet 0 s.portErrs k)

/-! ### Rings, the end of teams, and the host's operations on them -/

/-- R403, R404, R443, R444, R446, R450: an answer to a page request, the records of both rings field by field, and the answer to a service call. -/
def Obligations.RingSteps : Prop :=
  ∀ (s : State) (c : Nat),
    let s0 := { s with event := none }
    let x := ctxOf s c
    (∀ v, s.event = some (.pgresp c v) →
      let hit := fun p : PageReq => decide (p.seq = some (v.setWidth 32)) && p.answered.isNone
      (x.pages.find? hit = none → exec .pgresp s = .next s0) ∧
      (∀ p, x.pages.find? hit = some p → s.sideLog = [] → (∀ w ∈ s.stepPend, w.req ≠ p.id) →
        let more := fun l : List Nat => if bits v 32 32 = 0 then l else p.page :: l
        ∃ t, exec .pgresp s = .next t ∧ Quiet s t ∧ (∀ q ∈ (ctxOf t c).pages, q.id ≠ p.id) ∧
          (∀ r sp u l, teamOf s r.team = some u → u.ctx = c → splitIn u r.high = some sp → sp.hold = .page l → p.id ∈ l →
            ∃ sp', splitOf t r = some sp' ∧ sp'.pageFail = more sp.pageFail ∧ ((∀ i ∈ l, i = p.id) → sp'.hold = .none) ∧
              ∀ i ∈ l, i ≠ p.id → sp'.hold ≠ .none) ∧
          (∀ op o, xeOf s op = some o → o.ctx = c → o.parked = some p.id →
            xeOf t op = some { o with parked := none, pageFail := more o.pageFail }))) ∧
    (s.event = some (.faultRecordWrite c) →
      let size := bits x.fltring 51 44 * 4096
      let off := x.flthead.toNat
      let pa := (bits x.fltring 43 0 * 4096) % 2 ^ 48 + off
      (x.faultQ = [] → exec .faultRecordWrite s = .next s0) ∧
      (∀ r rest, x.faultQ = r :: rest →
        (bits x.fltring 63 63 = 0 → r.req = none → ∃ t, exec .faultRecordWrite s = .next t ∧ Quiet s t ∧ ctxOf t c = { x with faultQ := rest }) ∧
        (bits x.fltring 63 63 = 1 → (off + 64) % size = x.flttail.toNat → exec .faultRecordWrite s = .next s0) ∧
        (bits x.fltring 63 63 = 1 → (off + 64) % size ≠ x.flttail.toNat → c < 65536 → poisonAt s pa 64 = false →
          ∃ t, exec .faultRecordWrite s = .next t ∧ MemStep s t pa 64 ∧
            readMem t pa 4 = x.fltseq.toNat ∧ readMem t (pa + 4) 1 = r.kind.toNat ∧ readMem t (pa + 5) 1 = r.cause.toNat ∧
            readMem t (pa + 6) 2 = r.flags.toNat ∧ readMem t (pa + 8) 2 = c ∧ readMem t (pa + 10) 1 = r.team.toNat ∧
            readMem t (pa + 11) 1 = r.acc.toNat ∧ readMem t (pa + 12) 2 = r.lane.toNat ∧ readMem t (pa + 14) 1 = r.core.toNat ∧
            readMem t (pa + 15) 1 = r.part.toNat ∧ readMem t (pa + 16) 8 = r.disp.toNat ∧ readMem t (pa + 24) 4 = r.block.toNat ∧
            readMem t (pa + 28) 4 = r.info.toNat ∧ readMem t (pa + 32) 8 = r.pc.toNat ∧ readMem t (pa + 40) 8 = r.addr.toNat ∧
            readMem t (pa + 48) 8 = r.info2.toNat ∧ readMem t (pa + 56) 8 = r.cyc.toNat ∧
            (ctxOf t c).faultQ = rest ∧ (ctxOf t c).fltseq = x.fltseq + 1 ∧ (ctxOf t c).flthead = BitVec.ofNat 32 ((off + 64) % size) ∧
            (bits x.ctxirq 63 63 = 1 → egress s 0 = true → t.hostOut = told s (ctxFn s c) (bits x.ctxirq 10 0))))) ∧
    (s.event = some (.svcRecordWrite c) →
      (x.svcQ = [] → exec .svcRecordWrite s = .next s0) ∧
      (∀ r rest u sp, x.svcQ = r :: rest → teamOf s r.split.team = some u → splitIn u r.split.high = some sp →
        let ls := lanesOf (lanes u) r.lanes
        let z := 64 + 64 * ls.length
        let size := bits x.svcring 51 44 * 4096
        let head := x.svchead.toNat
        let wraps := size - head < z
        let base := (bits x.svcring 43 0 * 4096) % 2 ^ 48
        let pa := if wraps then base else base + head
        (svcFree x ≤ (if wraps then size - head else 0) + z → exec .svcRecordWrite s = .next s0) ∧
        ((if wraps then size - head else 0) + z < svcFree x → c < 65536 → ∃ t, exec .svcRecordWrite s = .next t ∧
          (∀ a, (a < pa ∨ pa + z ≤ a) → (wraps → a < base + head ∨ base + head + 64 ≤ a) → readByte t a = readByte s a) ∧ SameRegs s t ∧
          readMem t pa 4 = x.svcseq.toNat ∧ readMem t (pa + 4) 4 = z ∧ readMem t (pa + 8) 1 = 0 ∧ readMem t (pa + 9) 1 = r.code.toNat ∧
          readMem t (pa + 10) 2 = ls.length ∧ readMem t (pa + 16) 8 = r.split.team.disp.toNat ∧
          readMem t (pa + 24) 4 = r.split.team.block % 2 ^ 32 ∧ readMem t (pa + 28) 1 = r.split.team.team % 256 ∧
          readMem t (pa + 32) 8 = r.pc.toNat ∧ readMem t (pa + 40) 2 = c ∧
          (∀ i, i < ls.length → readMem t (pa + 64 + 64 * i) 2 = ls.getD i 0 ∧
            ∀ k, k < 8 → pendingReg u (r.reg + k) (ls.getD i 0) = false → readMem t (pa + 96 + 64 * i + 4 * k) 4 = (vReg u (r.reg + k) (ls.getD i 0)).toNat) ∧
          (wraps → head < size → z ≤ head → readMem t (base + head) 4 = 0 ∧ readMem t (base + head + 4) 4 = size - head ∧
            readMem t (base + head + 8) 1 = 1) ∧
          (ctxOf t c).svcQ = rest ∧ (ctxOf t c).svcseq = x.svcseq + 1 ∧
          ∃ sp', splitOf t r.split = some sp' ∧ sp'.hold = .service x.svcseq r.reg r.lanes))) ∧
    (∀ seq, s.event = some (.svcdone c seq) →
      let names := fun o : SvcOpen => decide (o.seq = seq) && svcWaits s o
      (x.svcOpen.find? names = none → exec .svcdone s = .next s0) ∧
      (∀ o u, x.svcOpen.find? names = some o → teamOf s o.split.team = some u →
        ∃ t, exec .svcdone s = .next t ∧ t.mem = s.mem ∧ t.tags = s.tags ∧ (splitOf t o.split).map (·.hold) = some .none ∧
          (∀ l k, l ∈ lanesOf (lanes u) o.lanes → k < 8 → (regAt t o.split.team (.v (o.reg + k) l)).toNat =
            readMem s (o.pa + 64 * (lanesOf (lanes u) o.lanes).idxOf l + 32 + 4 * k) 4) ∧
          (∀ n l, (n < o.reg ∨ o.reg + 8 ≤ n ∨ laneIn o.lanes l = false) → regAt t o.split.team (.v n l) = regAt s o.split.team (.v n l)) ∧
          (∀ n, regAt t o.split.team (.s n) = regAt s o.split.team (.s n)) ∧
          ∀ k, k ≠ o.split.team → teamOf t k = teamOf s k))

/-- R177, R390, R432, R450, R461: a team ends once its splits are gone and its operations are over, the block with its last team, the dispatch with
its last block; the operations of the host on single teams. -/
def Obligations.TeamSteps : Prop :=
  ∀ (s : State) (k : TeamKey) (u : Team), teamOf s k = some u →
    let s0 := { s with event := none }
    let Same := fun (t : State) => t.mem = s.mem ∧ t.tags = s.tags ∧ ∀ n, regAt t k n = regAt s k n
    let One := fun (o : Host.Outcome State Fault Refusal) (v : Team) =>
      ∃ t, o = .next t ∧ teamOf t k = some v ∧ (∀ j, j ≠ k → teamOf t j = teamOf s j) ∧ outside t = outside s0
    let plain := s.sideLog = [] ∧ (∀ q ∈ s.mqOps, q.split.team ≠ k) ∧ u.ended = false ∧ u.low = none ∧ u.high = none ∧ u.parked = false
    let Recorded := fun (e : Event) (o : Host.Outcome State Fault Refusal) =>
      teamSaved s k = true → One o (if u.ended then u else { u with ctl := u.ctl ++ [e] })
    let here := teamSaved s k = false
    (s.event = some (.teamEnd k) →
      (u.low ≠ none ∨ u.high ≠ none ∨ u.ended = true ∨ u.parked = true → exec .teamEnd s = .next s0) ∧
      (plain → teamSaved s k = false → u.inflight ≠ [] → ∃ t, exec .teamEnd s = .next t ∧ Quiet s t ∧ teamOf t k = some u ∧
        ∀ e ∈ u.inflight, e.state = .ready → .operationComplete k e.id ∈ t.agenda) ∧
      (plain → u.inflight = [] → u.streams = [] → (coreOf s u.core).bbhint = [] →
        (∃ v ∈ s.teams, v.key.disp = k.disp ∧ v.key.block = k.block ∧ v.key ≠ k ∧ v.ended = false) →
        ∃ t v, exec .teamEnd s = .next t ∧ Same t ∧ teamOf t k = some v ∧ v.ended = true) ∧
      (∀ b, plain → u.inflight = [] → u.streams = [] → (coreOf s u.core).bbhint = [] → (coreOf s b.core).lanecyc = [] →
        (∀ v ∈ s.teams, v.key ≠ k → v.key.disp = k.disp → v.key.block = k.block → v.ended = true) →
        (∀ v ∈ s.teams, v.key.disp = k.disp → v.key.block = k.block → owes s v.key = false) →
        blockOf s k.disp k.block = some b →
        ∃ t, exec .teamEnd s = .next t ∧ (∀ v ∈ t.teams, ¬ (v.key.disp = k.disp ∧ v.key.block = k.block)) ∧
          .dispatchComplete k.disp ∈ t.agenda ∧ ∀ c, blockOf t k.disp k.block = some c → c.exited = true ∧ c.spad = [] ∧ c.tiles = [])) ∧
    (∀ id d, s.event = some (.dispatchComplete id) → dispOf s id = some d →
      ((dispOver d = false ∨ dispOwes s id = true) → exec .dispatchComplete s = .next s0) ∧
      (dispOver d = true → dispOwes s id = false → (∀ n, n < 16 → (slotOf (ctxOf s d.cmd.ctx) n).bound = false) → (∀ e ∈ s.deliveries, e.disp ≠ id) →
        coversPoison s (cmdPa s d.cmd + 0x38) 4 = true →
        ∃ t, exec .dispatchComplete s = .next t ∧ MemStep s t (cmdPa s d.cmd + 0x38) 4 ∧ dispOf t id = none ∧ cmdOf t d.cmd = none ∧
          readMem t (cmdPa s d.cmd + 0x38) 4 = (match d.stop with
            | some v => v.toNat
            | none => if d.faulted then 2 else 1))) ∧
    (∀ n, s.event = some (.pcieCompletion n) → exec .pcieCompletion s = .next { s0 with
      flushes := s.flushes.map (fun f => if f.1 = n then (flushDone, f.2) else f) }) ∧
    (s.event = some (.ctlHalt k) → Recorded (.ctlHalt k) (exec .ctlHalt s) ∧
      (here → orderedDisp s k.disp = false → One (exec .ctlHalt s) (if u.ended ∨ u.halted then u else { u with halted := true })) ∧
      (here → orderedDisp s k.disp = true → ∃ t, exec .ctlHalt s = .next t ∧ outside t = outside s0 ∧ ∀ j v, teamOf s j = some v →
        j.disp = k.disp → j.block = k.block → v.ended = false → teamOf t j = some { v with halted := true })) ∧
    (s.event = some (.ctlRun k) → Recorded (.ctlRun k) (exec .ctlRun s) ∧ (here → orderedDisp s k.disp = false → One (exec .ctlRun s)
      (if u.halted then { u with halted := false, low := u.low.map (fun sp => { sp with stepping := false }),
                                 high := u.high.map (fun sp => { sp with stepping := false }) } else u))) ∧
    (s.event = some (.ctlStep { team := k, high := false }) → Recorded (.ctlStep { team := k, high := false }) (exec .ctlStep s) ∧
      (here → orderedDisp s k.disp = false → ∀ sp, u.low = some sp → (∀ l, sp.hold ≠ .wait l) →
        One (exec .ctlStep s) (if u.halted = true ∧ u.ended = false then { u with low := some { sp with stepping := true } } else u))) ∧
    (let Parked := fun (o : Host.Outcome State Fault Refusal) (held moved : Split → Option Resume → Split → Prop) =>
      (here → (u.parked = false ∨ u.ended = true) → o = .next s0) ∧
      (here → u.parked = true → u.ended = false → ∃ t v, o = .next t ∧ Same t ∧ teamOf t k = some v ∧ v.parked = false ∧
        ∀ high sp, splitIn u high = some sp → ∃ sp', splitIn v high = some sp' ∧ sp'.regs = sp.regs ∧ sp'.resume = none ∧
          (∀ r, sp.resume = some r → if r.atInstr then held sp (some r) sp' else moved sp (some r) sp') ∧ (sp.resume = none → sp' = sp))
    let Stands := fun (sp : Split) (_ : Option Resume) (sp' : Split) => sp'.pc = sp.pc ∧ sp'.pos = sp.pos ∧ sp'.clause = sp.clause ∧ sp'.retry = sp.retry ∧
      sp'.hold = sp.hold
    (s.event = some (.ctlRetry k) → Recorded (.ctlRetry k) (exec .ctlRetry s) ∧ Parked (exec .ctlRetry s)
      (fun sp r sp' => sp'.pc = sp.pc ∧ sp'.pos = sp.pos ∧ sp'.clause = sp.clause ∧
        sp'.retry = if sp.clause.isSome then r.map (·.mask) else none) Stands) ∧
    (s.event = some (.ctlSkip k) → Recorded (.ctlSkip k) (exec .ctlSkip s) ∧ Parked (exec .ctlSkip s)
      (fun sp r sp' => sp'.retry = none ∧ (sp.clause = none → sp'.pc = (r.bind (·.after)).getD sp.pc) ∧ ∀ c, sp.clause = some c →
        if sp.pos + 1 = c.words.length then sp'.pc = nextClause c ∧ sp'.clause = none
        else sp'.pc = sp.pc ∧ sp'.pos = sp.pos + 1 ∧ sp'.clause = some c) Stands)) ∧
    (s.event = some (.ctlKill k) →
      (u.ended = true → exec .ctlKill s = .next s0) ∧
      (u.ended = false → ∃ t v, exec .ctlKill s = .next t ∧ t.mem = s.mem ∧ t.tags = s.tags ∧ teamOf t k = some v ∧
        v.absent = BitVec.allOnes 1024 ∧ v.low = none ∧ v.high = none ∧ v.inflight = u.inflight ∧ .teamEnd k ∈ t.agenda ∧
        (∀ e ∈ t.sideLog, e.split.team ≠ k) ∧ ∀ j, j ≠ k → teamOf t j = teamOf s j))

/-! ### The launch unit (R428 to R438, R453 to R460) -/

/-- R36, R270, R428, R430, R431, R432: a command is decoded and HEAD advances, or it is refused; each operation has its effect, writes its STATUS and
leaves the queue, or waits for what it must wait for. -/
def Obligations.CommandSteps : Prop :=
  ∀ (s : State) (c : CmdRef) (d : Cmd),
    let s0 := { s with event := none }
    let x := ctxOf s c.ctx
    let cov := coversPoison s (cmdPa s c + 0x38) 4 = true
    let Ends := fun (o : Host.Outcome State Fault Refusal) (v : Nat) => ∃ t, o = .next t ∧ CommandDone s t c v
    let event := cmdField d 32 32
    (s.event = some .commandDecode →
      (decodeList s0 = [] → exec .commandDecode s = .next s0) ∧
      (∀ e n rest, decodeList s0 = (e, n) :: rest →
        let q := queueOf (ctxOf s e) n
        let r : CmdRef := ⟨e, n, q.head⟩
        let d : Cmd := { k := q.head, body := BitVec.ofNat 512 (readMem s (headPa q) 64), at_ := s.cycle, pred := q.launch }
        let last := if cmdOp d = 1 then some q.head else q.launch
        (∀ ev, [Event.cmdNop r, .cmdLaunch r, .cmdSignal r, .cmdWaitev r, .cmdInval r, .cmdScrub r][cmdOp d]? = some ev →
          (cmdOp d = 1 ∨ cmdReserved d = false) → ∃ t, exec .commandDecode s = .next t ∧
            QueueWritten s t e n { q with head := q.head + 1, order := q.order ++ [d], launch := last } ∧ ev ∈ t.agenda) ∧
        (cmdOp d ≠ 1 → cmdReserved d = true → coversPoison s (cmdPa s r + 0x38) 4 = true →
          ∃ t, exec .commandDecode s = .next t ∧ CommandDone s t r 0x1C ∧ (queueOf (ctxOf t e) n).head = q.head + 1))) ∧
    (cmdOf s c = none →
      (s.event = some (.cmdNop c) → exec .cmdNop s = .next s0) ∧ (s.event = some (.cmdLaunch c) → exec .cmdLaunch s = .next s0) ∧
      (s.event = some (.cmdSignal c) → exec .cmdSignal s = .next s0) ∧ (s.event = some (.cmdWaitev c) → exec .cmdWaitev s = .next s0) ∧
      (s.event = some (.cmdInval c) → exec .cmdInval s = .next s0) ∧ (s.event = some (.cmdScrub c) → exec .cmdScrub s = .next s0) ∧
      (s.event = some (.invalComplete c) → exec .invalComplete s = .next s0)) ∧
    (cmdOf s c = some d → cov →
      (s.event = some (.cmdNop c) → Ends (exec .cmdNop s) 1) ∧
      (s.event = some (.cmdSignal c) →
        (1023 < event → Ends (exec .cmdSignal s) 0x1C) ∧
        (event ≤ 1023 → cmdFirst s c = false → exec .cmdSignal s = .next s0) ∧
        (event ≤ 1023 → cmdFirst s c = true → ∃ t, exec .cmdSignal s = .next t ∧ CommandDone s t c 1 ∧
          ∀ j, mapGet 0 (ctxOf t c.ctx).events j = if j = event then mapGet 0 x.events event + 1 else mapGet 0 x.events j)) ∧
      (s.event = some (.cmdWaitev c) →
        (1023 < event → Ends (exec .cmdWaitev s) 0x1C) ∧
        (event ≤ 1023 → (mapGet 0 x.events event).toNat < cmdField d 64 64 → exec .cmdWaitev s = .next s0) ∧
        (event ≤ 1023 → cmdField d 64 64 ≤ (mapGet 0 x.events event).toNat → Ends (exec .cmdWaitev s) 1)) ∧
      (s.event = some (.cmdScrub c) →
        let pa := cmdField d 64 64
        let lo := pa % 2 ^ 48
        let n := cmdField d 128 64
        let good := pa / 2 ^ 48 = devNum s ∧ pa % 4096 = 0 ∧ n % 4096 = 0 ∧ n ≠ 0 ∧ inWindows (partOfCtx s c.ctx) lo = true ∧
          inWindows (partOfCtx s c.ctx) (lo + n - 1) = true
        let st := cmdPa s c + 0x38
        (cmdFirst s c = false → exec .cmdScrub s = .next s0) ∧
        (cmdFirst s c = true → ¬ good → Ends (exec .cmdScrub s) 0x1C) ∧
        (cmdFirst s c = true → good → (st + 4 ≤ lo ∨ lo + n ≤ st) → ∃ t, exec .cmdScrub s = .next t ∧ SameRegs s t ∧ cmdOf t c = none ∧
          readMem t st 4 = 1 ∧ (∀ a, lo ≤ a → a < lo + n → readByte t a = 0 ∧ tagOf t a = 0) ∧
          ∀ a, (a < lo ∨ lo + n ≤ a) → tagOf t a = tagOf s a ∧ ((a < st ∨ st + 4 ≤ a) → readByte t a = readByte s a))) ∧
      (s.event = some (.cmdInval c) → ∃ t, exec .cmdInval s = .next t ∧ Quiet s t ∧ .invalComplete c ∈ t.agenda ∧
        (let p := partOfCtx s c.ctx
         let within := fun q : Nat => p.1 ≤ q ∧ q < p.1 + p.2
         (∀ name e, Cached t name e ↔ (Cached s name e ∧ ¬ (within (tlbQuarter name) ∧ e.asid = x.ctxtr.extractLsb' 48 13 ∧ (cmdField d 128 64 = 0 ∨
            (e.base < cmdField d 64 64 + cmdField d 128 64 ∧ cmdField d 64 64 < e.base + 2 ^ e.bits))))) ∧
         (cmdField d 192 1 = 1 → ∀ n, within (n / 64) → (coreOf t n).l1.ways = []))) ∧
      (s.event = some (.invalComplete c) →
        let asid := x.ctxtr.extractLsb' 48 13
        ((∃ q ∈ s.outReqs, (hdrOf q.packet).asid = asid.toNat ∧ (q.sent.toNat ≤ d.at_.toNat ∨ q.tries ≠ 0)) →
          exec .invalComplete s = .next s0) ∧
        ((∀ q ∈ s.outReqs, (hdrOf q.packet).asid ≠ asid.toNat) → ∃ t, exec .invalComplete s = .next t ∧ CommandDone s t c 1 ∧
          (∀ a, a ≠ asid → (a ∈ t.stale ↔ a ∈ s.stale)) ∧ (cmdField d 128 64 = 0 → asid ∉ t.stale) ∧
          (cmdField d 128 64 ≠ 0 → t.stale = s.stale))) ∧
      (s.event = some (.cmdLaunch c) →
        let q := queueOf x c.queue
        (((dispOf s (dispId c)).isSome = true ∨ q.page.isSome = true) → exec .cmdLaunch s = .next s0) ∧
        (dispOf s (dispId c) = none → q.page = none → q.taken = [] →
          (unlaunchable s c.ctx = true → Ends (exec .cmdLaunch s) 0x1B) ∧
          (unlaunchable s c.ctx = false →
            let ka := BitVec.ofNat 64 (cmdField d 64 64)
            let c1 := checkAccess s0 (deviceWho c.ctx)
              { ga := ka, n := 64, align := 64, write := false, atom := false, tags := true }
            let v := fun (pa : Nat) => readMem s pa 64
            let stops := inAperture (bits x.spbase 55 0) (bits x.stkbase 55 0) ka = true ∨ failedPage q ka 64 = true
            (stops → Ends (exec .cmdLaunch s) 0x10) ∧
            (¬ stops →
              (∀ k, c1.2 = .fault k → Ends (exec .cmdLaunch s) 0x10) ∧
              (∀ pa cp tc, c1.2 = .ok [.mem pa 64 cp] tc → poisonAt s pa 64 = true → Ends (exec .cmdLaunch s) 0x10) ∧
              (∀ pa cp tc, c1.2 = .ok [.mem pa 64 cp] tc → poisonAt s pa 64 = false →
                (headerXn c1.1 c.ctx (bits ka 55 0) = true → Ends (exec .cmdLaunch s) 0x10) ∧
                (headerXn c1.1 c.ctx (bits ka 55 0) = false →
                  (∀ code, headerFault (v pa) = some code → Ends (exec .cmdLaunch s) code) ∧
                  (headerFault (v pa) = none → (kernelOf (v pa)).nPatch = 0 → (kernelOf (v pa)).pBytes = 0 →
                    (∀ code, launchFault s c d (kernelOf (v pa)) = some code → Ends (exec .cmdLaunch s) code) ∧
                    (launchFault s c d (kernelOf (v pa)) = none → readersFull s c d = true → ∃ t, exec .cmdLaunch s = .next t ∧ Quiet s t ∧
                      dispOf t (dispId c) = none ∧ cmdOf t c = some d) ∧
                    (launchFault s c d (kernelOf (v pa)) = none → readersFull s c d = false → ∃ t e, exec .cmdLaunch s = .next t ∧ Quiet s t ∧
                      dispOf t (dispId c) = some e ∧ e.cmd = c ∧ e.ka = ka.setWidth 56 ∧ e.param = BitVec.ofNat 64 (cmdField d 128 64) ∧
                      e.nbx = cmdField d 192 32 ∧ e.nby = cmdField d 224 32 ∧ e.nbz = cmdField d 256 32 ∧ e.next = 0 ∧ e.live = 0 ∧
                      e.rows = (kernelOf (v pa)).rows ∧ e.teams = (kernelOf (v pa)).teams ∧ e.cls = (kernelOf (v pa)).cls ∧
                      e.entry = (kernelOf (v pa)).entry ∧ e.overlays = [] ∧ e.prio = bits q.cq 50 48 ∧
                      (∀ h w i, (h, w) ∈ handleList d → (handleUse x h).writer = some i → (dispOf s i).isSome = true → i ∈ e.deps) ∧
                      ∀ h w, (h, w) ∈ handleList d → (handleUse (ctxOf t c.ctx) h).writer = some (dispId c) ∨
                        dispId c ∈ (handleUse (ctxOf t c.ctx) h).readers)))))))))

/-- R25, R80, R108, R138, R413, R424, R433 to R437, R454, R458, R460: a block is placed on the first core that takes it or restored, all places of a
CONC dispatch are reserved at once, a victim's highest block is marked, and a block is saved once it is quiet. -/
def Obligations.PlacementSteps : Prop :=
  ∀ (s : State),
    let s0 := { s with event := none }
    let noSlots := fun (c : Nat) => ∀ n, n < 16 → (slotOf (ctxOf s c) n).bound = false
    (s.event = some .blockPlace → reservedNow s0 = none →
      (placeList s0 = [] → exec .blockPlace s = .next s0) ∧
      (∀ d p i o, (∀ e ∈ placeList s0, refusal s0 e = none) → servedFirst s0 (placeList s0) = some (d, p) → p.claim = false →
        nextBlock s0 d = some (i, o) → dispOf s d.id = some d →
        (o = none → p.seats ≠ [] → (p.seats.map (·.team)).Nodup → blockOf s d.id i = none → noSlots d.cmd.ctx →
          (∀ g ∈ p.seats, teamOf s ⟨d.id, i, g.team⟩ = none) → ∃ t b, exec .blockPlace s = .next t ∧
            blockOf t d.id i = some b ∧ b.core = p.core ∧ b.spBase = p.base ∧ b.ctx = d.cmd.ctx ∧ b.spad = [] ∧ b.tiles = [] ∧
            (∀ v ∈ s.blocks, v.ctx = b.ctx → v.area ≠ b.area) ∧ (dispOf t d.id).map (·.next) = some (d.next + 1) ∧
            (holders s p.core false = [] → (coreOf t p.core).csramcfg = BitVec.ofNat 32 p.steps) ∧
            (let pa := areaPa (ctxOf s b.ctx) b.area 0 % 2 ^ 48
             ∀ a, readByte t a = if pa ≤ a ∧ a < pa + 4096 then 0 else readByte s a) ∧
            (∀ g ∈ p.seats, ∃ u sp, teamOf t ⟨d.id, i, g.team⟩ = some u ∧ u.core = p.core ∧ u.part = g.part ∧ u.slot = g.slot ∧
              u.rows = d.rows ∧ u.nv = d.nv ∧ u.vregs = [] ∧ u.sregs = [] ∧ u.preds = [] ∧ u.absent = 0 ∧ u.high = none ∧ u.low = some sp ∧
              sp.pc = d.ka + BitVec.ofNat 56 d.entry ∧ sp.mode = modeReset ∧ sp.stack = [] ∧ sp.handler = none ∧
              ∀ l, l < min 1024 (32 * d.rows) → laneIn sp.mask l = true) ∧
            ∀ k, ¬ (k.disp = d.id ∧ k.block = i) → teamRegs t k = teamRegs s k) ∧
        (∀ b, o = some b → blockOf s d.id i = some b → (ctxOf s b.ctx).pages = [] → noSlots b.ctx → ∃ t b', exec .blockPlace s = .next t ∧
          blockOf t d.id i = some b' ∧ b'.saved = false ∧ b'.core = p.core ∧ b'.spBase = p.base ∧ b'.spad = b.spad ∧ b'.tiles = b.tiles ∧
          t.mem = s.mem ∧ SameRegs s t))) ∧
    (∀ id, s.event = some (.concReserve id) →
      (dispOf s id = none → exec .concReserve s = .next s0) ∧
      (∀ d, dispOf s id = some d →
        (d.reserved ≠ [] ∨ d.stop.isSome = true → exec .concReserve s = .next s0) ∧
        (d.reserved = [] → d.stop = none → reserveCores id (toPlace s0 d) s0 [] = none → exec .concReserve s = .next s0) ∧
        (∀ l, d.reserved = [] → d.stop = none → reserveCores id (toPlace s0 d) s0 [] = some l → l.length = toPlace s0 d ∧
          ∃ t, exec .concReserve s = .next t ∧ Quiet s t ∧ t.blocks = s.blocks ∧ dispOf t id = some { d with reserved := l }))) ∧
    (∀ c, s.event = some (.timeSliceExpire c) →
      ((∀ b ∈ residentBlocks s0 c, victimBlock s0 b = false) → exec .timeSliceExpire s = .next s0) ∧
      (∀ b d page, b ∈ residentBlocks s0 c → victimBlock s0 b = true → b.index < 2 ^ 32 → blockOf s b.disp b.index = some b →
        (∀ v ∈ residentBlocks s0 c, victimBlock s0 v = true → v ≠ b → v.index < b.index) → dispOf s b.disp = some d → d.cls ≠ 0 →
        imageFit s0 d = some page → ∃ t b', exec .timeSliceExpire s = .next t ∧ Quiet s t ∧ blockOf t b.disp b.index = some b' ∧
          b'.saving = true ∧ b'.saveAt = s.cycle ∧ b'.imageAt = page ∧ b'.spad = b.spad ∧ ∀ k i, ¬ (k = b.disp ∧ i = b.index) → blockOf t k i = blockOf s k i)) ∧
    (∀ k i, s.event = some (.saveBlock k i) →
      ((dispOf s k = none ∨ blockOf s k i = none) → exec .saveBlock s = .next s0) ∧
      (∀ d b, dispOf s k = some d → blockOf s k i = some b →
        (b.saved = true ∨ b.exited = true → exec .saveBlock s = .next s0) ∧
        (b.saved = false → b.exited = false → b.saving = false → imageFit s0 d = none → exec .saveBlock s = .next s0) ∧
        (b.saved = false → b.exited = false → b.saving = false → ∀ page, imageFit s0 d = some page → ∃ t b', exec .saveBlock s = .next t ∧
          Quiet s t ∧ blockOf t k i = some b' ∧ b'.saving = true ∧ b'.saveAt = s.cycle ∧ b'.imageAt = page) ∧
        (b.saving = true → b.saveAt = s.cycle → exec .saveBlock s = .next s0) ∧
        (b.saved = false → b.exited = false → b.saving = true → b.saveAt ≠ s.cycle → s.xeOps = [] → noSlots b.ctx → (∀ n, (coreOf s n).lanecyc = []) →
          (∀ n, (coreOf s n).bbhint = []) → (∀ u ∈ s.teams, u.key.disp = k → u.key.block = i → u.inflight = [] ∧ owes s u.key = false ∧
            (∀ sp, u.low = some sp → sp.busy = 0) ∧ (∀ sp, u.high = some sp → sp.busy = 0)) →
          ∃ t b', exec .saveBlock s = .next t ∧ SameRegs s t ∧ blockOf t k i = some b' ∧ b'.saved = true ∧ b'.saving = false ∧
            b'.spad = b.spad ∧ b'.tiles = b.tiles ∧ b'.since = s.cycle ∧ (b.claimable = false → b'.claimable = false) ∧
            (b.claimable = true → t.mem = s.mem) ∧ ∀ w ∈ t.watches, ¬ (w.split.team.disp = k ∧ w.split.team.block = i))))

/-! ### Registers of the host and the management controller -/

/-- R32, R36, R109, R405, R427, R436, R442, R449, R450, R457, R480 to R484, R504, R505: what a write to each register of a context's entry leaves in
it, and the write-back of a trace counter. -/
def Obligations.ContextRegisterSteps : Prop :=
  ∀ (s : State) (c : Nat) (v : BitVec 64),
    let s0 := { s with event := none }
    let x := ctxOf s c
    let en := bits v 63 63 = 1
    let ring : BitVec 64 := v &&& 0x800FFFFFFFFFFFFF
    let W := fun (o : Host.Outcome State Fault Refusal) (y : Ctx) => ∃ t, o = .next t ∧ CtxWritten s t c y
    (∀ n tail, s.event = some (.cqDoorbell c n tail) → let q := queueOf x n
      ∃ t, exec .cqDoorbell s = .next t ∧ QueueWritten s t c n (if (tail - q.head).toNat ≤ 2 ^ bits q.cq 47 44 then { q with tail := tail } else q)) ∧
    (∀ n, s.event = some (.cqEnable c n v) →
      let q := queueOf x n
      let good := bits v 47 44 ≤ 12 ∧ ringPlace s c (bits v 43 0 * 4096) (64 * 2 ^ bits v 47 44) = true
      (bits q.cq 63 63 = 0 → en → ¬ good → exec .cqEnable s = .next s0) ∧
      (bits q.cq 63 63 = 0 → en → good → ∃ t, exec .cqEnable s = .next t ∧ QueueWritten s t c n { q with cq := ring, head := 0, tail := 0 }) ∧
      (¬ en → ∃ t, exec .cqEnable s = .next t ∧ QueueWritten s t c n { q with cq := ring }) ∧
      (bits q.cq 63 63 = 1 → en → ∃ t y, exec .cqEnable s = .next t ∧ QueueWritten s t c n { q with cq := y } ∧
        bits y 47 0 = bits q.cq 47 0 ∧ bits y 51 48 = bits v 51 48 ∧ bits y 62 52 = 0 ∧ bits y 63 63 = 1)) ∧
    (s.event = some (.svcringWrite c v) →
      (bits x.svcring 63 63 = 0 → en → W (exec .svcringWrite s) { x with svcring := ring, svchead := 0, svctail := 0, svcseq := 0 }) ∧
      (¬ en → W (exec .svcringWrite s) { x with svcring := ring }) ∧
      (bits x.svcring 63 63 = 1 → en → ∃ y, W (exec .svcringWrite s) { x with svcring := y } ∧ bits y 51 0 = bits x.svcring 51 0 ∧
        bits y 62 52 = 0 ∧ bits y 63 63 = 1)) ∧
    (s.event = some (.fltringWrite c v) →
      (bits x.fltring 63 63 = 0 → en → W (exec .fltringWrite s) { x with fltring := ring, flthead := 0, flttail := 0, fltseq := 0 }) ∧
      (¬ en → W (exec .fltringWrite s) { x with fltring := ring }) ∧
      (bits x.fltring 63 63 = 1 → en → ∃ y, W (exec .fltringWrite s) { x with fltring := y } ∧ bits y 51 0 = bits x.fltring 51 0 ∧
        bits y 62 52 = 0 ∧ bits y 63 63 = 1)) ∧
    (s.event = some (.ctxtrWrite c v) → ∃ t, exec .ctxtrWrite s = .next t ∧ CtxWritten s t c { x with ctxtr := v &&& 0xBFFF1FFFFFFFFFFF } ∧
      ∀ a, a ∈ t.stale ↔ (a ∈ s.stale ∨ (bits x.ctxtr 63 63 = 1 ∧ ¬ en ∧ a.toNat = bits x.ctxtr 60 48) ∨
        (bits x.ctxtr 60 48 ≠ bits v 60 48 ∧ a.toNat = bits v 60 48))) ∧
    (s.event = some (.trcbcWrite c v) →
      W (exec .trcbcWrite s) (if en then { x with trcbc := v, trcnext := 0, trcdrop := 0 } else { x with trcbc := v })) ∧
    (∀ fn off r, s.event = some (.registerWrite fn off v) → fn ≠ 4 → ctxAt s fn off = some (c, r) →
      let R := W (exec .registerWrite s)
      let held := hasBlock s c = true
      (r = 0x008 → R { x with ctxfab := (v &&& 3).setWidth 32 }) ∧
      (r = 0x010 → R { x with cmplpool := v &&& 0x8FFFFFFFFFFFFFFF }) ∧
      (r = 0x018 → R { x with ctxsched := v &&& 0xFFFFFF }) ∧
      (r = 0x020 → ¬ held → R { x with ctxpol := v &&& 0xFFFF0007 }) ∧
      (r = 0x020 → held → R { x with ctxpol := (v &&& 7) ||| (x.ctxpol &&& 0xFFFF0000) }) ∧
      (r = 0x028 → R { x with ctxsave := v &&& 0x8FFFFFFFFFFFFFFF }) ∧
      (r = 0x030 → R { x with waitlim := v &&& 0xFFFFFFFFFFFF }) ∧
      (r = 0x038 → R (if hasBlock s c then x else { x with spbase := v &&& 0xFFFFFFFFFFFFFF })) ∧
      (r = 0x040 → R (if hasBlock s c then x else { x with stkbase := v &&& 0xFFFFFFFFFFFFFF })) ∧
      (r = 0x050 → R { x with svctail := v.extractLsb' 32 32 }) ∧
      (r = 0x068 → R { x with flttail := v.extractLsb' 32 32 }) ∧
      (r = 0x078 → R { x with teamdisp := v }) ∧
      (r = 0x080 → R { x with teamctl := v &&& 0xFFFFFFFFF8 }) ∧
      (r = 0x088 → R { x with trclc := v &&& 0x9FFFFFFFFFFFFFFF }) ∧
      (r = 0x090 → R { x with trclo := v &&& 0xFFFFFFFFFFFFFF }) ∧
      (r = 0x0A8 → R { x with ctxirq := v &&& 0x80000001FFFFFFFF })) ∧
    (∀ off, s.event = some (.registerWrite 4 off v) →
      (off = 0x030078 → exec .registerWrite s = .next { s0 with fabtstat := s.fabtstat &&& ~~~(v.setWidth 32 &&& 2) }) ∧
      (off = 0x040008 → exec .registerWrite s = .next { s0 with mbaddr := v.setWidth 32 &&& 0xFFFFFF }) ∧
      (off = 0x040010 → exec .registerWrite s = .next { s0 with mbdata := v }) ∧
      (off = 0x100080 → exec .registerWrite s = .next { s0 with logovf := s.logovf &&& ~~~(v.setWidth 32 &&& 0x1F) }) ∧
      (off = 0x100100 → exec .registerWrite s = .next { s0 with stopat := v }) ∧
      (off = 0x100108 → exec .registerWrite s = .next { s0 with stopctl := (s.stopctl &&& 4) ||| (v.setWidth 32 &&& 3) }) ∧
      (off = 0x100188 → exec .registerWrite s = .next { s0 with visorimg := v })) ∧
    (∀ core, s.event = some (.traceCounterWriteback core) →
      ((coreOf s core).lanecyc = [] → exec .traceCounterWriteback s = .next s0) ∧
      (∀ e i n rest, (coreOf s core).lanecyc = (e, i, n) :: rest →
        let r := (ctxOf s e).trclc
        let pa := (bits r 43 0 * 4096 + 8 * i) % 2 ^ 48
        (bits r 63 63 = 0 → ∃ t, exec .traceCounterWriteback s = .next t ∧ Quiet s t ∧ (coreOf t core).lanecyc = rest) ∧
        (bits r 63 63 = 1 → ∃ t, exec .traceCounterWriteback s = .next t ∧ MemStep s t pa 8 ∧ (coreOf t core).lanecyc = rest ∧
          readMem t pa 8 = (readMem s pa 8 + n.toNat) % 2 ^ 64)))

/-- R19, R72, R465, R466, R468, R469, R471, R485, R486: partition changes and their refusals, the attestation report, the firmware version and store,
and the mailbox. -/
def Obligations.ManagementSteps : Prop :=
  ∀ (s : State),
    let s0 := { s with event := none }
    let Change := fun (o : Host.Outcome State Fault Refusal) (merge : Bool) (f nq : Nat) =>
      let n := 2 ^ nq
      let m := if merge then n else n / 2
      let req := BitVec.ofNat 32 ((if merge then 1 else 2) + 4 * f + 16 * nq)
      let shape := if merge then mergeShape s f nq else splitShape s f nq
      let Refused := fun (code c q : Nat) => Told o s { s0 with partreq := req, partstat := partCode 3 code c q } 0
      (shape = false → Refused 1 0 0) ∧
      (∀ c q, shape = true → firstBusy s f n = some (c, q) → Refused 2 (c % 1024) q) ∧
      (∀ c, shape = true → firstBusy s f n = none → firstEnabled s f n = some c → Refused 3 (c % 1024) 0) ∧
      (shape = true → firstBusy s f n = none → firstEnabled s f n = none →
        ((∃ i, i < n ∧ quarterLost s (f + i) = true) → merge = true → Refused 4 0 0) ∧
        ((∀ i, i < n → quarterLost s (f + i) = false) → f + n ≤ 4 → ∃ t, o = .next t ∧ SameRegs s t ∧ t.partreq = req ∧ t.partstat = 2 ∧
          (∀ i, i < n → partOfQuarter t (f + i) = (f + m * (i / m), m) ∧ (netbnd t (f + i)).toNat = quarterMask (f + m * (i / m)) m) ∧
          (∀ q, (q < f ∨ f + n ≤ q) → memil t q = memil s q ∧ netbnd t q = netbnd s q) ∧
          (∀ a, f * quarterBytes ≤ a → a < (f + n) * quarterBytes → readByte t a = 0 ∧ tagOf t a = 0) ∧
          (∀ a, (a < f * quarterBytes ∨ (f + n) * quarterBytes ≤ a) → readByte t a = readByte s a ∧ tagOf t a = tagOf s a) ∧
          (∀ name e, Cached t name e ↔ (Cached s name e ∧ (tlbQuarter name < f ∨ f + n ≤ tlbQuarter name))) ∧
          (∀ i, i < n → i % m = 0 → mapGet 0 t.attest (quarterMask (f + i) m) = mapGet 0 s.attest (quarterMask (f + i) m) + 1) ∧
          HostOut.msix 4 0 s.cycle ∈ t.hostOut))
    (∀ f nq, s.event = some (.partMerge f nq) → Change (exec .partMerge s) true f.toNat nq.toNat) ∧
    (∀ f nq, s.event = some (.partSplit f nq) → Change (exec .partSplit s) false f.toNat nq.toNat) ∧
    (∀ nonce f, s.event = some (.attestationReport nonce f) →
      let p := partOfQuarter s f
      let m := quarterMask f p.2
      (¬ (f < 4 ∧ p.1 = f) → exec .attestationReport s = .next s0) ∧
      (f < 4 → p.1 = f → ∃ body, body.take 32 = numBytes nonce.toNat 32 ∧ exec .attestationReport s = .next { s0 with
        hostOut := s.hostOut ++ [.report body (Config.sign (Config.deriveKey Config.deviceSecret (BitVec.ofNat 4 m) (mapGet 0 s.attest m)) body)] })) ∧
    (∀ v, s.event = some (.fwcommit v) →
      let ver := (Config.imageVersion s.running).toNat
      (bits v 0 0 = 1 → bits s.startstat 1 0 = 3 → bits s.startstat 23 16 < ver → ∃ w, exec .fwcommit s = .next { s0 with startstat := w } ∧
        bits w 23 16 = ver ∧ bits w 15 0 = bits s.startstat 15 0 ∧ bits w 31 24 = bits s.startstat 31 24) ∧
      ((bits v 0 0 ≠ 1 ∨ bits s.startstat 1 0 ≠ 3 ∨ ver ≤ bits s.startstat 23 16) → exec .fwcommit s = .next s0)) ∧
    (∀ off l, s.event = some (.recoveryWindowWrite off l) →
      (bits s.recovctl 0 0 = 0 → exec .recoveryWindowWrite s = .next s0) ∧
      (bits s.recovctl 0 0 = 1 → ∃ m, exec .recoveryWindowWrite s = .next { s0 with image := m } ∧
        ∀ k, mapGet 0 m k = if off ≤ k ∧ k < off + l.length ∧ k < 2 ^ 25 then l.getD (k - off) 0 else mapGet 0 s.image k)) ∧
    (s.event = some .recoveryGo →
      let len := bits s.recovctl 57 32
      let img := storedImage s len
      let End := fun (f : State) (state code : Nat) => Told (exec .recoveryGo s) s { f with recovstat := BitVec.ofNat 32 (state + 4 * code) } 7
      ((len = 0 ∨ 2 ^ 25 < len) → End s0 3 3) ∧
      (0 < len → len ≤ 2 ^ 25 →
        (Config.imageSigned img = false → End { s0 with imageLen := len } 3 1) ∧
        (Config.imageSigned img = true → (Config.imageVersion img).toNat < bits s.startstat 23 16 → End { s0 with imageLen := len } 3 2) ∧
        (Config.imageSigned img = true → bits s.startstat 23 16 ≤ (Config.imageVersion img).toNat →
          End { s0 with imageLen := len, startstat := if bits s.startstat 2 0 = 4 then s.startstat &&& 0xFFFFFFFB else s.startstat } 2 0))) ∧
    (s.event = some .mailboxWrite →
      let off := bits s.mbaddr 23 0
      (bits s.mbstat 1 0 = 1 → exec .mailboxWrite s = .next s0) ∧
      (∀ code, bits s.mbstat 1 0 ≠ 1 → mailboxFault s off s.mbdata = some code →
        Told (exec .mailboxWrite s) s { s0 with mbstat := BitVec.ofNat 32 (3 + 4 * code) } 6) ∧
      (bits s.mbstat 1 0 ≠ 1 → mailboxFault s off s.mbdata = none → (gateOf s 0).mode ≠ 2 → ∃ t, exec .mailboxWrite s = .next t ∧
        Quiet s t ∧ t.mbstat = 2 ∧ ControllerWrote t off s.mbdata ∧ HostOut.msix 4 6 s.cycle ∈ t.hostOut)) ∧
    (s.event = some .mailboxRead →
      let off := bits s.mbaddr 23 0
      (bits s.mbstat 1 0 = 1 → exec .mailboxRead s = .next s0) ∧
      (bits s.mbstat 1 0 ≠ 1 → mailboxMask off = none → Told (exec .mailboxRead s) s { s0 with mbstat := 7 } 6) ∧
      (bits s.mbstat 1 0 ≠ 1 → mailboxMask off ≠ none → exec .mailboxRead s = .next { s0 with
        mbstat := 1, bandWait := s.bandWait ++ [BandMsg.mk (regStop off) 0 0 0 (BitVec.ofNat 32 off) []] }))

/-! ### Start, the thermal guard, health, Cuff and Visor -/

/-- R182, R469 to R471, R477, R481, R488, R492, R497, R516: power-on, the package reset and the three stages of the start. -/
def Obligations.StartSteps : Prop :=
  ∀ (s : State),
    let s0 := { s with event := none }
    let stage := bits s.startstat 1 0
    let img := storedImage s s.imageLen
    let svn := bits s.startstat 23 16
    (s.event = some .powerOn → exec .powerOn s = .next { State.reset with
      startstat := s.startstat &&& 0x00FF0000, image := s.image, imageLen := s.imageLen, attest := s.attest, fabinc := s.fabinc + 1,
      starts := s.starts + 1, inbox := s.inbox }) ∧
    (s.event = some .packageReset → ∃ t, exec .packageReset s = .next t ∧
      t.cycle = 0 ∧ t.teams = [] ∧ t.blocks = [] ∧ t.dispatches = [] ∧ (∀ c, ctxOf t c = Ctx.reset) ∧ t.fabinc = s.fabinc + 1 ∧
      t.tags = s.tags ∧ ((∀ g, g < 2 → (gateOf s g).staged = []) → t.mem = s.mem ∧ t.poison = s.poison) ∧
      bits t.startstat 23 16 = svn ∧ bits t.startstat 15 0 = 0 ∧ t.image = s.image ∧ t.attest = s.attest ∧ t.stopat = s.stopat ∧
      t.visorimg = s.visorimg ∧ t.oosMap = s.oosMap ∧ (∀ c, (coreOf t c).removed = true → ∃ o ∈ s.oosMap, o.u.kind = .core) ∧
      ∀ g, g < 2 → (gateOf t g).log = (gateOf s g).log ∧ (gateOf t g).endAt = (gateOf s g).endAt ∧
        bits (gateOf t g).cfg 1 0 = if bits (gateOf s g).cfg 2 2 = 1 then bits (gateOf s g).cfg 1 0 else 0) ∧
    (s.event = some .stageA →
      (stage ≠ 0 → exec .stageA s = .next s0) ∧
      (stage = 0 → (Config.imageSigned img = false ∨ (Config.imageVersion img).toNat < svn) →
        exec .stageA s = .next { s0 with startstat := s.startstat ||| 4 }) ∧
      (stage = 0 → Config.imageSigned img = true → svn ≤ (Config.imageVersion img).toNat → ∃ v,
        exec .stageA s = .next { s0 with running := img, startstat := v } ∧ bits v 2 0 = 1 ∧ bits v 31 3 = bits s.startstat 31 3)) ∧
    (s.event = some .stageB →
      (stage ≠ 1 → exec .stageB s = .next s0) ∧
      (stage = 1 → ∃ v, exec .stageB s = .next { s0 with startstat := v } ∧ bits v 2 0 = 2 ∧ bits v 31 7 = bits s.startstat 31 7 ∧
        ∀ q, q < 4 → v.getLsbD (3 + q) = (Config.trainingOk s.starts q && !quarterOut s q))) ∧
    (s.event = some .stageC →
      (stage ≠ 2 → exec .stageC s = .next s0) ∧
      (stage = 2 → ∃ t, exec .stageC s = .next t ∧ Quiet s t ∧ bits t.startstat 2 0 = 3 ∧ bits t.startstat 31 7 = bits s.startstat 31 7 ∧
        (∀ q, q < 4 → t.startstat.getLsbD (3 + q) = (s.startstat.getLsbD (3 + q) && Config.marginOk s.starts q)) ∧
        ∀ p ∈ partitions s, p.1 < 4 → mapGet 0 t.attest (quarterMask p.1 p.2) = mapGet 0 s.attest (quarterMask p.1 p.2) + 1))

/-- R472, R473, R484: the thermal guard holds a partition, gates it once no block is resident, and lets it go again below the limits less HYST; the
hold of an ungated partition ends 1,200 core cycles later. -/
def Obligations.ThermalSteps : Prop :=
  ∀ (s : State) (q temp : Nat), q < 4 → temp < 256 → partBits s q < 16 →
    let s0 := { s with event := none }
    let hold := bits s.thermcfg 7 0
    let gate := bits s.thermcfg 15 8
    let hyst := bits s.thermcfg 23 16
    let held := bits s.thermstat 3 0
    let gated := bits s.thermstat 7 4
    let top := bits s.thermstat 15 8
    let m := partBits s q
    let f := (partOfQuarter s q).1
    let pwr := bits s.pwrgate 3 0
    (s.event = some (.thermalHold q temp) →
      ((temp < hold ∨ held &&& m ≠ 0) → exec .thermalHold s = .next s0) ∧
      (hold ≤ temp → held &&& m = 0 → ∃ t, exec .thermalHold s = .next t ∧
        Guarded s t (held ||| m) gated (max temp top) 0x020010 (held ||| m))) ∧
    (s.event = some (.thermalHoldClear q temp) →
      ((hold ≤ temp + hyst ∨ held &&& m = 0 ∨ gated &&& m ≠ 0 ∨ f ∈ s.gating ∨ mapGet 0 s.tholdAt f ≠ 0) → exec .thermalHoldClear s = .next s0) ∧
      (temp + hyst < hold → held &&& m ≠ 0 → gated &&& m = 0 → f ∉ s.gating → mapGet 0 s.tholdAt f = 0 → ∃ t,
        exec .thermalHoldClear s = .next t ∧ Guarded s t (held &&& (15 - m)) gated temp 0x020010 (held &&& (15 - m)))) ∧
    (s.event = some (.thermalGate q temp) →
      (f ∉ s.gating → (temp < gate ∨ held &&& m ≠ m ∨ gated &&& m ≠ 0) → exec .thermalGate s = .next s0) ∧
      (f ∉ s.gating → gate ≤ temp → held &&& m = m → gated &&& m = 0 → (∀ b ∈ s.blocks, blockIn s (partOfQuarter s q) b = false) →
        ∃ t, exec .thermalGate s = .next t ∧ Guarded s t held (gated ||| m) (max temp top) 0x030040 (pwr ||| (gated ||| m)) ∧ f ∉ t.gating) ∧
      (f ∉ s.gating → gate ≤ temp → held &&& m = m → gated &&& m = 0 → ∀ b d page, s.blocks = [b] → blockIn s (partOfQuarter s q) b = true →
        b.exited = false → b.saved = false → b.saving = false → dispOf s b.disp = some d → imageFit s d = some page →
        ∃ t c, exec .thermalGate s = .next t ∧ Quiet s t ∧ blockOf t b.disp b.index = some c ∧ c.saving = true ∧ c.claimable = false ∧
          f ∈ t.gating ∧ bits t.thermstat 7 4 = gated ∧ t.pwrgate = s.pwrgate)) ∧
    (s.event = some (.thermalUngate q temp) →
      ((gate ≤ temp + hyst ∨ gated &&& m = 0) → exec .thermalUngate s = .next s0) ∧
      (temp + hyst < gate → gated &&& m ≠ 0 → ∃ t, exec .thermalUngate s = .next t ∧ mapGet 0 t.tholdAt f = s.cycle + 1200 ∧
        Guarded s t held (gated &&& (15 - m)) temp 0x030040 ((pwr &&& (15 - m)) ||| (gated &&& (15 - m))))) ∧
    (s.event = some (.thermalTholdRelease q) →
      let at_ := mapGet 0 s.tholdAt q
      ((at_ = 0 ∨ s.cycle.toNat < at_.toNat) → exec .thermalTholdRelease s = .next s0) ∧
      (at_ ≠ 0 → at_.toNat ≤ s.cycle.toNat → ∃ t, exec .thermalTholdRelease s = .next t ∧ mapGet 0 t.tholdAt q = 0 ∧
        Guarded s t (held &&& (15 - m)) gated top 0x020010 (held &&& (15 - m))))

/-- R15, R474 to R476, R478: errors are counted, lasting at the threshold or at a location of the last window; an uncorrectable one poisons its
sector; a unit with a lasting fault leaves service at the window's end. -/
def Obligations.HealthSteps : Prop :=
  ∀ (s : State) (u : HealthUnit),
    let s0 := { s with event := none }
    let old := (s.errs.find? (fun e => decide (e.u = u))).getD (noErrors u)
    let now := fun (t : State) => (t.errs.find? (fun e => decide (e.u = u))).getD (noErrors u)
    let limit := max 1 (bits s.hlthcfg 15 0)
    (∀ loc, s.event = some (.correctedError u loc) → ∃ l, exec .correctedError s = .next { s0 with errs := l } ∧
      (now { s0 with errs := l }).count = old.count + 1 ∧ loc ∈ (now { s0 with errs := l }).here ∧
      (now { s0 with errs := l }).lasting = (old.lasting || decide (limit ≤ old.count + 1) || old.last.contains loc)) ∧
    (∀ pa, s.event = some (.uncorrectableError u pa) → ∃ t, exec .uncorrectableError s = .next t ∧ t.mem = s.mem ∧ t.tags = s.tags ∧
      SameRegs s t ∧ (∀ k, mapGet false t.poison k = if k = pa / 32 then true else mapGet false s.poison k) ∧ (now t).lasting = true) ∧
    (s.event = some .healthWindowBoundary →
      (s.cycle.toNat % 2 ^ 32 ≠ 0 → exec .healthWindowBoundary s = .next s0) ∧
      (s.cycle.toNat % 2 ^ 32 = 0 → (∀ e ∈ s.errs, e.lasting = false) → exec .healthWindowBoundary s = .next { s0 with
        errs := s.errs.map (fun e => { e with count := 0, last := e.here, here := [] }) }) ∧
      (∀ e, s.cycle.toNat % 2 ^ 32 = 0 → s.errs.filter (·.lasting) = [e] → e.u = u → s.blocks = [] → s.dispatches = [] →
        s.oosMap.length < 256 → ∃ t, exec .healthWindowBoundary s = .next t ∧ Quiet s t ∧
          t.oosMap = s.oosMap ++ [{ u := u, cyc := s.cycle }] ∧ HostOut.msix 4 3 s.cycle ∈ t.hostOut ∧ (∀ x ∈ t.errs, x.u = u → x.lasting = false) ∧
          (u.kind = .core → (coreOf t (stopCore u.stop.toNat)).removed = true) ∧
          (u.kind = .slice → mapGet Cache.empty t.slices (unitSlice u) = Cache.empty) ∧
          (u.kind = .fabricPort → t.fabcfg = s.fabcfg &&& ~~~(BitVec.ofNat 64 (2 ^ (16 + u.index.toNat)))) ∧
          ((u.kind = .pchan ∨ u.kind = .cacheRouter) →
            let q := (u.stop.toNat - 16) / 128
            (q < 29 → t.startstat.getLsbD (3 + q) = false) ∧ ∀ c, (∃ x, (c, x) ∈ s.ctxs) → partOfCtx s c = partOfQuarter s q →
              bits (ctxOf t c).ctxtr 63 63 = 0))) ∧
    (∀ stop queue seq, s.event = some (.errorResend stop queue seq) → ∃ t, exec .errorResend s = .next t ∧ Quiet s t ∧
      (¬ (16 ≤ stop.toNat ∧ 64 ≤ (stop.toNat - 16) % 128) → t.errs = s.errs) ∧
      (16 ≤ stop.toNat → 64 ≤ (stop.toNat - 16) % 128 → u = { kind := .cacheRouter, stop := stop.setWidth 16, index := 0 } →
        (now t).count = old.count + 1)) ∧
    (∀ port, s.event = some (.linkFailure port) → (gateOf s 0).mode ≠ 2 → ∃ t, exec .linkFailure s = .next t ∧ Quiet s t ∧
      ControllerWrote t 0x030048 (s.fabcfg &&& ~~~(BitVec.ofNat 64 (2 ^ (16 + port)))))

/-- R480, R488 to R492, R494 to R496: arrivals are stamped, logged while there is room and delivered four core cycles later in the order of their
stamps; in a replay live writes and packets are discarded and the records of the log take their place. -/
def Obligations.CuffSteps : Prop :=
  ∀ (s : State) (g : Nat),
    let s0 := { s with event := none }
    let x := gateOf s g
    let W := fun (o : Host.Outcome State Fault Refusal) (y : Gate) => ∃ t, o = .next t ∧ Quiet s t ∧ gateOf t g = y
    (∀ ph a, s.event = some (.cuffStamp g ph a) →
      let cyc := s.cycle.toNat
      let recs := records cyc ph.toNat a
      let kept := (∀ t, a = .tlp t → bypasses t = false) ∧ (∀ ty st n i, a ≠ .event ty st n i)
      let alone := ∀ y ∈ x.queue, ¬ (y.cyc = s.cycle ∧ y.ph = ph ∧ sourceRank y.arr = sourceRank a)
      (x.mode = 2 → (∀ port p, a = .packet port p → exec .cuffStamp s = .next s0) ∧
        (∀ t, a = .tlp t → bypasses t = false → exec .cuffStamp s = .next (if t.write then s0 else { s0 with hostOut := s.hostOut ++ [.abort t.fn] }))) ∧
      (x.mode = 0 → kept → alone → ∃ l, W (exec .cuffStamp s) { x with queue := l } ∧ l.Perm ({ cyc := s.cycle, ph := ph, arr := a } :: x.queue)) ∧
      (x.mode = 1 → x.lost = BitVec.allOnes 64 → kept → alone → x.staged.length + recs.length ≤ stagingBytes →
        x.pos.toNat + recs.length ≤ regionSize x → ∃ l, W (exec .cuffStamp s) { x with
          queue := l, staged := x.staged ++ recs, pos := x.pos + BitVec.ofNat 64 recs.length } ∧
          l.Perm ({ cyc := s.cycle, ph := ph, arr := a } :: x.queue)) ∧
      (x.mode = 1 → x.lost = BitVec.allOnes 64 → kept → alone → regionSize x < x.pos.toNat + recs.length → g < 2 →
        ∃ t, exec .cuffStamp s = .next t ∧ Quiet s t ∧ (gateOf t g).lost = s.cycle ∧ (gateOf t g).pos = x.pos ∧ t.logovf.getLsbD g = true) ∧
      (∀ ty st n i, a = .event ty st n i → x.mode = 0 → exec .cuffStamp s = .next s0)) ∧
    (s.event = some (.cuffDeliver g) →
      (x.queue = [] → exec .cuffDeliver s = .next s0) ∧
      (∀ y rest, x.queue = y :: rest →
        (s.cycle.toNat < y.cyc.toNat + 4 → exec .cuffDeliver s = .next s0) ∧
        (y.cyc.toNat + 4 ≤ s.cycle.toNat →
          (∀ m, y.arr = .mgmt m → ∃ t, exec .cuffDeliver s = .next t ∧ Quiet s t ∧ gateOf t g = { x with queue := rest } ∧
            t.bandWait = s.bandWait ++ [m]) ∧
          (∀ t, y.arr = .tlp t → fnPresent s t.fn = true → t.bar = 2 → t.fn ≠ 4 → ∃ u, exec .cuffDeliver s = .next u ∧ Quiet s u ∧
            gateOf u g = { x with queue := rest } ∧ u.agenda = (if t.write then .hostPostedWrite t.fn (t.fn * quarterBytes + t.off) t.data
              else .hostRead t.fn (t.fn * quarterBytes + t.off) t.len) :: s.agenda) ∧
          (∀ t, y.arr = .tlp t → fnPresent s t.fn = false → t.write = false → ∃ u, exec .cuffDeliver s = .next u ∧ Quiet s u ∧
            gateOf u g = { x with queue := rest } ∧ u.hostOut = s.hostOut ++ [.unsupported t.fn])))) ∧
    (s.event = some (.cuffReplayDeliver g) → g < 2 →
      (x.mode ≠ 2 ∨ x.replayed = true → exec .cuffReplayDeliver s = .next s0) ∧
      (x.mode = 2 → x.replayed = false → x.endAt.toNat ≤ x.pos.toNat → ∃ t, exec .cuffReplayDeliver s = .next t ∧ Quiet s t ∧
        gateOf t g = { x with replayed := true } ∧ t.logovf.getLsbD (2 + g) = true) ∧
      (x.mode = 2 → x.replayed = false → x.pos.toNat < x.endAt.toNat → x.endAt.toNat < 2 ^ 40 →
        let r := recordAt s g x.pos.toNat
        let next := recordAt s g (x.pos.toNat + r.size)
        ((r.bad = true ∨ 4 < r.kind ∨ r.cyc < s.cycle.toNat) → ∃ t, exec .cuffReplayDeliver s = .next t ∧ Quiet s t ∧ gateOf t g = { x with replayed := true } ∧
          t.logovf.getLsbD 4 = true) ∧
        (r.bad = false → r.kind ≤ 4 → s.cycle.toNat < r.cyc → exec .cuffReplayDeliver s = .next s0) ∧
        (r.bad = false → r.kind ≤ 2 → r.cyc = s.cycle.toNat → x.pos.toNat + r.size < x.endAt.toNat → next.bad = false → next.kind ≤ 4 →
          s.cycle.toNat < next.cyc → ∃ t,
          exec .cuffReplayDeliver s = .next t ∧ Quiet s t ∧ (gateOf t g).pos = x.pos + BitVec.ofNat 64 r.size ∧
          (gateOf t g).queue.Perm ({ cyc := s.cycle, ph := r.ph, arr := recordArrival r } :: x.queue)))) ∧
    (∀ v, s.event = some (.cuffcfgWrite g v) →
      let mode := bits v 1 0
      (mode = 3 → ∃ w, W (exec .cuffcfgWrite s) { x with cfg := w } ∧ bits w 1 0 = bits x.cfg 1 0 ∧ bits w 3 2 = bits v 3 2) ∧
      (mode = 0 → W (exec .cuffcfgWrite s) { x with cfg := v &&& 0xC, due := true }) ∧
      ((mode = 1 ∨ mode = 2) → W (exec .cuffcfgWrite s) { x with cfg := v &&& 0xF, due := true, pos := 0, lost := BitVec.allOnes 64 })) ∧
    (s.event = some (.cuffModeApply g) →
      let mode := bits x.cfg 1 0
      let left := if x.mode = 2 then [] else x.queue
      (x.due = false → exec .cuffModeApply s = .next s0) ∧
      (x.due = true → mode = 0 → W (exec .cuffModeApply s) { x with due := false, mode := 0, replayed := false, queue := left }) ∧
      (x.due = true → mode = 1 → x.lost = BitVec.allOnes 64 → 32 ≤ regionSize x → W (exec .cuffModeApply s) { x with
        due := false, mode := 1, replayed := false, queue := left, staged := startRecord s.cycle.toNat, pos := 32 }) ∧
      (x.due = true → 2 ≤ mode → W (exec .cuffModeApply s) { x with due := false }))

/-- R488, R497 to R500: the package stops; a frozen one is scanned into its image region with the header of R499, loaded from it unless firmware,
image or layout differ, and resumed. -/
def Obligations.VisorSteps : Prop :=
  ∀ (s : State),
    let s0 := { s with event := none }
    let pa := (bits s.visorimg 43 0 * 4096) % 2 ^ 48
    let hash := Config.imageHash s.running
    let Ends := fun (o : Host.Outcome State Fault Refusal) (f : State) (state : Nat) => Told o s { f with visorctl := BitVec.ofNat 32 (4 * state) } 2
    (s.event = some .packageStop → Ends (exec .packageStop s) { s0 with stopctl := (s.stopctl &&& 2) ||| 4 } 1) ∧
    (frozen s = false →
      (s.event = some .visorScan → exec .visorScan s = .next s0) ∧ (s.event = some .visorLoad → exec .visorLoad s = .next s0) ∧
      (s.event = some .visorResume → exec .visorResume s = .next s0)) ∧
    (frozen s = true →
      (s.event = some .visorScan → ∃ t n, exec .visorScan s = .next t ∧ MemStep s t pa (64 + n) ∧ t.visorctl = 4 ∧
        readMem t pa 4 = 0x56495331 ∧ readMem t (pa + 4) 4 = 1 ∧ readMem t (pa + 8) 8 = s.cycle.toNat ∧ readMem t (pa + 16) 32 = hash.toNat ∧
        (64 + n < 2 ^ 64 → readMem t (pa + 48) 8 = 64 + n ∧ readMem t (pa + 56) 8 = (Config.scanSectionCount s.running).toNat) ∧
        t.scan = some (s0.toDomain, hash) ∧ HostOut.msix 4 2 s.cycle ∈ t.hostOut) ∧
      (s.event = some .visorLoad →
        (readMem s (pa + 16) 32 ≠ hash.toNat → Ends (exec .visorLoad s) s0 3) ∧
        (readMem s (pa + 16) 32 = hash.toNat → imageDomain s0 = none → Ends (exec .visorLoad s) s0 3) ∧
        (∀ d, readMem s (pa + 16) 32 = hash.toNat → imageDomain s0 = some d →
          ((∃ q, q < 4 ∧ (mapGet 0b1000 d.memil q ≠ memil s q ∨ mapGet 0b1111 d.netbnd q ≠ netbnd s q)) → Ends (exec .visorLoad s) s0 3) ∧
          ((∀ q, q < 4 → mapGet 0b1000 d.memil q = memil s q ∧ mapGet 0b1111 d.netbnd q = netbnd s q) → ∃ t, exec .visorLoad s = .next t ∧
            t.toDomain = { d with gates := t.gates, logovf := s.logovf, event := none } ∧ t.mem = s.mem ∧ t.tags = s.tags ∧ t.visorctl = 4 ∧
            (∀ g, g < 2 → gateOf t g = { gateOf s g with queue := (mapGet Gate.reset d.gates g).queue }) ∧
            HostOut.msix 4 2 d.cycle ∈ t.hostOut))) ∧
      (s.event = some .visorResume →
        ((∀ g, g < 2 → bits (gateOf s g).cfg 1 0 ≠ 2) → Ends (exec .visorResume s) { s0 with stopctl := s.stopctl &&& 3 } 0) ∧
        ∃ t, exec .visorResume s = .next t ∧ Quiet s t ∧ t.stopctl = s.stopctl &&& 3 ∧ t.visorctl = 0 ∧ ∀ g, g < 2 →
          bits (gateOf s g).cfg 1 0 = 2 → (gateOf t g).mode = 2 ∧ (gateOf t g).replayed = false ∧ (gateOf t g).queue = (gateOf s g).queue))

/-! ### Decoding, the step and reset -/

/-- R263, R275: words written out from the encodings of the spec, opcode in bits 31 to 24, d, a and b below it, decode to the forms they stand for; an
opcode without a form, and a bit set in a field that a form does not use, are refused. -/
def Obligations.DecodeOfSpecWords : Prop :=
  decode 0x00000000 = .ok .nop ∧ decode 0x02100402 = .ok (.brp 0x10 0x04 0x02) ∧ decode 0x0C00C301 = .ok (.modegrd 3 1) ∧
  decode 0x10010203 = .ok (.iadd 1 2 3) ∧ decode 0x20070C90 = .ok (.shl 0x07 0x0C 0x90) ∧ decode 0x1F040500 = .ok (.not 4 5) ∧
  decode 0xE0034000 = .ok (.barinit 3 0x40) ∧ decode 0xE5819001 = .ok (.fwait 0x81 0x90 1) ∧ decode 0xF0920000 = .error (.reservedField 0xF0) ∧
  decode 0xDC050000 = .ok (.mzero 5) ∧ decode 0xFF000000 = .error (.unassignedOpcode 0xFF) ∧ decode 0x00000001 = .error (.reservedField 0x00)

/-- R263 to R265, R275: decoding and encoding agree, for every form with every operand its encoding admits, and for every word that decodes. -/
def Obligations.DecodeEncodeAgree : Prop :=
  (∀ (i : Instr) (w : Word), encode i = some w → decode w = .ok i) ∧
  (∀ (i : Instr) (w : Word), decode w = .ok i → encode i = some w) ∧
  (∀ (i : Instr) (f : Fields), fieldsOf i = some f → encode i = some f.word ∧ f.word.extractLsb' 24 8 = f.op ∧ f.word.extractLsb' 16 8 = f.d ∧
    f.word.extractLsb' 8 8 = f.a ∧ f.word.extractLsb' 0 8 = f.b)

/-- R229, R252, R417: a step takes the agenda first, then the split at the head of the issue queue, whose word runs as the instruction it decodes to;
a word of an unassigned opcode takes cause 0x21; else an input, else the next cycle (the order is the model's, log 3). -/
def Obligations.StepRunsWhatIsNext : Prop :=
  ∀ (s : State),
    (∀ e rest, s.agenda = e :: rest → step s = exec e.instr { s with agenda := rest, event := some e }) ∧
    (s.agenda = [] → ∀ r t sp c, issuing s = some (r, t, sp, c) →
      (∀ i, decode (c.words.getD sp.pos 0) = .ok i → step s = exec i s) ∧
      (∀ op, decode (c.words.getD sp.pos 0) = .error (.unassignedOpcode op) → ∃ u, step s = .next u ∧
        FaultTaken s u (issOf s r t sp c (wordFields (c.words.getD sp.pos 0))) 0x21 (c.words.getD sp.pos 0))) ∧
    (s.agenda = [] → s.issueQ ≠ [] → issuing s = none → step s = .next (popIssue s)) ∧
    (s.agenda = [] → s.issueQ = [] →
      (∀ e, startStage s = some e → step s = exec e.instr { s with event := some e }) ∧
      (∀ e rest, startStage s = none → nextInput s = some (e, rest) → step s = exec e.instr { s with inbox := rest, event := some e }) ∧
      (startStage s = none → nextInput s = none → step s = exec .issueCycle { s with event := some .issueCycle }))

/-- R229, R273: the checks of decode in their order: the first that fails is the cause of the fault that the instruction takes, with its word as INFO
and no other effect; without an issuing split an instruction is no step (the model's own fault, log 3). -/
def Obligations.DecodeFaultIsTaken : Prop :=
  ∀ (s : State) (i : Instr) (f : Fields), fieldsOf i = some f →
    (issuing s = none → exec i s = .fault .noIssuingSplit) ∧
    ∀ r t sp c, issuing s = some (r, t, sp, c) →
      let x := issOf s r t sp c f
      let Fault := fun (cause : BitVec 8) => TakesFault (exec i s) s x cause f.word
      (typeOk x = false → Fault 0x21) ∧
      (typeOk x = true → operandsOk x (readU x) = false → Fault 0x22) ∧
      (typeOk x = true → operandsOk x (readU x) = true → distancesOk x = false → Fault 0x23) ∧
      (typeOk x = true → operandsOk x (readU x) = true → distancesOk x = true → literalsOk x = false → Fault 0x24) ∧
      (typeOk x = true → operandsOk x (readU x) = true → distancesOk x = true → literalsOk x = true → pairsOk x = false → Fault 0x25) ∧
      (typeOk x = true → operandsOk x (readU x) = true → distancesOk x = true → literalsOk x = true → pairsOk x = true →
        scalarOk x = false → Fault 0x26)

/-- R3, R19, R72, R109, R160, R228, R423, R427, R436, R472, R481, R482, R488, R492, R516: what reset leaves in the registers for which the spec gives
values; memory lists nothing and is in its canonical form (what it then reads as is the model's, log 2). -/
def Obligations.ResetValues : Prop :=
  Canonical State.reset ∧ State.reset.cycle = 0 ∧ State.reset.teams = [] ∧ bits State.reset.startstat 2 0 = 0 ∧
  (∀ q, q < 4 → partOfQuarter State.reset q = (0, 4) ∧ netbnd State.reset q = 0xF) ∧
  (∀ c, (ctxOf State.reset c).ctxtr = 0 ∧ (ctxOf State.reset c).ctxsched = 0x1000 ∧ (ctxOf State.reset c).waitlim = 0x10000000 ∧
    (ctxOf State.reset c).cmplpool = 0 ∧ (ctxOf State.reset c).ctxpol = 0 ∧ (ctxOf State.reset c).trclc = 0x0200000000000000) ∧
  (∀ c n, queueOf (ctxOf State.reset c) n = Queue.reset) ∧ (∀ c n, (slotOf (ctxOf State.reset c) n).bound = false) ∧
  State.reset.fabcfg = 0 ∧ State.reset.thermcfg = 0x0005695F ∧ State.reset.hlthcfg = 16 ∧ State.reset.stopctl = 0 ∧
  (∀ g, (gateOf State.reset g).mode = 0 ∧ (gateOf State.reset g).lost = BitVec.allOnes 64) ∧
  State.reset.fabrto = 0x03100000 ∧ State.reset.fabqos = 0x08080808 ∧ State.reset.pwrgate = 0 ∧ modeReset = 0x100

/-- R7, R42, R474 and the model's canonical form (log 2): memory, its tags and the poison marks stay in canonical form through every step. -/
def Obligations.StepKeepsCanonical : Prop :=
  ∀ (s t : State), Canonical s → step s = .next t → Canonical t
end

