-- ==== Sys2Proof/Laws/Cache.lean ====
section
/-! SUPPORT. Caches: which ways a fill, a drop and a touch leave, that a fill keeps one content per way, and that the passing of an
access through slices, L1 and translation caches changes nothing but those. -/
namespace Sys2Proof.Machine

variable {α : Type}

@[simp] theorem cacheTree_ways (c : Cache α) (set : Nat) (f : BitVec 256 → BitVec 256) : (cacheTree c set f).ways = c.ways := rfl
@[simp] theorem cacheTouch_ways (lv : Nat) (w : CacheWay α) (c : Cache α) : (cacheTouch lv w c).ways = c.ways := rfl
@[simp] theorem cacheDrop_trees (c : Cache α) (p : α → Bool) : (cacheDrop c p).trees = c.trees := rfl
@[simp] theorem cacheMap_trees (c : Cache α) (p : α → Bool) (f : α → Option α) : (cacheMap c p f).trees = c.trees := rfl

theorem mem_cacheDrop (c : Cache α) (p : α → Bool) (w : CacheWay α) : w ∈ (cacheDrop c p).ways ↔ w ∈ c.ways ∧ p w.val = false := by
  simp [cacheDrop]

/-- What a drop leaves, a search for the dropped finds no more. -/
theorem cacheFind_cacheDrop (c : Cache α) (p : α → Bool) : cacheFind (cacheDrop c p) p = none := by
  simp [cacheFind, cacheDrop, List.find?_eq_none]

/-- After a fill: the new content in its way, and every way of other places. -/
theorem mem_cacheFill (lv set : Nat) (low : Bool) (v : α) (c : Cache α) (w : CacheWay α) :
    w ∈ (cacheFill lv set low v c).ways ↔
      w = { set := set, way := cacheVictim lv set c, val := v } ∨ (w ∈ c.ways ∧ ¬ (w.set = set ∧ w.way = cacheVictim lv set c)) := by
  simp only [cacheFill, cacheTree_ways, List.mem_append, List.mem_filter, List.mem_singleton, Bool.not_eq_true', Bool.and_eq_false_iff,
    decide_eq_false_iff_not]
  tauto

/-- No two ways stand in one place. -/
def Cache.Apart (c : Cache α) : Prop := c.ways.Pairwise (fun a b => ¬ (a.set = b.set ∧ a.way = b.way))

theorem cacheDrop_apart (c : Cache α) (p : α → Bool) (h : c.Apart) : (cacheDrop c p).Apart := h.filter _

theorem cacheTouch_apart (lv : Nat) (w : CacheWay α) (c : Cache α) (h : c.Apart) : (cacheTouch lv w c).Apart := h

theorem cacheFill_apart (lv set : Nat) (low : Bool) (v : α) (c : Cache α) (h : c.Apart) : (cacheFill lv set low v c).Apart := by
  simp only [Cache.Apart, cacheFill, cacheTree_ways]
  refine List.pairwise_append.2 ⟨h.filter _, by simp, fun a ha b hb => ?_⟩
  simp only [List.mem_filter, List.mem_singleton, Bool.not_eq_true', Bool.and_eq_false_iff, decide_eq_false_iff_not] at ha hb
  subst hb
  tauto

theorem plruVictim_lt (tr : BitVec 256) : ∀ lv node acc, plruVictim tr lv node acc < 2 ^ lv * (acc + 1)
  | 0, _, acc => by simp [plruVictim]
  | lv + 1, node, acc => by
    have h := plruVictim_lt tr lv (2 * node + (tr.getLsbD node).toNat) (2 * acc + (tr.getLsbD node).toNat)
    have hb : (tr.getLsbD node).toNat ≤ 1 := Bool.toNat_le _
    simp only [plruVictim]
    calc _ < _ := h
      _ ≤ 2 ^ lv * (2 * (acc + 1)) := Nat.mul_le_mul_left _ (by omega)
      _ = _ := by ring

/-- The way given to a new content is one of the set's. -/
theorem cacheVictim_lt (lv set : Nat) (c : Cache α) : cacheVictim lv set c < 2 ^ lv := by
  simp only [cacheVictim]
  generalize h : (List.range (2 ^ lv)).find? _ = o
  cases o with
  | some i => exact List.mem_range.1 (List.mem_of_find?_eq_some h)
  | none => simpa using plruVictim_lt (mapGet 0 c.trees set) lv 1 0

/-! ### What the passing of an access changes -/

/-- A fold of steps that change one kind of state changes that kind alone. -/
theorem foldl_only {β γ : Type} (upd : State → γ → State) (get : State → γ) (hget : ∀ s, upd s (get s) = s) (hupd : ∀ s a b, upd (upd s a) b = upd s b)
    (f : State → β → State) (hf : ∀ s b, ∃ c, f s b = upd s c) (l : List β) (s : State) : ∃ c, l.foldl f s = upd s c := by
  induction l generalizing s with
  | nil => exact ⟨get s, (hget s).symm⟩
  | cons b l ih =>
    obtain ⟨c, hc⟩ := hf s b
    obtain ⟨d, hd⟩ := ih (f s b)
    exact ⟨d, by rw [List.foldl_cons, hd, hc, hupd]⟩

theorem sliceTouch_only (s : State) (part : Nat × Nat) (cp : Nat) (low : Bool) (pa n : Nat) (write : Bool) :
    ∃ c, sliceTouch s part cp low pa n write = { s with slices := c } := by
  simp only [sliceTouch]
  split
  · exact ⟨_, rfl⟩
  · split
    · exact ⟨s.slices, rfl⟩
    · exact ⟨_, rfl⟩

theorem sliceWrite_only (s : State) (pa n : Nat) : ∃ c, sliceWrite s pa n = { s with slices := c } := by
  refine foldl_only (fun s c => { s with slices := c }) (fun s => s.slices) (fun _ => rfl) (fun _ _ _ => rfl) _ (fun s i => ?_) _ s
  refine foldl_only (fun s c => { s with slices := c }) (fun s => s.slices) (fun _ => rfl) (fun _ _ _ => rfl) _ (fun s p => ?_) _ s
  split
  · exact ⟨s.slices, rfl⟩
  · exact ⟨_, rfl⟩

theorem sliceClean_only (s : State) (pa : Nat) (drop : Bool) : ∃ c, sliceClean s pa drop = { s with slices := c } :=
  foldl_only (fun s c => { s with slices := c }) (fun s => s.slices) (fun _ => rfl) (fun _ _ _ => rfl) _ (fun _ _ => ⟨_, rfl⟩) _ s

theorem slicePass_only (part : Nat × Nat) (low write : Bool) (ts : List Target) (s : State) : ∃ c, slicePass part low write ts s = { s with slices := c } := by
  refine foldl_only (fun s c => { s with slices := c }) (fun s => s.slices) (fun _ => rfl) (fun _ _ _ => rfl) _ (fun s t => ?_) ts s
  cases t with
  | mem pa n cp => exact sliceTouch_only s part cp low pa n write
  | _ => exact ⟨s.slices, rfl⟩

theorem updL1_only (s : State) (core : Nat) (f : Cache L1Line → Cache L1Line) : ∃ c, updL1 s core f = { s with cores := c } := ⟨_, rfl⟩
theorem l1Take_only (s : State) (core pa n : Nat) : ∃ c, l1Take s core pa n = { s with cores := c } := ⟨_, rfl⟩
theorem l1Kill_only (s : State) (core pa n : Nat) : ∃ c, l1Kill s core pa n = { s with cores := c } := ⟨_, rfl⟩
theorem l1KillIn_only (s : State) (part : Nat × Nat) (pa n : Nat) : ∃ c, l1KillIn s part pa n = { s with cores := c } := ⟨_, rfl⟩
theorem l1DropIn_only (s : State) (part : Nat × Nat) : ∃ c, l1DropIn s part = { s with cores := c } := ⟨_, rfl⟩
theorem l1Update_only (s : State) (core pa n : Nat) (f : Nat → Byte) : ∃ c, l1Update s core pa n f = { s with cores := c } := ⟨_, rfl⟩

/-- A load that passes the caches changes lines of slices and of the L1 alone. -/
theorem loadPass_only (part : Nat × Nat) (l1 : Option Nat) (keep low : Bool) (ts : List Target) (s : State) :
    ∃ c : SMap (Cache L2Line) × SMap Core, loadPass part l1 keep low ts s = { s with slices := c.1, cores := c.2 } := by
  refine foldl_only (fun s (c : SMap (Cache L2Line) × SMap Core) => { s with slices := c.1, cores := c.2 }) (fun s => (s.slices, s.cores)) (fun _ => rfl) (fun _ _ _ => rfl) _ (fun s t => ?_) ts s
  cases t with
  | mem pa n cp =>
    simp only
    have touch (s : State) : ∃ c, sliceTouch s part cp low pa n false = { s with slices := c } := sliceTouch_only s part cp low pa n false
    obtain ⟨c, hc⟩ := touch s
    split
    · rw [hc]
      split <;> split <;> exact ⟨(_, _), rfl⟩
    · exact ⟨(c, s.cores), hc⟩
  | _ => exact ⟨(s.slices, s.cores), rfl⟩

theorem tlbKeep_only (via : Via) (e : TlbEntry) (s : State) : ∃ c, tlbKeep via e s = { s with tlb := c } :=
  foldl_only (fun s c => { s with tlb := c }) (fun s => s.tlb) (fun _ => rfl) (fun _ _ _ => rfl) _ (fun _ _ => ⟨_, rfl⟩) _ s

theorem walkKeep_only (die : Nat) (l : List TlbEntry) (s : State) : ∃ c, walkKeep die l s = { s with tlb := c } :=
  foldl_only (fun s c => { s with tlb := c }) (fun s => s.tlb) (fun _ => rfl) (fun _ _ _ => rfl) _ (fun _ _ => ⟨_, rfl⟩) _ s

theorem tlbDrop_only (s : State) (part : Nat × Nat) (f : TlbEntry → Bool) : ∃ c, tlbDrop s part f = { s with tlb := c } := ⟨_, rfl⟩

end Sys2Proof.Machine
end

