-- ==== Sys2Proof/Laws/Sparse.lean ====
section
/-! SUPPORT. Sparse maps: what a read gives after a write, and that every write keeps the canonical form. -/
namespace Sys2Proof.Machine

variable {α : Type}

/-! ### Reads -/

theorem mapGet_append_miss (d : α) (m n : SMap α) (k : Nat) (h : ∀ p ∈ m, p.1 ≠ k) :
    mapGet d (m ++ n) k = mapGet d n k := by
  induction m with
  | nil => rfl
  | cons p r ih =>
    obtain ⟨j, v⟩ := p
    have hj : j ≠ k := h (j, v) (by simp)
    simp [mapGet, hj]
    exact ih (fun q hq => h q (by simp [hq]))

theorem mapGet_filter (d : α) (q : Nat → Bool) (m : SMap α) (k : Nat) (hk : q k = true) :
    mapGet d (m.filter (fun p => q p.1)) k = mapGet d m k := by
  induction m with
  | nil => rfl
  | cons p r ih =>
    obtain ⟨j, v⟩ := p
    by_cases hj : j = k
    · subst hj; simp [hk, mapGet]
    · by_cases hq : q j = true
      · simp [hq, mapGet, hj, ih]
      · simp [hq, mapGet, hj, ih]

theorem mapGet_miss (d : α) (m : SMap α) (k : Nat) (h : ∀ p ∈ m, p.1 ≠ k) : mapGet d m k = d := by
  have := mapGet_append_miss d m [] k h
  simpa [mapGet] using this

theorem mapGet_append_hit (d : α) (m n : SMap α) (k : Nat) (h : ∀ p ∈ n, p.1 ≠ k) :
    mapGet d (m ++ n) k = mapGet d m k := by
  induction m with
  | nil => exact mapGet_miss d n k h
  | cons p r ih =>
    obtain ⟨j, v⟩ := p
    simp only [List.cons_append, mapGet, ih]

theorem mapGet_below (d : α) (m : SMap α) (n k : Nat) :
    mapGet d (mapBelow n m) k = if k < n then mapGet d m k else d := by
  split
  · next h => exact mapGet_filter d (fun j => decide (j < n)) m k (by simpa using h)
  · next h => exact mapGet_miss d _ k (fun p hp => by simp [mapBelow] at hp; omega)

theorem mapGet_from (d : α) (m : SMap α) (n k : Nat) :
    mapGet d (mapFrom n m) k = if n ≤ k then mapGet d m k else d := by
  split
  · next h => exact mapGet_filter d (fun j => decide (n ≤ j)) m k (by simpa using h)
  · next h => exact mapGet_miss d _ k (fun p hp => by simp [mapFrom] at hp; omega)

variable [DecidableEq α]

theorem mapGet_cell (d : α) (k : Nat) (v : α) (j : Nat) : mapGet d (mapCell d k v) j = if j = k then v else d := by
  unfold mapCell
  by_cases h : v = d
  · simp [h, mapGet]
  · by_cases hj : j = k
    · simp [h, mapGet, hj]
    · simp [h, mapGet, hj, Ne.symm hj]

theorem mapCell_key {d : α} {k : Nat} {v : α} {p : Nat × α} (h : p ∈ mapCell d k v) : p.1 = k := by
  unfold mapCell at h
  split at h
  · cases h
  · simp at h; rw [h]

/-- A read after a write of one key. -/
theorem mapGet_set (d : α) (m : SMap α) (k : Nat) (v : α) (j : Nat) :
    mapGet d (mapSet d m k v) j = if j = k then v else mapGet d m j := by
  unfold mapSet
  rcases Nat.lt_trichotomy j k with h | h | h
  · rw [mapGet_append_hit, mapGet_below, if_pos h, if_neg (by omega)]
    intro p hp
    rcases List.mem_append.mp hp with hp | hp
    · rw [mapCell_key hp]; omega
    · simp [mapFrom] at hp; omega
  · rw [mapGet_append_miss, mapGet_append_hit, mapGet_cell]
    · simp [h]
    · intro p hp; simp [mapFrom] at hp; omega
    · intro p hp; simp [mapBelow] at hp; omega
  · rw [mapGet_append_miss, mapGet_append_miss, mapGet_from, if_pos (by omega), if_neg (by omega)]
    · intro p hp; rw [mapCell_key hp]; omega
    · intro p hp; simp [mapBelow] at hp; omega

theorem mapCells_key {d : α} {base : Nat} {f : Nat → α} {n : Nat} {rest : SMap α} {p : Nat × α}
    (h : p ∈ mapCells d base f n rest) : p ∈ rest ∨ (base ≤ p.1 ∧ p.1 < base + n) := by
  induction n generalizing rest with
  | zero => exact .inl h
  | succ n ih =>
    rcases ih h with h | h
    · rcases List.mem_append.mp h with h | h
      · right; rw [mapCell_key h]; omega
      · exact .inl h
    · right; omega

theorem mapGet_cells (d : α) (base : Nat) (f : Nat → α) (n : Nat) (rest : SMap α) (j : Nat)
    (h : ∀ p ∈ rest, ¬ (base ≤ p.1 ∧ p.1 < base + n)) :
    mapGet d (mapCells d base f n rest) j = if base ≤ j ∧ j < base + n then f (j - base) else mapGet d rest j := by
  induction n generalizing rest with
  | zero => rw [if_neg (by omega)]; rfl
  | succ n ih =>
    rw [mapCells, ih]
    · by_cases hn : base ≤ j ∧ j < base + n
      · rw [if_pos hn, if_pos (by omega)]
      · rw [if_neg hn]
        by_cases hj : j = base + n
        · subst hj
          rw [if_pos (by omega), mapGet_append_hit, mapGet_cell, if_pos rfl, Nat.add_sub_cancel_left]
          intro p hp; have := h p hp; omega
        · rw [if_neg (by omega), mapGet_append_miss]
          intro p hp; rw [mapCell_key hp]; omega
    · intro p hp
      rcases List.mem_append.mp hp with hp | hp
      · rw [mapCell_key hp]; omega
      · have := h p hp; omega

/-- A read after a write of some keys in a row. -/
theorem mapGet_put (d : α) (m : SMap α) (base n : Nat) (f : Nat → α) (j : Nat) :
    mapGet d (mapPut d m base n f) j = if base ≤ j ∧ j < base + n then f (j - base) else mapGet d m j := by
  have hf : ∀ p ∈ mapFrom (base + n) m, ¬ (base ≤ p.1 ∧ p.1 < base + n) := by
    intro p hp; simp [mapFrom] at hp; omega
  unfold mapPut
  by_cases hj : j < base
  · rw [mapGet_append_hit, mapGet_below, if_pos hj, if_neg (by omega)]
    intro p hp
    rcases mapCells_key hp with hp | hp
    · simp [mapFrom] at hp; omega
    · omega
  · rw [mapGet_append_miss, mapGet_cells _ _ _ _ _ _ hf, mapGet_from]
    · by_cases h : j < base + n
      · rw [if_pos (by omega), if_pos (by omega)]
      · rw [if_neg (by omega), if_pos (by omega), if_neg (by omega)]
    · intro p hp; simp [mapBelow] at hp; omega

/-! ### The canonical form -/

theorem mapWfFrom_iff (d : α) (lo : Nat) (m : SMap α) :
    mapWfFrom d lo m = true ↔ (∀ p ∈ m, lo ≤ p.1 ∧ p.2 ≠ d) ∧ m.Pairwise (fun p q => p.1 < q.1) := by
  induction m generalizing lo with
  | nil => simp [mapWfFrom]
  | cons p r ih =>
    obtain ⟨k, v⟩ := p
    simp only [mapWfFrom, Bool.and_eq_true, decide_eq_true_eq, ih, List.pairwise_cons, List.mem_cons, forall_eq_or_imp]
    constructor
    · rintro ⟨⟨a, b⟩, c, e⟩
      exact ⟨⟨⟨a, b⟩, fun q hq => ⟨by have := (c q hq).1; omega, (c q hq).2⟩⟩, fun q hq => by have := (c q hq).1; simp; omega, e⟩
    · rintro ⟨⟨⟨a, b⟩, c⟩, e, f⟩
      exact ⟨⟨a, b⟩, fun q hq => ⟨by have := e q hq; omega, (c q hq).2⟩, f⟩

/-- The canonical form as a statement about the entries. -/
theorem mapWf_iff (d : α) (m : SMap α) :
    mapWf d m = true ↔ (∀ p ∈ m, p.2 ≠ d) ∧ m.Pairwise (fun p q => p.1 < q.1) := by
  unfold mapWf; rw [mapWfFrom_iff]; simp

theorem mapWf_filter (d : α) (q : Nat × α → Bool) (m : SMap α) (h : mapWf d m = true) : mapWf d (m.filter q) = true := by
  rw [mapWf_iff] at *
  exact ⟨fun p hp => h.1 p (List.mem_filter.mp hp).1, h.2.filter q⟩

theorem mapWf_below (d : α) (m : SMap α) (n : Nat) (h : mapWf d m = true) : mapWf d (mapBelow n m) = true := mapWf_filter d _ m h

theorem mapWf_from (d : α) (m : SMap α) (n : Nat) (h : mapWf d m = true) : mapWf d (mapFrom n m) = true := mapWf_filter d _ m h

theorem mapWf_append (d : α) (m n : SMap α) (hm : mapWf d m = true) (hn : mapWf d n = true)
    (h : ∀ p ∈ m, ∀ q ∈ n, p.1 < q.1) : mapWf d (m ++ n) = true := by
  rw [mapWf_iff] at *
  refine ⟨fun p hp => ?_, List.pairwise_append.mpr ⟨hm.2, hn.2, h⟩⟩
  rcases List.mem_append.mp hp with hp | hp
  · exact hm.1 p hp
  · exact hn.1 p hp

theorem mapWf_cell (d : α) (k : Nat) (v : α) : mapWf d (mapCell d k v) = true := by
  unfold mapCell
  split
  · rfl
  · next h => rw [mapWf_iff]; simp [h]

/-- A cut of a range keeps the canonical form. -/
theorem mapWf_cut (d : α) (m : SMap α) (a b : Nat) (hab : a ≤ b) (h : mapWf d m = true) :
    mapWf d (mapBelow a m ++ mapFrom b m) = true := by
  apply mapWf_append _ _ _ (mapWf_below d m a h) (mapWf_from d m b h)
  intro p hp q hq
  simp [mapBelow] at hp
  simp [mapFrom] at hq
  omega

/-- A write of one key keeps the canonical form. -/
theorem mapWf_set (d : α) (m : SMap α) (k : Nat) (v : α) (h : mapWf d m = true) : mapWf d (mapSet d m k v) = true := by
  unfold mapSet
  apply mapWf_append _ _ _ (mapWf_below d m k h)
  · apply mapWf_append _ _ _ (mapWf_cell d k v) (mapWf_from d m _ h)
    intro p hp q hq
    rw [mapCell_key hp]
    simp [mapFrom] at hq
    omega
  · intro p hp q hq
    simp [mapBelow] at hp
    rcases List.mem_append.mp hq with hq | hq
    · rw [mapCell_key hq]; omega
    · simp [mapFrom] at hq; omega

theorem mapWf_cells (d : α) (base : Nat) (f : Nat → α) (n : Nat) (rest : SMap α) (h : mapWf d rest = true)
    (hr : ∀ p ∈ rest, base + n ≤ p.1) : mapWf d (mapCells d base f n rest) = true := by
  induction n generalizing rest with
  | zero => exact h
  | succ n ih =>
    rw [mapCells]
    apply ih
    · apply mapWf_append _ _ _ (mapWf_cell d _ _) h
      intro p hp q hq
      rw [mapCell_key hp]
      have := hr q hq
      omega
    · intro p hp
      rcases List.mem_append.mp hp with hp | hp
      · have := mapCell_key hp; omega
      · have := hr p hp; omega

/-- A write of some keys in a row keeps the canonical form. -/
theorem mapWf_put (d : α) (m : SMap α) (base n : Nat) (f : Nat → α) (h : mapWf d m = true) :
    mapWf d (mapPut d m base n f) = true := by
  unfold mapPut
  apply mapWf_append _ _ _ (mapWf_below d m base h)
  · apply mapWf_cells _ _ _ _ _ (mapWf_from d m _ h)
    intro p hp; simp [mapFrom] at hp; omega
  · intro p hp q hq
    simp [mapBelow] at hp
    rcases mapCells_key hq with hq | hq
    · simp [mapFrom] at hq; omega
    · omega

end Sys2Proof.Machine
end

