-- ==== Sys2Proof/Laws/State.lean ====
section
/-! SUPPORT. What each named update of the state leaves in each field, by unfolding; later proofs cite these. -/
namespace Sys2Proof.Machine

/-! ### updCtx -/

@[simp] theorem updCtx_mem (s : State) (c : Nat) (f : Ctx → Ctx) : (updCtx s c f).mem = s.mem := rfl
@[simp] theorem updCtx_tags (s : State) (c : Nat) (f : Ctx → Ctx) : (updCtx s c f).tags = s.tags := rfl
@[simp] theorem updCtx_poison (s : State) (c : Nat) (f : Ctx → Ctx) : (updCtx s c f).poison = s.poison := rfl
@[simp] theorem updCtx_teams (s : State) (c : Nat) (f : Ctx → Ctx) : (updCtx s c f).teams = s.teams := rfl
@[simp] theorem updCtx_cores (s : State) (c : Nat) (f : Ctx → Ctx) : (updCtx s c f).cores = s.cores := rfl
@[simp] theorem updCtx_blocks (s : State) (c : Nat) (f : Ctx → Ctx) : (updCtx s c f).blocks = s.blocks := rfl
@[simp] theorem updCtx_dispatches (s : State) (c : Nat) (f : Ctx → Ctx) : (updCtx s c f).dispatches = s.dispatches := rfl
@[simp] theorem updCtx_stamps (s : State) (c : Nat) (f : Ctx → Ctx) : (updCtx s c f).stamps = s.stamps := rfl
@[simp] theorem updCtx_watches (s : State) (c : Nat) (f : Ctx → Ctx) : (updCtx s c f).watches = s.watches := rfl
@[simp] theorem updCtx_sideLog (s : State) (c : Nat) (f : Ctx → Ctx) : (updCtx s c f).sideLog = s.sideLog := rfl
@[simp] theorem updCtx_agenda (s : State) (c : Nat) (f : Ctx → Ctx) : (updCtx s c f).agenda = s.agenda := rfl
@[simp] theorem updCtx_event (s : State) (c : Nat) (f : Ctx → Ctx) : (updCtx s c f).event = s.event := rfl
@[simp] theorem updCtx_issueQ (s : State) (c : Nat) (f : Ctx → Ctx) : (updCtx s c f).issueQ = s.issueQ := rfl
@[simp] theorem updCtx_fresh (s : State) (c : Nat) (f : Ctx → Ctx) : (updCtx s c f).fresh = s.fresh := rfl
@[simp] theorem updCtx_nextOp (s : State) (c : Nat) (f : Ctx → Ctx) : (updCtx s c f).nextOp = s.nextOp := rfl
@[simp] theorem updCtx_cycle (s : State) (c : Nat) (f : Ctx → Ctx) : (updCtx s c f).cycle = s.cycle := rfl
@[simp] theorem updCtx_xeOps (s : State) (c : Nat) (f : Ctx → Ctx) : (updCtx s c f).xeOps = s.xeOps := rfl
@[simp] theorem updCtx_mqOps (s : State) (c : Nat) (f : Ctx → Ctx) : (updCtx s c f).mqOps = s.mqOps := rfl
@[simp] theorem updCtx_exchanges (s : State) (c : Nat) (f : Ctx → Ctx) : (updCtx s c f).exchanges = s.exchanges := rfl
@[simp] theorem updCtx_deliveries (s : State) (c : Nat) (f : Ctx → Ctx) : (updCtx s c f).deliveries = s.deliveries := rfl
@[simp] theorem updCtx_outReqs (s : State) (c : Nat) (f : Ctx → Ctx) : (updCtx s c f).outReqs = s.outReqs := rfl
@[simp] theorem updCtx_flushes (s : State) (c : Nat) (f : Ctx → Ctx) : (updCtx s c f).flushes = s.flushes := rfl
@[simp] theorem updCtx_binds (s : State) (c : Nat) (f : Ctx → Ctx) : (updCtx s c f).binds = s.binds := rfl
@[simp] theorem updCtx_portQ (s : State) (c : Nat) (f : Ctx → Ctx) : (updCtx s c f).portQ = s.portQ := rfl
@[simp] theorem updCtx_hostOut (s : State) (c : Nat) (f : Ctx → Ctx) : (updCtx s c f).hostOut = s.hostOut := rfl
@[simp] theorem updCtx_inbox (s : State) (c : Nat) (f : Ctx → Ctx) : (updCtx s c f).inbox = s.inbox := rfl
@[simp] theorem updCtx_gates (s : State) (c : Nat) (f : Ctx → Ctx) : (updCtx s c f).gates = s.gates := rfl
@[simp] theorem updCtx_taking (s : State) (c : Nat) (f : Ctx → Ctx) : (updCtx s c f).taking = s.taking := rfl
@[simp] theorem updCtx_tlb (s : State) (c : Nat) (f : Ctx → Ctx) : (updCtx s c f).tlb = s.tlb := rfl
@[simp] theorem updCtx_slices (s : State) (c : Nat) (f : Ctx → Ctx) : (updCtx s c f).slices = s.slices := rfl
@[simp] theorem updCtx_stale (s : State) (c : Nat) (f : Ctx → Ctx) : (updCtx s c f).stale = s.stale := rfl
@[simp] theorem updCtx_posted (s : State) (c : Nat) (f : Ctx → Ctx) : (updCtx s c f).posted = s.posted := rfl
@[simp] theorem updCtx_fetched (s : State) (c : Nat) (f : Ctx → Ctx) : (updCtx s c f).fetched = s.fetched := rfl
@[simp] theorem updCtx_reqNum (s : State) (c : Nat) (f : Ctx → Ctx) : (updCtx s c f).reqNum = s.reqNum := rfl
@[simp] theorem updCtx_stepPend (s : State) (c : Nat) (f : Ctx → Ctx) : (updCtx s c f).stepPend = s.stepPend := rfl
@[simp] theorem updCtx_network (s : State) (c : Nat) (f : Ctx → Ctx) : (updCtx s c f).network = s.network := rfl
@[simp] theorem updCtx_band (s : State) (c : Nat) (f : Ctx → Ctx) : (updCtx s c f).band = s.band := rfl
@[simp] theorem updCtx_occs (s : State) (c : Nat) (f : Ctx → Ctx) : (updCtx s c f).occs = s.occs := rfl
@[simp] theorem updCtx_portMap (s : State) (c : Nat) (f : Ctx → Ctx) : (updCtx s c f).portMap = s.portMap := rfl
@[simp] theorem updCtx_timexSent (s : State) (c : Nat) (f : Ctx → Ctx) : (updCtx s c f).timexSent = s.timexSent := rfl
@[simp] theorem updCtx_replies (s : State) (c : Nat) (f : Ctx → Ctx) : (updCtx s c f).replies = s.replies := rfl
@[simp] theorem updCtx_streamTab (s : State) (c : Nat) (f : Ctx → Ctx) : (updCtx s c f).streamTab = s.streamTab := rfl
@[simp] theorem updCtx_outbox (s : State) (c : Nat) (f : Ctx → Ctx) : (updCtx s c f).outbox = s.outbox := rfl

/-! ### updCore -/

@[simp] theorem updCore_mem (s : State) (c : Nat) (f : Core → Core) : (updCore s c f).mem = s.mem := rfl
@[simp] theorem updCore_tags (s : State) (c : Nat) (f : Core → Core) : (updCore s c f).tags = s.tags := rfl
@[simp] theorem updCore_poison (s : State) (c : Nat) (f : Core → Core) : (updCore s c f).poison = s.poison := rfl
@[simp] theorem updCore_teams (s : State) (c : Nat) (f : Core → Core) : (updCore s c f).teams = s.teams := rfl
@[simp] theorem updCore_ctxs (s : State) (c : Nat) (f : Core → Core) : (updCore s c f).ctxs = s.ctxs := rfl
@[simp] theorem updCore_blocks (s : State) (c : Nat) (f : Core → Core) : (updCore s c f).blocks = s.blocks := rfl
@[simp] theorem updCore_dispatches (s : State) (c : Nat) (f : Core → Core) : (updCore s c f).dispatches = s.dispatches := rfl
@[simp] theorem updCore_stamps (s : State) (c : Nat) (f : Core → Core) : (updCore s c f).stamps = s.stamps := rfl
@[simp] theorem updCore_watches (s : State) (c : Nat) (f : Core → Core) : (updCore s c f).watches = s.watches := rfl
@[simp] theorem updCore_sideLog (s : State) (c : Nat) (f : Core → Core) : (updCore s c f).sideLog = s.sideLog := rfl
@[simp] theorem updCore_agenda (s : State) (c : Nat) (f : Core → Core) : (updCore s c f).agenda = s.agenda := rfl
@[simp] theorem updCore_event (s : State) (c : Nat) (f : Core → Core) : (updCore s c f).event = s.event := rfl
@[simp] theorem updCore_issueQ (s : State) (c : Nat) (f : Core → Core) : (updCore s c f).issueQ = s.issueQ := rfl
@[simp] theorem updCore_fresh (s : State) (c : Nat) (f : Core → Core) : (updCore s c f).fresh = s.fresh := rfl
@[simp] theorem updCore_nextOp (s : State) (c : Nat) (f : Core → Core) : (updCore s c f).nextOp = s.nextOp := rfl
@[simp] theorem updCore_cycle (s : State) (c : Nat) (f : Core → Core) : (updCore s c f).cycle = s.cycle := rfl
@[simp] theorem updCore_xeOps (s : State) (c : Nat) (f : Core → Core) : (updCore s c f).xeOps = s.xeOps := rfl
@[simp] theorem updCore_mqOps (s : State) (c : Nat) (f : Core → Core) : (updCore s c f).mqOps = s.mqOps := rfl
@[simp] theorem updCore_exchanges (s : State) (c : Nat) (f : Core → Core) : (updCore s c f).exchanges = s.exchanges := rfl
@[simp] theorem updCore_deliveries (s : State) (c : Nat) (f : Core → Core) : (updCore s c f).deliveries = s.deliveries := rfl
@[simp] theorem updCore_outReqs (s : State) (c : Nat) (f : Core → Core) : (updCore s c f).outReqs = s.outReqs := rfl
@[simp] theorem updCore_flushes (s : State) (c : Nat) (f : Core → Core) : (updCore s c f).flushes = s.flushes := rfl
@[simp] theorem updCore_binds (s : State) (c : Nat) (f : Core → Core) : (updCore s c f).binds = s.binds := rfl
@[simp] theorem updCore_portQ (s : State) (c : Nat) (f : Core → Core) : (updCore s c f).portQ = s.portQ := rfl
@[simp] theorem updCore_hostOut (s : State) (c : Nat) (f : Core → Core) : (updCore s c f).hostOut = s.hostOut := rfl
@[simp] theorem updCore_inbox (s : State) (c : Nat) (f : Core → Core) : (updCore s c f).inbox = s.inbox := rfl
@[simp] theorem updCore_gates (s : State) (c : Nat) (f : Core → Core) : (updCore s c f).gates = s.gates := rfl
@[simp] theorem updCore_taking (s : State) (c : Nat) (f : Core → Core) : (updCore s c f).taking = s.taking := rfl
@[simp] theorem updCore_tlb (s : State) (c : Nat) (f : Core → Core) : (updCore s c f).tlb = s.tlb := rfl
@[simp] theorem updCore_slices (s : State) (c : Nat) (f : Core → Core) : (updCore s c f).slices = s.slices := rfl
@[simp] theorem updCore_stale (s : State) (c : Nat) (f : Core → Core) : (updCore s c f).stale = s.stale := rfl
@[simp] theorem updCore_posted (s : State) (c : Nat) (f : Core → Core) : (updCore s c f).posted = s.posted := rfl
@[simp] theorem updCore_fetched (s : State) (c : Nat) (f : Core → Core) : (updCore s c f).fetched = s.fetched := rfl
@[simp] theorem updCore_reqNum (s : State) (c : Nat) (f : Core → Core) : (updCore s c f).reqNum = s.reqNum := rfl
@[simp] theorem updCore_stepPend (s : State) (c : Nat) (f : Core → Core) : (updCore s c f).stepPend = s.stepPend := rfl
@[simp] theorem updCore_network (s : State) (c : Nat) (f : Core → Core) : (updCore s c f).network = s.network := rfl
@[simp] theorem updCore_band (s : State) (c : Nat) (f : Core → Core) : (updCore s c f).band = s.band := rfl
@[simp] theorem updCore_occs (s : State) (c : Nat) (f : Core → Core) : (updCore s c f).occs = s.occs := rfl
@[simp] theorem updCore_portMap (s : State) (c : Nat) (f : Core → Core) : (updCore s c f).portMap = s.portMap := rfl
@[simp] theorem updCore_timexSent (s : State) (c : Nat) (f : Core → Core) : (updCore s c f).timexSent = s.timexSent := rfl
@[simp] theorem updCore_replies (s : State) (c : Nat) (f : Core → Core) : (updCore s c f).replies = s.replies := rfl
@[simp] theorem updCore_streamTab (s : State) (c : Nat) (f : Core → Core) : (updCore s c f).streamTab = s.streamTab := rfl
@[simp] theorem updCore_outbox (s : State) (c : Nat) (f : Core → Core) : (updCore s c f).outbox = s.outbox := rfl

/-! ### updTeam -/

@[simp] theorem updTeam_mem (s : State) (k : TeamKey) (f : Team → Team) : (updTeam s k f).mem = s.mem := rfl
@[simp] theorem updTeam_tags (s : State) (k : TeamKey) (f : Team → Team) : (updTeam s k f).tags = s.tags := rfl
@[simp] theorem updTeam_poison (s : State) (k : TeamKey) (f : Team → Team) : (updTeam s k f).poison = s.poison := rfl
@[simp] theorem updTeam_ctxs (s : State) (k : TeamKey) (f : Team → Team) : (updTeam s k f).ctxs = s.ctxs := rfl
@[simp] theorem updTeam_cores (s : State) (k : TeamKey) (f : Team → Team) : (updTeam s k f).cores = s.cores := rfl
@[simp] theorem updTeam_blocks (s : State) (k : TeamKey) (f : Team → Team) : (updTeam s k f).blocks = s.blocks := rfl
@[simp] theorem updTeam_dispatches (s : State) (k : TeamKey) (f : Team → Team) : (updTeam s k f).dispatches = s.dispatches := rfl
@[simp] theorem updTeam_stamps (s : State) (k : TeamKey) (f : Team → Team) : (updTeam s k f).stamps = s.stamps := rfl
@[simp] theorem updTeam_watches (s : State) (k : TeamKey) (f : Team → Team) : (updTeam s k f).watches = s.watches := rfl
@[simp] theorem updTeam_sideLog (s : State) (k : TeamKey) (f : Team → Team) : (updTeam s k f).sideLog = s.sideLog := rfl
@[simp] theorem updTeam_agenda (s : State) (k : TeamKey) (f : Team → Team) : (updTeam s k f).agenda = s.agenda := rfl
@[simp] theorem updTeam_event (s : State) (k : TeamKey) (f : Team → Team) : (updTeam s k f).event = s.event := rfl
@[simp] theorem updTeam_issueQ (s : State) (k : TeamKey) (f : Team → Team) : (updTeam s k f).issueQ = s.issueQ := rfl
@[simp] theorem updTeam_fresh (s : State) (k : TeamKey) (f : Team → Team) : (updTeam s k f).fresh = s.fresh := rfl
@[simp] theorem updTeam_nextOp (s : State) (k : TeamKey) (f : Team → Team) : (updTeam s k f).nextOp = s.nextOp := rfl
@[simp] theorem updTeam_cycle (s : State) (k : TeamKey) (f : Team → Team) : (updTeam s k f).cycle = s.cycle := rfl
@[simp] theorem updTeam_xeOps (s : State) (k : TeamKey) (f : Team → Team) : (updTeam s k f).xeOps = s.xeOps := rfl
@[simp] theorem updTeam_mqOps (s : State) (k : TeamKey) (f : Team → Team) : (updTeam s k f).mqOps = s.mqOps := rfl
@[simp] theorem updTeam_exchanges (s : State) (k : TeamKey) (f : Team → Team) : (updTeam s k f).exchanges = s.exchanges := rfl
@[simp] theorem updTeam_deliveries (s : State) (k : TeamKey) (f : Team → Team) : (updTeam s k f).deliveries = s.deliveries := rfl
@[simp] theorem updTeam_outReqs (s : State) (k : TeamKey) (f : Team → Team) : (updTeam s k f).outReqs = s.outReqs := rfl
@[simp] theorem updTeam_flushes (s : State) (k : TeamKey) (f : Team → Team) : (updTeam s k f).flushes = s.flushes := rfl
@[simp] theorem updTeam_binds (s : State) (k : TeamKey) (f : Team → Team) : (updTeam s k f).binds = s.binds := rfl
@[simp] theorem updTeam_portQ (s : State) (k : TeamKey) (f : Team → Team) : (updTeam s k f).portQ = s.portQ := rfl
@[simp] theorem updTeam_hostOut (s : State) (k : TeamKey) (f : Team → Team) : (updTeam s k f).hostOut = s.hostOut := rfl
@[simp] theorem updTeam_inbox (s : State) (k : TeamKey) (f : Team → Team) : (updTeam s k f).inbox = s.inbox := rfl
@[simp] theorem updTeam_gates (s : State) (k : TeamKey) (f : Team → Team) : (updTeam s k f).gates = s.gates := rfl
@[simp] theorem updTeam_taking (s : State) (k : TeamKey) (f : Team → Team) : (updTeam s k f).taking = s.taking := rfl
@[simp] theorem updTeam_tlb (s : State) (k : TeamKey) (f : Team → Team) : (updTeam s k f).tlb = s.tlb := rfl
@[simp] theorem updTeam_slices (s : State) (k : TeamKey) (f : Team → Team) : (updTeam s k f).slices = s.slices := rfl
@[simp] theorem updTeam_stale (s : State) (k : TeamKey) (f : Team → Team) : (updTeam s k f).stale = s.stale := rfl
@[simp] theorem updTeam_posted (s : State) (k : TeamKey) (f : Team → Team) : (updTeam s k f).posted = s.posted := rfl
@[simp] theorem updTeam_fetched (s : State) (k : TeamKey) (f : Team → Team) : (updTeam s k f).fetched = s.fetched := rfl
@[simp] theorem updTeam_reqNum (s : State) (k : TeamKey) (f : Team → Team) : (updTeam s k f).reqNum = s.reqNum := rfl
@[simp] theorem updTeam_stepPend (s : State) (k : TeamKey) (f : Team → Team) : (updTeam s k f).stepPend = s.stepPend := rfl
@[simp] theorem updTeam_network (s : State) (k : TeamKey) (f : Team → Team) : (updTeam s k f).network = s.network := rfl
@[simp] theorem updTeam_band (s : State) (k : TeamKey) (f : Team → Team) : (updTeam s k f).band = s.band := rfl
@[simp] theorem updTeam_occs (s : State) (k : TeamKey) (f : Team → Team) : (updTeam s k f).occs = s.occs := rfl
@[simp] theorem updTeam_portMap (s : State) (k : TeamKey) (f : Team → Team) : (updTeam s k f).portMap = s.portMap := rfl
@[simp] theorem updTeam_timexSent (s : State) (k : TeamKey) (f : Team → Team) : (updTeam s k f).timexSent = s.timexSent := rfl
@[simp] theorem updTeam_replies (s : State) (k : TeamKey) (f : Team → Team) : (updTeam s k f).replies = s.replies := rfl
@[simp] theorem updTeam_streamTab (s : State) (k : TeamKey) (f : Team → Team) : (updTeam s k f).streamTab = s.streamTab := rfl
@[simp] theorem updTeam_outbox (s : State) (k : TeamKey) (f : Team → Team) : (updTeam s k f).outbox = s.outbox := rfl

/-! ### updSplit -/

@[simp] theorem updSplit_mem (s : State) (r : SplitRef) (f : Split → Split) : (updSplit s r f).mem = s.mem := rfl
@[simp] theorem updSplit_tags (s : State) (r : SplitRef) (f : Split → Split) : (updSplit s r f).tags = s.tags := rfl
@[simp] theorem updSplit_poison (s : State) (r : SplitRef) (f : Split → Split) : (updSplit s r f).poison = s.poison := rfl
@[simp] theorem updSplit_ctxs (s : State) (r : SplitRef) (f : Split → Split) : (updSplit s r f).ctxs = s.ctxs := rfl
@[simp] theorem updSplit_cores (s : State) (r : SplitRef) (f : Split → Split) : (updSplit s r f).cores = s.cores := rfl
@[simp] theorem updSplit_blocks (s : State) (r : SplitRef) (f : Split → Split) : (updSplit s r f).blocks = s.blocks := rfl
@[simp] theorem updSplit_dispatches (s : State) (r : SplitRef) (f : Split → Split) : (updSplit s r f).dispatches = s.dispatches := rfl
@[simp] theorem updSplit_stamps (s : State) (r : SplitRef) (f : Split → Split) : (updSplit s r f).stamps = s.stamps := rfl
@[simp] theorem updSplit_watches (s : State) (r : SplitRef) (f : Split → Split) : (updSplit s r f).watches = s.watches := rfl
@[simp] theorem updSplit_sideLog (s : State) (r : SplitRef) (f : Split → Split) : (updSplit s r f).sideLog = s.sideLog := rfl
@[simp] theorem updSplit_agenda (s : State) (r : SplitRef) (f : Split → Split) : (updSplit s r f).agenda = s.agenda := rfl
@[simp] theorem updSplit_event (s : State) (r : SplitRef) (f : Split → Split) : (updSplit s r f).event = s.event := rfl
@[simp] theorem updSplit_issueQ (s : State) (r : SplitRef) (f : Split → Split) : (updSplit s r f).issueQ = s.issueQ := rfl
@[simp] theorem updSplit_fresh (s : State) (r : SplitRef) (f : Split → Split) : (updSplit s r f).fresh = s.fresh := rfl
@[simp] theorem updSplit_nextOp (s : State) (r : SplitRef) (f : Split → Split) : (updSplit s r f).nextOp = s.nextOp := rfl
@[simp] theorem updSplit_cycle (s : State) (r : SplitRef) (f : Split → Split) : (updSplit s r f).cycle = s.cycle := rfl
@[simp] theorem updSplit_xeOps (s : State) (r : SplitRef) (f : Split → Split) : (updSplit s r f).xeOps = s.xeOps := rfl
@[simp] theorem updSplit_mqOps (s : State) (r : SplitRef) (f : Split → Split) : (updSplit s r f).mqOps = s.mqOps := rfl
@[simp] theorem updSplit_exchanges (s : State) (r : SplitRef) (f : Split → Split) : (updSplit s r f).exchanges = s.exchanges := rfl
@[simp] theorem updSplit_deliveries (s : State) (r : SplitRef) (f : Split → Split) : (updSplit s r f).deliveries = s.deliveries := rfl
@[simp] theorem updSplit_outReqs (s : State) (r : SplitRef) (f : Split → Split) : (updSplit s r f).outReqs = s.outReqs := rfl
@[simp] theorem updSplit_flushes (s : State) (r : SplitRef) (f : Split → Split) : (updSplit s r f).flushes = s.flushes := rfl
@[simp] theorem updSplit_binds (s : State) (r : SplitRef) (f : Split → Split) : (updSplit s r f).binds = s.binds := rfl
@[simp] theorem updSplit_portQ (s : State) (r : SplitRef) (f : Split → Split) : (updSplit s r f).portQ = s.portQ := rfl
@[simp] theorem updSplit_hostOut (s : State) (r : SplitRef) (f : Split → Split) : (updSplit s r f).hostOut = s.hostOut := rfl
@[simp] theorem updSplit_inbox (s : State) (r : SplitRef) (f : Split → Split) : (updSplit s r f).inbox = s.inbox := rfl
@[simp] theorem updSplit_gates (s : State) (r : SplitRef) (f : Split → Split) : (updSplit s r f).gates = s.gates := rfl
@[simp] theorem updSplit_taking (s : State) (r : SplitRef) (f : Split → Split) : (updSplit s r f).taking = s.taking := rfl
@[simp] theorem updSplit_tlb (s : State) (r : SplitRef) (f : Split → Split) : (updSplit s r f).tlb = s.tlb := rfl
@[simp] theorem updSplit_slices (s : State) (r : SplitRef) (f : Split → Split) : (updSplit s r f).slices = s.slices := rfl
@[simp] theorem updSplit_stale (s : State) (r : SplitRef) (f : Split → Split) : (updSplit s r f).stale = s.stale := rfl
@[simp] theorem updSplit_posted (s : State) (r : SplitRef) (f : Split → Split) : (updSplit s r f).posted = s.posted := rfl
@[simp] theorem updSplit_fetched (s : State) (r : SplitRef) (f : Split → Split) : (updSplit s r f).fetched = s.fetched := rfl
@[simp] theorem updSplit_reqNum (s : State) (r : SplitRef) (f : Split → Split) : (updSplit s r f).reqNum = s.reqNum := rfl
@[simp] theorem updSplit_stepPend (s : State) (r : SplitRef) (f : Split → Split) : (updSplit s r f).stepPend = s.stepPend := rfl
@[simp] theorem updSplit_network (s : State) (r : SplitRef) (f : Split → Split) : (updSplit s r f).network = s.network := rfl
@[simp] theorem updSplit_band (s : State) (r : SplitRef) (f : Split → Split) : (updSplit s r f).band = s.band := rfl
@[simp] theorem updSplit_occs (s : State) (r : SplitRef) (f : Split → Split) : (updSplit s r f).occs = s.occs := rfl
@[simp] theorem updSplit_portMap (s : State) (r : SplitRef) (f : Split → Split) : (updSplit s r f).portMap = s.portMap := rfl
@[simp] theorem updSplit_timexSent (s : State) (r : SplitRef) (f : Split → Split) : (updSplit s r f).timexSent = s.timexSent := rfl
@[simp] theorem updSplit_replies (s : State) (r : SplitRef) (f : Split → Split) : (updSplit s r f).replies = s.replies := rfl
@[simp] theorem updSplit_streamTab (s : State) (r : SplitRef) (f : Split → Split) : (updSplit s r f).streamTab = s.streamTab := rfl
@[simp] theorem updSplit_outbox (s : State) (r : SplitRef) (f : Split → Split) : (updSplit s r f).outbox = s.outbox := rfl

/-! ### updBlock -/

@[simp] theorem updBlock_mem (s : State) (d : BitVec 64) (i : Nat) (f : Block → Block) : (updBlock s d i f).mem = s.mem := rfl
@[simp] theorem updBlock_tags (s : State) (d : BitVec 64) (i : Nat) (f : Block → Block) : (updBlock s d i f).tags = s.tags := rfl
@[simp] theorem updBlock_poison (s : State) (d : BitVec 64) (i : Nat) (f : Block → Block) : (updBlock s d i f).poison = s.poison := rfl
@[simp] theorem updBlock_teams (s : State) (d : BitVec 64) (i : Nat) (f : Block → Block) : (updBlock s d i f).teams = s.teams := rfl
@[simp] theorem updBlock_ctxs (s : State) (d : BitVec 64) (i : Nat) (f : Block → Block) : (updBlock s d i f).ctxs = s.ctxs := rfl
@[simp] theorem updBlock_cores (s : State) (d : BitVec 64) (i : Nat) (f : Block → Block) : (updBlock s d i f).cores = s.cores := rfl
@[simp] theorem updBlock_dispatches (s : State) (d : BitVec 64) (i : Nat) (f : Block → Block) : (updBlock s d i f).dispatches = s.dispatches := rfl
@[simp] theorem updBlock_stamps (s : State) (d : BitVec 64) (i : Nat) (f : Block → Block) : (updBlock s d i f).stamps = s.stamps := rfl
@[simp] theorem updBlock_watches (s : State) (d : BitVec 64) (i : Nat) (f : Block → Block) : (updBlock s d i f).watches = s.watches := rfl
@[simp] theorem updBlock_sideLog (s : State) (d : BitVec 64) (i : Nat) (f : Block → Block) : (updBlock s d i f).sideLog = s.sideLog := rfl
@[simp] theorem updBlock_agenda (s : State) (d : BitVec 64) (i : Nat) (f : Block → Block) : (updBlock s d i f).agenda = s.agenda := rfl
@[simp] theorem updBlock_event (s : State) (d : BitVec 64) (i : Nat) (f : Block → Block) : (updBlock s d i f).event = s.event := rfl
@[simp] theorem updBlock_issueQ (s : State) (d : BitVec 64) (i : Nat) (f : Block → Block) : (updBlock s d i f).issueQ = s.issueQ := rfl
@[simp] theorem updBlock_fresh (s : State) (d : BitVec 64) (i : Nat) (f : Block → Block) : (updBlock s d i f).fresh = s.fresh := rfl
@[simp] theorem updBlock_nextOp (s : State) (d : BitVec 64) (i : Nat) (f : Block → Block) : (updBlock s d i f).nextOp = s.nextOp := rfl
@[simp] theorem updBlock_cycle (s : State) (d : BitVec 64) (i : Nat) (f : Block → Block) : (updBlock s d i f).cycle = s.cycle := rfl
@[simp] theorem updBlock_xeOps (s : State) (d : BitVec 64) (i : Nat) (f : Block → Block) : (updBlock s d i f).xeOps = s.xeOps := rfl
@[simp] theorem updBlock_mqOps (s : State) (d : BitVec 64) (i : Nat) (f : Block → Block) : (updBlock s d i f).mqOps = s.mqOps := rfl
@[simp] theorem updBlock_exchanges (s : State) (d : BitVec 64) (i : Nat) (f : Block → Block) : (updBlock s d i f).exchanges = s.exchanges := rfl
@[simp] theorem updBlock_deliveries (s : State) (d : BitVec 64) (i : Nat) (f : Block → Block) : (updBlock s d i f).deliveries = s.deliveries := rfl
@[simp] theorem updBlock_outReqs (s : State) (d : BitVec 64) (i : Nat) (f : Block → Block) : (updBlock s d i f).outReqs = s.outReqs := rfl
@[simp] theorem updBlock_flushes (s : State) (d : BitVec 64) (i : Nat) (f : Block → Block) : (updBlock s d i f).flushes = s.flushes := rfl
@[simp] theorem updBlock_binds (s : State) (d : BitVec 64) (i : Nat) (f : Block → Block) : (updBlock s d i f).binds = s.binds := rfl
@[simp] theorem updBlock_portQ (s : State) (d : BitVec 64) (i : Nat) (f : Block → Block) : (updBlock s d i f).portQ = s.portQ := rfl
@[simp] theorem updBlock_hostOut (s : State) (d : BitVec 64) (i : Nat) (f : Block → Block) : (updBlock s d i f).hostOut = s.hostOut := rfl
@[simp] theorem updBlock_inbox (s : State) (d : BitVec 64) (i : Nat) (f : Block → Block) : (updBlock s d i f).inbox = s.inbox := rfl
@[simp] theorem updBlock_gates (s : State) (d : BitVec 64) (i : Nat) (f : Block → Block) : (updBlock s d i f).gates = s.gates := rfl
@[simp] theorem updBlock_taking (s : State) (d : BitVec 64) (i : Nat) (f : Block → Block) : (updBlock s d i f).taking = s.taking := rfl
@[simp] theorem updBlock_tlb (s : State) (d : BitVec 64) (i : Nat) (f : Block → Block) : (updBlock s d i f).tlb = s.tlb := rfl
@[simp] theorem updBlock_slices (s : State) (d : BitVec 64) (i : Nat) (f : Block → Block) : (updBlock s d i f).slices = s.slices := rfl
@[simp] theorem updBlock_stale (s : State) (d : BitVec 64) (i : Nat) (f : Block → Block) : (updBlock s d i f).stale = s.stale := rfl
@[simp] theorem updBlock_posted (s : State) (d : BitVec 64) (i : Nat) (f : Block → Block) : (updBlock s d i f).posted = s.posted := rfl
@[simp] theorem updBlock_fetched (s : State) (d : BitVec 64) (i : Nat) (f : Block → Block) : (updBlock s d i f).fetched = s.fetched := rfl
@[simp] theorem updBlock_reqNum (s : State) (d : BitVec 64) (i : Nat) (f : Block → Block) : (updBlock s d i f).reqNum = s.reqNum := rfl
@[simp] theorem updBlock_stepPend (s : State) (d : BitVec 64) (i : Nat) (f : Block → Block) : (updBlock s d i f).stepPend = s.stepPend := rfl
@[simp] theorem updBlock_network (s : State) (d : BitVec 64) (i : Nat) (f : Block → Block) : (updBlock s d i f).network = s.network := rfl
@[simp] theorem updBlock_band (s : State) (d : BitVec 64) (i : Nat) (f : Block → Block) : (updBlock s d i f).band = s.band := rfl
@[simp] theorem updBlock_occs (s : State) (d : BitVec 64) (i : Nat) (f : Block → Block) : (updBlock s d i f).occs = s.occs := rfl
@[simp] theorem updBlock_portMap (s : State) (d : BitVec 64) (i : Nat) (f : Block → Block) : (updBlock s d i f).portMap = s.portMap := rfl
@[simp] theorem updBlock_timexSent (s : State) (d : BitVec 64) (i : Nat) (f : Block → Block) : (updBlock s d i f).timexSent = s.timexSent := rfl
@[simp] theorem updBlock_replies (s : State) (d : BitVec 64) (i : Nat) (f : Block → Block) : (updBlock s d i f).replies = s.replies := rfl
@[simp] theorem updBlock_streamTab (s : State) (d : BitVec 64) (i : Nat) (f : Block → Block) : (updBlock s d i f).streamTab = s.streamTab := rfl
@[simp] theorem updBlock_outbox (s : State) (d : BitVec 64) (i : Nat) (f : Block → Block) : (updBlock s d i f).outbox = s.outbox := rfl

/-! ### updDisp -/

@[simp] theorem updDisp_mem (s : State) (d : BitVec 64) (f : Dispatch → Dispatch) : (updDisp s d f).mem = s.mem := rfl
@[simp] theorem updDisp_tags (s : State) (d : BitVec 64) (f : Dispatch → Dispatch) : (updDisp s d f).tags = s.tags := rfl
@[simp] theorem updDisp_poison (s : State) (d : BitVec 64) (f : Dispatch → Dispatch) : (updDisp s d f).poison = s.poison := rfl
@[simp] theorem updDisp_teams (s : State) (d : BitVec 64) (f : Dispatch → Dispatch) : (updDisp s d f).teams = s.teams := rfl
@[simp] theorem updDisp_ctxs (s : State) (d : BitVec 64) (f : Dispatch → Dispatch) : (updDisp s d f).ctxs = s.ctxs := rfl
@[simp] theorem updDisp_cores (s : State) (d : BitVec 64) (f : Dispatch → Dispatch) : (updDisp s d f).cores = s.cores := rfl
@[simp] theorem updDisp_blocks (s : State) (d : BitVec 64) (f : Dispatch → Dispatch) : (updDisp s d f).blocks = s.blocks := rfl
@[simp] theorem updDisp_stamps (s : State) (d : BitVec 64) (f : Dispatch → Dispatch) : (updDisp s d f).stamps = s.stamps := rfl
@[simp] theorem updDisp_watches (s : State) (d : BitVec 64) (f : Dispatch → Dispatch) : (updDisp s d f).watches = s.watches := rfl
@[simp] theorem updDisp_sideLog (s : State) (d : BitVec 64) (f : Dispatch → Dispatch) : (updDisp s d f).sideLog = s.sideLog := rfl
@[simp] theorem updDisp_agenda (s : State) (d : BitVec 64) (f : Dispatch → Dispatch) : (updDisp s d f).agenda = s.agenda := rfl
@[simp] theorem updDisp_event (s : State) (d : BitVec 64) (f : Dispatch → Dispatch) : (updDisp s d f).event = s.event := rfl
@[simp] theorem updDisp_issueQ (s : State) (d : BitVec 64) (f : Dispatch → Dispatch) : (updDisp s d f).issueQ = s.issueQ := rfl
@[simp] theorem updDisp_fresh (s : State) (d : BitVec 64) (f : Dispatch → Dispatch) : (updDisp s d f).fresh = s.fresh := rfl
@[simp] theorem updDisp_nextOp (s : State) (d : BitVec 64) (f : Dispatch → Dispatch) : (updDisp s d f).nextOp = s.nextOp := rfl
@[simp] theorem updDisp_cycle (s : State) (d : BitVec 64) (f : Dispatch → Dispatch) : (updDisp s d f).cycle = s.cycle := rfl
@[simp] theorem updDisp_xeOps (s : State) (d : BitVec 64) (f : Dispatch → Dispatch) : (updDisp s d f).xeOps = s.xeOps := rfl
@[simp] theorem updDisp_mqOps (s : State) (d : BitVec 64) (f : Dispatch → Dispatch) : (updDisp s d f).mqOps = s.mqOps := rfl
@[simp] theorem updDisp_exchanges (s : State) (d : BitVec 64) (f : Dispatch → Dispatch) : (updDisp s d f).exchanges = s.exchanges := rfl
@[simp] theorem updDisp_deliveries (s : State) (d : BitVec 64) (f : Dispatch → Dispatch) : (updDisp s d f).deliveries = s.deliveries := rfl
@[simp] theorem updDisp_outReqs (s : State) (d : BitVec 64) (f : Dispatch → Dispatch) : (updDisp s d f).outReqs = s.outReqs := rfl
@[simp] theorem updDisp_flushes (s : State) (d : BitVec 64) (f : Dispatch → Dispatch) : (updDisp s d f).flushes = s.flushes := rfl
@[simp] theorem updDisp_binds (s : State) (d : BitVec 64) (f : Dispatch → Dispatch) : (updDisp s d f).binds = s.binds := rfl
@[simp] theorem updDisp_portQ (s : State) (d : BitVec 64) (f : Dispatch → Dispatch) : (updDisp s d f).portQ = s.portQ := rfl
@[simp] theorem updDisp_hostOut (s : State) (d : BitVec 64) (f : Dispatch → Dispatch) : (updDisp s d f).hostOut = s.hostOut := rfl
@[simp] theorem updDisp_inbox (s : State) (d : BitVec 64) (f : Dispatch → Dispatch) : (updDisp s d f).inbox = s.inbox := rfl
@[simp] theorem updDisp_gates (s : State) (d : BitVec 64) (f : Dispatch → Dispatch) : (updDisp s d f).gates = s.gates := rfl
@[simp] theorem updDisp_taking (s : State) (d : BitVec 64) (f : Dispatch → Dispatch) : (updDisp s d f).taking = s.taking := rfl
@[simp] theorem updDisp_tlb (s : State) (d : BitVec 64) (f : Dispatch → Dispatch) : (updDisp s d f).tlb = s.tlb := rfl
@[simp] theorem updDisp_slices (s : State) (d : BitVec 64) (f : Dispatch → Dispatch) : (updDisp s d f).slices = s.slices := rfl
@[simp] theorem updDisp_stale (s : State) (d : BitVec 64) (f : Dispatch → Dispatch) : (updDisp s d f).stale = s.stale := rfl
@[simp] theorem updDisp_posted (s : State) (d : BitVec 64) (f : Dispatch → Dispatch) : (updDisp s d f).posted = s.posted := rfl
@[simp] theorem updDisp_fetched (s : State) (d : BitVec 64) (f : Dispatch → Dispatch) : (updDisp s d f).fetched = s.fetched := rfl
@[simp] theorem updDisp_reqNum (s : State) (d : BitVec 64) (f : Dispatch → Dispatch) : (updDisp s d f).reqNum = s.reqNum := rfl
@[simp] theorem updDisp_stepPend (s : State) (d : BitVec 64) (f : Dispatch → Dispatch) : (updDisp s d f).stepPend = s.stepPend := rfl
@[simp] theorem updDisp_network (s : State) (d : BitVec 64) (f : Dispatch → Dispatch) : (updDisp s d f).network = s.network := rfl
@[simp] theorem updDisp_band (s : State) (d : BitVec 64) (f : Dispatch → Dispatch) : (updDisp s d f).band = s.band := rfl
@[simp] theorem updDisp_occs (s : State) (d : BitVec 64) (f : Dispatch → Dispatch) : (updDisp s d f).occs = s.occs := rfl
@[simp] theorem updDisp_portMap (s : State) (d : BitVec 64) (f : Dispatch → Dispatch) : (updDisp s d f).portMap = s.portMap := rfl
@[simp] theorem updDisp_timexSent (s : State) (d : BitVec 64) (f : Dispatch → Dispatch) : (updDisp s d f).timexSent = s.timexSent := rfl
@[simp] theorem updDisp_replies (s : State) (d : BitVec 64) (f : Dispatch → Dispatch) : (updDisp s d f).replies = s.replies := rfl
@[simp] theorem updDisp_streamTab (s : State) (d : BitVec 64) (f : Dispatch → Dispatch) : (updDisp s d f).streamTab = s.streamTab := rfl
@[simp] theorem updDisp_outbox (s : State) (d : BitVec 64) (f : Dispatch → Dispatch) : (updDisp s d f).outbox = s.outbox := rfl

/-! ### updGate -/

@[simp] theorem updGate_mem (s : State) (g : Nat) (f : Gate → Gate) : (updGate s g f).mem = s.mem := rfl
@[simp] theorem updGate_tags (s : State) (g : Nat) (f : Gate → Gate) : (updGate s g f).tags = s.tags := rfl
@[simp] theorem updGate_poison (s : State) (g : Nat) (f : Gate → Gate) : (updGate s g f).poison = s.poison := rfl
@[simp] theorem updGate_teams (s : State) (g : Nat) (f : Gate → Gate) : (updGate s g f).teams = s.teams := rfl
@[simp] theorem updGate_ctxs (s : State) (g : Nat) (f : Gate → Gate) : (updGate s g f).ctxs = s.ctxs := rfl
@[simp] theorem updGate_cores (s : State) (g : Nat) (f : Gate → Gate) : (updGate s g f).cores = s.cores := rfl
@[simp] theorem updGate_blocks (s : State) (g : Nat) (f : Gate → Gate) : (updGate s g f).blocks = s.blocks := rfl
@[simp] theorem updGate_dispatches (s : State) (g : Nat) (f : Gate → Gate) : (updGate s g f).dispatches = s.dispatches := rfl
@[simp] theorem updGate_stamps (s : State) (g : Nat) (f : Gate → Gate) : (updGate s g f).stamps = s.stamps := rfl
@[simp] theorem updGate_watches (s : State) (g : Nat) (f : Gate → Gate) : (updGate s g f).watches = s.watches := rfl
@[simp] theorem updGate_sideLog (s : State) (g : Nat) (f : Gate → Gate) : (updGate s g f).sideLog = s.sideLog := rfl
@[simp] theorem updGate_agenda (s : State) (g : Nat) (f : Gate → Gate) : (updGate s g f).agenda = s.agenda := rfl
@[simp] theorem updGate_event (s : State) (g : Nat) (f : Gate → Gate) : (updGate s g f).event = s.event := rfl
@[simp] theorem updGate_issueQ (s : State) (g : Nat) (f : Gate → Gate) : (updGate s g f).issueQ = s.issueQ := rfl
@[simp] theorem updGate_fresh (s : State) (g : Nat) (f : Gate → Gate) : (updGate s g f).fresh = s.fresh := rfl
@[simp] theorem updGate_nextOp (s : State) (g : Nat) (f : Gate → Gate) : (updGate s g f).nextOp = s.nextOp := rfl
@[simp] theorem updGate_cycle (s : State) (g : Nat) (f : Gate → Gate) : (updGate s g f).cycle = s.cycle := rfl
@[simp] theorem updGate_xeOps (s : State) (g : Nat) (f : Gate → Gate) : (updGate s g f).xeOps = s.xeOps := rfl
@[simp] theorem updGate_mqOps (s : State) (g : Nat) (f : Gate → Gate) : (updGate s g f).mqOps = s.mqOps := rfl
@[simp] theorem updGate_exchanges (s : State) (g : Nat) (f : Gate → Gate) : (updGate s g f).exchanges = s.exchanges := rfl
@[simp] theorem updGate_deliveries (s : State) (g : Nat) (f : Gate → Gate) : (updGate s g f).deliveries = s.deliveries := rfl
@[simp] theorem updGate_outReqs (s : State) (g : Nat) (f : Gate → Gate) : (updGate s g f).outReqs = s.outReqs := rfl
@[simp] theorem updGate_flushes (s : State) (g : Nat) (f : Gate → Gate) : (updGate s g f).flushes = s.flushes := rfl
@[simp] theorem updGate_binds (s : State) (g : Nat) (f : Gate → Gate) : (updGate s g f).binds = s.binds := rfl
@[simp] theorem updGate_portQ (s : State) (g : Nat) (f : Gate → Gate) : (updGate s g f).portQ = s.portQ := rfl
@[simp] theorem updGate_hostOut (s : State) (g : Nat) (f : Gate → Gate) : (updGate s g f).hostOut = s.hostOut := rfl
@[simp] theorem updGate_inbox (s : State) (g : Nat) (f : Gate → Gate) : (updGate s g f).inbox = s.inbox := rfl
@[simp] theorem updGate_taking (s : State) (g : Nat) (f : Gate → Gate) : (updGate s g f).taking = s.taking := rfl
@[simp] theorem updGate_tlb (s : State) (g : Nat) (f : Gate → Gate) : (updGate s g f).tlb = s.tlb := rfl
@[simp] theorem updGate_slices (s : State) (g : Nat) (f : Gate → Gate) : (updGate s g f).slices = s.slices := rfl
@[simp] theorem updGate_stale (s : State) (g : Nat) (f : Gate → Gate) : (updGate s g f).stale = s.stale := rfl
@[simp] theorem updGate_posted (s : State) (g : Nat) (f : Gate → Gate) : (updGate s g f).posted = s.posted := rfl
@[simp] theorem updGate_fetched (s : State) (g : Nat) (f : Gate → Gate) : (updGate s g f).fetched = s.fetched := rfl
@[simp] theorem updGate_reqNum (s : State) (g : Nat) (f : Gate → Gate) : (updGate s g f).reqNum = s.reqNum := rfl
@[simp] theorem updGate_stepPend (s : State) (g : Nat) (f : Gate → Gate) : (updGate s g f).stepPend = s.stepPend := rfl
@[simp] theorem updGate_network (s : State) (g : Nat) (f : Gate → Gate) : (updGate s g f).network = s.network := rfl
@[simp] theorem updGate_band (s : State) (g : Nat) (f : Gate → Gate) : (updGate s g f).band = s.band := rfl
@[simp] theorem updGate_occs (s : State) (g : Nat) (f : Gate → Gate) : (updGate s g f).occs = s.occs := rfl
@[simp] theorem updGate_portMap (s : State) (g : Nat) (f : Gate → Gate) : (updGate s g f).portMap = s.portMap := rfl
@[simp] theorem updGate_timexSent (s : State) (g : Nat) (f : Gate → Gate) : (updGate s g f).timexSent = s.timexSent := rfl
@[simp] theorem updGate_replies (s : State) (g : Nat) (f : Gate → Gate) : (updGate s g f).replies = s.replies := rfl
@[simp] theorem updGate_streamTab (s : State) (g : Nat) (f : Gate → Gate) : (updGate s g f).streamTab = s.streamTab := rfl
@[simp] theorem updGate_outbox (s : State) (g : Nat) (f : Gate → Gate) : (updGate s g f).outbox = s.outbox := rfl

/-! ### addAgenda -/

@[simp] theorem addAgenda_mem (s : State) (l : List Event) : (addAgenda s l).mem = s.mem := rfl
@[simp] theorem addAgenda_tags (s : State) (l : List Event) : (addAgenda s l).tags = s.tags := rfl
@[simp] theorem addAgenda_poison (s : State) (l : List Event) : (addAgenda s l).poison = s.poison := rfl
@[simp] theorem addAgenda_teams (s : State) (l : List Event) : (addAgenda s l).teams = s.teams := rfl
@[simp] theorem addAgenda_ctxs (s : State) (l : List Event) : (addAgenda s l).ctxs = s.ctxs := rfl
@[simp] theorem addAgenda_cores (s : State) (l : List Event) : (addAgenda s l).cores = s.cores := rfl
@[simp] theorem addAgenda_blocks (s : State) (l : List Event) : (addAgenda s l).blocks = s.blocks := rfl
@[simp] theorem addAgenda_dispatches (s : State) (l : List Event) : (addAgenda s l).dispatches = s.dispatches := rfl
@[simp] theorem addAgenda_stamps (s : State) (l : List Event) : (addAgenda s l).stamps = s.stamps := rfl
@[simp] theorem addAgenda_watches (s : State) (l : List Event) : (addAgenda s l).watches = s.watches := rfl
@[simp] theorem addAgenda_sideLog (s : State) (l : List Event) : (addAgenda s l).sideLog = s.sideLog := rfl
@[simp] theorem addAgenda_event (s : State) (l : List Event) : (addAgenda s l).event = s.event := rfl
@[simp] theorem addAgenda_issueQ (s : State) (l : List Event) : (addAgenda s l).issueQ = s.issueQ := rfl
@[simp] theorem addAgenda_fresh (s : State) (l : List Event) : (addAgenda s l).fresh = s.fresh := rfl
@[simp] theorem addAgenda_nextOp (s : State) (l : List Event) : (addAgenda s l).nextOp = s.nextOp := rfl
@[simp] theorem addAgenda_cycle (s : State) (l : List Event) : (addAgenda s l).cycle = s.cycle := rfl
@[simp] theorem addAgenda_xeOps (s : State) (l : List Event) : (addAgenda s l).xeOps = s.xeOps := rfl
@[simp] theorem addAgenda_mqOps (s : State) (l : List Event) : (addAgenda s l).mqOps = s.mqOps := rfl
@[simp] theorem addAgenda_exchanges (s : State) (l : List Event) : (addAgenda s l).exchanges = s.exchanges := rfl
@[simp] theorem addAgenda_deliveries (s : State) (l : List Event) : (addAgenda s l).deliveries = s.deliveries := rfl
@[simp] theorem addAgenda_outReqs (s : State) (l : List Event) : (addAgenda s l).outReqs = s.outReqs := rfl
@[simp] theorem addAgenda_flushes (s : State) (l : List Event) : (addAgenda s l).flushes = s.flushes := rfl
@[simp] theorem addAgenda_binds (s : State) (l : List Event) : (addAgenda s l).binds = s.binds := rfl
@[simp] theorem addAgenda_portQ (s : State) (l : List Event) : (addAgenda s l).portQ = s.portQ := rfl
@[simp] theorem addAgenda_hostOut (s : State) (l : List Event) : (addAgenda s l).hostOut = s.hostOut := rfl
@[simp] theorem addAgenda_inbox (s : State) (l : List Event) : (addAgenda s l).inbox = s.inbox := rfl
@[simp] theorem addAgenda_gates (s : State) (l : List Event) : (addAgenda s l).gates = s.gates := rfl
@[simp] theorem addAgenda_taking (s : State) (l : List Event) : (addAgenda s l).taking = s.taking := rfl
@[simp] theorem addAgenda_tlb (s : State) (l : List Event) : (addAgenda s l).tlb = s.tlb := rfl
@[simp] theorem addAgenda_slices (s : State) (l : List Event) : (addAgenda s l).slices = s.slices := rfl
@[simp] theorem addAgenda_stale (s : State) (l : List Event) : (addAgenda s l).stale = s.stale := rfl
@[simp] theorem addAgenda_posted (s : State) (l : List Event) : (addAgenda s l).posted = s.posted := rfl
@[simp] theorem addAgenda_fetched (s : State) (l : List Event) : (addAgenda s l).fetched = s.fetched := rfl
@[simp] theorem addAgenda_reqNum (s : State) (l : List Event) : (addAgenda s l).reqNum = s.reqNum := rfl
@[simp] theorem addAgenda_stepPend (s : State) (l : List Event) : (addAgenda s l).stepPend = s.stepPend := rfl
@[simp] theorem addAgenda_network (s : State) (l : List Event) : (addAgenda s l).network = s.network := rfl
@[simp] theorem addAgenda_band (s : State) (l : List Event) : (addAgenda s l).band = s.band := rfl
@[simp] theorem addAgenda_occs (s : State) (l : List Event) : (addAgenda s l).occs = s.occs := rfl
@[simp] theorem addAgenda_portMap (s : State) (l : List Event) : (addAgenda s l).portMap = s.portMap := rfl
@[simp] theorem addAgenda_timexSent (s : State) (l : List Event) : (addAgenda s l).timexSent = s.timexSent := rfl
@[simp] theorem addAgenda_replies (s : State) (l : List Event) : (addAgenda s l).replies = s.replies := rfl
@[simp] theorem addAgenda_streamTab (s : State) (l : List Event) : (addAgenda s l).streamTab = s.streamTab := rfl
@[simp] theorem addAgenda_outbox (s : State) (l : List Event) : (addAgenda s l).outbox = s.outbox := rfl

/-! ### nowAgenda -/

@[simp] theorem nowAgenda_mem (s : State) (l : List Event) : (nowAgenda s l).mem = s.mem := rfl
@[simp] theorem nowAgenda_tags (s : State) (l : List Event) : (nowAgenda s l).tags = s.tags := rfl
@[simp] theorem nowAgenda_poison (s : State) (l : List Event) : (nowAgenda s l).poison = s.poison := rfl
@[simp] theorem nowAgenda_teams (s : State) (l : List Event) : (nowAgenda s l).teams = s.teams := rfl
@[simp] theorem nowAgenda_ctxs (s : State) (l : List Event) : (nowAgenda s l).ctxs = s.ctxs := rfl
@[simp] theorem nowAgenda_cores (s : State) (l : List Event) : (nowAgenda s l).cores = s.cores := rfl
@[simp] theorem nowAgenda_blocks (s : State) (l : List Event) : (nowAgenda s l).blocks = s.blocks := rfl
@[simp] theorem nowAgenda_dispatches (s : State) (l : List Event) : (nowAgenda s l).dispatches = s.dispatches := rfl
@[simp] theorem nowAgenda_stamps (s : State) (l : List Event) : (nowAgenda s l).stamps = s.stamps := rfl
@[simp] theorem nowAgenda_watches (s : State) (l : List Event) : (nowAgenda s l).watches = s.watches := rfl
@[simp] theorem nowAgenda_sideLog (s : State) (l : List Event) : (nowAgenda s l).sideLog = s.sideLog := rfl
@[simp] theorem nowAgenda_event (s : State) (l : List Event) : (nowAgenda s l).event = s.event := rfl
@[simp] theorem nowAgenda_issueQ (s : State) (l : List Event) : (nowAgenda s l).issueQ = s.issueQ := rfl
@[simp] theorem nowAgenda_fresh (s : State) (l : List Event) : (nowAgenda s l).fresh = s.fresh := rfl
@[simp] theorem nowAgenda_nextOp (s : State) (l : List Event) : (nowAgenda s l).nextOp = s.nextOp := rfl
@[simp] theorem nowAgenda_cycle (s : State) (l : List Event) : (nowAgenda s l).cycle = s.cycle := rfl
@[simp] theorem nowAgenda_xeOps (s : State) (l : List Event) : (nowAgenda s l).xeOps = s.xeOps := rfl
@[simp] theorem nowAgenda_mqOps (s : State) (l : List Event) : (nowAgenda s l).mqOps = s.mqOps := rfl
@[simp] theorem nowAgenda_exchanges (s : State) (l : List Event) : (nowAgenda s l).exchanges = s.exchanges := rfl
@[simp] theorem nowAgenda_deliveries (s : State) (l : List Event) : (nowAgenda s l).deliveries = s.deliveries := rfl
@[simp] theorem nowAgenda_outReqs (s : State) (l : List Event) : (nowAgenda s l).outReqs = s.outReqs := rfl
@[simp] theorem nowAgenda_flushes (s : State) (l : List Event) : (nowAgenda s l).flushes = s.flushes := rfl
@[simp] theorem nowAgenda_binds (s : State) (l : List Event) : (nowAgenda s l).binds = s.binds := rfl
@[simp] theorem nowAgenda_portQ (s : State) (l : List Event) : (nowAgenda s l).portQ = s.portQ := rfl
@[simp] theorem nowAgenda_hostOut (s : State) (l : List Event) : (nowAgenda s l).hostOut = s.hostOut := rfl
@[simp] theorem nowAgenda_inbox (s : State) (l : List Event) : (nowAgenda s l).inbox = s.inbox := rfl
@[simp] theorem nowAgenda_gates (s : State) (l : List Event) : (nowAgenda s l).gates = s.gates := rfl
@[simp] theorem nowAgenda_taking (s : State) (l : List Event) : (nowAgenda s l).taking = s.taking := rfl
@[simp] theorem nowAgenda_tlb (s : State) (l : List Event) : (nowAgenda s l).tlb = s.tlb := rfl
@[simp] theorem nowAgenda_slices (s : State) (l : List Event) : (nowAgenda s l).slices = s.slices := rfl
@[simp] theorem nowAgenda_stale (s : State) (l : List Event) : (nowAgenda s l).stale = s.stale := rfl
@[simp] theorem nowAgenda_posted (s : State) (l : List Event) : (nowAgenda s l).posted = s.posted := rfl
@[simp] theorem nowAgenda_fetched (s : State) (l : List Event) : (nowAgenda s l).fetched = s.fetched := rfl
@[simp] theorem nowAgenda_reqNum (s : State) (l : List Event) : (nowAgenda s l).reqNum = s.reqNum := rfl
@[simp] theorem nowAgenda_stepPend (s : State) (l : List Event) : (nowAgenda s l).stepPend = s.stepPend := rfl
@[simp] theorem nowAgenda_network (s : State) (l : List Event) : (nowAgenda s l).network = s.network := rfl
@[simp] theorem nowAgenda_band (s : State) (l : List Event) : (nowAgenda s l).band = s.band := rfl
@[simp] theorem nowAgenda_occs (s : State) (l : List Event) : (nowAgenda s l).occs = s.occs := rfl
@[simp] theorem nowAgenda_portMap (s : State) (l : List Event) : (nowAgenda s l).portMap = s.portMap := rfl
@[simp] theorem nowAgenda_timexSent (s : State) (l : List Event) : (nowAgenda s l).timexSent = s.timexSent := rfl
@[simp] theorem nowAgenda_replies (s : State) (l : List Event) : (nowAgenda s l).replies = s.replies := rfl
@[simp] theorem nowAgenda_streamTab (s : State) (l : List Event) : (nowAgenda s l).streamTab = s.streamTab := rfl
@[simp] theorem nowAgenda_outbox (s : State) (l : List Event) : (nowAgenda s l).outbox = s.outbox := rfl

/-! ### updL1 -/

@[simp] theorem updL1_mem (s : State) (c : Nat) (f : Cache L1Line → Cache L1Line) : (updL1 s c f).mem = s.mem := rfl
@[simp] theorem updL1_tags (s : State) (c : Nat) (f : Cache L1Line → Cache L1Line) : (updL1 s c f).tags = s.tags := rfl
@[simp] theorem updL1_poison (s : State) (c : Nat) (f : Cache L1Line → Cache L1Line) : (updL1 s c f).poison = s.poison := rfl
@[simp] theorem updL1_teams (s : State) (c : Nat) (f : Cache L1Line → Cache L1Line) : (updL1 s c f).teams = s.teams := rfl
@[simp] theorem updL1_blocks (s : State) (c : Nat) (f : Cache L1Line → Cache L1Line) : (updL1 s c f).blocks = s.blocks := rfl
@[simp] theorem updL1_dispatches (s : State) (c : Nat) (f : Cache L1Line → Cache L1Line) : (updL1 s c f).dispatches = s.dispatches := rfl
@[simp] theorem updL1_stamps (s : State) (c : Nat) (f : Cache L1Line → Cache L1Line) : (updL1 s c f).stamps = s.stamps := rfl
@[simp] theorem updL1_watches (s : State) (c : Nat) (f : Cache L1Line → Cache L1Line) : (updL1 s c f).watches = s.watches := rfl
@[simp] theorem updL1_sideLog (s : State) (c : Nat) (f : Cache L1Line → Cache L1Line) : (updL1 s c f).sideLog = s.sideLog := rfl
@[simp] theorem updL1_agenda (s : State) (c : Nat) (f : Cache L1Line → Cache L1Line) : (updL1 s c f).agenda = s.agenda := rfl
@[simp] theorem updL1_event (s : State) (c : Nat) (f : Cache L1Line → Cache L1Line) : (updL1 s c f).event = s.event := rfl
@[simp] theorem updL1_issueQ (s : State) (c : Nat) (f : Cache L1Line → Cache L1Line) : (updL1 s c f).issueQ = s.issueQ := rfl
@[simp] theorem updL1_fresh (s : State) (c : Nat) (f : Cache L1Line → Cache L1Line) : (updL1 s c f).fresh = s.fresh := rfl
@[simp] theorem updL1_nextOp (s : State) (c : Nat) (f : Cache L1Line → Cache L1Line) : (updL1 s c f).nextOp = s.nextOp := rfl
@[simp] theorem updL1_cycle (s : State) (c : Nat) (f : Cache L1Line → Cache L1Line) : (updL1 s c f).cycle = s.cycle := rfl
@[simp] theorem updL1_xeOps (s : State) (c : Nat) (f : Cache L1Line → Cache L1Line) : (updL1 s c f).xeOps = s.xeOps := rfl
@[simp] theorem updL1_mqOps (s : State) (c : Nat) (f : Cache L1Line → Cache L1Line) : (updL1 s c f).mqOps = s.mqOps := rfl
@[simp] theorem updL1_exchanges (s : State) (c : Nat) (f : Cache L1Line → Cache L1Line) : (updL1 s c f).exchanges = s.exchanges := rfl
@[simp] theorem updL1_deliveries (s : State) (c : Nat) (f : Cache L1Line → Cache L1Line) : (updL1 s c f).deliveries = s.deliveries := rfl
@[simp] theorem updL1_outReqs (s : State) (c : Nat) (f : Cache L1Line → Cache L1Line) : (updL1 s c f).outReqs = s.outReqs := rfl
@[simp] theorem updL1_flushes (s : State) (c : Nat) (f : Cache L1Line → Cache L1Line) : (updL1 s c f).flushes = s.flushes := rfl
@[simp] theorem updL1_binds (s : State) (c : Nat) (f : Cache L1Line → Cache L1Line) : (updL1 s c f).binds = s.binds := rfl
@[simp] theorem updL1_portQ (s : State) (c : Nat) (f : Cache L1Line → Cache L1Line) : (updL1 s c f).portQ = s.portQ := rfl
@[simp] theorem updL1_hostOut (s : State) (c : Nat) (f : Cache L1Line → Cache L1Line) : (updL1 s c f).hostOut = s.hostOut := rfl
@[simp] theorem updL1_inbox (s : State) (c : Nat) (f : Cache L1Line → Cache L1Line) : (updL1 s c f).inbox = s.inbox := rfl
@[simp] theorem updL1_gates (s : State) (c : Nat) (f : Cache L1Line → Cache L1Line) : (updL1 s c f).gates = s.gates := rfl
@[simp] theorem updL1_taking (s : State) (c : Nat) (f : Cache L1Line → Cache L1Line) : (updL1 s c f).taking = s.taking := rfl
@[simp] theorem updL1_ctxs (s : State) (c : Nat) (f : Cache L1Line → Cache L1Line) : (updL1 s c f).ctxs = s.ctxs := rfl
@[simp] theorem updL1_tlb (s : State) (c : Nat) (f : Cache L1Line → Cache L1Line) : (updL1 s c f).tlb = s.tlb := rfl
@[simp] theorem updL1_slices (s : State) (c : Nat) (f : Cache L1Line → Cache L1Line) : (updL1 s c f).slices = s.slices := rfl
@[simp] theorem updL1_stale (s : State) (c : Nat) (f : Cache L1Line → Cache L1Line) : (updL1 s c f).stale = s.stale := rfl
@[simp] theorem updL1_posted (s : State) (c : Nat) (f : Cache L1Line → Cache L1Line) : (updL1 s c f).posted = s.posted := rfl
@[simp] theorem updL1_fetched (s : State) (c : Nat) (f : Cache L1Line → Cache L1Line) : (updL1 s c f).fetched = s.fetched := rfl
@[simp] theorem updL1_reqNum (s : State) (c : Nat) (f : Cache L1Line → Cache L1Line) : (updL1 s c f).reqNum = s.reqNum := rfl
@[simp] theorem updL1_stepPend (s : State) (c : Nat) (f : Cache L1Line → Cache L1Line) : (updL1 s c f).stepPend = s.stepPend := rfl
@[simp] theorem updL1_network (s : State) (c : Nat) (f : Cache L1Line → Cache L1Line) : (updL1 s c f).network = s.network := rfl
@[simp] theorem updL1_band (s : State) (c : Nat) (f : Cache L1Line → Cache L1Line) : (updL1 s c f).band = s.band := rfl
@[simp] theorem updL1_occs (s : State) (c : Nat) (f : Cache L1Line → Cache L1Line) : (updL1 s c f).occs = s.occs := rfl
@[simp] theorem updL1_portMap (s : State) (c : Nat) (f : Cache L1Line → Cache L1Line) : (updL1 s c f).portMap = s.portMap := rfl
@[simp] theorem updL1_timexSent (s : State) (c : Nat) (f : Cache L1Line → Cache L1Line) : (updL1 s c f).timexSent = s.timexSent := rfl
@[simp] theorem updL1_replies (s : State) (c : Nat) (f : Cache L1Line → Cache L1Line) : (updL1 s c f).replies = s.replies := rfl
@[simp] theorem updL1_streamTab (s : State) (c : Nat) (f : Cache L1Line → Cache L1Line) : (updL1 s c f).streamTab = s.streamTab := rfl
@[simp] theorem updL1_outbox (s : State) (c : Nat) (f : Cache L1Line → Cache L1Line) : (updL1 s c f).outbox = s.outbox := rfl

/-! ### updMq -/

@[simp] theorem updMq_mem (s : State) (i : Nat) (f : MqOp → MqOp) : (updMq s i f).mem = s.mem := rfl
@[simp] theorem updMq_tags (s : State) (i : Nat) (f : MqOp → MqOp) : (updMq s i f).tags = s.tags := rfl
@[simp] theorem updMq_poison (s : State) (i : Nat) (f : MqOp → MqOp) : (updMq s i f).poison = s.poison := rfl
@[simp] theorem updMq_teams (s : State) (i : Nat) (f : MqOp → MqOp) : (updMq s i f).teams = s.teams := rfl
@[simp] theorem updMq_cores (s : State) (i : Nat) (f : MqOp → MqOp) : (updMq s i f).cores = s.cores := rfl
@[simp] theorem updMq_blocks (s : State) (i : Nat) (f : MqOp → MqOp) : (updMq s i f).blocks = s.blocks := rfl
@[simp] theorem updMq_dispatches (s : State) (i : Nat) (f : MqOp → MqOp) : (updMq s i f).dispatches = s.dispatches := rfl
@[simp] theorem updMq_stamps (s : State) (i : Nat) (f : MqOp → MqOp) : (updMq s i f).stamps = s.stamps := rfl
@[simp] theorem updMq_watches (s : State) (i : Nat) (f : MqOp → MqOp) : (updMq s i f).watches = s.watches := rfl
@[simp] theorem updMq_sideLog (s : State) (i : Nat) (f : MqOp → MqOp) : (updMq s i f).sideLog = s.sideLog := rfl
@[simp] theorem updMq_agenda (s : State) (i : Nat) (f : MqOp → MqOp) : (updMq s i f).agenda = s.agenda := rfl
@[simp] theorem updMq_event (s : State) (i : Nat) (f : MqOp → MqOp) : (updMq s i f).event = s.event := rfl
@[simp] theorem updMq_issueQ (s : State) (i : Nat) (f : MqOp → MqOp) : (updMq s i f).issueQ = s.issueQ := rfl
@[simp] theorem updMq_fresh (s : State) (i : Nat) (f : MqOp → MqOp) : (updMq s i f).fresh = s.fresh := rfl
@[simp] theorem updMq_nextOp (s : State) (i : Nat) (f : MqOp → MqOp) : (updMq s i f).nextOp = s.nextOp := rfl
@[simp] theorem updMq_cycle (s : State) (i : Nat) (f : MqOp → MqOp) : (updMq s i f).cycle = s.cycle := rfl
@[simp] theorem updMq_xeOps (s : State) (i : Nat) (f : MqOp → MqOp) : (updMq s i f).xeOps = s.xeOps := rfl
@[simp] theorem updMq_exchanges (s : State) (i : Nat) (f : MqOp → MqOp) : (updMq s i f).exchanges = s.exchanges := rfl
@[simp] theorem updMq_deliveries (s : State) (i : Nat) (f : MqOp → MqOp) : (updMq s i f).deliveries = s.deliveries := rfl
@[simp] theorem updMq_outReqs (s : State) (i : Nat) (f : MqOp → MqOp) : (updMq s i f).outReqs = s.outReqs := rfl
@[simp] theorem updMq_flushes (s : State) (i : Nat) (f : MqOp → MqOp) : (updMq s i f).flushes = s.flushes := rfl
@[simp] theorem updMq_binds (s : State) (i : Nat) (f : MqOp → MqOp) : (updMq s i f).binds = s.binds := rfl
@[simp] theorem updMq_portQ (s : State) (i : Nat) (f : MqOp → MqOp) : (updMq s i f).portQ = s.portQ := rfl
@[simp] theorem updMq_hostOut (s : State) (i : Nat) (f : MqOp → MqOp) : (updMq s i f).hostOut = s.hostOut := rfl
@[simp] theorem updMq_inbox (s : State) (i : Nat) (f : MqOp → MqOp) : (updMq s i f).inbox = s.inbox := rfl
@[simp] theorem updMq_gates (s : State) (i : Nat) (f : MqOp → MqOp) : (updMq s i f).gates = s.gates := rfl
@[simp] theorem updMq_taking (s : State) (i : Nat) (f : MqOp → MqOp) : (updMq s i f).taking = s.taking := rfl
@[simp] theorem updMq_ctxs (s : State) (i : Nat) (f : MqOp → MqOp) : (updMq s i f).ctxs = s.ctxs := rfl
@[simp] theorem updMq_tlb (s : State) (i : Nat) (f : MqOp → MqOp) : (updMq s i f).tlb = s.tlb := rfl
@[simp] theorem updMq_slices (s : State) (i : Nat) (f : MqOp → MqOp) : (updMq s i f).slices = s.slices := rfl
@[simp] theorem updMq_stale (s : State) (i : Nat) (f : MqOp → MqOp) : (updMq s i f).stale = s.stale := rfl
@[simp] theorem updMq_posted (s : State) (i : Nat) (f : MqOp → MqOp) : (updMq s i f).posted = s.posted := rfl
@[simp] theorem updMq_fetched (s : State) (i : Nat) (f : MqOp → MqOp) : (updMq s i f).fetched = s.fetched := rfl
@[simp] theorem updMq_reqNum (s : State) (i : Nat) (f : MqOp → MqOp) : (updMq s i f).reqNum = s.reqNum := rfl
@[simp] theorem updMq_stepPend (s : State) (i : Nat) (f : MqOp → MqOp) : (updMq s i f).stepPend = s.stepPend := rfl
@[simp] theorem updMq_network (s : State) (i : Nat) (f : MqOp → MqOp) : (updMq s i f).network = s.network := rfl
@[simp] theorem updMq_band (s : State) (i : Nat) (f : MqOp → MqOp) : (updMq s i f).band = s.band := rfl
@[simp] theorem updMq_occs (s : State) (i : Nat) (f : MqOp → MqOp) : (updMq s i f).occs = s.occs := rfl
@[simp] theorem updMq_portMap (s : State) (i : Nat) (f : MqOp → MqOp) : (updMq s i f).portMap = s.portMap := rfl
@[simp] theorem updMq_timexSent (s : State) (i : Nat) (f : MqOp → MqOp) : (updMq s i f).timexSent = s.timexSent := rfl
@[simp] theorem updMq_replies (s : State) (i : Nat) (f : MqOp → MqOp) : (updMq s i f).replies = s.replies := rfl
@[simp] theorem updMq_streamTab (s : State) (i : Nat) (f : MqOp → MqOp) : (updMq s i f).streamTab = s.streamTab := rfl
@[simp] theorem updMq_outbox (s : State) (i : Nat) (f : MqOp → MqOp) : (updMq s i f).outbox = s.outbox := rfl

/-! ### updXe -/

@[simp] theorem updXe_mem (s : State) (i : Nat) (f : XeOp → XeOp) : (updXe s i f).mem = s.mem := rfl
@[simp] theorem updXe_tags (s : State) (i : Nat) (f : XeOp → XeOp) : (updXe s i f).tags = s.tags := rfl
@[simp] theorem updXe_poison (s : State) (i : Nat) (f : XeOp → XeOp) : (updXe s i f).poison = s.poison := rfl
@[simp] theorem updXe_teams (s : State) (i : Nat) (f : XeOp → XeOp) : (updXe s i f).teams = s.teams := rfl
@[simp] theorem updXe_cores (s : State) (i : Nat) (f : XeOp → XeOp) : (updXe s i f).cores = s.cores := rfl
@[simp] theorem updXe_blocks (s : State) (i : Nat) (f : XeOp → XeOp) : (updXe s i f).blocks = s.blocks := rfl
@[simp] theorem updXe_dispatches (s : State) (i : Nat) (f : XeOp → XeOp) : (updXe s i f).dispatches = s.dispatches := rfl
@[simp] theorem updXe_stamps (s : State) (i : Nat) (f : XeOp → XeOp) : (updXe s i f).stamps = s.stamps := rfl
@[simp] theorem updXe_watches (s : State) (i : Nat) (f : XeOp → XeOp) : (updXe s i f).watches = s.watches := rfl
@[simp] theorem updXe_sideLog (s : State) (i : Nat) (f : XeOp → XeOp) : (updXe s i f).sideLog = s.sideLog := rfl
@[simp] theorem updXe_agenda (s : State) (i : Nat) (f : XeOp → XeOp) : (updXe s i f).agenda = s.agenda := rfl
@[simp] theorem updXe_event (s : State) (i : Nat) (f : XeOp → XeOp) : (updXe s i f).event = s.event := rfl
@[simp] theorem updXe_issueQ (s : State) (i : Nat) (f : XeOp → XeOp) : (updXe s i f).issueQ = s.issueQ := rfl
@[simp] theorem updXe_fresh (s : State) (i : Nat) (f : XeOp → XeOp) : (updXe s i f).fresh = s.fresh := rfl
@[simp] theorem updXe_nextOp (s : State) (i : Nat) (f : XeOp → XeOp) : (updXe s i f).nextOp = s.nextOp := rfl
@[simp] theorem updXe_cycle (s : State) (i : Nat) (f : XeOp → XeOp) : (updXe s i f).cycle = s.cycle := rfl
@[simp] theorem updXe_mqOps (s : State) (i : Nat) (f : XeOp → XeOp) : (updXe s i f).mqOps = s.mqOps := rfl
@[simp] theorem updXe_exchanges (s : State) (i : Nat) (f : XeOp → XeOp) : (updXe s i f).exchanges = s.exchanges := rfl
@[simp] theorem updXe_deliveries (s : State) (i : Nat) (f : XeOp → XeOp) : (updXe s i f).deliveries = s.deliveries := rfl
@[simp] theorem updXe_outReqs (s : State) (i : Nat) (f : XeOp → XeOp) : (updXe s i f).outReqs = s.outReqs := rfl
@[simp] theorem updXe_flushes (s : State) (i : Nat) (f : XeOp → XeOp) : (updXe s i f).flushes = s.flushes := rfl
@[simp] theorem updXe_binds (s : State) (i : Nat) (f : XeOp → XeOp) : (updXe s i f).binds = s.binds := rfl
@[simp] theorem updXe_portQ (s : State) (i : Nat) (f : XeOp → XeOp) : (updXe s i f).portQ = s.portQ := rfl
@[simp] theorem updXe_hostOut (s : State) (i : Nat) (f : XeOp → XeOp) : (updXe s i f).hostOut = s.hostOut := rfl
@[simp] theorem updXe_inbox (s : State) (i : Nat) (f : XeOp → XeOp) : (updXe s i f).inbox = s.inbox := rfl
@[simp] theorem updXe_gates (s : State) (i : Nat) (f : XeOp → XeOp) : (updXe s i f).gates = s.gates := rfl
@[simp] theorem updXe_taking (s : State) (i : Nat) (f : XeOp → XeOp) : (updXe s i f).taking = s.taking := rfl
@[simp] theorem updXe_ctxs (s : State) (i : Nat) (f : XeOp → XeOp) : (updXe s i f).ctxs = s.ctxs := rfl
@[simp] theorem updXe_tlb (s : State) (i : Nat) (f : XeOp → XeOp) : (updXe s i f).tlb = s.tlb := rfl
@[simp] theorem updXe_slices (s : State) (i : Nat) (f : XeOp → XeOp) : (updXe s i f).slices = s.slices := rfl
@[simp] theorem updXe_stale (s : State) (i : Nat) (f : XeOp → XeOp) : (updXe s i f).stale = s.stale := rfl
@[simp] theorem updXe_posted (s : State) (i : Nat) (f : XeOp → XeOp) : (updXe s i f).posted = s.posted := rfl
@[simp] theorem updXe_fetched (s : State) (i : Nat) (f : XeOp → XeOp) : (updXe s i f).fetched = s.fetched := rfl
@[simp] theorem updXe_reqNum (s : State) (i : Nat) (f : XeOp → XeOp) : (updXe s i f).reqNum = s.reqNum := rfl
@[simp] theorem updXe_stepPend (s : State) (i : Nat) (f : XeOp → XeOp) : (updXe s i f).stepPend = s.stepPend := rfl
@[simp] theorem updXe_network (s : State) (i : Nat) (f : XeOp → XeOp) : (updXe s i f).network = s.network := rfl
@[simp] theorem updXe_band (s : State) (i : Nat) (f : XeOp → XeOp) : (updXe s i f).band = s.band := rfl
@[simp] theorem updXe_occs (s : State) (i : Nat) (f : XeOp → XeOp) : (updXe s i f).occs = s.occs := rfl
@[simp] theorem updXe_portMap (s : State) (i : Nat) (f : XeOp → XeOp) : (updXe s i f).portMap = s.portMap := rfl
@[simp] theorem updXe_timexSent (s : State) (i : Nat) (f : XeOp → XeOp) : (updXe s i f).timexSent = s.timexSent := rfl
@[simp] theorem updXe_replies (s : State) (i : Nat) (f : XeOp → XeOp) : (updXe s i f).replies = s.replies := rfl
@[simp] theorem updXe_streamTab (s : State) (i : Nat) (f : XeOp → XeOp) : (updXe s i f).streamTab = s.streamTab := rfl
@[simp] theorem updXe_outbox (s : State) (i : Nat) (f : XeOp → XeOp) : (updXe s i f).outbox = s.outbox := rfl

/-! ### updExch -/

@[simp] theorem updExch_mem (s : State) (i : Nat) (f : Exchange → Exchange) : (updExch s i f).mem = s.mem := rfl
@[simp] theorem updExch_tags (s : State) (i : Nat) (f : Exchange → Exchange) : (updExch s i f).tags = s.tags := rfl
@[simp] theorem updExch_poison (s : State) (i : Nat) (f : Exchange → Exchange) : (updExch s i f).poison = s.poison := rfl
@[simp] theorem updExch_teams (s : State) (i : Nat) (f : Exchange → Exchange) : (updExch s i f).teams = s.teams := rfl
@[simp] theorem updExch_cores (s : State) (i : Nat) (f : Exchange → Exchange) : (updExch s i f).cores = s.cores := rfl
@[simp] theorem updExch_blocks (s : State) (i : Nat) (f : Exchange → Exchange) : (updExch s i f).blocks = s.blocks := rfl
@[simp] theorem updExch_dispatches (s : State) (i : Nat) (f : Exchange → Exchange) : (updExch s i f).dispatches = s.dispatches := rfl
@[simp] theorem updExch_stamps (s : State) (i : Nat) (f : Exchange → Exchange) : (updExch s i f).stamps = s.stamps := rfl
@[simp] theorem updExch_watches (s : State) (i : Nat) (f : Exchange → Exchange) : (updExch s i f).watches = s.watches := rfl
@[simp] theorem updExch_sideLog (s : State) (i : Nat) (f : Exchange → Exchange) : (updExch s i f).sideLog = s.sideLog := rfl
@[simp] theorem updExch_agenda (s : State) (i : Nat) (f : Exchange → Exchange) : (updExch s i f).agenda = s.agenda := rfl
@[simp] theorem updExch_event (s : State) (i : Nat) (f : Exchange → Exchange) : (updExch s i f).event = s.event := rfl
@[simp] theorem updExch_issueQ (s : State) (i : Nat) (f : Exchange → Exchange) : (updExch s i f).issueQ = s.issueQ := rfl
@[simp] theorem updExch_fresh (s : State) (i : Nat) (f : Exchange → Exchange) : (updExch s i f).fresh = s.fresh := rfl
@[simp] theorem updExch_nextOp (s : State) (i : Nat) (f : Exchange → Exchange) : (updExch s i f).nextOp = s.nextOp := rfl
@[simp] theorem updExch_cycle (s : State) (i : Nat) (f : Exchange → Exchange) : (updExch s i f).cycle = s.cycle := rfl
@[simp] theorem updExch_xeOps (s : State) (i : Nat) (f : Exchange → Exchange) : (updExch s i f).xeOps = s.xeOps := rfl
@[simp] theorem updExch_mqOps (s : State) (i : Nat) (f : Exchange → Exchange) : (updExch s i f).mqOps = s.mqOps := rfl
@[simp] theorem updExch_deliveries (s : State) (i : Nat) (f : Exchange → Exchange) : (updExch s i f).deliveries = s.deliveries := rfl
@[simp] theorem updExch_outReqs (s : State) (i : Nat) (f : Exchange → Exchange) : (updExch s i f).outReqs = s.outReqs := rfl
@[simp] theorem updExch_flushes (s : State) (i : Nat) (f : Exchange → Exchange) : (updExch s i f).flushes = s.flushes := rfl
@[simp] theorem updExch_binds (s : State) (i : Nat) (f : Exchange → Exchange) : (updExch s i f).binds = s.binds := rfl
@[simp] theorem updExch_portQ (s : State) (i : Nat) (f : Exchange → Exchange) : (updExch s i f).portQ = s.portQ := rfl
@[simp] theorem updExch_hostOut (s : State) (i : Nat) (f : Exchange → Exchange) : (updExch s i f).hostOut = s.hostOut := rfl
@[simp] theorem updExch_inbox (s : State) (i : Nat) (f : Exchange → Exchange) : (updExch s i f).inbox = s.inbox := rfl
@[simp] theorem updExch_gates (s : State) (i : Nat) (f : Exchange → Exchange) : (updExch s i f).gates = s.gates := rfl
@[simp] theorem updExch_taking (s : State) (i : Nat) (f : Exchange → Exchange) : (updExch s i f).taking = s.taking := rfl
@[simp] theorem updExch_ctxs (s : State) (i : Nat) (f : Exchange → Exchange) : (updExch s i f).ctxs = s.ctxs := rfl
@[simp] theorem updExch_tlb (s : State) (i : Nat) (f : Exchange → Exchange) : (updExch s i f).tlb = s.tlb := rfl
@[simp] theorem updExch_slices (s : State) (i : Nat) (f : Exchange → Exchange) : (updExch s i f).slices = s.slices := rfl
@[simp] theorem updExch_stale (s : State) (i : Nat) (f : Exchange → Exchange) : (updExch s i f).stale = s.stale := rfl
@[simp] theorem updExch_posted (s : State) (i : Nat) (f : Exchange → Exchange) : (updExch s i f).posted = s.posted := rfl
@[simp] theorem updExch_fetched (s : State) (i : Nat) (f : Exchange → Exchange) : (updExch s i f).fetched = s.fetched := rfl
@[simp] theorem updExch_reqNum (s : State) (i : Nat) (f : Exchange → Exchange) : (updExch s i f).reqNum = s.reqNum := rfl
@[simp] theorem updExch_stepPend (s : State) (i : Nat) (f : Exchange → Exchange) : (updExch s i f).stepPend = s.stepPend := rfl
@[simp] theorem updExch_network (s : State) (i : Nat) (f : Exchange → Exchange) : (updExch s i f).network = s.network := rfl
@[simp] theorem updExch_band (s : State) (i : Nat) (f : Exchange → Exchange) : (updExch s i f).band = s.band := rfl
@[simp] theorem updExch_occs (s : State) (i : Nat) (f : Exchange → Exchange) : (updExch s i f).occs = s.occs := rfl
@[simp] theorem updExch_portMap (s : State) (i : Nat) (f : Exchange → Exchange) : (updExch s i f).portMap = s.portMap := rfl
@[simp] theorem updExch_timexSent (s : State) (i : Nat) (f : Exchange → Exchange) : (updExch s i f).timexSent = s.timexSent := rfl
@[simp] theorem updExch_replies (s : State) (i : Nat) (f : Exchange → Exchange) : (updExch s i f).replies = s.replies := rfl
@[simp] theorem updExch_streamTab (s : State) (i : Nat) (f : Exchange → Exchange) : (updExch s i f).streamTab = s.streamTab := rfl
@[simp] theorem updExch_outbox (s : State) (i : Nat) (f : Exchange → Exchange) : (updExch s i f).outbox = s.outbox := rfl

/-! ### updDelivery -/

@[simp] theorem updDelivery_mem (s : State) (i : Nat) (f : Delivery → Delivery) : (updDelivery s i f).mem = s.mem := rfl
@[simp] theorem updDelivery_tags (s : State) (i : Nat) (f : Delivery → Delivery) : (updDelivery s i f).tags = s.tags := rfl
@[simp] theorem updDelivery_poison (s : State) (i : Nat) (f : Delivery → Delivery) : (updDelivery s i f).poison = s.poison := rfl
@[simp] theorem updDelivery_teams (s : State) (i : Nat) (f : Delivery → Delivery) : (updDelivery s i f).teams = s.teams := rfl
@[simp] theorem updDelivery_cores (s : State) (i : Nat) (f : Delivery → Delivery) : (updDelivery s i f).cores = s.cores := rfl
@[simp] theorem updDelivery_blocks (s : State) (i : Nat) (f : Delivery → Delivery) : (updDelivery s i f).blocks = s.blocks := rfl
@[simp] theorem updDelivery_dispatches (s : State) (i : Nat) (f : Delivery → Delivery) : (updDelivery s i f).dispatches = s.dispatches := rfl
@[simp] theorem updDelivery_stamps (s : State) (i : Nat) (f : Delivery → Delivery) : (updDelivery s i f).stamps = s.stamps := rfl
@[simp] theorem updDelivery_watches (s : State) (i : Nat) (f : Delivery → Delivery) : (updDelivery s i f).watches = s.watches := rfl
@[simp] theorem updDelivery_sideLog (s : State) (i : Nat) (f : Delivery → Delivery) : (updDelivery s i f).sideLog = s.sideLog := rfl
@[simp] theorem updDelivery_agenda (s : State) (i : Nat) (f : Delivery → Delivery) : (updDelivery s i f).agenda = s.agenda := rfl
@[simp] theorem updDelivery_event (s : State) (i : Nat) (f : Delivery → Delivery) : (updDelivery s i f).event = s.event := rfl
@[simp] theorem updDelivery_issueQ (s : State) (i : Nat) (f : Delivery → Delivery) : (updDelivery s i f).issueQ = s.issueQ := rfl
@[simp] theorem updDelivery_fresh (s : State) (i : Nat) (f : Delivery → Delivery) : (updDelivery s i f).fresh = s.fresh := rfl
@[simp] theorem updDelivery_nextOp (s : State) (i : Nat) (f : Delivery → Delivery) : (updDelivery s i f).nextOp = s.nextOp := rfl
@[simp] theorem updDelivery_cycle (s : State) (i : Nat) (f : Delivery → Delivery) : (updDelivery s i f).cycle = s.cycle := rfl
@[simp] theorem updDelivery_xeOps (s : State) (i : Nat) (f : Delivery → Delivery) : (updDelivery s i f).xeOps = s.xeOps := rfl
@[simp] theorem updDelivery_mqOps (s : State) (i : Nat) (f : Delivery → Delivery) : (updDelivery s i f).mqOps = s.mqOps := rfl
@[simp] theorem updDelivery_exchanges (s : State) (i : Nat) (f : Delivery → Delivery) : (updDelivery s i f).exchanges = s.exchanges := rfl
@[simp] theorem updDelivery_outReqs (s : State) (i : Nat) (f : Delivery → Delivery) : (updDelivery s i f).outReqs = s.outReqs := rfl
@[simp] theorem updDelivery_flushes (s : State) (i : Nat) (f : Delivery → Delivery) : (updDelivery s i f).flushes = s.flushes := rfl
@[simp] theorem updDelivery_binds (s : State) (i : Nat) (f : Delivery → Delivery) : (updDelivery s i f).binds = s.binds := rfl
@[simp] theorem updDelivery_portQ (s : State) (i : Nat) (f : Delivery → Delivery) : (updDelivery s i f).portQ = s.portQ := rfl
@[simp] theorem updDelivery_hostOut (s : State) (i : Nat) (f : Delivery → Delivery) : (updDelivery s i f).hostOut = s.hostOut := rfl
@[simp] theorem updDelivery_inbox (s : State) (i : Nat) (f : Delivery → Delivery) : (updDelivery s i f).inbox = s.inbox := rfl
@[simp] theorem updDelivery_gates (s : State) (i : Nat) (f : Delivery → Delivery) : (updDelivery s i f).gates = s.gates := rfl
@[simp] theorem updDelivery_taking (s : State) (i : Nat) (f : Delivery → Delivery) : (updDelivery s i f).taking = s.taking := rfl
@[simp] theorem updDelivery_ctxs (s : State) (i : Nat) (f : Delivery → Delivery) : (updDelivery s i f).ctxs = s.ctxs := rfl
@[simp] theorem updDelivery_tlb (s : State) (i : Nat) (f : Delivery → Delivery) : (updDelivery s i f).tlb = s.tlb := rfl
@[simp] theorem updDelivery_slices (s : State) (i : Nat) (f : Delivery → Delivery) : (updDelivery s i f).slices = s.slices := rfl
@[simp] theorem updDelivery_stale (s : State) (i : Nat) (f : Delivery → Delivery) : (updDelivery s i f).stale = s.stale := rfl
@[simp] theorem updDelivery_posted (s : State) (i : Nat) (f : Delivery → Delivery) : (updDelivery s i f).posted = s.posted := rfl
@[simp] theorem updDelivery_fetched (s : State) (i : Nat) (f : Delivery → Delivery) : (updDelivery s i f).fetched = s.fetched := rfl
@[simp] theorem updDelivery_reqNum (s : State) (i : Nat) (f : Delivery → Delivery) : (updDelivery s i f).reqNum = s.reqNum := rfl
@[simp] theorem updDelivery_stepPend (s : State) (i : Nat) (f : Delivery → Delivery) : (updDelivery s i f).stepPend = s.stepPend := rfl
@[simp] theorem updDelivery_network (s : State) (i : Nat) (f : Delivery → Delivery) : (updDelivery s i f).network = s.network := rfl
@[simp] theorem updDelivery_band (s : State) (i : Nat) (f : Delivery → Delivery) : (updDelivery s i f).band = s.band := rfl
@[simp] theorem updDelivery_occs (s : State) (i : Nat) (f : Delivery → Delivery) : (updDelivery s i f).occs = s.occs := rfl
@[simp] theorem updDelivery_portMap (s : State) (i : Nat) (f : Delivery → Delivery) : (updDelivery s i f).portMap = s.portMap := rfl
@[simp] theorem updDelivery_timexSent (s : State) (i : Nat) (f : Delivery → Delivery) : (updDelivery s i f).timexSent = s.timexSent := rfl
@[simp] theorem updDelivery_replies (s : State) (i : Nat) (f : Delivery → Delivery) : (updDelivery s i f).replies = s.replies := rfl
@[simp] theorem updDelivery_streamTab (s : State) (i : Nat) (f : Delivery → Delivery) : (updDelivery s i f).streamTab = s.streamTab := rfl
@[simp] theorem updDelivery_outbox (s : State) (i : Nat) (f : Delivery → Delivery) : (updDelivery s i f).outbox = s.outbox := rfl

/-! ### updStream -/

@[simp] theorem updStream_mem (s : State) (h : Hdr) (f : StreamEntry → StreamEntry) : (updStream s h f).mem = s.mem := rfl
@[simp] theorem updStream_tags (s : State) (h : Hdr) (f : StreamEntry → StreamEntry) : (updStream s h f).tags = s.tags := rfl
@[simp] theorem updStream_poison (s : State) (h : Hdr) (f : StreamEntry → StreamEntry) : (updStream s h f).poison = s.poison := rfl
@[simp] theorem updStream_teams (s : State) (h : Hdr) (f : StreamEntry → StreamEntry) : (updStream s h f).teams = s.teams := rfl
@[simp] theorem updStream_cores (s : State) (h : Hdr) (f : StreamEntry → StreamEntry) : (updStream s h f).cores = s.cores := rfl
@[simp] theorem updStream_blocks (s : State) (h : Hdr) (f : StreamEntry → StreamEntry) : (updStream s h f).blocks = s.blocks := rfl
@[simp] theorem updStream_dispatches (s : State) (h : Hdr) (f : StreamEntry → StreamEntry) : (updStream s h f).dispatches = s.dispatches := rfl
@[simp] theorem updStream_stamps (s : State) (h : Hdr) (f : StreamEntry → StreamEntry) : (updStream s h f).stamps = s.stamps := rfl
@[simp] theorem updStream_watches (s : State) (h : Hdr) (f : StreamEntry → StreamEntry) : (updStream s h f).watches = s.watches := rfl
@[simp] theorem updStream_sideLog (s : State) (h : Hdr) (f : StreamEntry → StreamEntry) : (updStream s h f).sideLog = s.sideLog := rfl
@[simp] theorem updStream_agenda (s : State) (h : Hdr) (f : StreamEntry → StreamEntry) : (updStream s h f).agenda = s.agenda := rfl
@[simp] theorem updStream_event (s : State) (h : Hdr) (f : StreamEntry → StreamEntry) : (updStream s h f).event = s.event := rfl
@[simp] theorem updStream_issueQ (s : State) (h : Hdr) (f : StreamEntry → StreamEntry) : (updStream s h f).issueQ = s.issueQ := rfl
@[simp] theorem updStream_fresh (s : State) (h : Hdr) (f : StreamEntry → StreamEntry) : (updStream s h f).fresh = s.fresh := rfl
@[simp] theorem updStream_nextOp (s : State) (h : Hdr) (f : StreamEntry → StreamEntry) : (updStream s h f).nextOp = s.nextOp := rfl
@[simp] theorem updStream_cycle (s : State) (h : Hdr) (f : StreamEntry → StreamEntry) : (updStream s h f).cycle = s.cycle := rfl
@[simp] theorem updStream_xeOps (s : State) (h : Hdr) (f : StreamEntry → StreamEntry) : (updStream s h f).xeOps = s.xeOps := rfl
@[simp] theorem updStream_mqOps (s : State) (h : Hdr) (f : StreamEntry → StreamEntry) : (updStream s h f).mqOps = s.mqOps := rfl
@[simp] theorem updStream_exchanges (s : State) (h : Hdr) (f : StreamEntry → StreamEntry) : (updStream s h f).exchanges = s.exchanges := rfl
@[simp] theorem updStream_deliveries (s : State) (h : Hdr) (f : StreamEntry → StreamEntry) : (updStream s h f).deliveries = s.deliveries := rfl
@[simp] theorem updStream_outReqs (s : State) (h : Hdr) (f : StreamEntry → StreamEntry) : (updStream s h f).outReqs = s.outReqs := rfl
@[simp] theorem updStream_flushes (s : State) (h : Hdr) (f : StreamEntry → StreamEntry) : (updStream s h f).flushes = s.flushes := rfl
@[simp] theorem updStream_binds (s : State) (h : Hdr) (f : StreamEntry → StreamEntry) : (updStream s h f).binds = s.binds := rfl
@[simp] theorem updStream_portQ (s : State) (h : Hdr) (f : StreamEntry → StreamEntry) : (updStream s h f).portQ = s.portQ := rfl
@[simp] theorem updStream_hostOut (s : State) (h : Hdr) (f : StreamEntry → StreamEntry) : (updStream s h f).hostOut = s.hostOut := rfl
@[simp] theorem updStream_inbox (s : State) (h : Hdr) (f : StreamEntry → StreamEntry) : (updStream s h f).inbox = s.inbox := rfl
@[simp] theorem updStream_gates (s : State) (h : Hdr) (f : StreamEntry → StreamEntry) : (updStream s h f).gates = s.gates := rfl
@[simp] theorem updStream_taking (s : State) (h : Hdr) (f : StreamEntry → StreamEntry) : (updStream s h f).taking = s.taking := rfl
@[simp] theorem updStream_ctxs (s : State) (h : Hdr) (f : StreamEntry → StreamEntry) : (updStream s h f).ctxs = s.ctxs := rfl
@[simp] theorem updStream_tlb (s : State) (h : Hdr) (f : StreamEntry → StreamEntry) : (updStream s h f).tlb = s.tlb := rfl
@[simp] theorem updStream_slices (s : State) (h : Hdr) (f : StreamEntry → StreamEntry) : (updStream s h f).slices = s.slices := rfl
@[simp] theorem updStream_stale (s : State) (h : Hdr) (f : StreamEntry → StreamEntry) : (updStream s h f).stale = s.stale := rfl
@[simp] theorem updStream_posted (s : State) (h : Hdr) (f : StreamEntry → StreamEntry) : (updStream s h f).posted = s.posted := rfl
@[simp] theorem updStream_fetched (s : State) (h : Hdr) (f : StreamEntry → StreamEntry) : (updStream s h f).fetched = s.fetched := rfl
@[simp] theorem updStream_reqNum (s : State) (h : Hdr) (f : StreamEntry → StreamEntry) : (updStream s h f).reqNum = s.reqNum := rfl
@[simp] theorem updStream_stepPend (s : State) (h : Hdr) (f : StreamEntry → StreamEntry) : (updStream s h f).stepPend = s.stepPend := rfl
@[simp] theorem updStream_network (s : State) (h : Hdr) (f : StreamEntry → StreamEntry) : (updStream s h f).network = s.network := rfl
@[simp] theorem updStream_band (s : State) (h : Hdr) (f : StreamEntry → StreamEntry) : (updStream s h f).band = s.band := rfl
@[simp] theorem updStream_occs (s : State) (h : Hdr) (f : StreamEntry → StreamEntry) : (updStream s h f).occs = s.occs := rfl
@[simp] theorem updStream_portMap (s : State) (h : Hdr) (f : StreamEntry → StreamEntry) : (updStream s h f).portMap = s.portMap := rfl
@[simp] theorem updStream_timexSent (s : State) (h : Hdr) (f : StreamEntry → StreamEntry) : (updStream s h f).timexSent = s.timexSent := rfl
@[simp] theorem updStream_replies (s : State) (h : Hdr) (f : StreamEntry → StreamEntry) : (updStream s h f).replies = s.replies := rfl
@[simp] theorem updStream_outbox (s : State) (h : Hdr) (f : StreamEntry → StreamEntry) : (updStream s h f).outbox = s.outbox := rfl

/-! ### updFlight -/

@[simp] theorem updFlight_mem (s : State) (k : TeamKey) (i : Nat) (f : InFlight → InFlight) : (updFlight s k i f).mem = s.mem := rfl
@[simp] theorem updFlight_tags (s : State) (k : TeamKey) (i : Nat) (f : InFlight → InFlight) : (updFlight s k i f).tags = s.tags := rfl
@[simp] theorem updFlight_poison (s : State) (k : TeamKey) (i : Nat) (f : InFlight → InFlight) : (updFlight s k i f).poison = s.poison := rfl
@[simp] theorem updFlight_cores (s : State) (k : TeamKey) (i : Nat) (f : InFlight → InFlight) : (updFlight s k i f).cores = s.cores := rfl
@[simp] theorem updFlight_blocks (s : State) (k : TeamKey) (i : Nat) (f : InFlight → InFlight) : (updFlight s k i f).blocks = s.blocks := rfl
@[simp] theorem updFlight_dispatches (s : State) (k : TeamKey) (i : Nat) (f : InFlight → InFlight) : (updFlight s k i f).dispatches = s.dispatches := rfl
@[simp] theorem updFlight_stamps (s : State) (k : TeamKey) (i : Nat) (f : InFlight → InFlight) : (updFlight s k i f).stamps = s.stamps := rfl
@[simp] theorem updFlight_watches (s : State) (k : TeamKey) (i : Nat) (f : InFlight → InFlight) : (updFlight s k i f).watches = s.watches := rfl
@[simp] theorem updFlight_sideLog (s : State) (k : TeamKey) (i : Nat) (f : InFlight → InFlight) : (updFlight s k i f).sideLog = s.sideLog := rfl
@[simp] theorem updFlight_agenda (s : State) (k : TeamKey) (i : Nat) (f : InFlight → InFlight) : (updFlight s k i f).agenda = s.agenda := rfl
@[simp] theorem updFlight_event (s : State) (k : TeamKey) (i : Nat) (f : InFlight → InFlight) : (updFlight s k i f).event = s.event := rfl
@[simp] theorem updFlight_issueQ (s : State) (k : TeamKey) (i : Nat) (f : InFlight → InFlight) : (updFlight s k i f).issueQ = s.issueQ := rfl
@[simp] theorem updFlight_fresh (s : State) (k : TeamKey) (i : Nat) (f : InFlight → InFlight) : (updFlight s k i f).fresh = s.fresh := rfl
@[simp] theorem updFlight_nextOp (s : State) (k : TeamKey) (i : Nat) (f : InFlight → InFlight) : (updFlight s k i f).nextOp = s.nextOp := rfl
@[simp] theorem updFlight_cycle (s : State) (k : TeamKey) (i : Nat) (f : InFlight → InFlight) : (updFlight s k i f).cycle = s.cycle := rfl
@[simp] theorem updFlight_xeOps (s : State) (k : TeamKey) (i : Nat) (f : InFlight → InFlight) : (updFlight s k i f).xeOps = s.xeOps := rfl
@[simp] theorem updFlight_mqOps (s : State) (k : TeamKey) (i : Nat) (f : InFlight → InFlight) : (updFlight s k i f).mqOps = s.mqOps := rfl
@[simp] theorem updFlight_exchanges (s : State) (k : TeamKey) (i : Nat) (f : InFlight → InFlight) : (updFlight s k i f).exchanges = s.exchanges := rfl
@[simp] theorem updFlight_deliveries (s : State) (k : TeamKey) (i : Nat) (f : InFlight → InFlight) : (updFlight s k i f).deliveries = s.deliveries := rfl
@[simp] theorem updFlight_outReqs (s : State) (k : TeamKey) (i : Nat) (f : InFlight → InFlight) : (updFlight s k i f).outReqs = s.outReqs := rfl
@[simp] theorem updFlight_flushes (s : State) (k : TeamKey) (i : Nat) (f : InFlight → InFlight) : (updFlight s k i f).flushes = s.flushes := rfl
@[simp] theorem updFlight_binds (s : State) (k : TeamKey) (i : Nat) (f : InFlight → InFlight) : (updFlight s k i f).binds = s.binds := rfl
@[simp] theorem updFlight_portQ (s : State) (k : TeamKey) (i : Nat) (f : InFlight → InFlight) : (updFlight s k i f).portQ = s.portQ := rfl
@[simp] theorem updFlight_hostOut (s : State) (k : TeamKey) (i : Nat) (f : InFlight → InFlight) : (updFlight s k i f).hostOut = s.hostOut := rfl
@[simp] theorem updFlight_inbox (s : State) (k : TeamKey) (i : Nat) (f : InFlight → InFlight) : (updFlight s k i f).inbox = s.inbox := rfl
@[simp] theorem updFlight_gates (s : State) (k : TeamKey) (i : Nat) (f : InFlight → InFlight) : (updFlight s k i f).gates = s.gates := rfl
@[simp] theorem updFlight_taking (s : State) (k : TeamKey) (i : Nat) (f : InFlight → InFlight) : (updFlight s k i f).taking = s.taking := rfl
@[simp] theorem updFlight_ctxs (s : State) (k : TeamKey) (i : Nat) (f : InFlight → InFlight) : (updFlight s k i f).ctxs = s.ctxs := rfl
@[simp] theorem updFlight_tlb (s : State) (k : TeamKey) (i : Nat) (f : InFlight → InFlight) : (updFlight s k i f).tlb = s.tlb := rfl
@[simp] theorem updFlight_slices (s : State) (k : TeamKey) (i : Nat) (f : InFlight → InFlight) : (updFlight s k i f).slices = s.slices := rfl
@[simp] theorem updFlight_stale (s : State) (k : TeamKey) (i : Nat) (f : InFlight → InFlight) : (updFlight s k i f).stale = s.stale := rfl
@[simp] theorem updFlight_posted (s : State) (k : TeamKey) (i : Nat) (f : InFlight → InFlight) : (updFlight s k i f).posted = s.posted := rfl
@[simp] theorem updFlight_fetched (s : State) (k : TeamKey) (i : Nat) (f : InFlight → InFlight) : (updFlight s k i f).fetched = s.fetched := rfl
@[simp] theorem updFlight_reqNum (s : State) (k : TeamKey) (i : Nat) (f : InFlight → InFlight) : (updFlight s k i f).reqNum = s.reqNum := rfl
@[simp] theorem updFlight_stepPend (s : State) (k : TeamKey) (i : Nat) (f : InFlight → InFlight) : (updFlight s k i f).stepPend = s.stepPend := rfl
@[simp] theorem updFlight_network (s : State) (k : TeamKey) (i : Nat) (f : InFlight → InFlight) : (updFlight s k i f).network = s.network := rfl
@[simp] theorem updFlight_band (s : State) (k : TeamKey) (i : Nat) (f : InFlight → InFlight) : (updFlight s k i f).band = s.band := rfl
@[simp] theorem updFlight_occs (s : State) (k : TeamKey) (i : Nat) (f : InFlight → InFlight) : (updFlight s k i f).occs = s.occs := rfl
@[simp] theorem updFlight_portMap (s : State) (k : TeamKey) (i : Nat) (f : InFlight → InFlight) : (updFlight s k i f).portMap = s.portMap := rfl
@[simp] theorem updFlight_timexSent (s : State) (k : TeamKey) (i : Nat) (f : InFlight → InFlight) : (updFlight s k i f).timexSent = s.timexSent := rfl
@[simp] theorem updFlight_replies (s : State) (k : TeamKey) (i : Nat) (f : InFlight → InFlight) : (updFlight s k i f).replies = s.replies := rfl
@[simp] theorem updFlight_streamTab (s : State) (k : TeamKey) (i : Nat) (f : InFlight → InFlight) : (updFlight s k i f).streamTab = s.streamTab := rfl
@[simp] theorem updFlight_outbox (s : State) (k : TeamKey) (i : Nat) (f : InFlight → InFlight) : (updFlight s k i f).outbox = s.outbox := rfl

/-! ### updQueue -/

@[simp] theorem updQueue_mem (s : State) (c n : Nat) (f : Queue → Queue) : (updQueue s c n f).mem = s.mem := rfl
@[simp] theorem updQueue_tags (s : State) (c n : Nat) (f : Queue → Queue) : (updQueue s c n f).tags = s.tags := rfl
@[simp] theorem updQueue_poison (s : State) (c n : Nat) (f : Queue → Queue) : (updQueue s c n f).poison = s.poison := rfl
@[simp] theorem updQueue_teams (s : State) (c n : Nat) (f : Queue → Queue) : (updQueue s c n f).teams = s.teams := rfl
@[simp] theorem updQueue_cores (s : State) (c n : Nat) (f : Queue → Queue) : (updQueue s c n f).cores = s.cores := rfl
@[simp] theorem updQueue_blocks (s : State) (c n : Nat) (f : Queue → Queue) : (updQueue s c n f).blocks = s.blocks := rfl
@[simp] theorem updQueue_dispatches (s : State) (c n : Nat) (f : Queue → Queue) : (updQueue s c n f).dispatches = s.dispatches := rfl
@[simp] theorem updQueue_stamps (s : State) (c n : Nat) (f : Queue → Queue) : (updQueue s c n f).stamps = s.stamps := rfl
@[simp] theorem updQueue_watches (s : State) (c n : Nat) (f : Queue → Queue) : (updQueue s c n f).watches = s.watches := rfl
@[simp] theorem updQueue_sideLog (s : State) (c n : Nat) (f : Queue → Queue) : (updQueue s c n f).sideLog = s.sideLog := rfl
@[simp] theorem updQueue_agenda (s : State) (c n : Nat) (f : Queue → Queue) : (updQueue s c n f).agenda = s.agenda := rfl
@[simp] theorem updQueue_event (s : State) (c n : Nat) (f : Queue → Queue) : (updQueue s c n f).event = s.event := rfl
@[simp] theorem updQueue_issueQ (s : State) (c n : Nat) (f : Queue → Queue) : (updQueue s c n f).issueQ = s.issueQ := rfl
@[simp] theorem updQueue_fresh (s : State) (c n : Nat) (f : Queue → Queue) : (updQueue s c n f).fresh = s.fresh := rfl
@[simp] theorem updQueue_nextOp (s : State) (c n : Nat) (f : Queue → Queue) : (updQueue s c n f).nextOp = s.nextOp := rfl
@[simp] theorem updQueue_cycle (s : State) (c n : Nat) (f : Queue → Queue) : (updQueue s c n f).cycle = s.cycle := rfl
@[simp] theorem updQueue_xeOps (s : State) (c n : Nat) (f : Queue → Queue) : (updQueue s c n f).xeOps = s.xeOps := rfl
@[simp] theorem updQueue_mqOps (s : State) (c n : Nat) (f : Queue → Queue) : (updQueue s c n f).mqOps = s.mqOps := rfl
@[simp] theorem updQueue_exchanges (s : State) (c n : Nat) (f : Queue → Queue) : (updQueue s c n f).exchanges = s.exchanges := rfl
@[simp] theorem updQueue_deliveries (s : State) (c n : Nat) (f : Queue → Queue) : (updQueue s c n f).deliveries = s.deliveries := rfl
@[simp] theorem updQueue_outReqs (s : State) (c n : Nat) (f : Queue → Queue) : (updQueue s c n f).outReqs = s.outReqs := rfl
@[simp] theorem updQueue_flushes (s : State) (c n : Nat) (f : Queue → Queue) : (updQueue s c n f).flushes = s.flushes := rfl
@[simp] theorem updQueue_binds (s : State) (c n : Nat) (f : Queue → Queue) : (updQueue s c n f).binds = s.binds := rfl
@[simp] theorem updQueue_portQ (s : State) (c n : Nat) (f : Queue → Queue) : (updQueue s c n f).portQ = s.portQ := rfl
@[simp] theorem updQueue_hostOut (s : State) (c n : Nat) (f : Queue → Queue) : (updQueue s c n f).hostOut = s.hostOut := rfl
@[simp] theorem updQueue_inbox (s : State) (c n : Nat) (f : Queue → Queue) : (updQueue s c n f).inbox = s.inbox := rfl
@[simp] theorem updQueue_gates (s : State) (c n : Nat) (f : Queue → Queue) : (updQueue s c n f).gates = s.gates := rfl
@[simp] theorem updQueue_taking (s : State) (c n : Nat) (f : Queue → Queue) : (updQueue s c n f).taking = s.taking := rfl
@[simp] theorem updQueue_tlb (s : State) (c n : Nat) (f : Queue → Queue) : (updQueue s c n f).tlb = s.tlb := rfl
@[simp] theorem updQueue_slices (s : State) (c n : Nat) (f : Queue → Queue) : (updQueue s c n f).slices = s.slices := rfl
@[simp] theorem updQueue_stale (s : State) (c n : Nat) (f : Queue → Queue) : (updQueue s c n f).stale = s.stale := rfl
@[simp] theorem updQueue_posted (s : State) (c n : Nat) (f : Queue → Queue) : (updQueue s c n f).posted = s.posted := rfl
@[simp] theorem updQueue_fetched (s : State) (c n : Nat) (f : Queue → Queue) : (updQueue s c n f).fetched = s.fetched := rfl
@[simp] theorem updQueue_reqNum (s : State) (c n : Nat) (f : Queue → Queue) : (updQueue s c n f).reqNum = s.reqNum := rfl
@[simp] theorem updQueue_stepPend (s : State) (c n : Nat) (f : Queue → Queue) : (updQueue s c n f).stepPend = s.stepPend := rfl
@[simp] theorem updQueue_network (s : State) (c n : Nat) (f : Queue → Queue) : (updQueue s c n f).network = s.network := rfl
@[simp] theorem updQueue_band (s : State) (c n : Nat) (f : Queue → Queue) : (updQueue s c n f).band = s.band := rfl
@[simp] theorem updQueue_occs (s : State) (c n : Nat) (f : Queue → Queue) : (updQueue s c n f).occs = s.occs := rfl
@[simp] theorem updQueue_portMap (s : State) (c n : Nat) (f : Queue → Queue) : (updQueue s c n f).portMap = s.portMap := rfl
@[simp] theorem updQueue_timexSent (s : State) (c n : Nat) (f : Queue → Queue) : (updQueue s c n f).timexSent = s.timexSent := rfl
@[simp] theorem updQueue_replies (s : State) (c n : Nat) (f : Queue → Queue) : (updQueue s c n f).replies = s.replies := rfl
@[simp] theorem updQueue_streamTab (s : State) (c n : Nat) (f : Queue → Queue) : (updQueue s c n f).streamTab = s.streamTab := rfl
@[simp] theorem updQueue_outbox (s : State) (c n : Nat) (f : Queue → Queue) : (updQueue s c n f).outbox = s.outbox := rfl

/-! ### updSlot -/

@[simp] theorem updSlot_mem (s : State) (c g : Nat) (f : GridSlot → GridSlot) : (updSlot s c g f).mem = s.mem := rfl
@[simp] theorem updSlot_tags (s : State) (c g : Nat) (f : GridSlot → GridSlot) : (updSlot s c g f).tags = s.tags := rfl
@[simp] theorem updSlot_poison (s : State) (c g : Nat) (f : GridSlot → GridSlot) : (updSlot s c g f).poison = s.poison := rfl
@[simp] theorem updSlot_teams (s : State) (c g : Nat) (f : GridSlot → GridSlot) : (updSlot s c g f).teams = s.teams := rfl
@[simp] theorem updSlot_cores (s : State) (c g : Nat) (f : GridSlot → GridSlot) : (updSlot s c g f).cores = s.cores := rfl
@[simp] theorem updSlot_blocks (s : State) (c g : Nat) (f : GridSlot → GridSlot) : (updSlot s c g f).blocks = s.blocks := rfl
@[simp] theorem updSlot_dispatches (s : State) (c g : Nat) (f : GridSlot → GridSlot) : (updSlot s c g f).dispatches = s.dispatches := rfl
@[simp] theorem updSlot_stamps (s : State) (c g : Nat) (f : GridSlot → GridSlot) : (updSlot s c g f).stamps = s.stamps := rfl
@[simp] theorem updSlot_watches (s : State) (c g : Nat) (f : GridSlot → GridSlot) : (updSlot s c g f).watches = s.watches := rfl
@[simp] theorem updSlot_sideLog (s : State) (c g : Nat) (f : GridSlot → GridSlot) : (updSlot s c g f).sideLog = s.sideLog := rfl
@[simp] theorem updSlot_agenda (s : State) (c g : Nat) (f : GridSlot → GridSlot) : (updSlot s c g f).agenda = s.agenda := rfl
@[simp] theorem updSlot_event (s : State) (c g : Nat) (f : GridSlot → GridSlot) : (updSlot s c g f).event = s.event := rfl
@[simp] theorem updSlot_issueQ (s : State) (c g : Nat) (f : GridSlot → GridSlot) : (updSlot s c g f).issueQ = s.issueQ := rfl
@[simp] theorem updSlot_fresh (s : State) (c g : Nat) (f : GridSlot → GridSlot) : (updSlot s c g f).fresh = s.fresh := rfl
@[simp] theorem updSlot_nextOp (s : State) (c g : Nat) (f : GridSlot → GridSlot) : (updSlot s c g f).nextOp = s.nextOp := rfl
@[simp] theorem updSlot_cycle (s : State) (c g : Nat) (f : GridSlot → GridSlot) : (updSlot s c g f).cycle = s.cycle := rfl
@[simp] theorem updSlot_xeOps (s : State) (c g : Nat) (f : GridSlot → GridSlot) : (updSlot s c g f).xeOps = s.xeOps := rfl
@[simp] theorem updSlot_mqOps (s : State) (c g : Nat) (f : GridSlot → GridSlot) : (updSlot s c g f).mqOps = s.mqOps := rfl
@[simp] theorem updSlot_exchanges (s : State) (c g : Nat) (f : GridSlot → GridSlot) : (updSlot s c g f).exchanges = s.exchanges := rfl
@[simp] theorem updSlot_deliveries (s : State) (c g : Nat) (f : GridSlot → GridSlot) : (updSlot s c g f).deliveries = s.deliveries := rfl
@[simp] theorem updSlot_outReqs (s : State) (c g : Nat) (f : GridSlot → GridSlot) : (updSlot s c g f).outReqs = s.outReqs := rfl
@[simp] theorem updSlot_flushes (s : State) (c g : Nat) (f : GridSlot → GridSlot) : (updSlot s c g f).flushes = s.flushes := rfl
@[simp] theorem updSlot_binds (s : State) (c g : Nat) (f : GridSlot → GridSlot) : (updSlot s c g f).binds = s.binds := rfl
@[simp] theorem updSlot_portQ (s : State) (c g : Nat) (f : GridSlot → GridSlot) : (updSlot s c g f).portQ = s.portQ := rfl
@[simp] theorem updSlot_hostOut (s : State) (c g : Nat) (f : GridSlot → GridSlot) : (updSlot s c g f).hostOut = s.hostOut := rfl
@[simp] theorem updSlot_inbox (s : State) (c g : Nat) (f : GridSlot → GridSlot) : (updSlot s c g f).inbox = s.inbox := rfl
@[simp] theorem updSlot_gates (s : State) (c g : Nat) (f : GridSlot → GridSlot) : (updSlot s c g f).gates = s.gates := rfl
@[simp] theorem updSlot_taking (s : State) (c g : Nat) (f : GridSlot → GridSlot) : (updSlot s c g f).taking = s.taking := rfl
@[simp] theorem updSlot_tlb (s : State) (c g : Nat) (f : GridSlot → GridSlot) : (updSlot s c g f).tlb = s.tlb := rfl
@[simp] theorem updSlot_slices (s : State) (c g : Nat) (f : GridSlot → GridSlot) : (updSlot s c g f).slices = s.slices := rfl
@[simp] theorem updSlot_stale (s : State) (c g : Nat) (f : GridSlot → GridSlot) : (updSlot s c g f).stale = s.stale := rfl
@[simp] theorem updSlot_posted (s : State) (c g : Nat) (f : GridSlot → GridSlot) : (updSlot s c g f).posted = s.posted := rfl
@[simp] theorem updSlot_fetched (s : State) (c g : Nat) (f : GridSlot → GridSlot) : (updSlot s c g f).fetched = s.fetched := rfl
@[simp] theorem updSlot_reqNum (s : State) (c g : Nat) (f : GridSlot → GridSlot) : (updSlot s c g f).reqNum = s.reqNum := rfl
@[simp] theorem updSlot_stepPend (s : State) (c g : Nat) (f : GridSlot → GridSlot) : (updSlot s c g f).stepPend = s.stepPend := rfl
@[simp] theorem updSlot_network (s : State) (c g : Nat) (f : GridSlot → GridSlot) : (updSlot s c g f).network = s.network := rfl
@[simp] theorem updSlot_band (s : State) (c g : Nat) (f : GridSlot → GridSlot) : (updSlot s c g f).band = s.band := rfl
@[simp] theorem updSlot_occs (s : State) (c g : Nat) (f : GridSlot → GridSlot) : (updSlot s c g f).occs = s.occs := rfl
@[simp] theorem updSlot_portMap (s : State) (c g : Nat) (f : GridSlot → GridSlot) : (updSlot s c g f).portMap = s.portMap := rfl
@[simp] theorem updSlot_timexSent (s : State) (c g : Nat) (f : GridSlot → GridSlot) : (updSlot s c g f).timexSent = s.timexSent := rfl
@[simp] theorem updSlot_replies (s : State) (c g : Nat) (f : GridSlot → GridSlot) : (updSlot s c g f).replies = s.replies := rfl
@[simp] theorem updSlot_streamTab (s : State) (c g : Nat) (f : GridSlot → GridSlot) : (updSlot s c g f).streamTab = s.streamTab := rfl
@[simp] theorem updSlot_outbox (s : State) (c g : Nat) (f : GridSlot → GridSlot) : (updSlot s c g f).outbox = s.outbox := rfl

end Sys2Proof.Machine
end

