-- ==== Sys2Proof/Laws/Tables.lean ====
section
/-! SUPPORT. Reading a table of the state after a named update of it. -/
namespace Sys2Proof.Machine

theorem ctxOf_updCtx (s : State) (c : Nat) (f : Ctx → Ctx) (k : Nat) :
    ctxOf (updCtx s c f) k = if k = c then f (ctxOf s c) else ctxOf s k := mapGet_set _ _ _ _ _

theorem coreOf_updCore (s : State) (c : Nat) (f : Core → Core) (k : Nat) :
    coreOf (updCore s c f) k = if k = c then f (coreOf s c) else coreOf s k := mapGet_set _ _ _ _ _

theorem gateOf_updGate (s : State) (g : Nat) (f : Gate → Gate) (k : Nat) :
    gateOf (updGate s g f) k = if k = g then f (gateOf s g) else gateOf s k := mapGet_set _ _ _ _ _

/-- Looking up in a list of records of which those that answer to one key are changed, the keys staying as they are. -/
theorem find_map_key {α : Type} (p q : α → Bool) (f : α → α) (l : List α) (hf : ∀ a, p (f a) = p a) (hd : ∀ a, p a = true → q a = p a) :
    (l.map (fun a => if q a = true then f a else a)).find? p = (l.find? p).map f := by
  induction l with
  | nil => rfl
  | cons a l ih =>
    by_cases hp : p a = true
    · have hq : q a = true := by rw [hd a hp]; exact hp
      simp [hq, hf, hp]
    · by_cases hq : q a = true
      · simp [hq, hf, hp]; simpa using ih
      · simp [hq, hp]; simpa using ih

theorem find_map_other {α : Type} (p q : α → Bool) (f : α → α) (l : List α) (hf : ∀ a, p (f a) = p a)
    (hd : ∀ a, p a = true → q a = false) : (l.map (fun a => if q a = true then f a else a)).find? p = l.find? p := by
  induction l with
  | nil => rfl
  | cons a l ih =>
    by_cases hp : p a = true
    · have hq := hd a hp
      simp [hq, hp]
    · by_cases hq : q a = true
      · simp [hq, hf, hp]; simpa using ih
      · simp [hq, hp]; simpa using ih

theorem teamOf_updTeam (s : State) (k : TeamKey) (f : Team → Team) (k' : TeamKey) (hf : ∀ t, (f t).key = t.key) :
    teamOf (updTeam s k f) k' = if k' = k then (teamOf s k).map f else teamOf s k' := by
  unfold teamOf updTeam
  have e : (fun t : Team => if t.key = k then f t else t) = (fun t => if decide (t.key = k) = true then f t else t) := by
    funext t; simp
  split
  · next h =>
    subst h
    simp only [e]
    exact find_map_key _ _ f s.teams (fun t => by simp [hf]) (fun _ _ => rfl)
  · next h =>
    simp only [e]
    refine find_map_other _ _ f s.teams (fun t => by simp [hf]) (fun t ht => ?_)
    simp at ht ⊢
    exact fun e => h (ht.symm.trans e)

theorem blockOf_updBlock (s : State) (d : BitVec 64) (i : Nat) (f : Block → Block) (d' : BitVec 64) (i' : Nat)
    (hf : ∀ b, (f b).disp = b.disp ∧ (f b).index = b.index) :
    blockOf (updBlock s d i f) d' i' = if d' = d ∧ i' = i then (blockOf s d i).map f else blockOf s d' i' := by
  unfold blockOf updBlock
  have e : (fun b : Block => if b.disp = d ∧ b.index = i then f b else b) =
      (fun b => if decide (b.disp = d ∧ b.index = i) = true then f b else b) := by
    funext t; simp
  simp only [e]
  split
  · next h =>
    rw [h.1, h.2]
    exact find_map_key _ _ f s.blocks (fun t => by simp [hf]) (fun _ _ => rfl)
  · next h =>
    refine find_map_other _ _ f s.blocks (fun t => by simp [hf]) (fun t ht => ?_)
    simp at ht ⊢
    intro a b
    exact h ⟨ht.1.symm.trans a, ht.2.symm.trans b⟩

theorem dispOf_updDisp (s : State) (d : BitVec 64) (f : Dispatch → Dispatch) (d' : BitVec 64) (hf : ∀ a, (f a).id = a.id) :
    dispOf (updDisp s d f) d' = if d' = d then (dispOf s d).map f else dispOf s d' := by
  unfold dispOf updDisp
  have e : (fun a : Dispatch => if a.id = d then f a else a) = (fun a => if decide (a.id = d) = true then f a else a) := by
    funext t; simp
  simp only [e]
  split
  · next h =>
    subst h
    exact find_map_key _ _ f s.dispatches (fun t => by simp [hf]) (fun _ _ => rfl)
  · next h =>
    refine find_map_other _ _ f s.dispatches (fun t => by simp [hf]) (fun t ht => ?_)
    simp at ht ⊢
    exact fun e => h (ht.symm.trans e)

/-! ### Splits of a team -/

@[simp] theorem splitIn_putSplit (t : Team) (h : Bool) (sp : Option Split) : splitIn (putSplit t h sp) h = sp := by
  cases h <;> rfl

@[simp] theorem splitIn_putSplit_not (t : Team) (h : Bool) (sp : Option Split) : splitIn (putSplit t h sp) (!h) = splitIn t (!h) := by
  cases h <;> rfl

@[simp] theorem putSplit_put (t : Team) (h : Bool) (a b : Option Split) : putSplit (putSplit t h a) h b = putSplit t h b := by
  cases h <;> rfl

theorem putSplit_self (t : Team) (h : Bool) : putSplit t h (splitIn t h) = t := by cases h <;> rfl

@[simp] theorem putSplit_key (t : Team) (h : Bool) (a : Option Split) : (putSplit t h a).key = t.key := by cases h <;> rfl

@[simp] theorem putSplit_regs (t : Team) (h : Bool) (a : Option Split) : (putSplit t h a).regs = t.regs := by cases h <;> rfl

@[simp] theorem putSplit_inflight (t : Team) (h : Bool) (a : Option Split) : (putSplit t h a).inflight = t.inflight := by cases h <;> rfl

theorem teamOf_updSplit (s : State) (r : SplitRef) (f : Split → Split) (k : TeamKey) :
    teamOf (updSplit s r f) k =
      if k = r.team then (teamOf s r.team).map (fun t => putSplit t r.high ((splitIn t r.high).map f)) else teamOf s k :=
  teamOf_updTeam s r.team _ k (fun t => by simp)

theorem splitOf_updSplit (s : State) (r : SplitRef) (f : Split → Split) :
    splitOf (updSplit s r f) r = (splitOf s r).map f := by
  unfold splitOf
  rw [teamOf_updSplit, if_pos rfl]
  cases teamOf s r.team <;> simp

/-- The issuing split stands in its team. -/
theorem issuing_team {s : State} {r : SplitRef} {t : Team} {sp : Split} {c : Clause} (h : issuing s = some (r, t, sp, c)) :
    teamOf s r.team = some t ∧ splitIn t r.high = some sp ∧ sp.clause = some c ∧ s.issueQ.head? = some r := by
  unfold issuing at h
  split at h
  · cases h
  · next q hq =>
    split at h
    · cases h
    · next t' ht =>
      split at h
      · cases h
      · next sp' hsp =>
        split at h
        · cases h
        · next c' hc =>
          cases h
          exact ⟨ht, hsp, hc, by rw [hq]; rfl⟩

end Sys2Proof.Machine
end

