-- ==== Sys2Proof/Laws/Registers.lean ====
section
/-! SUPPORT. Registers of a team: what a write of a destination leaves in every register (R219 to R224, R318, R319). -/
namespace Sys2Proof.Machine
open Sys2Proof.Forms

/-- What a team's register holds, by its name. -/
def teamReg (t : Team) : RegName → Word
  | .v n l => if l < 1024 then vReg t n l else 0
  | .s n => sReg t n
  | .p n l => if laneIn (pReg t n) l then 1 else 0

theorem regAt_eq (s : State) (k : TeamKey) (t : Team) (r : RegName) (h : teamOf s k = some t) : regAt s k r = teamReg t r := by
  unfold regAt; rw [h]; cases r <;> rfl

/-- Everything of a team but its general registers, the stochastic counts and what may not be read. -/
def restOf (t : Team) : Team := { t with vregs := [], sregs := [], preds := [], srcnt := [], wroteV := [], inflight := [] }

/-- The flags of a team's splits. -/
def flagsOf (t : Team) : List (Nat × Bool × Bool) := t.inflight.map (fun e => (e.flag, e.low, e.high))

theorem flagSet_eq (t u : Team) (h : flagsOf t = flagsOf u) (hi : Bool) (n : Nat) : flagSet t hi n = flagSet u hi n := by
  have e : ∀ w : Team, flagSet w hi n = (flagsOf w).any (fun e => decide (e.1 = n) && (if hi then e.2.2 else e.2.1)) := by
    intro w; simp [flagSet, flagsOf, List.any_map, Function.comp_def]
  rw [e, e, h]

/-! ### Lanes -/

theorem maskNat_testBit (f : Nat → Bool) (n l : Nat) : (maskNat f n).testBit l = (decide (l < n) && f l) := by
  induction n with
  | zero => simp [maskNat]
  | succ n ih =>
    unfold maskNat
    have hlt : maskNat f n < 2 ^ n := by
      clear ih
      induction n with
      | zero => simp [maskNat]
      | succ n ih => unfold maskNat; rw [Nat.pow_succ]; split <;> omega
    by_cases hf : f n = true
    · rw [if_pos hf, Nat.add_comm]
      by_cases hl : l = n
      · subst hl; rw [Nat.testBit_two_pow_add_eq]; simp [Nat.testBit_lt_two_pow hlt, hf]
      · by_cases h2 : l < n
        · rw [Nat.testBit_two_pow_add_gt h2, ih]; simp [h2]; omega
        · have : 2 ^ n + maskNat f n < 2 ^ l := by
            have := Nat.pow_le_pow_right (n := 2) (by omega) (show n + 1 ≤ l by omega)
            rw [Nat.pow_succ] at this
            omega
          rw [Nat.testBit_lt_two_pow this]
          have : ¬ l < n + 1 := by omega
          simp [this]
    · rw [if_neg hf, Nat.add_zero, ih]
      by_cases hl : l = n
      · subst hl; simp [hf]
      · have : (l < n + 1) = (l < n) := by simp; omega
        simp [this]

theorem laneIn_maskOf (n : Nat) (f : Nat → Bool) (l : Nat) : laneIn (maskOf n f) l = (decide (l < 1024) && decide (l < n) && f l) := by
  unfold laneIn maskOf
  rw [BitVec.getLsbD_ofNat, maskNat_testBit, Bool.and_assoc]

theorem laneIn_lt {m : LaneMask} {l : Nat} (h : laneIn m l = true) : l < 1024 := BitVec.lt_of_getLsbD h

theorem laneIn_or (a b : LaneMask) (l : Nat) : laneIn (a ||| b) l = (laneIn a l || laneIn b l) := by simp [laneIn]

theorem laneIn_and (a b : LaneMask) (l : Nat) : laneIn (a &&& b) l = (laneIn a l && laneIn b l) := by simp [laneIn]

theorem laneIn_zero (l : Nat) : laneIn 0 l = false := by simp [laneIn]

/-! ### One register -/

theorem vReg_putV (t : Team) (v : Nat) (m : LaneMask) (f : Nat → Word) (u l : Nat) (hl : l < 1024) :
    vReg (putV t v m f) u l = if u = v ∧ l < lanes t ∧ laneIn m l = true then f l else vReg t u l := by
  unfold vReg putV
  simp only
  rw [mapGet_put]
  unfold vKey
  by_cases hu : u = v
  · subst hu
    by_cases hn : l < lanes t
    · rw [if_pos (by omega)]
      have e : 1024 * u + l - (1024 * u + 0) = l := by omega
      rw [e]
      by_cases hm : laneIn m l = true
      · simp [hm, hn]
      · rw [if_neg hm, if_neg (by simp [hm]), mapGet_from, mapGet_below, if_pos (by omega), if_pos (by omega)]
    · rw [if_neg (by omega), if_neg (by omega)]
  · rw [if_neg (by omega), if_neg (by omega)]

theorem sReg_putS (t : Team) (n : Nat) (w : Word) (k : Nat) : sReg (putS t n w) k = if k = n then w else sReg t k := mapGet_set _ _ _ _ _

theorem laneIn_putP (t : Team) (p : Nat) (m v : LaneMask) (q l : Nat) :
    laneIn (pReg (putP t p m v) q) l = if q = p ∧ p ≠ 0 ∧ laneIn m l = true then laneIn v l else laneIn (pReg t q) l := by
  unfold putP
  by_cases hp : p = 0
  · rw [if_pos hp, if_neg (by omega)]
  · rw [if_neg hp]
    by_cases hq : q = p
    · subst hq
      unfold pReg
      rw [if_neg hp, if_neg hp]
      simp only
      rw [mapGet_set, if_pos rfl]
      rw [laneIn_or, laneIn_and, laneIn_and]
      by_cases hm : laneIn m l = true
      · have hl := laneIn_lt hm
        have : laneIn (~~~m) l = false := by simp [laneIn, hl] at hm ⊢; exact hm
        simp [hp, hm, this]
      · have : laneIn (mapGet 0 t.preds q) l = true → laneIn (~~~m) l = true := by
          intro h
          have hl := laneIn_lt h
          simp [laneIn, hl] at hm ⊢; exact hm
        simp only [Bool.not_eq_true] at hm
        simp only [hm, Bool.and_false, Bool.or_false, Bool.false_eq_true, and_false, if_false]
        cases h : laneIn (mapGet 0 t.preds q) l
        · rfl
        · rw [this h]; rfl
    · rw [if_neg (by omega)]
      unfold pReg
      simp only
      rw [mapGet_set, if_neg hq]

theorem markLost_rest (t : Team) (code : Nat) (m : LaneMask) :
    restOf (markLost t code m) = restOf t ∧ (markLost t code m).vregs = t.vregs ∧ (markLost t code m).sregs = t.sregs ∧
      (markLost t code m).preds = t.preds ∧ flagsOf (markLost t code m) = flagsOf t := by
  refine ⟨rfl, rfl, rfl, rfl, ?_⟩
  unfold flagsOf markLost
  simp only [List.map_map]
  apply List.map_congr_left
  intro e _
  simp only [Function.comp]
  split <;> rfl

/-! ### A destination -/

theorem writeDst_rest (t : Team) (code : BitVec 8) (m : LaneMask) (f : Nat → Nat) (r : Nat) :
    restOf (writeDst t code m f r) = restOf t ∧ flagsOf (writeDst t code m f r) = flagsOf t ∧
      (writeDst t code m f r).srcnt = t.srcnt := by
  induction r with
  | zero => exact ⟨rfl, rfl, rfl⟩
  | succ r ih =>
    unfold writeDst
    simp only
    split
    · next v _ =>
      exact ⟨ih.1, (markLost_rest _ (v + r) m).2.2.2.2.trans ih.2.1, ih.2.2⟩
    · next n _ =>
      exact ⟨ih.1, (markLost_rest _ (128 + n + r) m).2.2.2.2.trans ih.2.1, ih.2.2⟩
    · next p _ =>
      split
      · unfold putP
        split
        · exact ih
        · exact ih
      · exact ih
    · exact ih

theorem restOf_lanes {t u : Team} (h : restOf t = restOf u) : lanes t = lanes u := by
  have := congrArg Team.rows h
  unfold lanes
  exact congrArg (32 * ·) this

/-- What a register holds once a destination has been written. -/
theorem teamReg_writeDst (t : Team) (code : BitVec 8) (m : LaneMask) (f : Nat → Nat) (r : Nat) (q : RegName) :
    teamReg (writeDst t code m f r) q =
      match q with
      | .v n l => (match opd code with
        | .vec v => if v ≤ n ∧ n < v + r ∧ l < lanes t ∧ laneIn m l = true then BitVec.ofNat 32 (f l >>> (32 * (n - v))) else teamReg t q
        | _ => teamReg t q)
      | .s n => (match opd code with
        | .scal v => if v ≤ n ∧ n < v + r then BitVec.ofNat 32 (f 0 >>> (32 * (n - v))) else teamReg t q
        | _ => teamReg t q)
      | .p n l => (match opd code with
        | .pred v => if n = v ∧ v ≠ 0 ∧ 0 < r ∧ laneIn m l = true then (if l < lanes t ∧ f l % 2 = 1 then 1 else 0) else teamReg t q
        | _ => teamReg t q) := by
  induction r with
  | zero =>
    cases q with
    | v n l => simp only [writeDst]; split
               · rw [if_neg (by omega)]
               · rfl
    | s n => simp only [writeDst]; split
             · rw [if_neg (by omega)]
             · rfl
    | p n l => simp only [writeDst]; split
               · rw [if_neg (by omega)]
               · rfl
  | succ r ih =>
    have hl : lanes (writeDst t code m f r) = lanes t := restOf_lanes (writeDst_rest t code m f r).1
    cases ho : opd code with
    | vec v =>
      have e : writeDst t code m f (r + 1) = putV (markLost (writeDst t code m f r) (v + r) m) (v + r) m
          (fun l => BitVec.ofNat 32 (f l >>> (32 * r))) := by rw [writeDst]; simp only [ho]
      rw [ho] at ih
      rw [e]
      cases q with
      | v n l =>
        simp only [teamReg] at ih ⊢
        by_cases hk : l < 1024
        · rw [if_pos hk, vReg_putV _ _ _ _ _ _ hk]
          have e2 : lanes (markLost (writeDst t code m f r) (v + r) m) = lanes t := hl
          rw [e2]
          rw [if_pos hk] at ih
          rw [if_pos hk] at ih
          by_cases hn : n = v + r
          · subst hn
            rw [if_pos hk]
            have : v + r - v = r := by omega
            rw [this]
            by_cases hc : l < lanes t ∧ laneIn m l = true
            · rw [if_pos ⟨rfl, hc⟩, if_pos ⟨by omega, by omega, hc⟩]
            · rw [if_neg (fun h => hc h.2), if_neg (fun h => hc h.2.2)]
              refine Eq.trans (show vReg (markLost (writeDst t code m f r) (v + r) m) (v + r) l = vReg (writeDst t code m f r) (v + r) l from rfl) ?_
              rw [ih, if_neg (by omega)]
          · rw [if_neg (fun h => hn h.1), if_pos hk]
            refine Eq.trans (show vReg (markLost (writeDst t code m f r) (v + r) m) n l = vReg (writeDst t code m f r) n l from rfl) ?_
            rw [ih]
            by_cases hc : v ≤ n ∧ n < v + r ∧ l < lanes t ∧ laneIn m l = true
            · rw [if_pos hc, if_pos ⟨hc.1, by omega, hc.2.2⟩]
            · rw [if_neg hc, if_neg (fun h => hc ⟨h.1, by omega, h.2.2⟩)]
        · rw [if_neg hk, if_neg hk]
          rw [if_neg hk, if_neg hk] at ih
          split
          · next h => exact absurd (laneIn_lt h.2.2.2) hk
          · rfl
      | s n => exact ih
      | p n l => exact ih
    | scal v =>
      have e : writeDst t code m f (r + 1) = putS (markLost (writeDst t code m f r) (128 + v + r) m) (v + r)
          (BitVec.ofNat 32 (f 0 >>> (32 * r))) := by rw [writeDst]; simp only [ho]
      rw [ho] at ih
      rw [e]
      cases q with
      | s n =>
        simp only [teamReg] at ih ⊢
        rw [sReg_putS]
        refine Eq.trans (show _ = if n = v + r then _ else sReg (writeDst t code m f r) n from rfl) ?_
        rw [ih]
        by_cases hn : n = v + r
        · subst hn
          rw [if_pos rfl, if_pos (by omega)]
          congr 3; omega
        · rw [if_neg hn]
          by_cases hc : v ≤ n ∧ n < v + r
          · rw [if_pos hc, if_pos (by omega)]
          · rw [if_neg hc, if_neg (by omega)]
      | v n l => exact ih
      | p n l => exact ih
    | pred v =>
      have e : writeDst t code m f (r + 1) = if r = 0 then putP (writeDst t code m f r) v m (maskOf (lanes t) (fun l => laneIn m l && decide (f l % 2 = 1))) else writeDst t code m f r := by
        rw [writeDst]; simp only [ho]
      rw [ho] at ih
      rw [e]
      cases q with
      | p n l =>
        simp only at ih ⊢
        by_cases hr : r = 0
        · subst hr
          rw [if_pos rfl]
          simp only [teamReg]
          rw [laneIn_putP]
          by_cases hc : n = v ∧ v ≠ 0 ∧ laneIn m l = true
          · have := laneIn_lt hc.2.2
            have hm := hc.2.2
            have hv := hc.2.1
            simp only [laneIn_maskOf, this, hm, hc.1, writeDst]
            simp [hv]
          · have hc' : ¬ (n = v ∧ v ≠ 0 ∧ 0 < 0 + 1 ∧ laneIn m l = true) := fun h => hc ⟨h.1, h.2.1, h.2.2.2⟩
            simp only [if_neg hc, if_neg hc', writeDst]
        · simp only [if_neg hr, ih]
          have e1 : (n = v ∧ v ≠ 0 ∧ 0 < r ∧ laneIn m l = true) ↔ (n = v ∧ v ≠ 0 ∧ 0 < r + 1 ∧ laneIn m l = true) := by
            constructor
            · rintro ⟨a, b, _, d⟩; exact ⟨a, b, by omega, d⟩
            · rintro ⟨a, b, _, d⟩; exact ⟨a, b, by omega, d⟩
          simp only [e1]
      | v n l =>
        split
        · unfold putP; split
          · exact ih
          · exact ih
        · exact ih
      | s n =>
        split
        · unfold putP; split
          · exact ih
          · exact ih
        · exact ih
    | dist v => have e : writeDst t code m f (r + 1) = writeDst t code m f r := by
                  rw [writeDst]; simp only [ho]
                rw [ho] at ih; rw [e]; exact ih
    | lit v => have e : writeDst t code m f (r + 1) = writeDst t code m f r := by
                  rw [writeDst]; simp only [ho]
               rw [ho] at ih; rw [e]; exact ih
    | special v => have e : writeDst t code m f (r + 1) = writeDst t code m f r := by
                     rw [writeDst]; simp only [ho]
                   rw [ho] at ih; rw [e]; exact ih
    | bad => have e : writeDst t code m f (r + 1) = writeDst t code m f r := by
                     rw [writeDst]; simp only [ho]
             rw [ho] at ih; rw [e]; exact ih

end Sys2Proof.Machine
end

