-- ==== Sys2Proof/Laws/Retire.lean ====
section
/-! SUPPORT. What the bookkeeping of an instruction does: charging passes, stamps, turns and single steps change nothing a
program reads but the place of the issuing split. -/
namespace Sys2Proof.Machine
open Sys2Proof.Forms

/-! ### Units that keep everything but their own tables -/

theorem outside_updCore (s : State) (c : Nat) (f : Core → Core) : outside (updCore s c f) = outside s := rfl
theorem outside_addAgenda (s : State) (l : List Event) : outside (addAgenda s l) = outside s := rfl
theorem outside_updTeam (s : State) (k : TeamKey) (f : Team → Team) : outside (updTeam s k f) = outside s := rfl
theorem outside_updSplit (s : State) (r : SplitRef) (f : Split → Split) : outside (updSplit s r f) = outside s := rfl
theorem outside_updBlock (s : State) (d : BitVec 64) (i : Nat) (f : Block → Block) : outside (updBlock s d i f) = outside s := rfl
theorem outside_updCtx (s : State) (c : Nat) (f : Ctx → Ctx) : outside (updCtx s c f) = outside s := rfl
theorem outside_popIssue (s : State) : outside (popIssue s) = outside s := rfl

/-- Bookkeeping of one split: of its team nothing else changes, of the split neither its registers nor its place. -/
structure Books (s t : State) (r : SplitRef) : Prop where
  outside : outside t = outside s
  ctxs    : ∀ c, ctxRegs t c = ctxRegs s c
  blocks  : ∀ d i, blockRegs t d i = blockRegs s d i
  teams   : ∀ k, k ≠ r.team → teamOf t k = teamOf s k
  none    : teamOf s r.team = none → teamOf t r.team = none
  mine    : ∀ tm sp, teamOf s r.team = some tm → splitIn tm r.high = some sp →
    ∃ sp', teamOf t r.team = some (putSplit tm r.high (some sp')) ∧ sp'.regs = sp.regs ∧ sp'.pc = sp.pc ∧ sp'.pos = sp.pos ∧
      sp'.clause = sp.clause

theorem Books.refl (s : State) (r : SplitRef) : Books s s r :=
  ⟨rfl, fun _ => rfl, fun _ _ => rfl, fun _ _ => rfl, id,
    fun tm sp ht hs => ⟨sp, by rw [← hs, putSplit_self]; exact ht, rfl, rfl, rfl, rfl⟩⟩

theorem Books.trans {s t u : State} {r : SplitRef} (h : Books s t r) (g : Books t u r) : Books s u r :=
  ⟨g.outside.trans h.outside, fun c => (g.ctxs c).trans (h.ctxs c), fun d i => (g.blocks d i).trans (h.blocks d i),
    fun k hk => (g.teams k hk).trans (h.teams k hk), fun e => g.none (h.none e), fun tm sp ht hs => by
      obtain ⟨a, ha, hr, hp, ho, hc⟩ := h.mine tm sp ht hs
      obtain ⟨b, hb, gr, gp, go, gc⟩ := g.mine _ a ha (by simp)
      exact ⟨b, by simpa using hb, gr.trans hr, gp.trans hp, go.trans ho, gc.trans hc⟩⟩

/-- Bookkeeping that leaves teams, blocks and contexts alone. -/
theorem Books.of_eq {s t : State} {r : SplitRef} (ho : Machine.outside t = Machine.outside s) (hc : t.ctxs = s.ctxs) (hb : t.blocks = s.blocks)
    (ht : t.teams = s.teams) : Books s t r := by
  have e : ∀ k, teamOf t k = teamOf s k := fun k => by unfold teamOf; rw [ht]
  refine ⟨ho, fun c => by unfold ctxRegs ctxOf; rw [hc], fun d i => by unfold blockRegs blockOf; rw [hb], fun k _ => e k,
    fun h => (e _).trans h, fun tm sp h1 h2 => ⟨sp, ?_, rfl, rfl, rfl, rfl⟩⟩
  rw [e, ← h2, putSplit_self]; exact h1

/-- A foldl of steps that keep a relation. -/
theorem foldl_rel {α : Type} (R : State → State → Prop) (hr : ∀ s, R s s) (ht : ∀ {s t u}, R s t → R t u → R s u)
    (f : State → α → State) (hf : ∀ s a, R s (f s a)) (l : List α) (s : State) : R s (l.foldl f s) := by
  induction l generalizing s with
  | nil => exact hr s
  | cons a l ih => exact ht (hf s a) (ih _)

theorem laneAdd_books (s : State) (core ctx idx n : Nat) (r : SplitRef) : Books s (laneAdd s core ctx idx n) r := by
  unfold laneAdd
  simp only
  split
  · exact Books.refl s r
  · split
    · exact Books.of_eq rfl rfl rfl rfl
    · exact Books.of_eq rfl rfl rfl rfl

theorem laneCharge_books (s : State) (core ctx : Nat) (pc : BitVec 56) (c n : Nat) (r : SplitRef) :
    Books s (laneCharge s core ctx pc c n) r := laneAdd_books _ _ _ _ _ _

theorem chargeRow_books (s : State) (t : Team) (m a : LaneMask) (pc : BitVec 56) (k row : Nat) (r : SplitRef) :
    Books s (chargeRow s t m a pc k row) r :=
  foldl_rel (fun s t => Books s t r) (fun s => Books.refl s r) Books.trans _ (fun s _ => laneCharge_books s _ _ _ _ _ r) _ _

theorem chargePasses_books (x : Iss) (s : State) (r : SplitRef) : Books s (chargePasses x s) r :=
  foldl_rel (fun s t => Books s t r) (fun s => Books.refl s r) Books.trans _ (fun s _ => chargeRow_books s _ _ _ _ _ _ r) _ _

theorem chargeIdle_books (x : Iss) (s : State) (r : SplitRef) : Books s (chargeIdle x s) r := by
  unfold chargeIdle
  split
  · split
    · exact laneCharge_books _ _ _ _ _ _ r
    · exact Books.refl s r
  · exact Books.refl s r

/-- An update of the split's own bookkeeping. -/
theorem updSplit_books (s : State) (r : SplitRef) (f : Split → Split)
    (hf : ∀ sp, (f sp).regs = sp.regs ∧ (f sp).pc = sp.pc ∧ (f sp).pos = sp.pos ∧ (f sp).clause = sp.clause) :
    Books s (updSplit s r f) r := by
  refine ⟨rfl, fun _ => rfl, fun _ _ => rfl, fun k hk => ?_, fun h => ?_, fun tm sp ht hs => ⟨f sp, ?_, hf sp⟩⟩
  · rw [teamOf_updSplit, if_neg hk]
  · rw [teamOf_updSplit, if_pos rfl, h]; rfl
  · rw [teamOf_updSplit, if_pos rfl, ht, Option.map_some, hs]; rfl

theorem newStamp_books (s : State) (r : SplitRef) : Books s (newStamp s r) r := by
  unfold newStamp
  split
  · exact Books.refl s r
  · refine Books.trans ?_ (updSplit_books _ r _ ?_)
    · exact Books.of_eq rfl rfl rfl rfl
    · intro sp; exact ⟨rfl, rfl, rfl, rfl⟩

theorem countIssue_books (x : Iss) (s : State) : Books s (countIssue x s) x.ref := by
  unfold countIssue
  simp only
  have h := (chargePasses_books x s x.ref).trans (updSplit_books (chargePasses x s) x.ref (fun sp => { newAttempt sp with
    busy := passes x - 1, ready := 0, issued := sp.issued + 1, retry := none, hold := .none
    promoted := sp.promoted - 1,
    tier := if sp.tier = 0 && decide (sp.promoted ≤ 1) then 1 else sp.tier }) (by intro sp; exact ⟨rfl, rfl, rfl, rfl⟩))
  split
  · exact h.trans (newStamp_books _ _)
  · exact h

theorem passTurn_books (s : State) (k : TeamKey) (n : Nat) (r : SplitRef) : Books s (passTurn s k n) r := by
  unfold passTurn
  split
  · split
    · refine ⟨rfl, fun _ => rfl, fun d i => ?_, fun _ _ => rfl, id, fun tm sp ht hs => ⟨sp, ?_, rfl, rfl, rfl, rfl⟩⟩
      · unfold blockRegs
        rw [blockOf_updBlock _ _ _ _ _ _ (by intro b; exact ⟨rfl, rfl⟩)]
        split
        · next h => rw [h.1, h.2, Option.map_map]; rfl
        · rfl
      · rw [← hs, putSplit_self]; exact ht
    · exact Books.refl s r
  · exact Books.refl s r

theorem queueRec_books (s : State) (c : Nat) (q : FaultRec) (r : SplitRef) : Books s (queueRec s c q) r := by
  refine ⟨rfl, fun k => ?_, fun _ _ => rfl, fun _ _ => rfl, id, fun tm sp ht hs => ⟨sp, ?_, rfl, rfl, rfl, rfl⟩⟩
  · unfold ctxRegs queueRec
    rw [ctxOf_updCtx]
    split
    · next h => subst h; rfl
    · rfl
  · rw [← hs, putSplit_self]; exact ht

theorem raiseNotice_books (s : State) (t : Team) (c : BitVec 8) (pc : BitVec 56) (i : Word) (r : SplitRef) :
    Books s (raiseNotice s t c pc i) r := queueRec_books _ _ _ _

theorem endStep_books (s : State) (r : SplitRef) : Books s (endStep s r) r := by
  unfold endStep
  split
  · exact Books.refl s r
  · split
    · exact Books.refl s r
    · split
      · exact (updSplit_books s r _ (by intro sp; exact ⟨rfl, rfl, rfl, rfl⟩)).trans (raiseNotice_books _ _ _ _ _ _)
      · exact Books.refl s r

/-- Everything that follows a retirement. -/
theorem afterRetire_books (x : Iss) (b : Bool) (s : State) :
    Books s (endStep (passTurn (if b then newStamp (countIssue x s) x.ref else countIssue x s) x.ref.team 1) x.ref) x.ref := by
  have h : Books s (if b then newStamp (countIssue x s) x.ref else countIssue x s) x.ref := by
    split
    · exact (countIssue_books x s).trans (newStamp_books _ _)
    · exact countIssue_books x s
  exact h.trans ((passTurn_books _ _ _ _).trans (endStep_books _ _))

/-! ### Retiring -/

/-- Where a split stands once its instruction has retired (R252). -/
def placeAfter (x : Iss) (sp : Split) : Prop :=
  if x.split.pos + 1 = x.clause.words.length then sp.pc = nextClause x.clause ∧ sp.clause = none
  else sp.pos = x.split.pos + 1

/-- A retirement with what follows it: of the team only the issuing split changes, and of that only its place and what a
program cannot read. -/
theorem retire_team (x : Iss) (s : State) (tm : Team) (sp : Split) (ht : teamOf s x.ref.team = some tm)
    (hs : splitIn tm x.ref.high = some sp) :
    ∃ sp', teamOf (retire x s) x.ref.team = some (putSplit tm x.ref.high (some sp')) ∧ sp'.regs = sp.regs ∧
      (if x.split.pos + 1 = x.clause.words.length then sp'.pc = nextClause x.clause ∧ sp'.clause = none
       else sp'.pc = sp.pc ∧ sp'.pos = x.split.pos + 1 ∧ sp'.clause = sp.clause) := by
  unfold retire
  simp only
  generalize hA : updTeam s x.ref.team _ = s1
  have h1 : ∃ sp1, teamOf s1 x.ref.team = some (putSplit tm x.ref.high (some sp1)) ∧ sp1.regs = sp.regs ∧
      (if x.split.pos + 1 = x.clause.words.length then sp1.pc = nextClause x.clause ∧ sp1.clause = none
       else sp1.pc = sp.pc ∧ sp1.pos = x.split.pos + 1 ∧ sp1.clause = sp.clause) := by
    rw [← hA, teamOf_updTeam _ _ _ _ (fun t => by split <;> simp), if_pos rfl, ht, Option.map_some, hs]
    simp only
    refine ⟨_, rfl, ?_, ?_⟩
    · split <;> rfl
    · split
      · next h => simp [h]
      · next h => simp [h]
  obtain ⟨sp1, e1, r1, p1⟩ := h1
  obtain ⟨sp2, e2, r2, p2, o2, c2⟩ := (afterRetire_books x
    (decide (x.split.pos + 1 = x.clause.words.length) && decide (bits x.clause.header 27 27 = 1)) s1).mine _ sp1 e1 (by simp)
  refine ⟨sp2, by simpa using e2, r2.trans r1, ?_⟩
  rw [p2, o2, c2]
  exact p1

theorem retire_outside (x : Iss) (s : State) : outside (retire x s) = outside s :=
  (afterRetire_books x _ _).outside

theorem retire_ctxs (x : Iss) (s : State) (c : Nat) : ctxRegs (retire x s) c = ctxRegs s c :=
  (afterRetire_books x _ _).ctxs c

theorem retire_blocks (x : Iss) (s : State) (d : BitVec 64) (i : Nat) : blockRegs (retire x s) d i = blockRegs s d i :=
  (afterRetire_books x _ _).blocks d i

theorem retire_teams (x : Iss) (s : State) (k : TeamKey) (hk : k ≠ x.ref.team) : teamOf (retire x s) k = teamOf s k := by
  have h := (afterRetire_books x (decide (x.split.pos + 1 = x.clause.words.length) && decide (bits x.clause.header 27 27 = 1)) (updTeam s x.ref.team (fun t =>
    match splitIn t x.ref.high with
    | none => t
    | some sp =>
      let by_ := if (roles x.op).1.isDst && !longLatency x.op then
          (snapshot t x.split.pos x.f.d (fieldRegs x).1).toList else []
      putSplit t x.ref.high (some
        (if decide (x.split.pos + 1 = x.clause.words.length) then { sp with pc := nextClause x.clause, clause := none, pos := 0, bypass := [], spinNow := sp.spinNow ++ spinValues x t }
         else { sp with pos := x.split.pos + 1, bypass := sp.bypass ++ by_, spinNow := sp.spinNow ++ spinValues x t }))))).teams k hk
  refine (show teamOf (retire x s) k = _ from h).trans ?_
  rw [teamOf_updTeam _ _ _ _ (fun t => by split <;> simp), if_neg hk]

end Sys2Proof.Machine
end

