-- ==== Sys2Proof/Laws/Computing.lean ====
section
/-! SUPPORT. What the computing forms do: `fixedForm` and its kin in one lemma each, for every form that is made of them. -/
namespace Sys2Proof.Machine
open Sys2Proof.Forms

/-! ### Numbers in registers -/

theorem dstAt_lt (s : State) (t : TeamKey) (code : BitVec 8) (l k : Nat) : dstAt s t code l k < 2 ^ (32 * k) := by
  induction k with
  | zero => simp [dstAt]
  | succ k ih =>
    unfold dstAt
    have h := (regAt s t (match opd code with
      | .vec v => .v (v + k) l
      | .scal v => .s (v + k)
      | .pred v => .p v l
      | _ => .s 0)).isLt
    rw [Nat.shiftLeft_eq, show 32 * (k + 1) = 32 + 32 * k by omega, Nat.pow_add]
    calc _ < 2 ^ (32 * k) + (2 ^ 32 - 1) * 2 ^ (32 * k) := by
              apply Nat.add_lt_add_of_lt_of_le ih
              exact Nat.mul_le_mul_right _ (by omega)
      _ = 2 ^ 32 * 2 ^ (32 * k) := by
              rw [Nat.sub_mul, Nat.one_mul]
              have : 2 ^ (32 * k) ≤ 2 ^ 32 * 2 ^ (32 * k) := Nat.le_mul_of_pos_left _ (by decide)
              omega

/-- A number spread over registers is read back, cut to them. -/
theorem spread_reads (v k : Nat) : v % 2 ^ (32 * k) + ((BitVec.ofNat 32 (v >>> (32 * k))).toNat <<< (32 * k)) = v % 2 ^ (32 * (k + 1)) := by
  rw [BitVec.toNat_ofNat, Nat.shiftLeft_eq, Nat.shiftRight_eq_div_pow, show 32 * (k + 1) = 32 * k + 32 by omega, Nat.pow_add,
    Nat.mod_mul, Nat.mul_comm (_ % 2 ^ 32)]

theorem dstAt_vec (s : State) (k : TeamKey) (u t : Team) (code : BitVec 8) (v : Nat) (m : LaneMask) (f : Nat → Nat) (n : Nat)
    (hu : teamOf s k = some u) (ho : opd code = .vec v)
    (hr : ∀ q, teamReg u q = teamReg (writeDst t code m f n) q) (l : Nat) (hl : l < lanes t) (hm : laneIn m l = true) :
    ∀ r, r ≤ n → dstAt s k code l r = f l % 2 ^ (32 * r) := by
  intro r
  induction r with
  | zero => intro _; simp [dstAt, Nat.mod_one]
  | succ r ih =>
    intro hn
    unfold dstAt
    rw [ih (by omega)]
    simp only [ho]
    rw [regAt_eq s k u _ hu, hr, teamReg_writeDst]
    simp only [ho]
    rw [if_pos ⟨by omega, by omega, hl, hm⟩, Nat.add_sub_cancel_left, spread_reads]

theorem dstAt_scal (s : State) (k : TeamKey) (u t : Team) (code : BitVec 8) (v : Nat) (m : LaneMask) (f : Nat → Nat) (n : Nat)
    (hu : teamOf s k = some u) (ho : opd code = .scal v)
    (hr : ∀ q, teamReg u q = teamReg (writeDst t code m f n) q) (l : Nat) :
    ∀ r, r ≤ n → dstAt s k code l r = f 0 % 2 ^ (32 * r) := by
  intro r
  induction r with
  | zero => intro _; simp [dstAt, Nat.mod_one]
  | succ r ih =>
    intro hn
    unfold dstAt
    rw [ih (by omega)]
    simp only [ho]
    rw [regAt_eq s k u _ hu, hr, teamReg_writeDst]
    simp only [ho]
    rw [if_pos ⟨by omega, by omega⟩, Nat.add_sub_cancel_left, spread_reads]

theorem dstAt_pred (s : State) (k : TeamKey) (u t : Team) (code : BitVec 8) (v : Nat) (m : LaneMask) (f : Nat → Nat) (n : Nat)
    (hu : teamOf s k = some u) (ho : opd code = .pred v) (hv : v ≠ 0) (hn : 0 < n)
    (hr : ∀ q, teamReg u q = teamReg (writeDst t code m f n) q) (l : Nat) (hl : l < lanes t) (hm : laneIn m l = true) :
    dstAt s k code l 1 = f l % 2 := by
  unfold dstAt
  simp only [ho, dstAt]
  rw [regAt_eq s k u _ hu, hr, teamReg_writeDst]
  simp only [ho, hm, hn, ne_eq, hv, not_false_eq_true, and_self, if_true]
  by_cases h : f l % 2 = 1
  · simp [h, hl]
  · have : f l % 2 = 0 := by omega
    simp [this]

/-! ### Elements -/

/-- An element of packed elements. -/
theorem elems_fld (w n : Nat) (f : Nat → Nat × Exc) (e : Nat) (he : e < n) :
    fld (elems w f n).1 (w * e) w = (f e).1 % 2 ^ w ∧ (elems w f n).1 < 2 ^ (w * n) := by
  induction n generalizing e with
  | zero => omega
  | succ n ih =>
    have hlt : (elems w f n).1 < 2 ^ (w * n) := by
      cases n with
      | zero => simp [elems]
      | succ n => exact (ih 0 (by omega)).2
    have e1 : (elems w f (n + 1)).1 = (elems w f n).1 + (((f n).1 % 2 ^ w) <<< (w * n)) := by rw [elems]
    have hb : (f n).1 % 2 ^ w < 2 ^ w := Nat.mod_lt _ (Nat.two_pow_pos w)
    rw [e1, Nat.shiftLeft_eq]
    constructor
    · unfold fld
      rw [Nat.shiftRight_eq_div_pow]
      by_cases h : e = n
      · subst h
        rw [Nat.add_mul_div_right _ _ (Nat.two_pow_pos _), Nat.div_eq_of_lt hlt, Nat.zero_add, Nat.mod_mod]
      · have hen : e < n := by omega
        obtain ⟨d, hd⟩ : ∃ d, n = e + 1 + d := ⟨n - e - 1, by omega⟩
        have : 2 ^ (w * n) = 2 ^ (w * e) * (2 ^ w * 2 ^ (w * d)) := by
          rw [← Nat.pow_add, ← Nat.pow_add]; congr 1; rw [hd, Nat.mul_add, Nat.mul_add]; omega
        rw [this, show ((f n).1 % 2 ^ w) * (2 ^ (w * e) * (2 ^ w * 2 ^ (w * d))) = 2 ^ (w * e) * (2 ^ w * (2 ^ (w * d) * ((f n).1 % 2 ^ w))) by
          simp only [Nat.mul_comm, Nat.mul_left_comm], Nat.add_mul_div_left _ _ (Nat.two_pow_pos _), Nat.add_mul_mod_self_left]
        have := (ih e hen).1
        unfold fld at this
        rw [Nat.shiftRight_eq_div_pow] at this
        exact this
    · rw [Nat.mul_succ, Nat.pow_add]
      calc _ < 2 ^ (w * n) + (2 ^ w - 1) * 2 ^ (w * n) := by
              apply Nat.add_lt_add_of_lt_of_le hlt
              exact Nat.mul_le_mul_right _ (by omega)
        _ = 2 ^ (w * n) * 2 ^ w := by
              rw [Nat.sub_mul, Nat.one_mul, Nat.mul_comm (2 ^ w)]
              have : 2 ^ (w * n) ≤ 2 ^ (w * n) * 2 ^ w := Nat.le_mul_of_pos_right _ (Nat.two_pow_pos w)
              omega

/-! ### The team after a computing form -/

theorem orXF_zero (m : Word) : orXF m 0 = m := by simp [orXF]

/-- What `issue` does where the checks pass. -/
theorem issue_next {i : Instr} {s : State} {x : Iss} (eff : Iss → State → State) (h : Issues i s x) :
    issue i s eff = .next (chargeIdle x (eff x (popIssue s))) := by
  obtain ⟨r, t, sp, c, f, hi, hf, hx, hd⟩ := h
  unfold issue
  rw [hi, hf]
  simp only
  rw [← hx, hd]

theorem Issues.team {i : Instr} {s : State} {x : Iss} (h : Issues i s x) :
    teamOf s x.ref.team = some x.team ∧ splitIn x.team x.ref.high = some x.split ∧ x.split.clause = some x.clause ∧
      ∃ f, fieldsOf i = some f ∧ x.f = f ∧ x.op = f.op.toNat := by
  obtain ⟨r, t, sp, c, f, hi, hf, hx, hd⟩ := h
  obtain ⟨a, b, d, _⟩ := issuing_team hi
  subst hx
  exact ⟨a, b, d, f, hf, rfl, rfl⟩

/-- A state in which the effect of an instruction is made and only its retirement is left. -/
structure Prep (s s' : State) (x : Iss) (tm : Team) (sp : Split) : Prop where
  outside : outside s' = outside s
  ctxs    : ∀ c, ctxRegs s' c = ctxRegs s c
  blocks  : ∀ d i, blockRegs s' d i = blockRegs s d i
  teams   : ∀ k, k ≠ x.ref.team → teamOf s' k = teamOf s k
  team    : teamOf s' x.ref.team = some tm
  split   : splitIn tm x.ref.high = some sp
  partner : splitIn tm (!x.ref.high) = splitIn x.team (!x.ref.high)

/-- Once it has retired. -/
theorem Prep.done {s s' u : State} {x : Iss} {tm : Team} {sp : Split} (p : Prep s s' x tm sp)
    (ht : teamOf s x.ref.team = some x.team) (hu : u = chargeIdle x (retire x s')) :
    Inner s u x ∧
    ∃ sp', teamOf u x.ref.team = some (putSplit tm x.ref.high (some sp')) ∧ sp'.regs = sp.regs ∧
      (if x.split.pos + 1 = x.clause.words.length then sp'.pc = nextClause x.clause ∧ sp'.clause = none
       else sp'.pc = sp.pc ∧ sp'.pos = x.split.pos + 1 ∧ sp'.clause = sp.clause) := by
  obtain ⟨sp1, e1, r1, p1⟩ := retire_team x s' tm sp p.team p.split
  have hb := chargeIdle_books x (retire x s') x.ref
  rw [← hu] at hb
  obtain ⟨sp2, e2, r2, q2, o2, c2⟩ := hb.mine _ sp1 e1 (splitIn_putSplit _ _ _)
  rw [putSplit_put] at e2
  refine ⟨⟨?_, ?_, ?_, ?_, ?_⟩, sp2, e2, r2.trans r1, ?_⟩
  · rw [hb.outside, retire_outside, p.outside]
  · intro c; rw [hb.ctxs, retire_ctxs, p.ctxs]
  · intro d j; rw [hb.blocks, retire_blocks, p.blocks]
  · intro k hk; rw [hb.teams k hk, retire_teams x s' k hk, p.teams k hk]
  · unfold splitOf
    simp only
    rw [e2, ht]
    simp only [Option.bind_some]
    rw [splitIn_putSplit_not, p.partner]
  · rw [q2, o2, c2]; exact p1

/-- A change of the issuing team that keeps its splits, then one of the issuing split. -/
theorem prep_upd {i : Instr} {s : State} {x : Iss} (hx : Issues i s x) (g : Team → Team) (h : Split → Split)
    (hg : ∀ t, (g t).key = t.key ∧ (g t).low = t.low ∧ (g t).high = t.high) :
    Prep s (updSplit (updTeam (popIssue s) x.ref.team g) x.ref h) x (putSplit (g x.team) x.ref.high (some (h x.split))) (h x.split) := by
  obtain ⟨ht, hsp, _⟩ := hx.team
  have hgs : ∀ hi, splitIn (g x.team) hi = splitIn x.team hi := by
    intro hi; cases hi
    · exact (hg x.team).2.1
    · exact (hg x.team).2.2
  have h0 : teamOf (popIssue s) x.ref.team = some x.team := ht
  refine ⟨?_, ?_, ?_, fun k hk => ?_, ?_, splitIn_putSplit _ _ _, ?_⟩
  · rw [outside_updSplit, outside_updTeam, outside_popIssue]
  · intro c; unfold ctxRegs ctxOf; rw [updSplit_ctxs, updTeam_ctxs]; rfl
  · intro d i; unfold blockRegs blockOf; rw [updSplit_blocks, updTeam_blocks]; rfl
  · rw [teamOf_updSplit, if_neg hk, teamOf_updTeam _ _ _ _ (fun t => (hg t).1), if_neg hk]; rfl
  · rw [teamOf_updSplit, if_pos rfl, teamOf_updTeam _ _ _ _ (fun t => (hg t).1), if_pos rfl, h0]
    simp only [Option.map_some, hgs, hsp]
  · rw [splitIn_putSplit_not, hgs]

/-- A request of a trap changes the team's queue of them and the agenda. -/
theorem Prep.trap {s s' : State} {x : Iss} {tm : Team} {sp : Split} (p : Prep s s' x tm sp) (q : TrapReq) :
    Prep s (requestTrap s' x.ref q) x { tm with traps := tm.traps ++ [{ q with num := s'.nextOp }] } sp := by
  unfold requestTrap
  refine ⟨p.outside, p.ctxs, p.blocks, fun k hk => ?_, ?_, ?_, ?_⟩
  · refine Eq.trans ?_ (p.teams k hk)
    show teamOf (updTeam s' x.ref.team _) k = _
    rw [teamOf_updTeam _ _ _ _ (by intro t; rfl), if_neg hk]
  · show teamOf (updTeam s' x.ref.team _) x.ref.team = _
    rw [teamOf_updTeam _ _ _ _ (by intro t; rfl), if_pos rfl, p.team]; rfl
  · exact p.split
  · exact p.partner

theorem computed_rest (x : Iss) (sr : Bool) (f : Nat → Nat × Exc) (t : Team) :
    flagsOf (computed x sr f t) = flagsOf t ∧ restOf (computed x sr f t) = restOf t ∧
    (∀ q, teamReg (computed x sr f t) q =
      teamReg (if x.writers = 0 then t else writeDst t x.f.d x.writers (laneValue x (fun l => (onceOr x f l).1)) (fieldRegs x).1) q) ∧
    (computed x sr f t).srcnt = if (sr && decide (x.rnd = 5)) = true then mapPut 0 t.srcnt 0 (lanes t) (fun l => if laneIn x.mixed l then unknown x.fresh (2 ^ 21 + 2 ^ 20 + l) else mapGet 0 t.srcnt l + (if laneIn x.writers l then 1 else 0)) else t.srcnt := by
  unfold computed
  have hw : ∀ u, u = (if x.writers = 0 then t else writeDst t x.f.d x.writers (laneValue x (fun l => (onceOr x f l).1)) (fieldRegs x).1) →
      flagsOf u = flagsOf t ∧ restOf u = restOf t ∧ u.srcnt = t.srcnt := by
    intro u hu
    subst hu
    split
    · exact ⟨rfl, rfl, rfl⟩
    · exact ⟨(writeDst_rest _ _ _ _ _).2.1, (writeDst_rest _ _ _ _ _).1, (writeDst_rest _ _ _ _ _).2.2⟩
  generalize (if x.writers = 0 then t else writeDst t x.f.d x.writers (laneValue x (fun l => (onceOr x f l).1)) (fieldRegs x).1) = u at *
  obtain ⟨h1, h2, h4⟩ := hw u rfl
  simp only
  split
  · refine ⟨h1, h2, fun q => ?_, ?_⟩
    · cases q <;> rfl
    · show mapPut 0 u.srcnt 0 (lanes u) _ = _
      rw [restOf_lanes h2, h4]
  · exact ⟨h1, h2, fun _ => rfl, h4⟩

/-- What a register outside a destination holds once the destination has been written. -/
theorem teamReg_unnamed (t : Team) (code : BitVec 8) (m : LaneMask) (f : Nat → Nat) (r : Nat) (q : RegName)
    (h : namedBy code r m q = false) : teamReg (writeDst t code m f r) q = teamReg t q := by
  rw [teamReg_writeDst]
  cases q with
  | v n l =>
    simp only [namedBy] at h ⊢
    split
    · next v hv => rw [if_neg]; rintro ⟨a, b, _, d⟩; simp [hv, a, b, d] at h
    · rfl
  | s n =>
    simp only [namedBy] at h ⊢
    split
    · next v hv => rw [if_neg]; rintro ⟨a, b⟩; simp [hv, a, b] at h
    · rfl
  | p n l =>
    simp only [namedBy] at h ⊢
    split
    · next v hv => rw [if_neg]; rintro ⟨a, b, _, d⟩; simp [hv, a, d] at h
    · rfl

/-- What a fixed-class form does, whatever its lane function: it retires, writes its destination in the lanes that write,
gathers the exceptions in MODE, counts the stochastic lanes, and leaves all else. -/
theorem fixedForm_spec {i : Instr} {s : State} {x : Iss} (hx : Issues i s x) (sr : Bool) (cause : BitVec 8) (f : Nat → Nat × Exc) :
    ∃ t, chargeIdle x (fixedForm x sr cause f (popIssue s)) = t ∧ Computed s t x (raised x f) ∧ Counts s t x sr ∧
      ∃ u, teamOf t x.ref.team = some u ∧ ∀ q, teamReg u q =
        teamReg (if x.writers = 0 then x.team else writeDst x.team x.f.d x.writers (laneValue x (fun l => (onceOr x f l).1)) (fieldRegs x).1) q := by
  obtain ⟨ht, hsp, hc, _⟩ := hx.team
  have hg : ∀ t : Team, (computed x sr f t).key = t.key ∧ (computed x sr f t).low = t.low ∧ (computed x sr f t).high = t.high := by
    intro t
    have h := (computed_rest x sr f t).2.1
    have a : (restOf (computed x sr f t)).key = (restOf t).key := by rw [h]
    have b : (restOf (computed x sr f t)).low = (restOf t).low := by rw [h]
    have c : (restOf (computed x sr f t)).high = (restOf t).high := by rw [h]
    exact ⟨a, b, c⟩
  have p0 := prep_upd hx (computed x sr f) (fun sp => { sp with mode := orXF sp.mode (raised x f) }) hg
  -- with or without a trap request
  obtain ⟨s2, tm, p, hs2, htm⟩ : ∃ s2 tm, Prep s s2 x tm { x.split with mode := orXF x.split.mode (raised x f) } ∧
      fixedForm x sr cause f (popIssue s) = retire x s2 ∧
      ∃ q, tm = { putSplit (computed x sr f x.team) x.ref.high (some { x.split with mode := orXF x.split.mode (raised x f) }) with traps := q } := by
    unfold fixedForm
    simp only
    cases trapOf x cause f with
    | none => exact ⟨_, _, p0, rfl, (computed x sr f x.team).traps, by cases x.ref.high <;> rfl⟩
    | some q => exact ⟨_, _, p0.trap q, rfl, _, rfl⟩
  refine ⟨_, rfl, ?_⟩
  rw [hs2]
  obtain ⟨hin, sp', e, r, pl⟩ := p.done ht rfl
  generalize chargeIdle x (retire x s2) = u at *
  obtain ⟨q, hq⟩ := htm
  obtain ⟨hfl, hrest, hregs, hcnt⟩ := computed_rest x sr f x.team
  have hregs' : ∀ n, teamReg (putSplit tm x.ref.high (some sp')) n = teamReg (computed x sr f x.team) n := by
    intro n; subst hq
    cases x.ref.high <;> cases n <;> rfl
  have hspl : splitOf u x.ref = some sp' := by unfold splitOf; rw [e]; simp
  refine ⟨⟨hin, ⟨sp', hspl, ?_⟩, ?_, ?_, ?_, ?_⟩, ?_, _, e, ?_⟩
  · split
    · next h => rw [if_pos h] at pl; exact pl
    · next h => rw [if_neg h] at pl; exact ⟨pl.1, pl.2.1, by rw [pl.2.2]; exact hc⟩
  · unfold splitRegs; rw [hspl]; simp only [Option.map_some]; rw [r]; rfl
  · intro n
    unfold flagAt
    rw [e, ht]
    apply flagSet_eq
    rw [← hfl]; subst hq
    cases x.ref.high <;> rfl
  · intro n hn
    rw [regAt_eq _ _ _ _ e, regAt_eq _ _ _ _ ht, hregs', hregs]
    split
    · rfl
    · exact teamReg_unnamed _ _ _ _ _ _ hn
  · unfold teamRegs
    rw [e, ht]
    simp only [Option.map_some]
    have : (putSplit tm x.ref.high (some sp')).regs = (computed x sr f x.team).regs := by
      subst hq; cases x.ref.high <;> rfl
    rw [this]
    have : ∀ w : Team, { w.regs with vregs := [], sregs := [], preds := [], srcnt := [] } = (restOf w).regs := fun _ => rfl
    rw [this, this, hrest]
  · intro l hl hmx
    unfold teamRegs
    rw [e, ht]
    simp only [Option.map_some, Option.getD_some]
    have : (putSplit tm x.ref.high (some sp')).regs.srcnt = (computed x sr f x.team).srcnt := by
      subst hq; cases x.ref.high <;> rfl
    rw [this, hcnt]
    show _ = mapGet 0 x.team.srcnt l + _
    have hl' : l < lanes x.team := hl
    by_cases hb : (sr && decide (x.rnd = 5)) = true
    · rw [if_pos hb, mapGet_put, if_pos (by omega)]
      simp [hb, hmx]
    · rw [if_neg hb]; simp [hb]
  · intro n; rw [hregs', hregs]

/-- A destination that passes the checks is a vector or scalar register or a predicate. -/
theorem Issues.dst {i : Instr} {s : State} {x : Iss} (h : Issues i s x) (hr : (roles x.op).1.isDst = true) :
    (∃ v, opd x.f.d = .vec v) ∨ (∃ v, opd x.f.d = .scal v) ∨ (∃ v, opd x.f.d = .pred v) := by
  obtain ⟨r, t, sp, c, f, hi, hf, hx, hd⟩ := h
  have h2 : operandsOk x (readU x) = true := by
    unfold decodeFault at hd
    split at hd
    · cases hd
    · split at hd
      · cases hd
      · next h => simpa using h
  unfold operandsOk at h2
  simp only [Bool.and_eq_true] at h2
  have h3 := h2.1.1.1.1.1.1.1.1.1.1
  revert h3 hr
  cases (roles x.op).1 <;> intro hr <;> try (exact absurd hr (by decide))
  all_goals
    unfold roleOk
    cases opd x.f.d <;> simp

/-- The lanes whose result is the form's own write, and are none of R320. -/
theorem laneIn_sure {x : Iss} {l : Nat} (h : laneIn x.sure l = true) : laneIn x.writers l = true ∧ laneIn x.mixed l = false := by
  unfold Iss.sure at h
  simp [laneIn] at h
  exact ⟨h.1, h.2.2⟩

/-- A form with a scalar destination writes no lane of R320. -/
theorem mixed_scalar {x : Iss} (h : x.scalarDst = true) : x.mixed = 0 := by simp [Iss.mixed, h]

/-- The destination of a computing form. -/
theorem Holds_of_writeDst {t : State} {x : Iss} {u : Team} {f : Nat → Nat} (hu : teamOf t x.ref.team = some u)
    (hr : ∀ q, teamReg u q = teamReg (if x.writers = 0 then x.team else writeDst x.team x.f.d x.writers f (fieldRegs x).1) q)
    (hd : (∃ v, opd x.f.d = .vec v) ∨ (∃ v, opd x.f.d = .scal v) ∨ (∃ v, opd x.f.d = .pred v)) (hn : 0 < (fieldRegs x).1)
    (hs : x.scalarDst = true → ∀ l, laneIn x.writers l = true → f 0 = f l) : Holds t x f := by
  intro hdis l hl hms
  have hm := (laneIn_sure hms).1
  have hw : x.writers ≠ 0 := by intro h; rw [h, laneIn_zero] at hm; cases hm
  simp only [if_neg hw] at hr
  rcases hd with ⟨v, hv⟩ | ⟨v, hv⟩ | ⟨v, hv⟩
  · have : x.predDst = false := by simp [Iss.predDst, hv]
    unfold dstRegs
    simp only [this, Bool.false_eq_true, if_false]
    exact dstAt_vec t _ u x.team _ v _ f _ hu hv hr l hl hm _ (Nat.le_refl _)
  · have : x.predDst = false := by simp [Iss.predDst, hv]
    have h2 : x.scalarDst = true := by simp [Iss.scalarDst, hv]
    unfold dstRegs
    simp only [this, Bool.false_eq_true, if_false]
    rw [dstAt_scal t _ u x.team _ v _ f _ hu hv hr l _ (Nat.le_refl _), hs h2 l hm]
  · have : x.predDst = true := by simp [Iss.predDst, hv]
    unfold dstRegs
    simp only [this, if_true]
    have h0 : v ≠ 0 := by intro h; subst h; simp [discards, hv] at hdis
    simpa using dstAt_pred t _ u x.team _ v _ f _ hu hv h0 hn hr l hl hm

/-- A scalar form computes once: the lanes that write have one value. -/
theorem onceOr_writers (x : Iss) (f : Nat → Nat × Exc) (l : Nat) (hm : laneIn x.writers l = true) :
    onceOr x f l = f l ∧ (x.scalarDst = true → onceOr x f 0 = f l) := by
  unfold onceOr
  by_cases h : x.scalarDst = true
  · unfold Iss.writers at hm
    rw [if_pos h] at hm
    split at hm
    · rw [laneIn_zero] at hm; cases hm
    · rw [laneIn_maskOf] at hm
      simp at hm
      simp [h, hm.2]
  · simp [h]

/-- A fixed-class form as a statement about its result. -/
theorem fixedForm_holds {i : Instr} {s : State} {x : Iss} (hx : Issues i s x) (sr : Bool) (cause : BitVec 8) (f : Nat → Nat × Exc)
    (hd : (roles x.op).1.isDst = true) (hn : 0 < (fieldRegs x).1) :
    ∃ t, chargeIdle x (fixedForm x sr cause f (popIssue s)) = t ∧ Computed s t x (raised x f) ∧ Counts s t x sr ∧
      Holds t x (fun l => (f l).1) := by
  obtain ⟨t, e, hc, hk, u, hu, hr⟩ := fixedForm_spec hx sr cause f
  refine ⟨t, e, hc, hk, ?_⟩
  have h := Holds_of_writeDst hu hr (hx.dst hd) hn (fun h l hm => by
    simp only [laneValue, mixed_scalar h, laneIn_zero, Bool.false_eq_true, if_false, onceOr, h, if_true])
  intro a l b c
  refine (h a l b c).trans ?_
  obtain ⟨cw, cm⟩ := laneIn_sure c
  simp only [laneValue, cm, Bool.false_eq_true, if_false, (onceOr_writers x f l cw).1]

theorem exc_or_zero (e : Exc) : e ||| 0 = e := BitVec.or_zero

/-- No exceptions: a form whose lanes raise none. -/
theorem raised_none (x : Iss) (f : Nat → Nat × Exc) (h : ∀ l, (f l).2 = 0) : raised x f = 0 := by
  unfold raised
  generalize lanesOf x.n x.raisers = ls
  have : ∀ e : Exc, ls.foldl (fun e l => e ||| (f l).2) e = e := by
    induction ls with
    | nil => intro e; rfl
    | cons a l ih => intro e; rw [List.foldl_cons, h, exc_or_zero]; exact ih e
  exact this 0

theorem elems_none (w n : Nat) (f : Nat → Nat × Exc) (h : ∀ e, (f e).2 = 0) : (elems w f n).2 = 0 := by
  induction n with
  | zero => rfl
  | succ n ih => simp only [elems, ih, h, exc_or_zero]

/-- A result of packed elements, read element by element. -/
theorem Holds_elems {t : State} {x : Iss} {w n : Nat} {f : Nat → Nat → Nat × Exc} (h : Holds t x (fun l => (elems w (f l) n).1))
    (hp : x.predDst = false) (hw : w * n ≤ 32 * dstRegs x) (l : Nat) (hl : l < x.n) (hm : laneIn x.sure l = true) (e : Nat) (he : e < n) :
    fld (dstAt t x.ref.team x.f.d l (dstRegs x)) (w * e) w = (f l e).1 % 2 ^ w := by
  have hd : discards x.f.d = false := by
    unfold discards Iss.predDst at *
    cases ho : opd x.f.d <;> simp_all
  rw [h hd l hl hm, hp, if_neg (by simp)]
  obtain ⟨a, b⟩ := elems_fld w n (f l) e he
  rw [Nat.mod_eq_of_lt (Nat.lt_of_lt_of_le b (Nat.pow_le_pow_right (by decide) hw)), a]

/-- A destination that may not be a predicate is none. -/
theorem Issues.noPred {i : Instr} {s : State} {x : Iss} (h : Issues i s x)
    (hr : (roles x.op).1 = .dst ∨ (roles x.op).1 = .dsrc ∨ (roles x.op).1 = .vdst ∨ (roles x.op).1 = .sdst) : x.predDst = false := by
  obtain ⟨r, t, sp, c, f, hi, hf, hx, hd⟩ := h
  have h2 : operandsOk x (readU x) = true := by
    unfold decodeFault at hd
    split at hd
    · cases hd
    · split at hd
      · cases hd
      · next h => simpa using h
  unfold operandsOk at h2
  simp only [Bool.and_eq_true] at h2
  have h3 := h2.1.1.1.1.1.1.1.1.1.1
  unfold Iss.predDst
  rcases hr with h | h | h | h <;> rw [h] at h3 <;> unfold roleOk at h3 <;> revert h3 <;> cases opd x.f.d <;> simp

end Sys2Proof.Machine
end

