-- ==== Sys2Proof/Laws/Memory.lean ====
section
/-! SUPPORT. Memory operations: each keeps the canonical form of memory, tags and poison marks, and what each leaves in a
byte of memory. -/
namespace Sys2Proof.Machine

/-! ### Waking changes no memory -/

theorem wakeLine_mem (s : State) (l : Nat) : (wakeLine s l).mem = s.mem := rfl
theorem wakeLine_tags (s : State) (l : Nat) : (wakeLine s l).tags = s.tags := rfl
theorem wakeLine_poison (s : State) (l : Nat) : (wakeLine s l).poison = s.poison := rfl

theorem wakeLines_stores (ls : List Nat) (s : State) :
    (ls.foldl wakeLine s).mem = s.mem ∧ (ls.foldl wakeLine s).tags = s.tags ∧ (ls.foldl wakeLine s).poison = s.poison := by
  induction ls generalizing s with
  | nil => exact ⟨rfl, rfl, rfl⟩
  | cons l r ih => exact ih (wakeLine s l)

/-! ### Nor does a cache -/

/-- Folding steps each of which leaves a projection leaves it. -/
theorem foldl_leaves {α β : Type} (p : State → β) (f : State → α → State) (h : ∀ s a, p (f s a) = p s) (l : List α) (s : State) :
    p (l.foldl f s) = p s := by
  induction l generalizing s with
  | nil => rfl
  | cons a r ih => exact (ih (f s a)).trans (h s a)

/-- What a slice does with its lines leaves memory, the tags and the poison marks. -/
theorem sliceWrite_stores (s : State) (pa n : Nat) : (sliceWrite s pa n).mem = s.mem ∧ (sliceWrite s pa n).tags = s.tags ∧
    (sliceWrite s pa n).poison = s.poison := by
  unfold sliceWrite
  refine ⟨?_, ?_, ?_⟩ <;>
    (refine foldl_leaves _ _ (fun s i => ?_) _ _
     refine foldl_leaves _ _ (fun s p => ?_) _ _
     dsimp only
     split <;> rfl)

theorem l1Update_stores (s : State) (c pa n : Nat) (f : Nat → Byte) : (l1Update s c pa n f).mem = s.mem ∧
    (l1Update s c pa n f).tags = s.tags ∧ (l1Update s c pa n f).poison = s.poison := ⟨rfl, rfl, rfl⟩

theorem l1Seen_stores (c : Nat) (s : State) (pa n : Nat) : (l1Seen c s pa n).mem = s.mem ∧ (l1Seen c s pa n).tags = s.tags ∧
    (l1Seen c s pa n).poison = s.poison := by
  unfold l1Seen
  dsimp only
  split <;> exact ⟨rfl, rfl, rfl⟩

/-! ### What a write leaves -/

theorem writeMem_mem (s : State) (pa n : Nat) (f : Nat → Byte) : (writeMem s pa n f).mem = mapPut memDefault s.mem pa n f :=
  (sliceWrite_stores _ _ _).1.trans (wakeLines_stores _ _).1

theorem writeMem_tags (s : State) (pa n : Nat) (f : Nat → Byte) : (writeMem s pa n f).tags = s.tags :=
  (sliceWrite_stores _ _ _).2.1.trans (wakeLines_stores _ _).2.1

theorem writeMem_poison (s : State) (pa n : Nat) (f : Nat → Byte) : (writeMem s pa n f).poison = clearPoison s pa n :=
  (sliceWrite_stores _ _ _).2.2.trans (wakeLines_stores _ _).2.2

/-- A byte after a write: the byte written, or the byte as it was. -/
theorem readByte_writeMem (s : State) (pa n : Nat) (f : Nat → Byte) (a : Nat) :
    readByte (writeMem s pa n f) a = if pa ≤ a ∧ a < pa + n then f (a - pa) else readByte s a := by
  unfold readByte
  rw [writeMem_mem, mapGet_put]

/-- A write leaves every byte outside it. -/
theorem readByte_writeMem_other (s : State) (pa n : Nat) (f : Nat → Byte) (a : Nat) (h : a < pa ∨ pa + n ≤ a) :
    readByte (writeMem s pa n f) a = readByte s a := by
  rw [readByte_writeMem, if_neg (by omega)]

theorem leNat_congr (f g : Nat → Byte) (a n : Nat) (h : ∀ i, i < n → f (a + i) = g (a + i)) : leNat f a n = leNat g a n := by
  induction n with
  | zero => rfl
  | succ n ih => simp only [leNat, h n (by omega), ih (fun i hi => h i (by omega))]

/-- A number written and read back. -/
theorem leNat_byteOf (v n : Nat) : leNat (byteOf v) 0 n = v % 2 ^ (8 * n) := by
  induction n with
  | zero => simp [leNat, Nat.mod_one]
  | succ n ih =>
    simp only [leNat, ih, byteOf, Nat.zero_add, BitVec.toNat_ofNat, Nat.shiftRight_eq_div_pow, Nat.shiftLeft_eq]
    rw [show 8 * (n + 1) = 8 * n + 8 by omega, Nat.pow_add, Nat.mod_mul, Nat.mul_comm (2 ^ (8 * n))]

theorem leNat_shift (f : Nat → Byte) (a n : Nat) : leNat f a n = leNat (fun i => f (a + i)) 0 n := by
  induction n with
  | zero => rfl
  | succ n ih => simp only [leNat, ih, Nat.zero_add]

theorem readMem_writeNat (s : State) (pa n v : Nat) : readMem (writeNat s pa n v) pa n = v % 2 ^ (8 * n) := by
  unfold readMem
  rw [leNat_shift, ← leNat_byteOf v n]
  apply leNat_congr
  intro i hi
  simp only [Nat.zero_add]
  unfold writeNat
  rw [readByte_writeMem, if_pos (by omega), Nat.add_sub_cancel_left]

theorem readMem_writeMem_other (s : State) (pa n : Nat) (f : Nat → Byte) (a m : Nat) (h : a + m ≤ pa ∨ pa + n ≤ a) :
    readMem (writeMem s pa n f) a m = readMem s a m := by
  unfold readMem
  apply leNat_congr
  intro i hi
  exact readByte_writeMem_other s pa n f (a + i) (by omega)

/-! ### The canonical form -/

theorem reset_canonical : Canonical State.reset := ⟨rfl, rfl, rfl⟩

/-- A step that leaves memory, tags and poison marks keeps their form. -/
theorem Canonical.of_eq {s t : State} (h : Canonical s) (hm : t.mem = s.mem) (ht : t.tags = s.tags) (hp : t.poison = s.poison) :
    Canonical t := by
  unfold Canonical
  rw [hm, ht, hp]
  exact h

theorem writeMem_canonical (s : State) (pa n : Nat) (f : Nat → Byte) (h : Canonical s) : Canonical (writeMem s pa n f) := by
  refine ⟨?_, ?_, ?_⟩
  · unfold Memory.wf; rw [writeMem_mem]; exact mapWf_put _ _ _ _ _ h.1
  · rw [writeMem_tags]; exact h.2.1
  · rw [writeMem_poison]; exact mapWf_filter _ _ _ h.2.2

theorem writeMemBy_canonical (c : Nat) (s : State) (pa n : Nat) (f : Nat → Byte) (h : Canonical s) : Canonical (writeMemBy c s pa n f) :=
  let k := l1Seen_stores c (writeMem s pa n f) pa n
  (writeMem_canonical s pa n f h).of_eq k.1 k.2.1 k.2.2

theorem atomMemBy_canonical (c : Nat) (s : State) (pa n : Nat) (f : Nat → Byte) (h : Canonical s) : Canonical (atomMemBy c s pa n f) :=
  let k := l1Seen_stores c (writeMem s pa n f) pa n
  (writeMem_canonical s pa n f h).of_eq k.1 k.2.1 k.2.2

theorem writeNat_canonical (s : State) (pa n v : Nat) (h : Canonical s) : Canonical (writeNat s pa n v) := writeMem_canonical s pa n _ h

theorem writeList_canonical (s : State) (pa : Nat) (l : List Byte) (h : Canonical s) : Canonical (writeList s pa l) :=
  writeMem_canonical s pa _ _ h

theorem sliceAtomic_canonical (s : State) (pa n : Nat) (f : Nat → Nat) (h : Canonical s) : Canonical (sliceAtomic s pa n f).1 :=
  writeNat_canonical s pa n _ h

theorem scrubMem_canonical (s : State) (pa n : Nat) (h : Canonical s) : Canonical (scrubMem s pa n) := by
  have k := writeMem_canonical s pa n (fun _ => memDefault) h
  exact ⟨k.1, mapWf_cut _ _ _ _ (Nat.div_le_div_right (by omega)) k.2.1, k.2.2⟩

theorem scrubRange_canonical (s : State) (pa n : Nat) (h : Canonical s) : Canonical (scrubRange s pa n) := by
  unfold scrubRange
  dsimp only
  unfold Canonical Memory.wf
  rw [(wakeLines_stores _ _).1, (wakeLines_stores _ _).2.1, (wakeLines_stores _ _).2.2]
  exact ⟨mapWf_cut _ _ _ _ (by omega) h.1, mapWf_cut _ _ _ _ (Nat.div_le_div_right (by omega)) h.2.1,
    mapWf_cut _ _ _ _ (Nat.div_le_div_right (by omega)) h.2.2⟩

theorem poisonSector_canonical (s : State) (pa : Nat) (h : Canonical s) : Canonical (poisonSector s pa) :=
  ⟨h.1, h.2.1, mapWf_set _ _ _ _ h.2.2⟩

end Sys2Proof.Machine
end

