-- ==== Sys2Proof/Tests/Slice0.lean ====
section
/-! SUPPORT. Tests of the model on single words and single steps, and states that meet the hypotheses of the statements. The expected
results are the spec's own examples or worked out by hand from its tables. -/
namespace Sys2Proof.Tests

set_option Elab.async false
open Sys2Proof.Machine Sys2Proof.Forms

/-! ### Helpers -/

/-- The team of one row on which a form is tried. -/
def team0 : TeamKey := { disp := 0, block := 0, team := 0 }

/-- Its low split. -/
def low0 : SplitRef := { team := team0, high := false }

/-- The state in which a word issues under a MODE, with one value in the first literal slot. -/
def placed (mode lit w : Word) : State :=
  let s := withWord State.reset w
  { s with teams := s.teams.map (fun t => { t with low := t.low.map (fun sp =>
      { sp with mode := mode, clause := sp.clause.map (fun c => { c with lits := lit :: List.replicate 7 0 }) }) }) }

/-- The same, with registers of the team. -/
def withRegs (s : State) (f : Team → Team) : State := { s with teams := s.teams.map f }

/-- The issue of a form placed so. -/
def issueOf (mode lit : Word) (i : Instr) : Option Iss :=
  match encode i, fieldsOf i with
  | some w, some f => (issuing (placed mode lit w)).map (fun q => issOf (placed mode lit w) q.1 q.2.1 q.2.2.1 q.2.2.2 f)
  | _, _ => none

/-- Does it issue with active lanes, none of the decode checks failing? -/
def canIssue (mode lit : Word) (i : Instr) : Bool :=
  match issueOf mode lit i with
  | some x => (decodeFault x (readU x)).isNone && decide (x.active ≠ 0)
  | none => false

def issuesAll (mode lit : Word) (l : List Instr) : Bool := l.all (canIssue mode lit)

/-- What the check says of the hypothesis of the statements about forms. -/
theorem issues_of_canIssue (mode lit : Word) (i : Instr) (h : canIssue mode lit i = true) :
    ∃ s x, Issues i s x ∧ x.active ≠ 0 := by
  unfold canIssue at h
  split at h
  next x hx =>
    simp only [Bool.and_eq_true, Option.isNone_iff_eq_none, decide_eq_true_eq] at h
    unfold issueOf at hx
    split at hx
    next w f hw hf =>
      obtain ⟨q, hq, rfl⟩ := Option.map_eq_some_iff.mp hx
      exact ⟨placed mode lit w, _, ⟨q.1, q.2.1, q.2.2.1, q.2.2.2, f, hq, hf, rfl, h.1⟩, h.2⟩
    next => cases hx
  next => cases h

/-! ### Every form issues somewhere, for the statements about forms -/

theorem witness_IntegerArithmeticResults :
    issuesAll 0x0 0x0 [.iadd 4 4 4, .isub 4 4 4, .imul 4 4 4, .imulh 4 4 4, .imad 4 4 4, .imin 4 4 4, .imax 4 4 4, .iabs 4 4,
      .ineg 4 4] = true := by decide +kernel

theorem witness_LogicShiftAndCountResults :
    issuesAll 0x100 0x0 [.and 4 4 4, .or 4 4 4, .xor 4 4 4, .andn 4 4 4, .not 4 4, .shl 4 4 4, .shr 4 4 4, .sar 4 4 4, .rol 4 4 4, .popc 4 4,
      .clz 4 4, .ctz 4 4, .brev 4 4] = true := by decide +kernel

theorem witness_BitFieldResults :
    issuesAll 0x0 0x0 [.bfx 4 4 4, .bfi 4 4 4] = true := by decide +kernel

theorem witness_CompareSelectAndMoveResults :
    issuesAll 0x100 0x0 [.sel 4 4 4, .mov 4 4] = true ∧
    issuesAll 0x0 0x0 [.icmpeq 4 4 4, .icmpne 4 4 4, .icmplt 4 4 4, .icmple 4 4 4, .icmpgt 4 4 4, .icmpge 4 4 4] = true := by decide +kernel

theorem witness_AddressAndDescriptorForms :
    issuesAll 0x100 0x0 [.iadd64 4 4 4, .isub64 4 4 4, .adda 4 4 4, .tagset 4 4 4, .tagget 4 4, .bdmake 0x84 0x84 0x84, .bdnarrow 0x84 0x84 0x84,
      .bdquery 4 0x84 0x84] = true := by decide +kernel

theorem witness_FloatArithmeticResults :
    issuesAll 0x100 0x0 [.fadd 4 4 4, .fsub 4 4 4, .fmul 4 4 4, .fma 4 4 4, .fms 4 4 4, .fnma 4 4 4, .fldexp 4 4 4] = true := by decide +kernel

theorem witness_FloatSignOrderAndCompareResults :
    issuesAll 0x100 0x0 [.fmin 4 4 4, .fmax 4 4 4, .fminm 4 4 4, .fmaxm 4 4 4, .fabs 4 4, .fneg 4 4, .fcopysign 4 4 4, .fcmpeq 4 4 4,
      .fcmpne 4 4 4, .fcmplt 4 4 4, .fcmple 4 4 4, .fcmpun 4 4 4, .fclass 4 4, .fgetexp 4 4] = true := by decide +kernel

theorem witness_RoundingAndDotProductResults :
    issuesAll 0x100 0x0 [.ffloor 4 4, .fceil 4 4, .ftrunc 4 4, .frint 4 4] = true ∧
    issuesAll 0x110 0x0 [.fdot2 4 4 4] = true ∧
    issuesAll 0x130 0x0 [.fdot4 4 4 4] = true := by decide +kernel

theorem witness_ExecutionForms :
    issuesAll 0x0 0x0 [.idiv 4 4 4, .irem 4 4 4] = true ∧
    issuesAll 0x100 0x0 [.frcp 4 4, .frsq 4 4, .fsqrt 4 4, .fdiv 4 4 4, .fexp2 4 4, .flog2 4 4, .fsin 4 4, .fcos 4 4,
      .ftanh 4 4] = true := by decide +kernel

theorem witness_ConversionResults :
    issuesAll 0x100 0x10 [.cvtff 4 4 0xD0] = true ∧
    issuesAll 0x0 0x10 [.cvtfi 4 4 0xD0] = true ∧
    issuesAll 0x100 0x0 [.cvtif 4 4 0xD0] = true ∧
    issuesAll 0x0 0x0 [.cvtii 4 4 0xD0] = true ∧
    issuesAll 0x110 0x0 [.pack2 4 4 4] = true := by decide +kernel

theorem witness_QuantisationResults :
    issuesAll 0x100 0x0 [.qpack 4 4 4, .qunpack 4 4 4, .scalemake 4 4 0x84, .srseed 4] = true := by decide +kernel

theorem witness_LaneMoveResults :
    issuesAll 0x100 0x0 [.qswapx 4 4, .qswapy 4 4, .qswapd 4 4, .qbcast 4 4 0x84, .lshfl 4 4 4, .lshflup 4 4 0x84, .lshfldn 4 4 0x84,
      .lbcast 4 4 0x84, .rdlane 0x84 4 0x84, .wrlane 4 0x84 0x84] = true := by decide +kernel

theorem witness_VoteAndScanResults :
    issuesAll 0x100 0x0 [.lvote 4 4 0xD0, .lpopc 4 4, .lscan 4 4 0xD0, .lred 4 4 0xD0, .lfirst 4 4, .lmatch 4 4] = true := by decide +kernel

theorem witness_ModeAndPacingForms :
    issuesAll 0x100 0x0 [.nop, .modeset 0x84 0x84, .modegrd 1 0, .modetyp 4, .modernd 4, .yield, .sleep 0x84] = true := by decide +kernel

theorem witness_BranchForms :
    issuesAll 0x100 0x0 [.bra 0xD0, .brany 4 0xD0, .brall 4 0xD0, .btbl 4, .call 0x84 0xD0, .calli 0x84 0x84, .ret 0x84] = true := by decide +kernel

theorem witness_DivergentBranch :
    issuesAll 0x100 0x0 [.brp 0xD0 4 0xD0] = true := by decide +kernel

theorem witness_JoinAndExitForms :
    issuesAll 0x100 0x0 [.join, .exit] = true := by decide +kernel

theorem witness_TrapForms :
    issuesAll 0x100 0x0 [.trap 4, .rte] = true := by decide +kernel

theorem witness_SpecialRegisterForms :
    issuesAll 0x100 0x0 [.rdsr 0x84 4 0, .wrsr 1 0x84, .cycle 0x84 0] = true := by decide +kernel

theorem witness_ServiceAndDebugForms :
    issuesAll 0x100 0x0 [.svc 0 4, .bbhint 0x84, .bkpt 4] = true := by decide +kernel

theorem witness_LoadForms :
    issuesAll 0x100 0x0 [.ld 4 4 0xD0, .ldacq 4 4 0xD0, .ldnt 4 4 0xD0] = true := by decide +kernel

theorem witness_StoreForms :
    issuesAll 0x100 0x0 [.st 4 4 0xD0, .strel 4 4 0xD0] = true := by decide +kernel

theorem witness_BufferAndScaleTileForms :
    issuesAll 0x100 0x0 [.ldb 4 0x84 4, .ldbz 4 0x84 4, .stb 4 0x84 4, .ldsc 4 0x84 0x84] = true := by decide +kernel

theorem witness_ScratchpadForms :
    issuesAll 0x100 0x0 [.lds 4 4 0xD0, .sts 4 4 0xD0] = true := by decide +kernel

theorem witness_CacheAndTagForms :
    issuesAll 0x100 0x0 [.pref 4 0xD0, .cctl 4 0xD0, .sttag 4 4, .ldtag 4 4] = true := by decide +kernel

theorem witness_AtomicAndReductionForms :
    issuesAll 0x0 0x0 [.aadd 4 4 4, .amin 4 4 4, .amax 4 4 4, .aand 4 4 4, .aor 4 4 4, .axor 4 4 4, .axchg 4 4 4, .acas 4 4 4, .redadd 4 4,
      .redmin 4 4, .redmax 4 4, .redand 4 4, .redor 4 4, .redxor 4 4] = true ∧
    issuesAll 0x100 0x0 [.afadd 4 4 4, .redfadd 4 4] = true := by decide +kernel

theorem witness_FenceWaitAndBarrierForms :
    issuesAll 0x100 0x0 [.fence 0xD0, .waiteq 0xD0 0x84 0x84, .waitne 0xD0 0x84 0x84, .barinit 4 0x84, .bararv 4 4, .barexp 4 0x84,
      .barwait 4 0x84 4, .bartest 4 4 0x84] = true := by decide +kernel

theorem witness_FutureForms :
    issuesAll 0x100 0x0 [.fwait 0x84 0x84 0, .ftest 4 0x84 0, .fcancel 0x84] = true := by decide +kernel

theorem witness_EngineStarts :
    issuesAll 0x100 0x0 [.xcopy 0x84 0x84 0xD0, .xcopyt 0x84 0x84 0xD0, .xgather 0x84 0x84 0xD0, .xfill 0x84 0x84 0xD0] = true := by decide +kernel

theorem witness_GridAndHaloForms :
    issuesAll 0x100 0x0 [.gbind 4 0x84, .hld 4 4 0xD0, .hstep 0x84 0x84 4, .hquery 4 0x84 4] = true := by decide +kernel

theorem witness_FabricForms :
    issuesAll 0x100 0x0 [.rstrel 4 4 0xD0, .rmcast 0x84 0x84, .rfence, .rstream 0x84 0x84] = true := by decide +kernel

theorem witness_MatrixForms :
    issuesAll 0x100 0x100 [.mmae4 0xD0 0x84 4, .mmae5 0xD0 0x84 4, .mmabf 0xD0 0x84 4, .mmahf 0xD0 0x84 4, .mmas8 0xD0 0x84 4, .mmaq4 0xD0 0x84 4,
      .mmqe4 0xD0 0x84 4, .mmqe5 0xD0 0x84 4, .mmqbf 0xD0 0x84 4, .mmqhf 0xD0 0x84 4, .mmqs8 0xD0 0x84 4, .mmqq4 0xD0 0x84 4, .mldacc 4 0x84 0xD0,
      .mdrain 4 0x84 0xD0] = true ∧
    issuesAll 0x100 0x0 [.mzero 4, .mready] = true ∧
    issuesAll 0x100 0x400 [.mdraint 0xD0 0x84 0x84] = true := by decide +kernel

/-! ### States that meet the hypotheses of the statements about operations and events -/

/-- A state at a step of a unit. -/
def at_ (s : State) (e : Event) : State := { s with event := some e }

/-- The team of one row, at a form under S32. -/
def one : State := placed 0 0 0x10040404

def teamAt (s : State) : Option Team := teamOf s team0
def splitHolds (s : State) (h : Hold) (n : Option Nat) (k : Nat) : State :=
  updSplit s low0 (fun sp => { sp with hold := h, waited := n, limit := k })

theorem witness_CycleSteps :
    (frozen State.reset = false ∧ State.reset.taking = false ∧ stopNow State.reset = false) ∧
    stopNow { State.reset with stopctl := 1 } = true ∧ stopNow { State.reset with stopctl := 1, stopat := 1 } = false ∧
    frozen { State.reset with stopctl := 4 } = true := by decide +kernel

/-- The first GiB of an address space in the die's TLB of quarter 0, by its leaf. -/
def translations (asid : BitVec 13) (leaf : BitVec 64) : SMap (Cache TlbEntry) :=
  [(sharedTlbName 0, { ways := [{ set := 0, way := 0, val := { asid := asid, base := 0, bits := 30, leaf := leaf } }], trees := [] })]

/-- The split has a clause to fetch from a page of 1 GiB at 0 that the translation caches hold; a header stands there. -/
def fetching : State :=
  let s := updCtx (updSplit one low0 (fun sp => { sp with clause := none })) 0 (fun c =>
    { c with ctxtr := 0x8000000000000000, spbase := 0x10000000000000, stkbase := 0x20000000000000 })
  writeNat { s with tlb := translations 0 0x203 } 0x1000 4 0xC01FF000

theorem witness_CycleSteps_fetch :
    (splitOf fetching low0).map (fun sp => (sp.clause, (fetchWords { ctx := 0, core := 0, part := 0 } sp.pageFail 1 sp.pc fetching).2.toOption)) = some (none, some [0xC01FF000]) ∧
    headerBad 0xC01FF000 = false ∧ headerBad 0xC00FF000 = true ∧ headerBad 0x201FF000 = true := by decide +kernel

theorem witness_SplitEvents :
    (∃ u, teamOf one team0 = some u ∧ ∃ sp, splitIn u false = some sp ∧ sp.handler = none ∧ canRun one u sp = true ∧ sp.hold = .none) ∧
    ((splitOf (splitHolds one (.sleep 0) none 0) low0).map (·.hold) = some (.sleep 0)) ∧
    ((splitOf (splitHolds one (.wait [.poll]) (some 5) 5) low0).map (fun sp => (sp.waited, sp.limit)) = some (some 5, 5)) :=
  ⟨⟨_, rfl, _, rfl, rfl, by decide +kernel, rfl⟩, by decide +kernel, by decide +kernel⟩

theorem witness_SliceAndObjectSteps :
    (at_ State.reset (.objArrive 0x40 none)).event = some (.objArrive 0x40 none) ∧ 0x40 < hostBase ∧ hostBase ≤ 0x800000000000 ∧
    (readBar State.reset 0x40).init = false ∧
    (readBar (writeNat State.reset 0x40 16 (1 + (1 <<< 16) + (1 <<< 65))) 0x40).init = true ∧ futDone State.reset 0x80 = false := by
  decide +kernel

/-- A packet two nodes from its slice, on the compute layer. -/
def hopping : State :=
  { State.reset with network := [{ cls := 0, at_ := some (0, 0, 0, 0), dest := some (0, 1, 1, 0), src := 0, second := false, inp := 6,
                                   req := { pa := 0, op := .read, size := 4, data := 0, cmp := 0, src := none } }] }

theorem witness_NetworkSteps :
    (hopping.network[0]?).map (fun p => (p.at_, p.dest)) = some (some (0, 0, 0, 0), some (0, 1, 1, 0)) ∧
    fnGated State.reset 0 = false ∧ fnReaches State.reset 0 0 4 = true ∧ fnReaches State.reset 1 0 4 = false := by decide +kernel

theorem witness_BandSteps : bits (0x0005695F : Word) 7 0 < bits (0x0005695F : Word) 15 8 ∧ anyEnabled State.reset = false ∧
    (at_ State.reset (.quarterWakeReady 0)).event = some (.quarterWakeReady 0) := by decide +kernel

/-- A copy of one element that its team has started and the engine has not accepted. -/
def aCopy : XeOp := match issuing (placed 0 0 0xC08488D0) with
  | some (r, t, sp, c) => newXeOp (issOf one r t sp c (wordFields 0xC08488D0)) .copy 7 0x10000 0
  | none => newXeOp (issOf one low0 (oneRowTeam team0 (oneWordClause 0)) (splitAt 0 (oneWordClause 0)) (oneWordClause 0) (wordFields 0)) .copy 7 0 0

def copying (accepted active : Bool) : State := { one with xeOps := [{ aCopy with accepted := accepted, active := active }] }

theorem witness_CopyEngineSteps :
    (∀ p ∈ (copying false false).xeOps, p.part < 12) ∧ (∃ p ∈ (copying false false).xeOps, p.core = 0 ∧ p.accepted = false) ∧
    (copying true false).xeOps.find? (fun o => decide (o.core = 0) && o.accepted && !o.active) ≠ none ∧ aCopy.cancelled = false ∧
    aCopy.fail = none ∧ bits aCopy.param 55 0 % 64 = 0 ∧ xeFinished (copying true true) { aCopy with accepted := true, active := true } = false := by
  decide +kernel

/-- A GBIND that has reached the launch unit. -/
def binding : State :=
  { one with binds := [{ id := 3, split := low0, ctx := 0, core := 0, slot := 2, ga := 0x4000, lane := 0, pc := 0x1004, word := 0xC4200000,
                         desc := none, map := none, todo := [], page := none, failed := [] }] }

theorem witness_HaloEngineSteps :
    (binding.binds.find? (fun b => decide (b.id = 3))).isSome = true ∧ (teamOf binding team0).isSome = true ∧
    (dispOf binding 0).isSome = true ∧ (slotOf (ctxOf binding 0) 2).releasing = false ∧ (slotOf (ctxOf binding 0) 2).bound = false ∧
    ((dispOf binding 0).map (·.cls)) = some 0 := by decide +kernel

/-- A clearing of tile 1 at quadrant 0. -/
def clearing (accepted started : Bool) : State :=
  { one with mqOps := [{ id := 5, kind := .zero, split := low0, core := 0, quad := 0, part := 0, accepted := accepted, started := started,
                         matched := false, count := 0, rows := 1, active := 1, raced := [], mod0 := 1, mod1 := 0, aOff := 0, bReg := 0, ga := 0, ga2 := 0, pc := 0x1004,
                         word := 0xDC010000, age := 0, flight := 9, free := false, waited := 0, limit := 0, held := false, page := [],
                         failed := [] }] }

theorem witness_QuadrantSteps :
    (mqFirst (clearing false false) 0 0).isSome = true ∧
    quadFree (clearing true false) 0 0 = true ∧ jointNext (clearing true false) 0 0 = none ∧
    (partNext (clearing true false) 0 0).isSome = true ∧ quadFree (clearing true true) 0 0 = false := by decide +kernel

/-- A state with port 0 of the router up and a peer at device 1 of incarnation 1, and a load of 4 bytes from it. -/
def linked : State := { State.reset with fabinc := 1, fabcfg := 0x00010100, peerInc := [(1, 1)], fabacl := [(1, 0xFFFFFFFFFF)] }

theorem witness_FabricTargetSteps : ∃ p : Packet, incFits linked (hdrOf p) = false ∧
    ∃ q : Packet, incFits linked (hdrOf q) = true ∧ (hdrOf q).retx = 0 ∧ (hdrOf q).src ≠ devNum linked :=
  ⟨{ hdr := BitVec.allOnes 256, data := [] }, by decide +kernel, { hdr := 0x100010000, data := [] }, by decide +kernel⟩

theorem witness_FabricSourceSteps : answered linked (hdrOf { hdr := 0, data := [] }) = none ∧ portUp State.reset 0 = false ∧
    bits State.reset.fabtstat 0 0 = 0 ∧ alignsOver State.reset 0 = false := by decide +kernel

def aRecord : FaultRec :=
  { stop := 0, entry := 0, req := none, kind := 0, cause := 0x10, flags := 0, team := 0, acc := 0, lane := 0, core := 0, part := 0, disp := 0,
    block := 0, info := 0, pc := 0, addr := 0, info2 := 0, cyc := 0 }

/-- A record for a fault ring of one page at 0x10000. -/
def ringed : State := updCtx one 0 (fun c => { c with fltring := 0x8000100000000010, faultQ := [aRecord] })

theorem witness_RingSteps :
    let x := ctxOf ringed 0
    bits x.fltring 63 63 = 1 ∧ x.faultQ = [aRecord] ∧ (x.flthead.toNat + 64) % (bits x.fltring 51 44 * 4096) ≠ x.flttail.toNat ∧
    poisonAt ringed 0x10000 64 = false ∧ x.svcQ = [] := by decide +kernel

/-- The team after its last split has gone. -/
def bare : State := updTeam one team0 (fun t => { t with low := none })

theorem witness_TeamSteps :
    (∃ u, teamOf bare team0 = some u ∧ u.low = none ∧ u.high = none ∧ u.ended = false ∧ u.parked = false ∧ u.inflight = [] ∧ u.streams = [] ∧
      teamSaved bare team0 = false ∧ (coreOf bare u.core).bbhint = [] ∧ ∃ b, blockOf bare 0 0 = some b ∧ (coreOf bare b.core).lanecyc = []) ∧
    orderedDisp one 0 = false := by
  refine ⟨⟨_, rfl, rfl, rfl, rfl, rfl, rfl, rfl, by decide +kernel, by decide +kernel, _, rfl, by decide +kernel⟩, by decide +kernel⟩

/-- A SIGNAL of event 1023, the last one, in queue 0 of context 0. -/
def signalling : State :=
  let d : Cmd := { k := 0, body := 0x3FF00000002, at_ := 0 }
  let q : Queue := { Queue.reset with cq := 0x8000600000000010, head := 1, tail := 1, order := [d] }
  updCtx State.reset 0 (fun c => { c with queues := [(0, q)] })

theorem witness_CommandSteps :
    (cmdOf signalling ⟨0, 0, 0⟩).map (fun d => cmdField d 32 32) = some 1023 ∧ cmdFirst signalling ⟨0, 0, 0⟩ = true ∧
    coversPoison signalling (cmdPa signalling ⟨0, 0, 0⟩ + 0x38) 4 = true ∧ decodeList State.reset = [] ∧ cmdOf State.reset ⟨0, 0, 0⟩ = none := by
  decide +kernel

theorem witness_PlacementSteps :
    reservedNow State.reset = none ∧ placeList State.reset = [] ∧ dispOf State.reset 0 = none ∧
    ((dispOf one 0).map (fun d => decide (d.reserved = [] ∧ d.stop = none))) = some true ∧
    ((blockOf one 0 0).map (fun b => (b.saved, b.exited, b.saving))) = some (false, false, false) := by decide +kernel

theorem witness_ContextRegisterSteps :
    bits (queueOf (ctxOf State.reset 0) 63).cq 63 63 = 0 ∧ ctxAt State.reset 0 0x1000018 = some (0, 0x018) ∧ hasBlock State.reset 0 = false ∧
    hasBlock one 0 = true ∧ bits (0x8000000000000000 : BitVec 64) 63 63 = 1 := by decide +kernel

theorem witness_ManagementSteps :
    mergeShape State.reset 0 2 = false ∧ splitShape State.reset 0 2 = true ∧ firstBusy State.reset 0 4 = none ∧
    firstEnabled State.reset 0 4 = none ∧ (∀ i, i < 4 → quarterLost { State.reset with startstat := 0x7B } i = false) ∧
    mailboxMask 0x020000 ≠ none ∧ mailboxMask 0x020010 = none := by decide +kernel

theorem witness_StartSteps : bits State.reset.startstat 1 0 = 0 ∧ bits (0x00000001 : Word) 1 0 = 1 ∧ bits (0x00000002 : Word) 1 0 = 2 ∧
    (at_ State.reset .powerOn).event = some .powerOn := by decide +kernel

theorem witness_ThermalSteps :
    partBits State.reset 0 < 16 ∧ partBits State.reset 3 < 16 ∧ bits State.reset.thermcfg 7 0 ≤ 255 ∧ bits State.reset.thermcfg 7 0 ≤ 0x5F ∧
    bits State.reset.thermcfg 15 8 ≤ 0x69 ∧ bits State.reset.thermstat 3 0 &&& partBits State.reset 0 = 0 := by decide +kernel

theorem witness_HealthSteps : State.reset.cycle.toNat % 2 ^ 32 = 0 ∧ (∀ e ∈ State.reset.errs, e.lasting = false) ∧
    max 1 (bits State.reset.hlthcfg 15 0) = 16 := by decide +kernel

theorem witness_CuffSteps :
    (gateOf State.reset 0).mode = 0 ∧ (gateOf State.reset 0).queue = [] ∧ regionSize (gateOf State.reset 0) < 32 ∧
    32 ≤ regionSize { gateOf State.reset 0 with log := 0x0010000000000010 } := by decide +kernel

theorem witness_VisorSteps : frozen State.reset = false ∧ frozen { State.reset with stopctl := 4 } = true ∧
    (∀ g, g < 2 → bits (gateOf State.reset g).cfg 1 0 ≠ 2) := by decide +kernel

theorem witness_DecodeFaultIsTaken :
    issuing State.reset = none ∧ issuing one ≠ none ∧
    ((issueOf 0x100 0 (.iadd 4 4 4)).map typeOk = some false) ∧
    ((issueOf 0 0 (.iadd 0xD0 4 4)).map (fun x => (typeOk x, operandsOk x (readU x))) = some (true, false)) ∧
    ((issueOf 0 0 (.iadd 4 0xC8 4)).map (fun x => (operandsOk x (readU x), distancesOk x)) = some (true, false)) ∧
    ((issueOf 0 0 (.st 4 4 0xD7)).map (fun x => (distancesOk x, literalsOk x)) = some (true, true)) ∧
    ((issueOf 0x060 0 (.iadd 5 4 4)).map (fun x => (literalsOk x, pairsOk x)) = some (true, false)) ∧
    ((issueOf 0 0 (.iadd 0x84 4 4)).map (fun x => (pairsOk x, scalarOk x)) = some (true, false)) := by decide +kernel

theorem witness_StepRunsWhatIsNext :
    (issuing one).map (fun q => q.2.2.2.words.getD q.2.2.1.pos 0) = some 0x10040404 ∧ State.reset.agenda = [] ∧ State.reset.issueQ = [] ∧
    (issuing { State.reset with issueQ := [low0] }) = none := by decide +kernel

theorem witness_StepKeepsCanonical : ∃ t, Canonical one ∧ step one = .next t := ⟨_, ⟨rfl, rfl, rfl⟩, rfl⟩

theorem witness_CombinedLanesAreOrdered :
    atomicResult .add 8 0xF0 (groupOperand .add 8 [0x10, 0xFF]) 0 = 0xFF ∧ fetched .maxU 8 3 [7, 5] 1 = 7 ∧ fetched .maxU 8 3 [7, 5] 0 = 3 := by
  decide +kernel

/-! ### Words written out from the spec's encodings -/

def decodes (l : List (Word × Instr)) : Bool := l.all (fun p => match decode p.1 with
  | .ok i => decide (i = p.2)
  | .error _ => false)

/-- The words of the examples under R323, R387 and R354 and in the other chapters, one family after another. -/
theorem test_words_of_the_examples : decodes
    [(0x10090102, .iadd 9 1 2), (0x1507C8D1, .idiv 7 0xC8 0xD1), (0x2EC1D9D0, .icmplt 0xC1 0xD9 0xD0), (0x2B01D000, .mov 1 0xD0),
     (0x02D2C1D1, .brp 0xD2 0xC1 0xD1), (0x010000D1, .bra 0xD1), (0x05000000, .join), (0x0A000000, .exit), (0x0C00C200, .modegrd 2 0),
     (0x0D001000, .modetyp 0x10), (0x420A0809, .fmul 10 8 9), (0x900400D0, .ld 4 0 0xD0), (0x910A06D0, .st 10 6 0xD0),
     (0xA0058206, .aadd 5 0x82 6), (0x8A0402D0, .lscan 4 2 0xD0), (0xDBD08810, .mmqq4 0xD0 0x88 0x10), (0xE8000000, .mready)] = true := by
  decide +kernel

/-- Words written from the opcode map and the field tables: opcode in bits 31 to 24, then d, a, b. -/
theorem test_words_of_the_tables : decodes
    [(0x00000000, .nop), (0x1B010203, .and 1 2 3), (0x28010203, .bfx 1 2 3), (0x32020406, .iadd64 2 4 6), (0x37848084, .bdmake 0x84 0x80 0x84),
     (0x56010203, .fdiv 1 2 3), (0x63010203, .fdot4 1 2 3), (0x700102D0, .cvtff 1 2 0xD0), (0x78000300, .srseed 3), (0x83010280, .qbcast 1 2 0x80),
     (0x95010202, .lds 1 2 2), (0x9E018084, .ldsc 1 0x80 0x84), (0xB0000204, .redadd 2 4), (0xB80000D0, .fence 0xD0),
     (0xC08084D0, .xcopy 0x80 0x84 0xD0), (0xC4028000, .gbind 2 0x80), (0xC6808102, .hstep 0x80 0x81 2), (0xC80102D0, .rstrel 1 2 0xD0),
     (0xDC070000, .mzero 7), (0xE10F0500, .bararv 15 5), (0xE5808201, .fwait 0x80 0x82 1), (0xF0000500, .trap 5), (0xF3800000, .rdsr 0x80 0 0),
     (0xF5800100, .cycle 0x80 1)] = true := by decide +kernel

/-- A number field wider than its list and a bit set in an unused field are refused (R263, R265). -/
theorem test_words_refused : [0xC4108000, 0xE1100000, 0xDC080000, 0x05000001, 0x78010300, 0x64000000, 0xFF000000].map (fun w => (decode w).toOption) =
    List.replicate 7 none := by decide +kernel

theorem test_table_word : decodeTableWord 32 0x10090102 = some (.iadd 9 1 2) := by decide +kernel

/-! ### Ill-formed terms -/

/-- A distance as a destination, a predicate as a scalar, a scalar as a vector, a vector where a slot, an address of B or a uniform operand stands, a
modifier slot that is a register: each check of an operand's class refuses a term (R226, R263, R380). -/
theorem test_ill_formed : [Instr.iadd 0xC8 1 2, .call 0xC1 0xD0, .rdlane 3 1 0x80, .qswapx 0x80 1, .mmae4 4 0x84 4, .mmae4 0xD0 0x84 0x84,
    .lbcast 1 2 3, .modetyp 0x1F, .modernd 7, .rdsr 0x80 4 0x80, .wrsr 0 0x80].all (fun i => !i.wellFormed) = true := by decide +kernel

theorem test_well_formed : [Instr.iadd 1 0xC8 0xD0, .call 0x82 0xD0, .rdlane 0x80 1 0x80, .mmae4 0xD0 0x84 4, .modernd 5, .issueCycle].all
    (fun i => i.wellFormed) = true := by decide +kernel

/-! ### Single steps -/

def vec (l : List (Nat × Word)) (t : Team) : Team := { t with vregs := l.map (fun p => (1024 * p.1, p.2)) }

/-- Register `r` of the team after one step. -/
def after (s : State) (r : RegName) : Option Word :=
  match step s with
  | .next t => some (regAt t team0 r)
  | _ => none

/-- The cause of the newest fault record after one step. -/
def causeAfter (s : State) : Option (BitVec 8) :=
  match step s with
  | .next t => ((ctxOf t 0).faultQ.getLast?).map (·.cause)
  | _ => none

/-- The example under R323: IADD under S8 with and without SAT. -/
theorem test_iadd_s8_sat : after (withRegs (placed 0x1040 0 0x10090102) (vec [(1, 0x7F8010F0), (2, 0x01FFF020)])) (.v 9 0) = some 0x7F800010 := by
  decide +kernel
theorem test_iadd_s8_wraps : after (withRegs (placed 0x0040 0 0x10090102) (vec [(1, 0x7F8010F0), (2, 0x01FFF020)])) (.v 9 0) = some 0x807F0010 := by
  decide +kernel

/-- R325 at the ends of the field: lo = 31 reads one bit, lo = 32 reads none. -/
theorem test_bfx_top : after (withRegs (placed 0x0010 0 0x28030102) (vec [(1, 0x80000001), (2, 0x0000081F)])) (.v 3 0) = some 1 := by decide +kernel
theorem test_bfx_beyond : after (withRegs (placed 0x0010 0 0x28030102) (vec [(1, 0xFFFFFFFF), (2, 0x00000820), (3, 7)])) (.v 3 0) = some 0 := by
  decide +kernel

/-- R324: a shift by the width gives 0, and copies of the top bit for SAR. -/
theorem test_shl_width : after (withRegs (placed 0 0 0x20030102) (vec [(1, 0xFFFFFFFF), (2, 32), (3, 7)])) (.v 3 0) = some 0 := by decide +kernel
theorem test_sar_width : after (withRegs (placed 0 0 0x22030102) (vec [(1, 0x80000000), (2, 32)])) (.v 3 0) = some 0xFFFFFFFF := by decide +kernel

/-- R329: an offset that takes the address below zero sets bit 60 and wraps in 56 bits. -/
theorem test_adda_below : after (withRegs (placed 0 0 0x34040206) (vec [(2, 0), (6, 0xFFFFFFFF)])) (.v 5 0) = some 0x10FFFFFF := by decide +kernel

/-- FP32: 1.5 x 2 is 3, and 1 + 2^-24 rounds to 1 under RNE (R238, R334). -/
theorem test_fmul : after (withRegs (placed 0x100 0 0x42030102) (vec [(1, 0x3FC00000), (2, 0x40000000)])) (.v 3 0) = some 0x40400000 := by decide +kernel
theorem test_fadd_ties : after (withRegs (placed 0x100 0 0x40030102) (vec [(1, 0x3F800000), (2, 0x33800000)])) (.v 3 0) = some 0x3F800000 := by
  decide +kernel

/-- R341: the exponent of the smallest subnormal is -149. -/
theorem test_fgetexp : after (withRegs (placed 0x100 0 0x61030100) (vec [(1, 1)])) (.v 3 0) = some 0xFFFFFF6B := by decide +kernel

/-- R351: lane 0 takes the value of lane 1. -/
theorem test_qswapx : after (withRegs (placed 0 0 0x80030100) (fun t => { t with vregs := [(1025, 9)] })) (.v 3 0) = some 9 := by decide +kernel

/-- R354, by hand: LRED.add over 32 lanes that hold 1 each is 32. -/
theorem test_lred : after (withRegs (placed 0 0 0x8B8401D0) (fun t => { t with vregs := (List.range 32).map (fun l => (1024 + l, 1)) })) (.s 4) =
    some 32 := by decide +kernel

/-- R222: P0 discards a compare's outcome and reads one. -/
theorem test_p0 : after (withRegs (placed 0 0 0x2CC00102) (vec [(1, 1), (2, 2)])) (.p 0 0) = some 1 := by decide +kernel

/-- R273: the type check comes before the operand check; a scalar destination of a vector source is the last of the six. -/
theorem test_type_first : causeAfter (placed 0x100 0 0x10D00404) = some 0x21 := by decide +kernel
theorem test_vector_to_scalar : causeAfter (placed 0 0 0x10840404) = some 0x26 := by decide +kernel

/-- R331: BDMAKE refuses an address with bits above 59; R396: a barrier beyond NBAR. -/
theorem test_bdmake_refuses : causeAfter (withRegs (placed 0 0 0x37848084) (fun t => { t with sregs := [(1, 0x10000000)] })) = some 0x30 := by decide +kernel
theorem test_bdmake_makes : after (withRegs (placed 0 0 0x37848084) (fun t => { t with sregs := [(0, 0x4000), (4, 0x100)] })) (.s 6) = some 0x100 := by
  decide +kernel

/-- R399: TRAP outside handler state adds one request; RTE outside it is the fault of R401. -/
theorem test_rte_outside : causeAfter (placed 0 0 0xF2000000) = some 0x57 := by decide +kernel

/-- R391: MODETYP takes effect at once, here from S32 to FP32. -/
theorem test_modetyp : (match step (placed 0 0 0x0D001000) with
    | .next t => (splitOf t low0).map (·.mode)
    | _ => none) = some 0x100 := by decide +kernel

/-- R389: EXIT by the last lanes ends the split and its team. -/
theorem test_exit : (match step (placed 0 0 0x0A000000) with
    | .next t => some (splitOf t low0, t.agenda)
    | _ => none) = some (none, [.teamEnd team0]) := by decide +kernel

/-- After reset the stages of the start come first; with the package started and nothing to do, a step starts the next cycle. -/
theorem test_start_first : startStage State.reset = some .stageA := by decide +kernel
theorem test_next_cycle : (match step { State.reset with startstat := 0x7B } with
    | .next t => some (t.cycle, t.taking)
    | _ => none) = some (1, true) := by decide +kernel

/-- Memory is kept in its one form: a byte at its default is not listed. -/
theorem test_memory_form : (writeNat (writeNat State.reset 7 2 0x0102) 7 1 0).mem = [(8, 1)] := by decide +kernel

/-! ### States that meet the hypotheses of the clauses about completion, one active lane each -/

/-- A form placed with one active lane, in a context whose first GiB is mapped by `leaf` and whose pool has one completion area, at 0x100000. -/
def rigged (mode lit w : Word) (leaf : BitVec 64) (g : Team → Team) : State :=
  let s := updCtx (withRegs (placed mode lit w) g) 0 (fun c => { c with
    ctxtr := 0xA000000000000000, spbase := 0x10000000000000, stkbase := 0x20000000000000, cmplpool := 0x0000100000000100 })
  updSplit { s with tlb := translations 0 leaf } low0 (fun sp => { sp with mask := 1 })

/-- Does a test hold of such a state, changed by `h`, and of the issue of the form, which no check of its decoding fails? -/
def rigAt (leaf : BitVec 64) (mode lit : Word) (g : Team → Team) (h : State → State) (P : State → Iss → Bool) (i : Instr) : Bool :=
  match encode i, fieldsOf i with
  | some w, some f =>
    let s := h (rigged mode lit w leaf g)
    match issuing s with
    | some q =>
      let x := issOf s q.1 q.2.1 q.2.2.1 q.2.2.2 f
      (decodeFault x (readU x)).isNone && decide (x.active ≠ 0) && s.sideLog.isEmpty && P s x
    | none => false
  | _, _ => false

def rig := rigAt 0x203

/-- The lanes of an access pass their checks on this device, and then none of them is bad, or some are. -/
def checked (x : Iss) (l1 : Option Nat) (l : List LaneAcc) (pre : List Bad) (fails : Bool) (s : State) : Bool :=
  let c := checkLanes x l s
  (pageLanes c.2).isEmpty && (okLanes c.2).all (fun p => !isRemote p.2) && (lanesOf x.n x.active ≠ []) &&
  ((badLanes c.2 ++ pre ++ (laneValues x l1 c.1 (okLanes c.2)).2).isEmpty != fails) && (fails || !(okLanes c.2).isEmpty)

/-- The lanes that pass every check, and the state that the checks leave; none where one fails or asks for a page. -/
def passes (x : Iss) (l : List LaneAcc) (s : State) : Option (State × List (LaneAcc × List Target)) :=
  let c := checkLanes x l s
  if (badLanes c.2).isEmpty && (pageLanes c.2).isEmpty then some (c.1, okLanes c.2) else none

def loads (fails : Bool) (s : State) (x : Iss) : Bool :=
  let p := throughL1 (some x.team.core) (memLanes x false (accLanes x))
  checked x (some x.team.core) p.1 p.2 fails (popIssue s)

theorem witness_LoadForms_results :
    [Instr.ld 4 4 0xD0, .ldnt 4 4 0xD0, .ldacq 4 4 0xD0].all (rig 0x100 2 (vec [(4, 0x3FFFFFFC)]) id (loads false)) = true ∧
    rig 0x100 2 (vec [(4, 0x3FFFFFFE)]) id (loads true) (.ld 4 4 0xD0) = true := by decide +kernel

def stores (fails : Bool) (s : State) (x : Iss) : Bool :=
  let p := memLanes x true (lanesOf x.n x.active)
  let c := checkLanes x p.1 (popIssue s)
  checked x none p.1 p.2 fails (popIssue s) && (storeLanes x (fun _ => 0) (okLanes c.2) c.1).2.isEmpty

theorem witness_StoreForms_results :
    rig 0x100 2 (vec [(4, 0x3FFFFFFC)]) id (stores false) (.st 4 4 0xD0) = true ∧
    rig 0x100 2 (vec [(4, 0x3FFFFFFC)]) id (fun s x => stores false s x && s.outReqs.isEmpty) (.strel 4 4 0xD0) = true ∧
    rig 0x100 2 (vec [(4, 0x3FFFFFFE)]) id (stores true) (.st 4 4 0xD0) = true ∧
    rig 0x100 0x52 (vec [(4, 0x8000)]) id (fun s x => decide (bits x.m 6 4 = 5) && s.outReqs.isEmpty && s.flushes.isEmpty) (.strel 4 4 0xD0) = true := by
  decide +kernel

/-- A descriptor of 256 elements of 4 bytes at 0x8000 from S4 on, and the index of lane 0. -/
def described (i : Word) (t : Team) : Team :=
  { vec [(4, i)] t with sregs := [(4, 0x8000), (6, 0x400), (7, 0x80000200)] }

def buffered (write fails : Bool) (s : State) (x : Iss) : Bool :=
  let ds := descOf (readNat x x.f.a 0 4)
  let r := bufLanes x ds write (lanesOf x.n x.active)
  ds.valid && checked x none r.1 r.2.1 fails (popIssue s)

theorem witness_BufferAndScaleTileForms_results :
    rig 0x100 0 (described 255) id (buffered false false) (.ldb 4 0x84 4) = true ∧
    rig 0x100 0 (described 256) id (buffered false true) (.ldb 4 0x84 4) = true ∧
    rig 0x100 0 (described 255) id (buffered false false) (.ldbz 4 0x84 4) = true ∧
    rig 0x100 0 (described 255) id (buffered true false) (.stb 4 0x84 4) = true ∧
    rig 0x100 0 (vec []) id (fun _ x => !(descOf (readNat x x.f.a 0 4)).valid) (.ldb 4 0x84 4) = true ∧
    rig 0x100 0 (fun t => { described 0 t with sregs := [(0, 3), (4, 0x8000), (6, 0x400), (7, 0x80000200)] }) id (fun s x =>
      let ds := descOf (readNat x x.f.a 0 4)
      let t := (readU x 0x80).toNat
      let c := checkLanes x [⟨x.first, { ga := BitVec.ofNat 64 (ds.base + 256 * t), n := 256, align := 1, write := false, atom := false, tags := true }⟩]
        (popIssue s)
      ds.valid && decide (ds.base % 256 = 0 ∧ (t + 1) * 256 ≤ ds.len) && !ds.wo && !(okLanes c.2).isEmpty &&
        (okLanes c.2).all (fun p => (readChecked c.1 x.block p.2 256).isSome)) (.ldsc 4 0x84 0x80) = true := by decide +kernel

theorem witness_ScratchpadForms_results :
    rig 0x100 2 (vec [(4, 0xFFC)]) id (fun _ x => (spadLanes x (accLanes x)).2.isEmpty) (.lds 4 4 0xD0) = true ∧
    rig 0x100 2 (vec [(4, 0x1000)]) id (fun _ x => (lowest (spadLanes x (accLanes x)).2).isSome) (.lds 4 4 0xD0) = true ∧
    rig 0x100 2 (vec [(4, 0xFFC)]) id (fun _ x => (spadLanes x (lanesOf x.n x.active)).2.isEmpty) (.sts 4 4 0xD0) = true ∧
    rig 0x100 2 (vec [(4, 0xFFD)]) id (fun _ x => (lowest (spadLanes x (lanesOf x.n x.active)).2).isSome) (.sts 4 4 0xD0) = true := by decide +kernel

def tagged (write fails : Bool) (s : State) (x : Iss) : Bool :=
  let w := tagChecks x write (if write then lanesOf x.n x.active else accLanes x) (popIssue s)
  (pageLanes w.2).isEmpty && ((badLanes w.2).isEmpty != fails) && (fails || !(okLanes w.2).isEmpty)

theorem witness_CacheAndTagForms_results :
    rig 0x100 0 (vec [(4, 0x8000)]) id (tagged true false) (.sttag 4 4) = true ∧
    rig 0x100 0 (vec [(4, 0x8000)]) id (tagged false false) (.ldtag 4 4) = true ∧
    rig 0x100 0 (vec [(4, 0x8010)]) id (tagged true true) (.sttag 4 4) = true ∧
    rig 0x100 1 (vec [(4, 0x8000)]) id (fun s x => decide (bits x.m 1 0 ≠ 0) &&
      (checkLanes x [⟨0, { ga := 0x8000, n := 1, align := 1, write := false, atom := false, tags := false }⟩] (popIssue s)).2.all (fun q => match q.2 with
        | .ok _ _ => true
        | _ => false)) (.cctl 4 0xD0) = true := by decide +kernel

def combines (ls : Iss → List Nat) (s : State) (x : Iss) : Bool :=
  let c := checkLanes x (atomLanes x (ls x)) (popIssue s)
  let at_ := (okLanes c.2).filterMap (fun p => match p.2 with
    | [.mem pa _ _] => some pa
    | _ => none)
  (pageLanes c.2).isEmpty && (badLanes c.2).isEmpty && decide (at_.length = 1 ∧ (okLanes c.2).length = 1) &&
    at_.all (fun pa => !poisonAt s pa (atomBits x / 8))

theorem witness_AtomicAndReductionForms_results :
    [Instr.aadd 4 4 8, .amin 4 4 8, .amax 4 4 8, .aand 4 4 8, .aor 4 4 8, .axor 4 4 8, .axchg 4 4 8, .acas 4 4 8].all
      (rig 0 0 (vec [(4, 0x3FFFFFFC)]) id (combines accLanes)) = true ∧
    rig 0x100 0 (vec [(4, 0x3FFFFFFC)]) id (combines accLanes) (.afadd 4 4 8) = true ∧
    [Instr.redadd 4 8, .redmin 4 8, .redmax 4 8, .redand 4 8, .redor 4 8, .redxor 4 8].all
      (rig 0 0 (vec [(4, 0x3FFFFFFC)]) id (combines (fun x => lanesOf x.n x.active))) = true ∧
    rig 0x100 0 (vec [(4, 0x3FFFFFFC)]) id (combines (fun x => lanesOf x.n x.active)) (.redfadd 4 8) = true := by decide +kernel

def waiting (legal met : Bool) (s : State) (x : Iss) : Bool :=
  let n := if bits x.m 0 0 = 1 then 8 else 4
  let c := checkLanes x [⟨x.first, { ga := readU64 x x.f.a, n := n, align := n, write := false, atom := false, tags := true }⟩]
    (updSplit (popIssue s) x.ref (fun sp => { sp with legal := true }))
  (waitLegal x s == legal) && !x.split.legal && (!legal || (match okLanes c.2 with
    | [(_, [.mem pa k cp])] => !Machine.fetching c.1 (.split x.ref) [.mem pa k cp] &&
      (match loadValue c.1 none x.block (.split x.ref) [.mem pa k cp] n with
        | .ok v => decide (v = readNat x x.f.b 0 (n / 4)) == met
        | .error _ => false)
    | _ => false))

theorem witness_FenceWaitAndBarrierForms_waits :
    rig 0x100 0x11 (vec []) id (fun s x => decide (bits x.m 1 0 ≠ 0 ∧ bits x.m 4 2 = 4) && s.outReqs.isEmpty) (.fence 0xD0) = true ∧
    rig 0x100 0x15 (vec []) id (fun s x => decide (bits x.m 1 0 ≠ 0 ∧ bits x.m 4 2 = 5) && s.outReqs.isEmpty && s.flushes.isEmpty) (.fence 0xD0) = true ∧
    rig 0x100 0x15 (vec []) (fun s => { s with flushes := [(flushDone, low0)] }) (fun s x =>
      decide (bits x.m 4 2 = 5 ∧ s.flushes.find? (fun f => decide (f.2 = x.ref)) = some (flushDone, x.ref)) && s.outReqs.isEmpty) (.fence 0xD0) = true ∧
    rig 0x100 0x10 (vec []) id (fun s x => decide (bits x.m 1 0 = 0) && s.outReqs.isEmpty) (.fence 0xD0) = true ∧
    rig 0x100 0x10 (fun t => { t with sregs := [(4, 0x8000)] }) id (waiting true true) (.waiteq 0xD0 0x84 0x80) = true ∧
    rig 0x100 0x10 (fun t => { t with sregs := [(4, 0x8000), (0, 1)] }) id (waiting true false) (.waiteq 0xD0 0x84 0x80) = true ∧
    rig 0x100 0x10 (fun t => { t with sregs := [(4, 0x8000)] }) id (waiting true true) (.waitne 0xD0 0x84 0x80) = true ∧
    rig 0x100 0x30 (fun t => { t with sregs := [(4, 0x8000)] }) (fun s => { s with dispatches := [] }) (waiting false true) (.waiteq 0xD0 0x84 0x80) = true := by
  decide +kernel

/-- Barrier 15 of the area holds these sixteen bytes. -/
def barred (v : Nat) (s : State) : State := writeNat s 0x1000F0 16 v

def atBarrier (init : Bool) (arr : Nat) (s : State) (x : Iss) : Bool :=
  let pa := barrierAt x.ctx x.block.area 15
  let old := readBar s pa
  decide (15 < x.disp.nbar) && s.outReqs.isEmpty && !poolRefused s x.ctx x.block.area && !poisonAt s pa 16 && (old.init == init) && decide (old.arr = arr)

theorem witness_FenceWaitAndBarrierForms_barriers :
    rig 0x100 0 (fun t => { t with sregs := [(0, 65535)] }) id (fun s x => atBarrier false 0 s x && decide ((readU x 0x80).toNat = 65535))
      (.barinit 15 0x80) = true ∧
    rig 0x100 0 (vec []) id (fun _ x => decide ((readU x 0x80).toNat = 0)) (.barinit 15 0x80) = true ∧
    rig 0x100 0 (vec []) (barred (1 + (1 <<< 16) + (1 <<< 65))) (atBarrier true 1) (.bararv 15 4) = true ∧
    rig 0x100 0 (vec []) (barred (1 <<< 65)) (atBarrier true 0) (.barexp 15 0x80) = true ∧
    rig 0x100 0 (vec []) (barred (1 + (1 <<< 16) + (1 <<< 65))) (fun s x => atBarrier true 1 s x && !(readBar s 0x1000F0).phase) (.barwait 15 0x80 4) = true ∧
    rig 0x100 0 (vec []) (barred (1 + (1 <<< 16) + (3 <<< 64))) (fun s x => atBarrier true 1 s x && (readBar s 0x1000F0).phase) (.barwait 15 0x80 4) = true ∧
    rig 0x100 0 (vec []) (barred (1 + (1 <<< 16) + (1 <<< 65))) (atBarrier true 1) (.bartest 4 15 0x80) = true ∧
    rig 0x100 0 (vec []) id (atBarrier false 0) (.bararv 15 4) = true ∧
    rig 0x100 0 (vec []) (fun s => { s with dispatches := s.dispatches.map (fun d => { d with nbar := 15 }) }) (fun _ x => decide (x.disp.nbar ≤ 15))
      (.bararv 15 4) = true ∧
    rig 0x100 0 (vec []) (fun s => { s with poison := [(0x1000F0 / 32, true)] }) (fun s x => poisonAt s (barrierAt x.ctx x.block.area 15) 16)
      (.bararv 15 4) = true := by decide +kernel

/-- The handle of slot 63 of area 0, generation 0, and its object's first byte. -/
def future (done : Byte) (s : State) : State := writeNat s 0x100FE0 1 done.toNat

def atFuture (done : Bool) (s : State) (x : Iss) : Bool :=
  let h := readU x 0x80
  let pa := futureAt x.ctx (bits h 21 6) (bits h 5 0)
  decide (handleFault s x.team.ctx h = none) && !poisonAt s pa 32 && (futDone s pa == done)

def held (h : Word) (t : Team) : Team := { t with sregs := [(0, h)] }

theorem witness_FutureForms_results :
    [Instr.fwait 0x84 0x80 0, .ftest 4 0x80 1, .fcancel 0x80].all (rig 0x100 0 (held 0x8000003F) (future 1) (atFuture true)) = true ∧
    [Instr.fwait 0x84 0x80 1, .ftest 4 0x80 0, .fcancel 0x80].all (rig 0x100 0 (held 0x8000003F) id (atFuture false)) = true ∧
    rig 0x100 0 (held 0x3F) id (fun s x => decide (handleFault s x.team.ctx (readU x 0x80) = some 0x31)) (.fwait 0x84 0x80 0) = true := by decide +kernel

def starting (refused : Bool) (s : State) (x : Iss) : Bool :=
  decide (bits x.m 3 3 = 0 ∨ bits x.m 7 4 < x.disp.nbar) && (poolRefused s x.ctx x.block.area == refused) &&
  (freeFuture x.block).any (fun k => !poisonAt s (futureAt x.ctx x.block.area k) 32) && decide (bits x.m 2 0 ≠ 5) && s.outReqs.isEmpty &&
  (blockOf s x.ref.team.disp x.ref.team.block).any (fun b => decide (x.team.ctx = b.ctx ∧ b.disp = x.ref.team.disp ∧ b.index = x.ref.team.block))

theorem witness_EngineStarts_results :
    rig 0x100 0x1 (vec []) id (fun s x => starting false s x && decide (xeQueued s x.team.core < 64)) (.xcopyt 0x84 0x80 0xD0) = true ∧
    [Instr.xcopy 0x84 0x80 0xD0, .xgather 0x84 0x80 0xD0, .xfill 0x84 0x80 0xD0].all
      (rig 0x100 0xF9 (vec []) id (fun s x => starting false s x && decide (xeQueued s x.team.core < 64))) = true ∧
    rig 0x100 0x1 (vec []) (fun s => { s with xeOps := List.replicate 64 aCopy }) (fun s x => decide (64 ≤ xeQueued s x.team.core)) (.xcopy 0x84 0x80 0xD0)
      = true ∧
    rig 0x100 0x1 (vec []) (fun s => { s with blocks := s.blocks.map (fun b => { b with futures := BitVec.allOnes 64 }) })
      (fun _ x => (freeFuture x.block).isNone) (.xfill 0x84 0x80 0xD0) = true := by decide +kernel

/-- Slot 2 bound to a grid of four elements of 4 bytes in one dimension, one rim element on each side, in one partition at 0x10000. -/
def gridded (s : State) : State := updCtx s 0 (fun c => { c with grids := [(2, { GridSlot.reset with
  bound := true, map := [0x10000]
  desc := BitVec.ofNat 512 (1 + (2 <<< 2) + (3 <<< 8) + (1 <<< 92) + (1 <<< 96) + (1 <<< 116) + (1 <<< 119)) })] })

def owned (s : State) (x : Iss) : Bool :=
  let g := slotOf x.ctx 2
  gridOk g.desc && slotBound g && decide (g.dispatch = x.ref.team.disp ∧ ownPart s g x.ref.team.block = some 0)

def stepping (want : Nat) (s : State) (x : Iss) : Bool :=
  let g := slotOf x.ctx 2
  owned s x && (freeFuture x.block).isSome && !poolRefused s x.ctx x.block.area && s.outReqs.isEmpty && decide (exchangesOf s x.team.core < 16) &&
  (match passes x [stepLane x g 0 wPSTEP x.first false] (popIssue s) with
    | some (s1, [(_, ts)]) => decide ((stepValue x s1 wPSTEP ts).map (· + 1) = some want) &&
      (match passes x [stepLane x g 0 wPSTEP x.first true] (noteReads x [(4, ts)] s1) with
        | some (_, [(_, [.mem qa 4 _])]) => decide (qa = 0x100B4) && coversPoison s qa 4
        | _ => false)
    | _ => false) && decide (deliveriesOf (gridOf g.desc) 0 ≠ [])

/-- The step words of slab 12 and PSTEP are read for the lanes of an HLD, with this outcome. -/
def halo (ready : Bool) (s : State) (x : Iss) : Bool :=
  let sl := slotOf x.ctx 2
  let gd := gridOf sl.desc
  let ix := (lanesOf x.n x.active).map (fun l => (l, (readWord x 8 0 l).toNat))
  let ks := slabsOf gd ix
  decide (ks = [12]) && (match passes x ((wPSTEP :: ks).map (fun k => stepLane x sl 0 k x.first false)) (popIssue s) with
    | some (s1, ok) => ix.all (fun p =>
      (match laneHalo gd (readS x (bits x.m 9 4)).toNat p.2 (stepRead x sl 0 s1 ok []) with
        | .ready => ready
        | .stall _ => !ready
        | _ => false))
    | none => false)

theorem witness_GridAndHaloForms_results :
    rig 0x100 0 (vec []) id (fun s _ => s.outReqs.isEmpty) (.gbind 2 0x80) = true ∧
    rig 0x100 0 (held 1) gridded (fun s x => stepping 1 s x && decide ((readU x 0x80).toNat = 1)) (.hstep 0x84 0x80 2) = true ∧
    rig 0x100 0 (held 2) gridded (fun s x => stepping 1 s x && decide ((readU x 0x80).toNat ≠ 1)) (.hstep 0x84 0x80 2) = true ∧
    rig 0x100 0 (held 0) gridded (fun s x => stepping 1 s x && decide (fld (readU x 0x80).toNat 0 8 = 0)) (.hquery 4 0x80 2) = true ∧
    rig 0x100 0 (held 2) gridded (fun s x => owned s x && decide (2 ≤ fld (readU x 0x80).toNat 0 8)) (.hquery 4 0x80 2) = true ∧
    rig 0x100 0 (held 0x0A) (fun s => updSlot (gridded s) 0 2 (fun g => { g with map := [] })) (fun s x =>
      slotBound (slotOf x.ctx 2) && (ownPart s (slotOf x.ctx 2) x.ref.team.block).isNone && decide (fld (readU x 0x80).toNat 0 8 = 0x0A))
      (.hquery 4 0x80 2) = true ∧
    rig 0x100 2 (vec [(8, 0)]) gridded (fun s x => owned s x && halo true s x) (.hld 4 8 0xD0) = true ∧
    rig 0x100 0x12 (fun t => { vec [(8, 0)] t with sregs := [(1, 1)] }) (fun s => writeNat (gridded s) 0x100B4 4 1)
      (fun s x => owned s x && halo false s x) (.hld 4 8 0xD0) = true ∧
    rig 0x100 2 (vec [(8, 4)]) gridded (fun s x => owned s x && decide (bits x.m 3 0 = 2) &&
      decide ((readWord x 8 0 0).toNat < (gridOf (slotOf x.ctx 2).desc).total ∧ slabOf (gridOf (slotOf x.ctx 2).desc) (readWord x 8 0 0).toNat = none))
      (.hld 4 8 0xD0) = true ∧
    rig 0x100 0 (vec []) id (fun _ x => !slotBound (slotOf x.ctx 2)) (.hstep 0x84 0x80 2) = true ∧
    rig 0x100 0 (vec []) (fun s => updSlot (gridded s) 0 2 (fun g => { g with map := [] })) (fun s x =>
      slotBound (slotOf x.ctx 2) && (ownPart s (slotOf x.ctx 2) x.ref.team.block).isNone) (.hstep 0x84 0x80 2) = true := by decide +kernel

/-- The device is number 0 of two, and the mapped GiB is storage of device 1. -/
def paired (s : State) : State := { s with fabcfg := 0x00010100 }

/-- The scratchpad holds an RMCAST descriptor: one byte to device 1 at address 0x8000. -/
def mcasting (s : State) : State := { paired s with blocks := s.blocks.map (fun b => { b with spad := [(0, 1), (8, 1), (9, 1), (17, 0x80)] }) }

def streaming (n : Word) (t : Team) : Team :=
  { vec [(4, 0x8000)] t with sregs := [(0, 3), (1, 1), (4, 0), (5, 0x100000)], curStream := some 3
                             streams := [(3, { Stream.reset with valid := true, target := 1, count := n })] }

theorem witness_FabricForms_results :
    rig 0x100 0 (vec []) id (fun s _ => s.outReqs.isEmpty) .rfence = true ∧
    rig 0x100 0 (vec []) (fun s => { s with reqNum := 1, outReqs := [{ newReq 1 { hdr := 0, data := [] } (.team low0 [0] [] 0 0 0 0 0 1) true with num := 0 }] })
      (fun s x => s.outReqs.any (fun q => q.write && decide (reqTeam q = some x.ref.team ∧ q.num < relMark x s))) .rfence = true ∧
    rig 0x100 0 (streaming 0) paired (fun s x => decide ((readU x 0x80).toNat = 3 ∧ (readU x 0x81).toNat = 1) && inShape s 1 && decide (devNum s ≠ 1))
      (.rstream 0x80 0x81) = true ∧
    rig 0x100 0 (streaming 0) id (fun s x => decide ((readU x 0x81).toNat = 1) && !inShape s 1) (.rstream 0x80 0x81) = true ∧
    rig 0x100 0 (fun t => { t with sregs := [(0, 0xFFFFFFFF)] }) id (fun _ x => decide ((readU x 0x80).toNat = 0xFFFFFFFF)) (.rstream 0x80 0x81) = true ∧
    rigAt 0x0001000000000203 0x100 0 (streaming 9) paired (fun s x =>
      let c := passes x [⟨x.first, { ga := 0x8000, n := 4, align := 4, write := true, atom := false, tags := false }⟩] (popIssue s)
      decide (x.team.curStream = some 3 ∧ effAddr (BitVec.ofNat 64 (readNat x 4 x.first 2)) (modOff x.m) = some 0x8000) &&
      decide (c.map (fun p => p.2.map (·.2)) = some [[.remote 0x1000000008000 4 false]]) && !readsToward s x.ref.team 1 (relMark x s) &&
      decide (unacked s x.team 3 < 128)) (.rstrel 8 4 0xD0) = true ∧
    rigAt 0x0001000000000203 0x100 0 (streaming 0) mcasting (fun s x =>
      let a := fun (ga : BitVec 64) (n al : Nat) (w tg : Bool) =>
        [(⟨x.first, { ga := ga, n := n, align := al, write := w, atom := false, tags := tg }⟩ : LaneAcc)]
      let after := fun (n : Nat) (ts : List Target) (s : State) => noteReads x [(n, ts)] (loadPass (partOfCtx s x.team.ctx) none false false ts s)
      let v := spRead x.block 0 64
      let c1 := passes x (a (readU64 x 0x84) 64 64 false true) (popIssue s)
      let c2 := c1.bind (fun c => passes x (a (readU64 x 0x84 + 64) (fld v 72 8) 1 false true) (after 64 [.spad 0] c.1))
      let c3 := c2.bind (fun c => passes x (a (BitVec.ofNat 64 (fld v 128 64)) 1 1 true false) (after (fld v 72 8) [.spad 64] c.1))
      decide ((c1.map (fun c => c.2.map (·.2))) = some [[.spad 0]] ∧ (c2.map (fun c => c.2.map (·.2))) = some [[.spad 64]] ∧
        (c3.map (fun c => c.2.map (·.2))) = some [[.remote 0x1000000008000 1 false]] ∧ freeFuture x.block = some 0) &&
      !mcastBad v (bits x.ctx.spbase 55 0) (bits x.ctx.stkbase 55 0)) (.rmcast 0x80 0x84) = true := by decide +kernel

/-- Eight rows of a team of a dispatch of four. -/
def eightRows (s : State) : State := withRegs { s with dispatches := s.dispatches.map (fun d => { d with teams := 4 }) } (fun t => { t with rows := 8 })

def multiplies (joint : Bool) (s : State) (x : Iss) : Bool :=
  let off := (readU x x.f.a).toNat
  decide ((if joint then 64 else 256) ≤ x.n ∧ bits x.m 2 0 < x.disp.nacc ∧ off % 16 = 0 ∧ mqShare s x.team < 8 ∧
    off + 63 * (16 * bits x.m 18 8) + 16 * (bits x.m 4 3 + 1) ≤ x.disp.spBytes) &&
  (!joint || (decide (4 * bits x.m 6 5 + 4 ≤ x.disp.teams ∧ x.team.key.team / 4 = bits x.m 6 5) && !diverged x))

/-- An access of a matrix form at 0x10000 passes its early checks. -/
def early (s : State) (x : Iss) (ga : BitVec 64) (align n : Nat) (w : Bool) : Bool :=
  decide (64 ≤ x.n ∧ mqShare s x.team < 8 ∧ ga ≠ 0) &&
  (earlyFault s (whoOf x x.first) { ga := ga, n := n, align := align, write := w, atom := false, tags := true }).isNone

def pointers (t : Team) : Team := { t with sregs := [(4, 0x10000), (6, 0x20000)] }

theorem witness_MatrixForms_results :
    [Instr.mmae4 0xD0 0x80 4, .mmae5 0xD0 0x80 4, .mmabf 0xD0 0x80 4, .mmahf 0xD0 0x80 4, .mmas8 0xD0 0x80 4, .mmaq4 0xD0 0x80 4].all
      (rig 0x100 0x107 (held 0xC00) eightRows (multiplies false)) = true ∧
    [Instr.mmqe4 0xD0 0x80 4, .mmqe5 0xD0 0x80 4, .mmqbf 0xD0 0x80 4, .mmqhf 0xD0 0x80 4, .mmqs8 0xD0 0x80 4, .mmqq4 0xD0 0x80 4].all
      (rig 0x100 0x107 (held 0) (fun s => updSplit (eightRows s) low0 (fun sp => { sp with mask := BitVec.ofNat 1024 (2 ^ 256 - 1) }))
        (multiplies true)) = true ∧
    rig 0x100 0x107 (held 8) eightRows (fun _ x => decide ((readU x x.f.a).toNat % 16 ≠ 0)) (.mmae4 0xD0 0x80 4) = true ∧
    rig 0x100 0 (vec []) eightRows (fun s x => decide (64 ≤ x.n ∧ 7 < x.disp.nacc ∧ mqShare s x.team < 8)) (.mzero 7) = true ∧
    rig 0x100 0x4000 pointers eightRows (fun s x => early s x (readU64 x 0x84) 16 (63 * (16 * bits x.m 19 8) + 1024) false) (.mldacc 7 0x84 0xD0) = true ∧
    rig 0x100 0x4000 pointers eightRows (fun s x => early s x (readU64 x 0x84) 16 (63 * (16 * bits x.m 19 8) + 1024) true) (.mdrain 7 0x84 0xD0) = true ∧
    rig 0x100 0x407 pointers (fun s => updSplit (eightRows s) low0 (fun sp => { sp with mask := BitVec.ofNat 1024 (2 ^ 64 - 1) })) (fun s x =>
      early s x (readU64 x 0x84) 16 (255 * (16 * bits x.m 19 8) + 64) true && early s x (readU64 x 0x86) 256 1024 true &&
      decide (x.active &&& BitVec.ofNat 1024 (2 ^ 64 - 1) = BitVec.ofNat 1024 (2 ^ 64 - 1))) (.mdraint 0xD0 0x84 0x86) = true ∧
    rig 0x100 0 (vec []) id (fun _ x => decide (x.n < 64)) (.mzero 7) = true ∧
    rig 0x100 0 (vec []) id (fun s x => s.outReqs.isEmpty && !owesV x.team (fun _ => true)) .mready = true ∧
    rig 0x100 0 (fun t => { t with inflight := [{ id := 9, flag := 0, low := true, high := false, state := .remote, writes := [{ code := 4, lane := 0, val := 0 }],
                                                  reads := [], lost := false, spoilt := [], xf := 0, trap := none }] }) id
      (fun _ x => owesV x.team (fun _ => true)) .mready = true := by decide +kernel

/-! ### States that meet the hypotheses of the clauses about the effects of events -/

/-- A team at a form, in a context whose first GiB is mapped. -/
def mapped : State := rigged 0x100 0 0 0x203 id

def okAt (c : Checked) (pa n : Nat) : Bool := match c with
  | .ok ts _ => spans ts pa n
  | _ => false

/-- A tensor of four elements of 4 bytes. -/
def tensor (base : Nat) : Nat := base + (2 <<< 64) + (1 <<< 67) + (4 <<< 72)

/-- A copy of it from 0x8000 to 0x9000 with its parameter area at 0x10000, and what its activation makes of it. -/
def copies (f : XeOp → XeOp) : State :=
  writeNat { mapped with xeOps := [f { aCopy with accepted := true }] } 0x10000 128 (tensor 0x8000 + (tensor 0x9000 <<< 512))
def copyLoaded : XeOp := { aCopy with
  accepted := true, active := true, loaded := true, count := 4, src := BitVec.ofNat 512 (tensor 0x8000), dst := BitVec.ofNat 512 (tensor 0x9000) }
def copyPiece : XePiece := { elem := 3, ga := 0x9000, place := .mem 0x9000 0, own := false, data := [1, 2, 3, 4] }

theorem witness_CopyEngineSteps_effects :
    (let o := { aCopy with accepted := true, param := 0x10000, active := true }
     okAt (xeCheck (copies (fun o => { o with param := 0x10000, active := true })) o o.param 128 64 false).2 0x10000 128 &&
      decide ((xeSetup mapped o (tensor 0x8000 + (tensor 0x9000 <<< 512))).toOption = some { copyLoaded with param := 0x10000 }) &&
      (match xeSetup mapped o (tensor 0x8000) with
        | .error _ => true
        | .ok _ => false)) = true ∧
    (let s := copies (fun _ => copyLoaded)
     xeRuns s copyLoaded && decide ((elemPair copyLoaded 0).toOption = some (some 0x8000, 0x9000)) &&
      decide (runLen s copyLoaded (some 0x8000, 0x9000) 128 1 = 4) && okAt (xeCheck s copyLoaded 0x9000 16 4 true).2 0x9000 16 &&
      okAt (xeCheck s copyLoaded 0x8000 16 4 false).2 0x8000 16) = true ∧
    (let s := copies (fun _ => { copyLoaded with next := 4, pieces := [copyPiece] })
     xePlaceable s copyLoaded copyPiece && coversPoison s 0x9000 4) = true ∧
    (let o := { copyLoaded with next := 4, placed := 16, future := 0x100FE0 }
     xeFinished (copies (fun _ => o)) o && !futDone (copies (fun _ => o)) o.future && decide (overlapBytes o = [])) = true := by decide +kernel

/-- The grid of `gridded` as a descriptor, its map at 0x20000. -/
def gridDesc : Nat := 1 + (2 <<< 2) + (3 <<< 8) + (1 <<< 92) + (1 <<< 96) + (1 <<< 116) + (1 <<< 119) + (0x20000 <<< 192)

def binds (cls : Nat) : State :=
  writeNat (writeNat { binding with tlb := mapped.tlb, ctxs := mapped.ctxs, dispatches := binding.dispatches.map (fun d => { d with cls := cls }) }
    0x4000 64 gridDesc) 0x20000 16 0x10000
def exchanged (begun spoilt : Bool) (next : Nat) : State := { gridded mapped with
  exchanges := [{ id := 8, team := team0, ctx := 0, core := 0, spart := 0, entry := 0, lane := 0, pc := 0, slot := 2, part := 0, owner := 0, step := 1,
                  future := some 0x100FE0, handle := 0, fail := none, stored := [], placed := 0, cancelled := false }]
  deliveries := [{ id := 9, exch := 8, disp := 0, target := 0, slab := 12, begun := begun, next := next, pollAt := 0, spoilt := spoilt.toNat, isOver := false,
                   page := none, failed := [] }] }

theorem witness_HaloEngineSteps_effects :
    (let s := binds 0
     let b := (s.binds.getLast?).getD { id := 0, split := low0, ctx := 0, core := 0, slot := 0, ga := 0, lane := 0, pc := 0, word := 0, desc := none, map := none,
                                         todo := [], page := none, failed := [] }
     let w : Who := { ctx := 0, via := .die 0, spBytes := 0x1000, slot := 0, lane := 0, failed := [] }
     let c := checkAccess s w { ga := 0x4000, n := 64, align := 64, write := false, atom := false, tags := true }
     let d := checkAccess c.1 w { ga := 0x20000, n := 16, align := 16, write := false, atom := false, tags := true }
     let gd := gridOf (BitVec.ofNat 512 (readMem s 0x4000 64))
     okAt c.2 0x4000 64 && gridOk (BitVec.ofNat 512 (readMem s 0x4000 64)) && okAt d.2 0x20000 16 && partOk (BitVec.ofNat 128 (readMem s 0x20000 16)) &&
      decide (gd.count = 1 ∧ (storageCheck b gd [partOf 0x10000] d.1).2 = .fine)) = true ∧
    (let s := exchanged true false 0
     (dlvOf s 9).any (fun p => let (g, tp, sp) := dlvGrid s p.1 p.2
       let i := sourceIndex g 0 12 0
       let at_ := indexOf g (slabCoords g 12 0)
       decide (slabCount g 12 = 1 ∧ (slabSource g 0 12).1 = .map) && !elemStored g sp p.2 i &&
        okAt (dlvCheck s p.1 p.2 (elemGa g sp i) 4 false).2 0x10004 4 && okAt (dlvCheck s p.1 p.2 (elemGa g tp at_) 4 true).2 0x10000 4 &&
        okAt (dlvCheck s p.1 p.2 (stepGa g tp wPSTEP) 60 false).2 0x100B4 60 && okAt (dlvCheck s p.1 p.2 (stepGa g tp 12) 4 true).2 0x100B0 4 &&
        !dlvBehind s p.1 p.2 && !dlvRemote s 9 && !futDone s 0x100FE0)) = true := by decide +kernel

/-- The clearing of tile 1 at its end, with its operation in flight. -/
def cleared : State := withRegs (clearing true true) (fun t => { t with
  inflight := [{ id := 9, flag := 0, low := true, high := false, state := .matrix 5, writes := [], reads := [], lost := false, spoilt := [], xf := 0,
                 trap := none }] })

theorem witness_QuadrantSteps_end :
    (cleared.mqOps.find? (fun q => decide (q.id = 5) && q.started)).isSome = true ∧ (blockOf cleared 0 0).isSome = true ∧
    (teamOf cleared team0).any (fun u => u.inflight.any (fun e => decide (e.id = 9))) = true := by decide +kernel

/-- A package of two devices whose link is up, with an ACL that lets device 1 write all of partition 0. -/
def meeting : State := { one with fabcfg := 0x00010100, linksUp := [0], peerInc := [(1, 1)], fabacl := [(1, 0x3FFFF00003)] }

/-- A request of device 1 for four bytes at 0x8000. -/
def asks (kind : Nat) (f : Hdr → Hdr) : Packet := packetOf (f { kind := kind, src := 1, dst := 0, inc := 1, bytes := 3, addr := 0x8000 }) 0x11223344 4

theorem witness_FabricTargetSteps_fresh :
    ([kLOAD, kSTORE, kATOMIC, kREDUCE, kRELEASE, kCLOSE].map (asks · id) ++ [asks kMCAST (fun h => { h with npeer := 1 }),
        asks kATOMIC (fun h => { h with op := 11 }), asks kREDUCE (fun h => { h with op := 11 })]).all (fun p =>
      let h := hdrOf p
      incFits meeting h && decide (h.retx = 0 ∧ h.src ≠ devNum meeting ∧ reqError meeting h = none ∧ h.count ≤ settled meeting h) &&
        (route meeting h.src).isSome && streamRoom meeting h) = true ∧
    (let h := hdrOf (asks kSTORE (fun h => { h with addr := 0x3FFFFFFFFFFC }))
     incFits meeting h && (reqError meeting h).isSome) = true ∧
    (let h := hdrOf (asks kSTORE (fun h => { h with retx := 1 }))
     aclPasses meeting h && (cachedReply meeting h).isNone) = true ∧
    settled meeting (hdrOf (asks kRELEASE (fun h => { h with count := 1 }))) < 1 ∧
    (let full := { meeting with streamTab := List.replicate 4096 (newStream (hdrOf (asks kSTORE (fun h => { h with src := 2, cnt := 1 })))) }
     [kSTORE, kRELEASE].all (fun k => let h := hdrOf (asks k (fun h => { h with cnt := 1 }))
       incFits full h && aclPasses full h && !streamRoom full h)) = true := by decide +kernel

/-- A load or a store of the team at device 1, number 7, sent in cycle 0, and its operation in flight. -/
def waitingFor (write : Bool) (busy : Option (BitVec 64)) : State :=
  let s := { meeting with cycle := 512, fabrto := 0x04000400 }
  let q : OutReq := { dev := 1, reqid := 7, packet := asks (if write then kSTORE else kLOAD) (fun h => { h with src := 0, dst := 1, reqid := 7 }),
                      waiter := .team low0 [0] [0] 4 1 9 0x1000 0x8000 0, num := 0, queued := false, room := false, tries := 0, sent := 0, busyAt := busy, write := write }
  withRegs { s with outReqs := [q] } (fun t => { t with remote := write.toNat, inflight := if write then [] else
    [{ id := 9, flag := 0, low := true, high := false, state := .remote, writes := [{ code := 4, lane := 0, val := 0 }], reads := [], lost := false,
       spoilt := [], xf := 0, trap := none }] })

theorem witness_FabricSourceSteps_answers :
    [(kDATA, false), (kACK, true), (kERROR, true), (kBUSY, true)].all (fun p =>
      let s := waitingFor p.2 none
      let h := hdrOf (asks p.1 (fun h => { h with cls := 1, reqid := 7 }))
      incFits s h && (answered s h).any (fun q => decide (q.write = p.2 ∧ s.outReqs = [q]))) = true ∧
    (sentReq (waitingFor true (some 0)) 1 7).any (fun q => decide (q.busyAt = some 0)) = true ∧
    (sentReq (waitingFor true none) 1 7).any (fun q => timedOut (waitingFor true none) q &&
      decide (q.tries < bits (waitingFor true none).fabrto 27 24)) = true ∧ (route meeting 1).isSome = true ∧ portUp meeting 0 = true ∧
    owes (waitingFor true none) team0 = true ∧ owes meeting team0 = false ∧
    escapes { meeting with cycle := 2048, portQ := [{ port := 0, pkt := asks kLOAD id, since := 0 }] } 0 = true := by decide +kernel

/-- A page request with number 4 that the split waits for, a service call of it, and the answer that the call waits for. -/
def paging : State := splitHolds (updCtx one 0 (fun c => { c with pages := [{ id := 2, seq := some 4, page := 8, answered := none }] })) (.page [2]) none 0
def calling : State := updCtx one 0 (fun c => { c with
  svcring := 0x8000100000000010, svcQ := [{ split := low0, code := 1, reg := 4, pc := 0x1000, lanes := 1 }] })
def called : State := splitHolds (updCtx one 0 (fun c => { c with svcOpen := [{ seq := 6, split := low0, reg := 4, lanes := 1, pa := 0x10040 }] }))
  (.service 6 4 1) none 0

theorem witness_RingSteps_effects :
    (ctxOf paging 0).pages.any (fun p => decide (p.seq = some 4 ∧ p.answered = none)) = true ∧ (splitOf paging low0).map (·.hold) = some (.page [2]) ∧
    (ctxOf calling 0).svcQ.length = 1 ∧ 64 + 64 * (lanesOf 32 1).length < svcFree (ctxOf calling 0) ∧
    (ctxOf called 0).svcOpen.any (svcWaits called) = true := by decide +kernel

/-- The dispatch after its last block, and the team parked with lane 0 to try again. -/
def overDispatch : State := { State.reset with dispatches := [{ oneTeamDispatch 0 with live := 0 }] }
def parking : State := updSplit (withRegs one (fun t => { t with parked := true })) low0 (fun sp => { sp with resume := some { mask := 1, atInstr := true } })

theorem witness_TeamSteps_effects :
    owes bare team0 = false ∧ (dispOf overDispatch 0).any dispOver = true ∧ dispOwes overDispatch 0 = false ∧ coversPoison overDispatch (cmdPa overDispatch ⟨0, 0, 0⟩ + 0x38) 4 = true ∧
    (teamOf parking team0).any (fun u => u.parked && !u.ended) = true ∧ (splitOf parking low0).any (fun sp => sp.resume.isSome && sp.clause.isSome) = true ∧ teamSaved parking team0 = false ∧
    teamSaved { one with blocks := one.blocks.map (fun b => { b with saved := true }) } team0 = true := by decide +kernel

/-- Context 0 enabled with an address space, a pool and apertures; a LAUNCH of one block stands in queue 0, its kernel at 0x40000. -/
def kernel : Nat := 0x5A394B48 + (1 <<< 32) + (127 <<< 49) + (1 <<< 104) + (64 <<< 128) + (8 <<< 256)
def launch : Nat := 1 + (0x40000 <<< 64) + (1 <<< 192) + (1 <<< 224) + (1 <<< 256)
def launching (accepted : Bool) : State :=
  let d : Cmd := { k := 0, body := BitVec.ofNat 512 launch, at_ := 0 }
  let q : Queue := { Queue.reset with cq := 0x8000600000000010, tail := 1, head := if accepted then 1 else 0, order := if accepted then [d] else [] }
  let s := updCtx { State.reset with startstat := 0x7B, tlb := translations 1 0x203 } 0 (fun c => { c with
    ctxtr := 0x8001000000000000, spbase := 0x10000000000000, stkbase := 0x20000000000000, cmplpool := 0x8000100000000100, queues := [(0, q)] })
  writeNat (writeNat s 0x40000 64 kernel) 0x10000 64 launch

theorem witness_CommandSteps_launch :
    decodeList (launching false) = [(0, 0)] ∧
    (let s := launching true
     let c : CmdRef := ⟨0, 0, 0⟩
     let k := checkAccess s (deviceWho 0) { ga := 0x40000, n := 64, align := 64, write := false, atom := false, tags := true }
     let q := queueOf (ctxOf s 0) 0
     decide (q.taken = [] ∧ q.page = none) && !failedPage q 0x40000 64 && !unlaunchable s 0 && okAt k.2 0x40000 64 && !headerXn k.1 0 0x40000 && decide (headerFault (readMem s 0x40000 64) = none) &&
      (cmdOf s c).any (fun d => decide (launchFault s c d (kernelOf kernel) = none) && !readersFull s c d)) = true := by decide +kernel

/-- The launched dispatch before its block is placed, and the same of class CONC. -/
def launched (cls : Nat) : State := { launching true with dispatches := [{ oneTeamDispatch 0 with
  next := 0, live := 0, rows := 1, teams := 1, spBytes := 0, nbar := 0, nacc := 0, cls := cls }] }

theorem witness_PlacementSteps_effects :
    (let s := launched 1
     (reservedNow s).isNone && (placeList s).all (fun d => (refusal s d).isNone) && (servedFirst s (placeList s)).any (fun p =>
       !p.2.claim && decide (nextBlock s p.1 = some (0, none) ∧ p.2.seats ≠ []))) = true ∧
    (dispOf (launched 0) 0).any (fun d => (reserveCores 0 (toPlace (launched 0) d) (launched 0) []).isSome) = true ∧
    (let s := updCtx { one with dispatches := one.dispatches.map (fun d => { d with cls := 1 }) } 0 (fun c => { c with ctxsave := 0x8010000000000400 })
     (residentBlocks s 0).any (fun b => victimBlock s b && decide (blockOf s 0 0 = some b)) && (dispOf s 0).any (fun d => (imageFit s d).isSome)) = true := by
  decide +kernel

/-- A posted write of function 0 that has not gone, and one that a read waits for. -/
def posting (sent : Bool) : State := { State.reset with postedNum := 1, posted := [{ fn := 0, num := 0, pieces := [(0x8000, [1])], sent := sent, reg := none }] }

theorem witness_NetworkSteps_posted :
    (posting false).posted.find? (fun p => decide (p.fn = 0)) ≠ none ∧ (∃ p ∈ (posting true).posted, p.fn = 0 ∧ p.num < (posting true).postedNum) ∧
    fnReaches State.reset 0 0x8000 4 = true ∧ egress State.reset 0 = true ∧ portUp meeting 0 = true := by decide +kernel

/-- The split of a rig with other contents. -/
def splitAs (f : Split → Split) (s : State) : State := updSplit s low0 f

theorem witness_BranchForms_results :
    rig 0x100 0 (vec [(4, 1)]) id (fun _ x => readTrue x 4 0) (.brany 4 0xD0) = true ∧ rig 0x100 0 (vec []) id (fun _ x => !readTrue x 4 0) (.brany 4 0xD0) = true ∧
    rig 0x100 0 (held 2) id (fun _ x => decide ((readU64 x 0x80).extractLsb' 60 4 = 0 ∧ bits (readU64 x 0x80) 1 0 ≠ 0)) (.calli 0x84 0x80) = true ∧
    rig 0x100 0 (held 4) id (fun _ x => decide ((readU64 x 0x80).extractLsb' 60 4 = 0 ∧ bits (readU64 x 0x80) 1 0 = 0)) (.ret 0x80) = true ∧
    rig 0x100 0 (vec [(4, 7)]) id (fun _ x => decide ((readWord x 4 0 0).toNat + 1 = x.clause.lits.length)) (.btbl 4) = true ∧
    rig 0x100 0 (vec [(4, 8)]) id (fun _ x => decide ((readWord x 4 0 0).toNat = x.clause.lits.length)) (.btbl 4) = true := by decide +kernel

def diverges (x : Iss) : Bool :=
  let yes := maskOf x.n (fun l => laneIn x.active l && readTrue x 4 l)
  decide (yes = 1 ∧ x.split.mask &&& ~~~yes = 2)

theorem witness_DivergentBranch_results :
    rig 0x100 0 (vec [(4, 1)]) (splitAs (fun sp => { sp with mask := 3 })) (fun _ x => diverges x && (splitIn x.team true).isNone) (.brp 0xD0 4 0xD0) = true ∧
    [6, 7].map (fun n => rig 0x100 0 (vec [(4, 1)]) (splitAs (fun sp => { sp with mask := 3, stack := List.replicate n (.rejoin 0x3000 3 0 0) }))
      (fun _ x => diverges x && decide (x.disp.ssDepth < x.split.stack.length + 2)) (.brp 0xD0 4 0xD0)) = [false, true] := by decide +kernel

theorem witness_JoinAndExitForms_results :
    rig 0x100 0 (vec []) (splitAs (fun sp => { sp with stack := [.pending 0x1000 2 0x2000 0] })) (fun _ x => decide (x.clause.addr = 0x1000)) .join = true ∧
    rig 0x100 0 (vec []) (splitAs (fun sp => { sp with stack := [.rejoin 0x1000 3 0 0] })) (fun _ x => decide (x.clause.addr = 0x1000)) .join = true ∧
    rig 0x100 0 (vec []) (fun s => withRegs (splitAs (fun sp => { sp with dualJoin := some 0x1000 }) s) (fun t => { t with
      high := t.low.map (fun sp => { sp with mask := 2, pc := 0x1000, hold := .join }) })) (fun _ x => decide (x.split.stack = []) &&
      (splitIn x.team true).any (fun p => decide (p.hold = .join ∧ p.pc = x.clause.addr))) .join = true ∧
    rig 0x100 0 (vec []) (splitAs (fun sp => { sp with stack := [.pending 0x3000 2 0x2000 0] })) (fun s x =>
      decide (x.split.mask &&& ~~~x.active = 0) && (popFind x (x.team.absent ||| x.active) x.split x.split.stack (popIssue s)).isSome) .exit = true ∧
    rig 0x100 0 (vec []) (splitAs (fun sp => { sp with stack := [.pending 0x3000 1 0x2000 0] })) (fun s x =>
      (popFind x (x.team.absent ||| x.active) x.split x.split.stack (popIssue s)).isNone) .exit = true := by decide +kernel

/-- In handler state, entered with the lanes it has now. -/
def handling (wrote : Bool) (s : State) : State := splitAs (fun sp => { sp with
  handler := some { mask := 1, depth := 0, clause := if wrote then none else sp.clause, pos := sp.pos, wrote := wrote } }) s

theorem witness_TrapForms_results :
    rig 0x100 0 (vec []) id (fun _ x => decide (x.split.handler = none)) (.trap 4) = true ∧
    rig 0x100 0 (vec []) (handling true) (fun _ x => decide (x.split.handler ≠ none)) (.trap 4) = true ∧
    [true, false].all (fun w => rig 0x100 0 (vec []) (handling w) (fun _ x => x.split.handler.any (fun h =>
      decide (h.mask = x.split.mask ∧ h.depth = x.split.stack.length ∧ h.wrote = w) && (h.clause.isNone == w))) .rte) = true := by decide +kernel

theorem witness_ServiceAndDebugForms_results :
    rig 0x100 0 (vec []) (fun s => { updCtx s 0 (fun c => { c with svcring := 0x8000100000000010 }) with flushes := [(flushDone, low0)] }) (fun s x =>
      decide (bits x.ctx.svcring 63 63 = 1 ∧ x.team.remote = 0 ∧ s.flushes.find? (fun f => decide (f.2 = x.ref)) = some (flushDone, x.ref))) (.svc 0 4) = true ∧
    rig 0x100 0 (vec []) id (fun s x => decide (mapGet none (coreOf s x.team.core).bbhint 0 = none)) (.bbhint 0x84) = true ∧
    rig 0x100 0 (vec []) (fun s => updCtx s 0 (fun c => { c with ctxpol := 4 })) (fun _ x => decide (bits x.ctx.ctxpol 2 2 = 1)) (.bkpt 4) = true := by
  decide +kernel

/-- A dispatch's block in the save area, and one whose save is under way. -/
theorem witness_PlacementSteps_saved :
    (let s := { launched 1 with blocks := [{ oneTeamBlock 0 with saved := true }], dispatches := (launched 1).dispatches.map (fun d => { d with next := 1, live := 1 })
                                teams := [{ oneRowTeam team0 (oneWordClause 0) with nv := 128 }] }
     (reservedNow s).isNone && (placeList s).all (fun d => (refusal s d).isNone) && (servedFirst s (placeList s)).any (fun p =>
       !p.2.claim && (nextBlock s p.1).any (fun q => q.2.isSome))) = true ∧
    (let s := { one with blocks := one.blocks.map (fun b => { b with saving := true, saveAt := 5 }) }
     (blockOf s 0 0).any (fun b => b.saving && !b.saved && !b.exited && decide (b.saveAt ≠ s.cycle)) && (dispOf s 0).isSome) = true := by decide +kernel

/-- Gate 0 in a replay of a region at 0x10000 with a record of cycle 5 and one of cycle 9. -/
def replaying : State :=
  let g := { Gate.reset with cfg := 2, mode := 2, log := 0x0000100000000010, endAt := 64 }
  writeNat (writeNat { State.reset with cycle := 5, gates := [(0, g)] } 0x10000 32 (5 + (16 <<< 96))) 0x10020 32 (9 + (16 <<< 96))

theorem witness_CuffSteps_replay :
    (let x := gateOf replaying 0
     let r := recordAt replaying 0 x.pos.toNat
     let next := recordAt replaying 0 (x.pos.toNat + r.size)
     decide (x.mode = 2 ∧ x.pos.toNat < x.endAt.toNat ∧ r.bad = false ∧ r.kind ≤ 2 ∧ r.cyc = 5 ∧ x.pos.toNat + r.size < x.endAt.toNat ∧ next.bad = false ∧
       next.kind ≤ 4 ∧ 5 < next.cyc)) = true ∧
    (recordAt (writeNat replaying 0x10000 32 (5 + (1 <<< 70) + (16 <<< 96))) 0 0).bad = true ∧ replaying.cycle.toNat = 5 := by decide +kernel

/-- The queue of an entry with an operation in flight whose results are in hand, and a user trap that may be taken. -/
def ready : State :=
  let q : TrapReq := { high := false, num := 0, cause := 1, exc := 0, info := 4, lanes := 1, addr := 0x1004 }
  let e : InFlight := { id := 9, flag := 11, low := true, high := false, state := .ready, writes := [{ code := 127, lane := 31, val := 7 }],
                        reads := [], lost := false, spoilt := [], xf := 0, trap := none }
  withRegs one (fun t => { t with trapVec := 0x2000, traps := [q], inflight := [e] })

theorem witness_CycleSteps_complete :
    (teamOf ready team0).any (fun u => (u.inflight.find? (fun f => decide (f.id = 9) && decide (f.state = .ready))).isSome &&
      decide (31 < min 1024 (lanes u)) && decide ((trapsOf u false).length = 1) && (splitIn u false).any (fun sp => canRun ready u sp && sp.handler.isNone)) = true := by
  decide +kernel

/-- R320: of the lanes 0, 4 to 7 that issue under HLP beside a split of the lanes 1 to 3, the first quad is UNKNOWN and the second is not. -/
theorem test_mixed_quad : rig 0x4000 0 (fun t => { t with high := t.low.map (fun sp => { sp with mask := 0xE }) })
    (splitAs (fun sp => { sp with mask := 0xF1 }))
    (fun _ x => decide (x.theirs = 0xE) && decide (x.mixed = 0xF) && decide (x.sure = 0xF0)) (.iadd 4 4 8) = true := by decide +kernel

/-- R342: products that are infinities of opposite sign raise invalid, with a quiet NaN as the addend too. -/
theorem test_dot_infinities : fDot false [(.inf false, fOne), (.inf true, fOne)] (.nan false) = (.nan false, excIV) := by decide

end Sys2Proof.Tests
end

section
/-! THE CANONICAL FORM OF STORAGE. Every operation of the model keeps memory, tags and poison marks in canonical form (log 2), and so
does every step (O60).

Storage is written in few places: the write of bytes at a home slice and the scrubs (proved in Laws/Memory.lean), the setting of a tag, a
poison mark, and power-on. Every other operation leaves the three maps as they are or is put together from operations that keep the form.
So there is one lemma for each operation, in the order of the model's files, which says that it keeps the form and cites the lemmas of the
operations it calls; an operation that takes a continuation keeps the form if the continuation does. -/
namespace Sys2Proof.Machine
open Sys2Proof.Forms

variable {s : State}

/-! ### The general rules -/

/-- The next state of an outcome, if there is one, has its storage in canonical form. -/
def KeepsCanonical : Host.Outcome State Fault Refusal → Prop
  | .next t => Canonical t
  | .fault _ => True
  | .refused _ => True

/-- A loop keeps the form if its body does. -/
theorem foldl_canonical {α : Type} {f : State → α → State} {l : List α} (hf : ∀ s a, Canonical s → Canonical (f s a)) (hc : Canonical s) :
    Canonical (l.foldl f s) :=
  List.foldlRecOn l f hc (fun s hs a _ => hf s a hs)

/-- A loop that gathers something beside the state keeps the form if its body does. -/
theorem foldl_fst_canonical {α β : Type} {f : State × β → α → State × β} {l : List α} {p : State × β}
    (hf : ∀ p a, Canonical p.1 → Canonical (f p a).1) (hc : Canonical p.1) : Canonical (l.foldl f p).1 :=
  List.foldlRecOn (motive := fun p => Canonical p.1) l f hc (fun p hp a _ => hf p a hp)

/-- The state of a pair that an operation answers, taken apart. -/
theorem Canonical.of_fst {β : Type} {p : State × β} {t : State} {r : β} (hc : Canonical p.1) (e : p = (t, r)) : Canonical t := by
  subst e
  exact hc

/-! ### The named operations (R443 to R449, R439 to R441) -/

theorem updCtx_canonical {c f} (hc : Canonical s) : Canonical (updCtx s c f) := hc
theorem updCore_canonical {c f} (hc : Canonical s) : Canonical (updCore s c f) := hc
theorem updQueue_canonical {c n f} (hc : Canonical s) : Canonical (updQueue s c n f) := hc
theorem updSlot_canonical {c g f} (hc : Canonical s) : Canonical (updSlot s c g f) := hc
theorem updGate_canonical {g f} (hc : Canonical s) : Canonical (updGate s g f) := hc
theorem updTeam_canonical {k f} (hc : Canonical s) : Canonical (updTeam s k f) := hc
theorem updSplit_canonical {r f} (hc : Canonical s) : Canonical (updSplit s r f) := hc
theorem updBlock_canonical {disp i f} (hc : Canonical s) : Canonical (updBlock s disp i f) := hc
theorem updDisp_canonical {id f} (hc : Canonical s) : Canonical (updDisp s id f) := hc
theorem addAgenda_canonical {l} (hc : Canonical s) : Canonical (addAgenda s l) := hc
theorem nowAgenda_canonical {l} (hc : Canonical s) : Canonical (nowAgenda s l) := hc

theorem sliceTouch_canonical {part cp low pa n write} (hc : Canonical s) : Canonical (sliceTouch s part cp low pa n write) := by
  grind [sliceTouch, Canonical]

theorem sliceClean_canonical {pa drop} (hc : Canonical s) : Canonical (sliceClean s pa drop) := by grind [sliceClean, foldl_canonical, Canonical]
theorem sliceDrop_canonical {f} (hc : Canonical s) : Canonical (sliceDrop s f) := hc
theorem l1Drop_canonical {core} (hc : Canonical s) : Canonical (l1Drop s core) := hc
theorem l1Kill_canonical {core pa n} (hc : Canonical s) : Canonical (l1Kill s core pa n) := hc
theorem l1KillIn_canonical {part pa n} (hc : Canonical s) : Canonical (l1KillIn s part pa n) := hc
theorem l1DropIn_canonical {part} (hc : Canonical s) : Canonical (l1DropIn s part) := hc
theorem l1Take_canonical {core pa n} (hc : Canonical s) : Canonical (l1Take s core pa n) := hc
theorem spWrite_canonical {disp block o n f} (hc : Canonical s) : Canonical (spWrite s disp block o n f) := hc
theorem newStamp_canonical {r} (hc : Canonical s) : Canonical (newStamp s r) := by grind [newStamp, updSplit_canonical, Canonical]
theorem queueRec_canonical {ctx r} (hc : Canonical s) : Canonical (queueRec s ctx r) := hc
theorem parkTeam_canonical {k} (hc : Canonical s) : Canonical (parkTeam s k) := hc

theorem stopDispatch_canonical {id status} (hc : Canonical s) : Canonical (stopDispatch s id status) := by
  grind [stopDispatch, updQueue_canonical, updDisp_canonical, addAgenda_canonical, parkTeam_canonical, foldl_canonical]

theorem raiseFault_canonical {r f} (hc : Canonical s) : Canonical (raiseFault s r f) := by
  grind [raiseFault, updSplit_canonical, updDisp_canonical, queueRec_canonical, parkTeam_canonical, stopDispatch_canonical]

theorem raiseNotice_canonical {t cause pc info} (hc : Canonical s) : Canonical (raiseNotice s t cause pc info) := hc
theorem raiseLuNotice_canonical {ctx cause disp block core info} (hc : Canonical s) : Canonical (raiseLuNotice s ctx cause disp block core info) := hc
theorem requestTrap_canonical {r q} (hc : Canonical s) : Canonical (requestTrap s r q) := hc
theorem takeTrap_canonical {r q} (hc : Canonical s) : Canonical (takeTrap s r q) := hc

/-! ### Translation, the checks and accesses at the home slice -/

theorem tlbKeep_canonical {via e} (hc : Canonical s) : Canonical (tlbKeep via e s) := by grind [tlbKeep, foldl_canonical, Canonical]
theorem walkKeep_canonical {die l} (hc : Canonical s) : Canonical (walkKeep die l s) := by grind [walkKeep, foldl_canonical, Canonical]
theorem tlbDrop_canonical {part f} (hc : Canonical s) : Canonical (tlbDrop s part f) := hc

theorem translate_canonical {via c va} (hc : Canonical s) : Canonical (translate s via c va).1 := by
  grind [translate, tlbKeep_canonical, walkKeep_canonical]

theorem checkPiece_canonical {w a tag va n} (hc : Canonical s) : Canonical (checkPiece s w a tag va n).1 := by grind [checkPiece, translate_canonical]

theorem checkPieces_canonical {w a tag l} (hc : Canonical s) : Canonical (checkPieces s w a tag l).1 := by
  fun_induction checkPieces <;> grind [checkPieces, checkPiece_canonical]

theorem checkAccess_canonical {w a} (hc : Canonical s) : Canonical (checkAccess s w a).1 := by grind [checkAccess, checkPieces_canonical]

theorem requestPage_canonical {c page rec0} (hc : Canonical s) : Canonical (requestPage s c page rec0).1 := by
  grind [requestPage, updCtx_canonical, queueRec_canonical]

theorem slicePass_canonical {part low write ts} (hc : Canonical s) : Canonical (slicePass part low write ts s) := by
  grind [slicePass, sliceTouch_canonical, foldl_canonical]

theorem loadPass_canonical {part l1 keep low ts} (hc : Canonical s) : Canonical (loadPass part l1 keep low ts s) := by
  grind [loadPass, sliceTouch_canonical, l1Take_canonical, foldl_canonical]

theorem writeTargets_canonical {core part v l} {u} (he : writeTargets core s part v l = some u) (hc : Canonical s) : Canonical u := by
  fun_induction writeTargets <;> grind [writeTargets, sliceTouch_canonical, writeMemBy_canonical]

theorem writeChecked_canonical {core part disp block ts n v} {u} (he : writeChecked core s part disp block ts n v = some u) (hc :
    Canonical s) : Canonical u := by
  unfold writeChecked at he
  split at he
  · exact Option.some.inj he ▸ spWrite_canonical hc
  · exact writeTargets_canonical he hc

/-! ### Barriers and futures -/

theorem barrierSeen_canonical {pa} (hc : Canonical s) : Canonical (barrierSeen s pa) := by grind [barrierSeen, Canonical]
theorem writeBar_canonical {pa b} (hc : Canonical s) : Canonical (writeBar s pa b) := by grind [writeBar, writeNat_canonical, barrierSeen_canonical]
theorem barInit_canonical {pa count} (hc : Canonical s) : Canonical (barInit s pa count) := writeBar_canonical hc
theorem barArriveAt_canonical {pa} (hc : Canonical s) : Canonical (barArriveAt s pa) := writeBar_canonical hc
theorem barBytesAt_canonical {pa n} (hc : Canonical s) : Canonical (barBytesAt s pa n) := writeBar_canonical hc
theorem barExpectAt_canonical {pa d} (hc : Canonical s) : Canonical (barExpectAt s pa d) := writeBar_canonical hc
theorem barShort_canonical {pa n} (hc : Canonical s) : Canonical (barShort s pa n) := writeBar_canonical hc
theorem futComplete_canonical {pa r} (hc : Canonical s) : Canonical (futComplete s pa r) := by grind [futComplete, writeNat_canonical]
theorem futCancel_canonical {pa} (hc : Canonical s) : Canonical (futCancel s pa) := by grind [futCancel, futComplete_canonical, Canonical]

theorem futAllocate_canonical {b slot eng} (hc : Canonical s) : Canonical (futAllocate s b slot eng).1 := by
  grind [futAllocate, updBlock_canonical, writeNat_canonical]

theorem futRetire_canonical {c h} (hc : Canonical s) : Canonical (futRetire s c h) := by grind [futRetire, updBlock_canonical, writeNat_canonical]

/-! ### Packets, requests and what they bring -/

theorem noteOccupancy_canonical (hc : Canonical s) : Canonical (noteOccupancy s) := by grind [noteOccupancy, Canonical]
theorem toPort_canonical {inp p pkt} (hc : Canonical s) : Canonical (toPort s inp p pkt) := hc
theorem inject_canonical {p} (hc : Canonical s) : Canonical (inject s p).1 := by grind [inject, addAgenda_canonical, toPort_canonical]

theorem lateFault_canonical {r cause pc ls acc ga info2} (hc : Canonical s) : Canonical (lateFault s r cause pc ls acc ga info2) := by
  grind [lateFault, raiseFault_canonical]

theorem updFlight_canonical {k id f} (hc : Canonical s) : Canonical (updFlight s k id f) := hc
theorem settleFlight_canonical {k id} (hc : Canonical s) : Canonical (settleFlight s k id) := by grind [settleFlight, updFlight_canonical]
theorem sendOut_canonical {q} (hc : Canonical s) : Canonical (sendOut s q) := by grind [sendOut, addAgenda_canonical, inject_canonical, Canonical]
theorem sendWaiting_canonical (hc : Canonical s) : Canonical (sendWaiting s) := by grind [sendWaiting, sendOut_canonical, foldl_canonical, Canonical]
theorem request_canonical {q0} (hc : Canonical s) : Canonical (request s q0) := by grind [request, updTeam_canonical, sendOut_canonical, Canonical]

theorem retireReq_canonical {q} (hc : Canonical s) : Canonical (retireReq s q) := by
  grind [retireReq, updTeam_canonical, sendWaiting_canonical, Canonical]

/-! ### The lane-cycle counters -/

theorem laneWriteback_canonical {e} (hc : Canonical s) : Canonical (laneWriteback s e) := by grind [laneWriteback, writeNat_canonical]

theorem laneAdd_canonical {core ctx idx n} (hc : Canonical s) : Canonical (laneAdd s core ctx idx n) := by
  grind [laneAdd, updCore_canonical, addAgenda_canonical]

theorem laneCharge_canonical {core ctx pc c n} (hc : Canonical s) : Canonical (laneCharge s core ctx pc c n) := laneAdd_canonical hc

theorem chargeRow_canonical {t mask active pc k row} (hc : Canonical s) : Canonical (chargeRow s t mask active pc k row) := by
  grind [chargeRow, laneCharge_canonical]

theorem laneFlush_canonical {core ctx} (hc : Canonical s) : Canonical (laneFlush s core ctx) := by
  grind [laneFlush, updCore_canonical, laneWriteback_canonical, foldl_canonical]

theorem traceCounterWriteback_canonical {core} (hc : Canonical s) : Canonical (traceCounterWriteback core s) := by
  grind [traceCounterWriteback, updCore_canonical, laneWriteback_canonical]

theorem execTraceCounterWriteback_keeps (hc : Canonical s) : KeepsCanonical (execTraceCounterWriteback s) := by
  unfold execTraceCounterWriteback; split; exacts [traceCounterWriteback_canonical hc, hc]

/-! ### Retiring, holds and faults of the issuing split -/

theorem passTurn_canonical {k retired} (hc : Canonical s) : Canonical (passTurn s k retired) := by grind [passTurn, updBlock_canonical]
theorem settleTurn_canonical {b} (hc : Canonical s) : Canonical (settleTurn s b) := by grind [settleTurn, updBlock_canonical]
theorem endStep_canonical {r} (hc : Canonical s) : Canonical (endStep s r) := by grind [endStep, updSplit_canonical, raiseNotice_canonical]
theorem chargePasses_canonical {x} (hc : Canonical s) : Canonical (chargePasses x s) := by grind [chargePasses, chargeRow_canonical, foldl_canonical]

theorem countIssue_canonical {x} (hc : Canonical s) : Canonical (countIssue x s) := by
  grind [countIssue, updSplit_canonical, newStamp_canonical, chargePasses_canonical]

theorem retire_canonical {x} (hc : Canonical s) : Canonical (retire x s) := by
  grind [retire, updTeam_canonical, newStamp_canonical, passTurn_canonical, endStep_canonical, countIssue_canonical]

theorem retireTo_canonical {x target} (hc : Canonical s) : Canonical (retireTo x target s) := by
  grind [retireTo, updSplit_canonical, newStamp_canonical, passTurn_canonical, endStep_canonical, countIssue_canonical]

theorem holdAt_canonical {x h} (hc : Canonical s) : Canonical (holdAt x h s) := by
  unfold holdAt
  split
  · exact endStep_canonical (passTurn_canonical hc)
  · exact endStep_canonical (passTurn_canonical hc)
  · exact hc

theorem faultAt_canonical {x cause info} (hc : Canonical s) : Canonical (faultAt x cause info s) := raiseFault_canonical hc

theorem laneFault_canonical {x cause bad acc addr write info2} (hc : Canonical s) : Canonical (laneFault x cause bad acc addr write info2 s) :=
  raiseFault_canonical hc

theorem objectPoison_canonical {x} (hc : Canonical s) : Canonical (objectPoison x s) := laneFault_canonical hc
theorem popIssue_canonical (hc : Canonical s) : Canonical (popIssue s) := hc
theorem chargeIdle_canonical {x} (hc : Canonical s) : Canonical (chargeIdle x s) := by grind [chargeIdle, laneCharge_canonical]

/-- An instruction form keeps the form if its effect does: beside it, only a decode fault and the charge of an idle pipe remain (R273). -/
theorem issue_keeps {i : Instr} {eff : Iss → State → State} (heff : ∀ x s, Canonical s → Canonical (eff x s)) (hc : Canonical s) :
    KeepsCanonical (issue i s eff) := by
  unfold issue
  split
  · dsimp only
    split
    · exact faultAt_canonical (popIssue_canonical hc)
    · exact chargeIdle_canonical (heff _ _ (popIssue_canonical hc))
  · trivial

/-! ### The mould of the computing forms -/

theorem fixedForm_canonical {x sr cause f} (hc : Canonical s) : Canonical (fixedForm x sr cause f s) := by
  grind [fixedForm, updTeam_canonical, updSplit_canonical, requestTrap_canonical, retire_canonical]

theorem addFlight_canonical {x setx state writes reads xf trap} (hc : Canonical s) : Canonical (addFlight x setx state writes reads xf trap s) := hc

theorem executionForm_canonical {x sr cause f} (hc : Canonical s) : Canonical (executionForm x sr cause f s) := by
  grind [executionForm, updTeam_canonical, retire_canonical, addFlight_canonical]

/-! ### Addresses, tags and buffer descriptors -/

theorem execBdmake_keeps {d a b} (hc : Canonical s) : KeepsCanonical (execBdmake d a b s) :=
  issue_keeps (fun x s hc => by grind [faultAt_canonical, fixedForm_canonical, Canonical]) hc

theorem execBdnarrow_keeps {d a b} (hc : Canonical s) : KeepsCanonical (execBdnarrow d a b s) :=
  issue_keeps (fun x s hc => by grind [faultAt_canonical, fixedForm_canonical, Canonical]) hc

theorem execBdquery_keeps {d a b} (hc : Canonical s) : KeepsCanonical (execBdquery d a b s) :=
  issue_keeps (fun x s hc => by grind [faultAt_canonical, fixedForm_canonical, Canonical]) hc

/-! ### Exchanges between lanes -/

theorem moveForm_canonical {x src} (hc : Canonical s) : Canonical (moveForm x src s) := fixedForm_canonical hc

theorem execWrlane_keeps {d a b} (hc : Canonical s) : KeepsCanonical (execWrlane d a b s) :=
  issue_keeps (fun x s hc => by grind [updTeam_canonical, retire_canonical, Canonical]) hc

/-! ### The side log, releases and watches -/

theorem parkAtWait_canonical {x gone} (hc : Canonical s) : Canonical (parkAtWait x gone s) := hc
theorem holdMarked_canonical {x st} (hc : Canonical s) : Canonical (holdMarked x st s) := hc

theorem logThen_canonical {x} {eff : State → State} (heff : ∀ s, Canonical s → Canonical (eff s)) (hc : Canonical s) :
    Canonical (logThen x eff s) := by
  grind [logThen, holdAt_canonical, parkAtWait_canonical]

theorem releaseThen_canonical {x scope} {eff : State → State} (heff : ∀ s, Canonical s → Canonical (eff s)) (hc : Canonical s) :
    Canonical (releaseThen x scope eff s) := by
  refine logThen_canonical (fun s hc => ?_) hc
  grind [holdMarked_canonical, addAgenda_canonical, Canonical]

theorem dropWatches_canonical {r} (hc : Canonical s) : Canonical (dropWatches s r) := hc
theorem watchLine_canonical {r pa} (hc : Canonical s) : Canonical (watchLine s r pa).1 := by grind [watchLine, Canonical]
theorem watchSpad_canonical {r off} (hc : Canonical s) : Canonical (watchSpad s r off).1 := by grind [watchSpad, Canonical]
theorem waitOn_canonical {x pa} (hc : Canonical s) : Canonical (waitOn x pa s) := holdAt_canonical (watchLine_canonical hc)
theorem acquire_canonical {x scope} (hc : Canonical s) : Canonical (acquire x scope s) := by grind [acquire, updTeam_canonical, l1Drop_canonical]

theorem leaveWait_canonical {x scope} (hc : Canonical s) : Canonical (leaveWait x scope s) :=
  retire_canonical (acquire_canonical (dropWatches_canonical hc))

/-! ### The accesses of an instruction -/

theorem checkLanes_canonical {x l} (hc : Canonical s) : Canonical (checkLanes x l s).1 := by
  fun_induction checkLanes <;> grind [checkLanes, checkAccess_canonical]

theorem askPages_canonical {x accCode write l} (hc : Canonical s) : Canonical (askPages x accCode write l s).1 := by
  fun_induction askPages <;> grind [askPages, requestPage_canonical]

theorem reportLanes_canonical {x bad atInstr accCode write} (hc : Canonical s) : Canonical (reportLanes x bad atInstr accCode write s) := by
  grind [reportLanes, raiseFault_canonical]

theorem bankRecord_canonical {x late offs} (hc : Canonical s) : Canonical (bankRecord x late offs s) := by
  grind [bankRecord, updCtx_canonical, updCore_canonical, writeNat_canonical]

theorem conflicts_canonical {x l} (hc : Canonical s) : Canonical (conflicts x l s) := by
  grind [conflicts, updSplit_canonical, chargeRow_canonical, bankRecord_canonical, foldl_canonical, foldl_fst_canonical]

theorem counted_canonical {k h} (hc : Canonical s) : Canonical (counted s k h).1 := by grind [counted, updTeam_canonical]
theorem teamRequest_canonical {t h v n w} (hc : Canonical s) : Canonical (teamRequest s t h v n w) := request_canonical (counted_canonical hc)
theorem fetchAsk_canonical {who h ts} (hc : Canonical s) : Canonical (fetchAsk s who h ts) := by grind [fetchAsk, request_canonical, foldl_canonical]
theorem fetchDrop_canonical {who} (hc : Canonical s) : Canonical (fetchDrop s who) := hc
theorem fetchForget_canonical {r} (hc : Canonical s) : Canonical (fetchForget s r) := hc
theorem noteReads_canonical {x l} (hc : Canonical s) : Canonical (noteReads x l s) := hc

theorem settleThen_canonical {x accCode write l} {perform : List (LaneAcc × List Target) → List Bad → State → State}
    (hperform : ∀ v w s, Canonical s → Canonical (perform v w s)) (hc : Canonical s) : Canonical (settleThen x accCode write l perform s) := by
  grind [settleThen, holdAt_canonical, parkAtWait_canonical, checkLanes_canonical, askPages_canonical]

theorem askLanes_canonical {x ok} (hc : Canonical s) : Canonical (askLanes x ok s) := by grind [askLanes, fetchAsk_canonical, foldl_canonical]

theorem loadLanes_canonical {x lc sx extra} {after : State → State} {ok bad} (hafter : ∀ s, Canonical s → Canonical (after s)) (hc :
    Canonical s) : Canonical (loadLanes x lc sx extra after ok bad s) := by
  grind [loadLanes, loadPass_canonical, retire_canonical, holdAt_canonical, addFlight_canonical, reportLanes_canonical, conflicts_canonical,
    fetchForget_canonical, noteReads_canonical, askLanes_canonical, foldl_canonical]

theorem loadForm_canonical {x lc sx l pre extra} {after : State → State} (hafter : ∀ s, Canonical s → Canonical (after s)) (hc :
    Canonical s) : Canonical (loadForm x lc sx l pre extra after s) :=
  settleThen_canonical (fun _ _ _ hc => loadLanes_canonical hafter hc) hc

theorem noteSpad_canonical {k ts n} (hc : Canonical s) : Canonical (noteSpad k ts n s) := by
  unfold noteSpad
  split <;> exact hc

theorem spoilRows_canonical {k ga n} (hc : Canonical s) : Canonical (spoilRows s k ga n) := hc

theorem storePieces_canonical {t r lane pc ga ts n v} {u} (he : storePieces s t r lane pc ga ts n v = some u) (hc : Canonical s) : Canonical u := by
  unfold storePieces at he
  dsimp only at he
  split at he
  · exact Option.some.inj he ▸ foldl_canonical (fun _ _ hc => teamRequest_canonical hc) (spoilRows_canonical hc)
  · obtain ⟨s1, h1, rfl⟩ := Option.map_eq_some_iff.1 he
    exact noteSpad_canonical (writeChecked_canonical h1 (spoilRows_canonical hc))

theorem writeForm_canonical {x accCode l pre op data} {perform : List (LaneAcc × List Target) → State → State × List Bad}
    (hperform : ∀ v s, Canonical s → Canonical (perform v s).1) (hc : Canonical s) : Canonical (writeForm x accCode l pre op data perform s) := by
  grind [writeForm, retire_canonical, holdAt_canonical, checkLanes_canonical, askPages_canonical, reportLanes_canonical,
      conflicts_canonical, Canonical]

theorem storeLanes_canonical {x data ok} (hc : Canonical s) : Canonical (storeLanes x data ok s).1 := by
  grind [storeLanes, storePieces_canonical, foldl_fst_canonical]

theorem storeForm_canonical {x l pre data} (hc : Canonical s) : Canonical (storeForm x l pre data s) := by
  grind [storeForm, writeForm_canonical, storeLanes_canonical]

/-! ### Atomics and reductions -/

theorem atomAt_canonical {core part disp block ts op w v c} {u r} (he : atomAt core s part disp block ts op w v c = some (u, r)) (hc :
    Canonical s) : Canonical u := by
  unfold atomAt at he
  split at he
  · cases he
    exact spWrite_canonical hc
  · dsimp only at he
    split at he
    · cases he
    · cases he
      exact atomMemBy_canonical _ _ _ _ _ (sliceTouch_canonical hc)
  · cases he
    exact hc

theorem atomPerform_canonical {x kind accCode op w flight l} (hc : Canonical s) : Canonical (atomPerform x kind accCode op w flight l s).1 := by
  fun_induction atomPerform <;> grind [atomPerform, teamRequest_canonical, noteSpad_canonical, spoilRows_canonical, atomAt_canonical]

theorem atomForm_canonical {x op} (hc : Canonical s) : Canonical (atomForm x op s) := by
  unfold atomForm
  split
  · exact retire_canonical hc
  refine settleThen_canonical (fun ok bad s hc => ?_) hc
  grind [addFlight_canonical, retire_canonical, reportLanes_canonical, conflicts_canonical, noteReads_canonical, atomPerform_canonical, Canonical]

theorem redForm_canonical {x op} (hc : Canonical s) : Canonical (redForm x op s) := by
  grind [redForm, retire_canonical, writeForm_canonical, atomPerform_canonical]

/-! ### Control transfers and divergence -/

theorem spinCount_canonical {x target back} (hc : Canonical s) : Canonical (spinCount x target back s) := hc
theorem transfer_canonical {x back target} (hc : Canonical s) : Canonical (transfer x back target s) := retireTo_canonical (spinCount_canonical hc)

theorem spillAll_canonical {x write l} (hc : Canonical s) : Canonical (spillAll x write l s).1 := by
  fun_induction spillAll <;> grind [spillAll, checkAccess_canonical, writeTargets_canonical]

theorem spillFault_canonical {x write c ga} (hc : Canonical s) : Canonical (spillFault x write c ga s) := by grind [spillFault, raiseFault_canonical]

theorem spillThen_canonical {x write es} {eff : State → State} (heff : ∀ s, Canonical s → Canonical (eff s)) (hc : Canonical s) :
    Canonical (spillThen x write es eff s) := by
  grind [spillThen, requestPage_canonical, holdAt_canonical, spillAll_canonical, spillFault_canonical]

theorem pushThen_canonical {x entries} {eff : State → State} (heff : ∀ s, Canonical s → Canonical (eff s)) (hc : Canonical s) :
    Canonical (pushThen x entries eff s) := by
  grind [pushThen, updSplit_canonical, faultAt_canonical, spillThen_canonical]

theorem vanish_canonical {r} (hc : Canonical s) : Canonical (vanish s r) := by grind [vanish, updTeam_canonical, addAgenda_canonical]
theorem lowerRefs_canonical {k} (hc : Canonical s) : Canonical (lowerRefs k s) := hc

theorem execBra_keeps {b} (hc : Canonical s) : KeepsCanonical (execBra b s) :=
  issue_keeps (fun x s hc => by grind [retire_canonical, transfer_canonical, Canonical]) hc

theorem execBrany_keeps {a b} (hc : Canonical s) : KeepsCanonical (execBrany a b s) :=
  issue_keeps (fun x s hc => by grind [retire_canonical, transfer_canonical, Canonical]) hc

theorem execBrall_keeps {a b} (hc : Canonical s) : KeepsCanonical (execBrall a b s) :=
  issue_keeps (fun x s hc => by grind [retire_canonical, transfer_canonical, Canonical]) hc

theorem execCall_keeps {d b} (hc : Canonical s) : KeepsCanonical (execCall d b s) :=
  issue_keeps (fun x s hc => by grind [updTeam_canonical, retire_canonical, transfer_canonical, Canonical]) hc

theorem pairTarget_canonical {x code} {eff : BitVec 56 → State → State} (heff : ∀ v s, Canonical s → Canonical (eff v s)) (hc :
    Canonical s) : Canonical (pairTarget x code eff s) := by
  grind [pairTarget, raiseFault_canonical]

theorem execCalli_keeps {d a} (hc : Canonical s) : KeepsCanonical (execCalli d a s) :=
  issue_keeps (fun x s hc => by grind [updTeam_canonical, retire_canonical, transfer_canonical, pairTarget_canonical, Canonical]) hc

theorem execRet_keeps {a} (hc : Canonical s) : KeepsCanonical (execRet a s) :=
  issue_keeps (fun x s hc => by grind [retire_canonical, transfer_canonical, pairTarget_canonical, Canonical]) hc

theorem divergeDual_canonical {x t n target join} (hc : Canonical s) : Canonical (divergeDual x t n target join s) :=
  newStamp_canonical (transfer_canonical (updTeam_canonical hc))

theorem execBrp_keeps {d a b} (hc : Canonical s) : KeepsCanonical (execBrp d a b s) :=
  issue_keeps (fun x s hc => by grind [updSplit_canonical, retire_canonical, transfer_canonical, pushThen_canonical, divergeDual_canonical,
    Canonical]) hc

theorem joinThen_canonical {x} {eff : State → State} (heff : ∀ s, Canonical s → Canonical (eff s)) (hc : Canonical s) :
    Canonical (joinThen x eff s) := by
  refine logThen_canonical (fun s hc => ?_) hc
  split
  · exact holdMarked_canonical hc
  · exact heff s hc

theorem joinForm_canonical {x} (hc : Canonical s) : Canonical (joinForm x s) := by
  grind [joinForm, updTeam_canonical, updSplit_canonical, retire_canonical, holdAt_canonical, spillThen_canonical, lowerRefs_canonical,
    joinThen_canonical]

theorem execBtbl_keeps {a} (hc : Canonical s) : KeepsCanonical (execBtbl a s) :=
  issue_keeps (fun x s hc => by grind [updSplit_canonical, retire_canonical, faultAt_canonical, transfer_canonical, pushThen_canonical, Canonical]) hc

theorem execExit_keeps (hc : Canonical s) : KeepsCanonical (execExit s) :=
  issue_keeps (fun x s hc => by grind [updTeam_canonical, updSplit_canonical, retire_canonical, spillThen_canonical, vanish_canonical, Canonical]) hc

theorem modeForm_canonical {x mode} (hc : Canonical s) : Canonical (modeForm x mode s) := retire_canonical (updSplit_canonical hc)
theorem execNop_keeps (hc : Canonical s) : KeepsCanonical (execNop s) := issue_keeps (fun x s hc => by grind [retire_canonical, Canonical]) hc

theorem execYield_keeps (hc : Canonical s) : KeepsCanonical (execYield s) :=
  issue_keeps (fun x s hc => by grind [newStamp_canonical, retire_canonical, Canonical]) hc

theorem execSleep_keeps {a} (hc : Canonical s) : KeepsCanonical (execSleep a s) :=
  issue_keeps (fun x s hc => by grind [updSplit_canonical, retire_canonical, Canonical]) hc

/-! ### Grid objects and exchanges -/

theorem stepPlace_canonical {c failed ga write} (hc : Canonical s) : Canonical (stepPlace s c failed ga write).1 := by
  grind [stepPlace, checkAccess_canonical]

theorem luReport_canonical {p cause} (hc : Canonical s) : Canonical (luReport s p cause) := hc

theorem stepStore_canonical {p failed} (hc : Canonical s) : Canonical (stepStore s p failed) := by
  grind [stepStore, sliceTouch_canonical, writeNat_canonical, requestPage_canonical, stepPlace_canonical, luReport_canonical, Canonical]

theorem stepWrite_canonical {c g p k v} (hc : Canonical s) : Canonical (stepWrite s c g p k v) := by grind [stepWrite, stepStore_canonical, Canonical]

theorem stepAnswer_canonical {c id failed} (hc : Canonical s) : Canonical (stepAnswer c id failed s) := by
  grind [stepAnswer, stepStore_canonical, foldl_canonical, Canonical]

theorem releaseAreas_canonical (hc : Canonical s) : Canonical (releaseAreas s) := by
  grind [releaseAreas, scrubRange_canonical, foldl_canonical, Canonical]

theorem exchReport_canonical {e f} (hc : Canonical s) : Canonical (exchReport s e f) := by grind [exchReport, queueRec_canonical]
theorem bindsResume_canonical {core} (hc : Canonical s) : Canonical (bindsResume s core) := hc

theorem exchangeDone_canonical {id} (hc : Canonical s) : Canonical (exchangeDone s id) := by
  unfold exchangeDone
  split
  · exact hc
  · split
    · exact hc
    · dsimp only
      split
      · exact hc
      · refine bindsResume_canonical (releaseAreas_canonical ?_)
        grind [exchReport_canonical, futComplete_canonical, queueRec_canonical, Canonical]

theorem startExchange_canonical {x g} (hc : Canonical s) : Canonical (startExchange s x g) := exchangeDone_canonical (addAgenda_canonical hc)

/-! ### Starts of copies and the fabric forms -/

theorem startForm_canonical {x kind} (hc : Canonical s) : Canonical (startForm x kind s) := by
  unfold startForm
  split
  · exact faultAt_canonical hc
  split
  · exact faultAt_canonical hc
  split
  · exact retire_canonical hc
  split
  · exact faultAt_canonical hc
  split
  · exact objectPoison_canonical hc
  split
  · exact holdAt_canonical hc
  exact releaseThen_canonical (fun s hc => retire_canonical (addFlight_canonical ((futAllocate_canonical hc).of_eq rfl rfl rfl))) hc

theorem closeStream_canonical {t n} (hc : Canonical s) : Canonical (closeStream s t n) := by
  grind [closeStream, updTeam_canonical, teamRequest_canonical]

theorem execRstream_keeps {a b} (hc : Canonical s) : KeepsCanonical (execRstream a b s) :=
  issue_keeps (fun x s hc => by grind [updTeam_canonical, retire_canonical, holdAt_canonical, faultAt_canonical, closeStream_canonical, Canonical]) hc

theorem execRstrel_keeps {d a b} (hc : Canonical s) : KeepsCanonical (execRstrel d a b s) := by
  refine issue_keeps (fun x s hc => ?_) hc
  dsimp only
  split
  · exact faultAt_canonical hc
  split
  · exact retire_canonical hc
  split
  · exact reportLanes_canonical hc
  refine settleThen_canonical (fun ok bad s hc => ?_) hc
  split
  · split
    · exact laneFault_canonical hc
    refine logThen_canonical (fun s hc => ?_) hc
    split
    · exact holdMarked_canonical hc
    split
    · exact holdAt_canonical hc
    · exact retire_canonical (updTeam_canonical (teamRequest_canonical hc))
  · exact laneFault_canonical hc
  · exact reportLanes_canonical hc

theorem readThen_canonical {x ga n align} {eff : Nat → State → State} (heff : ∀ v s, Canonical s → Canonical (eff v s)) (hc : Canonical s) :
    Canonical (readThen x ga n align eff s) := by
  grind [readThen, loadPass_canonical, holdAt_canonical, reportLanes_canonical, fetchAsk_canonical, fetchForget_canonical, noteReads_canonical,
    settleThen_canonical]

theorem sendMcast_canonical {x slot rec0 payload pa tc} (hc : Canonical s) : Canonical (sendMcast x slot rec0 payload pa tc s) :=
  request_canonical (retire_canonical (addFlight_canonical (fetchForget_canonical (futAllocate_canonical hc))))

theorem execRmcast_keeps {d a} (hc : Canonical s) : KeepsCanonical (execRmcast d a s) :=
  issue_keeps (fun x s hc => by grind [translate_canonical, retire_canonical, faultAt_canonical, objectPoison_canonical, reportLanes_canonical,
    fetchForget_canonical, settleThen_canonical, readThen_canonical, sendMcast_canonical]) hc

theorem execRfence_keeps (hc : Canonical s) : KeepsCanonical (execRfence s) :=
  issue_keeps (fun x s hc => by grind [retire_canonical, holdMarked_canonical, Canonical]) hc

/-! ### The copy engine -/

theorem updXe_canonical {id f} (hc : Canonical s) : Canonical (updXe s id f) := hc
theorem xeFail_canonical {id f} (hc : Canonical s) : Canonical (xeFail s id f) := hc

theorem xeCheck_canonical {o ga n align write} (hc : Canonical s) : Canonical (xeCheck s o ga n align write).1 := by
  grind [xeCheck, checkAccess_canonical]

theorem xePark_canonical {o page f} (hc : Canonical s) : Canonical (xePark s o page f) := by
  grind [xePark, requestPage_canonical, updXe_canonical, xeFail_canonical]

theorem xeReadThen_canonical {o ga n align elem c side} {eff : Nat → List Target → State → State}
    (heff : ∀ v w s, Canonical s → Canonical (eff v w s)) (hc : Canonical s) : Canonical (xeReadThen o ga n align elem c side eff s) := by
  grind [xeReadThen, slicePass_canonical, fetchAsk_canonical, fetchDrop_canonical, xeFail_canonical, xeCheck_canonical, xePark_canonical]

theorem xeAccept_canonical {core} (hc : Canonical s) : Canonical (xeAccept core s) := by
  grind [xeAccept, updCore_canonical, updTeam_canonical, Canonical]

theorem execXeAccept_keeps (hc : Canonical s) : KeepsCanonical (execXeAccept s) := by
  unfold execXeAccept; split; exacts [xeAccept_canonical hc, hc]

theorem xeLoad_canonical {o} (hc : Canonical s) : Canonical (xeLoad o s) := by grind [xeLoad, updXe_canonical, xeFail_canonical, xeReadThen_canonical]
theorem xeActivate_canonical {core} (hc : Canonical s) : Canonical (xeActivate core s) := by grind [xeActivate, updXe_canonical, xeLoad_canonical]

theorem execXeActivate_keeps (hc : Canonical s) : KeepsCanonical (execXeActivate s) := by
  unfold execXeActivate; split; exacts [xeActivate_canonical hc, hc]

theorem xePut_canonical {o m d place data rd} (hc : Canonical s) : Canonical (xePut o m d place data rd s) := hc

theorem xeMove_canonical {o a d m} (hc : Canonical s) : Canonical (xeMove o a d m s) := by
  grind [xeMove, xeFail_canonical, xeCheck_canonical, xePark_canonical, xeReadThen_canonical, xePut_canonical]

theorem xeNext_canonical {o} (hc : Canonical s) : Canonical (xeNext o s) := by
  grind [xeNext, updXe_canonical, xeFail_canonical, xeReadThen_canonical, xeLoad_canonical, xeMove_canonical]

theorem xePieceIssue_canonical {core} (hc : Canonical s) : Canonical (xePieceIssue core s) := by
  grind [xePieceIssue, updCore_canonical, xeNext_canonical]

theorem execXePieceIssue_keeps (hc : Canonical s) : KeepsCanonical (execXePieceIssue s) := by
  unfold execXePieceIssue; split; exacts [xePieceIssue_canonical hc, hc]

theorem engineSpad_canonical {disp block a data} (hc : Canonical s) : Canonical (engineSpad s disp block a data) :=
  updBlock_canonical (spWrite_canonical hc)

theorem objReport_canonical {o} (hc : Canonical s) : Canonical (objReport s o) := hc

theorem byteArrival_canonical {o b p} (hc : Canonical s) : Canonical (byteArrival o b p s) := by
  grind [byteArrival, barBytesAt_canonical, xeFail_canonical, objReport_canonical]

theorem countPiece_canonical {o p} (hc : Canonical s) : Canonical (countPiece o p s) := hc

theorem xePlace_canonical {o p} (hc : Canonical s) : Canonical (xePlace o p s) := by
  grind [xePlace, sliceTouch_canonical, writeMemBy_canonical, request_canonical, updXe_canonical, xeFail_canonical, engineSpad_canonical,
    byteArrival_canonical, countPiece_canonical]

theorem xePiecePlace_canonical {core} (hc : Canonical s) : Canonical (xePiecePlace core s) := by
  grind [xePiecePlace, updXe_canonical, xePlace_canonical]

theorem execXePiecePlace_keeps (hc : Canonical s) : KeepsCanonical (execXePiecePlace s) := by
  unfold execXePiecePlace; split; exacts [xePiecePlace_canonical hc, hc]

theorem spoilOverlap_canonical {o} (hc : Canonical s) : Canonical (spoilOverlap o s) := by
  grind [spoilOverlap, writeMem_canonical, spWrite_canonical, foldl_canonical, Canonical]

theorem shortArrivals_canonical {o} (hc : Canonical s) : Canonical (shortArrivals o s) := by
  grind [shortArrivals, barShort_canonical, objReport_canonical, foldl_canonical]

theorem memberArrival_canonical {o} (hc : Canonical s) : Canonical (memberArrival o s).1 := by
  grind [memberArrival, barArriveAt_canonical, objReport_canonical]

theorem closeEngine_canonical {o} (hc : Canonical s) : Canonical (closeEngine o s) := by grind [closeEngine, request_canonical, foldl_canonical]

theorem xeOperationEnd_canonical {id} (hc : Canonical s) : Canonical (xeOperationEnd id s) := by
  grind [xeOperationEnd, queueRec_canonical, futComplete_canonical, fetchDrop_canonical, releaseAreas_canonical, objReport_canonical,
    spoilOverlap_canonical, shortArrivals_canonical, memberArrival_canonical, closeEngine_canonical, Canonical]

theorem execXeOperationEnd_keeps (hc : Canonical s) : KeepsCanonical (execXeOperationEnd s) := by
  unfold execXeOperationEnd; split; exacts [xeOperationEnd_canonical hc, hc]

theorem engineCancel_canonical {id} (hc : Canonical s) : Canonical (engineCancel id s) := by
  grind [engineCancel, exchangeDone_canonical, updXe_canonical, Canonical]

theorem execEngineCancel_keeps (hc : Canonical s) : KeepsCanonical (execEngineCancel s) := by
  unfold execEngineCancel; split; exacts [engineCancel_canonical hc, hc]

/-! ### Bindings and deliveries of Brim -/

theorem bindOver_canonical {b} (hc : Canonical s) : Canonical (bindOver s b) := hc

theorem bindFault_canonical {b cause acc ga info} (hc : Canonical s) : Canonical (bindFault s b cause acc ga info) :=
  raiseFault_canonical (bindOver_canonical hc)

theorem bindPark_canonical {b page ga} {refused : State → State} (hrefused : ∀ s, Canonical s → Canonical (refused s)) (hc : Canonical s) :
    Canonical (bindPark s b page ga refused) := by
  grind [bindPark, requestPage_canonical, Canonical]

theorem bindRead_canonical {b t d ga n align} {eff : Nat → State → State} (heff : ∀ v s, Canonical s → Canonical (eff v s)) (hc :
    Canonical s) : Canonical (bindRead b t d ga n align eff s) := by
  grind [bindRead, checkAccess_canonical, slicePass_canonical, fetchAsk_canonical, bindFault_canonical, bindPark_canonical]

theorem pageCheck_canonical {b va stepLo stepHi} (hc : Canonical s) : Canonical (pageCheck s b va stepLo stepHi).1 := by
  unfold pageCheck
  dsimp only
  split
  · exact hc
  split <;> rename_i heq <;> exact (translate_canonical hc).of_fst heq

theorem storagePages_canonical {b lo stepLo hi y z} (hc : Canonical s) : Canonical (storagePages b lo stepLo hi y z s).1 := by
  fun_induction storagePages <;> grind [storagePages, pageCheck_canonical]

theorem storageCheck_canonical {b g l} (hc : Canonical s) : Canonical (storageCheck b g l s).1 := by
  fun_induction storageCheck <;> grind [storageCheck, storagePages_canonical]

theorem spoilPart_canonical {c g e} (hc : Canonical s) : Canonical (spoilPart c g e s) := by
  grind [spoilPart, writeNat_canonical, checkAccess_canonical, foldl_canonical, Canonical]

theorem initialExchange_canonical {b g p} (hc : Canonical s) : Canonical (initialExchange b g p s) := startExchange_canonical hc

theorem bindExchanges_canonical {b g l} (hc : Canonical s) : Canonical (bindExchanges b g l s) := by
  fun_induction bindExchanges <;> grind [bindExchanges, bindOver_canonical, initialExchange_canonical, Canonical]

theorem bindSlot_canonical {b desc map} (hc : Canonical s) : Canonical (bindSlot b desc map s) := by
  grind [bindSlot, updSlot_canonical, stepWrite_canonical, spoilPart_canonical, bindExchanges_canonical, foldl_canonical]

theorem bindMap_canonical {b d desc map} (hc : Canonical s) : Canonical (bindMap b d desc map s) := by
  unfold bindMap
  dsimp only
  split
  · exact bindFault_canonical hc
  split <;> rename_i heq <;> have h1 := (storageCheck_canonical hc).of_fst heq
  · exact bindFault_canonical h1
  · exact bindPark_canonical (fun _ hc => bindFault_canonical hc) h1
  · exact bindSlot_canonical h1

theorem bindKeep_canonical {b f} (hc : Canonical s) : Canonical (bindKeep b f s) := hc

theorem bindDesc_canonical {b t d desc} (hc : Canonical s) : Canonical (bindDesc b t d desc s) := by
  grind [bindDesc, bindFault_canonical, bindRead_canonical, bindMap_canonical, bindKeep_canonical]

theorem gridBindRequest_canonical {op} (hc : Canonical s) : Canonical (gridBindRequest op s) := by
  unfold gridBindRequest
  split
  · exact hc
  split
  · exact hc
  dsimp only
  split
  · exact bindExchanges_canonical hc
  split
  · exact hc
  split
  · split
    · exact bindOver_canonical hc
    · exact bindFault_canonical hc
  split
  · exact bindFault_canonical hc
  split
  · exact bindDesc_canonical hc
  · exact bindRead_canonical (fun _ _ hc => bindDesc_canonical (bindKeep_canonical hc)) hc

theorem execGridBindRequest_keeps (hc : Canonical s) : KeepsCanonical (execGridBindRequest s) := by
  unfold execGridBindRequest; split; exacts [gridBindRequest_canonical hc, hc]

theorem updDelivery_canonical {id f} (hc : Canonical s) : Canonical (updDelivery s id f) := hc
theorem updExch_canonical {id f} (hc : Canonical s) : Canonical (updExch s id f) := hc

theorem slotReleased_canonical {c n} (hc : Canonical s) : Canonical (slotReleased c n s) := by
  grind [slotReleased, updSlot_canonical, addAgenda_canonical, stepWrite_canonical, foldl_canonical]

theorem dlvOver_canonical {d e} (hc : Canonical s) : Canonical (dlvOver s d e) :=
  slotReleased_canonical (exchangeDone_canonical (fetchDrop_canonical (updDelivery_canonical hc)))

theorem dlvRequest_canonical {d elem h v n} (hc : Canonical s) : Canonical (dlvRequest s d elem h v n) := request_canonical hc

theorem dlvFail_canonical {d e f} (hc : Canonical s) : Canonical (dlvFail s d e f) := by
  grind [dlvFail, updExch_canonical, dlvOver_canonical, dlvRequest_canonical]

theorem dlvPark_canonical {d e page f} (hc : Canonical s) : Canonical (dlvPark s d e page f) := by
  grind [dlvPark, requestPage_canonical, updDelivery_canonical, dlvFail_canonical]

theorem dlvCheck_canonical {d e ga n write} (hc : Canonical s) : Canonical (dlvCheck s d e ga n write).1 := by grind [dlvCheck, checkAccess_canonical]

theorem dlvReadThen_canonical {d e ga n c side keep} {eff : Nat → Bool → State → State} (heff : ∀ v w s, Canonical s → Canonical (eff v w s))
    (hc : Canonical s) : Canonical (dlvReadThen d e ga n c side keep eff s) := by
  grind [dlvReadThen, slicePass_canonical, fetchAsk_canonical, fetchDrop_canonical, dlvFail_canonical, dlvPark_canonical, dlvCheck_canonical]

theorem dlvWrite_canonical {d e elem ga n v c} {eff : State → State} (heff : ∀ s, Canonical s → Canonical (eff s)) (hc : Canonical s) :
    Canonical (dlvWrite d e elem ga n v c eff s) := by
  unfold dlvWrite
  dsimp only
  split <;> rename_i heq <;> have h1 := (dlvCheck_canonical hc).of_fst heq
  · exact dlvFail_canonical h1
  · exact dlvPark_canonical h1
  · exact heff _ (dlvRequest_canonical h1)
  · split
    · next h2 => exact heff _ (updExch_canonical (writeTargets_canonical h2 h1))
    · exact dlvFail_canonical h1

theorem brimDeliveryPoll_canonical {id} (hc : Canonical s) : Canonical (brimDeliveryPoll id s) := by
  grind [brimDeliveryPoll, updDelivery_canonical, dlvReadThen_canonical]

theorem execBrimDeliveryPoll_keeps (hc : Canonical s) : KeepsCanonical (execBrimDeliveryPoll s) := by
  unfold execBrimDeliveryPoll; split; exacts [brimDeliveryPoll_canonical hc, hc]

theorem elemValue_canonical {d e g q j} {eff : Nat → State → State} (heff : ∀ v s, Canonical s → Canonical (eff v s)) (hc : Canonical s) :
    Canonical (elemValue d e g q j eff s) := by
  grind [elemValue, dlvReadThen_canonical, Canonical]

theorem spoilSlab_canonical {d e} (hc : Canonical s) : Canonical (spoilSlab d e s) := by
  unfold spoilSlab
  dsimp only
  split
  · exact updDelivery_canonical hc
  · refine foldl_canonical (fun s j hc => ?_) (updDelivery_canonical hc)
    split
    · next heq =>
      have h2 := (dlvCheck_canonical hc).of_fst heq
      cases hw : writeTargets _ _ _ _ _ with
      | none => exact h2
      | some s3 => exact writeTargets_canonical hw h2
    · next heq => exact (dlvCheck_canonical hc).of_fst heq

theorem brimDelivery_canonical {id} (hc : Canonical s) : Canonical (brimDelivery id s) := by
  grind [brimDelivery, updDelivery_canonical, dlvWrite_canonical, elemValue_canonical, spoilSlab_canonical]

theorem execBrimDelivery_keeps (hc : Canonical s) : KeepsCanonical (execBrimDelivery s) := by
  unfold execBrimDelivery; split; exacts [brimDelivery_canonical hc, hc]

theorem brimStepWord_canonical {id} (hc : Canonical s) : Canonical (brimStepWord id s) := by
  unfold brimStepWord
  split
  · exact hc
  · dsimp only
    split
    · exact exchangeDone_canonical hc
    split
    · exact hc
    split
    · exact spoilSlab_canonical hc
    split <;> rename_i heq <;> have h1 := (dlvCheck_canonical (s := { s with fresh := s.fresh + 1 }) hc).of_fst heq
    · exact dlvFail_canonical h1
    · exact dlvPark_canonical h1
    · exact dlvRequest_canonical h1
    · split
      · next hw => exact dlvOver_canonical (writeTargets_canonical hw h1)
      · exact dlvFail_canonical h1

theorem execBrimStepWord_keeps (hc : Canonical s) : KeepsCanonical (execBrimStepWord s) := by
  unfold execBrimStepWord; split; exacts [brimStepWord_canonical hc, hc]

theorem brimAnswer_canonical {id elem h fail} (hc : Canonical s) : Canonical (brimAnswer s id elem h fail) := by
  grind [brimAnswer, updExch_canonical, dlvOver_canonical, dlvFail_canonical]

theorem releaseSlots_canonical {c disp} (hc : Canonical s) : Canonical (releaseSlots c disp s) := by
  grind [releaseSlots, updSlot_canonical, exchangeDone_canonical, slotReleased_canonical, foldl_canonical, Canonical]

/-! ### Registers of the host -/

theorem ctxWrite_canonical {c off v} (hc : Canonical s) : Canonical (ctxWrite s c off v) := hc

theorem mgmtWrite_canonical {off v} (hc : Canonical s) : Canonical (mgmtWrite s off v) := by
  unfold mgmtWrite
  dsimp only
  split
  · split <;> exact hc
  all_goals exact hc

theorem registerWrite_canonical {fn off v} (hc : Canonical s) : Canonical (registerWrite fn off v s) := by
  grind [registerWrite, addAgenda_canonical, ctxWrite_canonical, mgmtWrite_canonical]

theorem execRegisterWrite_keeps (hc : Canonical s) : KeepsCanonical (execRegisterWrite s) := by
  unfold execRegisterWrite; split; exacts [registerWrite_canonical hc, hc]

theorem ctxtrWrite_canonical {c v} (hc : Canonical s) : Canonical (ctxtrWrite c v s) := hc

theorem execCtxtrWrite_keeps (hc : Canonical s) : KeepsCanonical (execCtxtrWrite s) := by
  unfold execCtxtrWrite; split; exacts [ctxtrWrite_canonical hc, hc]

theorem cqDoorbell_canonical {c n tail} (hc : Canonical s) : Canonical (cqDoorbell c n tail s) := hc

theorem execCqDoorbell_keeps (hc : Canonical s) : KeepsCanonical (execCqDoorbell s) := by
  unfold execCqDoorbell; split; exacts [cqDoorbell_canonical hc, hc]

theorem cqEnable_canonical {c n v} (hc : Canonical s) : Canonical (cqEnable c n v s) := by grind [cqEnable, updQueue_canonical]

theorem execCqEnable_keeps (hc : Canonical s) : KeepsCanonical (execCqEnable s) := by
  unfold execCqEnable; split; exacts [cqEnable_canonical hc, hc]

theorem svcringWrite_canonical {c v} (hc : Canonical s) : Canonical (svcringWrite c v s) := hc

theorem execSvcringWrite_keeps (hc : Canonical s) : KeepsCanonical (execSvcringWrite s) := by
  unfold execSvcringWrite; split; exacts [svcringWrite_canonical hc, hc]

theorem fltringWrite_canonical {c v} (hc : Canonical s) : Canonical (fltringWrite c v s) := hc

theorem execFltringWrite_keeps (hc : Canonical s) : KeepsCanonical (execFltringWrite s) := by
  unfold execFltringWrite; split; exacts [fltringWrite_canonical hc, hc]

theorem trcbcWrite_canonical {c v} (hc : Canonical s) : Canonical (trcbcWrite c v s) := hc

theorem execTrcbcWrite_keeps (hc : Canonical s) : KeepsCanonical (execTrcbcWrite s) := by
  unfold execTrcbcWrite; split; exacts [trcbcWrite_canonical hc, hc]

/-! ### Barrier and future forms -/

theorem teamResult_canonical {x v} (hc : Canonical s) : Canonical (teamResult x v s) := retire_canonical (addFlight_canonical hc)

theorem barrierThen_canonical {x needs n} {eff : Nat → State → State} (heff : ∀ v s, Canonical s → Canonical (eff v s)) (hc : Canonical s) :
    Canonical (barrierThen x needs n eff s) := by
  grind [barrierThen, retire_canonical, faultAt_canonical, objectPoison_canonical]

theorem execBarinit_keeps {d a} (hc : Canonical s) : KeepsCanonical (execBarinit d a s) :=
  issue_keeps (fun x s hc => by grind [barInit_canonical, retire_canonical, faultAt_canonical, barrierThen_canonical, Canonical]) hc

theorem execBararv_keeps {d a} (hc : Canonical s) : KeepsCanonical (execBararv d a s) :=
  issue_keeps (fun x s hc => by grind [barArriveAt_canonical, retire_canonical, releaseThen_canonical, barrierThen_canonical, Canonical]) hc

theorem execBarexp_keeps {d a} (hc : Canonical s) : KeepsCanonical (execBarexp d a s) :=
  issue_keeps (fun x s hc => by grind [barExpectAt_canonical, retire_canonical, barrierThen_canonical, Canonical]) hc

theorem execBarwait_keeps {d a b} (hc : Canonical s) : KeepsCanonical (execBarwait d a b s) :=
  issue_keeps (fun x s hc => by grind [waitOn_canonical, leaveWait_canonical, barrierThen_canonical, Canonical]) hc

theorem execBartest_keeps {d a b} (hc : Canonical s) : KeepsCanonical (execBartest d a b s) :=
  issue_keeps (fun x s hc => by grind [teamResult_canonical, barrierThen_canonical, Canonical]) hc

theorem handleThen_canonical {x h} {eff : Nat → State → State} (heff : ∀ v s, Canonical s → Canonical (eff v s)) (hc : Canonical s) :
    Canonical (handleThen x h eff s) := by
  grind [handleThen, retire_canonical, faultAt_canonical, objectPoison_canonical]

theorem execFwait_keeps {d a b} (hc : Canonical s) : KeepsCanonical (execFwait d a b s) :=
  issue_keeps (fun x s hc => by grind [updTeam_canonical, futRetire_canonical, waitOn_canonical, leaveWait_canonical, handleThen_canonical,
    Canonical]) hc

theorem execFtest_keeps {d a b} (hc : Canonical s) : KeepsCanonical (execFtest d a b s) :=
  issue_keeps (fun x s hc => by grind [futRetire_canonical, acquire_canonical, teamResult_canonical, handleThen_canonical, Canonical]) hc

theorem mcastForget_canonical {pa} (hc : Canonical s) : Canonical (mcastForget s pa) := hc

theorem cancelFuture_canonical {pa} (hc : Canonical s) : Canonical (cancelFuture s pa) := by
  grind [cancelFuture, addAgenda_canonical, futCancel_canonical, mcastForget_canonical]

theorem execFcancel_keeps {a} (hc : Canonical s) : KeepsCanonical (execFcancel a s) :=
  issue_keeps (fun x s hc => by grind [retire_canonical, handleThen_canonical, cancelFuture_canonical, Canonical]) hc

/-! ### Host accesses, networks and slices -/

theorem interrupt_canonical {fn vector} (hc : Canonical s) : Canonical (interrupt s fn vector) := by grind [interrupt, Canonical]
theorem ctxInterrupt_canonical {c hi lo} (hc : Canonical s) : Canonical (ctxInterrupt s c hi lo) := by grind [ctxInterrupt, interrupt_canonical]
theorem mgmtInterrupt_canonical {vector} (hc : Canonical s) : Canonical (mgmtInterrupt s vector) := interrupt_canonical hc
theorem answerRead_canonical {fn pa n} (hc : Canonical s) : Canonical (answerRead s fn pa n) := by grind [answerRead, Canonical]

theorem answerReads_canonical (hc : Canonical s) : Canonical (answerReads s) := by
  grind [answerReads, answerRead_canonical, foldl_canonical, Canonical]

theorem hostRead_canonical {fn pa n} (hc : Canonical s) : Canonical (hostRead fn pa n s) := answerReads_canonical hc

theorem execHostRead_keeps (hc : Canonical s) : KeepsCanonical (execHostRead s) := by
  unfold execHostRead; split; exacts [hostRead_canonical hc, hc]

theorem hostPostedWrite_canonical {fn pa bytes} (hc : Canonical s) : Canonical (hostPostedWrite fn pa bytes s) := by
  grind [hostPostedWrite, addAgenda_canonical, Canonical]

theorem execHostPostedWrite_keeps (hc : Canonical s) : KeepsCanonical (execHostPostedWrite s) := by
  unfold execHostPostedWrite; split; exacts [hostPostedWrite_canonical hc, hc]

theorem registerTlp_canonical {t} (hc : Canonical s) : Canonical (registerTlp t s) := by grind [registerTlp, nowAgenda_canonical, Canonical]
theorem postRegister_canonical {t} (hc : Canonical s) : Canonical (postRegister t s) := by grind [postRegister, registerTlp_canonical, Canonical]

theorem sequencerSend_canonical {fn} (hc : Canonical s) : Canonical (sequencerSend fn s) := by
  grind [sequencerSend, nowAgenda_canonical, answerReads_canonical, registerTlp_canonical, Canonical]

theorem execSequencerSend_keeps (hc : Canonical s) : KeepsCanonical (execSequencerSend s) := by
  unfold execSequencerSend; split; exacts [sequencerSend_canonical hc, hc]

theorem piecePlaced_canonical {fn num pa} (hc : Canonical s) : Canonical (piecePlaced s fn num pa) := addAgenda_canonical (answerReads_canonical hc)

theorem slicePerform_canonical {q} (hc : Canonical s) : Canonical (slicePerform q s) := by
  unfold slicePerform
  split
  · exact hc
  · exact hc
  · split
    · exact writeNat_canonical _ _ _ _ hc
    · exact hc
  · split
    · exact hc
    · exact writeNat_canonical _ _ _ _ hc
  · exact l1KillIn_canonical (s := { s with tags := _ }) ⟨hc.1, mapWf_set _ _ _ _ hc.2.1, hc.2.2⟩

theorem sliceAccess_canonical {q} (hc : Canonical s) : Canonical (sliceAccess q s) := by
  grind [sliceAccess, piecePlaced_canonical, slicePerform_canonical]

theorem execSliceAccess_keeps (hc : Canonical s) : KeepsCanonical (execSliceAccess s) := by
  unfold execSliceAccess; split; exacts [sliceAccess_canonical hc, hc]

theorem objAt_canonical {pa} {f : State → State} (hf : ∀ s, Canonical s → Canonical (f s)) (hc : Canonical s) : Canonical (objAt pa f s) := by
  grind [objAt]

theorem execObjArrive_keeps (hc : Canonical s) : KeepsCanonical (execObjArrive s) := by
  grind [execObjArrive, KeepsCanonical, Canonical, barArriveAt_canonical, barBytesAt_canonical, objAt_canonical]

theorem execObjExpect_keeps (hc : Canonical s) : KeepsCanonical (execObjExpect s) := by
  grind [execObjExpect, KeepsCanonical, Canonical, barExpectAt_canonical, objAt_canonical]

theorem execObjComplete_keeps (hc : Canonical s) : KeepsCanonical (execObjComplete s) := by
  grind [execObjComplete, KeepsCanonical, Canonical, futComplete_canonical, objAt_canonical]

theorem execObjCancel_keeps (hc : Canonical s) : KeepsCanonical (execObjCancel s) := by
  grind [execObjCancel, KeepsCanonical, Canonical, cancelFuture_canonical, objAt_canonical]

theorem execBarrierInit_keeps (hc : Canonical s) : KeepsCanonical (execBarrierInit s) := by
  grind [execBarrierInit, KeepsCanonical, Canonical, barInit_canonical, objAt_canonical]

theorem netHop_canonical {n} (hc : Canonical s) : Canonical (netHop n s) := by grind [netHop, addAgenda_canonical, Canonical]
theorem portHop_canonical {n} (hc : Canonical s) : Canonical (portHop n s) := by grind [portHop, Canonical]
theorem packetHop_canonical {n} (hc : Canonical s) : Canonical (packetHop n s) := by grind [packetHop, netHop_canonical, portHop_canonical]

theorem execPacketHop_keeps (hc : Canonical s) : KeepsCanonical (execPacketHop s) := by
  unfold execPacketHop; split; exacts [packetHop_canonical hc, hc]

theorem execRefreshTick_keeps (hc : Canonical s) : KeepsCanonical (execRefreshTick s) := by
  unfold execRefreshTick; split; exacts [hc, hc]

theorem execPatrolScrub_keeps (hc : Canonical s) : KeepsCanonical (execPatrolScrub s) := by
  unfold execPatrolScrub; split; exacts [hc, hc]

/-! ### Fault records, page responses and service calls -/

theorem updPage_canonical {c id f} (hc : Canonical s) : Canonical (updPage s c id f) := hc

theorem sideFault_canonical {e cause} (hc : Canonical s) : Canonical (sideFault s e cause) := by
  grind [sideFault, updDisp_canonical, queueRec_canonical, stopDispatch_canonical]

theorem failEntry_canonical {e cause} (hc : Canonical s) : Canonical (failEntry s e cause) := sideFault_canonical hc

theorem performEntry_canonical {t e ts} {u} (he : performEntry s t e ts = some u) (hc : Canonical s) : Canonical u := by
  unfold performEntry at he
  split at he
  · split at he
    · exact Option.some.inj he ▸ teamRequest_canonical hc
    · obtain ⟨⟨s1, m⟩, h1, rfl⟩ := Option.map_eq_some_iff.1 he
      exact atomAt_canonical h1 hc
  · exact storePieces_canonical he hc

theorem retryEntry_canonical {pageFail e} (hc : Canonical s) : Canonical (retryEntry pageFail s e) := by
  unfold retryEntry
  split
  · exact hc
  · dsimp only
    split <;> rename_i heq <;> have h1 := (checkAccess_canonical hc).of_fst heq
    · exact failEntry_canonical h1
    · split <;> rename_i heq2 <;> have h2 := (requestPage_canonical h1).of_fst heq2
      · exact h2
      · exact failEntry_canonical h2
    · split
      · next hp => exact (performEntry_canonical hp h1).of_eq rfl rfl rfl
      · exact failEntry_canonical h1

theorem retryEntries_canonical {c id pageFail} (hc : Canonical s) : Canonical (retryEntries c id pageFail s) := by
  grind [retryEntries, retryEntry_canonical, foldl_canonical]

theorem dropPages_canonical {c} (hc : Canonical s) : Canonical (dropPages s c) := hc

theorem answerPage_canonical {c p ok} (hc : Canonical s) : Canonical (answerPage c p ok s) := by
  have hp : Canonical (updPage s c p.id (fun p => { p with answered := some ok })) := updPage_canonical hc
  exact dropPages_canonical (stepAnswer_canonical (retryEntries_canonical (updCtx_canonical (hp.of_eq rfl rfl rfl))))

theorem pgresp_canonical {c v} (hc : Canonical s) : Canonical (pgresp c v s) := by grind [pgresp, addAgenda_canonical, answerPage_canonical]

theorem execPgresp_keeps (hc : Canonical s) : KeepsCanonical (execPgresp s) := by
  unfold execPgresp; split; exacts [pgresp_canonical hc, hc]

theorem faultRecordWrite_canonical {c} (hc : Canonical s) : Canonical (faultRecordWrite c s) := by
  grind [faultRecordWrite, updCtx_canonical, writeNat_canonical, ctxInterrupt_canonical, answerPage_canonical]

theorem execFaultRecordWrite_keeps (hc : Canonical s) : KeepsCanonical (execFaultRecordWrite s) := by
  unfold execFaultRecordWrite; split; exacts [faultRecordWrite_canonical hc, hc]

theorem writeSvc_canonical {c x r t off} (hc : Canonical s) : Canonical (writeSvc s c x r t off) := by
  grind [writeSvc, writeNat_canonical, foldl_canonical]

theorem svcRecordWrite_canonical {c} (hc : Canonical s) : Canonical (svcRecordWrite c s) := by
  have ha {s : State} {n : Nat} {l : List Event} (hc : Canonical s) :
      Canonical (addAgenda (ctxInterrupt { s with fresh := n } c 21 11) l) :=
    addAgenda_canonical (ctxInterrupt_canonical (hc.of_eq rfl rfl rfl))
  unfold svcRecordWrite
  dsimp only
  split
  · exact hc
  split
  · exact hc
  split
  · exact hc
  refine iteInduction (motive := Canonical) (fun _ => ha (updSplit_canonical (updCtx_canonical (writeSvc_canonical ?_)))) (fun _ => hc)
  exact iteInduction (motive := Canonical) (fun _ => hc) (fun _ => writeNat_canonical _ _ _ _ hc)

theorem execSvcRecordWrite_keeps (hc : Canonical s) : KeepsCanonical (execSvcRecordWrite s) := by
  unfold execSvcRecordWrite; split; exacts [svcRecordWrite_canonical hc, hc]

theorem svcdone_canonical {c seq} (hc : Canonical s) : Canonical (svcdone c seq s) := by
  grind [svcdone, updCtx_canonical, updTeam_canonical, updSplit_canonical]

theorem execSvcdone_keeps (hc : Canonical s) : KeepsCanonical (execSvcdone s) := by
  unfold execSvcdone; split; exacts [svcdone_canonical hc, hc]

theorem execPcieCompletion_keeps (hc : Canonical s) : KeepsCanonical (execPcieCompletion s) := by
  unfold execPcieCompletion; split; exacts [hc, hc]

/-! ### Traps, special registers and counting -/

theorem execTrap_keeps {a} (hc : Canonical s) : KeepsCanonical (execTrap a s) :=
  issue_keeps (fun x s hc => by grind [requestTrap_canonical, retire_canonical, faultAt_canonical, Canonical]) hc

theorem execSvc_keeps {d a} (hc : Canonical s) : KeepsCanonical (execSvc d a s) :=
  issue_keeps (fun x s hc => by grind [updCtx_canonical, updSplit_canonical, addAgenda_canonical, retire_canonical, faultAt_canonical,
    releaseThen_canonical, Canonical]) hc

theorem execRte_keeps (hc : Canonical s) : KeepsCanonical (execRte s) :=
  issue_keeps (fun x s hc => by grind [updSplit_canonical, addAgenda_canonical, retire_canonical, retireTo_canonical, faultAt_canonical,
      Canonical]) hc

theorem execRdsr_keeps {d a b} (hc : Canonical s) : KeepsCanonical (execRdsr d a b s) :=
  issue_keeps (fun x s hc => by grind [updTeam_canonical, retire_canonical, Canonical]) hc

theorem bbError_canonical {c base} (hc : Canonical s) : Canonical (bbError s c base) := hc

theorem bbWriteback_canonical {core k} (hc : Canonical s) : Canonical (bbWriteback core s k) := by
  grind [bbWriteback, sliceTouch_canonical, atomMemBy_canonical, checkAccess_canonical, request_canonical, bbError_canonical]

theorem bbCount_canonical {core c base n} (hc : Canonical s) : Canonical (bbCount s core c base n) := by
  grind [bbCount, updCore_canonical, bbWriteback_canonical]

theorem bbFlush_canonical {core c base} (hc : Canonical s) : Canonical (bbFlush s core c base) := by
  grind [bbFlush, updCore_canonical, bbWriteback_canonical, foldl_canonical]

theorem execBbhint_keeps {a} (hc : Canonical s) : KeepsCanonical (execBbhint a s) :=
  issue_keeps (fun x s hc => by grind [retire_canonical, bbCount_canonical, Canonical]) hc

theorem execWrsr_keeps {d a} (hc : Canonical s) : KeepsCanonical (execWrsr d a s) := by
  refine issue_keeps (fun x s hc => ?_) hc
  dsimp only
  refine iteInduction (motive := Canonical) (fun _ => faultAt_canonical hc) (fun _ => ?_)
  split
  · exact retire_canonical hc
  split
  · exact retire_canonical (updTeam_canonical (bbFlush_canonical hc))
  split
  · exact retire_canonical (updTeam_canonical hc)
  · exact retire_canonical (updTeam_canonical (updSplit_canonical hc))

theorem execCycle_keeps {d a} (hc : Canonical s) : KeepsCanonical (execCycle d a s) :=
  issue_keeps (fun x s hc => by grind [updTeam_canonical, retire_canonical, Canonical]) hc

theorem execBkpt_keeps {a} (hc : Canonical s) : KeepsCanonical (execBkpt a s) :=
  issue_keeps (fun x s hc => by grind [updTeam_canonical, updSplit_canonical, raiseNotice_canonical, retire_canonical, Canonical]) hc

/-! ### The fabric router -/

theorem sendPacket_canonical {p} (hc : Canonical s) : Canonical (sendPacket s p) := inject_canonical hc
theorem cacheReply_canonical {h p} (hc : Canonical s) : Canonical (cacheReply s h p) := hc

theorem answerWrite_canonical {h kind op v n} (hc : Canonical s) : Canonical (answerWrite s h kind op v n) :=
  sendPacket_canonical (cacheReply_canonical hc)

theorem writeRequest_canonical {p} {again : Packet → State → State} {fresh : Hdr → State → State}
    (hagain : ∀ v s, Canonical s → Canonical (again v s)) (hfresh : ∀ v s, Canonical s → Canonical (fresh v s)) (hc : Canonical s) :
    Canonical (writeRequest p again fresh s) := by
  grind [writeRequest, sendPacket_canonical]

theorem homePass_canonical {h write} (hc : Canonical s) : Canonical (homePass s h write) := sliceTouch_canonical hc
theorem homeWrite_canonical {h v} (hc : Canonical s) : Canonical (homeWrite s h v) := writeNat_canonical _ _ _ _ (homePass_canonical hc)
theorem streamAlloc_canonical {h} (hc : Canonical s) : Canonical (streamAlloc s h) := by grind [streamAlloc, Canonical]
theorem updStream_canonical {h f} (hc : Canonical s) : Canonical (updStream s h f) := hc
theorem dropStream_canonical {h} (hc : Canonical s) : Canonical (dropStream s h) := hc
theorem busyReply_canonical {h} (hc : Canonical s) : Canonical (busyReply s h) := sendPacket_canonical hc

theorem releasePerform_canonical {p} (hc : Canonical s) : Canonical (releasePerform s p) := by
  grind [releasePerform, answerWrite_canonical, homeWrite_canonical, dropStream_canonical]

theorem streamSettled_canonical {h} (hc : Canonical s) : Canonical (streamSettled s h) := by grind [streamSettled, releasePerform_canonical]

theorem countStore_canonical {h} (hc : Canonical s) : Canonical (countStore s h) := by
  grind [countStore, updStream_canonical, streamSettled_canonical]

theorem fabLoad_canonical {p} (hc : Canonical s) : Canonical (fabLoad p s) := by grind [fabLoad, sendPacket_canonical, homePass_canonical]

theorem execFabLoad_keeps (hc : Canonical s) : KeepsCanonical (execFabLoad s) := by
  unfold execFabLoad; split; exacts [fabLoad_canonical hc, hc]

theorem plainWrite_canonical {p} {perform : Hdr → State → State} (hperform : ∀ v s, Canonical s → Canonical (perform v s)) (hc :
    Canonical s) : Canonical (plainWrite p perform s) := by
  grind [plainWrite, sendPacket_canonical, answerWrite_canonical, writeRequest_canonical, streamAlloc_canonical, busyReply_canonical,
    countStore_canonical]

theorem execFabStore_keeps (hc : Canonical s) : KeepsCanonical (execFabStore s) := by
  grind [execFabStore, KeepsCanonical, Canonical, homeWrite_canonical, plainWrite_canonical]

theorem reqOperate_canonical {p h} (hc : Canonical s) : Canonical (reqOperate p h s) := by grind [reqOperate, homeWrite_canonical, Canonical]

theorem fabAtomic_canonical {p} (hc : Canonical s) : Canonical (fabAtomic p s) := by
  grind [fabAtomic, sendPacket_canonical, answerWrite_canonical, writeRequest_canonical, reqOperate_canonical]

theorem execFabAtomic_keeps (hc : Canonical s) : KeepsCanonical (execFabAtomic s) := by
  unfold execFabAtomic; split; exacts [fabAtomic_canonical hc, hc]

theorem execFabReduce_keeps (hc : Canonical s) : KeepsCanonical (execFabReduce s) := by
  grind [execFabReduce, KeepsCanonical, Canonical, plainWrite_canonical, reqOperate_canonical]

theorem countedRelease_canonical {p} (hc : Canonical s) : Canonical (countedRelease p s) := by
  grind [countedRelease, sendPacket_canonical, answerWrite_canonical, writeRequest_canonical, streamAlloc_canonical, updStream_canonical,
    dropStream_canonical, busyReply_canonical, streamSettled_canonical]

theorem execFabRelease_keeps (hc : Canonical s) : KeepsCanonical (execFabRelease s) := by
  unfold execFabRelease; split; exacts [countedRelease_canonical hc, hc]

theorem execFabClose_keeps (hc : Canonical s) : KeepsCanonical (execFabClose s) := by
  unfold execFabClose; split; exacts [countedRelease_canonical hc, hc]

theorem fabMcast_canonical {p} (hc : Canonical s) : Canonical (fabMcast p s) := by
  grind [fabMcast, sendPacket_canonical, cacheReply_canonical, writeRequest_canonical, homeWrite_canonical]

theorem execFabMcast_keeps (hc : Canonical s) : KeepsCanonical (execFabMcast s) := by
  unfold execFabMcast; split; exacts [fabMcast_canonical hc, hc]

theorem mcastDone_canonical {q c fut sp r idx} (hc : Canonical s) : Canonical (mcastDone s q c fut sp r idx) := by
  unfold mcastDone
  refine releaseAreas_canonical ?_
  split
  · split
    · exact queueRec_canonical hc
    · exact hc
  · exact futComplete_canonical hc

theorem landReq_canonical {q r idx} (hc : Canonical s) : Canonical (landReq s q r idx) := by
  have hf {s : State} {who : FetchFor} (hc : Canonical s) : Canonical (landReq.fetchLanded s who) := by
    unfold landReq.fetchLanded
    split <;> exact hc
  unfold landReq
  dsimp only
  split
  · exact updFlight_canonical hc
  · exact lateFault_canonical (updFlight_canonical hc)
  · exact hc
  · exact hc
  · exact bbError_canonical hc
  · exact updXe_canonical hc
  · split
    · exact hc
    · exact xeFail_canonical hc
  · exact brimAnswer_canonical hc
  · exact brimAnswer_canonical hc
  · exact mcastDone_canonical hc
  · exact hc
  · exact hf (s := { s with fetched := _ }) hc
  · exact hf (s := { s with fetched := _ }) hc

theorem leaveTeam_canonical {k} (hc : Canonical s) : Canonical (leaveTeam s k) := by
  have hg {k} : Canonical (leaveTeam.gone s k) := hc
  grind [leaveTeam]

theorem landSettled_canonical {q} (hc : Canonical s) : Canonical (landSettled s q) := by
  grind [landSettled, settleFlight_canonical, leaveTeam_canonical]

theorem endReq_canonical {q r idx} (hc : Canonical s) : Canonical (endReq s q r idx) :=
  landSettled_canonical (landReq_canonical (retireReq_canonical hc))

theorem response_canonical {p} {f : OutReq → Hdr → State → State} (hf : ∀ v w s, Canonical s → Canonical (f v w s)) (hc : Canonical s) :
    Canonical (response p f s) := by
  grind [response]

theorem execFabData_keeps (hc : Canonical s) : KeepsCanonical (execFabData s) := by
  grind [execFabData, KeepsCanonical, Canonical, endReq_canonical, response_canonical]

theorem execFabAck_keeps (hc : Canonical s) : KeepsCanonical (execFabAck s) := by
  grind [execFabAck, KeepsCanonical, Canonical, endReq_canonical, response_canonical]

theorem execFabError_keeps (hc : Canonical s) : KeepsCanonical (execFabError s) := by
  grind [execFabError, KeepsCanonical, Canonical, endReq_canonical, response_canonical]

theorem execFabBusy_keeps (hc : Canonical s) : KeepsCanonical (execFabBusy s) := by grind [execFabBusy, KeepsCanonical, Canonical, response_canonical]

theorem sendAgain_canonical {q retx tries} (hc : Canonical s) : Canonical (sendAgain s q retx tries).1 := by
  grind [sendAgain, inject_canonical, Canonical]

theorem peerReset_canonical {dev} (hc : Canonical s) : Canonical (peerReset s dev) := by
  grind [peerReset, updTeam_canonical, sendWaiting_canonical, landReq_canonical, landSettled_canonical, foldl_canonical, Canonical]

theorem busyResend_canonical {dev id} (hc : Canonical s) : Canonical (busyResend dev id s) := by
  grind [busyResend, endReq_canonical, sendAgain_canonical]

theorem execBusyResend_keeps (hc : Canonical s) : KeepsCanonical (execBusyResend s) := by
  unfold execBusyResend; split; exacts [busyResend_canonical hc, hc]

theorem responseTimeout_canonical {dev id} (hc : Canonical s) : Canonical (responseTimeout dev id s) := by
  grind [responseTimeout, endReq_canonical, sendAgain_canonical, peerReset_canonical]

theorem execResponseTimeout_keeps (hc : Canonical s) : KeepsCanonical (execResponseTimeout s) := by
  unfold execResponseTimeout; split; exacts [responseTimeout_canonical hc, hc]

theorem linkmgmt_canonical {port p} (hc : Canonical s) : Canonical (linkmgmt port p s) := by grind [linkmgmt, peerReset_canonical, Canonical]

theorem execLinkmgmt_keeps (hc : Canonical s) : KeepsCanonical (execLinkmgmt s) := by
  unfold execLinkmgmt; split; exacts [linkmgmt_canonical hc, hc]

theorem linkUp_canonical {port} (hc : Canonical s) : Canonical (linkUp port s) := by grind [linkUp, Canonical]

theorem execLinkUp_keeps (hc : Canonical s) : KeepsCanonical (execLinkUp s) := by
  unfold execLinkUp; split; exacts [linkUp_canonical hc, hc]

theorem timex_canonical {port t1 t2 t3 t4 ofs} (hc : Canonical s) : Canonical (timex port t1 t2 t3 t4 ofs s) := by grind [timex, Canonical]

theorem execTimex_keeps (hc : Canonical s) : KeepsCanonical (execTimex s) := by
  unfold execTimex; split; exacts [timex_canonical hc, hc]

theorem timexRepeat_canonical {result} (hc : Canonical s) : Canonical (timexRepeat result s) := by
  grind [timexRepeat, mgmtInterrupt_canonical, Canonical]

theorem execTimexRepeat_keeps (hc : Canonical s) : KeepsCanonical (execTimexRepeat s) := by
  unfold execTimexRepeat; split; exacts [timexRepeat_canonical hc, hc]

theorem timexArrive_canonical {port p} (hc : Canonical s) : Canonical (timexArrive port p s) := by grind [timexArrive, addAgenda_canonical, Canonical]
theorem alignTick_canonical (hc : Canonical s) : Canonical (alignTick s) := by grind [alignTick, Canonical]
theorem forward_canonical {port p} (hc : Canonical s) : Canonical (forward port p s) := hc

theorem arrive_canonical {port p} (hc : Canonical s) : Canonical (arrive port p s) := by
  grind [arrive, addAgenda_canonical, timexArrive_canonical, forward_canonical]

theorem escapeTimeout_canonical {n} (hc : Canonical s) : Canonical (escapeTimeout n s) := by grind [escapeTimeout, toPort_canonical, Canonical]

theorem execEscapeTimeout_keeps (hc : Canonical s) : KeepsCanonical (execEscapeTimeout s) := by
  unfold execEscapeTimeout; split; exacts [escapeTimeout_canonical hc, hc]

theorem execReservedKindDiscard_keeps (hc : Canonical s) : KeepsCanonical (execReservedKindDiscard s) := by
  unfold execReservedKindDiscard; split; exacts [hc, hc]

theorem execFlitResend_keeps (hc : Canonical s) : KeepsCanonical (execFlitResend s) := by
  unfold execFlitResend; split; exacts [addAgenda_canonical hc, hc]

/-! ### GBIND, HLD, HSTEP and HQUERY -/

theorem execGbind_keeps {d a} (hc : Canonical s) : KeepsCanonical (execGbind d a s) :=
  issue_keeps (fun x s hc => by grind [addAgenda_canonical, retire_canonical, addFlight_canonical, releaseThen_canonical, Canonical]) hc

theorem gridThen_canonical {x n} {eff : GridSlot → Option Nat → State → State} (heff : ∀ v w s, Canonical s → Canonical (eff v w s)) (hc :
    Canonical s) : Canonical (gridThen x n eff s) := by
  grind [gridThen, faultAt_canonical]

theorem readStep_canonical {x g q k l} {eff : Nat → State → State} (heff : ∀ v s, Canonical s → Canonical (eff v s)) (hc : Canonical s) :
    Canonical (readStep x g q k l eff s) := by
  grind [readStep, reportLanes_canonical, noteReads_canonical, settleThen_canonical]

theorem publish_canonical {x g q slot step} (hc : Canonical s) : Canonical (publish x g q slot step s) := by
  refine settleThen_canonical (fun ok bad s hc => ?_) hc
  split
  · have hw {s1 : State} {core disp block ts v} (hc : Canonical s1) :
        Canonical ((writeChecked core s1 (partOfCtx s1 x.team.ctx) disp block ts 4 v).getD s1) := by
      cases hw : writeChecked _ _ _ _ _ _ _ _ with
      | none => exact hc
      | some u => exact writeChecked_canonical hw hc
    refine iteInduction (motive := Canonical) (fun _ => futComplete_canonical ?_) (fun _ => startExchange_canonical ?_) <;>
      exact retire_canonical (addFlight_canonical (futAllocate_canonical (iteInduction (motive := Canonical) (fun _ => hc) (fun _ => hw hc))))
  · exact reportLanes_canonical hc

theorem idleStep_canonical {x g q step} (hc : Canonical s) : Canonical (idleStep x g q step s) := by
  grind [idleStep, faultAt_canonical, retire_canonical]

theorem execHstep_keeps {d a b} (hc : Canonical s) : KeepsCanonical (execHstep d a b s) := by
  refine issue_keeps (fun x s hc => gridThen_canonical (fun g q s hc => ?_) hc) hc
  split
  · exact faultAt_canonical hc
  dsimp only
  split
  · exact idleStep_canonical hc
  refine readStep_canonical (fun p s hc => ?_) hc
  split
  · exact faultAt_canonical hc
  split
  · exact faultAt_canonical hc
  split
  · exact faultAt_canonical hc
  split
  · exact objectPoison_canonical hc
  split
  · exact holdAt_canonical hc
  · exact releaseThen_canonical (fun s hc => publish_canonical hc) hc

theorem watchWords_canonical {x l} (hc : Canonical s) : Canonical (watchWords x l s).1 := by
  fun_induction watchWords <;> grind [watchWords, watchLine_canonical]

theorem haloLanes_canonical {x g q req ix ok bad} (hc : Canonical s) : Canonical (haloLanes x g q req ix ok bad s) := by
  grind [haloLanes, updSplit_canonical, holdAt_canonical, dropWatches_canonical, acquire_canonical, loadForm_canonical, watchWords_canonical]

theorem execHld_keeps {d a b} (hc : Canonical s) : KeepsCanonical (execHld d a b s) := by
  refine issue_keeps (fun x s hc => gridThen_canonical (fun g q s hc => ?_) hc) hc
  split
  · exact faultAt_canonical hc
  dsimp only
  split
  · exact retire_canonical hc
  split
  · exact haloLanes_canonical hc
  · exact settleThen_canonical (fun ok bad s hc => haloLanes_canonical (noteReads_canonical (slicePass_canonical hc))) hc

theorem execHquery_keeps {d a b} (hc : Canonical s) : KeepsCanonical (execHquery d a b s) :=
  issue_keeps (fun x s hc => by grind [retire_canonical, faultAt_canonical, acquire_canonical, teamResult_canonical, gridThen_canonical,
    readStep_canonical, Canonical]) hc

/-! ### The matrix forms at issue -/

theorem formFault_canonical {x cause acc ga write} (hc : Canonical s) : Canonical (formFault x cause acc ga write s) := raiseFault_canonical hc

theorem matrixThen_canonical {x lanes} {eff : State → State} (heff : ∀ s, Canonical s → Canonical (eff s)) (hc : Canonical s) :
    Canonical (matrixThen x lanes eff s) := by
  grind [matrixThen, retire_canonical, faultAt_canonical]

theorem mqIssue_canonical {x kind ga ga2 aOff reads raced free} (hc : Canonical s) : Canonical (mqIssue x kind ga ga2 aOff reads raced free s) := by
  unfold mqIssue
  split
  · exact holdAt_canonical hc
  · exact addAgenda_canonical (retire_canonical (addFlight_canonical (hc.of_eq rfl rfl rfl)))

theorem mmaForm_canonical {x fmt joint} (hc : Canonical s) : Canonical (mmaForm x fmt joint s) := by
  unfold mmaForm
  dsimp only
  refine iteInduction (motive := Canonical) (fun _ => faultAt_canonical hc) (fun _ => ?_)
  refine iteInduction (motive := Canonical) (fun _ => faultAt_canonical hc) (fun _ => ?_)
  refine iteInduction (motive := Canonical) (fun _ => faultAt_canonical hc) (fun _ => ?_)
  refine iteInduction (motive := Canonical) (fun _ => retire_canonical hc) (fun _ => ?_)
  refine iteInduction (motive := Canonical) (fun _ => formFault_canonical hc) (fun _ => ?_)
  exact iteInduction (motive := Canonical) (fun _ => formFault_canonical hc) (fun _ => mqIssue_canonical hc)

theorem execMzero_keeps {d} (hc : Canonical s) : KeepsCanonical (execMzero d s) :=
  issue_keeps (fun x s hc => by grind [matrixThen_canonical, mqIssue_canonical, Canonical]) hc

theorem rangeThen_canonical {x ga align n write} {eff : State → State} (heff : ∀ s, Canonical s → Canonical (eff s)) (hc : Canonical s) :
    Canonical (rangeThen x ga align n write eff s) := by
  grind [rangeThen, formFault_canonical]

theorem execMldacc_keeps {d a b} (hc : Canonical s) : KeepsCanonical (execMldacc d a b s) :=
  issue_keeps (fun x s hc => by grind [matrixThen_canonical, mqIssue_canonical, rangeThen_canonical, Canonical]) hc

theorem execMdrain_keeps {d a b} (hc : Canonical s) : KeepsCanonical (execMdrain d a b s) :=
  issue_keeps (fun x s hc => by grind [matrixThen_canonical, mqIssue_canonical, rangeThen_canonical, Canonical]) hc

theorem execMdraint_keeps {d a b} (hc : Canonical s) : KeepsCanonical (execMdraint d a b s) :=
  issue_keeps (fun x s hc => matrixThen_canonical (fun s hc => by
    simp only
    split
    · exact faultAt_canonical hc
    · exact rangeThen_canonical (fun _ hc => rangeThen_canonical (fun _ hc => mqIssue_canonical hc) hc) hc) hc) hc

theorem execMready_keeps (hc : Canonical s) : KeepsCanonical (execMready s) :=
  issue_keeps (fun x s hc => by
    split
    · exact retire_canonical hc
    · split
      · exact addAgenda_canonical (holdAt_canonical hc)
      · split
        · exact holdMarked_canonical hc
        · exact retire_canonical (updTeam_canonical hc)) hc

/-! ### Loads, stores, tags and waits -/

theorem memLoad_canonical {x lc} {after : State → State} (hafter : ∀ s, Canonical s → Canonical (after s)) (hc : Canonical s) :
    Canonical (memLoad x lc after s) := by
  grind [memLoad, retire_canonical, loadForm_canonical]

theorem memStore_canonical {x} (hc : Canonical s) : Canonical (memStore x s) := storeForm_canonical hc

theorem execLd_keeps {d a b} (hc : Canonical s) : KeepsCanonical (execLd d a b s) :=
  issue_keeps (fun x s hc => by grind [memLoad_canonical, Canonical]) hc

theorem execLdnt_keeps {d a b} (hc : Canonical s) : KeepsCanonical (execLdnt d a b s) :=
  issue_keeps (fun x s hc => by grind [memLoad_canonical, Canonical]) hc

theorem execLdacq_keeps {d a b} (hc : Canonical s) : KeepsCanonical (execLdacq d a b s) :=
  issue_keeps (fun x s hc => by grind [acquire_canonical, memLoad_canonical, Canonical]) hc

theorem execSt_keeps {d a b} (hc : Canonical s) : KeepsCanonical (execSt d a b s) :=
  issue_keeps (fun x s hc => by grind [retire_canonical, memStore_canonical, Canonical]) hc

theorem execStrel_keeps {d a b} (hc : Canonical s) : KeepsCanonical (execStrel d a b s) :=
  issue_keeps (fun x s hc => by grind [retire_canonical, releaseThen_canonical, memStore_canonical, Canonical]) hc

theorem execLds_keeps {d a b} (hc : Canonical s) : KeepsCanonical (execLds d a b s) :=
  issue_keeps (fun x s hc => by grind [retire_canonical, loadLanes_canonical, Canonical]) hc

theorem execSts_keeps {d a b} (hc : Canonical s) : KeepsCanonical (execSts d a b s) :=
  issue_keeps (fun x s hc => by grind [retire_canonical, reportLanes_canonical, conflicts_canonical, storeLanes_canonical, Canonical]) hc

theorem bufThen_canonical {x} {eff : Desc → State → State} (heff : ∀ v s, Canonical s → Canonical (eff v s)) (hc : Canonical s) :
    Canonical (bufThen x eff s) := by
  grind [bufThen, retire_canonical, faultAt_canonical]

theorem execLdb_keeps {d a b} (hc : Canonical s) : KeepsCanonical (execLdb d a b s) :=
  issue_keeps (fun x s hc => by grind [loadForm_canonical, bufThen_canonical, Canonical]) hc

theorem execLdbz_keeps {d a b} (hc : Canonical s) : KeepsCanonical (execLdbz d a b s) :=
  issue_keeps (fun x s hc => by grind [loadForm_canonical, bufThen_canonical, Canonical]) hc

theorem execStb_keeps {d a b} (hc : Canonical s) : KeepsCanonical (execStb d a b s) :=
  issue_keeps (fun x s hc => by grind [storeForm_canonical, bufThen_canonical, Canonical]) hc

theorem prefLane_canonical {x l} (hc : Canonical s) : Canonical (prefLane x l s).1 := by grind [prefLane, checkAccess_canonical]
theorem prefLine_canonical {x l1 pa cp} (hc : Canonical s) : Canonical (prefLine x l1 pa cp s) := loadPass_canonical hc

theorem execPref_keeps {a b} (hc : Canonical s) : KeepsCanonical (execPref a b s) :=
  issue_keeps (fun x s hc => by grind [retire_canonical, prefLane_canonical, prefLine_canonical, foldl_canonical, foldl_fst_canonical, Canonical]) hc

theorem cctlLine_canonical {x pa} (hc : Canonical s) : Canonical (cctlLine x pa s) := by grind [cctlLine, sliceClean_canonical, l1Kill_canonical]

theorem execCctl_keeps {a b} (hc : Canonical s) : KeepsCanonical (execCctl a b s) :=
  issue_keeps (fun x s hc => by grind [l1Drop_canonical, retire_canonical, reportLanes_canonical, settleThen_canonical, cctlLine_canonical,
    foldl_canonical, foldl_fst_canonical, Canonical]) hc

theorem tagCheck_canonical {x write l} (hc : Canonical s) : Canonical (tagCheck x write l s).1 := by grind [tagCheck, translate_canonical]

theorem tagChecks_canonical {x write ls} (hc : Canonical s) : Canonical (tagChecks x write ls s).1 := by
  grind [tagChecks, tagCheck_canonical, foldl_fst_canonical]

theorem tagForm_canonical {x write ls} {perform : List (Nat × Nat) → List Bad → State → State}
    (hperform : ∀ v w s, Canonical s → Canonical (perform v w s)) (hc : Canonical s) : Canonical (tagForm x write ls perform s) := by
  grind [tagForm, holdAt_canonical, parkAtWait_canonical, askPages_canonical, tagChecks_canonical]

theorem setTag_canonical {x pa tag} (hc : Canonical s) : Canonical (setTag x pa tag s) :=
  l1KillIn_canonical (s := { s with tags := _ }) ⟨hc.1, mapWf_set _ _ _ _ hc.2.1, hc.2.2⟩

theorem execSttag_keeps {d a} (hc : Canonical s) : KeepsCanonical (execSttag d a s) :=
  issue_keeps (fun x s hc => by grind [retire_canonical, reportLanes_canonical, tagForm_canonical, setTag_canonical, foldl_canonical,
    foldl_fst_canonical, Canonical]) hc

theorem execLdtag_keeps {d a} (hc : Canonical s) : KeepsCanonical (execLdtag d a s) :=
  issue_keeps (fun x s hc => by grind [retire_canonical, addFlight_canonical, reportLanes_canonical, tagForm_canonical, Canonical]) hc

theorem wholeFault_canonical {x cause accCode ga more} (hc : Canonical s) : Canonical (wholeFault x cause accCode ga more s) := by
  grind [wholeFault, raiseFault_canonical]

theorem tileEnd_canonical {x la ts} (hc : Canonical s) : Canonical (tileEnd x la ts s) := by
  grind [tileEnd, loadPass_canonical, retire_canonical, holdAt_canonical, addFlight_canonical, conflicts_canonical, fetchForget_canonical,
    noteReads_canonical, askLanes_canonical, wholeFault_canonical]

theorem execLdsc_keeps {d a b} (hc : Canonical s) : KeepsCanonical (execLdsc d a b s) :=
  issue_keeps (fun x s hc => by grind [retire_canonical, settleThen_canonical, bufThen_canonical, wholeFault_canonical, tileEnd_canonical,
    Canonical]) hc

theorem execFence_keeps {b} (hc : Canonical s) : KeepsCanonical (execFence b s) :=
  issue_keeps (fun x s hc => by grind [retire_canonical, holdMarked_canonical, releaseThen_canonical, acquire_canonical, Canonical]) hc

theorem waitWord_canonical {x eq v cmp} {again : State → State} (hagain : ∀ s, Canonical s → Canonical (again s)) (hc : Canonical s) :
    Canonical (waitWord x eq v cmp again s) := by
  grind [waitWord, leaveWait_canonical]

theorem legalThen_canonical {x} {eff : State → State} (heff : ∀ s, Canonical s → Canonical (eff s)) (hc : Canonical s) :
    Canonical (legalThen x eff s) := by
  grind [legalThen, updSplit_canonical, raiseFault_canonical]

theorem waitForm_canonical {x eq} (hc : Canonical s) : Canonical (waitForm x eq s) := by
  unfold waitForm
  dsimp only
  split
  · exact retire_canonical hc
  · refine legalThen_canonical (fun s hc => settleThen_canonical (fun ok bad s hc => ?_) hc) hc
    split
    · split
      · exact holdAt_canonical (fetchAsk_canonical hc)
      · split
        · exact reportLanes_canonical (fetchForget_canonical hc)
        · refine waitWord_canonical (fun s hc => ?_) (noteReads_canonical (fetchForget_canonical (loadPass_canonical hc)))
          split
          · exact holdAt_canonical (watchSpad_canonical hc)
          · exact waitOn_canonical hc
          · exact holdAt_canonical hc
    · exact reportLanes_canonical hc

theorem execWaiteq_keeps {d a b} (hc : Canonical s) : KeepsCanonical (execWaiteq d a b s) :=
  issue_keeps (fun x s hc => by grind [waitForm_canonical, Canonical]) hc

theorem execWaitne_keeps {d a b} (hc : Canonical s) : KeepsCanonical (execWaitne d a b s) :=
  issue_keeps (fun x s hc => by grind [waitForm_canonical, Canonical]) hc

/-! ### The scheduler -/

theorem cachedWord_canonical {core pa} (hc : Canonical s) : Canonical (cachedWord s core pa).1 := by grind [cachedWord, updCore_canonical, Canonical]

theorem fetchWord_canonical {c failed va} (hc : Canonical s) : Canonical (fetchWord s c failed va).1 := by
  grind [fetchWord, sliceTouch_canonical, translate_canonical, cachedWord_canonical]

theorem fetchWords_canonical {c failed y z} (hc : Canonical s) : Canonical (fetchWords c failed y z s).1 := by
  fun_induction fetchWords <;> grind [fetchWords, fetchWord_canonical]

theorem fetchFault_canonical {r t sp cause pc info after} (hc : Canonical s) : Canonical (fetchFault s r t sp cause pc info after) :=
  raiseFault_canonical hc

theorem fetchStop_canonical {r t sp e va after} (hc : Canonical s) : Canonical (fetchStop s r t sp e va after) := by
  unfold fetchStop
  split
  · split <;> rename_i heq <;> have h1 := (requestPage_canonical hc).of_fst heq
    · exact updSplit_canonical h1
    · exact fetchFault_canonical h1
  · exact fetchFault_canonical hc
  · exact hc

theorem clauseFetch_canonical {r} (hc : Canonical s) : Canonical (clauseFetch r s) := by
  unfold clauseFetch
  split
  · exact hc
  split
  · exact hc
  split
  · exact hc
  split <;> rename_i heq <;> have h1 := (fetchWords_canonical hc).of_fst heq
  · exact fetchStop_canonical h1
  dsimp only
  split
  · exact fetchFault_canonical h1
  split <;> rename_i heq2 <;> have h2 := (fetchWords_canonical h1).of_fst heq2
  · exact fetchStop_canonical h2
  split
  · exact fetchFault_canonical h2
  split
  · exact addAgenda_canonical h2
  · exact updSplit_canonical h2

theorem execClauseFetch_keeps (hc : Canonical s) : KeepsCanonical (execClauseFetch s) := by
  unfold execClauseFetch; split; exacts [clauseFetch_canonical hc, hc]

theorem operationComplete_canonical {k op} (hc : Canonical s) : Canonical (operationComplete k op s) := by
  grind [operationComplete, updTeam_canonical, addAgenda_canonical, Canonical]

theorem execOperationComplete_keeps (hc : Canonical s) : KeepsCanonical (execOperationComplete s) := by
  unfold execOperationComplete; split; exacts [operationComplete_canonical hc, hc]

theorem leaveStall_canonical {r sp} (hc : Canonical s) : Canonical (leaveStall r sp s) := by grind [leaveStall, fetchForget_canonical, Canonical]

theorem userTrapEntry_canonical {r} (hc : Canonical s) : Canonical (userTrapEntry r s) := by
  grind [userTrapEntry, updTeam_canonical, updSplit_canonical, raiseFault_canonical, takeTrap_canonical, endStep_canonical, leaveStall_canonical]

theorem execUserTrapEntry_keeps (hc : Canonical s) : KeepsCanonical (execUserTrapEntry s) := by
  unfold execUserTrapEntry; split; exacts [userTrapEntry_canonical hc, hc]

theorem starvationPromote_canonical {r} (hc : Canonical s) : Canonical (starvationPromote r s) := by
  grind [starvationPromote, updSplit_canonical, newStamp_canonical]

theorem execStarvationPromote_keeps (hc : Canonical s) : KeepsCanonical (execStarvationPromote s) := by
  unfold execStarvationPromote; split; exacts [starvationPromote_canonical hc, hc]

theorem toTierOne_canonical {r} (hc : Canonical s) : Canonical (toTierOne r s) := newStamp_canonical (updSplit_canonical hc)

theorem execSpinReleaseTimeout_keeps (hc : Canonical s) : KeepsCanonical (execSpinReleaseTimeout s) := by
  grind [execSpinReleaseTimeout, KeepsCanonical, Canonical, toTierOne_canonical]

theorem execSleepExpire_keeps (hc : Canonical s) : KeepsCanonical (execSleepExpire s) := by
  unfold execSleepExpire; split; exacts [updSplit_canonical hc, hc]

theorem execWatchWake_keeps (hc : Canonical s) : KeepsCanonical (execWatchWake s) := by
  unfold execWatchWake; split; exacts [updSplit_canonical hc, hc]

theorem execWatchPoll_keeps (hc : Canonical s) : KeepsCanonical (execWatchPoll s) := by
  unfold execWatchPoll; split; exacts [updSplit_canonical hc, hc]

theorem checkSources_canonical {w l} (hc : Canonical s) : Canonical (checkSources w l s).1 := by
  fun_induction checkSources <;> grind [checkSources, checkAccess_canonical]

theorem askSources_canonical {r t sp lane l} (hc : Canonical s) : Canonical (askSources r t sp lane l s).1 := by
  fun_induction askSources <;> grind [askSources, requestPage_canonical]

theorem timeoutFault_canonical {r t sp} (hc : Canonical s) : Canonical (timeoutFault r t sp s) :=
  raiseFault_canonical (fetchForget_canonical (updSplit_canonical (dropWatches_canonical hc)))

theorem haloTimeout_canonical {r t sp g q} (hc : Canonical s) : Canonical (haloTimeout r t sp g q s) := by
  grind [haloTimeout, updSplit_canonical, fetchAsk_canonical, fetchDrop_canonical, checkSources_canonical, askSources_canonical,
    timeoutFault_canonical, foldl_canonical]

theorem waitTimeout_canonical {r} (hc : Canonical s) : Canonical (waitTimeout r s) := by
  unfold waitTimeout
  split
  · exact hc
  · split
    · exact hc
    · split
      · exact hc
      · split
        · exact hc
        · split
          · exact timeoutFault_canonical hc
          · dsimp only
            split
            · exact timeoutFault_canonical hc
            · exact haloTimeout_canonical hc

/-! ### The Cuff gates -/

theorem logFlag_canonical {bit} (hc : Canonical s) : Canonical (logFlag s bit) := by grind [logFlag, mgmtInterrupt_canonical, Canonical]

theorem logRecords_canonical {g cyc l} (hc : Canonical s) : Canonical (logRecords g cyc l s) := by
  grind [logRecords, updGate_canonical, logFlag_canonical]

theorem drainGate_canonical {g} (hc : Canonical s) : Canonical (drainGate s g) := by grind [drainGate, updGate_canonical, writeList_canonical]

theorem stampIt_canonical {g ph a} (hc : Canonical s) : Canonical (stampIt g ph a s) := by
  unfold stampIt
  exact updGate_canonical (logRecords_canonical hc)

theorem deliverTlp_canonical {t} (hc : Canonical s) : Canonical (deliverTlp t s) := by
  grind [deliverTlp, nowAgenda_canonical, postRegister_canonical, Canonical]

theorem cuffStamp_canonical {g ph a} (hc : Canonical s) : Canonical (cuffStamp g ph a s) := by
  have hst : Canonical (stampIt g ph a s) := stampIt_canonical hc
  unfold cuffStamp
  cases a with
  | tlp t => grind [deliverTlp_canonical, Canonical]
  | packet port p => grind
  | mgmt m => grind [logFlag_canonical]
  | event _ _ _ _ => grind [logFlag_canonical, logRecords_canonical]

theorem execCuffStamp_keeps (hc : Canonical s) : KeepsCanonical (execCuffStamp s) := by
  unfold execCuffStamp; split; exacts [cuffStamp_canonical hc, hc]

theorem deliver_canonical {a} (hc : Canonical s) : Canonical (deliver a s) := by
  cases a with
  | tlp t => exact deliverTlp_canonical hc
  | packet port p => exact arrive_canonical hc
  | mgmt m => exact hc
  | event _ _ _ _ => exact hc

theorem cuffDeliver_canonical {g} (hc : Canonical s) : Canonical (cuffDeliver g s) := by grind [cuffDeliver, updGate_canonical, deliver_canonical]

theorem execCuffDeliver_keeps (hc : Canonical s) : KeepsCanonical (execCuffDeliver s) := by
  unfold execCuffDeliver; split; exacts [cuffDeliver_canonical hc, hc]

theorem modeWritten_canonical {g mode} (hc : Canonical s) : Canonical (modeWritten s g mode) := by grind [modeWritten, updGate_canonical, Canonical]

theorem cuffcfgWrite_canonical {g v} (hc : Canonical s) : Canonical (cuffcfgWrite g v s) := by
  grind [cuffcfgWrite, updGate_canonical, modeWritten_canonical]

theorem execCuffcfgWrite_keeps (hc : Canonical s) : KeepsCanonical (execCuffcfgWrite s) := by
  unfold execCuffcfgWrite; split; exacts [cuffcfgWrite_canonical hc, hc]

theorem startLog_canonical {g} (hc : Canonical s) : Canonical (startLog g s) := logRecords_canonical (updGate_canonical hc)

theorem cuffModeApply_canonical {g} (hc : Canonical s) : Canonical (cuffModeApply g s) := by
  grind [cuffModeApply, updGate_canonical, startLog_canonical]

theorem execCuffModeApply_keeps (hc : Canonical s) : KeepsCanonical (execCuffModeApply s) := by
  unfold execCuffModeApply; split; exacts [cuffModeApply_canonical hc, hc]

/-! ### The matrix quadrants -/

theorem updMq_canonical {id f} (hc : Canonical s) : Canonical (updMq s id f) := hc

theorem mqOver_canonical {q remote} (hc : Canonical s) : Canonical (mqOver s q remote) := by
  grind [mqOver, updFlight_canonical, fetchDrop_canonical, operationComplete_canonical, Canonical]

theorem jointFault_canonical {q} (hc : Canonical s) : Canonical (jointFault s q) := raiseFault_canonical (mqOver_canonical hc)

theorem jointMatch_canonical {q} (hc : Canonical s) : Canonical (jointMatch s q) := by
  grind [jointMatch, updMq_canonical, jointFault_canonical, foldl_canonical]

theorem mqAccept_canonical {core quad} (hc : Canonical s) : Canonical (mqAccept core quad s) := by
  grind [mqAccept, updTeam_canonical, jointMatch_canonical, Canonical]

theorem execMqAccept_keeps (hc : Canonical s) : KeepsCanonical (execMqAccept s) := by
  unfold execMqAccept; split; exacts [mqAccept_canonical hc, hc]

theorem mqBegin_canonical {q} (hc : Canonical s) : Canonical (mqBegin s q) := hc
theorem mqStart_canonical {core quad} (hc : Canonical s) : Canonical (mqStart core quad s) := by grind [mqStart, mqBegin_canonical, foldl_canonical]

theorem execMqStart_keeps (hc : Canonical s) : KeepsCanonical (execMqStart s) := by
  unfold execMqStart; split; exacts [mqStart_canonical hc, hc]

theorem putRow_canonical {q i f} (hc : Canonical s) : Canonical (putRow s q i f) := hc
theorem freeRows_canonical {q} (hc : Canonical s) : Canonical (freeRows s q) := by grind [freeRows, putRow_canonical, foldl_canonical, Canonical]

theorem mmaWrite_canonical {s0 ps fmt q} (hc : Canonical s) : Canonical (mmaWrite s0 ps fmt s q) := by
  grind [mmaWrite, putRow_canonical, foldl_canonical]

theorem rowChecks_canonical {q t write l} (hc : Canonical s) : Canonical (rowChecks q t write l s).1 := by
  fun_induction rowChecks <;> grind [rowChecks, checkAccess_canonical]

theorem mqPark_canonical {q t write pages} (hc : Canonical s) : Canonical (mqPark s q t write pages).1 := by
  grind [mqPark, requestPage_canonical, foldl_fst_canonical]

theorem rowFault_canonical {q cause ga write} (hc : Canonical s) : Canonical (rowFault s q cause ga write) :=
  lateFault_canonical (mqOver_canonical hc)

theorem drainWrite_canonical {q t b spoil l} (hc : Canonical s) : Canonical (drainWrite q t b spoil l s).1 := by
  induction l generalizing s with
  | nil => exact hc
  | cons a rest ih =>
    unfold drainWrite
    dsimp only
    split
    · next hw =>
      refine ih ?_
      split at hw
      · exact Option.some.inj hw ▸ foldl_canonical (fun _ _ hc => teamRequest_canonical hc) hc
      · obtain ⟨s1, h1, rfl⟩ := Option.map_eq_some_iff.1 hw
        exact noteSpad_canonical (writeChecked_canonical h1 hc)
    · split
      · exact ih hc
      · exact hc

theorem drainEnd_canonical {q t b ok bad} (hc : Canonical s) : Canonical (drainEnd q t b ok bad s) := by
  unfold drainEnd
  dsimp only
  split
  · exact rowFault_canonical (drainWrite_canonical hc)
  · split <;> rename_i heq <;> have h1 := (drainWrite_canonical hc).of_fst heq
    · exact mqOver_canonical h1
    · exact rowFault_canonical (drainWrite_canonical h1)

theorem loadEnd_canonical {q t b ok bad} (hc : Canonical s) : Canonical (loadEnd q t b ok bad s) := by
  unfold loadEnd
  dsimp only
  split
  · exact rowFault_canonical (freeRows_canonical hc)
  · split
    · exact updMq_canonical (foldl_canonical (fun _ _ hc => fetchAsk_canonical hc) hc)
    · split
      · exact rowFault_canonical (freeRows_canonical hc)
      · have h0 := foldl_canonical (l := ok) (f := fun s r => slicePass (partOfCtx s t.ctx) false false r.2.2.2 s)
          (fun _ _ hc => slicePass_canonical hc) hc
        refine mqOver_canonical ?_
        split
        · exact freeRows_canonical h0
        · exact foldl_canonical (fun _ _ hc => putRow_canonical hc) h0

theorem rowsEnd_canonical {q write} (hc : Canonical s) : Canonical (rowsEnd q write s) := by
  grind [rowsEnd, updMq_canonical, mqOver_canonical, rowChecks_canonical, mqPark_canonical, drainEnd_canonical, loadEnd_canonical]

theorem mqEnd_canonical {op} (hc : Canonical s) : Canonical (mqEnd op s) := by
  unfold mqEnd
  split
  · exact hc
  · split
    · exact foldl_canonical (fun _ _ hc => mqOver_canonical hc) (foldl_canonical (fun _ _ hc => mmaWrite_canonical hc) hc)
    · exact mqOver_canonical (foldl_canonical (fun _ _ hc => putRow_canonical hc) hc)
    all_goals exact rowsEnd_canonical hc

theorem execMqEnd_keeps (hc : Canonical s) : KeepsCanonical (execMqEnd s) := by
  unfold execMqEnd; split; exacts [mqEnd_canonical hc, hc]

theorem mqTimeout_canonical {q} (hc : Canonical s) : Canonical (mqTimeout s q) := raiseFault_canonical (mqOver_canonical hc)

theorem execWaitTimeout_keeps (hc : Canonical s) : KeepsCanonical (execWaitTimeout s) := by
  grind [execWaitTimeout, KeepsCanonical, Canonical, waitTimeout_canonical, mqTimeout_canonical, foldl_canonical, foldl_fst_canonical]

/-! ### The end of teams, blocks and dispatches -/

theorem cmdStatus_canonical {c v} (hc : Canonical s) : Canonical (cmdStatus s c v) := by
  grind [cmdStatus, updQueue_canonical, writeNat_canonical, ctxInterrupt_canonical]

theorem dispatchComplete_canonical {id} (hc : Canonical s) : Canonical (dispatchComplete id s) := by
  grind [dispatchComplete, updCtx_canonical, releaseSlots_canonical, cmdStatus_canonical, Canonical]

theorem execDispatchComplete_keeps (hc : Canonical s) : KeepsCanonical (execDispatchComplete s) := by
  unfold execDispatchComplete; split; exacts [dispatchComplete_canonical hc, hc]

theorem blockEnd_canonical {disp i} (hc : Canonical s) : Canonical (blockEnd s disp i) := by
  grind [blockEnd, updBlock_canonical, updDisp_canonical, addAgenda_canonical, laneFlush_canonical, releaseAreas_canonical, Canonical]

theorem withdrawJoint_canonical {k} (hc : Canonical s) : Canonical (withdrawJoint s k) := by
  grind [withdrawJoint, mqOver_canonical, jointFault_canonical, foldl_canonical]

theorem svcDrop_canonical {t} (hc : Canonical s) : Canonical (svcDrop t s) := hc

theorem teamOver_canonical {t} (hc : Canonical s) : Canonical (teamOver t s) := by
  grind [teamOver, updTeam_canonical, closeStream_canonical, bbFlush_canonical, blockEnd_canonical, svcDrop_canonical, foldl_canonical, Canonical]

theorem teamEnd_canonical {k} (hc : Canonical s) : Canonical (teamEnd k s) := by
  grind [teamEnd, addAgenda_canonical, parkTeam_canonical, withdrawJoint_canonical, teamOver_canonical, Canonical]

theorem execTeamEnd_keeps (hc : Canonical s) : KeepsCanonical (execTeamEnd s) := by
  unfold execTeamEnd; split; exacts [teamEnd_canonical hc, hc]

theorem ctlOr_canonical {k e} {f : State → State} (hf : ∀ s, Canonical s → Canonical (f s)) (hc : Canonical s) : Canonical (ctlOr k e f s) := by
  grind [ctlOr, updTeam_canonical]

theorem ctlHalt_canonical {k} (hc : Canonical s) : Canonical (ctlHalt k s) := by grind [ctlHalt, updTeam_canonical, foldl_canonical]

theorem execCtlHalt_keeps (hc : Canonical s) : KeepsCanonical (execCtlHalt s) := by
  grind [execCtlHalt, KeepsCanonical, Canonical, ctlOr_canonical, ctlHalt_canonical]

theorem ctlRun_canonical {k} (hc : Canonical s) : Canonical (ctlRun k s) := by grind [ctlRun, updTeam_canonical, foldl_canonical]

theorem execCtlRun_keeps (hc : Canonical s) : KeepsCanonical (execCtlRun s) := by
  grind [execCtlRun, KeepsCanonical, Canonical, ctlOr_canonical, ctlRun_canonical]

theorem unpark_canonical {k f yields} (hc : Canonical s) : Canonical (unpark k f yields s) := by
  grind [unpark, updTeam_canonical, addAgenda_canonical, newStamp_canonical, foldl_canonical]

theorem execCtlRetry_keeps (hc : Canonical s) : KeepsCanonical (execCtlRetry s) := by
  grind [execCtlRetry, KeepsCanonical, Canonical, ctlOr_canonical, unpark_canonical]

theorem execCtlSkip_keeps (hc : Canonical s) : KeepsCanonical (execCtlSkip s) := by
  grind [execCtlSkip, KeepsCanonical, Canonical, ctlOr_canonical, unpark_canonical]

theorem ctlStep_canonical {r} (hc : Canonical s) : Canonical (ctlStep r s) := by grind [ctlStep, updTeam_canonical, foldl_canonical]

theorem execCtlStep_keeps (hc : Canonical s) : KeepsCanonical (execCtlStep s) := by
  grind [execCtlStep, KeepsCanonical, Canonical, ctlOr_canonical, ctlStep_canonical]

theorem ctlKill_canonical {k} (hc : Canonical s) : Canonical (ctlKill k s) := by
  grind [ctlKill, updTeam_canonical, addAgenda_canonical, fetchForget_canonical, Canonical]

theorem execCtlKill_keeps (hc : Canonical s) : KeepsCanonical (execCtlKill s) := by
  unfold execCtlKill; split; exacts [ctlKill_canonical hc, hc]

/-! ### The launch unit -/

theorem commandDecode_canonical (hc : Canonical s) : Canonical (commandDecode s) := by
  grind [commandDecode, updQueue_canonical, addAgenda_canonical, cmdStatus_canonical, Canonical]

theorem execCommandDecode_keeps (hc : Canonical s) : KeepsCanonical (execCommandDecode s) := by
  unfold execCommandDecode; split; exacts [commandDecode_canonical hc, hc]

theorem withCmd_canonical {c} {f : Cmd → State → State} (hf : ∀ v s, Canonical s → Canonical (f v s)) (hc : Canonical s) :
    Canonical (withCmd c f s) := by
  grind [withCmd]

theorem execCmdNop_keeps (hc : Canonical s) : KeepsCanonical (execCmdNop s) := by
  grind [execCmdNop, KeepsCanonical, Canonical, cmdStatus_canonical, withCmd_canonical]

theorem cmdSignal_canonical {c d} (hc : Canonical s) : Canonical (cmdSignal c d s) := by grind [cmdSignal, updCtx_canonical, cmdStatus_canonical]

theorem execCmdSignal_keeps (hc : Canonical s) : KeepsCanonical (execCmdSignal s) := by
  grind [execCmdSignal, KeepsCanonical, Canonical, withCmd_canonical, cmdSignal_canonical]

theorem cmdWaitev_canonical {c d} (hc : Canonical s) : Canonical (cmdWaitev c d s) := by grind [cmdWaitev, cmdStatus_canonical]

theorem execCmdWaitev_keeps (hc : Canonical s) : KeepsCanonical (execCmdWaitev s) := by
  grind [execCmdWaitev, KeepsCanonical, Canonical, withCmd_canonical, cmdWaitev_canonical]

theorem cmdScrub_canonical {c d} (hc : Canonical s) : Canonical (cmdScrub c d s) := by
  grind [cmdScrub, l1KillIn_canonical, scrubRange_canonical, cmdStatus_canonical]

theorem execCmdScrub_keeps (hc : Canonical s) : KeepsCanonical (execCmdScrub s) := by
  grind [execCmdScrub, KeepsCanonical, Canonical, withCmd_canonical, cmdScrub_canonical]

theorem cmdInval_canonical {c d} (hc : Canonical s) : Canonical (cmdInval c d s) := by
  grind [cmdInval, addAgenda_canonical, sliceDrop_canonical, l1DropIn_canonical, tlbDrop_canonical]

theorem execCmdInval_keeps (hc : Canonical s) : KeepsCanonical (execCmdInval s) := by
  grind [execCmdInval, KeepsCanonical, Canonical, withCmd_canonical, cmdInval_canonical]

theorem invalComplete_canonical {c d} (hc : Canonical s) : Canonical (invalComplete c d s) := by grind [invalComplete, cmdStatus_canonical, Canonical]

theorem execInvalComplete_keeps (hc : Canonical s) : KeepsCanonical (execInvalComplete s) := by
  grind [execInvalComplete, KeepsCanonical, Canonical, withCmd_canonical, invalComplete_canonical]

theorem refuse_canonical {c code} (hc : Canonical s) : Canonical (refuse c code s) := cmdStatus_canonical (updQueue_canonical hc)

theorem luThen_canonical {c i ga n align code} {eff : Nat → State → State} (heff : ∀ v s, Canonical s → Canonical (eff v s)) (hc :
    Canonical s) : Canonical (luThen c i ga n align code eff s) := by
  grind [luThen, updQueue_canonical, checkAccess_canonical, requestPage_canonical, slicePass_canonical, refuse_canonical]

theorem patchThen_canonical {c k ka all} {eff : State → State} {l} (heff : ∀ s, Canonical s → Canonical (eff s)) (hc : Canonical s) :
    Canonical (patchThen c k ka all eff l s) := by
  induction l generalizing s with
  | nil => exact heff s hc
  | cons r rest ih =>
    unfold patchThen
    split
    · refine luThen_canonical (fun w s hc => ?_) hc
      dsimp only
      split
      · exact ih hc
      · exact refuse_canonical hc
    · exact refuse_canonical hc

theorem takeHandles_canonical {c d} (hc : Canonical s) : Canonical (takeHandles s c d) := hc

theorem accept_canonical {c d k l} (hc : Canonical s) : Canonical (accept c d k l s) := by
  grind [accept, updQueue_canonical, refuse_canonical, takeHandles_canonical, Canonical]

theorem cmdLaunch_canonical {c d} (hc : Canonical s) : Canonical (cmdLaunch c d s) := by
  unfold cmdLaunch
  dsimp only
  split
  · exact hc
  split
  · exact refuse_canonical hc
  refine luThen_canonical (fun v s hc => ?_) hc
  split
  · exact refuse_canonical hc
  split
  · exact refuse_canonical hc
  exact luThen_canonical (fun t s hc => patchThen_canonical (fun s hc =>
    luThen_canonical (fun p s hc => accept_canonical hc) hc) hc) hc

theorem execCmdLaunch_keeps (hc : Canonical s) : KeepsCanonical (execCmdLaunch s) := by
  grind [execCmdLaunch, KeepsCanonical, Canonical, withCmd_canonical, cmdLaunch_canonical]

/-! ### Band and management -/

theorem bandTick_canonical (hc : Canonical s) : Canonical (bandTick s) := hc
theorem configurationRead_canonical {m} (hc : Canonical s) : Canonical (configurationRead m s) := hc

theorem execConfigurationRead_keeps (hc : Canonical s) : KeepsCanonical (execConfigurationRead s) := by
  unfold execConfigurationRead; split; exacts [configurationRead_canonical hc, hc]

theorem writePwrgate_canonical {v} (hc : Canonical s) : Canonical (writePwrgate s v) := by
  grind [writePwrgate, sliceDrop_canonical, l1DropIn_canonical, tlbDrop_canonical, foldl_canonical, Canonical]

theorem writeFabcfg_canonical {v} (hc : Canonical s) : Canonical (writeFabcfg s v) := by grind [writeFabcfg, Canonical]

theorem applyConfig_canonical {off v} (hc : Canonical s) : Canonical (applyConfig s off v) := by
  unfold applyConfig
  dsimp only
  split
  · exact hc
  · split
    case h_4 => exact writePwrgate_canonical hc
    case h_5 => exact writeFabcfg_canonical hc
    case h_2 => split <;> exact hc
    all_goals exact hc

theorem execConfigurationWrite_keeps (hc : Canonical s) : KeepsCanonical (execConfigurationWrite s) := by
  unfold execConfigurationWrite; split; exacts [applyConfig_canonical hc, hc]

theorem readReply_canonical {m} (hc : Canonical s) : Canonical (readReply m s) := by grind [readReply, mgmtInterrupt_canonical, Canonical]

theorem execReadReply_keeps (hc : Canonical s) : KeepsCanonical (execReadReply s) := by
  unfold execReadReply; split; exacts [readReply_canonical hc, hc]

theorem execBandWake_keeps (hc : Canonical s) : KeepsCanonical (execBandWake s) := by
  unfold execBandWake; split; exacts [hc, hc]

theorem execBandInterrupt_keeps (hc : Canonical s) : KeepsCanonical (execBandInterrupt s) := by
  unfold execBandInterrupt; split; exacts [hc, hc]

theorem execBandManagement_keeps (hc : Canonical s) : KeepsCanonical (execBandManagement s) := by
  unfold execBandManagement; split; exacts [hc, hc]

theorem execBandInvalidRemove_keeps (hc : Canonical s) : KeepsCanonical (execBandInvalidRemove s) := by
  unfold execBandInvalidRemove; split; exacts [mgmtInterrupt_canonical hc, hc]

theorem execQuarterWakeReady_keeps (hc : Canonical s) : KeepsCanonical (execQuarterWakeReady s) := by
  grind [execQuarterWakeReady, KeepsCanonical, Canonical]

theorem controllerWrite_canonical {off v} (hc : Canonical s) : Canonical (controllerWrite s off v) := cuffStamp_canonical hc
theorem mailboxEnd_canonical {state code} (hc : Canonical s) : Canonical (mailboxEnd s state code) := mgmtInterrupt_canonical hc

theorem mailboxWrite_canonical (hc : Canonical s) : Canonical (mailboxWrite s) := by
  grind [mailboxWrite, controllerWrite_canonical, mailboxEnd_canonical]

theorem execMailboxWrite_keeps (hc : Canonical s) : KeepsCanonical (execMailboxWrite s) := by
  unfold execMailboxWrite; split; exacts [mailboxWrite_canonical hc, hc]

theorem mailboxRead_canonical (hc : Canonical s) : Canonical (mailboxRead s) := by grind [mailboxRead, mailboxEnd_canonical, Canonical]

theorem execMailboxRead_keeps (hc : Canonical s) : KeepsCanonical (execMailboxRead s) := by
  unfold execMailboxRead; split; exacts [mailboxRead_canonical hc, hc]

/-! ### Conversions -/

theorem execSrseed_keeps {a} (hc : Canonical s) : KeepsCanonical (execSrseed a s) :=
  issue_keeps (fun x s hc => by grind [updTeam_canonical, retire_canonical, Canonical]) hc

/-! ### Placing, saving and restoring blocks -/

theorem writeImage_canonical {d b} (hc : Canonical s) : Canonical (writeImage s d b) := updBlock_canonical (writeMem_canonical _ _ _ _ hc)
theorem markSave_canonical {d b lazy} (hc : Canonical s) : Canonical (markSave s d b lazy) := by grind [markSave, updBlock_canonical]
theorem residency_canonical {b v} (hc : Canonical s) : Canonical (residency s b v) := by grind [residency, stepWrite_canonical, foldl_canonical]

theorem saveEnd_canonical {d b} (hc : Canonical s) : Canonical (saveEnd s d b) := by
  grind [saveEnd, updBlock_canonical, laneFlush_canonical, bbFlush_canonical, writeImage_canonical, residency_canonical, foldl_canonical, Canonical]

theorem saveBlock_canonical {disp i} (hc : Canonical s) : Canonical (saveBlock disp i s) := by
  have hf {rs : List SplitRef} {s1 : State} (hc : Canonical s1) : Canonical (rs.foldl (fun s r => updSplit (match splitOf s r with
      | some sp => leaveStall r sp s
      | none => s) r withdraw) s1) := by
    refine foldl_canonical (fun s r hc => updSplit_canonical ?_) hc
    split
    · exact leaveStall_canonical hc
    · exact hc
  unfold saveBlock
  split
  · next d b _ _ =>
    have h0 : Canonical (if b.saving then s else markSave s d b false) :=
      iteInduction (motive := Canonical) (fun _ => hc) (fun _ => markSave_canonical hc)
    dsimp only
    split
    · exact hc
    generalize (if b.saving then s else markSave s d b false) = s0 at h0 ⊢
    split
    · exact h0
    split
    · exact h0
    exact iteInduction (motive := Canonical) (fun _ => addAgenda_canonical (hf h0)) (fun _ =>
      iteInduction (motive := Canonical) (fun _ => saveEnd_canonical (hf h0)) (fun _ => hf h0))
  · exact hc

theorem execSaveBlock_keeps (hc : Canonical s) : KeepsCanonical (execSaveBlock s) := by
  unfold execSaveBlock; split; exacts [saveBlock_canonical hc, hc]

theorem placeTeam_canonical {d block core g} (hc : Canonical s) : Canonical (placeTeam d block core s g) := newStamp_canonical hc

theorem placeNew_canonical {d i p} (hc : Canonical s) : Canonical (placeNew d i p s) := by
  grind [placeNew, updDisp_canonical, scrubRange_canonical, residency_canonical, placeTeam_canonical, foldl_canonical, Canonical]

theorem rewatch_canonical {r} (hc : Canonical s) : Canonical (rewatch r s) := by
  unfold rewatch
  split
  · exact hc
  · refine updSplit_canonical ?_
    split
    · refine foldl_canonical (fun s on hc => ?_) hc
      cases on with
      | line n => exact watchLine_canonical hc
      | spad d b off => exact watchSpad_canonical hc
      | poll => exact hc
    · exact hc

theorem restore_canonical {b p} (hc : Canonical s) : Canonical (restore b p s) := by
  grind [restore, updTeam_canonical, updBlock_canonical, addAgenda_canonical, newStamp_canonical, retryEntries_canonical, dropPages_canonical,
    residency_canonical, rewatch_canonical, foldl_canonical, Canonical]

theorem claimCore_canonical {p} (hc : Canonical s) : Canonical (claimCore p s) := by
  grind [claimCore, updCore_canonical, l1Drop_canonical, writeImage_canonical, foldl_canonical]

theorem freshCaches_canonical {d i core} (hc : Canonical s) : Canonical (freshCaches d i core s) := by
  grind [freshCaches, updCore_canonical, updDisp_canonical, l1Drop_canonical]

theorem sliceStart_canonical {c} (hc : Canonical s) : Canonical (sliceStart c s) := hc

theorem placeOn_canonical {d p} (hc : Canonical s) : Canonical (placeOn d p s) := by
  grind [placeOn, placeNew_canonical, restore_canonical, claimCore_canonical, freshCaches_canonical, sliceStart_canonical, Canonical]

theorem noteRefusal_canonical {d} (hc : Canonical s) : Canonical (noteRefusal s d) := by
  grind [noteRefusal, updBlock_canonical, raiseLuNotice_canonical]

theorem blockPlace_canonical (hc : Canonical s) : Canonical (blockPlace s) := by
  grind [blockPlace, updDisp_canonical, placeOn_canonical, noteRefusal_canonical, foldl_canonical]

theorem execBlockPlace_keeps (hc : Canonical s) : KeepsCanonical (execBlockPlace s) := by
  unfold execBlockPlace; split; exacts [blockPlace_canonical hc, hc]

theorem concReserve_canonical {id} (hc : Canonical s) : Canonical (concReserve id s) := by grind [concReserve, updDisp_canonical]

theorem execConcReserve_keeps (hc : Canonical s) : KeepsCanonical (execConcReserve s) := by
  unfold execConcReserve; split; exacts [concReserve_canonical hc, hc]

theorem markAll_canonical {d lazy} (hc : Canonical s) : Canonical (markAll d lazy s) := by grind [markAll, markSave_canonical, foldl_canonical]

theorem timeSliceExpire_canonical {c} (hc : Canonical s) : Canonical (timeSliceExpire c s) := by
  grind [timeSliceExpire, markSave_canonical, markAll_canonical]

theorem execTimeSliceExpire_keeps (hc : Canonical s) : KeepsCanonical (execTimeSliceExpire s) := by
  unfold execTimeSliceExpire; split; exacts [timeSliceExpire_canonical hc, hc]

theorem sliceTick_canonical (hc : Canonical s) : Canonical (sliceTick s) := hc

/-! ### Partitions, images and starts -/

theorem partEnd_canonical {state code c q} (hc : Canonical s) : Canonical (partEnd s state code c q) := mgmtInterrupt_canonical (hc.of_eq rfl rfl rfl)
theorem rekey_canonical {f n} (hc : Canonical s) : Canonical (rekey s f n) := hc
theorem layPart_canonical {f n} (hc : Canonical s) : Canonical (layPart s f n) := by grind [layPart, foldl_canonical, Canonical]

theorem relayout_canonical {f n m} (hc : Canonical s) : Canonical (relayout f n m s) := by
  grind [relayout, sliceDrop_canonical, l1DropIn_canonical, scrubRange_canonical, tlbDrop_canonical, partEnd_canonical, rekey_canonical,
    layPart_canonical, foldl_canonical]

theorem partChange_canonical {merge f nq} (hc : Canonical s) : Canonical (partChange merge f nq s) := by
  grind [partChange, partEnd_canonical, relayout_canonical, Canonical]

theorem execPartMerge_keeps (hc : Canonical s) : KeepsCanonical (execPartMerge s) := by
  unfold execPartMerge; split; exacts [partChange_canonical hc, hc]

theorem execPartSplit_keeps (hc : Canonical s) : KeepsCanonical (execPartSplit s) := by
  unfold execPartSplit; split; exacts [partChange_canonical hc, hc]

theorem attestationReport_canonical {nonce f} (hc : Canonical s) : Canonical (attestationReport nonce f s) := by grind [attestationReport, Canonical]

theorem execAttestationReport_keeps (hc : Canonical s) : KeepsCanonical (execAttestationReport s) := by
  unfold execAttestationReport; split; exacts [attestationReport_canonical hc, hc]

theorem withSvn_canonical {v} (hc : Canonical s) : Canonical (withSvn s v) := hc
theorem fwcommit_canonical {v} (hc : Canonical s) : Canonical (fwcommit v s) := by grind [fwcommit, withSvn_canonical]

theorem execFwcommit_keeps (hc : Canonical s) : KeepsCanonical (execFwcommit s) := by
  unfold execFwcommit; split; exacts [fwcommit_canonical hc, hc]

theorem recoveryWindowWrite_canonical {off l} (hc : Canonical s) : Canonical (recoveryWindowWrite off l s) := by
  grind [recoveryWindowWrite, Canonical]

theorem execRecoveryWindowWrite_keeps (hc : Canonical s) : KeepsCanonical (execRecoveryWindowWrite s) := by
  unfold execRecoveryWindowWrite; split; exacts [recoveryWindowWrite_canonical hc, hc]

theorem recovEnd_canonical {state code} (hc : Canonical s) : Canonical (recovEnd s state code) := mgmtInterrupt_canonical hc
theorem recoveryGo_canonical (hc : Canonical s) : Canonical (recoveryGo s) := by grind [recoveryGo, recovEnd_canonical, Canonical]

theorem execRecoveryGo_keeps (hc : Canonical s) : KeepsCanonical (execRecoveryGo s) := by
  unfold execRecoveryGo; split; exacts [recoveryGo_canonical hc, hc]

theorem powerOn_canonical : Canonical (powerOn s) := reset_canonical.of_eq rfl rfl rfl
theorem execPowerOn_keeps (hc : Canonical s) : KeepsCanonical (execPowerOn s) := by grind [execPowerOn, KeepsCanonical, powerOn_canonical]
theorem flushGate_canonical {g} (hc : Canonical s) : Canonical (flushGate s g) := by grind [flushGate, writeList_canonical]

theorem resetCuff_canonical {g} (hc : Canonical s) : Canonical (resetCuff s g) := by
  grind [resetCuff, addAgenda_canonical, modeWritten_canonical, startLog_canonical]

theorem packageReset_canonical (hc : Canonical s) : Canonical (packageReset s) := by
  grind [packageReset, flushGate_canonical, resetCuff_canonical, Canonical]

theorem execPackageReset_keeps (hc : Canonical s) : KeepsCanonical (execPackageReset s) := by
  unfold execPackageReset; split; exacts [packageReset_canonical hc, hc]

theorem withStage_canonical {n} (hc : Canonical s) : Canonical (withStage s n) := hc
theorem stageA_canonical (hc : Canonical s) : Canonical (stageA s) := by grind [stageA, withStage_canonical, Canonical]

theorem execStageA_keeps (hc : Canonical s) : KeepsCanonical (execStageA s) := by
  unfold execStageA; split; exacts [stageA_canonical hc, hc]

theorem stageB_canonical (hc : Canonical s) : Canonical (stageB s) := by grind [stageB, withStage_canonical, Canonical]

theorem execStageB_keeps (hc : Canonical s) : KeepsCanonical (execStageB s) := by
  unfold execStageB; split; exacts [stageB_canonical hc, hc]

theorem recordRemoval_canonical {u} (hc : Canonical s) : Canonical (recordRemoval u s) := by grind [recordRemoval, mgmtInterrupt_canonical, Canonical]
theorem marginCheck_canonical {q} (hc : Canonical s) : Canonical (marginCheck s q) := by grind [marginCheck, recordRemoval_canonical, Canonical]

theorem stageC_canonical (hc : Canonical s) : Canonical (stageC s) := by
  grind [stageC, rekey_canonical, withStage_canonical, marginCheck_canonical, foldl_canonical]

theorem execStageC_keeps (hc : Canonical s) : KeepsCanonical (execStageC s) := by
  unfold execStageC; split; exacts [stageC_canonical hc, hc]

/-! ### Health and heat -/

theorem thermChange_canonical {held gated temp} (hc : Canonical s) : Canonical (thermChange s held gated temp) := mgmtInterrupt_canonical hc
theorem writeHold_canonical {held} (hc : Canonical s) : Canonical (writeHold s held) := controllerWrite_canonical hc
theorem writeGate_canonical {v} (hc : Canonical s) : Canonical (writeGate s v) := controllerWrite_canonical hc

theorem thermalHold_canonical {q temp} (hc : Canonical s) : Canonical (thermalHold q temp s) := by
  grind [thermalHold, thermChange_canonical, writeHold_canonical]

theorem execThermalHold_keeps (hc : Canonical s) : KeepsCanonical (execThermalHold s) := by
  unfold execThermalHold; split; exacts [thermalHold_canonical hc, hc]

theorem thermalHoldClear_canonical {q hottest} (hc : Canonical s) : Canonical (thermalHoldClear q hottest s) := by
  grind [thermalHoldClear, thermChange_canonical, writeHold_canonical]

theorem execThermalHoldClear_keeps (hc : Canonical s) : KeepsCanonical (execThermalHoldClear s) := by
  unfold execThermalHoldClear; split; exacts [thermalHoldClear_canonical hc, hc]

theorem deviceStop_canonical {b why} (hc : Canonical s) : Canonical (deviceStop s b why) := by
  grind [deviceStop, stopDispatch_canonical, raiseLuNotice_canonical]

theorem evict_canonical {why b0} (hc : Canonical s) : Canonical (evict why s b0) := by
  grind [evict, updBlock_canonical, writeImage_canonical, markSave_canonical, deviceStop_canonical]

theorem gateStep_canonical {q} (hc : Canonical s) : Canonical (gateStep q s) := by
  grind [gateStep, thermChange_canonical, writeGate_canonical, evict_canonical, foldl_canonical, Canonical]

theorem thermalGate_canonical {q temp} (hc : Canonical s) : Canonical (thermalGate q temp s) := by grind [thermalGate, gateStep_canonical, Canonical]

theorem execThermalGate_keeps (hc : Canonical s) : KeepsCanonical (execThermalGate s) := by
  unfold execThermalGate; split; exacts [thermalGate_canonical hc, hc]

theorem thermalUngate_canonical {q hottest} (hc : Canonical s) : Canonical (thermalUngate q hottest s) := by
  grind [thermalUngate, thermChange_canonical, writeGate_canonical, Canonical]

theorem execThermalUngate_keeps (hc : Canonical s) : KeepsCanonical (execThermalUngate s) := by
  unfold execThermalUngate; split; exacts [thermalUngate_canonical hc, hc]

theorem thermalTholdRelease_canonical {q} (hc : Canonical s) : Canonical (thermalTholdRelease q s) := by
  grind [thermalTholdRelease, thermChange_canonical, writeHold_canonical, Canonical]

theorem execThermalTholdRelease_keeps (hc : Canonical s) : KeepsCanonical (execThermalTholdRelease s) := by
  unfold execThermalTholdRelease; split; exacts [thermalTholdRelease_canonical hc, hc]

theorem updErr_canonical {u f} (hc : Canonical s) : Canonical (updErr s u f) := by grind [updErr, Canonical]
theorem correctedError_canonical {u loc} (hc : Canonical s) : Canonical (correctedError u loc s) := updErr_canonical hc

theorem execCorrectedError_keeps (hc : Canonical s) : KeepsCanonical (execCorrectedError s) := by
  unfold execCorrectedError; split; exacts [correctedError_canonical hc, hc]

theorem uncorrectableError_canonical {u pa} (hc : Canonical s) : Canonical (uncorrectableError u pa s) :=
  updErr_canonical (poisonSector_canonical _ _ (cuffStamp_canonical hc))

theorem execUncorrectableError_keeps (hc : Canonical s) : KeepsCanonical (execUncorrectableError s) := by
  unfold execUncorrectableError; split; exacts [uncorrectableError_canonical hc, hc]

theorem concCheck_canonical {p d} (hc : Canonical s) : Canonical (concCheck p s d) := by grind [concCheck, deviceStop_canonical]

theorem removeCore_canonical {core} (hc : Canonical s) : Canonical (removeCore core s) := by
  grind [removeCore, updCore_canonical, evict_canonical, concCheck_canonical, foldl_canonical]

theorem removeQuarter_canonical {q} (hc : Canonical s) : Canonical (removeQuarter q s) := by
  grind [removeQuarter, stopDispatch_canonical, raiseLuNotice_canonical, ctxtrWrite_canonical, mgmtInterrupt_canonical, foldl_canonical, Canonical]

theorem removeUnit_canonical {u} (hc : Canonical s) : Canonical (removeUnit u s) := by
  grind [removeUnit, removeCore_canonical, removeQuarter_canonical, Canonical]

theorem removal_canonical {u} (hc : Canonical s) : Canonical (removal s u) := removeUnit_canonical (recordRemoval_canonical (cuffStamp_canonical hc))

theorem healthWindowBoundary_canonical (hc : Canonical s) : Canonical (healthWindowBoundary s) := by
  grind [healthWindowBoundary, removal_canonical, foldl_canonical, Canonical]

theorem execHealthWindowBoundary_keeps (hc : Canonical s) : KeepsCanonical (execHealthWindowBoundary s) := by
  unfold execHealthWindowBoundary; split; exacts [healthWindowBoundary_canonical hc, hc]

theorem errorResend_canonical {stop queue seq} (hc : Canonical s) : Canonical (errorResend stop queue seq s) := by
  grind [errorResend, cuffStamp_canonical, correctedError_canonical]

theorem execErrorResend_keeps (hc : Canonical s) : KeepsCanonical (execErrorResend s) := by
  unfold execErrorResend; split; exacts [errorResend_canonical hc, hc]

theorem execLinkFailure_keeps (hc : Canonical s) : KeepsCanonical (execLinkFailure s) := by
  unfold execLinkFailure; split; exacts [controllerWrite_canonical hc, hc]

/-! ### Replay and Visor -/

theorem replayEvent_canonical {r} (hc : Canonical s) : Canonical (replayEvent r s) := by
  grind [replayEvent, poisonSector_canonical, removeUnit_canonical]

theorem replayRecord_canonical {g r} (hc : Canonical s) : Canonical (replayRecord g r s) := by
  grind [replayRecord, updGate_canonical, replayEvent_canonical]

theorem replayOver_canonical {g bit} (hc : Canonical s) : Canonical (replayOver g bit s) := logFlag_canonical (updGate_canonical hc)

theorem replayRecords_canonical {g y} (hc : Canonical s) : Canonical (replayRecords g y s) := by
  fun_induction replayRecords <;> grind [replayRecords, updGate_canonical, replayRecord_canonical, replayOver_canonical]

theorem cuffReplayDeliver_canonical {g} (hc : Canonical s) : Canonical (cuffReplayDeliver g s) := by
  grind [cuffReplayDeliver, replayRecords_canonical]

theorem execCuffReplayDeliver_keeps (hc : Canonical s) : KeepsCanonical (execCuffReplayDeliver s) := by
  unfold execCuffReplayDeliver; split; exacts [cuffReplayDeliver_canonical hc, hc]

theorem packageStop_canonical (hc : Canonical s) : Canonical (packageStop s) := mgmtInterrupt_canonical hc

theorem execPackageStop_keeps (hc : Canonical s) : KeepsCanonical (execPackageStop s) := by
  unfold execPackageStop; split; exacts [packageStop_canonical hc, hc]

theorem visorEnd_canonical {state} (hc : Canonical s) : Canonical (visorEnd s state) := mgmtInterrupt_canonical hc
theorem visorScan_canonical (hc : Canonical s) : Canonical (visorScan s) := by grind [visorScan, writeList_canonical, visorEnd_canonical, Canonical]

theorem execVisorScan_keeps (hc : Canonical s) : KeepsCanonical (execVisorScan s) := by
  unfold execVisorScan; split; exacts [visorScan_canonical hc, hc]

theorem visorLoad_canonical (hc : Canonical s) : Canonical (visorLoad s) := by grind [visorLoad, visorEnd_canonical, Canonical]

theorem execVisorLoad_keeps (hc : Canonical s) : KeepsCanonical (execVisorLoad s) := by
  unfold execVisorLoad; split; exacts [visorLoad_canonical hc, hc]

theorem resumeGate_canonical {g} (hc : Canonical s) : Canonical (resumeGate s g) := by grind [resumeGate, updGate_canonical]

theorem visorResume_canonical (hc : Canonical s) : Canonical (visorResume s) := by
  grind [visorResume, visorEnd_canonical, resumeGate_canonical, Canonical]

theorem execVisorResume_keeps (hc : Canonical s) : KeepsCanonical (execVisorResume s) := by
  unfold execVisorResume; split; exacts [visorResume_canonical hc, hc]

/-! ### The cycle -/

theorem tickTeams_canonical (hc : Canonical s) : Canonical (tickTeams s) := hc
theorem tickJoint_canonical (hc : Canonical s) : Canonical (tickJoint s) := hc
theorem demote_canonical (hc : Canonical s) : Canonical (demote s) := by grind [demote, toTierOne_canonical, foldl_canonical]

theorem chargeFree_canonical {l n} (hc : Canonical s) : Canonical (chargeFree l n s) := by
  unfold chargeFree
  split
  · exact hc
  · exact laneCharge_canonical hc

theorem takePart_canonical {k} (hc : Canonical s) : Canonical (takePart s k) := by
  grind [takePart, updSplit_canonical, chargeFree_canonical, foldl_canonical, Canonical]

theorem tickPasses_canonical (hc : Canonical s) : Canonical (tickPasses s) := hc

theorem takePipes_canonical (hc : Canonical s) : Canonical (takePipes s) := by
  grind [takePipes, takePart_canonical, tickPasses_canonical, foldl_canonical, Canonical]

theorem startCycle_canonical (hc : Canonical s) : Canonical (startCycle s) := by
  have hd := foldl_canonical (f := fun s g => drainGate s g) (l := [0, 1]) (fun _ _ hc => drainGate_canonical hc) (noteOccupancy_canonical hc)
  unfold startCycle
  refine addAgenda_canonical (alignTick_canonical (bandTick_canonical (addAgenda_canonical (demote_canonical (sliceTick_canonical
    (tickJoint_canonical (tickTeams_canonical ?_)))))))
  exact foldl_canonical (fun _ _ hc => settleTurn_canonical hc) (hd.of_eq rfl rfl rfl)

theorem issueCycle_canonical (hc : Canonical s) : Canonical (issueCycle s) := by
  grind [issueCycle, addAgenda_canonical, takePipes_canonical, startCycle_canonical]

theorem execIssueCycle_keeps (hc : Canonical s) : KeepsCanonical (execIssueCycle s) := by
  unfold execIssueCycle; split; exacts [issueCycle_canonical hc, hc]

/-! ### What the machine does next -/

theorem faultWord_canonical {r t sp c w e} (hc : Canonical s) : Canonical (faultWord r t sp c w e s) := faultAt_canonical (popIssue_canonical hc)

/-! ### A step -/

/-- Every row of the opcode table keeps the form. -/
theorem exec_keeps (i : Instr) (hc : Canonical s) : KeepsCanonical (exec i s) := by
  cases i with
  | iadd64 | isub64 | adda | tagset | tagget | lbcast | lvote | lpopc | lscan | lred | lfirst | lmatch | rdlane | cvtff | cvtfi | cvtif
    | cvtii | pack2 | scalemake | qpack | qunpack | fadd | fsub | fmul | fma | fms | fnma | fmin | fmax | fminm | fmaxm | fabs | fneg
    | fcopysign | fcmpeq | fcmpne | fcmplt | fcmple | fcmpun | fclass | ffloor | fceil | ftrunc | frint | fldexp | fgetexp | fdot2 | fdot4
    | iadd | isub | imul | imulh | imad | imin | imax | iabs | ineg | and | or | xor | andn | not | shl | shr | sar | rol | popc | clz | ctz
    | brev | bfx | bfi | sel | mov | icmpeq | icmpne | icmplt | icmple | icmpgt | icmpge =>
    unfold exec
    exact issue_keeps (fun _ _ hc => fixedForm_canonical hc) hc
  | qswapx | qswapy | qswapd | qbcast | lshfl | lshflup | lshfldn =>
    unfold exec
    exact issue_keeps (fun _ _ hc => moveForm_canonical hc) hc
  | aadd | amin | amax | aand | aor | axor | axchg | acas | afadd =>
    unfold exec
    exact issue_keeps (fun _ _ hc => atomForm_canonical hc) hc
  | redadd | redmin | redmax | redand | redor | redxor | redfadd =>
    unfold exec
    exact issue_keeps (fun _ _ hc => redForm_canonical hc) hc
  | join =>
    unfold exec
    exact issue_keeps (fun _ _ hc => joinForm_canonical hc) hc
  | modeset | modegrd | modetyp | modernd =>
    unfold exec
    exact issue_keeps (fun _ _ hc => modeForm_canonical hc) hc
  | xcopy | xcopyt | xgather | xfill =>
    unfold exec
    exact issue_keeps (fun _ _ hc => startForm_canonical hc) hc
  | mmae4 | mmae5 | mmabf | mmahf | mmas8 | mmaq4 | mmqe4 | mmqe5 | mmqbf | mmqhf | mmqs8 | mmqq4 =>
    unfold exec
    exact issue_keeps (fun _ _ hc => mmaForm_canonical hc) hc
  | frcp | frsq | fsqrt | fdiv | fexp2 | flog2 | fsin | fcos | ftanh | idiv | irem =>
    unfold exec
    exact issue_keeps (fun _ _ hc => executionForm_canonical hc) hc
  | traceCounterWriteback => exact execTraceCounterWriteback_keeps hc
  | bdmake => exact execBdmake_keeps hc
  | bdnarrow => exact execBdnarrow_keeps hc
  | bdquery => exact execBdquery_keeps hc
  | wrlane => exact execWrlane_keeps hc
  | bra => exact execBra_keeps hc
  | brany => exact execBrany_keeps hc
  | brall => exact execBrall_keeps hc
  | call => exact execCall_keeps hc
  | calli => exact execCalli_keeps hc
  | ret => exact execRet_keeps hc
  | brp => exact execBrp_keeps hc
  | btbl => exact execBtbl_keeps hc
  | exit => exact execExit_keeps hc
  | nop => exact execNop_keeps hc
  | yield => exact execYield_keeps hc
  | sleep => exact execSleep_keeps hc
  | rstream => exact execRstream_keeps hc
  | rstrel => exact execRstrel_keeps hc
  | rmcast => exact execRmcast_keeps hc
  | rfence => exact execRfence_keeps hc
  | xeAccept => exact execXeAccept_keeps hc
  | xeActivate => exact execXeActivate_keeps hc
  | xePieceIssue => exact execXePieceIssue_keeps hc
  | xePiecePlace => exact execXePiecePlace_keeps hc
  | xeOperationEnd => exact execXeOperationEnd_keeps hc
  | engineCancel => exact execEngineCancel_keeps hc
  | gridBindRequest => exact execGridBindRequest_keeps hc
  | brimDeliveryPoll => exact execBrimDeliveryPoll_keeps hc
  | brimDelivery => exact execBrimDelivery_keeps hc
  | brimStepWord => exact execBrimStepWord_keeps hc
  | registerWrite => exact execRegisterWrite_keeps hc
  | ctxtrWrite => exact execCtxtrWrite_keeps hc
  | cqDoorbell => exact execCqDoorbell_keeps hc
  | cqEnable => exact execCqEnable_keeps hc
  | svcringWrite => exact execSvcringWrite_keeps hc
  | fltringWrite => exact execFltringWrite_keeps hc
  | trcbcWrite => exact execTrcbcWrite_keeps hc
  | barinit => exact execBarinit_keeps hc
  | bararv => exact execBararv_keeps hc
  | barexp => exact execBarexp_keeps hc
  | barwait => exact execBarwait_keeps hc
  | bartest => exact execBartest_keeps hc
  | fwait => exact execFwait_keeps hc
  | ftest => exact execFtest_keeps hc
  | fcancel => exact execFcancel_keeps hc
  | hostRead => exact execHostRead_keeps hc
  | hostPostedWrite => exact execHostPostedWrite_keeps hc
  | sequencerSend => exact execSequencerSend_keeps hc
  | sliceAccess => exact execSliceAccess_keeps hc
  | objArrive => exact execObjArrive_keeps hc
  | objExpect => exact execObjExpect_keeps hc
  | objComplete => exact execObjComplete_keeps hc
  | objCancel => exact execObjCancel_keeps hc
  | barrierInit => exact execBarrierInit_keeps hc
  | packetHop => exact execPacketHop_keeps hc
  | refreshTick => exact execRefreshTick_keeps hc
  | patrolScrub => exact execPatrolScrub_keeps hc
  | pgresp => exact execPgresp_keeps hc
  | faultRecordWrite => exact execFaultRecordWrite_keeps hc
  | svcRecordWrite => exact execSvcRecordWrite_keeps hc
  | svcdone => exact execSvcdone_keeps hc
  | pcieCompletion => exact execPcieCompletion_keeps hc
  | trap => exact execTrap_keeps hc
  | svc => exact execSvc_keeps hc
  | rte => exact execRte_keeps hc
  | rdsr => exact execRdsr_keeps hc
  | bbhint => exact execBbhint_keeps hc
  | wrsr => exact execWrsr_keeps hc
  | cycle => exact execCycle_keeps hc
  | bkpt => exact execBkpt_keeps hc
  | fabLoad => exact execFabLoad_keeps hc
  | fabStore => exact execFabStore_keeps hc
  | fabAtomic => exact execFabAtomic_keeps hc
  | fabReduce => exact execFabReduce_keeps hc
  | fabRelease => exact execFabRelease_keeps hc
  | fabClose => exact execFabClose_keeps hc
  | fabMcast => exact execFabMcast_keeps hc
  | fabData => exact execFabData_keeps hc
  | fabAck => exact execFabAck_keeps hc
  | fabError => exact execFabError_keeps hc
  | fabBusy => exact execFabBusy_keeps hc
  | busyResend => exact execBusyResend_keeps hc
  | responseTimeout => exact execResponseTimeout_keeps hc
  | linkmgmt => exact execLinkmgmt_keeps hc
  | linkUp => exact execLinkUp_keeps hc
  | timex => exact execTimex_keeps hc
  | timexRepeat => exact execTimexRepeat_keeps hc
  | escapeTimeout => exact execEscapeTimeout_keeps hc
  | reservedKindDiscard => exact execReservedKindDiscard_keeps hc
  | flitResend => exact execFlitResend_keeps hc
  | gbind => exact execGbind_keeps hc
  | hstep => exact execHstep_keeps hc
  | hld => exact execHld_keeps hc
  | hquery => exact execHquery_keeps hc
  | mzero => exact execMzero_keeps hc
  | mldacc => exact execMldacc_keeps hc
  | mdrain => exact execMdrain_keeps hc
  | mdraint => exact execMdraint_keeps hc
  | mready => exact execMready_keeps hc
  | ld => exact execLd_keeps hc
  | ldnt => exact execLdnt_keeps hc
  | ldacq => exact execLdacq_keeps hc
  | st => exact execSt_keeps hc
  | strel => exact execStrel_keeps hc
  | lds => exact execLds_keeps hc
  | sts => exact execSts_keeps hc
  | ldb => exact execLdb_keeps hc
  | ldbz => exact execLdbz_keeps hc
  | stb => exact execStb_keeps hc
  | pref => exact execPref_keeps hc
  | cctl => exact execCctl_keeps hc
  | sttag => exact execSttag_keeps hc
  | ldtag => exact execLdtag_keeps hc
  | ldsc => exact execLdsc_keeps hc
  | fence => exact execFence_keeps hc
  | waiteq => exact execWaiteq_keeps hc
  | waitne => exact execWaitne_keeps hc
  | clauseFetch => exact execClauseFetch_keeps hc
  | operationComplete => exact execOperationComplete_keeps hc
  | userTrapEntry => exact execUserTrapEntry_keeps hc
  | starvationPromote => exact execStarvationPromote_keeps hc
  | spinReleaseTimeout => exact execSpinReleaseTimeout_keeps hc
  | sleepExpire => exact execSleepExpire_keeps hc
  | watchWake => exact execWatchWake_keeps hc
  | watchPoll => exact execWatchPoll_keeps hc
  | cuffStamp => exact execCuffStamp_keeps hc
  | cuffDeliver => exact execCuffDeliver_keeps hc
  | cuffcfgWrite => exact execCuffcfgWrite_keeps hc
  | cuffModeApply => exact execCuffModeApply_keeps hc
  | mqAccept => exact execMqAccept_keeps hc
  | mqStart => exact execMqStart_keeps hc
  | mqEnd => exact execMqEnd_keeps hc
  | waitTimeout => exact execWaitTimeout_keeps hc
  | dispatchComplete => exact execDispatchComplete_keeps hc
  | teamEnd => exact execTeamEnd_keeps hc
  | ctlHalt => exact execCtlHalt_keeps hc
  | ctlRun => exact execCtlRun_keeps hc
  | ctlRetry => exact execCtlRetry_keeps hc
  | ctlSkip => exact execCtlSkip_keeps hc
  | ctlStep => exact execCtlStep_keeps hc
  | ctlKill => exact execCtlKill_keeps hc
  | commandDecode => exact execCommandDecode_keeps hc
  | cmdNop => exact execCmdNop_keeps hc
  | cmdSignal => exact execCmdSignal_keeps hc
  | cmdWaitev => exact execCmdWaitev_keeps hc
  | cmdScrub => exact execCmdScrub_keeps hc
  | cmdInval => exact execCmdInval_keeps hc
  | invalComplete => exact execInvalComplete_keeps hc
  | cmdLaunch => exact execCmdLaunch_keeps hc
  | configurationRead => exact execConfigurationRead_keeps hc
  | configurationWrite => exact execConfigurationWrite_keeps hc
  | readReply => exact execReadReply_keeps hc
  | bandWake => exact execBandWake_keeps hc
  | bandInterrupt => exact execBandInterrupt_keeps hc
  | bandManagement => exact execBandManagement_keeps hc
  | bandInvalidRemove => exact execBandInvalidRemove_keeps hc
  | quarterWakeReady => exact execQuarterWakeReady_keeps hc
  | mailboxWrite => exact execMailboxWrite_keeps hc
  | mailboxRead => exact execMailboxRead_keeps hc
  | srseed => exact execSrseed_keeps hc
  | saveBlock => exact execSaveBlock_keeps hc
  | blockPlace => exact execBlockPlace_keeps hc
  | concReserve => exact execConcReserve_keeps hc
  | timeSliceExpire => exact execTimeSliceExpire_keeps hc
  | partMerge => exact execPartMerge_keeps hc
  | partSplit => exact execPartSplit_keeps hc
  | attestationReport => exact execAttestationReport_keeps hc
  | fwcommit => exact execFwcommit_keeps hc
  | recoveryWindowWrite => exact execRecoveryWindowWrite_keeps hc
  | recoveryGo => exact execRecoveryGo_keeps hc
  | powerOn => exact execPowerOn_keeps hc
  | packageReset => exact execPackageReset_keeps hc
  | stageA => exact execStageA_keeps hc
  | stageB => exact execStageB_keeps hc
  | stageC => exact execStageC_keeps hc
  | thermalHold => exact execThermalHold_keeps hc
  | thermalHoldClear => exact execThermalHoldClear_keeps hc
  | thermalGate => exact execThermalGate_keeps hc
  | thermalUngate => exact execThermalUngate_keeps hc
  | thermalTholdRelease => exact execThermalTholdRelease_keeps hc
  | correctedError => exact execCorrectedError_keeps hc
  | uncorrectableError => exact execUncorrectableError_keeps hc
  | healthWindowBoundary => exact execHealthWindowBoundary_keeps hc
  | errorResend => exact execErrorResend_keeps hc
  | linkFailure => exact execLinkFailure_keeps hc
  | cuffReplayDeliver => exact execCuffReplayDeliver_keeps hc
  | packageStop => exact execPackageStop_keeps hc
  | visorScan => exact execVisorScan_keeps hc
  | visorLoad => exact execVisorLoad_keeps hc
  | visorResume => exact execVisorResume_keeps hc
  | issueCycle => exact execIssueCycle_keeps hc

/-- The state at which the next step stands. -/
def Todo.state : Todo → State
  | .run _ s => s
  | .done s => s

theorem issueHead_canonical (hc : Canonical s) : Canonical (issueHead s).state := by
  unfold issueHead
  split
  · exact popIssue_canonical hc
  · split
    · exact hc
    · exact faultWord_canonical hc

/-- The agenda, the issue queue, the stages of a start and the inputs touch no storage. -/
theorem nextTodo_canonical (hc : Canonical s) : Canonical (nextTodo s).state := by
  unfold nextTodo
  split
  · exact hc
  · exact issueHead_canonical hc
  · exact hc
  · split <;> exact hc

/-- A step keeps the form: it is a row of the opcode table, or the fault of a word that no form has. -/
theorem step_keeps (hc : Canonical s) : KeepsCanonical (step s) := by
  have hn := nextTodo_canonical hc
  unfold step
  cases h : nextTodo s with
  | run i t =>
    rw [h] at hn
    exact exec_keeps i hn
  | done t =>
    rw [h] at hn
    exact hn

/-- Settles O60: what a step answers is what a row of the opcode table answers, and every row keeps the form. -/
theorem stepKeepsCanonical : Obligations.StepKeepsCanonical := by
  intro s t hc h
  have hk := step_keeps hc
  rwa [h] at hk

end Sys2Proof.Machine
end

section
/-! THE STATE AFTER RESET (O59). The tables of contexts and gates list nothing, so that every context and every gate reads as its reset
value. -/
namespace Sys2Proof.Machine

/-! ### Tables that list nothing -/

@[simp] theorem ctxOf_reset (c : Nat) : ctxOf State.reset c = Ctx.reset := rfl
@[simp] theorem gateOf_reset (g : Nat) : gateOf State.reset g = Gate.reset := rfl
@[simp] theorem queueOf_reset (n : Nat) : queueOf Ctx.reset n = Queue.reset := rfl
@[simp] theorem slotOf_reset (n : Nat) : slotOf Ctx.reset n = GridSlot.reset := rfl
@[simp] theorem netbnd_reset (q : Nat) : netbnd State.reset q = 0xF := rfl

/-- R19: without a partition layout of its own, every quarter is of the one partition of four. -/
theorem partOfQuarter_reset (q : Nat) : partOfQuarter State.reset q = (0, 4) := by
  have hm : memil State.reset q = 0b1000 := rfl
  simp only [partOfQuarter, hm]
  decide

/-- Settles O59: each register by the value that it has in the reset state, with the tables as they read when they list nothing. -/
theorem resetValues : Obligations.ResetValues := by
  refine ⟨reset_canonical, rfl, rfl, by decide, fun q _ => ⟨partOfQuarter_reset q, netbnd_reset q⟩, fun c => ?_, fun c n => ?_,
    fun c n => ?_, rfl, rfl, rfl, rfl, fun g => ?_, rfl, rfl, rfl, rfl⟩
  · rw [ctxOf_reset]
    exact ⟨rfl, rfl, rfl, rfl, rfl, rfl⟩
  · rw [ctxOf_reset, queueOf_reset]
  · rw [ctxOf_reset, slotOf_reset]
    rfl
  · rw [gateOf_reset]
    exact ⟨rfl, rfl⟩

end Sys2Proof.Machine
end

section
/-! CLAUSE_FETCH (O34, R252 to R259): the fetch of words changes caches alone; a malformed clause faults, and one whose flags are
clear starts. -/
namespace Sys2Proof.Machine
open Sys2Proof.Forms

/-! ### What the fetch of a word changes -/

/-- Only translation caches, lines of slices, core state and the count of free values may have changed. -/
def OnlyCaches (s t : State) : Prop := ∃ a b c n, t = { s with tlb := a, slices := b, cores := c, fresh := n }

theorem OnlyCaches.refl (s : State) : OnlyCaches s s := ⟨_, _, _, _, rfl⟩

theorem OnlyCaches.trans {s t u : State} (h : OnlyCaches s t) (g : OnlyCaches t u) : OnlyCaches s u := by
  obtain ⟨_, _, _, _, rfl⟩ := h
  obtain ⟨a, b, c, n, rfl⟩ := g
  exact ⟨a, b, c, n, rfl⟩

theorem tlbKeep_caches (via : Via) (e : TlbEntry) (s : State) : OnlyCaches s (tlbKeep via e s) := by
  obtain ⟨c, h⟩ := tlbKeep_only via e s
  exact ⟨c, _, _, _, h⟩

theorem walkKeep_caches (die : Nat) (l : List TlbEntry) (s : State) : OnlyCaches s (walkKeep die l s) := by
  obtain ⟨c, h⟩ := walkKeep_only die l s
  exact ⟨c, _, _, _, h⟩

theorem sliceTouch_caches (s : State) (part : Nat × Nat) (cp : Nat) (low : Bool) (pa n : Nat) (write : Bool) :
    OnlyCaches s (sliceTouch s part cp low pa n write) := by
  obtain ⟨c, h⟩ := sliceTouch_only s part cp low pa n write
  exact ⟨_, c, _, _, h⟩

theorem translate_caches (s : State) (via : Via) (c va : Nat) : OnlyCaches s (translate s via c va).1 := by
  unfold translate
  simp only
  split
  · exact tlbKeep_caches _ _ s
  · split
    · exact .refl s
    · exact .refl s
    · split
      · exact (walkKeep_caches _ _ s).trans (tlbKeep_caches _ _ _)
      · exact .refl s

theorem cachedWord_caches (s : State) (core pa : Nat) : OnlyCaches s (cachedWord s core pa).1 := by
  unfold cachedWord
  simp only
  split
  · exact ⟨_, _, _, _, rfl⟩
  · split
    · exact .refl s
    · exact ⟨_, _, _, _, rfl⟩

theorem fetchWord_caches (s : State) (c : Fetcher) (failed : List Nat) (va : Nat) : OnlyCaches s (fetchWord s c failed va).1 := by
  unfold fetchWord
  simp only
  split
  · exact .refl s
  · have ht := translate_caches s (.pipe c.core c.part) c.ctx va
    split
    · next heq => rwa [heq] at ht
    · next heq => rwa [heq] at ht
    · next heq =>
      rw [heq] at ht
      split
      · exact ht
      · split
        · exact ht
        · exact (ht.trans (sliceTouch_caches _ _ _ _ _ _ _)).trans (cachedWord_caches _ _ _)

theorem fetchWords_caches (c : Fetcher) (failed : List Nat) (n : Nat) :
    ∀ (va : BitVec 56) (s : State), OnlyCaches s (fetchWords c failed n va s).1 := by
  induction n with
  | zero => exact fun _ s => .refl s
  | succ n ih =>
    intro va s
    have hw := fetchWord_caches s c failed va.toNat
    unfold fetchWords
    split
    · next s1 w heq =>
      rw [heq] at hw
      have hr := hw.trans (ih (va + 4) s1)
      split
      · next h => rwa [h] at hr
      · exact hr
    · next heq => rwa [heq] at hw

section Caches
variable {s t : State}

theorem OnlyCaches.teams (h : OnlyCaches s t) : t.teams = s.teams := by obtain ⟨_, _, _, _, rfl⟩ := h; rfl
theorem OnlyCaches.ctxs (h : OnlyCaches s t) : t.ctxs = s.ctxs := by obtain ⟨_, _, _, _, rfl⟩ := h; rfl
theorem OnlyCaches.mem (h : OnlyCaches s t) : t.mem = s.mem := by obtain ⟨_, _, _, _, rfl⟩ := h; rfl
theorem OnlyCaches.tags (h : OnlyCaches s t) : t.tags = s.tags := by obtain ⟨_, _, _, _, rfl⟩ := h; rfl
theorem OnlyCaches.cycle (h : OnlyCaches s t) : t.cycle = s.cycle := by obtain ⟨_, _, _, _, rfl⟩ := h; rfl

theorem teamOf_congr (h : t.teams = s.teams) (k : TeamKey) : teamOf t k = teamOf s k := by unfold teamOf; rw [h]
theorem splitOf_congr (h : t.teams = s.teams) (r : SplitRef) : splitOf t r = splitOf s r := by unfold splitOf; rw [teamOf_congr h]
theorem regAt_congr (h : t.teams = s.teams) (k : TeamKey) (n : RegName) : regAt t k n = regAt s k n := by unfold regAt; rw [teamOf_congr h]

end Caches

/-! ### A fault of a team -/

theorem mem_insertRec (r : FaultRec) (l : List FaultRec) : r ∈ insertRec r l := by
  induction l with
  | nil => exact List.mem_cons_self
  | cons q l ih =>
    unfold insertRec
    split
    · exact List.mem_cons_self
    · exact List.mem_cons_of_mem q ih

/-- Nothing a fault's record or a team's registers say has changed, and a team that was parked still is. -/
structure OnlyParks (k : TeamKey) (s t : State) : Prop where
  mem    : t.mem = s.mem
  tags   : t.tags = s.tags
  queue  : ∀ c, (ctxOf t c).faultQ = (ctxOf s c).faultQ
  regs   : ∀ n, regAt t k n = regAt s k n
  parked : (teamOf s k).map (·.parked) = some true → (teamOf t k).map (·.parked) = some true

theorem OnlyParks.refl (k : TeamKey) (s : State) : OnlyParks k s s := ⟨rfl, rfl, fun _ => rfl, fun _ => rfl, id⟩

theorem OnlyParks.trans {k : TeamKey} {s t u : State} (h : OnlyParks k s t) (g : OnlyParks k t u) : OnlyParks k s u :=
  ⟨g.mem.trans h.mem, g.tags.trans h.tags, fun c => (g.queue c).trans (h.queue c), fun n => (g.regs n).trans (h.regs n),
    fun p => g.parked (h.parked p)⟩

/-- A change that leaves teams and waiting records alone. -/
theorem OnlyParks.of_teams {k : TeamKey} {s t : State} (hm : t.mem = s.mem) (hg : t.tags = s.tags) (ht : t.teams = s.teams)
    (hq : ∀ c, (ctxOf t c).faultQ = (ctxOf s c).faultQ) : OnlyParks k s t :=
  ⟨hm, hg, hq, fun n => regAt_congr ht k n, fun h => by rwa [teamOf_congr ht]⟩

/-- A change of one team that leaves its registers, and parks it or leaves it as it is. -/
theorem OnlyParks.updTeam {k : TeamKey} (s : State) (k' : TeamKey) (f : Team → Team) (hk : ∀ u, (f u).key = u.key)
    (hr : ∀ u n, teamReg (f u) n = teamReg u n) (hp : ∀ u, u.parked = true → (f u).parked = true) : OnlyParks k s (updTeam s k' f) := by
  have ht := teamOf_updTeam s k' f k hk
  by_cases h : k = k'
  · subst h
    rw [if_pos rfl] at ht
    cases hu : teamOf s k with
    | none =>
      rw [hu] at ht
      exact ⟨rfl, rfl, fun _ => rfl, fun n => by unfold regAt; rw [ht, hu]; rfl, fun h => by rw [hu] at h; cases h⟩
    | some u =>
      rw [hu] at ht
      refine ⟨rfl, rfl, fun _ => rfl, fun n => ?_, fun h => ?_⟩
      · rw [regAt_eq _ k _ n ht, regAt_eq s k u n hu, hr]
      · rw [hu] at h
        rw [ht]
        exact congrArg some (hp u (Option.some.inj h))
  · rw [if_neg h] at ht
    exact ⟨rfl, rfl, fun _ => rfl, fun n => by unfold regAt; rw [ht], fun h => by rwa [ht]⟩

theorem OnlyParks.parkTeam {k : TeamKey} (s : State) (k' : TeamKey) : OnlyParks k s (parkTeam s k') :=
  OnlyParks.updTeam s k' _ (fun _ => rfl) (fun _ n => by cases n <;> rfl) (fun _ _ => rfl)

theorem teamReg_putSplit (u : Team) (b : Bool) (sp : Option Split) (n : RegName) : teamReg (putSplit u b sp) n = teamReg u n := by
  cases b <;> cases n <;> rfl

theorem OnlyParks.updSplit {k : TeamKey} (s : State) (r : SplitRef) (f : Split → Split) : OnlyParks k s (updSplit s r f) :=
  OnlyParks.updTeam s r.team _ (fun _ => putSplit_key _ _ _) (fun u n => teamReg_putSplit u _ _ n)
    (fun u h => by unfold putSplit; split <;> exact h)

theorem OnlyParks.updQueue {k : TeamKey} (s : State) (c n : Nat) (f : Queue → Queue) : OnlyParks k s (updQueue s c n f) :=
  .of_teams rfl rfl rfl (fun d => by
    unfold Machine.updQueue
    rw [ctxOf_updCtx]
    split
    · next h => rw [h]
    · rfl)

theorem OnlyParks.addAgenda {k : TeamKey} (s : State) (l : List Event) : OnlyParks k s (addAgenda s l) :=
  .of_teams rfl rfl rfl (fun _ => rfl)

theorem OnlyParks.updDisp {k : TeamKey} (s : State) (id : BitVec 64) (f : Dispatch → Dispatch) : OnlyParks k s (updDisp s id f) :=
  .of_teams rfl rfl rfl (fun _ => rfl)

theorem parkTeams_parks {k : TeamKey} (l : List Team) (s : State) : OnlyParks k s (l.foldl (fun s t => Machine.parkTeam s t.key) s) :=
  foldl_rel (OnlyParks k) (.refl k) .trans _ (fun s t => .parkTeam s t.key) l s

theorem stopDispatch_parks {k : TeamKey} (s : State) (id : BitVec 64) (status : BitVec 32) : OnlyParks k s (stopDispatch s id status) := by
  unfold stopDispatch
  split
  · exact .refl k s
  · split
    · exact .refl k s
    · refine OnlyParks.trans ?_ (.addAgenda _ _)
      have hp := (OnlyParks.updDisp (k := k) s id (fun d => { d with stop := some status, reserved := [] })).trans
        (parkTeams_parks (teamsOfDisp s id) _)
      split
      · exact hp.trans (.updQueue _ _ _ _)
      · exact hp

/-- The record of a team's fault (R444). -/
def faultRecord (s : State) (u : Team) (r : SplitRef) (f : FaultSpec) : FaultRec :=
  { teamRec s u 0 f.cause with
    entry := 2 * u.slot + r.high.toNat
    flags := faultFlags f (decide (bits (ctxOf s u.ctx).ctxpol 0 0 = 1))
    acc := f.acc
    lane := if namesLane f.cause f.acc then BitVec.ofNat 16 f.lane else 0
    info := f.info
    pc := f.pc.setWidth 64
    addr := f.addr.getD 0
    info2 := f.info2 }

/-- A fault queues its record and parks the team; what follows parks other teams at most. -/
theorem raiseFault_parks (s : State) (r : SplitRef) (f : FaultSpec) (u : Team) (hu : teamOf s r.team = some u) :
    OnlyParks r.team (parkTeam (queueRec s u.ctx (faultRecord s u r f)) r.team) (raiseFault s r f) := by
  unfold raiseFault
  rw [hu]
  simp only
  have hs := fun g => (OnlyParks.updSplit (k := r.team) (parkTeam (queueRec s u.ctx (faultRecord s u r f)) r.team) r g).trans
    (.updDisp _ r.team.disp (fun d => { d with faulted := true }))
  split
  · exact (hs _).trans (stopDispatch_parks _ _ _)
  · exact hs _

/-- A fault leaves its record with those that wait, and its team parked (R444, R447). -/
theorem raiseFault_faulted (s : State) (r : SplitRef) (f : FaultSpec) (u : Team) (hu : teamOf s r.team = some u) :
    FaultedAt s (raiseFault s r f) r f.cause f.pc := by
  have hkey : u.key = r.team := by simpa using List.find?_some hu
  have hlast := raiseFault_parks s r f u hu
  generalize hq : faultRecord s u r f = q at hlast
  have hpark : OnlyParks r.team (queueRec s u.ctx q) (parkTeam (queueRec s u.ctx q) r.team) := .parkTeam _ _
  have hmem : q ∈ (ctxOf (queueRec s u.ctx q) u.ctx).faultQ := by
    unfold queueRec
    rw [ctxOf_updCtx, if_pos rfl]
    exact mem_insertRec q _
  have hparked : (teamOf (parkTeam (queueRec s u.ctx q) r.team) r.team).map (·.parked) = some true := by
    have ht := teamOf_updTeam (queueRec s u.ctx q) r.team (fun t => { t with parked := true }) r.team (fun _ => rfl)
    have hq : teamOf (queueRec s u.ctx q) r.team = some u := hu
    rw [if_pos rfl, hq] at ht
    exact congrArg (Option.map (·.parked)) ht
  have ha := hpark.trans hlast
  refine ⟨u, hu, ⟨q, ?_, ?_⟩, hlast.parked hparked, ha.mem, ha.tags, fun n => (ha.regs n).trans (regAt_congr rfl _ n)⟩
  · rwa [ha.queue]
  · subst hq
    rw [← hkey]
    exact ⟨rfl, rfl, rfl, rfl, rfl, rfl, rfl⟩

/-- The fetch before a fault leaves the team and its record as if the fault had come at once. -/
theorem FaultedAt.of_caches {s s1 t : State} {r : SplitRef} {cause : BitVec 8} {pc : BitVec 56} (h : OnlyCaches s s1)
    (hf : FaultedAt s1 t r cause pc) : FaultedAt s t r cause pc := by
  obtain ⟨_, _, _, _, rfl⟩ := h
  exact hf

theorem fetchFault_faulted {s s1 : State} (h : OnlyCaches s s1) (r : SplitRef) (u : Team) (sp : Split) (cause : BitVec 8) (pc : BitVec 56)
    (info : Word) (after : BitVec 56) (hu : teamOf s r.team = some u) :
    FaultedAt s (fetchFault s1 r u sp cause pc info after) r cause pc :=
  FaultedAt.of_caches h (raiseFault_faulted s1 r _ u ((teamOf_congr h.teams _).trans hu))

/-! ### Starting a clause -/

/-- Without overlays the literals are as they were fetched. -/
theorem overlaid_none (d : Dispatch) (a : BitVec 56) (lits : List Word) (h : d.overlays = []) : overlaid d a lits = lits := by
  unfold overlaid
  rw [h]
  refine List.ext_getElem (by simp) (fun i h1 h2 => ?_)
  simp [h2]

/-- A clause waits while a flag that its WAIT field names is set (R259). -/
theorem waits_iff (u : Team) (high : Bool) (h : Word) :
    fld (flagBits u high) 0 12 &&& bits h 11 0 ≠ 0 ↔ ∃ n, n < 12 ∧ h.getLsbD n = true ∧ flagSet u high n = true := by
  have hbit : ∀ n, (fld (flagBits u high) 0 12 &&& bits h 11 0).testBit n =
      (decide (n < 12) && (h.getLsbD n && flagSet u high n)) := fun n => by
    have hf : fld (flagBits u high) 0 12 = flagBits u high % 2 ^ 12 := rfl
    have hb : bits h 11 0 = h.toNat % 2 ^ 12 := rfl
    rw [Nat.testBit_and, hf, hb, Nat.testBit_mod_two_pow, Nat.testBit_mod_two_pow, flagBits, maskNat_testBit, BitVec.getLsbD]
    cases decide (n < 12) <;> cases flagSet u high n <;> simp
  constructor
  · intro hne
    obtain ⟨n, hn⟩ := Nat.exists_testBit_of_ne_zero hne
    rw [hbit] at hn
    simp only [Bool.and_eq_true, decide_eq_true_eq] at hn
    exact ⟨n, hn⟩
  · rintro ⟨n, hn⟩ h0
    have := hbit n
    rw [h0] at this
    simp [hn] at this

theorem startPos_zero (sp : Split) (ws : List Word) (h : sp.pos = 0) : startPos sp ws = sp.pos := by
  unfold startPos
  rw [if_neg (by rw [h]; decide)]

theorem splitOf_updSplit_other (s : State) (r q : SplitRef) (f : Split → Split) (h : q ≠ r) : 
    splitOf (updSplit s r f) q = splitOf s q := by
  unfold splitOf
  rw [teamOf_updSplit]
  by_cases hk : q.team = r.team
  · have hb : q.high = !r.high := by
      rw [Bool.eq_not]
      intro hb
      exact h (by cases q; cases r; simp_all)
    rw [if_pos hk, hk, hb]
    cases teamOf s r.team with
    | none => rfl
    | some u => exact splitIn_putSplit_not _ _ _
  · rw [if_neg hk]

/-- The clause that a split starts (R252, R272). -/
def startedClause (s : State) (r : SplitRef) (sp : Split) (h : Word) (ws : List Word) : Clause :=
  { addr := sp.pc, header := h, words := ws.take (bits h 23 20)
    lits := overlaid ((dispOf s r.team.disp).getD noDispatch) sp.pc (ws.drop (bits h 23 20)) }

/-- The split that starts it. -/
def startedSplit (c : Clause) (sp : Split) : Split :=
  { sp with clause := some c, pos := startPos sp c.words, bypass := [], pageFail := [] }

section Fetch
variable {s s1 s2 : State} {r : SplitRef} {u : Team} {sp : Split} {h : Word} {ws : List Word}
  (hu : teamOf s r.team = some u) (hsp : splitIn u r.high = some sp) (hc : sp.clause = none)
  (h1 : fetchWords (fetcherOf u) sp.pageFail 1 sp.pc s = (s1, .ok [h]))
include hu hsp hc h1

/-- A header that is malformed faults (R255). -/
theorem clauseFetch_badHeader (hb : headerBad h = true) : clauseFetch r s = fetchFault s1 r u sp 0x20 sp.pc h (pastHeader sp h) := by
  unfold clauseFetch
  simp only [hu, hsp, hc, h1, hb, Option.isSome_none, Bool.false_eq_true, if_false, if_true, List.headD_cons]

variable (hb : headerBad h = false)
  (h2 : fetchWords (fetcherOf u) sp.pageFail (bits h 23 20 + literalCount h) (sp.pc + 4) s1 = (s2, .ok ws))
include hb h2

/-- A clause whose forms are malformed faults (R255). -/
theorem clauseFetch_badForms (hf : formsBad h (ws.take (bits h 23 20)) = true) :
    clauseFetch r s = fetchFault s2 r u sp 0x20 sp.pc h (pastHeader sp h) := by
  unfold clauseFetch
  simp only [hu, hsp, hc, h1, hb, h2, hf, Option.isSome_none, Bool.false_eq_true, if_false, if_true, List.headD_cons]

/-- A clause waits for the flags that its WAIT field names (R259). -/
theorem clauseFetch_waits (hf : formsBad h (ws.take (bits h 23 20)) = false)
    (hw : fld (flagBits u r.high) 0 12 &&& bits h 11 0 ≠ 0) : clauseFetch r s = addAgenda s2 (awaited u r.high (bits h 11 0)) := by
  unfold clauseFetch
  simp only [hu, hsp, hc, h1, hb, h2, hf, Option.isSome_none, Bool.false_eq_true, if_false, List.headD_cons]
  exact if_pos hw

/-- A clause whose flags are clear starts. -/
theorem clauseFetch_starts (hf : formsBad h (ws.take (bits h 23 20)) = false)
    (hw : ¬ (fld (flagBits u r.high) 0 12 &&& bits h 11 0 ≠ 0)) :
    clauseFetch r s = updSplit s2 r (startedSplit (startedClause s r sp h ws)) := by
  unfold clauseFetch
  simp only [hu, hsp, hc, h1, hb, h2, hf, Option.isSome_none, Bool.false_eq_true, if_false, List.headD_cons]
  exact if_neg hw

end Fetch

/-- CLAUSE_FETCH (R252 to R259). -/
theorem clauseFetch_spec (s : State) (r : SplitRef) (u : Team) (sp : Split) (hu : teamOf s r.team = some u) (hsp : splitIn u r.high = some sp)
    (hc : sp.clause = none) (s1 : State) (h : Word) (h1 : fetchWords (fetcherOf u) sp.pageFail 1 sp.pc s = (s1, .ok [h])) :
    (headerBad h = true → FaultedAt s (clauseFetch r s) r 0x20 sp.pc) ∧
    ∀ s2 ws, headerBad h = false → fetchWords (fetcherOf u) sp.pageFail (bits h 23 20 + literalCount h) (sp.pc + 4) s1 = (s2, .ok ws) →
      let body := ws.take (bits h 23 20)
      let waits := ∃ n, n < 12 ∧ h.getLsbD n = true ∧ flagAt s r n = true
      let t := clauseFetch r s
      (formsBad h body = true → FaultedAt s t r 0x20 sp.pc) ∧
      (formsBad h body = false → waits → (∀ q, splitOf t q = splitOf s q) ∧ t.mem = s.mem) ∧
      (formsBad h body = false → ¬ waits → sp.pos = 0 → ∃ c,
        splitOf t r = some { sp with clause := some c, bypass := [], pageFail := [] } ∧ (∀ q, q ≠ r → splitOf t q = splitOf s q) ∧
        t.mem = s.mem ∧ c.addr = sp.pc ∧ c.header = h ∧ c.words = body ∧
        ((dispOf s r.team.disp).map (·.overlays) = some [] → c.lits = ws.drop (bits h 23 20))) := by
  have hs1 : OnlyCaches s s1 := by simpa only [h1] using fetchWords_caches (fetcherOf u) sp.pageFail 1 sp.pc s
  refine ⟨fun hb => ?_, fun s2 ws hb h2 => ?_⟩
  · rw [clauseFetch_badHeader hu hsp hc h1 hb]
    exact fetchFault_faulted hs1 r u sp _ _ _ _ hu
  have hs2 : OnlyCaches s s2 := hs1.trans (by
    simpa only [h2] using fetchWords_caches (fetcherOf u) sp.pageFail (bits h 23 20 + literalCount h) (sp.pc + 4) s1)
  have hwait : (∃ n, n < 12 ∧ h.getLsbD n = true ∧ flagAt s r n = true) ↔ fld (flagBits u r.high) 0 12 &&& bits h 11 0 ≠ 0 := by
    rw [waits_iff]
    simp only [flagAt, hu]
  refine ⟨fun hf => ?_, fun hf hw => ?_, fun hf hw hpos => ⟨startedClause s r sp h ws, ?_⟩⟩
  · rw [clauseFetch_badForms hu hsp hc h1 hb h2 hf]
    exact fetchFault_faulted hs2 r u sp _ _ _ _ hu
  · rw [clauseFetch_waits hu hsp hc h1 hb h2 hf (hwait.mp hw)]
    exact ⟨splitOf_congr hs2.teams, hs2.mem⟩
  · rw [clauseFetch_starts hu hsp hc h1 hb h2 hf (fun h => hw (hwait.mpr h))]
    refine ⟨?_, fun q hq => ?_, hs2.mem, rfl, rfl, rfl, fun ho => ?_⟩
    · have hs : splitOf s r = some sp := by rw [splitOf, hu]; exact hsp
      rw [splitOf_updSplit, splitOf_congr hs2.teams, hs, Option.map_some, startedSplit, startPos_zero sp _ hpos]
    · rw [splitOf_updSplit_other _ _ _ _ hq, splitOf_congr hs2.teams]
    · obtain ⟨d, hd, hov⟩ := Option.map_eq_some_iff.mp ho
      simp only [startedClause, hd, Option.getD_some]
      exact overlaid_none d _ _ hov

theorem execClauseFetch_eq {s : State} {r : SplitRef} (h : s.event = some (.clauseFetch r)) :
    exec .clauseFetch s = .next (clauseFetch r { s with event := none }) := by
  change execClauseFetch s = _
  unfold execClauseFetch
  rw [h]

end Sys2Proof.Machine
end

section
/-! ISSUE_CYCLE (O34, R3, R417, R423, R498): what a cycle's beginning leaves of teams, registers, flags and memory, and which timed
steps it puts on the agenda; what the pipes leave as they take splits. -/
namespace Sys2Proof.Machine
open Sys2Proof.Forms

/-! ### Lists in order -/

theorem mem_insertBy {α : Type} (key : α → List Nat) (x y : α) (l : List α) : y ∈ insertBy key x l ↔ y = x ∨ y ∈ l := by
  induction l with
  | nil => simp [insertBy]
  | cons a l ih =>
    unfold insertBy
    split
    · exact List.mem_cons
    · rw [List.mem_cons, ih, List.mem_cons]
      exact or_left_comm

/-- Sorting keeps the elements. -/
theorem mem_sortBy {α : Type} (key : α → List Nat) (y : α) (l : List α) : y ∈ sortBy key l ↔ y ∈ l := by
  have h : ∀ acc, y ∈ l.foldl (fun acc x => insertBy key x acc) acc ↔ y ∈ l ∨ y ∈ acc := by
    induction l with
    | nil => simp
    | cons a l ih =>
      intro acc
      rw [List.foldl_cons, ih, mem_insertBy, List.mem_cons]
      tauto
  simpa [sortBy] using h []

/-! ### The pipes -/

theorem laneAdd_issueQ (s : State) (core ctx idx n : Nat) : (laneAdd s core ctx idx n).issueQ = s.issueQ := by
  unfold laneAdd
  simp only
  split
  · rfl
  · split <;> rfl

theorem laneAdd_outside (s : State) (core ctx idx n : Nat) : outside (laneAdd s core ctx idx n) = outside s :=
  (laneAdd_books s core ctx idx n ⟨⟨0, 0, 0⟩, false⟩).outside

theorem chargeFree_issueQ (l : List (Team × SplitRef × Split)) (n : Nat) (s : State) : (chargeFree l n s).issueQ = s.issueQ := by
  cases l with
  | nil => rfl
  | cons => exact laneAdd_issueQ _ _ _ _ _

theorem chargeFree_outside (l : List (Team × SplitRef × Split)) (n : Nat) (s : State) : outside (chargeFree l n s) = outside s := by
  cases l with
  | nil => rfl
  | cons => exact laneAdd_outside _ _ _ _ _

/-- The pipes of a partition take the splits of `takes`. -/
theorem takePart_issueQ (s : State) (k : Nat) : (takePart s k).issueQ = s.issueQ ++ takes s k (partList s k) := by
  unfold takePart
  rw [chargeFree_issueQ]
  exact congrArg (· ++ _) (foldl_leaves (·.issueQ) (fun u (p : Team × SplitRef × Split) => updSplit u p.2.1 _) (fun _ _ => rfl) _ s)

theorem takePart_outside (s : State) (k : Nat) : outside (takePart s k) = outside s := by
  unfold takePart
  rw [chargeFree_outside]
  exact foldl_leaves outside (fun u (p : Team × SplitRef × Split) => updSplit u p.2.1 _) (fun _ _ => rfl) (partList s k) s

theorem takePipes_outside (s : State) : outside (takePipes s) = outside { s with taking := false } :=
  foldl_leaves outside takePart takePart_outside (partsInUse s) { s with taking := false }

/-- The pipes' turn ends the cycle, and changes neither its count nor memory. -/
theorem takePipes_spec (s : State) : (takePipes s).cycle = s.cycle ∧ (takePipes s).taking = false ∧ (takePipes s).mem = s.mem := by
  have h := takePipes_outside s
  exact ⟨congrArg (·.cycle) h, congrArg (·.taking) h, congrArg (·.mem) h⟩

theorem takePipes_one (s : State) (k : Nat) (h : partsInUse s = [k]) : (takePipes s).issueQ = s.issueQ ++ takes s k (partList s k) := by
  unfold takePipes
  rw [h]
  exact takePart_issueQ { s with taking := false } k

theorem takePipes_none (s : State) (h : partsInUse s = []) : (takePipes s).issueQ = s.issueQ := by
  unfold takePipes
  rw [h]
  rfl

/-! ### Gates drain -/

/-- Teams, blocks, tags, the count of cycles and the guard's holds are the same. -/
structure Stands (s t : State) : Prop where
  teams   : t.teams = s.teams
  blocks  : t.blocks = s.blocks
  tags    : t.tags = s.tags
  cycle   : t.cycle = s.cycle
  thold   : t.thold = s.thold
  pwrgate : t.pwrgate = s.pwrgate

theorem Stands.refl (s : State) : Stands s s := ⟨rfl, rfl, rfl, rfl, rfl, rfl⟩

theorem Stands.trans {s t u : State} (h : Stands s t) (g : Stands t u) : Stands s u :=
  ⟨g.teams.trans h.teams, g.blocks.trans h.blocks, g.tags.trans h.tags, g.cycle.trans h.cycle, g.thold.trans h.thold,
    g.pwrgate.trans h.pwrgate⟩

theorem wakeLine_stands (s : State) (l : Nat) : Stands s (wakeLine s l) := ⟨rfl, rfl, rfl, rfl, rfl, rfl⟩

theorem sliceWrite_stands (s : State) (pa n : Nat) : Stands s (sliceWrite s pa n) := by
  obtain ⟨c, h⟩ := sliceWrite_only s pa n
  rw [h]
  exact ⟨rfl, rfl, rfl, rfl, rfl, rfl⟩

theorem writeMem_stands (s : State) (pa n : Nat) (f : Nat → Byte) : Stands s (writeMem s pa n f) := by
  unfold writeMem
  refine Stands.trans ?_ (sliceWrite_stands _ pa n)
  refine Stands.trans ?_ (foldl_rel Stands .refl .trans wakeLine wakeLine_stands _ _)
  exact ⟨rfl, rfl, rfl, rfl, rfl, rfl⟩

/-- The bytes that a gate moves to its region in a cycle (R493). -/
def drained (x : Gate) (g : Nat) : List Byte := x.staged.take (if g = 0 then 128 else 1024)

theorem drainGate_eq (s : State) (g : Nat) :
    drainGate s g = if drained (gateOf s g) g = [] then s else
      writeList (updGate s g (fun x => { x with staged := x.staged.drop (drained (gateOf s g) g).length }))
        (regionBase (gateOf s g) + (gateOf s g).pos.toNat - (gateOf s g).staged.length) (drained (gateOf s g) g) := rfl

theorem updGate_stands (s : State) (g : Nat) (f : Gate → Gate) : Stands s (updGate s g f) := ⟨rfl, rfl, rfl, rfl, rfl, rfl⟩

theorem noteOccupancy_only (s : State) : ∃ m, noteOccupancy s = { s with occs := m } := by
  unfold noteOccupancy
  exact ⟨_, rfl⟩

theorem noteOccupancy_stands (s : State) : Stands s (noteOccupancy s) := by
  obtain ⟨m, h⟩ := noteOccupancy_only s
  rw [h]
  exact ⟨rfl, rfl, rfl, rfl, rfl, rfl⟩

theorem drainGate_stands (s : State) (g : Nat) : Stands s (drainGate s g) := by
  rw [drainGate_eq]
  split
  · exact .refl s
  · exact (updGate_stands s g _).trans (writeMem_stands _ _ _ _)

/-- A gate that stages nothing writes nothing. -/
theorem drainGate_idle (s : State) (g : Nat) (h : (gateOf s g).staged = []) : drainGate s g = s := by
  rw [drainGate_eq, if_pos (by rw [drained, h, List.take_nil])]

/-- The state after both gates have drained. -/
def drainGates (s : State) : State := drainGate (drainGate (noteOccupancy s) 0) 1

theorem drainGates_stands (s : State) : Stands s (drainGates s) :=
  ((noteOccupancy_stands s).trans (drainGate_stands _ 0)).trans (drainGate_stands _ 1)

theorem drainGates_mem (s : State) (h : ∀ g, g < 2 → (gateOf s g).staged = []) : (drainGates s).mem = s.mem := by
  obtain ⟨m, hm⟩ := noteOccupancy_only s
  unfold drainGates
  rw [hm, drainGate_idle { s with occs := m } 0 (h 0 (by decide)), drainGate_idle { s with occs := m } 1 (h 1 (by decide))]

/-! ### Turns of blocks settle -/

/-- Lists that agree on what a key is told by agree, so far, on what a key finds. -/
theorem find_map_congr {α β : Type} (f : α → β) (q : β → Bool) {l m : List α} (h : l.map f = m.map f) :
    (l.find? (q ∘ f)).map f = (m.find? (q ∘ f)).map f := by
  rw [← List.find?_map, ← List.find?_map, h]

/-- A block without its turn. -/
def seat (b : Block) : Block := { b with turn := 0, owed := false }

/-- Only turns of blocks may have changed. -/
def SameSeats (s t : State) : Prop := ∃ l, t = { s with blocks := l } ∧ l.map seat = s.blocks.map seat

theorem SameSeats.refl (s : State) : SameSeats s s := ⟨s.blocks, rfl, rfl⟩

theorem SameSeats.trans {s t u : State} (h : SameSeats s t) (g : SameSeats t u) : SameSeats s u := by
  obtain ⟨l, rfl, hl⟩ := h
  obtain ⟨m, rfl, hm⟩ := g
  exact ⟨m, rfl, hm.trans hl⟩

theorem settleTurn_seats (s : State) (b : Block) : SameSeats s (settleTurn s b) := by
  unfold settleTurn
  split
  · refine ⟨_, rfl, ?_⟩
    rw [List.map_map]
    refine List.map_congr_left (fun a _ => ?_)
    simp only [Function.comp]
    split <;> rfl
  · exact .refl s

theorem settleTurns_seats (l : List Block) (s : State) : SameSeats s (l.foldl settleTurn s) :=
  foldl_rel SameSeats .refl .trans settleTurn settleTurn_seats l s

/-- Residence does not look at turns. -/
theorem resident_congr {s t : State} (hc : t.cycle = s.cycle) (hb : t.blocks.map seat = s.blocks.map seat) (u : Team) :
    resident t u = resident s u := by
  have h : (blockOf t u.key.disp u.key.block).map seat = (blockOf s u.key.disp u.key.block).map seat :=
    find_map_congr seat (fun b => decide (b.disp = u.key.disp ∧ b.index = u.key.block)) hb
  unfold resident
  rw [hc]
  cases hs : blockOf s u.key.disp u.key.block with
  | none =>
    rw [hs] at h
    rw [Option.map_eq_none_iff.mp h]
  | some b =>
    rw [hs] at h
    obtain ⟨a, ha, hab⟩ := Option.map_eq_some_iff.mp h
    have hf : ∀ b : Block, (seat b).saved = b.saved ∧ (seat b).saving = b.saving ∧ (seat b).saveAt = b.saveAt := fun _ => ⟨rfl, rfl, rfl⟩
    obtain ⟨a1, a2, a3⟩ := hf a
    obtain ⟨b1, b2, b3⟩ := hf b
    rw [hab] at a1 a2 a3
    simp only [ha, ← a1, ← a2, ← a3, b1, b2, b3]

theorem timeRuns_congr {s t : State} (hc : t.cycle = s.cycle) (hb : t.blocks.map seat = s.blocks.map seat) (hh : t.thold = s.thold)
    (hp : t.pwrgate = s.pwrgate) (u : Team) : timeRuns t u = timeRuns s u := by
  unfold timeRuns coreHeld
  rw [resident_congr hc hb, hh, hp]

/-! ### Splits that return to tier 1 -/

/-- A split without its tier, stamp and spin detector. -/
def untiered (sp : Split) : Split := { inTierOne sp with stamp := 0, issued := 0 }

/-- What tells nothing of tiers is the same of splits that differ by them alone. -/
theorem eq_of_untiered {β : Type} (p : Split → β) (hp : ∀ x, p (untiered x) = p x) {a b : Split} (h : untiered a = untiered b) : p a = p b := by
  rw [← hp a, h, hp]

/-- A team whose splits are without tiers. -/
def Team.untiered (u : Team) : Team := { u with low := u.low.map Machine.untiered, high := u.high.map Machine.untiered }

theorem splitIn_untiered (u : Team) (b : Bool) : splitIn u.untiered b = (splitIn u b).map untiered := by cases b <;> rfl

/-- Only tiers and stamps of splits and the counts of stamps may have changed. -/
def SameButTiers (s t : State) : Prop :=
  ∃ l m, t = { s with teams := l, stamps := m } ∧ l.map Team.untiered = s.teams.map Team.untiered

theorem SameButTiers.refl (s : State) : SameButTiers s s := ⟨s.teams, s.stamps, rfl, rfl⟩

theorem SameButTiers.trans {s t u : State} (h : SameButTiers s t) (g : SameButTiers t u) : SameButTiers s u := by
  obtain ⟨l, m, rfl, hl⟩ := h
  obtain ⟨l', m', rfl, hl'⟩ := g
  exact ⟨l', m', rfl, hl'.trans hl⟩

theorem updSplit_tiers (s : State) (r : SplitRef) (f : Split → Split) (hf : ∀ sp, untiered (f sp) = untiered sp) :
    SameButTiers s (updSplit s r f) := by
  refine ⟨_, s.stamps, rfl, ?_⟩
  rw [List.map_map]
  refine List.map_congr_left (fun u _ => ?_)
  have hmap : ∀ o : Option Split, (o.map f).map untiered = o.map untiered := fun o => by
    rw [Option.map_map]
    exact congrArg (Option.map · o) (funext hf)
  simp only [Function.comp]
  split
  · cases hb : r.high
    · exact congrArg (fun o => { u.untiered with low := o }) (hmap u.low)
    · exact congrArg (fun o => { u.untiered with high := o }) (hmap u.high)
  · rfl

theorem newStamp_tiers (s : State) (r : SplitRef) : SameButTiers s (newStamp s r) := by
  unfold newStamp
  split
  · exact .refl s
  · exact SameButTiers.trans ⟨s.teams, _, rfl, rfl⟩ (updSplit_tiers _ r _ (fun _ => rfl))

theorem toTierOne_tiers (r : SplitRef) (s : State) : SameButTiers s (toTierOne r s) :=
  (updSplit_tiers s r inTierOne (fun _ => rfl)).trans (newStamp_tiers _ r)

theorem demote_tiers (s : State) : SameButTiers s (demote s) := by
  unfold demote
  refine foldl_rel SameButTiers .refl .trans _ (fun s u => ?_) (teamOrder s) s
  refine foldl_rel SameButTiers .refl .trans _ (fun s p => ?_) (splitsOf u) s
  split
  · exact toTierOne_tiers p.1 s
  · exact .refl s

/-! ### The beginning of a cycle -/

/-- A team one cycle on. -/
def tickTeam (s : State) (u : Team) : Team :=
  if timeRuns s u then { u with low := u.low.map tickSplit, high := u.high.map tickSplit } else u

theorem tickTeam_regs (s : State) (u : Team) : (tickTeam s u).regs = u.regs := by unfold tickTeam; split <;> rfl
theorem tickTeam_key (s : State) (u : Team) : (tickTeam s u).key = u.key := by unfold tickTeam; split <;> rfl
theorem tickTeam_inflight (s : State) (u : Team) : (tickTeam s u).inflight = u.inflight := by unfold tickTeam; split <;> rfl

theorem tickTeam_runs (s t : State) (u : Team) : timeRuns t (tickTeam s u) = timeRuns t u := by unfold tickTeam; split <;> rfl

theorem splitIn_tickTeam {s : State} {u : Team} (h : timeRuns s u = true) (b : Bool) :
    splitIn (tickTeam s u) b = (splitIn u b).map tickSplit := by
  unfold tickTeam
  rw [if_pos h]
  cases b <;> rfl

/-- The state with the count of cycles one on, as which teams' time runs in the new cycle is told. -/
def nextCycle (s : State) : State := { s with cycle := s.cycle + 1 }

/-- A cycle has begun: the time that runs is one cycle on, but for what the return to tier 1 changes. -/
structure Begun (s t : State) : Prop where
  cycle  : t.cycle = s.cycle + 1
  taking : t.taking = true
  tags   : t.tags = s.tags
  mem    : (∀ g, g < 2 → (gateOf s g).staged = []) → t.mem = s.mem
  runs   : ∀ u, timeRuns t u = timeRuns (nextCycle s) u
  teams  : ∀ k, (teamOf t k).map Team.untiered = (teamOf s k).map (Team.untiered ∘ tickTeam (nextCycle s))

/-- The package with the cycle's count one on, its gates drained and its turns settled. -/
def atCount (s : State) : State :=
  let s1 := { drainGates s with cycle := s.cycle + 1, taking := true }
  s1.blocks.foldl settleTurn s1

/-- The same with time one on, before any step is due. -/
def afterTime (s : State) : State := demote (sliceTick (tickJoint (tickTeams (atCount s))))

/-- The same, with the packets of the Band ring and the alignment's exchanges moved. -/
def moved (s : State) : State := alignTick (bandTick (addAgenda (afterTime s) (refreshDue (afterTime s))))

theorem startCycle_eq (s : State) :
    startCycle s = addAgenda (moved s) (acceptsDue (moved s) ++ unitsDue (moved s) ++ splitsDue (moved s)) := by
  unfold startCycle moved afterTime atCount drainGates
  simp only [List.foldl_cons, List.foldl_nil]

/-! ### What the steps after the count leave -/

theorem alignTick_only (s : State) : ∃ a b c, alignTick s = { s with timexDue := a, outbox := b, timexSent := c } := by
  unfold alignTick
  simp only
  generalize (decide (bits s.fabcfg 53 46 = devNum s) || decide (bits s.fabtstat 0 0 = 1)) = own
  split
  · cases own <;> exact ⟨_, _, _, rfl⟩
  · split
    · cases own <;> exact ⟨_, _, _, rfl⟩
    · cases own <;> exact ⟨_, _, _, rfl⟩

theorem bandTick_only (s : State) : ∃ a b c, bandTick s = { s with band := a, bandWait := b, agenda := c } := ⟨_, _, _, rfl⟩

/-- Teams that find each other by their keys, one cycle on. -/
theorem teamOf_ticked {t s c : State} (h : t.teams.map Team.untiered = (s.teams.map (tickTeam c)).map Team.untiered) (k : TeamKey) :
    (teamOf t k).map Team.untiered = (teamOf s k).map (Team.untiered ∘ tickTeam c) := by
  have hf := find_map_congr Team.untiered (fun u => decide (u.key = k)) h
  have hkey : ((fun u : Team => decide (u.key = k)) ∘ Team.untiered) ∘ tickTeam c = fun u => decide (u.key = k) :=
    funext fun u => congrArg (fun x => decide (x = k)) (tickTeam_key c u)
  rw [List.find?_map, hkey, Option.map_map] at hf
  exact hf

/-- The count is one on, and nothing that tells whose time runs has changed. -/
structure Counted (s t : State) : Prop where
  cycle   : t.cycle = s.cycle + 1
  taking  : t.taking = true
  tags    : t.tags = s.tags
  mem     : (∀ g, g < 2 → (gateOf s g).staged = []) → t.mem = s.mem
  teams   : t.teams = s.teams
  seats   : t.blocks.map seat = s.blocks.map seat
  thold   : t.thold = s.thold
  pwrgate : t.pwrgate = s.pwrgate

theorem atCount_spec (s : State) : Counted s (atCount s) := by
  obtain ⟨hteams, hblocks, htags, -, hthold, hpwr⟩ := drainGates_stands s
  have hmem := drainGates_mem s
  unfold atCount
  generalize drainGates s = d at *
  obtain ⟨bs, hset, hseat⟩ := settleTurns_seats d.blocks { d with cycle := s.cycle + 1, taking := true }
  simp only [hset]
  exact ⟨rfl, rfl, htags, hmem, hteams, hblocks ▸ hseat, hthold, hpwr⟩

theorem Counted.runs {s t : State} (h : Counted s t) (u : Team) : timeRuns t u = timeRuns (nextCycle s) u :=
  timeRuns_congr (s := nextCycle s) h.cycle h.seats h.thold h.pwrgate u

theorem Counted.tickTeam {s t : State} (h : Counted s t) : tickTeam t = tickTeam (nextCycle s) :=
  funext fun u => by
    unfold Machine.tickTeam
    rw [h.runs]

/-- Only time, its holders and the tiers of splits change after the count. -/
theorem afterTime_spec (s : State) : Begun s (afterTime s) := by
  have h := atCount_spec s
  unfold afterTime
  generalize atCount s = e at h
  obtain ⟨l, m, htier, hl⟩ := demote_tiers (sliceTick (tickJoint (tickTeams e)))
  rw [htier]
  refine ⟨h.cycle, h.taking, h.tags, h.mem, h.runs, teamOf_ticked ?_⟩
  have ht := h.tickTeam
  rw [← h.teams, ← ht]
  exact hl

theorem Begun.align {s t : State} (h : Begun s t) : Begun s (alignTick t) := by
  obtain ⟨a, b, c, ht⟩ := alignTick_only t
  rw [ht]
  exact ⟨h.cycle, h.taking, h.tags, h.mem, h.runs, h.teams⟩

theorem Begun.band {s t : State} (h : Begun s t) : Begun s (bandTick t) := by
  obtain ⟨a, b, c, ht⟩ := bandTick_only t
  rw [ht]
  exact ⟨h.cycle, h.taking, h.tags, h.mem, h.runs, h.teams⟩

theorem Begun.agenda {s t : State} (h : Begun s t) (l : List Event) : Begun s (addAgenda t l) :=
  ⟨h.cycle, h.taking, h.tags, h.mem, h.runs, h.teams⟩

theorem moved_spec (s : State) : Begun s (moved s) := ((afterTime_spec s).agenda _).band.align

/-! ### What a begun cycle shows -/

section Begun
variable {s t : State}

theorem Begun.none (h : Begun s t) {k : TeamKey} (hu : teamOf s k = none) : teamOf t k = none := by
  have hk := h.teams k
  rw [hu] at hk
  exact Option.map_eq_none_iff.mp hk

theorem Begun.team (h : Begun s t) {k : TeamKey} {u : Team} (hu : teamOf s k = some u) :
    ∃ v, teamOf t k = some v ∧ v.untiered = (tickTeam (nextCycle s) u).untiered := by
  have hk := h.teams k
  rw [hu] at hk
  exact Option.map_eq_some_iff.mp hk

theorem Begun.teamRegs (h : Begun s t) (k : TeamKey) : teamRegs t k = teamRegs s k := by
  unfold Machine.teamRegs
  cases hu : teamOf s k with
  | none => rw [h.none hu]
  | some u =>
    obtain ⟨v, hv, he⟩ := h.team hu
    have hr : v.regs = u.regs := (congrArg Team.regs he).trans (tickTeam_regs _ u)
    rw [hv, Option.map_some, hr, Option.map_some]

theorem Begun.flagAt (h : Begun s t) (r : SplitRef) (n : Nat) : flagAt t r n = flagAt s r n := by
  unfold Machine.flagAt
  cases hu : teamOf s r.team with
  | none => rw [h.none hu]
  | some u =>
    obtain ⟨v, hv, he⟩ := h.team hu
    have hi : v.inflight = u.inflight := (congrArg Team.inflight he).trans (tickTeam_inflight _ u)
    simp only [hv, flagSet, hi]

/-- A split whose time runs is one cycle on; its team's time runs in the new cycle too. -/
theorem Begun.split (h : Begun s t) {r : SplitRef} {u : Team} {sp : Split} (hu : teamOf s r.team = some u)
    (hsp : splitIn u r.high = some sp) (hr : timeRuns (nextCycle s) u = true) :
    ∃ v sp', teamOf t r.team = some v ∧ splitIn v r.high = some sp' ∧ timeRuns t v = true ∧ untiered sp' = untiered (tickSplit sp) := by
  obtain ⟨v, hv, he⟩ := h.team hu
  have hs := congrArg (splitIn · r.high) he
  simp only [splitIn_untiered, splitIn_tickTeam hr, hsp, Option.map_some] at hs
  obtain ⟨sp', hsp', hun⟩ := Option.map_eq_some_iff.mp hs
  refine ⟨v, sp', hv, hsp', ?_, hun⟩
  have hrun : ∀ w : Team, timeRuns t w.untiered = timeRuns t w := fun _ => rfl
  rw [← hrun v, he, hrun, tickTeam_runs, h.runs, hr]

end Begun

/-! ### The steps that time brings -/

theorem mem_splitsOf {u : Team} {b : Bool} {sp : Split} (h : splitIn u b = some sp) : (⟨u.key, b⟩, sp) ∈ splitsOf u := by
  unfold splitsOf
  cases b
  · have hl : u.low = some sp := h
    simp [hl]
  · have hh : u.high = some sp := h
    simp [hh]

/-- The timed events of a split whose time runs are due. -/
theorem mem_splitsDue {s : State} {r : SplitRef} {u : Team} {sp : Split} (hu : teamOf s r.team = some u) (hsp : splitIn u r.high = some sp)
    (hr : timeRuns s u = true) {e : Event} (he : e ∈ splitTimers s u (r, sp)) : e ∈ splitsDue s := by
  have hkey : u.key = r.team := by simpa using List.find?_some hu
  have hmem : u ∈ teamOrder s := (mem_sortBy _ u _).mpr (List.mem_filter.mpr ⟨List.mem_of_find?_eq_some hu, hr⟩)
  have hp : (r, sp) ∈ splitsOf u := by
    have := mem_splitsOf hsp
    rwa [hkey] at this
  unfold splitsDue
  exact List.mem_append_left _ (List.mem_append_right _ (List.mem_flatMap.mpr ⟨u, hmem, List.mem_flatMap.mpr ⟨(r, sp), hp, he⟩⟩))

theorem sleepExpire_mem (s : State) (u : Team) (r : SplitRef) (sp : Split) (h : sp.hold = .sleep 0) :
    Event.sleepExpire r ∈ splitTimers s u (r, sp) := by
  simp [splitTimers, h]

theorem waitTimeout_mem (s : State) (u : Team) (r : SplitRef) (sp : Split) (n : Nat) (h : sp.waited = some n) (hn : sp.limit ≤ n) :
    Event.waitTimeout r ∈ splitTimers s u (r, sp) := by
  simp [splitTimers, h, hn]

/-- ISSUE_CYCLE at the beginning of a cycle (R3, R423). -/
theorem startCycle_spec (s : State) :
    let t := startCycle s
    t.cycle = s.cycle + 1 ∧ t.taking = true ∧ (∀ k, teamRegs t k = teamRegs s k) ∧ (∀ r n, flagAt t r n = flagAt s r n) ∧ t.tags = s.tags ∧
    ((∀ g, g < 2 → (gateOf s g).staged = []) → t.mem = s.mem) ∧
    ∀ r u sp, teamOf s r.team = some u → splitIn u r.high = some sp → timeRuns (nextCycle s) u = true →
      ∃ sp', splitOf t r = some sp' ∧ sp'.regs = sp.regs ∧ sp'.waited = sp.waited.map (· + 1) ∧
        (∀ n, sp.hold = .sleep n → sp'.hold = .sleep (n - 1)) ∧ (sp.hold = .sleep 1 → Event.sleepExpire r ∈ t.agenda) ∧
        (∀ on n, sp.hold = .wait on → sp.waited = some n → sp.limit ≤ n + 1 → Event.waitTimeout r ∈ t.agenda) := by
  simp only
  rw [startCycle_eq]
  have h := moved_spec s
  generalize moved s = m at h
  refine ⟨h.cycle, h.taking, h.teamRegs, h.flagAt, h.tags, h.mem, fun r u sp hu hsp hr => ?_⟩
  obtain ⟨v, sp', hv, hsp', hrun, hun⟩ := h.split hu hsp hr
  have hhold : sp'.hold = (tickSplit sp).hold := eq_of_untiered Split.hold (fun _ => rfl) hun
  have hwaited : sp'.waited = sp.waited.map (· + 1) := eq_of_untiered Split.waited (fun _ => rfl) hun
  have hlimit : sp'.limit = sp.limit := eq_of_untiered (b := tickSplit sp) Split.limit (fun _ => rfl) hun
  have hsleep : ∀ n, sp.hold = .sleep n → sp'.hold = .sleep (n - 1) := fun n hn => by rw [hhold, tickSplit, hn]
  have hdue : ∀ e, e ∈ splitTimers m v (r, sp') → e ∈ m.agenda ++ (acceptsDue m ++ unitsDue m ++ splitsDue m) := fun e he =>
    List.mem_append_right _ (List.mem_append_right _ (mem_splitsDue hv hsp' hrun he))
  refine ⟨sp', ?_, eq_of_untiered (b := tickSplit sp) Split.regs (fun _ => rfl) hun, hwaited, hsleep, fun h1 => ?_, fun on n _ hn hl => ?_⟩
  · change (teamOf m r.team).bind _ = _
    rw [hv]
    exact hsp'
  · exact hdue _ (sleepExpire_mem m v r sp' (hsleep 1 h1))
  · exact hdue _ (waitTimeout_mem m v r sp' (n + 1) (by rw [hwaited, hn]; rfl) (by rw [hlimit]; exact hl))

/-! ### ISSUE_CYCLE -/

section Cycle
variable {s : State}

theorem issueCycle_frozen (h : frozen s = true) : issueCycle s = s := by
  unfold issueCycle
  rw [if_pos h]

theorem issueCycle_takes (h : frozen s = false) (ht : s.taking = true) : issueCycle s = takePipes s := by
  unfold issueCycle
  simp [h, ht]

theorem issueCycle_stops (h : frozen s = false) (ht : s.taking = false) (hs : stopNow s = true) :
    issueCycle s = addAgenda s [.packageStop] := by
  unfold issueCycle
  simp [h, ht, hs]

theorem issueCycle_starts (h : frozen s = false) (ht : s.taking = false) (hs : stopNow s = false) : issueCycle s = startCycle s := by
  unfold issueCycle
  simp [h, ht, hs]

end Cycle

theorem execIssueCycle_eq {s : State} (h : s.event = some .issueCycle) : exec .issueCycle s = .next (issueCycle { s with event := none }) := by
  change execIssueCycle s = _
  unfold execIssueCycle
  rw [h]

end Sys2Proof.Machine
end

section
/-! OPERATION_COMPLETE (O34, R230, R259, R260): the results land in distinct registers, and the operation's flag clears with it. -/
namespace Sys2Proof.Machine
open Sys2Proof.Forms

/-- What every step of a fold leaves, the fold leaves. -/
theorem foldl_keeps {σ α β : Type} (p : σ → β) (f : σ → α → σ) (h : ∀ s a, p (f s a) = p s) (l : List α) (s : σ) :
    p (l.foldl f s) = p s :=
  List.foldlRecOn (motive := fun u => p u = p s) l f rfl (fun u hu a _ => (h u a).trans hu)

/-! ### The writes of an operation -/

theorem restOf_putReg (t : Team) (w : RegWrite) : restOf (putReg t w) = restOf t := by
  unfold putReg
  split <;> rfl

@[simp] theorem putReg_key (t : Team) (w : RegWrite) : (putReg t w).key = t.key := by
  unfold putReg
  split <;> rfl

@[simp] theorem putReg_inflight (t : Team) (w : RegWrite) : (putReg t w).inflight = t.inflight := by
  unfold putReg
  split <;> rfl

/-- A write that lands changes the register that it names, and no other. -/
theorem teamReg_putReg (t : Team) (w : RegWrite) (n : RegName) (hw : w.code < 128 → w.lane < min 1024 (lanes t)) :
    teamReg (putReg t w) n = if w.name = n then w.val else teamReg t n := by
  by_cases hv : w.code < 128
  · have hl := hw hv
    have hp : putReg t w = putV t w.code (maskOf (w.lane + 1) (fun l => decide (l = w.lane))) (fun _ => w.val) := if_pos hv
    have hn : w.name = .v w.code w.lane := if_pos hv
    rw [hp, hn]
    cases n with
    | v v l =>
      by_cases h : l < 1024
      · simp only [teamReg, if_pos h, vReg_putV _ _ _ _ _ _ h, laneIn_maskOf, RegName.v.injEq]
        grind
      · simp only [teamReg, if_neg h, RegName.v.injEq]
        rw [if_neg (by omega)]
    | s n => rfl
    | p n l => rfl
  · have hp : putReg t w = putS t (w.code - 128) w.val := if_neg hv
    have hn : w.name = .s (w.code - 128) := if_neg hv
    rw [hp, hn]
    cases n with
    | s n => simp [teamReg, sReg_putS, eq_comm]
    | v v l => rfl
    | p n l => rfl

/-- The writes go to registers of the team's lanes. -/
def InLanes (t : Team) (l : List RegWrite) : Prop := ∀ w ∈ l, w.code < 128 → w.lane < min 1024 (lanes t)

theorem InLanes.putReg {t : Team} {w : RegWrite} {l : List RegWrite} (h : InLanes t (w :: l)) : InLanes (putReg t w) l := by
  intro x hx
  rw [restOf_lanes (restOf_putReg t w)]
  exact h x (List.mem_cons_of_mem w hx)

/-- A register that no write names stays. -/
theorem teamReg_putRegs_other (l : List RegWrite) (n : RegName) (hn : ∀ w ∈ l, w.name ≠ n) :
    ∀ t, InLanes t l → teamReg (l.foldl putReg t) n = teamReg t n := by
  induction l with
  | nil => intro t _; rfl
  | cons w l ih =>
    intro t h
    rw [List.foldl_cons, ih (fun x hx => hn x (List.mem_cons_of_mem w hx)) _ h.putReg, teamReg_putReg _ _ _ (h w List.mem_cons_self),
      if_neg (hn w List.mem_cons_self)]

/-- Of writes to distinct registers each one stands at the end. -/
theorem teamReg_putRegs (l : List RegWrite) (hd : l.Pairwise (fun a b => a.name ≠ b.name)) :
    ∀ t, InLanes t l → ∀ w ∈ l, teamReg (l.foldl putReg t) w.name = w.val := by
  induction l with
  | nil => intro t _ w hw; cases hw
  | cons x l ih =>
    intro t h w hw
    obtain ⟨hx, hl⟩ := List.pairwise_cons.mp hd
    rw [List.foldl_cons]
    rcases List.mem_cons.mp hw with rfl | hw
    · rw [teamReg_putRegs_other l _ (fun y hy => (hx y hy).symm) _ h.putReg, teamReg_putReg _ _ _ (h w List.mem_cons_self), if_pos rfl]
    · exact ih hl _ h.putReg w hw

theorem restOf_putRegs (l : List RegWrite) (t : Team) : restOf (l.foldl putReg t) = restOf t :=
  foldl_keeps restOf putReg restOf_putReg l t

theorem putRegs_inflight (l : List RegWrite) (t : Team) : (l.foldl putReg t).inflight = t.inflight :=
  foldl_keeps Team.inflight putReg putReg_inflight l t

theorem landWrites_whole (n : Nat) (e : InFlight) (t : Team) (he : e.lost = false) (hw : ∀ w ∈ e.writes, w.lost = false)
    (hs : e.spoilt = []) : landWrites n e t = e.writes.foldl putReg t := by
  unfold landWrites
  rw [hs, List.foldl_nil]
  refine List.foldl_ext _ _ t (fun u w h => ?_)
  simp [he, hw w h]

/-! ### The key of the team -/

theorem landWrites_key (n : Nat) (e : InFlight) (t : Team) : (landWrites n e t).key = t.key := by
  unfold landWrites
  refine (foldl_keeps Team.key _ ?_ e.spoilt _).trans (foldl_keeps Team.key _ ?_ e.writes t)
  · intro t v
    rfl
  · intro t w
    exact putReg_key t _

/-! ### Flags that clear -/

/-- The step of `clearFlags` for one operation that is done and asks for no trap. -/
def clearOne (t : Team) (e : InFlight) : Team :=
  { t with low := t.low.map (flagClears e false), high := t.high.map (flagClears e true)
           traps := match e.trap with
             | some q => if (splitIn t q.high).isSome then insertTrap q t.traps else t.traps
             | none => t.traps }

/-- The operations of a team whose flags clear. -/
def overOf (t : Team) : List InFlight := t.inflight.filter (flagOver t.inflight)

theorem clearFlags_eq (t : Team) :
    clearFlags t = (overOf t).foldl clearOne { t with inflight := t.inflight.filter (fun e => !flagOver t.inflight e) } := rfl

theorem clearOnes_key (l : List InFlight) (t : Team) : (l.foldl clearOne t).key = t.key :=
  foldl_keeps Team.key clearOne (fun _ _ => rfl) l t

theorem clearOnes_inflight (l : List InFlight) (t : Team) : (l.foldl clearOne t).inflight = t.inflight :=
  foldl_keeps Team.inflight clearOne (fun _ _ => rfl) l t

theorem clearOnes_reg (l : List InFlight) (t : Team) (n : RegName) : teamReg (l.foldl clearOne t) n = teamReg t n :=
  foldl_keeps (teamReg · n) clearOne (fun _ _ => by cases n <;> rfl) l t

theorem clearFlags_key (t : Team) : (clearFlags t).key = t.key := clearOnes_key _ _

theorem clearFlags_inflight (t : Team) : (clearFlags t).inflight = t.inflight.filter (fun e => !flagOver t.inflight e) :=
  clearOnes_inflight _ _

theorem clearFlags_reg (t : Team) (n : RegName) : teamReg (clearFlags t) n = teamReg t n :=
  (clearOnes_reg _ _ n).trans (by cases n <;> rfl)

/-- Exceptions that have been gathered are gathered once (R230). -/
theorem orXF_orXF (m : Word) (x : BitVec 5) : orXF (orXF m x) x = orXF m x := by
  unfold orXF
  rw [BitVec.or_assoc, BitVec.or_self]

/-- MODE of a split where an operation's flag clears. -/
def modeAfter (e : InFlight) (high : Bool) (m : Word) : Word := if (if high then e.high else e.low) then orXF m e.xf else m

theorem modeAfter_twice (e : InFlight) (high : Bool) (m : Word) : modeAfter e high (modeAfter e high m) = modeAfter e high m := by
  unfold modeAfter
  generalize (if high = true then e.high else e.low) = b
  cases b
  · rfl
  · exact orXF_orXF m e.xf

theorem flagClears_mode (e : InFlight) (high : Bool) (sp : Split) : (flagClears e high sp).mode = modeAfter e high sp.mode := by
  unfold flagClears modeAfter
  generalize (if high = true then e.high else e.low) = b
  cases b <;> rfl

theorem clearOne_mode (t : Team) (e : InFlight) (high : Bool) :
    (splitIn (clearOne t e) high).map (·.mode) = ((splitIn t high).map (·.mode)).map (modeAfter e high) := by
  have hs : splitIn (clearOne t e) high = (splitIn t high).map (flagClears e high) := by cases high <;> rfl
  rw [hs, Option.map_map, Option.map_map]
  exact congrArg (Option.map · _) (funext (flagClears_mode e high))

/-- Copies of one operation gather its exceptions once. -/
theorem clearOnes_mode (e : InFlight) (high : Bool) (l : List InFlight) (hl : l ≠ []) (he : ∀ f ∈ l, f = e) :
    ∀ t, (splitIn (l.foldl clearOne t) high).map (·.mode) = ((splitIn t high).map (·.mode)).map (modeAfter e high) := by
  induction l with
  | nil => exact absurd rfl hl
  | cons f l ih =>
    intro t
    obtain rfl := he f List.mem_cons_self
    rw [List.foldl_cons]
    by_cases h : l = []
    · rw [h, List.foldl_nil, clearOne_mode]
    · rw [ih h (fun g hg => he g (List.mem_cons_of_mem f hg)), clearOne_mode, Option.map_map]
      exact congrArg (fun g => Option.map g _) (funext (modeAfter_twice f high))

/-! ### The team after the completion -/

/-- The operations with one id are done. -/
def markDone (op : Nat) (f : InFlight) : InFlight := if f.id = op then { f with state := .done } else f

/-- A team whose operation completes, before its flags are looked at. -/
def landedTeam (n op : Nat) (e : InFlight) (wv : List Nat) (t : Team) : Team :=
  let t1 := noteLanded e (landWrites n e t)
  { t1 with wroteV := (t1.wroteV ++ wv).eraseDups, inflight := t1.inflight.map (markDone op) }

theorem operationComplete_eq (k : TeamKey) (op : Nat) (s : State) (u : Team) (e : InFlight) (hu : teamOf s k = some u)
    (he : u.inflight.find? (fun f => decide (f.id = op) && decide (f.state = .ready)) = some e) :
    ∃ l, operationComplete k op s =
      addAgenda (updTeam { s with fresh := s.fresh + 1 } k (fun t => clearFlags (landedTeam s.fresh op e u.wroteV t))) l := by
  unfold operationComplete
  rw [hu]
  simp only [he]
  exact ⟨_, rfl⟩

theorem operationComplete_team (k : TeamKey) (op : Nat) (s : State) (u : Team) (e : InFlight) (hu : teamOf s k = some u)
    (he : u.inflight.find? (fun f => decide (f.id = op) && decide (f.state = .ready)) = some e) :
    (operationComplete k op s).mem = s.mem ∧
    teamOf (operationComplete k op s) k = some (clearFlags (landedTeam s.fresh op e u.wroteV u)) := by
  obtain ⟨l, hl⟩ := operationComplete_eq k op s u e hu he
  rw [hl]
  refine ⟨rfl, ?_⟩
  have hk := teamOf_updTeam { s with fresh := s.fresh + 1 } k (fun t => clearFlags (landedTeam s.fresh op e u.wroteV t)) k
    (fun t => (clearFlags_key _).trans (landWrites_key _ e t))
  rw [if_pos rfl] at hk
  exact hk.trans (congrArg (Option.map _) hu)

theorem landedTeam_reg (n op : Nat) (e : InFlight) (wv : List Nat) (t : Team) (r : RegName) :
    teamReg (landedTeam n op e wv t) r = teamReg (landWrites n e t) r := by cases r <;> rfl

theorem landedTeam_inflight (n op : Nat) (e : InFlight) (wv : List Nat) (t : Team) (h : landWrites n e t = e.writes.foldl putReg t) :
    (landedTeam n op e wv t).inflight = t.inflight.map (markDone op) := by
  change (landWrites n e t).inflight.map (markDone op) = _
  rw [h, putRegs_inflight]

theorem noteLanded_mode (e : InFlight) (t : Team) (high : Bool) :
    (splitIn (noteLanded e t) high).map (·.mode) = (splitIn t high).map (·.mode) := by
  unfold noteLanded splitIn
  cases high
  · simp only [Bool.false_eq_true, if_false]; split
    · rw [Option.map_map]; rfl
    · rfl
  · simp only [if_true]; split
    · rw [Option.map_map]; rfl
    · rfl

theorem landedTeam_mode (n op : Nat) (e : InFlight) (wv : List Nat) (t : Team) (high : Bool)
    (h : landWrites n e t = e.writes.foldl putReg t) :
    (splitIn (landedTeam n op e wv t) high).map (·.mode) = (splitIn t high).map (·.mode) := by
  have hr : restOf (landWrites n e t) = restOf t := h ▸ restOf_putRegs e.writes t
  calc (splitIn (landedTeam n op e wv t) high).map (·.mode)
      = (splitIn (noteLanded e (landWrites n e t)) high).map (·.mode) := by cases high <;> rfl
    _ = (splitIn (landWrites n e t) high).map (·.mode) := noteLanded_mode e _ high
    _ = (splitIn (restOf (landWrites n e t)) high).map (·.mode) := by cases high <;> rfl
    _ = (splitIn t high).map (·.mode) := by rw [hr]; cases high <;> rfl

/-! ### Which flags stay -/

section Flags
variable {op : Nat} {l : List InFlight} {e : InFlight}

/-- An operation that is done is the one that completes. -/
theorem eq_of_flagOver (hl : ∀ f ∈ l, f.state ≠ .done ∧ (f.id = op → f = e)) {g : InFlight} (hg : g ∈ l.map (markDone op))
    (ho : flagOver (l.map (markDone op)) g = true) :
    g = { e with state := .done } := by
  obtain ⟨f, hf, rfl⟩ := List.mem_map.mp hg
  obtain ⟨hd, hid⟩ := hl f hf
  unfold flagOver at ho
  unfold markDone at ho ⊢
  by_cases h : f.id = op
  · obtain rfl := hid h
    exact if_pos h
  · simp [if_neg h, hd] at ho

/-- Where no other operation shares its flag, the operation's flag clears. -/
theorem flagOver_done (hs : ∀ f ∈ l, f.id ≠ op → sharesFlag e f = false) :
    flagOver (l.map (markDone op)) { e with state := .done } = true := by
  unfold flagOver
  simp only [decide_true, Bool.true_and, Bool.not_eq_true', List.any_eq_false]
  intro g hg
  obtain ⟨f, hf, rfl⟩ := List.mem_map.mp hg
  unfold markDone
  by_cases h : f.id = op
  · simp [h]
  · rw [if_neg h]
    have := hs f hf h
    simpa [sharesFlag] using fun _ => this

end Flags

/-- The operations that stay in flight after a completion: those whose flag is not over. -/
def leftOver (op : Nat) (l : List InFlight) : List InFlight := (l.map (markDone op)).filter (fun g => !flagOver (l.map (markDone op)) g)

section Left
variable {op : Nat} {l : List InFlight} {e : InFlight}

theorem mem_leftOver {g : InFlight} :
    g ∈ leftOver op l ↔ (∃ f ∈ l, markDone op f = g) ∧ flagOver (l.map (markDone op)) g = false := by
  simp [leftOver]

@[simp] theorem markDone_flag (f : InFlight) : (markDone op f).flag = f.flag := by unfold markDone; split <;> rfl
@[simp] theorem markDone_low (f : InFlight) : (markDone op f).low = f.low := by unfold markDone; split <;> rfl
@[simp] theorem markDone_high (f : InFlight) : (markDone op f).high = f.high := by unfold markDone; split <;> rfl

/-- An operation of another flag, or of a split that the completed one has no flag in, stays in flight. -/
theorem any_leftOver (hl : ∀ f ∈ l, f.state ≠ .done ∧ (f.id = op → f = e)) (b : Bool) (n : Nat)
    (hn : n = e.flag → (if b then e.high else e.low) = false) :
    (leftOver op l).any (fun f => decide (f.flag = n) && (if b then f.high else f.low)) =
      l.any (fun f => decide (f.flag = n) && (if b then f.high else f.low)) := by
  rw [Bool.eq_iff_iff, List.any_eq_true, List.any_eq_true]
  constructor
  · rintro ⟨g, hg, hp⟩
    obtain ⟨⟨f, hf, rfl⟩, -⟩ := mem_leftOver.mp hg
    exact ⟨f, hf, by simpa using hp⟩
  · rintro ⟨f, hf, hp⟩
    refine ⟨markDone op f, mem_leftOver.mpr ⟨⟨f, hf, rfl⟩, ?_⟩, by simpa using hp⟩
    by_contra ho
    have hd := (eq_of_flagOver hl (List.mem_map_of_mem hf) (by simpa using ho))
    have hflag : f.flag = e.flag := by rw [← markDone_flag (op := op), hd]
    have hlow : f.low = e.low := by rw [← markDone_low (op := op), hd]
    have hhigh : f.high = e.high := by rw [← markDone_high (op := op), hd]
    rw [hflag, hlow, hhigh, Bool.and_eq_true, decide_eq_true_eq] at hp
    rw [hn hp.1.symm] at hp
    exact absurd hp.2 (by decide)

/-- No operation left holds the completed one's flag in a split where no other shares it. -/
theorem not_any_leftOver (hl : ∀ f ∈ l, f.state ≠ .done ∧ (f.id = op → f = e)) 
    (hs : ∀ f ∈ l, f.id ≠ op → sharesFlag e f = false) (b : Bool) (hb : (if b then e.high else e.low) = true) :
    (leftOver op l).any (fun f => decide (f.flag = e.flag) && (if b then f.high else f.low)) = false := by
  rw [List.any_eq_false]
  intro g hg hp
  obtain ⟨⟨f, hf, rfl⟩, ho⟩ := mem_leftOver.mp hg
  by_cases h : f.id = op
  · obtain rfl := (hl f hf).2 h
    have hd : markDone op f = { f with state := .done } := if_pos h
    rw [hd, flagOver_done hs] at ho
    cases ho
  · have hsh := hs f hf h
    simp only [markDone_flag, markDone_low, markDone_high, Bool.and_eq_true, decide_eq_true_eq] at hp
    obtain ⟨hflag, hsel⟩ := hp
    cases b <;> simp_all [sharesFlag]

end Left

theorem clearFlags_mode (t : Team) (e : InFlight) (high : Bool) (hne : overOf t ≠ []) (he : ∀ f ∈ overOf t, f = e) :
    (splitIn (clearFlags t) high).map (·.mode) = ((splitIn t high).map (·.mode)).map (modeAfter e high) := by
  rw [clearFlags_eq, clearOnes_mode e high _ hne he]
  cases high <;> rfl

theorem flagAt_of_team {s : State} {k : TeamKey} {u : Team} (hu : teamOf s k = some u) (b : Bool) (n : Nat) :
    flagAt s ⟨k, b⟩ n = u.inflight.any (fun f => decide (f.flag = n) && (if b then f.high else f.low)) := by
  unfold flagAt
  simp only [hu]
  rfl

/-- A completion (R230, R259, R260): the results stand in their registers, and the flag clears where no other operation holds it. -/
theorem operationComplete_spec (s : State) (k : TeamKey) (op : Nat) (u : Team) (e : InFlight) (hu : teamOf s k = some u)
    (he : u.inflight.find? (fun f => decide (f.id = op) && decide (f.state = .ready)) = some e) (hlost : e.lost = false)
    (hw : ∀ w ∈ e.writes, w.lost = false) (hsp : e.spoilt = []) (hd : Distinct u e.writes)
    (hl : ∀ f ∈ u.inflight, f.state ≠ .done ∧ (f.id = op → f = e)) :
    let t := operationComplete k op s
    t.mem = s.mem ∧
    (∀ w ∈ e.writes, regAt t k w.name = w.val) ∧ (∀ n, (∀ w ∈ e.writes, w.name ≠ n) → regAt t k n = regAt s k n) ∧
    (∀ b n, n ≠ e.flag → flagAt t ⟨k, b⟩ n = flagAt s ⟨k, b⟩ n) ∧
    ((∀ f ∈ u.inflight, f.id ≠ op → sharesFlag e f = false) →
      (∀ b, flagAt t ⟨k, b⟩ e.flag = (!(if b then e.high else e.low) && flagAt s ⟨k, b⟩ e.flag)) ∧
      ∀ b, (splitOf t ⟨k, b⟩).map (·.mode) =
        (splitOf s ⟨k, b⟩).map (fun sp => if (if b then e.high else e.low) then orXF sp.mode e.xf else sp.mode)) := by
  intro t
  obtain ⟨hdist, hin⟩ := hd
  have hlanes : InLanes u e.writes := fun w h => (hin w h).2
  have hland := landWrites_whole s.fresh e u hlost hw hsp
  obtain ⟨hmem, ht⟩ := operationComplete_team k op s u e hu he
  have hid : e.id = op := by
    have h := List.find?_some he
    rw [Bool.and_eq_true] at h
    exact of_decide_eq_true h.1
  have hinf : (landedTeam s.fresh op e u.wroteV u).inflight = u.inflight.map (markDone op) := landedTeam_inflight _ _ _ _ _ hland
  have hleft : (clearFlags (landedTeam s.fresh op e u.wroteV u)).inflight = leftOver op u.inflight := by
    rw [clearFlags_inflight, hinf]; rfl
  have hreg : ∀ n, regAt t k n = teamReg (e.writes.foldl putReg u) n := fun n => by
    rw [regAt_eq t k _ n ht, clearFlags_reg, landedTeam_reg, hland]
  have hflag : ∀ b n, flagAt t ⟨k, b⟩ n = (leftOver op u.inflight).any (fun f => decide (f.flag = n) && (if b then f.high else f.low)) :=
    fun b n => by rw [flagAt_of_team ht, hleft]
  refine ⟨hmem, fun w h => ?_, fun n h => ?_, fun b n h => ?_, fun hs => ⟨fun b => ?_, fun b => ?_⟩⟩
  · rw [hreg, teamReg_putRegs e.writes hdist u hlanes w h]
  · rw [hreg, teamReg_putRegs_other e.writes n h u hlanes, regAt_eq s k u n hu]
  · rw [hflag, flagAt_of_team hu, any_leftOver hl b n (fun hn => absurd hn h)]
  · rw [hflag, flagAt_of_team hu]
    cases hb : (if b then e.high else e.low) with
    | false => rw [any_leftOver hl b _ (fun _ => hb)]; rfl
    | true => rw [not_any_leftOver hl hs b hb]; rfl
  · have hmem : e ∈ u.inflight := List.mem_of_find?_eq_some he
    have hover : overOf (landedTeam s.fresh op e u.wroteV u) = (u.inflight.map (markDone op)).filter (flagOver (u.inflight.map (markDone op))) := by
      unfold overOf; rw [hinf]
    have hone : { e with state := .done } ∈ overOf (landedTeam s.fresh op e u.wroteV u) := by
      rw [hover]
      exact List.mem_filter.mpr ⟨List.mem_map.mpr ⟨e, hmem, if_pos hid⟩, flagOver_done hs⟩
    have hall : ∀ f ∈ overOf (landedTeam s.fresh op e u.wroteV u), f = { e with state := .done } := by
      rw [hover]
      exact fun f hf => (eq_of_flagOver hl (List.mem_filter.mp hf).1 (List.mem_filter.mp hf).2)
    unfold splitOf
    rw [ht, hu]
    change (splitIn (clearFlags _) b).map _ = (splitIn u b).map _
    rw [clearFlags_mode _ _ b (List.ne_nil_of_mem hone) hall, landedTeam_mode _ _ _ _ _ _ hland, Option.map_map]
    rfl

theorem execOperationComplete_eq {s : State} {k : TeamKey} {op : Nat} (h : s.event = some (.operationComplete k op)) :
    exec .operationComplete s = .next (operationComplete k op { s with event := none }) := by
  change execOperationComplete s = _
  unfold execOperationComplete
  rw [h]

end Sys2Proof.Machine
end

section
/-! THE STEPS OF A CYCLE (O34). -/
namespace Sys2Proof.Machine

/-- Settles O34: a cycle's beginning by what its drains, settled turns, timers and demotions leave; the pipes by what each partition
takes; CLAUSE_FETCH and OPERATION_COMPLETE by their branches. -/
theorem cycleSteps : Obligations.CycleSteps := by
  intro s
  refine ⟨fun he => ⟨fun hf => ?_, fun hf ht hs => ?_, fun hf ht hs => ?_, fun hf ht => ?_⟩, fun r u sp he hu hsp hc s1 h h1 => ?_,
    fun k op u e he hu hfind hlost hw hsp _ hd hl => ?_⟩
  · rw [execIssueCycle_eq he, issueCycle_frozen (s := { s with event := none }) hf]
  · rw [execIssueCycle_eq he, issueCycle_stops (s := { s with event := none }) hf ht hs]
    rfl
  · rw [execIssueCycle_eq he, issueCycle_starts (s := { s with event := none }) hf ht hs]
    exact ⟨_, rfl, startCycle_spec { s with event := none }⟩
  · rw [execIssueCycle_eq he, issueCycle_takes (s := { s with event := none }) hf ht]
    obtain ⟨hcycle, htaking, hmem⟩ := takePipes_spec { s with event := none }
    exact ⟨_, rfl, hcycle, htaking, hmem, takePipes_one { s with event := none }, takePipes_none { s with event := none }⟩
  · rw [execClauseFetch_eq he]
    obtain ⟨hbad, hgood⟩ := clauseFetch_spec { s with event := none } r u sp hu hsp hc s1 h h1
    refine ⟨fun hb => ⟨_, rfl, hbad hb⟩, fun s2 ws hb h2 => ?_⟩
    obtain ⟨hforms, hwaits, hstarts⟩ := hgood s2 ws hb h2
    refine ⟨fun hf => ⟨_, rfl, hforms hf⟩, fun hf hw => ⟨_, rfl, hwaits hf hw⟩, fun hf hw hpos => ?_⟩
    obtain ⟨c, hclause⟩ := hstarts hf hw hpos
    exact ⟨_, c, rfl, hclause⟩
  · rw [execOperationComplete_eq he]
    exact ⟨_, rfl, operationComplete_spec { s with event := none } k op u e hu hfind hlost hw hsp hd hl⟩

end Sys2Proof.Machine
end

section
/-! FRAMES AND FIELDS OF STEPS OF UNITS. Fields of words under masks, and what the steps of units leave of teams, registers and flags. -/
namespace Sys2Proof.Machine
open Sys2Proof.Forms

/-! ### Fields of words -/

theorem testBit_bits {n : Nat} (w : BitVec n) (hi lo i : Nat) :
    (bits w hi lo).testBit i = (decide (i < hi + 1 - lo) && w.getLsbD (lo + i)) := by
  rw [bits, Nat.testBit_mod_two_pow, Nat.testBit_shiftRight, BitVec.getLsbD]

theorem bits_lt {n : Nat} (w : BitVec n) (hi lo : Nat) : bits w hi lo < 2 ^ (hi + 1 - lo) := Nat.mod_lt _ (Nat.two_pow_pos _)

theorem bits_or {n : Nat} (v w : BitVec n) (hi lo : Nat) : bits (v ||| w) hi lo = bits v hi lo ||| bits w hi lo := by
  refine Nat.eq_of_testBit_eq fun i => ?_
  rw [Nat.testBit_or, testBit_bits, testBit_bits, testBit_bits, BitVec.getLsbD_or, Bool.and_or_distrib_left]

theorem bits_and {n : Nat} (v w : BitVec n) (hi lo : Nat) : bits (v &&& w) hi lo = bits v hi lo &&& bits w hi lo := by
  refine Nat.eq_of_testBit_eq fun i => ?_
  rw [Nat.testBit_and, testBit_bits, testBit_bits, testBit_bits, BitVec.getLsbD_and]
  cases decide (i < hi + 1 - lo) <;> rfl

/-- A mask that is all ones in a field keeps the field. -/
theorem bits_and_ones {n : Nat} (v : BitVec n) {m : BitVec n} {hi lo : Nat} (h : bits m hi lo = 2 ^ (hi + 1 - lo) - 1) :
    bits (v &&& m) hi lo = bits v hi lo := by
  rw [bits_and, h, Nat.and_two_pow_sub_one_eq_mod, Nat.mod_eq_of_lt (bits_lt v hi lo)]

/-- A mask that is zero in a field clears the field. -/
theorem bits_and_zero {n : Nat} (v : BitVec n) {m : BitVec n} {hi lo : Nat} (h : bits m hi lo = 0) : bits (v &&& m) hi lo = 0 := by
  rw [bits_and, h, Nat.and_zero]

/-! ### What a step that leaves the teams leaves -/

theorem SameRegs.of_teams {s t : State} (h : t.teams = s.teams) : SameRegs s t :=
  ⟨fun k => by rw [teamRegs, teamRegs, teamOf_congr h], fun r => by rw [splitRegs, splitRegs, splitOf_congr h]⟩

theorem flagAt_congr {s t : State} (h : t.teams = s.teams) (r : SplitRef) (n : Nat) : flagAt t r n = flagAt s r n := by
  rw [flagAt, flagAt, teamOf_congr h]

theorem Quiet.of_eq {s t : State} (hm : t.mem = s.mem) (hg : t.tags = s.tags) (hp : t.poison = s.poison) (ht : t.teams = s.teams) :
    Quiet s t := ⟨hm, hg, hp, .of_teams ht, flagAt_congr ht⟩

theorem SameRegs.trans {s t u : State} (h : SameRegs s t) (g : SameRegs t u) : SameRegs s u :=
  ⟨fun k => (g.teams k).trans (h.teams k), fun r => (g.splits r).trans (h.splits r)⟩

theorem Quiet.trans {s t u : State} (h : Quiet s t) (g : Quiet t u) : Quiet s u :=
  ⟨g.mem.trans h.mem, g.tags.trans h.tags, g.poison.trans h.poison, h.regs.trans g.regs, fun q k => (g.flags q k).trans (h.flags q k)⟩

/-- The step under way is nothing that a program sees. -/
theorem quiet_taken (s : State) : Quiet s { s with event := none } := .of_eq rfl rfl rfl rfl

theorem MemStep.of_quiet {s t u : State} {pa n : Nat} (h : Quiet s t) (g : MemStep t u pa n) : MemStep s u pa n :=
  ⟨fun a ha => (g.mem a ha).trans (by rw [readByte, readByte, h.mem]), h.regs.trans g.regs, fun q k => (g.flags q k).trans (h.flags q k)⟩

theorem MemStep.of_teams {s t : State} {pa n : Nat} (hm : ∀ a, (a < pa ∨ pa + n ≤ a) → readByte t a = readByte s a)
    (ht : t.teams = s.teams) : MemStep s t pa n := ⟨hm, .of_teams ht, flagAt_congr ht⟩

/-! ### A write to memory -/

theorem wakeLines_only (l : List Nat) (s : State) : ∃ c : List Watch × List Event, l.foldl wakeLine s = { s with watches := c.1, agenda := c.2 } :=
  foldl_only (fun s (c : List Watch × List Event) => { s with watches := c.1, agenda := c.2 }) (fun s => (s.watches, s.agenda)) (fun _ => rfl) (fun _ _ _ => rfl) _
    (fun s n => ⟨((wakeLine s n).watches, (wakeLine s n).agenda), rfl⟩) l s

/-- A write changes bytes, poison marks, watches with the steps of their splits, and lines of slices. -/
theorem writeMem_only (s : State) (pa n : Nat) (f : Nat → Byte) : ∃ w a l, writeMem s pa n f =
    { s with mem := mapPut memDefault s.mem pa n f, poison := clearPoison s pa n, watches := w, agenda := a, slices := l } := by
  unfold writeMem
  simp only
  generalize List.filter _ _ = hit
  obtain ⟨⟨w, a⟩, hw⟩ := wakeLines_only hit { s with mem := mapPut memDefault s.mem pa n f, poison := clearPoison s pa n }
  obtain ⟨l, hl⟩ := sliceWrite_only (hit.foldl wakeLine { s with mem := mapPut memDefault s.mem pa n f, poison := clearPoison s pa n }) pa n
  exact ⟨w, a, l, by rw [hl, hw]⟩

theorem writeMem_cores (s : State) (pa n : Nat) (f : Nat → Byte) : (writeMem s pa n f).cores = s.cores := by
  obtain ⟨_, _, _, h⟩ := writeMem_only s pa n f
  rw [h]

theorem writeMem_memStep (s : State) (pa n : Nat) (f : Nat → Byte) : MemStep s (writeMem s pa n f) pa n := by
  obtain ⟨_, _, _, h⟩ := writeMem_only s pa n f
  exact .of_teams (readByte_writeMem_other s pa n f) (by rw [h])

end Sys2Proof.Machine
end

section
/-! REGISTERS OF A CONTEXT (O48, R32, R36, R109, R405, R427, R436, R442, R449, R450, R457, R480 to R484, R504, R505): what a write
leaves in the entry, the fields that an enabled ring keeps, and the write-back of a counter. -/
namespace Sys2Proof.Machine
open Sys2Proof.Forms

/-! ### Writes to one entry -/

/-- An update of one context, made in a state that differs from `s` in no context and nothing that programs see. -/
theorem updCtx_written {s u : State} (hq : Quiet s u) (hc : u.ctxs = s.ctxs) (c : Nat) (f : Ctx → Ctx) :
    CtxWritten s (updCtx u c f) c (f (ctxOf s c)) := by
  have hctx : ∀ e, ctxOf u e = ctxOf s e := fun e => by rw [ctxOf, ctxOf, hc]
  refine ⟨⟨hq.mem, hq.tags, hq.poison, ⟨hq.regs.teams, hq.regs.splits⟩, hq.flags⟩, fun e => ?_⟩
  rw [ctxOf_updCtx, hctx, hctx]

theorem updCtx_taken_written (s : State) (c : Nat) (f : Ctx → Ctx) :
    CtxWritten s (updCtx { s with event := none } c f) c (f (ctxOf s c)) := updCtx_written (quiet_taken s) rfl c f

theorem CtxWritten.addAgenda {s t : State} {c : Nat} {x : Ctx} (h : CtxWritten s t c x) (l : List Event) :
    CtxWritten s (addAgenda t l) c x :=
  ⟨⟨h.mem, h.tags, h.poison, ⟨h.regs.teams, h.regs.splits⟩, h.flags⟩, h.ctxs⟩

/-- An update of one command queue of one context. -/
theorem updQueue_written {s u : State} (hq : Quiet s u) (hx : u.ctxs = s.ctxs) (c n : Nat) (f : Queue → Queue) :
    QueueWritten s (updQueue u c n f) c n (f (queueOf (ctxOf s c) n)) := by
  obtain ⟨hq, hc⟩ := updCtx_written hq hx c (fun x => { x with queues := mapSet Queue.reset x.queues n (f (queueOf x n)) })
  have hsame := hc c
  rw [if_pos rfl] at hsame
  refine ⟨hq, fun m => ?_, ?_, fun e he => (hc e).trans (if_neg he)⟩
  · change queueOf (ctxOf (updCtx _ c _) c) m = _
    rw [hsame, queueOf, mapGet_set]
    rfl
  · change { ctxOf (updCtx _ c _) c with queues := [] } = _
    rw [hsame]

theorem updQueue_taken_written (s : State) (c n : Nat) (f : Queue → Queue) :
    QueueWritten s (updQueue { s with event := none } c n f) c n (f (queueOf (ctxOf s c) n)) := updQueue_written (quiet_taken s) rfl c n f

theorem QueueWritten.addAgenda {s t : State} {c n : Nat} {q : Queue} (h : QueueWritten s t c n q) (l : List Event) :
    QueueWritten s (addAgenda t l) c n q :=
  ⟨⟨h.mem, h.tags, h.poison, ⟨h.regs.teams, h.regs.splits⟩, h.flags⟩, h.queues, h.kept, h.ctxs⟩

/-! ### Rings (R405, R427, R442) -/

theorem bits_bit_le {n : Nat} (w : BitVec n) (i : Nat) : bits w i i ≤ 1 := by
  have := bits_lt w i i
  rw [Nat.add_sub_cancel_left] at this
  omega

/-- EN of a ring register is kept by the mask of its map. -/
theorem ring_enable (v : BitVec 64) : bits (keep v ringMask) 63 63 = bits v 63 63 := bits_and_ones v (by decide)

/-- While one of the two values has EN = 0, a write takes the whole map. -/
theorem ringValue_whole (old v : BitVec 64) (fixed : Nat) (h : ¬ (bits old 63 63 = 1 ∧ bits v 63 63 = 1)) :
    ringValue old v fixed ringMask = keep v ringMask := if_neg h

theorem ringWhole_of_off {old v : BitVec 64} (h : bits old 63 63 = 0) : ¬ (bits old 63 63 = 1 ∧ bits v 63 63 = 1) := by omega

/-- A ring that stays enabled keeps the fields of `fixed`. -/
theorem ringValue_enabled (old v : BitVec 64) (fixed : Nat) (ho : bits old 63 63 = 1) (hv : bits v 63 63 = 1) :
    ringValue old v fixed ringMask = keep old fixed ||| (keep v ringMask &&& ~~~(BitVec.ofNat 64 fixed)) := if_pos ⟨ho, hv⟩

/-- BASE and size of an enabled service or fault ring stay; the reserved bits are clear. -/
theorem ringValue_fields (old v : BitVec 64) (ho : bits old 63 63 = 1) (hv : bits v 63 63 = 1) :
    bits (ringValue old v ringFixed ringMask) 51 0 = bits old 51 0 ∧ bits (ringValue old v ringFixed ringMask) 62 52 = 0 ∧
      bits (ringValue old v ringFixed ringMask) 63 63 = 1 := by
  rw [ringValue_enabled old v ringFixed ho hv]
  simp only [bits_or, keep]
  refine ⟨?_, ?_, ?_⟩
  · rw [bits_and_ones old (by decide), bits_and_zero (v &&& _) (by decide), Nat.or_zero]
  · rw [bits_and_zero old (by decide), bits_and_ones (v &&& _) (by decide), bits_and_zero v (by decide), Nat.or_zero]
  · rw [bits_and_zero old (by decide), bits_and_ones (v &&& _) (by decide), bits_and_ones v (by decide), hv, Nat.zero_or]

/-- BASE and LOGSZ of an enabled command queue stay, its priority is written; the reserved bits are clear. -/
theorem cqValue_fields (old v : BitVec 64) (ho : bits old 63 63 = 1) (hv : bits v 63 63 = 1) :
    bits (ringValue old v cqFixed ringMask) 47 0 = bits old 47 0 ∧ bits (ringValue old v cqFixed ringMask) 51 48 = bits v 51 48 ∧
      bits (ringValue old v cqFixed ringMask) 62 52 = 0 ∧ bits (ringValue old v cqFixed ringMask) 63 63 = 1 := by
  rw [ringValue_enabled old v cqFixed ho hv]
  simp only [bits_or, keep]
  refine ⟨?_, ?_, ?_, ?_⟩
  · rw [bits_and_ones old (by decide), bits_and_zero (v &&& _) (by decide), Nat.or_zero]
  · rw [bits_and_zero old (by decide), bits_and_ones (v &&& _) (by decide), bits_and_ones v (by decide), Nat.zero_or]
  · rw [bits_and_zero old (by decide), bits_and_ones (v &&& _) (by decide), bits_and_zero v (by decide), Nat.or_zero]
  · rw [bits_and_zero old (by decide), bits_and_ones (v &&& _) (by decide), bits_and_ones v (by decide), hv, Nat.zero_or]

/-! ### Command queues (R427) -/

section Queues
variable {s : State} {c n : Nat} {v : BitVec 64}

theorem execCqDoorbell_eq {tail : BitVec 32} (h : s.event = some (.cqDoorbell c n tail)) :
    exec .cqDoorbell s = .next (cqDoorbell c n tail { s with event := none }) := by
  change execCqDoorbell s = _
  rw [execCqDoorbell, h]

theorem execCqEnable_eq (h : s.event = some (.cqEnable c n v)) : exec .cqEnable s = .next (cqEnable c n v { s with event := none }) := by
  change execCqEnable s = _
  rw [execCqEnable, h]

/-- The bounds of a ring that a write enables (R427). -/
def goodRing (s : State) (c : Nat) (v : BitVec 64) : Prop :=
  bits v 47 44 ≤ 12 ∧ ringPlace s c (bits v 43 0 * 4096) (64 * 2 ^ bits v 47 44) = true

/-- The test of CQ_ENABLE is on the kept fields, which are those written. -/
theorem badRing_iff : (bits (keep v ringMask) 63 63 = 1 ∧ (12 < bits (keep v ringMask) 47 44 ∨
    ringPlace s c (bits (keep v ringMask) 43 0 * 4096) (64 * 2 ^ bits (keep v ringMask) 47 44) = false)) ↔
    (bits v 63 63 = 1 ∧ ¬ goodRing s c v) := by
  rw [ring_enable, show bits (keep v ringMask) 47 44 = bits v 47 44 from bits_and_ones v (by decide),
    show bits (keep v ringMask) 43 0 = bits v 43 0 from bits_and_ones v (by decide), goodRing]
  simp only [not_and_or, Bool.not_eq_true, Nat.not_le]

/-- A queue that is off stays so where the ring is bad. -/
theorem cqEnable_bad (u : State) (ho : bits (queueOf (ctxOf u c) n).cq 63 63 = 0) (hv : bits v 63 63 = 1) (hg : ¬ goodRing u c v) :
    cqEnable c n v u = u := by
  unfold cqEnable
  simp only [ringValue_whole _ v _ (ringWhole_of_off ho)]
  exact if_pos ⟨ho, badRing_iff.mpr ⟨hv, hg⟩⟩

theorem cqEnable_fresh (u : State) (ho : bits (queueOf (ctxOf u c) n).cq 63 63 = 0) (hv : bits v 63 63 = 1) (hg : goodRing u c v) :
    cqEnable c n v u = updQueue u c n (fun q => { q with cq := keep v ringMask, head := 0, tail := 0 }) := by
  unfold cqEnable
  simp only [ringValue_whole _ v _ (ringWhole_of_off ho)]
  rw [if_neg (fun h => (badRing_iff.mp h.2).2 hg), if_pos ⟨ho, (ring_enable v).trans hv⟩]

theorem cqEnable_off (u : State) (hv : bits v 63 63 ≠ 1) :
    cqEnable c n v u = updQueue u c n (fun q => { q with cq := keep v ringMask }) := by
  unfold cqEnable
  simp only [ringValue_whole _ v _ (fun h => hv h.2)]
  rw [if_neg (fun h => hv (badRing_iff.mp h.2).1), if_neg (fun h => hv ((ring_enable v).symm.trans h.2))]

theorem cqEnable_on (u : State) (ho : bits (queueOf (ctxOf u c) n).cq 63 63 = 1) :
    cqEnable c n v u = updQueue u c n (fun q => { q with cq := ringValue (queueOf (ctxOf u c) n).cq v cqFixed ringMask }) := by
  unfold cqEnable
  simp only [ho, Nat.one_ne_zero, false_and, if_false]

end Queues

/-! ### Service and fault rings (R405, R442) -/

section Rings
variable {s : State} {c : Nat} {v : BitVec 64}

theorem execSvcringWrite_eq (h : s.event = some (.svcringWrite c v)) :
    exec .svcringWrite s = .next (svcringWrite c v { s with event := none }) := by
  change execSvcringWrite s = _
  rw [execSvcringWrite, h]

theorem execFltringWrite_eq (h : s.event = some (.fltringWrite c v)) :
    exec .fltringWrite s = .next (fltringWrite c v { s with event := none }) := by
  change execFltringWrite s = _
  rw [execFltringWrite, h]

/-- What a write of SVCRING leaves: EN from 0 to 1 zeroes the pointers (R405). -/
def svcringLeft (v : BitVec 64) (x : Ctx) : Ctx :=
  if bits x.svcring 63 63 = 0 ∧ bits (ringValue x.svcring v ringFixed ringMask) 63 63 = 1 then
    { x with svcring := ringValue x.svcring v ringFixed ringMask, svchead := 0, svctail := 0, svcseq := 0 }
  else { x with svcring := ringValue x.svcring v ringFixed ringMask }

/-- What a write of FLTRING leaves: EN from 0 to 1 zeroes the pointers (R442). -/
def fltringLeft (v : BitVec 64) (x : Ctx) : Ctx :=
  if bits x.fltring 63 63 = 0 ∧ bits (ringValue x.fltring v ringFixed ringMask) 63 63 = 1 then
    { x with fltring := ringValue x.fltring v ringFixed ringMask, flthead := 0, flttail := 0, fltseq := 0 }
  else { x with fltring := ringValue x.fltring v ringFixed ringMask }

theorem svcringWrite_written : CtxWritten s (svcringWrite c v { s with event := none }) c (svcringLeft v (ctxOf s c)) :=
  updCtx_taken_written s c (svcringLeft v)

theorem fltringWrite_written : CtxWritten s (fltringWrite c v { s with event := none }) c (fltringLeft v (ctxOf s c)) :=
  updCtx_taken_written s c (fltringLeft v)

theorem svcringLeft_on (x : Ctx) (ho : bits x.svcring 63 63 = 0) (hv : bits v 63 63 = 1) :
    svcringLeft v x = { x with svcring := keep v ringMask, svchead := 0, svctail := 0, svcseq := 0 } := by
  rw [svcringLeft, ringValue_whole _ v _ (ringWhole_of_off ho), if_pos ⟨ho, (ring_enable v).trans hv⟩]

theorem svcringLeft_off (x : Ctx) (hv : bits v 63 63 ≠ 1) : svcringLeft v x = { x with svcring := keep v ringMask } := by
  rw [svcringLeft, ringValue_whole _ v _ (fun h => hv h.2), if_neg (fun h => hv ((ring_enable v).symm.trans h.2))]

theorem svcringLeft_stays (x : Ctx) (ho : bits x.svcring 63 63 = 1) :
    svcringLeft v x = { x with svcring := ringValue x.svcring v ringFixed ringMask } := by
  rw [svcringLeft, if_neg (fun h => absurd (ho.symm.trans h.1) Nat.one_ne_zero)]

theorem fltringLeft_on (x : Ctx) (ho : bits x.fltring 63 63 = 0) (hv : bits v 63 63 = 1) :
    fltringLeft v x = { x with fltring := keep v ringMask, flthead := 0, flttail := 0, fltseq := 0 } := by
  rw [fltringLeft, ringValue_whole _ v _ (ringWhole_of_off ho), if_pos ⟨ho, (ring_enable v).trans hv⟩]

theorem fltringLeft_off (x : Ctx) (hv : bits v 63 63 ≠ 1) : fltringLeft v x = { x with fltring := keep v ringMask } := by
  rw [fltringLeft, ringValue_whole _ v _ (fun h => hv h.2), if_neg (fun h => hv ((ring_enable v).symm.trans h.2))]

theorem fltringLeft_stays (x : Ctx) (ho : bits x.fltring 63 63 = 1) :
    fltringLeft v x = { x with fltring := ringValue x.fltring v ringFixed ringMask } := by
  rw [fltringLeft, if_neg (fun h => absurd (ho.symm.trans h.1) Nat.one_ne_zero)]

end Rings

/-! ### Translation and bank traces (R32, R36, R505) -/

section Single
variable {s : State} {c : Nat} {v : BitVec 64}

theorem execCtxtrWrite_eq (h : s.event = some (.ctxtrWrite c v)) :
    exec .ctxtrWrite s = .next (ctxtrWrite c v { s with event := none }) := by
  change execCtxtrWrite s = _
  rw [execCtxtrWrite, h]

theorem ctxtrWrite_written : CtxWritten s (ctxtrWrite c v { s with event := none }) c { ctxOf s c with ctxtr := v &&& 0xBFFF1FFFFFFFFFFF } := by
  unfold ctxtrWrite
  refine updCtx_written ?_ ?_ c _
  · exact .of_eq rfl rfl rfl rfl
  · rfl

theorem toNat_extract_asid (w : BitVec 64) : (w.extractLsb' 48 13).toNat = bits w 60 48 := BitVec.extractLsb'_toNat ..

/-- An ASID is stale after a write of CTXTR if it was, if the write disables the context that held it, or if it is written (R36). -/
theorem mem_ctxtrWrite_stale (u : State) (a : BitVec 13) :
    a ∈ (ctxtrWrite c v u).stale ↔ (a ∈ u.stale ∨ (bits (ctxOf u c).ctxtr 63 63 = 1 ∧ bits v 63 63 ≠ 1 ∧ a.toNat = bits (ctxOf u c).ctxtr 60 48) ∨
      (bits (ctxOf u c).ctxtr 60 48 ≠ bits v 60 48 ∧ a.toNat = bits v 60 48)) := by
  have hen : bits (keep v 0xBFFF1FFFFFFFFFFF) 63 63 = bits v 63 63 := bits_and_ones v (by decide)
  have hasid : bits (keep v 0xBFFF1FFFFFFFFFFF) 60 48 = bits v 60 48 := bits_and_ones v (by decide)
  have hle := bits_bit_le v 63
  have hone : bits v 63 63 ≠ 1 ↔ bits v 63 63 = 0 := by omega
  have hnum : ∀ w : BitVec 64, a = w.extractLsb' 48 13 ↔ a.toNat = bits w 60 48 := fun w => by
    rw [← toNat_extract_asid, BitVec.toNat_inj]
  unfold ctxtrWrite
  simp only [updCtx_stale, List.mem_eraseDups, List.mem_append, List.mem_ite_nil_right, List.mem_singleton, hen, hasid, hone, hnum, or_assoc,
    and_assoc]

theorem execTrcbcWrite_eq (h : s.event = some (.trcbcWrite c v)) :
    exec .trcbcWrite s = .next (trcbcWrite c v { s with event := none }) := by
  change execTrcbcWrite s = _
  rw [execTrcbcWrite, h]

end Single

/-! ### Registers without a step of their own (R480 to R482) -/

section Plain
variable {s : State} {c fn off r : Nat} {v : BitVec 64}

theorem execRegisterWrite_eq (h : s.event = some (.registerWrite fn off v)) :
    exec .registerWrite s = .next (registerWrite fn off v { s with event := none }) := by
  change execRegisterWrite s = _
  rw [execRegisterWrite, h]

/-- What a write to a plain register at an offset of the entry leaves. -/
def plainLeft (held : Bool) (r : Nat) (v : BitVec 64) (x : Ctx) : Ctx :=
  match r / 8 with
  | 0x01 => { x with ctxfab := (keep v 3).setWidth 32 }
  | 0x02 => { x with cmplpool := keep v 0x8FFFFFFFFFFFFFFF }
  | 0x03 => { x with ctxsched := keep v 0xFFFFFF }
  | 0x04 => { x with ctxpol := if held then keep v 7 ||| keep x.ctxpol 0xFFFF0000 else keep v 0xFFFF0007 }
  | 0x05 => { x with ctxsave := keep v 0x8FFFFFFFFFFFFFFF }
  | 0x06 => { x with waitlim := keep v 0xFFFFFFFFFFFF }
  | 0x07 => if held then x else { x with spbase := keep v 0xFFFFFFFFFFFFFF }
  | 0x08 => if held then x else { x with stkbase := keep v 0xFFFFFFFFFFFFFF }
  | 0x0A => { x with svctail := v.extractLsb' 32 32 }
  | 0x0D => { x with flttail := v.extractLsb' 32 32 }
  | 0x0F => { x with teamdisp := v }
  | 0x10 => { x with teamctl := keep v 0xFFFFFFFFF8 }
  | 0x11 => { x with trclc := keep v 0x9FFFFFFFFFFFFFFF }
  | 0x12 => { x with trclo := keep v 0xFFFFFFFFFFFFFF }
  | 0x15 => { x with ctxirq := keep v 0x80000001FFFFFFFF }
  | _ => x

theorem registerWrite_written (hfn : fn ≠ 4) (hat : ctxAt s fn off = some (c, r)) (hr : r < 0x100) :
    CtxWritten s (registerWrite fn off v { s with event := none }) c (plainLeft (hasBlock s c) r v (ctxOf s c)) := by
  have hat0 : ctxAt { s with event := none } fn off = some (c, r) := hat
  unfold registerWrite
  simp only [if_neg hfn, hat0, if_pos hr]
  exact (updCtx_taken_written s c (plainLeft (hasBlock s c) r v)).addAgenda _

end Plain

/-! ### The write-back of a lane-cycle counter (R504) -/

section Trace
variable {s : State} {core : Nat}

theorem execTraceCounterWriteback_eq (h : s.event = some (.traceCounterWriteback core)) :
    exec .traceCounterWriteback s = .next (traceCounterWriteback core { s with event := none }) := by
  change execTraceCounterWriteback s = _
  rw [execTraceCounterWriteback, h]

theorem traceCounterWriteback_nil (u : State) (h : (coreOf u core).lanecyc = []) : traceCounterWriteback core u = u := by
  rw [traceCounterWriteback, h]

theorem laneWriteback_off (u : State) (e : Nat × Nat × BitVec 64) (h : bits (ctxOf u e.1).trclc 63 63 = 0) : laneWriteback u e = u := if_pos h

theorem laneWriteback_on (u : State) (e : Nat × Nat × BitVec 64) (h : bits (ctxOf u e.1).trclc 63 63 = 1) :
    laneWriteback u e = writeNat u ((bits (ctxOf u e.1).trclc 43 0 * 4096 + 8 * e.2.1) % 2 ^ 48) 8
      ((readMem u ((bits (ctxOf u e.1).trclc 43 0 * 4096 + 8 * e.2.1) % 2 ^ 48) 8 + e.2.2.toNat) % 2 ^ 64) :=
  if_neg (by rw [h]; decide)

section Oldest
variable (u : State) {e i : Nat} {n : BitVec 64} {rest : List (Nat × Nat × BitVec 64)} (hl : (coreOf u core).lanecyc = (e, i, n) :: rest)
include hl

/-- The oldest counter of the core's cache leaves it, and goes back. -/
theorem traceCounterWriteback_cons :
    traceCounterWriteback core u = laneWriteback (updCore u core (fun k => { k with lanecyc := rest })) (e, i, n) := by
  rw [traceCounterWriteback, hl]

/-- Without EN the counter does not reach memory. -/
theorem traceCounterWriteback_off (h : bits (ctxOf u e).trclc 63 63 = 0) :
    Quiet u (traceCounterWriteback core u) ∧ (coreOf (traceCounterWriteback core u) core).lanecyc = rest := by
  rw [traceCounterWriteback_cons u hl, laneWriteback_off (updCore u core _) (e, i, n) h]
  exact ⟨.of_eq rfl rfl rfl rfl, by rw [coreOf_updCore, if_pos rfl]⟩

/-- With EN it is added to the counter in memory. -/
theorem traceCounterWriteback_on (h : bits (ctxOf u e).trclc 63 63 = 1) :
    let pa := (bits (ctxOf u e).trclc 43 0 * 4096 + 8 * i) % 2 ^ 48
    MemStep u (traceCounterWriteback core u) pa 8 ∧ (coreOf (traceCounterWriteback core u) core).lanecyc = rest ∧
      readMem (traceCounterWriteback core u) pa 8 = (readMem u pa 8 + n.toNat) % 2 ^ 64 := by
  intro pa
  rw [traceCounterWriteback_cons u hl, laneWriteback_on (updCore u core _) (e, i, n) h]
  refine ⟨?_, ?_, ?_⟩
  · exact .of_quiet (t := updCore u core (fun k => { k with lanecyc := rest })) (.of_eq rfl rfl rfl rfl) (writeMem_memStep _ pa 8 _)
  · rw [coreOf, writeNat, writeMem_cores]
    exact congrArg Core.lanecyc ((coreOf_updCore u core _ core).trans (if_pos rfl))
  · exact (readMem_writeNat _ pa 8 _).trans (Nat.mod_mod _ _)

end Oldest

end Trace

/-! ### The statement -/

/-- Settles O48: each register by what its write keeps of the value; the counter by the write-back to memory. -/
theorem contextRegisterSteps : Obligations.ContextRegisterSteps := by
  intro s c v
  refine ⟨fun n tail he => ?_, fun n he => ⟨fun ho hv hg => ?_, fun ho hv hg => ?_, fun hv => ?_, fun ho hv => ?_⟩,
    fun he => ⟨fun ho hv => ?_, fun hv => ?_, fun ho hv => ?_⟩, fun he => ⟨fun ho hv => ?_, fun hv => ?_, fun ho hv => ?_⟩,
    fun he => ?_, fun he => ?_, fun fn off r he hfn hat => ?_, fun off he => ?_, fun core he => ⟨fun hl => ?_, fun e i n rest hl => ⟨fun ht => ?_, fun ht => ?_⟩⟩⟩
  · exact ⟨_, execCqDoorbell_eq he, updQueue_taken_written s c n _⟩
  · rw [execCqEnable_eq he, cqEnable_bad { s with event := none } ho hv hg]
  · exact ⟨_, execCqEnable_eq he, by rw [cqEnable_fresh { s with event := none } ho hv hg]; exact updQueue_taken_written s c n _⟩
  · exact ⟨_, execCqEnable_eq he, by rw [cqEnable_off { s with event := none } hv]; exact updQueue_taken_written s c n _⟩
  · exact ⟨_, _, execCqEnable_eq he, by rw [cqEnable_on { s with event := none } ho]; exact updQueue_taken_written s c n _, cqValue_fields _ v ho hv⟩
  · exact ⟨_, execSvcringWrite_eq he, svcringLeft_on _ ho hv ▸ svcringWrite_written⟩
  · exact ⟨_, execSvcringWrite_eq he, svcringLeft_off _ hv ▸ svcringWrite_written⟩
  · exact ⟨_, ⟨_, execSvcringWrite_eq he, svcringLeft_stays (v := v) _ ho ▸ svcringWrite_written⟩, ringValue_fields _ v ho hv⟩
  · exact ⟨_, execFltringWrite_eq he, fltringLeft_on _ ho hv ▸ fltringWrite_written⟩
  · exact ⟨_, execFltringWrite_eq he, fltringLeft_off _ hv ▸ fltringWrite_written⟩
  · exact ⟨_, ⟨_, execFltringWrite_eq he, fltringLeft_stays (v := v) _ ho ▸ fltringWrite_written⟩, ringValue_fields _ v ho hv⟩
  · exact ⟨_, execCtxtrWrite_eq he, ctxtrWrite_written, mem_ctxtrWrite_stale _⟩
  · exact ⟨_, execTrcbcWrite_eq he, updCtx_taken_written s c _⟩
  · have hw : r < 0x100 → CtxWritten s _ c _ := registerWrite_written (v := v) hfn hat
    refine ⟨?_, ?_, ?_, ?_, ?_, ?_, ?_, ?_, ?_, ?_, ?_, ?_, ?_, ?_, ?_, ?_⟩
    case refine_4 =>
      rintro rfl hb
      have h := hw (by decide)
      rw [Bool.eq_false_iff.mpr hb] at h
      exact ⟨_, execRegisterWrite_eq he, h⟩
    case refine_5 =>
      rintro rfl hb
      have h := hw (by decide)
      rw [show hasBlock s c = true from hb] at h
      exact ⟨_, execRegisterWrite_eq he, h⟩
    all_goals
      rintro rfl
      exact ⟨_, execRegisterWrite_eq he, hw (by decide)⟩
  · refine ⟨?_, ?_, ?_, ?_, ?_, ?_, ?_⟩ <;> (rintro rfl; exact execRegisterWrite_eq he)
  · rw [execTraceCounterWriteback_eq he, traceCounterWriteback_nil { s with event := none } hl]
  · obtain ⟨hquiet, hrest⟩ := traceCounterWriteback_off { s with event := none } hl ht
    exact ⟨_, execTraceCounterWriteback_eq he, (quiet_taken s).trans hquiet, hrest⟩
  · obtain ⟨hmem, hrest, hsum⟩ := traceCounterWriteback_on { s with event := none } hl ht
    exact ⟨_, execTraceCounterWriteback_eq he, .of_quiet (quiet_taken s) hmem, hrest, hsum⟩

end Sys2Proof.Machine
end

section
/-! THE MANAGEMENT CONTROLLER (O49, R19, R72, R465, R466, R468, R469, R471, R485, R486): what a partition change lays out, clears and
drops, and how each request ends. -/
namespace Sys2Proof.Machine
open Sys2Proof.Forms

/-! ### Messages to the host (R484) -/

theorem interrupt_eq (s : State) (fn vector : Nat) : interrupt s fn vector = { s with hostOut := told s fn vector } := by
  unfold interrupt told
  by_cases h : HostOut.msix fn vector s.cycle ∈ s.hostOut
  · rw [if_pos h]
    exact if_pos (List.contains_iff_mem.mpr h)
  · rw [if_neg h]
    exact if_neg (fun hc => h (List.contains_iff_mem.mp hc))

theorem mem_told (s : State) (fn vector : Nat) : HostOut.msix fn vector s.cycle ∈ told s fn vector := by
  unfold told
  split
  · assumption
  · exact List.mem_append_right _ (List.mem_singleton_self _)

theorem mgmtInterrupt_eq (s : State) (vector : Nat) : mgmtInterrupt s vector = { s with hostOut := told s 4 vector } := interrupt_eq s 4 vector

/-! ### Firmware and attestation (R468, R470, R471, R486) -/

section Firmware
variable {s : State}

theorem execAttestationReport_eq {nonce : BitVec 256} {f : Nat} (h : s.event = some (.attestationReport nonce f)) :
    exec .attestationReport s = .next (attestationReport nonce f { s with event := none }) := by
  change execAttestationReport s = _
  rw [execAttestationReport, h]

theorem execFwcommit_eq {v : BitVec 32} (h : s.event = some (.fwcommit v)) : exec .fwcommit s = .next (fwcommit v { s with event := none }) := by
  change execFwcommit s = _
  rw [execFwcommit, h]

theorem execRecoveryWindowWrite_eq {off : Nat} {l : List Byte} (h : s.event = some (.recoveryWindowWrite off l)) :
    exec .recoveryWindowWrite s = .next (recoveryWindowWrite off l { s with event := none }) := by
  change execRecoveryWindowWrite s = _
  rw [execRecoveryWindowWrite, h]

theorem execRecoveryGo_eq (h : s.event = some .recoveryGo) : exec .recoveryGo s = .next (recoveryGo { s with event := none }) := by
  change execRecoveryGo s = _
  rw [execRecoveryGo, h]

/-- A report begins with the nonce (R468). -/
theorem take_reportBody (u : State) (nonce : BitVec 256) : (reportBody u nonce).take 32 = numBytes nonce.toNat 32 := by
  simp only [reportBody, List.append_assoc]
  exact List.take_left' (by simp [numBytes])

/-- FWSVN takes the low eight bits of a new value and leaves the rest of STARTSTAT (R471). -/
theorem withSvn_fields (w : Word) (v : Nat) :
    let x := (w &&& 0xFF00FFFF) ||| BitVec.ofNat 32 ((v % 256) <<< 16)
    bits x 23 16 = v % 256 ∧ bits x 15 0 = bits w 15 0 ∧ bits x 31 24 = bits w 31 24 := by
  intro x
  have hn : (BitVec.ofNat 32 ((v % 256) <<< 16)).toNat = v % 256 * 2 ^ 16 := by
    rw [BitVec.toNat_ofNat, Nat.shiftLeft_eq, Nat.mod_eq_of_lt (by omega)]
  have h1 : bits (BitVec.ofNat 32 ((v % 256) <<< 16)) 23 16 = v % 256 := by
    simp only [bits, hn, Nat.shiftRight_eq_div_pow]; omega
  have h2 : bits (BitVec.ofNat 32 ((v % 256) <<< 16)) 15 0 = 0 := by simp only [bits, hn, Nat.shiftRight_eq_div_pow]; omega
  have h3 : bits (BitVec.ofNat 32 ((v % 256) <<< 16)) 31 24 = 0 := by simp only [bits, hn, Nat.shiftRight_eq_div_pow]; omega
  simp only [x, bits_or, h1, h2, h3, Nat.or_zero]
  exact ⟨by rw [bits_and_zero w (by decide), Nat.zero_or], bits_and_ones w (by decide), bits_and_ones w (by decide)⟩

/-- The store takes the bytes of a window write that lie in its 32 MiB (R486). -/
theorem recoveryWindowWrite_open (u : State) (off : Nat) (l : List Byte) (h : bits u.recovctl 0 0 = 1) :
    ∃ m, recoveryWindowWrite off l u = { u with image := m } ∧
      ∀ k, mapGet 0 m k = if off ≤ k ∧ k < off + l.length ∧ k < 2 ^ 25 then l.getD (k - off) 0 else mapGet 0 u.image k := by
  refine ⟨_, if_pos h, fun k => ?_⟩
  rw [mapGet_put]
  by_cases hk : off ≤ k ∧ k < off + l.length ∧ k < 2 ^ 25
  · rw [if_pos hk, if_pos (by omega)]
  · rw [if_neg hk, if_neg (by omega)]

theorem imageFault_unsigned (u : State) (m : SMap Byte) (h : Config.imageSigned m = false) : imageFault u m = some 1 := by
  simp [imageFault, h]

theorem imageFault_old (u : State) (m : SMap Byte) (h : Config.imageSigned m = true)
    (hv : (Config.imageVersion m).toNat < bits u.startstat 23 16) : imageFault u m = some 2 := by
  simp [imageFault, h, fwsvn, hv]

theorem imageFault_none (u : State) (m : SMap Byte) (h : Config.imageSigned m = true)
    (hv : bits u.startstat 23 16 ≤ (Config.imageVersion m).toNat) : imageFault u m = none := by
  simp [imageFault, h, fwsvn, Nat.not_lt.mpr hv]

/-- The length of an image that RECOVERY_GO verifies. -/
def goodLength (n : Nat) : Prop := 0 < n ∧ n ≤ 2 ^ 25

theorem recoveryGo_length (u : State) (h : bits u.recovctl 57 32 = 0 ∨ 2 ^ 25 < bits u.recovctl 57 32) : recoveryGo u = recovEnd u 3 3 := if_pos h

theorem recoveryGo_refused (u : State) (c : Nat) (h : goodLength (bits u.recovctl 57 32))
    (hf : imageFault u (storedImage u (bits u.recovctl 57 32)) = some c) :
    recoveryGo u = recovEnd { u with imageLen := bits u.recovctl 57 32 } 3 c := by
  unfold recoveryGo
  obtain ⟨hpos, hmax⟩ := h
  simp only [hf]
  exact if_neg (by omega)

theorem recoveryGo_accepted (u : State) (h : goodLength (bits u.recovctl 57 32))
    (hf : imageFault u (storedImage u (bits u.recovctl 57 32)) = none) :
    recoveryGo u = recovEnd { u with
      imageLen := bits u.recovctl 57 32
      startstat := if bits u.startstat 2 0 = 4 then u.startstat &&& 0xFFFFFFFB else u.startstat } 2 0 := by
  unfold recoveryGo
  obtain ⟨hpos, hmax⟩ := h
  simp only [hf]
  rw [if_neg (by omega)]
  congr 1
  split <;> rfl

end Firmware

/-! ### The mailbox (R485) -/

section Mailbox
variable {s : State}

theorem execMailboxWrite_eq (h : s.event = some .mailboxWrite) : exec .mailboxWrite s = .next (mailboxWrite { s with event := none }) := by
  change execMailboxWrite s = _
  rw [execMailboxWrite, h]

theorem execMailboxRead_eq (h : s.event = some .mailboxRead) : exec .mailboxRead s = .next (mailboxRead { s with event := none }) := by
  change execMailboxRead s = _
  rw [execMailboxRead, h]

theorem logFlag_only (u : State) (bit : Nat) : ∃ a b, logFlag u bit = { u with logovf := a, hostOut := b } := by
  unfold logFlag
  simp only
  split
  · rw [mgmtInterrupt_eq]
    exact ⟨_, _, rfl⟩
  · exact ⟨u.logovf, u.hostOut, rfl⟩

/-- Logging changes a gate, the overflow bits and what the host is told. -/
theorem logRecords_only (g cyc : Nat) (l : List Byte) (u : State) :
    ∃ a b c, logRecords g cyc l u = { u with gates := a, logovf := b, hostOut := c } := by
  unfold logRecords
  simp only
  split
  · exact ⟨u.gates, u.logovf, u.hostOut, rfl⟩
  · split
    · obtain ⟨a, b, h⟩ := logFlag_only (updGate u g (fun x => { x with lost := BitVec.ofNat 64 cyc })) g
      exact ⟨_, a, b, h⟩
    · exact ⟨_, u.logovf, u.hostOut, rfl⟩

/-- A stamped arrival stands in its gate's queue, with the stamp that it was given (R489, R490). -/
theorem stampIt_spec (g : Nat) (ph : Bool) (a : Arrival) (u : State) :
    (∃ b c d, stampIt g ph a u = { u with gates := b, logovf := c, hostOut := d }) ∧ ∃ x ∈ (gateOf (stampIt g ph a u) g).queue, x.arr = a := by
  unfold stampIt
  simp only
  constructor
  · obtain ⟨b, c, d, h⟩ := logRecords_only g (stampSlot (gateOf u g).queue a ((gateOf u g).queue.length + 1) u.cycle ph).1.toNat
      (records (stampSlot (gateOf u g).queue a ((gateOf u g).queue.length + 1) u.cycle ph).1.toNat
        (stampSlot (gateOf u g).queue a ((gateOf u g).queue.length + 1) u.cycle ph).2.toNat a) u
    rw [h]
    exact ⟨_, c, d, rfl⟩
  · rw [gateOf_updGate, if_pos rfl]
    exact ⟨_, (mem_insertBy _ _ _ _).mpr (.inl rfl), rfl⟩

/-- Outside a replay a write by the controller waits at gate 0 (R485, R489). -/
theorem controllerWrite_spec (u : State) (off : Nat) (v : BitVec 64) (h : (gateOf u 0).mode ≠ 2) :
    (∃ b c d, controllerWrite u off v = { u with gates := b, logovf := c, hostOut := d }) ∧ ControllerWrote (controllerWrite u off v) off v := by
  have he : controllerWrite u off v = stampIt 0 false (.mgmt (mgmtMsg off v)) u := by
    unfold controllerWrite cuffStamp
    exact if_neg h
  rw [he]
  exact stampIt_spec 0 false _ u

/-- The end of a request writes MBSTAT and tells the host (R484, R485). -/
theorem mailboxEnd_eq (u : State) (state code : Nat) :
    mailboxEnd u state code = { u with mbstat := BitVec.ofNat 32 (state + 4 * code), hostOut := told u 4 6 } := by
  rw [mailboxEnd, mgmtInterrupt_eq]
  rfl

section Request
variable (u : State) (h : bits u.mbstat 1 0 ≠ 1)
include h

theorem mailboxWrite_refused {code : Nat} (hc : mailboxFault u (bits u.mbaddr 23 0) u.mbdata = some code) :
    mailboxWrite u = { u with mbstat := BitVec.ofNat 32 (3 + 4 * code), hostOut := told u 4 6 } := by
  refine (if_neg h).trans ?_
  simp only [hc]
  exact mailboxEnd_eq u 3 code

theorem mailboxWrite_sent (hc : mailboxFault u (bits u.mbaddr 23 0) u.mbdata = none) :
    mailboxWrite u = mailboxEnd (controllerWrite u (bits u.mbaddr 23 0) u.mbdata) 2 0 := by
  refine (if_neg h).trans ?_
  simp only [hc]

/-- A write that is let through waits at gate 0, and the request is done. -/
theorem mailboxWrite_spec (hc : mailboxFault u (bits u.mbaddr 23 0) u.mbdata = none) (hg : (gateOf u 0).mode ≠ 2) :
    Quiet u (mailboxWrite u) ∧ (mailboxWrite u).mbstat = 2 ∧ ControllerWrote (mailboxWrite u) (bits u.mbaddr 23 0) u.mbdata ∧
      HostOut.msix 4 6 u.cycle ∈ (mailboxWrite u).hostOut := by
  obtain ⟨⟨b, c, d, honly⟩, hwrote⟩ := controllerWrite_spec u (bits u.mbaddr 23 0) u.mbdata hg
  rw [mailboxWrite_sent u h hc]
  generalize controllerWrite u (bits u.mbaddr 23 0) u.mbdata = t at honly hwrote ⊢
  have hcycle : t.cycle = u.cycle := by rw [honly]
  rw [mailboxEnd_eq]
  refine ⟨.of_eq ?_ ?_ ?_ ?_, rfl, hwrote, hcycle ▸ mem_told t 4 6⟩ <;> simp only [honly]

theorem mailboxRead_refused (hm : mailboxMask (bits u.mbaddr 23 0) = none) :
    mailboxRead u = { u with mbstat := 7, hostOut := told u 4 6 } := by
  refine (if_neg h).trans ?_
  rw [hm]
  exact mailboxEnd_eq u 3 1

theorem mailboxRead_sent (hm : mailboxMask (bits u.mbaddr 23 0) ≠ none) : mailboxRead u = { u with
    mbstat := 1, bandWait := u.bandWait ++ [BandMsg.mk (regStop (bits u.mbaddr 23 0)) 0 0 0 (BitVec.ofNat 32 (bits u.mbaddr 23 0)) []] } :=
  (if_neg h).trans (if_neg (by simpa [Option.isNone_iff_eq_none] using hm))

end Request

end Mailbox

/-! ### Partition changes (R19, R72, R465, R466, R469) -/

section Partitions
variable {s : State}

theorem execPartMerge_eq {f nq : BitVec 2} (h : s.event = some (.partMerge f nq)) :
    exec .partMerge s = .next (partChange true f.toNat nq.toNat { s with event := none }) := by
  change execPartMerge s = _
  rw [execPartMerge, h]

theorem execPartSplit_eq {f nq : BitVec 2} (h : s.event = some (.partSplit f nq)) :
    exec .partSplit s = .next (partChange false f.toNat nq.toNat { s with event := none }) := by
  change execPartSplit s = _
  rw [execPartSplit, h]

/-- An end of the sequence writes PARTSTAT and tells the host. -/
theorem partEnd_eq (u : State) (state code c q : Nat) :
    partEnd u state code c q = { u with partstat := partCode state code (c % 1024) q, hostOut := told u 4 0 } := by
  rw [partEnd, mgmtInterrupt_eq, partCode]
  rw [Nat.shiftLeft_eq, Nat.shiftLeft_eq, Nat.shiftLeft_eq, Nat.mul_comm code, Nat.mul_comm (c % 1024), Nat.mul_comm q]
  rfl

/-! #### The scrub -/

/-- A map that has lost the keys of a range. -/
theorem mapGet_cut {α : Type} (d : α) (m : SMap α) {a b : Nat} (hab : a ≤ b) (k : Nat) :
    mapGet d (mapBelow a m ++ mapFrom b m) k = if a ≤ k ∧ k < b then d else mapGet d m k := by
  by_cases hk : k < a
  · rw [mapGet_append_hit, mapGet_below, if_pos hk, if_neg (by omega)]
    intro p hp
    simp [mapFrom] at hp
    omega
  · rw [mapGet_append_miss, mapGet_from]
    · by_cases hb : b ≤ k
      · rw [if_pos hb, if_neg (by omega)]
      · rw [if_neg hb, if_pos (by omega)]
    · intro p hp
      simp [mapBelow] at hp
      omega

/-- A scrub leaves zero in its range and the rest as it was. -/
theorem scrubRange_spec (u : State) (pa n : Nat) : ∃ m t p w a, scrubRange u pa n =
      { u with mem := m, tags := t, poison := p, watches := w, agenda := a } ∧
    (∀ k, mapGet memDefault m k = if pa ≤ k ∧ k < pa + n then 0 else readByte u k) ∧
    ∀ k, mapGet 0 t k = if pa / 32 ≤ k ∧ k < (pa + n) / 32 then 0 else mapGet 0 u.tags k := by
  unfold scrubRange
  simp only
  generalize List.eraseDups (α := Nat) _ = lines
  obtain ⟨⟨w, a⟩, h⟩ := wakeLines_only lines { u with
    mem := mapBelow pa u.mem ++ mapFrom (pa + n) u.mem
    tags := mapBelow (pa / 32) u.tags ++ mapFrom ((pa + n) / 32) u.tags
    poison := mapBelow (pa / 32) u.poison ++ mapFrom ((pa + n) / 32) u.poison }
  exact ⟨_, _, _, w, a, h, mapGet_cut _ _ (by omega), mapGet_cut _ _ (Nat.div_le_div_right (by omega))⟩

/-- Two ranges in a row are one. -/
theorem ite_range_extend {α : Type} {a b c k : Nat} (hab : a ≤ b) (hbc : b ≤ c) (x y : α) :
    (if b ≤ k ∧ k < c then x else if a ≤ k ∧ k < b then x else y) = if a ≤ k ∧ k < c then x else y := by
  by_cases hb : b ≤ k ∧ k < c
  · rw [if_pos hb, if_pos (by omega)]
  · rw [if_neg hb]
    by_cases ha : a ≤ k ∧ k < b
    · rw [if_pos ha, if_pos (by omega)]
    · rw [if_neg ha, if_neg (by omega)]

/-- The scrubs of a row of quarters. -/
theorem scrubQuarters_spec (u : State) (f n : Nat) : ∃ m t p w a,
    (List.range n).foldl (fun s i => scrubRange s ((f + i) * quarterBytes) quarterBytes) u =
      { u with mem := m, tags := t, poison := p, watches := w, agenda := a } ∧
    (∀ k, mapGet memDefault m k = if f * quarterBytes ≤ k ∧ k < (f + n) * quarterBytes then 0 else readByte u k) ∧
    ∀ k, mapGet 0 t k = if f * quarterBytes / 32 ≤ k ∧ k < (f + n) * quarterBytes / 32 then 0 else mapGet 0 u.tags k := by
  induction n with
  | zero =>
    simp only [Nat.add_zero]
    exact ⟨u.mem, u.tags, u.poison, u.watches, u.agenda, rfl, fun k => (if_neg (by omega)).symm, fun k => (if_neg (by omega)).symm⟩
  | succ n ih =>
    obtain ⟨m, t, p, w, a, he, hm, ht⟩ := ih
    rw [List.range_succ, List.foldl_concat, he]
    obtain ⟨m', t', p', w', a', he', hm', ht'⟩ :=
      scrubRange_spec { u with mem := m, tags := t, poison := p, watches := w, agenda := a } ((f + n) * quarterBytes) quarterBytes
    have hlow : f * quarterBytes ≤ (f + n) * quarterBytes := Nat.mul_le_mul_right _ (by omega)
    rw [show (f + (n + 1)) * quarterBytes = (f + n) * quarterBytes + quarterBytes from Nat.succ_mul (f + n) quarterBytes]
    refine ⟨m', t', p', w', a', he', fun k => ?_, fun k => ?_⟩
    · rw [hm', readByte, hm]
      exact ite_range_extend hlow (by omega) 0 _
    · rw [ht', ht]
      exact ite_range_extend (Nat.div_le_div_right hlow) (Nat.div_le_div_right (by omega)) 0 _

/-! #### The layout (R19, R72) -/

/-- MEMIL and NETBND of each quarter of a partition of `n` quarters from `g` on. -/
def memilOf (g n : Nat) : Word := BitVec.ofNat 32 (g + 4 * (if n = 1 then 0 else if n = 2 then 1 else 2))

/-- The registers of one new partition. -/
theorem layPart_spec (u : State) (g n : Nat) : ∃ a b, layPart u g n = { u with memil := a, netbnd := b } ∧
    ∀ q, (mapGet 0b1000 a q = if g ≤ q ∧ q < g + n then memilOf g n else memil u q) ∧
      mapGet 0b1111 b q = if g ≤ q ∧ q < g + n then BitVec.ofNat 32 (quarterMask g n) else netbnd u q := by
  have h : ∀ k, ∃ a b, (List.range k).foldl (fun s i => { s with
        memil := mapSet 0b1000 s.memil (g + i) (memilOf g n)
        netbnd := mapSet 0b1111 s.netbnd (g + i) (BitVec.ofNat 32 (quarterMask g n)) }) u = { u with memil := a, netbnd := b } ∧
      ∀ q, (mapGet 0b1000 a q = if g ≤ q ∧ q < g + k then memilOf g n else memil u q) ∧
        mapGet 0b1111 b q = if g ≤ q ∧ q < g + k then BitVec.ofNat 32 (quarterMask g n) else netbnd u q := by
    intro k
    induction k with
    | zero => exact ⟨u.memil, u.netbnd, rfl, fun q => ⟨(if_neg (by omega)).symm, (if_neg (by omega)).symm⟩⟩
    | succ k ih =>
      obtain ⟨a, b, he, hab⟩ := ih
      rw [List.range_succ, List.foldl_concat, he]
      refine ⟨_, _, rfl, fun q => ?_⟩
      obtain ⟨ha, hb⟩ := hab q
      have hq : (g ≤ q ∧ q < g + (k + 1)) ↔ (q = g + k ∨ (g ≤ q ∧ q < g + k)) := by omega
      rw [mapGet_set, mapGet_set, ha, hb]
      by_cases hk : q = g + k
      · simp [hk]
      · simp [hk, hq]
  exact h n

/-- The registers of every new partition of a row of `m * k` quarters. -/
theorem layParts_spec (u : State) (f m : Nat) (hm : 0 < m) (k : Nat) : ∃ a b,
    ((List.range k).map (fun i => f + m * i)).foldl (fun s g => layPart s g m) u = { u with memil := a, netbnd := b } ∧
    ∀ q, (mapGet 0b1000 a q = if f ≤ q ∧ q < f + m * k then memilOf (f + m * ((q - f) / m)) m else memil u q) ∧
      mapGet 0b1111 b q = if f ≤ q ∧ q < f + m * k then BitVec.ofNat 32 (quarterMask (f + m * ((q - f) / m)) m) else netbnd u q := by
  induction k with
  | zero => exact ⟨u.memil, u.netbnd, rfl, fun q => ⟨(if_neg (by omega)).symm, (if_neg (by omega)).symm⟩⟩
  | succ k ih =>
    obtain ⟨a, b, he, hab⟩ := ih
    rw [List.range_succ, List.map_append, List.foldl_append, he]
    obtain ⟨a', b', he', hab'⟩ := layPart_spec { u with memil := a, netbnd := b } (f + m * k) m
    refine ⟨a', b', he', fun q => ?_⟩
    obtain ⟨ha, hb⟩ := hab q
    obtain ⟨ha', hb'⟩ := hab' q
    rw [ha', hb', show memil { u with memil := a, netbnd := b } q = _ from ha, show netbnd { u with memil := a, netbnd := b } q = _ from hb]
    have hsucc : m * (k + 1) = m * k + m := Nat.mul_succ m k
    by_cases hq : f + m * k ≤ q ∧ q < f + m * k + m
    · have hdiv : (q - f) / m = k := Nat.div_eq_of_lt_le (by rw [Nat.mul_comm]; omega) (by rw [Nat.mul_comm]; omega)
      rw [if_pos hq, if_pos hq, if_pos (by omega), if_pos (by omega), hdiv]
      exact ⟨rfl, rfl⟩
    · rw [if_neg hq, if_neg hq]
      by_cases hlow : f ≤ q ∧ q < f + m * k
      · rw [if_pos hlow, if_pos hlow, if_pos (by omega), if_pos (by omega)]
        exact ⟨rfl, rfl⟩
      · rw [if_neg hlow, if_neg hlow, if_neg (by omega), if_neg (by omega)]
        exact ⟨rfl, rfl⟩

/-- What MEMIL of a partition is read as. -/
theorem partOf_memilOf {g n : Nat} (hg : g < 4) (hn : n = 1 ∨ n = 2 ∨ n = 4) :
    (bits (memilOf g n) 1 0, 2 ^ bits (memilOf g n) 3 2) = (g, n) := by
  have : ∀ g, g < 4 → ∀ n ∈ [1, 2, 4], (bits (memilOf g n) 1 0, 2 ^ bits (memilOf g n) 3 2) = (g, n) := by decide
  exact this g hg n (by simpa using hn)

/-! #### The keys (R469) -/

theorem quarterMask_inj {f g n : Nat} (hn : 0 < n) (h : quarterMask f n = quarterMask g n) : f = g := by
  have hpos : 0 < 2 ^ n - 1 := by
    have := Nat.one_lt_two_pow (show n ≠ 0 by omega)
    omega
  exact Nat.pow_right_injective (le_refl 2) (Nat.eq_of_mul_eq_mul_left hpos h)

theorem quarterMask_lt {f n : Nat} (h : f + n ≤ 4) : quarterMask f n < 2 ^ 32 := by
  have h1 : quarterMask f n < 2 ^ n * 2 ^ f := Nat.mul_lt_mul_of_pos_right (Nat.sub_lt (Nat.two_pow_pos n) Nat.one_pos) (Nat.two_pow_pos f)
  calc quarterMask f n < 2 ^ n * 2 ^ f := h1
    _ = 2 ^ (n + f) := (Nat.pow_add 2 n f).symm
    _ ≤ 2 ^ 32 := Nat.pow_le_pow_right (by decide) (by omega)

/-- Each of several partitions of one size has its count go up by one. -/
theorem rekeys_spec (n : Nat) (hn : 0 < n) (l : List Nat) (hl : l.Nodup) (u : State) : ∃ a,
    l.foldl (fun s g => rekey s g n) u = { u with attest := a } ∧
    ∀ g, mapGet 0 a (quarterMask g n) = mapGet 0 u.attest (quarterMask g n) + (if g ∈ l then 1 else 0) := by
  induction l generalizing u with
  | nil => exact ⟨u.attest, rfl, fun g => rfl⟩
  | cons h l ih =>
    obtain ⟨hh, hl⟩ := List.nodup_cons.mp hl
    obtain ⟨a, he, ha⟩ := ih hl (rekey u h n)
    refine ⟨a, he, fun g => ?_⟩
    rw [ha, rekey, mapGet_set]
    by_cases hg : g = h
    · subst hg
      rw [if_pos rfl, if_neg hh, if_pos List.mem_cons_self]
    · rw [if_neg (fun e => hg (quarterMask_inj hn e))]
      simp only [List.mem_cons, hg, false_or]

/-! #### The caches (R466) -/

theorem cached_congr {t u : State} (h : t.tlb = u.tlb) {name : Nat} {e : TlbEntry} : Cached t name e ↔ Cached u name e := by
  rw [Cached, Cached, h]

/-- A drop leaves the entries that are not picked. -/
theorem cached_tlbDrop (u : State) (part : Nat × Nat) (p : TlbEntry → Bool) (name : Nat) (e : TlbEntry) :
    Cached (tlbDrop u part p) name e ↔
      (Cached u name e ∧ ¬ ((part.1 ≤ tlbQuarter name ∧ tlbQuarter name < part.1 + part.2) ∧ p e = true)) := by
  unfold Cached tlbDrop
  simp only [List.mem_filter, List.mem_map, decide_eq_true_eq]
  constructor
  · rintro ⟨q, ⟨⟨c, hc, rfl⟩, -⟩, hname, w, hw, rfl⟩
    by_cases hin : part.1 ≤ tlbQuarter c.1 ∧ tlbQuarter c.1 < part.1 + part.2
    · rw [if_pos hin] at hname hw
      obtain ⟨hold, hp⟩ := (mem_cacheDrop _ _ _).mp hw
      exact ⟨⟨c, hc, hname, w, hold, rfl⟩, fun h => by rw [hp] at h; cases h.2⟩
    · rw [if_neg hin] at hname hw
      exact ⟨⟨c, hc, hname, w, hw, rfl⟩, fun h => hin (by rw [show c.1 = name from hname]; exact h.1)⟩
  · rintro ⟨⟨c, hc, rfl, w, hw, rfl⟩, hnot⟩
    have hne : ∀ d : Cache TlbEntry, w ∈ d.ways → d ≠ Cache.empty := by
      rintro d hd rfl
      cases hd
    by_cases hin : part.1 ≤ tlbQuarter c.1 ∧ tlbQuarter c.1 < part.1 + part.2
    · have hkeep : w ∈ (cacheDrop c.2 p).ways := (mem_cacheDrop _ _ _).mpr ⟨hw, Bool.eq_false_iff.mpr (fun h => hnot ⟨hin, h⟩)⟩
      exact ⟨_, ⟨⟨c, hc, if_pos hin⟩, hne _ hkeep⟩, rfl, w, hkeep, rfl⟩
    · exact ⟨_, ⟨⟨c, hc, if_neg hin⟩, hne _ hw⟩, rfl, w, hw, rfl⟩

/-- Emptying the caches of some quarters changes translation caches, slices and cores (R36, R466). -/
theorem emptied_spec (u : State) (part : Nat × Nat) (f : Nat → Nat → Bool) : ∃ a b c,
    l1DropIn (sliceDrop (tlbDrop u part (fun _ => true)) f) part = { u with tlb := a, slices := b, cores := c } ∧
    a = (tlbDrop u part (fun _ => true)).tlb := ⟨_, _, _, rfl, rfl⟩

/-! #### The whole change -/

/-- What a partition change in a row of quarters leaves (R466). -/
structure Relaid (u t : State) (f n m : Nat) : Prop where
  teams  : t.teams = u.teams
  req    : t.partreq = u.partreq
  stat   : t.partstat = 2
  inside : ∀ i, i < n → partOfQuarter t (f + i) = (f + m * (i / m), m) ∧ (netbnd t (f + i)).toNat = quarterMask (f + m * (i / m)) m
  beside : ∀ q, (q < f ∨ f + n ≤ q) → memil t q = memil u q ∧ netbnd t q = netbnd u q
  zero   : ∀ a, f * quarterBytes ≤ a → a < (f + n) * quarterBytes → readByte t a = 0 ∧ tagOf t a = 0
  kept   : ∀ a, (a < f * quarterBytes ∨ (f + n) * quarterBytes ≤ a) → readByte t a = readByte u a ∧ tagOf t a = tagOf u a
  cached : ∀ name e, Cached t name e ↔ (Cached u name e ∧ (tlbQuarter name < f ∨ f + n ≤ tlbQuarter name))
  keys   : ∀ i, i < n → i % m = 0 → mapGet 0 t.attest (quarterMask (f + i) m) = mapGet 0 u.attest (quarterMask (f + i) m) + 1
  told   : HostOut.msix 4 0 u.cycle ∈ t.hostOut

theorem relayout_relaid (u : State) (f k m : Nat) (hm : m = 1 ∨ m = 2 ∨ m = 4) (hf : f + m * k ≤ 4)
    (hup : ∀ i, i < m * k → quarterLost u (f + i) = false) : Relaid u (relayout f (m * k) m u) f (m * k) m := by
  have hpos : 0 < m := by omega
  have hall : (List.range (m * k)).filter (fun i => quarterUp u (f + i)) = List.range (m * k) :=
    List.filter_eq_self.mpr (fun i hi => by rw [quarterUp, hup i (List.mem_range.mp hi)]; rfl)
  unfold relayout
  simp only [hall, Nat.mul_div_cancel_left k hpos]
  obtain ⟨mem, tags, p, w, a, h1, hmem, htags⟩ := scrubQuarters_spec u f (m * k)
  generalize List.foldl (fun s i => scrubRange s ((f + i) * quarterBytes) quarterBytes) u _ = s1 at h1 ⊢
  obtain ⟨ml, nb, h2, hlay⟩ := layParts_spec s1 f m hpos k
  generalize List.foldl (fun s g => layPart s g m) s1 _ = s2 at h2 ⊢
  obtain ⟨tl, sl, co, h3, hdrop⟩ := emptied_spec s2 (f, m * k) (fun q _ => decide (f ≤ q) && decide (q < f + m * k))
  generalize l1DropIn _ _ = s3 at h3 ⊢
  have hnodup : ((List.range k).map (fun i => f + m * i)).Nodup :=
    List.nodup_range.map (fun i j h => Nat.eq_of_mul_eq_mul_left hpos (by simpa using h))
  obtain ⟨at_, h4, hkeys⟩ := rekeys_spec m hpos _ hnodup s3
  generalize List.foldl (fun s g => rekey s g m) s3 _ = s4 at h4 ⊢
  rw [partEnd_eq]
  have hin : ∀ i, i < m * k → i / m < k ∧ m * (i / m) + i % m = i := fun i hi => ⟨Nat.div_lt_of_lt_mul hi, Nat.div_add_mod i m⟩
  have hcycle : s4.cycle = u.cycle := by simp only [h4, h3, h2, h1]
  have hmemil : s4.memil = ml := by simp only [h4, h3, h2]
  have hnetbnd : s4.netbnd = nb := by simp only [h4, h3, h2]
  have hbytes : s4.mem = mem := by simp only [h4, h3, h2, h1]
  have htagged : s4.tags = tags := by simp only [h4, h3, h2, h1]
  have hold : s1.memil = u.memil ∧ s1.netbnd = u.netbnd ∧ s2.tlb = u.tlb ∧ s3.attest = u.attest := by simp only [h3, h2, h1, and_self]
  obtain ⟨holdMemil, holdNetbnd, holdTlb, holdKeys⟩ := hold
  refine ⟨?_, ?_, rfl, fun i hi => ?_, fun q hq => ?_, fun b hlo hhi => ⟨?_, ?_⟩, fun b hb => ⟨?_, ?_⟩, fun name e => ?_,
    fun i hi hz => ?_, hcycle ▸ mem_told s4 4 0⟩
  · simp only [h4, h3, h2, h1]
  · simp only [h4, h3, h2, h1]
  · obtain ⟨hml, hnb⟩ := hlay (f + i)
    rw [if_pos (by omega), Nat.add_sub_cancel_left] at hml hnb
    obtain ⟨hik, hsum⟩ := hin i hi
    have hfit : m * (i / m) + m ≤ m * k := Nat.mul_le_mul_left m hik
    rw [partOfQuarter, memil, netbnd, hmemil, hnetbnd, hml, hnb, BitVec.toNat_ofNat, Nat.mod_eq_of_lt (quarterMask_lt (by omega))]
    exact ⟨partOf_memilOf (by omega) hm, rfl⟩
  · obtain ⟨hml, hnb⟩ := hlay q
    rw [if_neg (by omega)] at hml hnb
    rw [memil, netbnd, hmemil, hnetbnd, hml, hnb, memil, netbnd, holdMemil, holdNetbnd]
    exact ⟨rfl, rfl⟩
  · rw [readByte, hbytes, hmem, if_pos ⟨hlo, hhi⟩]
  · rw [tagOf, htagged, htags, if_pos (by unfold quarterBytes at *; omega)]
  · rw [readByte, hbytes, hmem, if_neg (by omega)]
  · rw [tagOf, htagged, htags, if_neg (by unfold quarterBytes at *; omega), tagOf]
  · have htlb : s4.tlb = (tlbDrop s2 (f, m * k) (fun _ => true)).tlb := by simp only [h4, h3, hdrop]
    refine (cached_congr htlb).trans ((cached_tlbDrop s2 _ _ name e).trans ?_)
    rw [cached_congr holdTlb]
    exact and_congr_right fun _ => by simp only [and_true]; omega
  · obtain ⟨hik, hsum⟩ := hin i hi
    have hfirst : f + i ∈ (List.range k).map (fun i => f + m * i) :=
      List.mem_map.mpr ⟨i / m, List.mem_range.mpr hik, by omega⟩
    have hkey := hkeys (f + i)
    rw [if_pos hfirst, holdKeys] at hkey
    simp only [h4]
    exact hkey

/-! #### The branches of the sequence -/

/-- The shape that a request must name. -/
def changeShape (merge : Bool) (u : State) (f nq : Nat) : Bool := if merge then mergeShape u f nq else splitShape u f nq

/-- The state of the sequence once PARTREQ holds the request. -/
def requested (merge : Bool) (f nq : Nat) (u : State) : State :=
  { u with partreq := BitVec.ofNat 32 ((if merge then 1 else 2) + 4 * f + 16 * nq) }

section Branches
variable {merge : Bool} {f nq : Nat} {u : State}

theorem partChange_shape (h : changeShape merge u f nq = false) : partChange merge f nq u = partEnd (requested merge f nq u) 3 1 0 0 :=
  if_pos (by rw [← changeShape, h]; rfl)

variable (h : changeShape merge u f nq = true)
include h

theorem partChange_busy {c q : Nat} (hb : firstBusy u f (2 ^ nq) = some (c, q)) :
    partChange merge f nq u = partEnd (requested merge f nq u) 3 2 c q := by
  refine (if_neg (by rw [← changeShape, h]; decide)).trans ?_
  simp only [hb]
  rfl

variable (hb : firstBusy u f (2 ^ nq) = none)
include hb

theorem partChange_enabled {c : Nat} (he : firstEnabled u f (2 ^ nq) = some c) :
    partChange merge f nq u = partEnd (requested merge f nq u) 3 3 c 0 := by
  refine (if_neg (by rw [← changeShape, h]; decide)).trans ?_
  simp only [hb, he]
  rfl

variable (he : firstEnabled u f (2 ^ nq) = none)
include he

theorem partChange_idle : partChange merge f nq u =
    if merge && !((List.range (2 ^ nq)).all (fun i => quarterUp u (f + i))) then partEnd (requested merge f nq u) 3 4 0 0
    else relayout f (2 ^ nq) (if merge then 2 ^ nq else 2 ^ nq / 2) (requested merge f nq u) := by
  refine (if_neg (by rw [← changeShape, h]; decide)).trans ?_
  simp only [hb, he]
  rfl

end Branches

/-- A merge or a split names two or four quarters. -/
theorem changeShape_size {merge : Bool} {f nq : Nat} {u : State} (h : changeShape merge u f nq = true) : nq = 1 ∨ nq = 2 := by
  unfold changeShape at h
  cases merge <;> simp_all [mergeShape, splitShape]

/-- The new partitions are of one, two or four quarters, and fill the row. -/
theorem changeParts (merge : Bool) {nq : Nat} (h : nq = 1 ∨ nq = 2) :
    let m := if merge then 2 ^ nq else 2 ^ nq / 2
    (m = 1 ∨ m = 2 ∨ m = 4) ∧ ∃ k, 2 ^ nq = m * k := by
  rcases h with rfl | rfl <;> cases merge
  · exact ⟨by decide, 2, rfl⟩
  · exact ⟨by decide, 1, rfl⟩
  · exact ⟨by decide, 2, rfl⟩
  · exact ⟨by decide, 1, rfl⟩

end Partitions

/-! ### The statement -/

/-- Settles O49: a partition change by the branches of its sequence and what the new layout leaves; the other requests by how each ends. -/
theorem managementSteps : Obligations.ManagementSteps := by
  intro s s0 Change
  have hchange : ∀ (o : Host.Outcome State Fault Refusal) (merge : Bool) (f nq : Nat), o = .next (partChange merge f nq s0) → Change o merge f nq := by
    rintro o merge f nq rfl
    refine ⟨fun hs => ?_, fun c q hs hb => ?_, fun c hs hb he => ?_, fun hs hb he => ⟨fun hlost hm => ?_, fun hup hfit => ?_⟩⟩
    · rw [partChange_shape (u := s0) hs, partEnd_eq]
      rfl
    · rw [partChange_busy (u := s0) hs hb, partEnd_eq]
      rfl
    · rw [partChange_enabled (u := s0) hs hb he, partEnd_eq]
      rfl
    · have hdown : (merge && !((List.range (2 ^ nq)).all (fun i => quarterUp s0 (f + i)))) = true := by
        obtain ⟨i, hi, hq⟩ := hlost
        have hup : quarterUp s0 (f + i) = false := congrArg not hq
        rw [hm, Bool.true_and, Bool.not_eq_true', List.all_eq_false]
        exact ⟨i, List.mem_range.mpr hi, by rw [hup]; decide⟩
      rw [partChange_idle (u := s0) hs hb he, if_pos hdown, partEnd_eq]
      rfl
    · have hall : (List.range (2 ^ nq)).all (fun i => quarterUp s0 (f + i)) = true :=
        List.all_eq_true.mpr (fun i hi => congrArg not (hup i (List.mem_range.mp hi)))
      obtain ⟨hm, k, hk⟩ := changeParts merge (changeShape_size hs)
      have ht := relayout_relaid (requested merge f nq s0) f k (if merge then 2 ^ nq else 2 ^ nq / 2) hm (hk ▸ hfit) (hk ▸ hup)
      rw [← hk] at ht
      refine ⟨_, congrArg _ ?_, .of_teams ht.teams, ht.req, ht.stat, ht.inside, ht.beside, ht.zero, ht.kept, ht.cached, ht.keys, ht.told⟩
      rw [partChange_idle (u := s0) hs hb he, hall]
      exact if_neg (by simp)
  refine ⟨fun f nq he => hchange _ true _ _ (execPartMerge_eq he), fun f nq he => hchange _ false _ _ (execPartSplit_eq he),
    fun nonce f he => ⟨fun hn => ?_, fun hf hp => ?_⟩, fun v he => ⟨fun h0 h1 h2 => ?_, fun h => ?_⟩, fun off l he => ⟨fun h => ?_, fun h => ?_⟩,
    fun he => ⟨fun h => ?_, fun hpos hmax => ⟨fun hs => ?_, fun hs hv => ?_, fun hs hv => ?_⟩⟩,
    fun he => ⟨fun h => ?_, fun code h hc => ?_, fun h hc hg => ?_⟩, fun he => ⟨fun h => ?_, fun h hm => ?_, fun h hm => ?_⟩⟩
  · rw [execAttestationReport_eq he]
    exact congrArg _ (if_neg hn)
  · rw [execAttestationReport_eq he]
    exact ⟨reportBody s0 nonce, take_reportBody s0 nonce, congrArg _ (if_pos ⟨hf, hp⟩)⟩
  · have hver : (Config.imageVersion s.running).toNat % 256 = (Config.imageVersion s.running).toNat :=
      Nat.mod_eq_of_lt (Config.imageVersion s.running).isLt
    have hfields := withSvn_fields s.startstat (Config.imageVersion s.running).toNat
    rw [hver] at hfields
    rw [execFwcommit_eq he]
    exact ⟨_, congrArg _ ((if_pos ⟨h0, h1, h2⟩).trans (by rw [withSvn, hver])), hfields⟩
  · rw [execFwcommit_eq he]
    refine congrArg _ (if_neg fun hgo => ?_)
    obtain ⟨h0, h1, h2⟩ := hgo
    have h2' : bits s.startstat 23 16 < (Config.imageVersion s.running).toNat := h2
    rcases h with h | h | h
    · exact h h0
    · exact h h1
    · omega
  · rw [execRecoveryWindowWrite_eq he]
    exact congrArg _ (if_neg (show ¬ bits s.recovctl 0 0 = 1 by rw [h]; decide))
  · rw [execRecoveryWindowWrite_eq he]
    obtain ⟨m, hm, hk⟩ := recoveryWindowWrite_open s0 off l h
    exact ⟨m, congrArg _ hm, hk⟩
  · rw [execRecoveryGo_eq he, recoveryGo_length s0 h, recovEnd, mgmtInterrupt_eq]
    rfl
  · rw [execRecoveryGo_eq he, recoveryGo_refused s0 1 ⟨hpos, hmax⟩ (imageFault_unsigned s0 _ hs), recovEnd, mgmtInterrupt_eq]
    rfl
  · rw [execRecoveryGo_eq he, recoveryGo_refused s0 2 ⟨hpos, hmax⟩ (imageFault_old s0 _ hs hv), recovEnd, mgmtInterrupt_eq]
    rfl
  · rw [execRecoveryGo_eq he, recoveryGo_accepted s0 ⟨hpos, hmax⟩ (imageFault_none s0 _ hs hv), recovEnd, mgmtInterrupt_eq]
    rfl
  · rw [execMailboxWrite_eq he]
    exact congrArg _ (if_pos h)
  · rw [execMailboxWrite_eq he, mailboxWrite_refused s0 h hc]
    rfl
  · rw [execMailboxWrite_eq he]
    obtain ⟨hquiet, hstat, hwrote, htold⟩ := mailboxWrite_spec s0 h hc hg
    exact ⟨_, rfl, (quiet_taken s).trans hquiet, hstat, hwrote, htold⟩
  · rw [execMailboxRead_eq he]
    exact congrArg _ (if_pos h)
  · rw [execMailboxRead_eq he, mailboxRead_refused s0 h hm]
    rfl
  · rw [execMailboxRead_eq he, mailboxRead_sent s0 h hm]

end Sys2Proof.Machine
end

section
/-! HEALTH (O52, R15, R474 to R476, R478): the count of a unit, the mark of a poisoned sector, and what a unit leaves behind as it is
taken out of service on an idle device. -/
namespace Sys2Proof.Machine
open Sys2Proof.Forms

section Rows
variable {s : State}

theorem execCorrectedError_eq {u : HealthUnit} {loc : Nat} (h : s.event = some (.correctedError u loc)) :
    exec .correctedError s = .next (correctedError u loc { s with event := none }) := by
  change execCorrectedError s = _
  rw [execCorrectedError, h]

theorem execUncorrectableError_eq {u : HealthUnit} {pa : Nat} (h : s.event = some (.uncorrectableError u pa)) :
    exec .uncorrectableError s = .next (uncorrectableError u pa { s with event := none }) := by
  change execUncorrectableError s = _
  rw [execUncorrectableError, h]

theorem execHealthWindowBoundary_eq (h : s.event = some .healthWindowBoundary) :
    exec .healthWindowBoundary s = .next (healthWindowBoundary { s with event := none }) := by
  change execHealthWindowBoundary s = _
  rw [execHealthWindowBoundary, h]

theorem execErrorResend_eq {stop : BitVec 10} {queue : BitVec 32} {seq : BitVec 64} (h : s.event = some (.errorResend stop queue seq)) :
    exec .errorResend s = .next (errorResend stop queue seq { s with event := none }) := by
  change execErrorResend s = _
  rw [execErrorResend, h]

theorem execLinkFailure_eq {port : Nat} (h : s.event = some (.linkFailure port)) : exec .linkFailure s =
    .next (controllerWrite { s with event := none } 0x030048 (s.fabcfg &&& ~~~(BitVec.ofNat 64 (2 ^ (16 + port))))) := by
  change execLinkFailure s = _
  rw [execLinkFailure, h]

end Rows

/-! ### The counts (R474) -/

/-- The count of a unit. -/
def errOf (s : State) (u : HealthUnit) : ErrCount := (s.errs.find? (fun e => decide (e.u = u))).getD (noErrors u)

theorem errOf_unit (s : State) (u : HealthUnit) : (errOf s u).u = u := by
  unfold errOf
  cases h : s.errs.find? (fun e => decide (e.u = u)) with
  | none => rfl
  | some e => simpa using List.find?_some h

theorem updErr_only (s : State) (u : HealthUnit) (f : ErrCount → ErrCount) : ∃ l, updErr s u f = { s with errs := l } := by
  unfold updErr
  split <;> exact ⟨_, rfl⟩

/-- A change of the count of a unit, which may have had none. -/
theorem errOf_updErr (s : State) (u : HealthUnit) (f : ErrCount → ErrCount) (hf : ∀ e, (f e).u = e.u) :
    errOf (updErr s u f) u = f (errOf s u) := by
  unfold updErr errOf
  by_cases h : s.errs.any (fun e => decide (e.u = u)) = true
  · rw [if_pos h]
    have e : (fun e : ErrCount => if e.u = u then f e else e) = (fun e => if decide (e.u = u) = true then f e else e) := by
      funext e; simp
    simp only [e]
    rw [find_map_key _ _ f s.errs (fun e => by simp [hf]) (fun _ _ => rfl)]
    obtain ⟨e, he, hu⟩ := List.any_eq_true.mp h
    obtain ⟨x, hx⟩ := Option.isSome_iff_exists.mp (List.find?_isSome (p := fun e : ErrCount => decide (e.u = u)) |>.mpr ⟨e, he, hu⟩)
    rw [hx]
    rfl
  · rw [if_neg h]
    have hnone : s.errs.find? (fun e => decide (e.u = u)) = none :=
      List.find?_eq_none.mpr (fun e he hu => h (List.any_eq_true.mpr ⟨e, he, hu⟩))
    simp only [List.find?_append, hnone, Option.none_or, Option.getD_none]
    rw [List.find?_singleton, if_pos (by simp [hf, noErrors])]
    rfl

/-- A corrected error adds one and its location; the fault is lasting at the threshold or at a location of the last window. -/
theorem errOf_correctedError (s : State) (u : HealthUnit) (loc : Nat) :
    errOf (correctedError u loc s) u = { errOf s u with
      count := (errOf s u).count + 1
      here := (loc :: (errOf s u).here).eraseDups
      lasting := (errOf s u).lasting || decide (threshold s ≤ (errOf s u).count + 1) || (errOf s u).last.contains loc } :=
  errOf_updErr s u _ (fun _ => rfl)

/-! ### Events at gate 0 (R495) -/

/-- An event is logged, or shows that a replay has diverged. -/
theorem cuffStamp_event_only (g : Nat) (ph : Bool) (ty : BitVec 8) (stop : BitVec 16) (num : BitVec 32) (info : BitVec 64) (s : State) :
    ∃ a b c, cuffStamp g ph (.event ty stop num info) s = { s with gates := a, logovf := b, hostOut := c } := by
  unfold cuffStamp
  simp only
  split
  · split
    · exact ⟨s.gates, s.logovf, s.hostOut, rfl⟩
    · obtain ⟨b, c, h⟩ := logFlag_only s 4
      exact ⟨s.gates, b, c, h⟩
  · exact logRecords_only _ _ _ s

/-- An uncorrectable error marks one sector and the count of its unit. -/
theorem uncorrectableError_spec (s : State) (u : HealthUnit) (pa : Nat) :
    (∃ a b c l, uncorrectableError u pa s =
      { s with gates := a, logovf := b, hostOut := c, poison := mapSet false s.poison (pa / 32) true, errs := l }) ∧
    (errOf (uncorrectableError u pa s) u).lasting = true := by
  unfold uncorrectableError
  obtain ⟨a, b, c, h⟩ := cuffStamp_event_only 0 false 0 u.stop 0 (BitVec.ofNat 64 pa) s
  constructor
  · obtain ⟨l, hl⟩ := updErr_only (poisonSector (cuffStamp 0 false (.event 0 u.stop 0 (BitVec.ofNat 64 pa)) s) pa) u
      (fun e => { e with lasting := true })
    rw [hl, h]
    exact ⟨a, b, c, l, rfl⟩
  · rw [errOf_updErr _ u (fun e => { e with lasting := true }) (fun _ => rfl)]

/-- A resend is logged; at a stop of a cache router it counts as a corrected error there (R478). -/
theorem errorResend_eq (s : State) (stop : BitVec 10) (queue : BitVec 32) (seq : BitVec 64) : ∃ a b c,
    errorResend stop queue seq s = if 16 ≤ stop.toNat ∧ 64 ≤ (stop.toNat - 16) % 128 then
      correctedError { kind := .cacheRouter, stop := stop.setWidth 16, index := 0 } queue.toNat { s with gates := a, logovf := b, hostOut := c }
    else { s with gates := a, logovf := b, hostOut := c } := by
  obtain ⟨a, b, c, h⟩ := cuffStamp_event_only 0 false 2 (stop.setWidth 16) queue seq s
  exact ⟨a, b, c, by rw [← h]; rfl⟩

/-! ### Removal (R475, R476) -/

theorem mem_told_of_mem {s : State} {fn vector : Nat} {m : HostOut} (h : m ∈ s.hostOut) : m ∈ told s fn vector := by
  unfold told
  split
  · exact h
  · exact List.mem_append_left _ h

/-- The map records a unit while it has room, and the host is told. -/
theorem recordRemoval_eq (s : State) (u : HealthUnit) (h : s.oosMap.length < 256) :
    recordRemoval u s = { s with oosMap := s.oosMap ++ [{ u := u, cyc := s.cycle }], hostOut := told s 4 3 } := by
  rw [recordRemoval, mgmtInterrupt_eq, if_pos h]
  rfl

/-- A context of a lost quarter is disabled. -/
def disable (s : State) (c : Nat) : State := ctxtrWrite c ((ctxOf s c).ctxtr &&& 0x7FFFFFFFFFFFFFFF) s

theorem disable_only (s : State) (c : Nat) : ∃ a b, disable s c = { s with ctxs := a, stale := b } := ⟨_, _, rfl⟩

/-- The write disables its context, and enables none. -/
theorem disable_off (s : State) (c e : Nat) (h : e = c ∨ bits (ctxOf s e).ctxtr 63 63 = 0) : bits (ctxOf (disable s c) e).ctxtr 63 63 = 0 := by
  have hctx : ctxOf (disable s c) e = if e = c then { ctxOf s c with ctxtr := keep ((ctxOf s c).ctxtr &&& 0x7FFFFFFFFFFFFFFF) 0xBFFF1FFFFFFFFFFF }
    else ctxOf s e := ctxOf_updCtx _ _ _ _
  rw [hctx]
  split
  · exact (bits_and_ones _ (by decide)).trans (bits_and_zero _ (by decide))
  · next he => exact h.resolve_left he

theorem disables_off (l : List Nat) (s : State) (e : Nat) (h : e ∈ l ∨ bits (ctxOf s e).ctxtr 63 63 = 0) :
    bits (ctxOf (l.foldl disable s) e).ctxtr 63 63 = 0 := by
  induction l generalizing s with
  | nil => exact h.resolve_left (by simp)
  | cons c l ih =>
    refine ih (disable s c) ?_
    rcases h with h | h
    · rcases List.mem_cons.mp h with h | h
      · exact .inr (disable_off s c e (.inl h))
      · exact .inl h
    · exact .inr (disable_off s c e (.inr h))

theorem disables_only (l : List Nat) (s : State) : ∃ c : SMap Ctx × List (BitVec 13), l.foldl disable s = { s with ctxs := c.1, stale := c.2 } :=
  foldl_only (fun s (c : SMap Ctx × List (BitVec 13)) => { s with ctxs := c.1, stale := c.2 }) (fun s => (s.ctxs, s.stale)) (fun _ => rfl)
    (fun _ _ _ => rfl) _ (fun s c => ⟨((disable s c).ctxs, (disable s c).stale), rfl⟩) l s

/-- The notices of a lost quarter queue records of its contexts. -/
theorem notices_only (l : List Nat) (s : State) : ∃ c, l.foldl (fun s c => raiseLuNotice s c 0x71 0 0 0 1) s = { s with ctxs := c } :=
  foldl_only (fun s (c : SMap Ctx) => { s with ctxs := c }) (fun s => s.ctxs) (fun _ => rfl) (fun _ _ _ => rfl) _ (fun _ _ => ⟨_, rfl⟩) l s

/-- A quarter of a device without dispatches leaves service: STARTSTAT and the contexts of its partition say so. -/
theorem removeQuarter_idle (q : Nat) (s : State) (hd : s.dispatches = []) :
    (∃ c st, removeQuarter q s = { s with
      startstat := s.startstat &&& ~~~(BitVec.ofNat 32 (2 ^ (3 + q))), ctxs := c, stale := st, hostOut := told s 4 3 }) ∧
    ∀ c, (∃ x, (c, x) ∈ s.ctxs) → partOfCtx s c = partOfQuarter s q → bits (ctxOf (removeQuarter q s) c).ctxtr 63 63 = 0 := by
  unfold removeQuarter
  have hnone : ∀ p : Dispatch → Bool, s.dispatches.filter p = [] := fun p => by rw [hd, List.filter_nil]
  simp only [hnone, List.foldl_nil]
  generalize hu : { s with startstat := s.startstat &&& ~~~(BitVec.ofNat 32 (2 ^ (3 + q))) } = u
  generalize hl : List.map (fun x : Nat × Ctx => x.1) _ = l
  obtain ⟨a, h1⟩ := notices_only l u
  generalize List.foldl _ u l = u1 at h1 ⊢
  change (∃ c st, mgmtInterrupt (l.foldl disable u1) 3 = _) ∧ ∀ c, _ → _ → bits (ctxOf (mgmtInterrupt (l.foldl disable u1) 3) c).ctxtr 63 63 = 0
  rw [mgmtInterrupt_eq]
  constructor
  · obtain ⟨⟨c, st⟩, h2⟩ := disables_only l u1
    rw [h2, h1, ← hu]
    exact ⟨c, st, rfl⟩
  · rintro c ⟨x, hx⟩ hp
    refine disables_off l u1 c (.inl ?_)
    rw [← hl]
    subst hu
    exact List.mem_map.mpr ⟨(c, x), List.mem_filter.mpr ⟨hx, decide_eq_true hp⟩, rfl⟩

/-- A core of a device without blocks and dispatches leaves placement. -/
theorem removeCore_idle (core : Nat) (s : State) (hb : s.blocks = []) (hd : s.dispatches = []) :
    removeCore core s = updCore s core (fun k => { k with removed := true }) := by
  unfold removeCore
  simp only [updCore_blocks, hb, List.filter_nil, List.foldl_nil, updCore_dispatches, hd]

/-- What the removal of a unit leaves in a state, by its kind (R475, R476). -/
structure Gone (s t : State) (u : HealthUnit) : Prop where
  quiet   : Quiet s t
  map     : t.oosMap = s.oosMap
  errs    : t.errs = s.errs
  told    : ∀ m ∈ s.hostOut, m ∈ t.hostOut
  core    : u.kind = .core → (coreOf t (stopCore u.stop.toNat)).removed = true
  slice   : u.kind = .slice → mapGet Cache.empty t.slices (unitSlice u) = Cache.empty
  port    : u.kind = .fabricPort → t.fabcfg = s.fabcfg &&& ~~~(BitVec.ofNat 64 (2 ^ (16 + u.index.toNat)))
  quarter : u.kind = .pchan ∨ u.kind = .cacheRouter → let q := (u.stop.toNat - 16) / 128
    (q < 29 → t.startstat.getLsbD (3 + q) = false) ∧
    ∀ c, (∃ x, (c, x) ∈ s.ctxs) → partOfCtx s c = partOfQuarter s q → bits (ctxOf t c).ctxtr 63 63 = 0

/-- A bit of a word is clear under the mask that clears it. -/
theorem getLsbD_cleared (w : Word) {i : Nat} (h : i < 32) : (w &&& ~~~(BitVec.ofNat 32 (2 ^ i))).getLsbD i = false := by
  rw [BitVec.getLsbD_and, BitVec.getLsbD_not, BitVec.getLsbD_ofNat, Nat.testBit_two_pow_self]
  simp [h]

theorem removeQuarter_gone (s : State) (u : HealthUnit) (hd : s.dispatches = []) (hk : u.kind = .pchan ∨ u.kind = .cacheRouter) :
    Gone s (removeQuarter ((u.stop.toNat - 16) / 128) s) u := by
  obtain ⟨⟨c, st, h⟩, hoff⟩ := removeQuarter_idle ((u.stop.toNat - 16) / 128) s hd
  generalize removeQuarter _ s = t at h hoff ⊢
  refine ⟨.of_eq ?_ ?_ ?_ ?_, ?_, ?_, fun m hm => ?_, fun hc => ?_, fun hs => ?_, fun hp => ?_, fun _ => ⟨fun hq => ?_, hoff⟩⟩
  case refine_7 => simp only [h]; exact mem_told_of_mem hm
  case refine_8 => rw [hc] at hk; simp at hk
  case refine_9 => rw [hs] at hk; simp at hk
  case refine_10 => rw [hp] at hk; simp at hk
  case refine_11 => simp only [h]; exact getLsbD_cleared _ (by omega)
  all_goals simp only [h]

/-- A device without blocks and dispatches loses a unit. -/
theorem removeUnit_gone (s : State) (u : HealthUnit) (hb : s.blocks = []) (hd : s.dispatches = []) : Gone s (removeUnit u s) u := by
  unfold removeUnit
  split
  case h_1 hk =>
    rw [removeCore_idle _ s hb hd]
    refine ⟨.of_eq rfl rfl rfl rfl, rfl, rfl, fun _ hm => hm, fun _ => by rw [coreOf_updCore, if_pos rfl], ?_, ?_, ?_⟩ <;> simp [hk]
  case h_2 hk =>
    refine ⟨.of_eq rfl rfl rfl rfl, rfl, rfl, fun _ hm => hm, ?_, fun _ => by rw [mapGet_set, if_pos rfl], ?_, ?_⟩ <;> simp [hk]
  case h_3 hk => exact removeQuarter_gone s u hd (.inl hk)
  case h_4 hk => exact removeQuarter_gone s u hd (.inr hk)
  case h_5 hk => refine ⟨.of_eq rfl rfl rfl rfl, rfl, rfl, fun _ hm => hm, ?_, ?_, fun _ => rfl, ?_⟩ <;> simp [hk]
  case h_6 hk => refine ⟨.of_eq rfl rfl rfl rfl, rfl, rfl, fun _ hm => hm, ?_, ?_, ?_, ?_⟩ <;> simp [hk]

/-- A removal is logged and recorded, and the unit is gone. -/
theorem removal_spec (s : State) (u : HealthUnit) (hb : s.blocks = []) (hd : s.dispatches = []) (hroom : s.oosMap.length < 256) :
    ∃ v, Gone v (removal s u) u ∧ Quiet s v ∧ v.oosMap = s.oosMap ++ [{ u := u, cyc := s.cycle }] ∧ v.errs = s.errs ∧
      HostOut.msix 4 3 s.cycle ∈ v.hostOut ∧ v.fabcfg = s.fabcfg ∧ v.ctxs = s.ctxs ∧ v.memil = s.memil := by
  obtain ⟨a, b, c, h⟩ := cuffStamp_event_only 0 false 1 u.stop 0 (u.index.setWidth 64) s
  unfold removal
  rw [h, recordRemoval_eq { s with gates := a, logovf := b, hostOut := c } u hroom]
  exact ⟨_, removeUnit_gone _ u hb hd, .of_eq rfl rfl rfl rfl, rfl, rfl, mem_told { s with gates := a, logovf := b, hostOut := c } 4 3, rfl, rfl, rfl⟩

theorem sortBy_singleton {α : Type} (key : α → List Nat) (x : α) : sortBy key [x] = [x] := rfl

/-- The counts of a new window are not lasting (R475). -/
theorem lasting_rollWindow {l : List ErrCount} {x : ErrCount} (h : x ∈ rollWindow l) : x.lasting = false := by
  obtain ⟨e, he, rfl⟩ := List.mem_map.mp h
  simpa using (List.mem_filter.mp he).2

/-- Without a lasting fault the window's end rolls the counts. -/
theorem rollWindow_sound (l : List ErrCount) (h : ∀ e ∈ l, e.lasting = false) :
    rollWindow l = l.map (fun e => { e with count := 0, last := e.here, here := [] }) := by
  rw [rollWindow, List.filter_eq_self.mpr (fun e he => by rw [h e he]; rfl)]

theorem healthWindowBoundary_sound (s : State) (hc : s.cycle.toNat % 2 ^ 32 = 0) (h : ∀ e ∈ s.errs, e.lasting = false) :
    healthWindowBoundary s = { s with errs := rollWindow s.errs } := by
  have hnone : s.errs.filter (·.lasting) = [] := List.filter_eq_nil_iff.mpr (fun e he => by rw [h e he]; decide)
  refine (if_neg (not_not_intro hc)).trans ?_
  rw [hnone]
  rfl

theorem healthWindowBoundary_one (s : State) {e : ErrCount} (hc : s.cycle.toNat % 2 ^ 32 = 0) (h : s.errs.filter (·.lasting) = [e]) :
    healthWindowBoundary s = removal { s with errs := rollWindow s.errs } e.u := by
  refine (if_neg (not_not_intro hc)).trans ?_
  rw [h]
  rfl

/-! ### The statement -/

/-- Settles O52: errors by the count that they leave, the window's end by the unit that it removes, a resend and a failed link by what gate 0
is given. -/
theorem healthSteps : Obligations.HealthSteps := by
  intro s u s0 old now limit
  refine ⟨fun loc he => ?_, fun pa he => ?_, fun he => ⟨fun hc => ?_, fun hc hl => ?_, fun e hc hl hu hb hd hroom => ?_⟩,
    fun stop queue seq he => ?_, fun port he hg => ?_⟩
  · obtain ⟨l, hl⟩ := updErr_only s0 u (fun e => { e with
      count := e.count + 1, here := (loc :: e.here).eraseDups, lasting := e.lasting || decide (threshold s0 ≤ e.count + 1) || e.last.contains loc })
    have hnow := errOf_correctedError s0 u loc
    rw [correctedError, hl] at hnow
    refine ⟨l, (execCorrectedError_eq he).trans (congrArg _ hl), ?_⟩
    change (errOf _ u).count = _ ∧ loc ∈ (errOf _ u).here ∧ (errOf _ u).lasting = _
    rw [hnow]
    exact ⟨rfl, List.mem_eraseDups.mpr List.mem_cons_self, rfl⟩
  · obtain ⟨⟨a, b, c, l, h⟩, hlast⟩ := uncorrectableError_spec s0 u pa
    refine ⟨_, execUncorrectableError_eq he, ?_, ?_, .of_teams ?_, fun k => ?_, hlast⟩
    case refine_4 => rw [h]; exact mapGet_set _ _ _ _ _
    all_goals rw [h]
  · rw [execHealthWindowBoundary_eq he]
    exact congrArg _ (if_pos hc)
  · rw [execHealthWindowBoundary_eq he, healthWindowBoundary_sound s0 hc hl, rollWindow_sound _ hl]
  · have hone := healthWindowBoundary_one s0 hc hl
    rw [hu] at hone
    obtain ⟨v, hgone, hquiet, hmap, herrs, htold, hfab, hctxs, hmemil⟩ :=
      removal_spec { s0 with errs := rollWindow s0.errs } u hb hd hroom
    have hpart : ∀ q, partOfQuarter v q = partOfQuarter s q := fun q => by rw [partOfQuarter, memil, hmemil]; rfl
    refine ⟨_, execHealthWindowBoundary_eq he, ?_⟩
    rw [hone]
    have hroll : Quiet s { s0 with errs := rollWindow s0.errs } := .of_eq rfl rfl rfl rfl
    refine ⟨hroll.trans (hquiet.trans hgone.quiet), hgone.map.trans hmap, hgone.told _ htold, fun x hx _ => ?_,
      hgone.core, hgone.slice, fun hk => (hgone.port hk).trans (by rw [hfab]), fun hk => ?_⟩
    · rw [hgone.errs, herrs] at hx
      exact lasting_rollWindow hx
    · obtain ⟨hbit, hoff⟩ := hgone.quarter hk
      refine ⟨hbit, fun c hx hp => hoff c (by rw [hctxs]; exact hx) ?_⟩
      rw [partOfCtx, hpart, hpart]
      exact hp
  · obtain ⟨a, b, c, h⟩ := errorResend_eq s0 stop queue seq
    refine ⟨_, execErrorResend_eq he, ?_⟩
    rw [h]
    by_cases hst : 16 ≤ stop.toNat ∧ 64 ≤ (stop.toNat - 16) % 128
    · rw [if_pos hst]
      generalize hv : { s0 with gates := a, logovf := b, hostOut := c } = v
      obtain ⟨l, hl⟩ : ∃ l, correctedError { kind := .cacheRouter, stop := stop.setWidth 16, index := 0 } queue.toNat v = { v with errs := l } :=
        updErr_only v _ _
      refine ⟨?_, fun hn => absurd hst hn, fun _ _ hu => ?_⟩
      · rw [hl, ← hv]
        exact .of_eq rfl rfl rfl rfl
      · subst hu
        have hcount := congrArg ErrCount.count (errOf_correctedError v { kind := .cacheRouter, stop := stop.setWidth 16, index := 0 } queue.toNat)
        rw [← hv] at hcount ⊢
        exact hcount
    · rw [if_neg hst]
      exact ⟨.of_eq rfl rfl rfl rfl, fun _ => rfl, fun h1 h2 => absurd ⟨h1, h2⟩ hst⟩
  · obtain ⟨⟨b, c, d, h⟩, hwrote⟩ := controllerWrite_spec s0 0x030048 (s.fabcfg &&& ~~~(BitVec.ofNat 64 (2 ^ (16 + port)))) hg
    refine ⟨_, execLinkFailure_eq he, (quiet_taken s).trans (.of_eq ?_ ?_ ?_ ?_), hwrote⟩ <;> rw [h]

end Sys2Proof.Machine
end

section
/-! ACCESSES OF LANES (O23, O25): what the steps that every access form shares leave of teams, contexts and tags, where the issuing split
stands after it retires, and what the report of a failing lane leaves. -/
namespace Sys2Proof.Machine
open Sys2Proof.Forms

/-! ### What a program sees of teams -/

/-- Of a split, what a step of its own instruction may change at its retirement only. -/
structure SplitSeen where
  regs   : SplitRegs
  pc     : BitVec 56
  pos    : Nat
  clause : Option Clause

def Split.seen (sp : Split) : SplitSeen := ⟨sp.regs, sp.pc, sp.pos, sp.clause⟩

/-- Of a team: its registers, its operations in flight and its splits. -/
structure TeamSeen where
  key      : TeamKey
  ctx      : Nat
  regs     : TeamRegs
  inflight : List InFlight
  low      : Option SplitSeen
  high     : Option SplitSeen

def Team.seen (u : Team) : TeamSeen := ⟨u.key, u.ctx, u.regs, u.inflight, u.low.map Split.seen, u.high.map Split.seen⟩

/-- No team has changed in what a program sees of it; no tag has, and no register of a context but the counters of its trace. -/
structure Unmoved (s t : State) : Prop where
  teams : ∀ k, (teamOf t k).map Team.seen = (teamOf s k).map Team.seen
  tags  : t.tags = s.tags
  ctxs  : ∀ c, ctxKept t c = ctxKept s c

theorem Unmoved.refl (s : State) : Unmoved s s := ⟨fun _ => rfl, rfl, fun _ => rfl⟩

theorem Unmoved.trans {s t u : State} (h : Unmoved s t) (g : Unmoved t u) : Unmoved s u :=
  ⟨fun k => (g.teams k).trans (h.teams k), g.tags.trans h.tags, fun c => (g.ctxs c).trans (h.ctxs c)⟩

theorem Unmoved.of_eq {s t : State} (ht : t.teams = s.teams) (hg : t.tags = s.tags) (hc : t.ctxs = s.ctxs) : Unmoved s t :=
  ⟨fun k => by rw [teamOf_congr ht], hg, fun c => by unfold ctxKept ctxRegs ctxOf; rw [hc]⟩

theorem OnlyCaches.unmoved {s t : State} (h : OnlyCaches s t) : Unmoved s t := .of_eq h.teams h.tags h.ctxs

theorem Unmoved.foldl {α : Type} (f : State → α → State) (hf : ∀ s a, Unmoved s (f s a)) (l : List α) (s : State) : Unmoved s (l.foldl f s) :=
  foldl_rel Unmoved .refl .trans f hf l s

/-- A change of one team that a program does not see. -/
theorem Unmoved.updTeam (s : State) (k : TeamKey) (f : Team → Team) (hf : ∀ u, (f u).seen = u.seen) : Unmoved s (updTeam s k f) := by
  refine ⟨fun k' => ?_, rfl, fun _ => rfl⟩
  rw [teamOf_updTeam s k f k' (fun u => congrArg TeamSeen.key (hf u))]
  by_cases h : k' = k
  · rw [if_pos h, h, Option.map_map]
    exact congrArg (Option.map · (teamOf s k)) (funext hf)
  · rw [if_neg h]

theorem Team.seen_putSplit (u : Team) (b : Bool) (f : Split → Split) (hf : ∀ sp, (f sp).seen = sp.seen) :
    (putSplit u b ((splitIn u b).map f)).seen = u.seen := by
  have h (o : Option Split) : (o.map f).map Split.seen = o.map Split.seen := by
    rw [Option.map_map]
    exact congrArg (Option.map · o) (funext hf)
  cases b <;> simp [Team.seen, putSplit, splitIn, Team.regs, h]

theorem Unmoved.updSplit (s : State) (r : SplitRef) (f : Split → Split) (hf : ∀ sp, (f sp).seen = sp.seen) : Unmoved s (updSplit s r f) :=
  Unmoved.updTeam s r.team _ (fun u => Team.seen_putSplit u r.high f hf)

/-- A change of the trace counters of a context. -/
theorem Unmoved.updCtx (s : State) (c : Nat) (f : Ctx → Ctx)
    (hf : ∀ x, { f x with faultQ := [], trcnext := 0, trcdrop := 0 } = { x with faultQ := [], trcnext := 0, trcdrop := 0 }) :
    Unmoved s (updCtx s c f) := by
  refine ⟨fun _ => rfl, rfl, fun k => ?_⟩
  unfold ctxKept ctxRegs
  rw [ctxOf_updCtx]
  by_cases h : k = c
  · rw [if_pos h, h]
    exact hf _
  · rw [if_neg h]

section Seen
variable {s t : State}

theorem Unmoved.team (h : Unmoved s t) {k : TeamKey} {u : Team} (hu : teamOf s k = some u) : ∃ v, teamOf t k = some v ∧ v.seen = u.seen := by
  have e := h.teams k
  rw [hu] at e
  exact Option.map_eq_some_iff.mp e

theorem splitIn_seen (u : Team) (b : Bool) : (splitIn u b).map Split.seen = if b then u.seen.high else u.seen.low := by cases b <;> rfl

theorem splitIn_of_seen {u v : Team} (h : v.seen = u.seen) {b : Bool} {sp : Split} (hs : splitIn u b = some sp) :
    ∃ q, splitIn v b = some q ∧ q.seen = sp.seen := by
  have e : (splitIn v b).map Split.seen = (splitIn u b).map Split.seen := by rw [splitIn_seen, splitIn_seen, h]
  rw [hs] at e
  exact Option.map_eq_some_iff.mp e

theorem map_teamOf_congr {β : Type} (p : TeamSeen → β) (h : Unmoved s t) (k : TeamKey) :
    (teamOf t k).map (fun u => p u.seen) = (teamOf s k).map (fun u => p u.seen) := by
  have e := congrArg (Option.map p) (h.teams k)
  rwa [Option.map_map, Option.map_map] at e

theorem Unmoved.inflight (h : Unmoved s t) (k : TeamKey) : (teamOf t k).map Team.inflight = (teamOf s k).map Team.inflight :=
  map_teamOf_congr TeamSeen.inflight h k

theorem flagAt_of_inflight (h : ∀ k, (teamOf t k).map Team.inflight = (teamOf s k).map Team.inflight) (r : SplitRef) (n : Nat) :
    flagAt t r n = flagAt s r n := by
  have e := h r.team
  unfold flagAt
  cases hs : teamOf s r.team with
  | none =>
    rw [hs] at e
    rw [Option.map_eq_none_iff.mp e]
  | some u =>
    rw [hs] at e
    obtain ⟨v, hv, hin⟩ := Option.map_eq_some_iff.mp e
    rw [hv]
    exact flagSet_eq v u (by unfold flagsOf; rw [hin]) _ _

theorem Unmoved.flags (h : Unmoved s t) (r : SplitRef) (n : Nat) : flagAt t r n = flagAt s r n := flagAt_of_inflight h.inflight r n

theorem Unmoved.regs (h : Unmoved s t) : SameRegs s t := by
  refine ⟨fun k => map_teamOf_congr TeamSeen.regs h k, fun r => ?_⟩
  unfold splitRegs splitOf
  cases hu : teamOf s r.team with
  | none =>
    have e := h.teams r.team
    rw [hu] at e
    rw [Option.map_eq_none_iff.mp e]
  | some u =>
    obtain ⟨v, hv, hseen⟩ := h.team hu
    rw [hv, Option.bind_some, Option.bind_some]
    have e : (splitIn v r.high).map Split.seen = (splitIn u r.high).map Split.seen := by rw [splitIn_seen, splitIn_seen, hseen]
    have e := congrArg (Option.map SplitSeen.regs) e
    rwa [Option.map_map, Option.map_map] at e

end Seen

theorem SameRegs.refl (s : State) : SameRegs s s := ⟨fun _ => rfl, fun _ => rfl⟩

/-! ### The steps that access forms share -/

/-- Only translation caches may have changed. -/
def OnlyTlb (s t : State) : Prop := ∃ a, t = { s with tlb := a }

theorem OnlyTlb.refl (s : State) : OnlyTlb s s := ⟨_, rfl⟩

theorem OnlyTlb.trans {s t u : State} (h : OnlyTlb s t) (g : OnlyTlb t u) : OnlyTlb s u := by
  obtain ⟨_, rfl⟩ := h
  obtain ⟨a, rfl⟩ := g
  exact ⟨a, rfl⟩

theorem OnlyTlb.caches {s t : State} (h : OnlyTlb s t) : OnlyCaches s t := by
  obtain ⟨a, h⟩ := h
  exact ⟨a, _, _, _, h⟩

theorem translate_tlb (s : State) (via : Via) (c va : Nat) : OnlyTlb s (translate s via c va).1 := by
  unfold translate
  simp only
  split
  · exact tlbKeep_only _ _ s
  · split
    · exact .refl s
    · exact .refl s
    · split
      · exact OnlyTlb.trans (walkKeep_only _ _ s) (tlbKeep_only _ _ _)
      · exact .refl s

theorem checkPiece_tlb (s : State) (w : Who) (a : Access) (tag : BitVec 4) (va n : Nat) : OnlyTlb s (checkPiece s w a tag va n).1 := by
  have ht := translate_tlb s w.via w.ctx va
  unfold checkPiece
  split
  · next h => rwa [h] at ht
  · next h => rwa [h] at ht
  · next h =>
    rw [h] at ht
    simp only
    split
    · exact ht
    · split
      · split <;> exact ht
      · exact ht

theorem checkPieces_tlb (w : Who) (a : Access) (tag : BitVec 4) (l : List (Nat × Nat)) :
    ∀ s, OnlyTlb s (checkPieces s w a tag l).1 := by
  induction l with
  | nil => exact .refl
  | cons p l ih =>
    intro s
    have hp := checkPiece_tlb s w a tag p.1 p.2
    unfold checkPieces
    split
    · next s1 ts uc h =>
      rw [h] at hp
      have hl := hp.trans (ih s1)
      split
      · next h => rwa [h] at hl
      · exact hl
    · exact hp

theorem checkAccess_tlb (s : State) (w : Who) (a : Access) : OnlyTlb s (checkAccess s w a).1 := by
  unfold checkAccess
  simp only
  split
  · exact .refl s
  split
  · exact .refl s
  split
  · split
    · exact .refl s
    split
    · exact .refl s
    · exact checkPieces_tlb _ _ _ _ s
  · split
    · exact .refl s
    · exact .refl s
    · split
      · exact .refl s
      · exact checkPieces_tlb _ _ _ _ s

theorem checkAccess_caches (s : State) (w : Who) (a : Access) : OnlyCaches s (checkAccess s w a).1 := (checkAccess_tlb s w a).caches

theorem checkLanes_caches (x : Iss) (l : List LaneAcc) : ∀ s, OnlyCaches s (checkLanes x l s).1 := by
  induction l with
  | nil => exact .refl
  | cons a l ih => exact fun s => (checkAccess_caches s _ _).trans (ih _)

theorem laneAdd_only (s : State) (core ctx idx n : Nat) : ∃ a b, laneAdd s core ctx idx n = { s with cores := a, agenda := b } := by
  unfold laneAdd
  simp only
  split
  · exact ⟨s.cores, s.agenda, rfl⟩
  · split
    · exact ⟨_, s.agenda, rfl⟩
    · exact ⟨_, _, rfl⟩

/-- Only state of cores and the agenda has changed. -/
def OnlyCharged (s t : State) : Prop := ∃ a b, t = { s with cores := a, agenda := b }

theorem OnlyCharged.refl (s : State) : OnlyCharged s s := ⟨s.cores, s.agenda, rfl⟩

theorem OnlyCharged.trans {s t u : State} (h : OnlyCharged s t) (g : OnlyCharged t u) : OnlyCharged s u := by
  obtain ⟨_, _, rfl⟩ := h
  obtain ⟨a, b, rfl⟩ := g
  exact ⟨a, b, rfl⟩

theorem OnlyCharged.unmoved {s t : State} (h : OnlyCharged s t) : Unmoved s t := by
  obtain ⟨_, _, rfl⟩ := h
  exact .of_eq rfl rfl rfl

theorem laneCharge_charged (s : State) (core ctx : Nat) (pc : BitVec 56) (c n : Nat) : OnlyCharged s (laneCharge s core ctx pc c n) :=
  laneAdd_only s core ctx _ n

theorem chargeRow_charged (s : State) (t : Team) (m a : LaneMask) (pc : BitVec 56) (k row : Nat) : OnlyCharged s (chargeRow s t m a pc k row) :=
  foldl_rel OnlyCharged .refl .trans _ (fun s _ => laneCharge_charged s _ _ _ _ _) _ s

theorem chargeIdle_charged (x : Iss) (s : State) : OnlyCharged s (chargeIdle x s) := by
  unfold chargeIdle
  split
  · split
    · exact laneCharge_charged _ _ _ _ _ _
    · exact .refl s
  · exact .refl s

theorem writeMem_unmoved (s : State) (pa n : Nat) (f : Nat → Byte) : Unmoved s (writeMem s pa n f) := by
  obtain ⟨_, _, _, h⟩ := writeMem_only s pa n f
  rw [h]
  exact .of_eq rfl rfl rfl

theorem writeMem_blocks (s : State) (pa n : Nat) (f : Nat → Byte) : (writeMem s pa n f).blocks = s.blocks := by
  obtain ⟨_, _, _, h⟩ := writeMem_only s pa n f
  rw [h]

/-- A bank-conflict record writes memory where the trace writes its records, and else changes counters and core state (R505). -/
theorem bankRecord_unmoved (x : Iss) (late : Nat) (offs : List Nat) (s : State) :
    Unmoved s (bankRecord x late offs s) ∧ (bankRecord x late offs s).blocks = s.blocks ∧
      (bits (ctxOf s x.team.ctx).trcbc 63 63 = 0 → (bankRecord x late offs s).mem = s.mem) := by
  unfold bankRecord
  simp only
  split
  · exact ⟨.refl s, rfl, fun _ => rfl⟩
  split
  · exact ⟨.updCtx s _ _ (fun _ => rfl), rfl, fun _ => rfl⟩
  split
  · exact ⟨.of_eq rfl rfl rfl, rfl, fun _ => rfl⟩
  · next hoff =>
    generalize hs1 : Machine.updCore s _ _ = s1
    generalize bits (ctxOf s x.team.ctx).trcbc 43 0 * 4096 % 2 ^ 48 + 32 * (ctxOf s x.team.ctx).trcnext.toNat = pa
    have h1 : Unmoved s s1 := hs1 ▸ .of_eq rfl rfl rfl
    have hb : s1.blocks = s.blocks := hs1 ▸ rfl
    refine ⟨h1.trans (Unmoved.trans ?_ (.updCtx _ _ _ (fun _ => rfl))), ?_, fun h => absurd h hoff⟩
    · exact writeMem_unmoved s1 pa 32 _
    · exact (writeMem_blocks s1 pa 32 _).trans hb

/-! ### Bank conflicts -/

/-- What the conflicts of row passes, and accesses that only charge, leave: teams and blocks as they were, and memory unless a trace writes. -/
structure Traced (c : Nat) (s t : State) : Prop where
  unmoved : Unmoved s t
  blocks  : t.blocks = s.blocks
  mem     : bits (ctxOf s c).trcbc 63 63 = 0 → t.mem = s.mem

theorem Unmoved.trace {s t : State} (h : Unmoved s t) (c : Nat) : (ctxOf t c).trcbc = (ctxOf s c).trcbc := by
  have e := congrArg Ctx.trcbc (h.ctxs c)
  exact e

theorem Traced.refl (c : Nat) (s : State) : Traced c s s := ⟨.refl s, rfl, fun _ => rfl⟩

theorem Traced.trans {c : Nat} {s t u : State} (h : Traced c s t) (g : Traced c t u) : Traced c s u :=
  ⟨h.unmoved.trans g.unmoved, g.blocks.trans h.blocks, fun e => (g.mem (by rw [h.unmoved.trace]; exact e)).trans (h.mem e)⟩

theorem OnlyCharged.traced {s t : State} (h : OnlyCharged s t) (c : Nat) : Traced c s t := by
  refine ⟨h.unmoved, ?_, fun _ => ?_⟩ <;> (obtain ⟨_, _, rfl⟩ := h; rfl)

theorem conflicts_traced (x : Iss) (l : List (LaneAcc × List Target)) (s : State) : Traced x.team.ctx s (conflicts x l s) := by
  unfold conflicts
  simp only
  generalize List.filterMap _ (List.range x.team.rows) = rows
  have hrec : ∀ (rows : List (List Nat)) (p : State × Nat), Traced x.team.ctx p.1
      (rows.foldl (fun acc o => (bankRecord x acc.2 o acc.1, acc.2 + degree o)) p).1 := by
    intro rows
    induction rows with
    | nil => exact fun p => .refl _ p.1
    | cons o rows ih =>
      intro p
      obtain ⟨hu, hb, hm⟩ := bankRecord_unmoved x p.2 o p.1
      exact Traced.trans ⟨hu, hb, hm⟩ (ih (bankRecord x p.2 o p.1, p.2 + degree o))
  have hrec := hrec rows (s, 0)
  generalize List.foldl _ (s, 0) rows = p at hrec ⊢
  have hcharge : Traced x.team.ctx p.1 ((List.range x.team.rows).foldl (fun s r =>
      chargeRow s x.team x.split.mask x.active x.pc (degree (rowOffs x l r) - 1) r) p.1) :=
    OnlyCharged.traced (foldl_rel OnlyCharged .refl .trans _ (fun s _ => chargeRow_charged s _ _ _ _ _ _) _ p.1) _
  generalize List.foldl _ p.1 _ = s1 at hcharge ⊢
  exact hrec.trans (hcharge.trans ⟨.updSplit _ _ _ (fun _ => rfl), rfl, fun _ => rfl⟩)

/-! ### The split after it retires -/

theorem blockStore_of_regs {s t : State} (h : ∀ d i, blockRegs t d i = blockRegs s d i) (d : BitVec 64) (i : Nat) :
    blockStore t d i = blockStore s d i := by
  have e := congrArg (Option.map (fun b : Block => (b.spad, b.tiles))) (h d i)
  unfold blockRegs at e
  rwa [Option.map_map, Option.map_map] at e

theorem blockStore_of_blocks {s t : State} (h : t.blocks = s.blocks) (d : BitVec 64) (i : Nat) : blockStore t d i = blockStore s d i := by
  unfold blockStore blockOf
  rw [h]

theorem ctxKept_of_regs {s t : State} {c : Nat} (h : ctxRegs t c = ctxRegs s c) : ctxKept t c = ctxKept s c := by
  unfold ctxKept
  rw [h]

theorem putSplit_inflight_map (u : Team) (b : Bool) (sp : Split) : (putSplit u b (some sp)).inflight = u.inflight := putSplit_inflight u b _

/-- The issuing split stands at its instruction in a state, with its registers. -/
structure AtIssue (x : Iss) (u : State) : Prop where
  stands : ∃ tm sp, teamOf u x.ref.team = some tm ∧ tm.ctx = x.team.ctx ∧ splitIn tm x.ref.high = some sp ∧ sp.seen = x.split.seen
  clause : x.split.clause = some x.clause

theorem AtIssue.start {i : Instr} {s : State} {x : Iss} (h : Issues i s x) : AtIssue x (popIssue s) := by
  obtain ⟨ht, hsp, hc, _⟩ := h.team
  exact ⟨⟨x.team, x.split, ht, rfl, hsp, rfl⟩, hc⟩

theorem AtIssue.unmoved {x : Iss} {u v : State} (h : AtIssue x u) (g : Unmoved u v) : AtIssue x v := by
  obtain ⟨⟨tm, sp, htm, hctx, hsp, hseen⟩, hc⟩ := h
  obtain ⟨tv, htv, hts⟩ := g.team htm
  obtain ⟨q, hq, hqs⟩ := splitIn_of_seen hts hsp
  exact ⟨⟨tv, q, htv, (congrArg TeamSeen.ctx hts).trans hctx, hq, hqs.trans hseen⟩, hc⟩

/-- What a retirement, with steps after it that move no team, leaves of the state before it (R252). -/
structure RetiredFrom (x : Iss) (u t : State) : Prop where
  next     : Advanced x t
  regs     : SameRegs u t
  inflight : ∀ k, (teamOf t k).map Team.inflight = (teamOf u k).map Team.inflight
  tags     : t.tags = u.tags
  ctxs     : ∀ c, ctxKept t c = ctxKept u c

theorem retiredFrom {x : Iss} {u t : State} (h : AtIssue x u) (g : Unmoved (retire x u) t) : RetiredFrom x u t := by
  obtain ⟨⟨tm, sp, htm, -, hsp, hseen⟩, hc⟩ := h
  obtain ⟨sp', htm', hregs, hplace⟩ := retire_team x u tm sp htm hsp
  have hteam : ∀ k, k ≠ x.ref.team → teamOf (retire x u) k = teamOf u k := fun k hk => retire_teams x u k hk
  have hsame : SameRegs u (retire x u) := by
    refine ⟨fun k => ?_, fun r => ?_⟩
    · by_cases hk : k = x.ref.team
      · rw [hk, teamRegs, teamRegs, htm', htm, Option.map_some, Option.map_some, putSplit_regs]
      · rw [teamRegs, teamRegs, hteam k hk]
    · by_cases hk : r.team = x.ref.team
      · rw [splitRegs, splitRegs, splitOf, splitOf, hk, htm', htm, Option.bind_some, Option.bind_some]
        by_cases hh : r.high = x.ref.high
        · rw [hh, splitIn_putSplit, hsp]
          exact congrArg some hregs
        · rw [Bool.eq_not.mpr hh, splitIn_putSplit_not]
      · rw [splitRegs, splitRegs, splitOf, splitOf, hteam _ hk]
  refine ⟨?_, hsame.trans g.regs, fun k => (g.inflight k).trans ?_, g.tags.trans ?_, fun c => (g.ctxs c).trans (ctxKept_of_regs (retire_ctxs x u c))⟩
  · obtain ⟨tv, htv, hts⟩ := g.team htm'
    obtain ⟨q, hq, hqs⟩ := splitIn_of_seen hts (splitIn_putSplit _ _ _)
    refine ⟨q, by rw [splitOf, htv]; exact hq, ?_⟩
    have hpc : q.pc = sp'.pc := congrArg SplitSeen.pc hqs
    have hpos : q.pos = sp'.pos := congrArg SplitSeen.pos hqs
    have hcl : q.clause = sp'.clause := congrArg SplitSeen.clause hqs
    rw [hpc, hpos, hcl]
    split
    · next hl =>
      rw [if_pos hl] at hplace
      exact hplace
    · next hl =>
      rw [if_neg hl] at hplace
      obtain ⟨p1, p2, p3⟩ := hplace
      exact ⟨p1.trans (congrArg SplitSeen.pc hseen), p2, p3.trans ((congrArg SplitSeen.clause hseen).trans hc)⟩
  · by_cases hk : k = x.ref.team
    · rw [hk, htm', htm, Option.map_some, Option.map_some, putSplit_inflight]
    · rw [hteam k hk]
  · have e := congrArg State.tags (retire_outside x u)
    exact e

theorem retire_mem (x : Iss) (u : State) : (retire x u).mem = u.mem := by
  have e := congrArg State.mem (retire_outside x u)
  exact e

theorem Unmoved.popIssue (s : State) : Unmoved s (popIssue s) := .of_eq rfl rfl rfl

/-! ### The report of a failing lane -/

theorem splitOf_parkTeam (s : State) (k : TeamKey) (r : SplitRef) : splitOf (parkTeam s k) r = splitOf s r := by
  have e := teamOf_updTeam s k (fun t => { t with parked := true }) r.team (fun _ => rfl)
  unfold splitOf parkTeam
  rw [e]
  by_cases h : r.team = k
  · rw [if_pos h, h]
    cases teamOf s k <;> rfl
  · rw [if_neg h]

/-- What follows a fault parks teams at most: every split is as it was. -/
theorem stopDispatch_splits (s : State) (id : BitVec 64) (status : BitVec 32) (r : SplitRef) :
    splitOf (stopDispatch s id status) r = splitOf s r := by
  unfold stopDispatch
  split
  · rfl
  · split
    · rfl
    · simp only
      generalize hs1 : updDisp s id _ = s1
      have h1 : splitOf s1 r = splitOf s r := hs1 ▸ rfl
      have h2 := foldl_rel (fun s t => splitOf t r = splitOf s r) (fun _ => rfl) (fun h g => g.trans h) (fun s (t : Team) => parkTeam s t.key)
        (fun s t => splitOf_parkTeam s t.key r) (teamsOfDisp s id) s1
      generalize List.foldl _ s1 _ = s2 at h2 ⊢
      split <;> exact h2.trans h1

/-- A fault at an instruction holds the split there, with the resume mask (R447). -/
theorem raiseFault_split (s : State) (r : SplitRef) (f : FaultSpec) (hf : f.atInstr = true) :
    splitOf (raiseFault s r f) r = (splitOf s r).map (fun sp => { sp with
      resume := some { mask := f.lanes, atInstr := true, after := f.after }, retry := none, stepping := false, waited := none }) := by
  unfold raiseFault
  cases hu : teamOf s r.team with
  | none => simp [splitOf, hu]
  | some u =>
    simp only [hf, if_true]
    generalize hs1 : queueRec s _ _ = s1
    have h1 : splitOf s1 r = splitOf s r := hs1 ▸ rfl
    have h3 : splitOf (updDisp (updSplit (parkTeam s1 r.team) r (fun sp => { sp with
        resume := some { mask := f.lanes, atInstr := true, after := f.after }, retry := none, stepping := false, waited := none })) r.team.disp
        (fun d => { d with faulted := true })) r = (splitOf s r).map (fun sp => { sp with
          resume := some { mask := f.lanes, atInstr := true, after := f.after }, retry := none, stepping := false, waited := none }) := by
      refine (splitOf_updSplit _ r _).trans ?_
      rw [splitOf_parkTeam, h1]
    split
    · exact (stopDispatch_splits _ _ _ r).trans h3
    · exact h3

/-- The record of a fault waits for the ring of the team's context. -/
theorem raiseFault_recorded (s : State) (r : SplitRef) (f : FaultSpec) (u : Team) (hu : teamOf s r.team = some u) :
    faultRecord s u r f ∈ (ctxOf (raiseFault s r f) u.ctx).faultQ := by
  have hpark : OnlyParks r.team (queueRec s u.ctx (faultRecord s u r f)) (parkTeam (queueRec s u.ctx (faultRecord s u r f)) r.team) := .parkTeam _ _
  rw [(hpark.trans (raiseFault_parks s r f u hu)).queue]
  unfold queueRec
  rw [ctxOf_updCtx, if_pos rfl]
  exact mem_insertRec _ _

/-- The parked team and its split, held at the instruction, after a fault of the issuing split. -/
theorem raiseFault_held {x : Iss} {u : State} (h : AtIssue x u) (f : FaultSpec) (hf : f.atInstr = true) (ha : f.after = none) :
    ∃ v sp, teamOf (raiseFault u x.ref f) x.ref.team = some v ∧ v.parked = true ∧ splitIn v x.ref.high = some sp ∧
      sp.resume = some { mask := f.lanes, atInstr := true } ∧ sp.pc = x.split.pc ∧ sp.pos = x.split.pos ∧
      sp.clause = x.split.clause ∧ sp.regs = x.split.regs := by
  obtain ⟨⟨tm, sp, htm, -, hsp, hseen⟩, -⟩ := h
  obtain ⟨-, -, -, hpark, -⟩ := raiseFault_faulted u x.ref f tm htm
  obtain ⟨v, hv, hvp⟩ := Option.map_eq_some_iff.mp hpark
  have hs := raiseFault_split u x.ref f hf
  rw [splitOf, splitOf, hv, htm, Option.bind_some, Option.bind_some, hsp, ha] at hs
  exact ⟨v, _, hv, hvp, hs, rfl, congrArg SplitSeen.pc hseen, congrArg SplitSeen.pos hseen, congrArg SplitSeen.clause hseen,
    congrArg SplitSeen.regs hseen⟩

theorem key_of_teamOf {s : State} {k : TeamKey} {u : Team} (h : teamOf s k = some u) : u.key = k := by simpa using List.find?_some h

/-- Failing lanes are reported in one record, with the split held at its instruction (R444, R447). -/
theorem reportLanes_faulted {x : Iss} {s u t : State} {bad : List Bad} {b : Bad} {acc : BitVec 8} {write : Bool} (h : AtIssue x u)
    (hb : lowest bad = some b) (ht : OnlyCharged (reportLanes x bad true acc write u) t) : LaneFaulted s t x b bad := by
  unfold reportLanes at ht
  rw [hb] at ht
  simp only at ht
  generalize hf : FaultSpec.mk b.cause x.pc _ true b.lane acc b.ga write _ _ false none = f at ht
  have hat : f.atInstr = true := by rw [← hf]
  have haf : f.after = none := by rw [← hf]
  have hheld := raiseFault_held h f hat haf
  obtain ⟨tm, sp, htm, hctx, -⟩ := h.stands
  have hrec := raiseFault_recorded u x.ref f tm htm
  obtain ⟨a, c, rfl⟩ := ht
  rw [hctx] at hrec
  have hkey := key_of_teamOf htm
  refine ⟨⟨_, hrec, ?_⟩, ?_⟩
  · rw [← hf]
    exact ⟨rfl, rfl, rfl, rfl, congrArg TeamKey.disp hkey, congrArg (fun k : TeamKey => BitVec.ofNat 32 k.block) hkey,
      congrArg (fun k : TeamKey => BitVec.ofNat 8 k.team) hkey⟩
  · obtain ⟨v, q, hv, hp, hq, hr, h1⟩ := hheld
    refine ⟨v, q, hv, hp, hq, hr.trans ?_, h1⟩
    rw [← hf]

/-- A fault of the instruction as a whole: the active set is the resume mask (R273, R444, R447). -/
theorem faultTaken_of_raise {i : Instr} {s : State} {x : Iss} (hx : Issues i s x) (f : FaultSpec) (hf : f.atInstr = true) (ha : f.after = none)
    (hl : f.lanes = x.active) (hp : f.pc = x.pc) : FaultTaken s (chargeIdle x (raiseFault (popIssue s) x.ref f)) x f.cause f.info := by
  obtain ⟨hteam, -⟩ := hx.team
  have hteam : teamOf (popIssue s) x.ref.team = some x.team := hteam
  have hheld := raiseFault_held (AtIssue.start hx) f hf ha
  have hrec := raiseFault_recorded (popIssue s) x.ref f x.team hteam
  obtain ⟨-, -, -, -, hmem, htags, hregs⟩ := raiseFault_faulted (popIssue s) x.ref f x.team hteam
  obtain ⟨a, c, hc⟩ := chargeIdle_charged x (raiseFault (popIssue s) x.ref f)
  have hkey := key_of_teamOf hteam
  rw [hc]
  refine ⟨⟨_, hrec, rfl, rfl, congrArg (BitVec.setWidth 64) hp, rfl, congrArg TeamKey.disp hkey, congrArg (fun k : TeamKey => BitVec.ofNat 32 k.block) hkey,
    congrArg (fun k : TeamKey => BitVec.ofNat 8 k.team) hkey, rfl, rfl, rfl⟩, ?_, hregs, hmem, htags⟩
  rw [hl] at hheld
  exact hheld

/-- A form with an empty active set, or whose effect a program does not see, passes (R232, R252). -/
theorem passes_of_caches {i : Instr} {s u : State} {x : Iss} (hx : Issues i s x) (ho : outside u = outside s) (ht : u.teams = s.teams)
    (hb : u.blocks = s.blocks) (hc : u.ctxs = s.ctxs) : Passed s (chargeIdle x (retire x u)) x x.split.regs := by
  obtain ⟨hteam, hsp, hcl, -⟩ := hx.team
  have hp : Prep s u x x.team x.split :=
    ⟨ho, fun c => by unfold ctxRegs ctxOf; rw [hc], fun d j => by unfold blockRegs blockOf; rw [hb], fun k _ => teamOf_congr ht k,
      (teamOf_congr ht _).trans hteam, hsp, rfl⟩
  obtain ⟨hin, sp', htm, hregs, hplace⟩ := hp.done hteam rfl
  have hsplit : splitOf (chargeIdle x (retire x u)) x.ref = some sp' := by rw [splitOf, htm, Option.bind_some, splitIn_putSplit]
  refine ⟨hin, ⟨sp', hsplit, ?_⟩, ?_, fun n => ?_, ?_⟩
  · rwa [hcl] at hplace
  · rw [splitRegs, hsplit]
    exact congrArg some hregs
  · rw [flagAt, flagAt, htm, hteam]
    exact flagSet_eq _ _ (by unfold flagsOf; rw [putSplit_inflight]) _ _
  · rw [teamRegs, teamRegs, htm, hteam, Option.map_some, Option.map_some, putSplit_regs]

end Sys2Proof.Machine
end

section
/-! VALUES IN FLIGHT (O23, O25): what an operation that an access form puts in flight will write, and what putting it there leaves. -/
namespace Sys2Proof.Machine
open Sys2Proof.Forms

/-! ### What an operation will write -/

/-- What a list of writes leaves in a register of a lane: vector codes below 128, scalar ones from 128 on (R264). -/
def writtenBy (ws : List RegWrite) (code lane : Nat) : Option Word :=
  (ws.find? (fun w => decide (w.code = code) && (decide (128 ≤ code) || decide (w.lane = lane)))).map (·.val)

theorem opd_vec {code : BitVec 8} {v : Nat} (h : opd code = .vec v) : code.toNat = v ∧ v < 128 := by
  unfold opd at h
  simp only at h
  split at h
  · next hlt => exact ⟨Opd.vec.inj h, (Opd.vec.inj h) ▸ hlt⟩
  · split_ifs at h

theorem opd_scal {code : BitVec 8} {v : Nat} (h : opd code = .scal v) : code.toNat = 128 + v := by
  unfold opd at h
  simp only at h
  split at h
  · cases h
  · split at h
    · next hge hlt =>
      have := Opd.scal.inj h
      omega
    · split_ifs at h

/-- A list whose later parts are looked at only where the earlier ones have no such element. -/
theorem find_flatMap_range {α : Type} (f : Nat → List α) (p : α → Bool) (k i : Nat) (hi : i < k) (hother : ∀ j, j ≠ i → (f j).find? p = none) :
    ((List.range k).flatMap f).find? p = (f i).find? p := by
  induction k with
  | zero => omega
  | succ k ih =>
    rw [List.range_succ, List.flatMap_append, List.find?_append, List.flatMap_singleton]
    by_cases hk : i = k
    · have hnone : ((List.range k).flatMap f).find? p = none := by
        rw [List.find?_eq_none]
        intro a ha
        obtain ⟨j, hj, haj⟩ := List.mem_flatMap.mp ha
        exact List.find?_eq_none.mp (hother j (by have := List.mem_range.mp hj; omega)) a haj
      rw [hnone, Option.none_or, hk]
    · rw [ih (by omega), hother k (Ne.symm hk), Option.or_none]

/-- The writes of a vector destination: each lane its own number (R224, R264). -/
theorem writtenBy_vec {x : Iss} {code : BitVec 8} {v k : Nat} (h : opd code = .vec v) (hk : v + k ≤ 128) (m : LaneMask) (f : Nat → Nat) {i l : Nat}
    (hi : i < k) (hl : l ∈ lanesOf x.n m) : writtenBy (regWrites x code k m f) (code.toNat + i) l = some (BitVec.ofNat 32 (f l >>> (32 * i))) := by
  obtain ⟨hc, hv⟩ := opd_vec h
  unfold writtenBy regWrites
  rw [h]
  simp only
  rw [find_flatMap_range _ _ k i hi]
  · have hsmall : decide (128 ≤ code.toNat + i) = false := decide_eq_false (by omega)
    rw [List.find?_map, hsmall]
    have hp : ((fun w : RegWrite => decide (w.code = code.toNat + i) && (false || decide (w.lane = l))) ∘
        fun l => { code := v + i, lane := l, val := BitVec.ofNat 32 (f l >>> (32 * i)) }) = fun j => decide (j = l) := by
      funext j
      simp [hc]
    rw [hp]
    cases hfind : (lanesOf x.n m).find? (fun j => decide (j = l)) with
    | none => exact absurd (decide_eq_true rfl) (List.find?_eq_none.mp hfind l hl)
    | some j =>
      have hj : j = l := by simpa using List.find?_some hfind
      rw [hj]
      rfl
  · intro j hj
    rw [List.find?_eq_none]
    intro w hw
    obtain ⟨l', -, rfl⟩ := List.mem_map.mp hw
    simp [hc]
    omega

/-- The writes of a scalar destination: its one number. -/
theorem writtenBy_scal {x : Iss} {code : BitVec 8} {v k : Nat} (h : opd code = .scal v) (m : LaneMask) (f : Nat → Nat) {i : Nat} (l : Nat)
    (hi : i < k) : writtenBy (regWrites x code k m f) (code.toNat + i) l = some (BitVec.ofNat 32 (f 0 >>> (32 * i))) := by
  have hc := opd_scal h
  unfold writtenBy regWrites
  rw [h]
  simp only
  rw [find_flatMap_range _ _ k i hi]
  · simp [hc]
    omega
  · intro j hj
    simp [hc]
    omega

/-! ### Putting an operation in flight -/

/-- Operations marked as lost keep their flags. -/
theorem markLost_inflight (t : Team) (code : Nat) (m : LaneMask) :
    ∃ l, markLost t code m = { t with inflight := l } ∧ l.map (fun e => (e.flag, e.low, e.high)) = flagsOf t :=
  ⟨_, rfl, (markLost_rest t code m).2.2.2.2⟩

theorem markLosts_inflight (ws : List RegWrite) (t : Team) : ∃ l,
    ws.foldl (fun t w => markLost t w.code (maskOf (w.lane + 1) (fun l => decide (l = w.lane)))) t = { t with inflight := l } ∧
      l.map (fun e => (e.flag, e.low, e.high)) = flagsOf t := by
  induction ws generalizing t with
  | nil => exact ⟨t.inflight, rfl, rfl⟩
  | cons w ws ih =>
    obtain ⟨l, hl, hflags⟩ := markLost_inflight t w.code (maskOf (w.lane + 1) (fun l => decide (l = w.lane)))
    obtain ⟨l', hl', hflags'⟩ := ih { t with inflight := l }
    exact ⟨l', by rw [List.foldl_cons, hl, hl'], hflags'.trans hflags⟩

/-- An operation is in flight: it is the newest of the issuing team, under the flag of its clause, and nothing else that a program sees has
changed (R259). -/
structure Flying (x : Iss) (flag : Nat) (ws : List RegWrite) (s t : State) : Prop where
  issue  : AtIssue x t
  regs   : SameRegs s t
  flags  : ∀ n, flagAt t x.ref n = (flagAt s x.ref n || decide (n = flag))
  others : ∀ r n, r ≠ x.ref → flagAt t r n = flagAt s r n
  tags   : t.tags = s.tags
  ctxs   : t.ctxs = s.ctxs
  blocks : t.blocks = s.blocks
  mem    : t.mem = s.mem
  flight : ∃ u e, teamOf t x.ref.team = some u ∧ e ∈ u.inflight ∧ e.id = s.nextOp ∧ e.flag = flag ∧ e.state = .ready ∧
    ∀ code l, willWrite e code l = writtenBy ws code l

/-- The operation that an access puts in flight (R259). -/
def newFlight (x : Iss) (ws : List RegWrite) (op : Nat) (t : Team) : InFlight :=
  { id := op, flag := bits x.clause.header 15 12, low := !x.ref.high, high := x.ref.high, state := .ready
    writes := ws.map (fun w => { w with lost := pendingReg t w.code w.lane })
    reads := [], lost := false, spoilt := [], xf := 0, trap := none }

theorem newFlight_writes (x : Iss) (ws : List RegWrite) (op : Nat) (t : Team) (code l : Nat) :
    willWrite (newFlight x ws op t) code l = writtenBy ws code l := by
  unfold willWrite writtenBy newFlight
  simp only
  rw [List.find?_map, Option.map_map]
  rfl

/-- The team with the operation in flight. -/
def withFlight (x : Iss) (ws : List RegWrite) (op : Nat) (t : Team) : Team :=
  let u := ws.foldl (fun t w => markLost t w.code (maskOf (w.lane + 1) (fun l => decide (l = w.lane)))) t
  { u with inflight := u.inflight ++ [newFlight x ws op t] }

theorem addFlight_eq (x : Iss) (ws : List RegWrite) (s : State) :
    addFlight x false .ready ws [] 0 none s = { updTeam s x.ref.team (withFlight x ws s.nextOp) with nextOp := s.nextOp + 1 } := rfl

theorem withFlight_eq (x : Iss) (ws : List RegWrite) (op : Nat) (t : Team) : ∃ l,
    withFlight x ws op t = { t with inflight := l ++ [newFlight x ws op t] } ∧ l.map (fun e => (e.flag, e.low, e.high)) = flagsOf t := by
  obtain ⟨l, hl, hflags⟩ := markLosts_inflight ws t
  exact ⟨l, by unfold withFlight; simp only [hl], hflags⟩

theorem flagSet_withFlight (x : Iss) (ws : List RegWrite) (op : Nat) (t : Team) (b : Bool) (n : Nat) :
    flagSet (withFlight x ws op t) b n = (flagSet t b n || (decide (n = bits x.clause.header 15 12) && decide (b = x.ref.high))) := by
  obtain ⟨l, hl, hflags⟩ := withFlight_eq x ws op t
  have h := flagSet_eq { t with inflight := l } t hflags b n
  have hn : decide (bits x.clause.header 15 12 = n) = decide (n = bits x.clause.header 15 12) := decide_eq_decide.mpr eq_comm
  rw [← h, hl]
  cases b <;> cases hh : x.ref.high <;> simp [flagSet, List.any_append, newFlight, hh, hn]

theorem addFlight_flying {x : Iss} {s : State} (h : AtIssue x s) (ws : List RegWrite) :
    Flying x (bits x.clause.header 15 12) ws s (addFlight x false .ready ws [] 0 none s) := by
  obtain ⟨⟨tm, sp, htm, hctx, hsp, hseen⟩, hcl⟩ := h
  rw [addFlight_eq]
  have hwith := withFlight_eq x ws s.nextOp
  have hflag := flagSet_withFlight x ws s.nextOp
  have hnew : newFlight x ws s.nextOp tm ∈ (withFlight x ws s.nextOp tm).inflight := List.mem_append_right _ List.mem_cons_self
  generalize withFlight x ws s.nextOp = g at *
  have hkey (u : Team) : (g u).key = u.key := by
    obtain ⟨l, hl, -⟩ := hwith u
    rw [hl]
  have hregs (u : Team) : (g u).regs = u.regs := by
    obtain ⟨l, hl, -⟩ := hwith u
    rw [hl]
    rfl
  have hsplit (u : Team) (b : Bool) : splitIn (g u) b = splitIn u b := by
    obtain ⟨l, hl, -⟩ := hwith u
    rw [hl]
    rfl
  have hteam (k : TeamKey) : teamOf { updTeam s x.ref.team g with nextOp := s.nextOp + 1 } k =
      if k = x.ref.team then (teamOf s x.ref.team).map g else teamOf s k := teamOf_updTeam s x.ref.team g k hkey
  have hmine := (hteam x.ref.team).trans (if_pos rfl)
  rw [htm] at hmine
  refine ⟨⟨⟨g tm, sp, hmine, ?_, (hsplit _ _).trans hsp, hseen⟩, hcl⟩, ⟨fun k => ?_, fun r => ?_⟩, fun n => ?_, fun r n hr => ?_,
    rfl, rfl, rfl, rfl, ⟨g tm, _, hmine, hnew, rfl, rfl, rfl, newFlight_writes x ws s.nextOp tm⟩⟩
  · obtain ⟨l, hl, -⟩ := hwith tm
    rw [hl]
    exact hctx
  · rw [teamRegs, teamRegs, hteam]
    by_cases hk : k = x.ref.team
    · rw [if_pos hk, hk, Option.map_map]
      exact congrArg (Option.map · _) (funext hregs)
    · rw [if_neg hk]
  · rw [splitRegs, splitRegs, splitOf, splitOf, hteam]
    by_cases hk : r.team = x.ref.team
    · rw [if_pos hk, hk, Option.bind_map]
      exact congrArg (fun o : Option Split => o.map Split.regs) (congrArg (Option.bind _) (funext fun u => hsplit u _))
    · rw [if_neg hk]
  · rw [flagAt, flagAt, hmine, htm]
    exact (hflag tm _ n).trans (by simp)
  · rw [flagAt, flagAt, hteam]
    by_cases hk : r.team = x.ref.team
    · have hh : r.high ≠ x.ref.high := fun h => hr (by cases r; cases hx : x.ref; simp_all)
      rw [if_pos hk, hk, htm]
      exact (hflag tm _ n).trans (by simp [hh])
    · rw [if_neg hk]

end Sys2Proof.Machine
end

section
/-! LOADS OF LANES (O23): the checks that every access form makes, and a load whose lanes lie on this device: its values in flight, or its failing
lanes reported. -/
namespace Sys2Proof.Machine
open Sys2Proof.Forms

/-! ### Facts of the issuing instruction -/

theorem Issues.ctx {i : Instr} {s : State} {x : Iss} (h : Issues i s x) : x.ctx = ctxOf s x.team.ctx := by
  obtain ⟨r, t, sp, c, f, -, -, hx, -⟩ := h
  rw [hx]
  rfl

theorem Issues.block {i : Instr} {s : State} {x : Iss} (h : Issues i s x) :
    x.block = (blockOf s x.ref.team.disp x.ref.team.block).getD noBlock := by
  obtain ⟨r, t, sp, c, f, -, -, hx, -⟩ := h
  rw [hx]
  rfl

theorem Issues.pairs {i : Instr} {s : State} {x : Iss} (h : Issues i s x) : pairsOk x = true := by
  obtain ⟨r, t, sp, c, f, -, -, -, hd⟩ := h
  unfold decodeFault at hd
  split_ifs at hd with h1 h2 h3 h4 h5 h6
  simpa using h5

/-- The registers of a destination lie below vector register 128, or they are scalar ones. -/
def DstFits (x : Iss) (k : Nat) : Prop := (∃ v, opd x.f.d = .vec v ∧ v + k ≤ 128 ∧ x.scalarDst = false) ∨ ∃ v, opd x.f.d = .scal v ∧ x.scalarDst = true

/-- Aligned pairs and quads do not reach beyond the vector registers (R224). -/
theorem Issues.dstFits {i : Instr} {s : State} {x : Iss} (h : Issues i s x) (hr : (roles x.op).1 = .dst ∨ (roles x.op).1 = .vdst)
    (hop : x.op ≠ 0xF1) (hm : within x.op 0xD0 0xDB = false) (hk : (fieldRegs x).1 ∣ 128) : DstFits x (fieldRegs x).1 := by
  have hd : (roles x.op).1.isDst = true := by rcases hr with e | e <;> rw [e] <;> rfl
  have hp := h.noPred (hr.imp_right fun e => .inr (.inl e))
  rcases h.dst hd with ⟨v, hv⟩ | ⟨v, hv⟩ | ⟨v, hv⟩
  · refine .inl ⟨v, hv, ?_, by rw [Iss.scalarDst, hv]⟩
    have hmem : ∃ b, (x.f.d, (fieldRegs x).1, b) ∈ codeFields x := by
      unfold codeFields
      simp only
      rcases hr with e | e <;> rw [e] <;> exact ⟨_, List.mem_append_left _ (List.mem_append_left _ List.mem_cons_self)⟩
    obtain ⟨b, hb⟩ := hmem
    have hall := h.pairs
    unfold pairsOk at hall
    have hone := List.all_eq_true.mp (Bool.and_eq_true _ _ ▸ hall).1 _ hb
    simp only [hv, hm, Bool.false_eq_true, if_false, decide_eq_false hop, Bool.false_or, decide_eq_true_eq] at hone
    obtain ⟨q, hq⟩ := hk
    obtain ⟨w, hw⟩ := Nat.dvd_of_mod_eq_zero hone
    have hlt := (opd_vec hv).2
    rw [hw] at hlt ⊢
    rw [hq] at hlt ⊢
    calc (fieldRegs x).1 * w + (fieldRegs x).1 = (fieldRegs x).1 * (w + 1) := by ring
      _ ≤ (fieldRegs x).1 * q := Nat.mul_le_mul_left _ (Nat.lt_of_mul_lt_mul_left hlt)
  · exact .inr ⟨v, hv, by rw [Iss.scalarDst, hv]⟩
  · rw [Iss.predDst, hv] at hp
    cases hp

theorem mem_lanesOf {n l : Nat} {m : LaneMask} : l ∈ lanesOf n m ↔ l < n ∧ laneIn m l = true := by
  rw [lanesOf, List.mem_filter, List.mem_range]

theorem lanesOf_nodup (n : Nat) (m : LaneMask) : (lanesOf n m).Nodup := List.nodup_range.filter _

theorem lanesOf_zero (n : Nat) : lanesOf n 0 = [] := by
  rw [lanesOf, List.filter_eq_nil_iff]
  exact fun l _ => by rw [laneIn_zero]; simp

theorem active_of_lanes {x : Iss} (h : lanesOf x.n x.active ≠ []) : x.active ≠ 0 := fun e => h (e ▸ lanesOf_zero x.n)

theorem first_mem {x : Iss} (h : lanesOf x.n x.active ≠ []) : x.first ∈ lanesOf x.n x.active := by
  unfold Iss.first firstLane
  cases hl : lanesOf x.n x.active with
  | nil => exact absurd hl h
  | cons a l => exact List.mem_cons_self

theorem accLanes_nodup (x : Iss) : (accLanes x).Nodup := by
  unfold accLanes
  split
  · split
    · exact .nil
    · exact List.nodup_singleton _
  · exact lanesOf_nodup _ _

theorem accLanes_sub {x : Iss} (h : lanesOf x.n x.active ≠ []) {l : Nat} (hl : l ∈ accLanes x) : l ∈ lanesOf x.n x.active := by
  unfold accLanes at hl
  rw [if_neg (active_of_lanes h)] at hl
  split at hl
  · rw [List.mem_singleton.mp hl]
    exact first_mem h
  · exact hl

theorem accLanes_ne {x : Iss} (h : lanesOf x.n x.active ≠ []) : ∃ l, l ∈ accLanes x := by
  unfold accLanes
  rw [if_neg (active_of_lanes h)]
  split
  · exact ⟨_, List.mem_cons_self⟩
  · exact ⟨_, first_mem h⟩

theorem accLanes_scalar {x : Iss} (hs : x.scalarDst = true) {l : Nat} (hl : l ∈ accLanes x) : l = x.first := by
  unfold accLanes at hl
  rw [if_pos hs] at hl
  split at hl
  · cases hl
  · exact List.mem_singleton.mp hl

/-! ### Checked lanes -/

theorem checkLanes_fst (x : Iss) (l : List LaneAcc) : ∀ s, (checkLanes x l s).2.map (·.1) = l := by
  induction l with
  | nil => exact fun _ => rfl
  | cons a l ih => exact fun s => congrArg (a :: ·) (ih _)

theorem okLanes_sublist (c : List (LaneAcc × Checked)) : ((okLanes c).map (·.1)).Sublist (c.map (·.1)) := by
  induction c with
  | nil => exact .slnil
  | cons p c ih =>
    obtain ⟨a, k⟩ := p
    cases k with
    | ok ts uc => exact ih.cons_cons a
    | fault _ => exact ih.cons a
    | page _ => exact ih.cons a

/-- Where no lane fails and none asks for a page, every lane passes. -/
theorem mem_okLanes_of_clean {c : List (LaneAcc × Checked)} (hp : pageLanes c = []) (hb : badLanes c = []) {a : LaneAcc} (ha : a ∈ c.map (·.1)) :
    ∃ ts, (a, ts) ∈ okLanes c := by
  obtain ⟨⟨a', k⟩, hk, rfl⟩ := List.mem_map.mp ha
  cases k with
  | ok ts uc => exact ⟨ts, List.mem_filterMap.mpr ⟨_, hk, rfl⟩⟩
  | fault cause =>
    have h : (⟨a'.lane, cause, some a'.acc.ga, none⟩ : Bad) ∈ badLanes c := List.mem_filterMap.mpr ⟨_, hk, rfl⟩
    rw [hb] at h
    cases h
  | page g =>
    have h : (a', g) ∈ pageLanes c := List.mem_filterMap.mpr ⟨_, hk, rfl⟩
    rw [hp] at h
    cases h

theorem NoLog.of_caches {s t : State} {x : Iss} (h : NoLog s x) (g : OnlyCaches s t) : NoLog t x := by
  obtain ⟨_, _, _, _, rfl⟩ := g
  exact h

theorem heldBy_none {s : State} {x : Iss} (h : NoLog s x) (l : List LaneAcc) (b : Bool) : heldBy x s l b = [] := by
  rw [heldBy, List.filter_eq_nil_iff]
  intro e he
  simp [h e he]

/-- Without page requests and side-log entries the lanes that pass are performed at once (R205, R288). -/
theorem settleThen_clean {s : State} {x : Iss} {l : List LaneAcc} (hlog : NoLog s x) (hp : pageLanes (checkLanes x l s).2 = []) (acc : BitVec 8)
    (write : Bool) (perform : List (LaneAcc × List Target) → List Bad → State → State) :
    settleThen x acc write l perform s = perform (okLanes (checkLanes x l s).2) (badLanes (checkLanes x l s).2) (checkLanes x l s).1 := by
  have hheld := heldBy_none (hlog.of_caches (checkLanes_caches x l s)) l
  unfold settleThen
  simp only [hp, askPages, hheld, ne_eq, not_true_eq_false, if_false, List.append_nil]

theorem farPieces_local {ts : List Target} (h : isRemote ts = false) : farPieces ts = [] := by
  rw [farPieces, List.filterMap_eq_nil_iff]
  intro t ht
  have h := List.any_eq_false.mp h t ht
  cases t with
  | remote _ _ _ => exact absurd rfl h
  | _ => rfl

theorem fetching_local {ts : List Target} (h : isRemote ts = false) (s : State) (who : FetchFor) : fetching s who ts = false := by
  rw [fetching, farPieces_local h]
  rfl

/-! ### Values of lanes -/

/-- A list with a key that no two members share. -/
theorem find_key {α : Type} (key : α → Nat) {l : List α} (h : (l.map key).Nodup) {a : α} (ha : a ∈ l) :
    l.find? (fun b => decide (key b = key a)) = some a := by
  induction l with
  | nil => cases ha
  | cons b l ih =>
    rw [List.map_cons, List.nodup_cons] at h
    rcases List.mem_cons.mp ha with rfl | hm
    · exact List.find?_cons_of_pos (decide_eq_true rfl)
    · have hb : key b ≠ key a := fun e => h.1 (e ▸ List.mem_map_of_mem hm)
      rw [List.find?_cons_of_neg (by simp [hb]), ih h.2 hm]

section Values
variable (x : Iss) (l1 : Option Nat) (s : State)

theorem laneValues_sublist (ok : List (LaneAcc × List Target)) : ((laneValues x l1 s ok).1.map (·.1)).Sublist (ok.map (·.1)) := by
  induction ok with
  | nil => exact .slnil
  | cons p ok ih =>
    unfold laneValues at ih ⊢
    rw [List.foldr_cons]
    split
    · exact ih.cons_cons p.1
    · exact ih.cons p.1

theorem mem_laneValues {ok : List (LaneAcc × List Target)} {p : LaneAcc × List Target} {v : Nat} (hp : p ∈ ok)
    (hv : loadValue s l1 x.block (.lane x.ref p.1.lane) p.2 p.1.acc.n = .ok v) : (p.1, p.2, v) ∈ (laneValues x l1 s ok).1 := by
  induction ok with
  | nil => cases hp
  | cons q ok ih =>
    unfold laneValues at ih ⊢
    rw [List.foldr_cons]
    rcases List.mem_cons.mp hp with rfl | hm
    · rw [hv]
      exact List.mem_cons_self
    · split
      · exact List.mem_cons_of_mem _ (ih hm)
      · exact ih hm

/-- Where no lane fails at its home slice, every lane has its value. -/
theorem laneValues_all {ok : List (LaneAcc × List Target)} (h : (laneValues x l1 s ok).2 = []) {p : LaneAcc × List Target} (hp : p ∈ ok) :
    ∃ v, (p.1, p.2, v) ∈ (laneValues x l1 s ok).1 := by
  induction ok with
  | nil => cases hp
  | cons q ok ih =>
    unfold laneValues at h ih ⊢
    rw [List.foldr_cons] at h ⊢
    split at h
    · next v hv =>
      rcases List.mem_cons.mp hp with rfl | hm
      · exact ⟨v, List.mem_cons_self⟩
      · obtain ⟨w, hw⟩ := ih h hm
        exact ⟨w, List.mem_cons_of_mem _ hw⟩
    · cases h

end Values

/-- The number that a load gives a lane. -/
def loadGet (sx : Bool) (extra : List (Nat × Nat)) (vals : List (LaneAcc × List Target × Nat)) (lane : Nat) : Nat :=
  match vals.find? (fun p => decide (p.1.lane = lane)) with
  | some p => extend p.1.acc.n sx p.2.2
  | none => match extra.find? (fun p => decide (p.1 = lane)) with
    | some p => p.2
    | none => 0

/-- The lanes that it gives one. -/
def loadDone (x : Iss) (extra : List (Nat × Nat)) (vals : List (LaneAcc × List Target × Nat)) : LaneMask :=
  maskOf x.n (fun lane => vals.any (fun p => decide (p.1.lane = lane)) || extra.any (fun p => decide (p.1 = lane)))

def loadWrites (x : Iss) (sx : Bool) (extra : List (Nat × Nat)) (vals : List (LaneAcc × List Target × Nat)) : List RegWrite :=
  if x.scalarDst then regWrites x x.f.d (fieldRegs x).1 (loadDone x extra vals) (fun _ => loadGet sx extra vals x.first)
  else regWrites x x.f.d (fieldRegs x).1 (loadDone x extra vals) (loadGet sx extra vals)

/-- Passing the caches and noting the reads, once the values are in flight (R85, R288, R420). -/
def loadPassed (x : Iss) (lc : LoadCache) (after : State → State) (vals : List (LaneAcc × List Target × Nat)) (s : State) : State :=
  let s2 := vals.foldl (fun s p => loadPass (partOfCtx s x.team.ctx) lc.l1 lc.keep lc.low p.2.1 s) s
  let s3 := noteReads x (vals.map (fun p => (p.1.acc.n, p.2.1))) (fetchForget s2 x.ref)
  if vals = [] then s3 else after s3

/-- The state with the values of the lanes in flight. -/
def loadFlown (x : Iss) (sx : Bool) (extra : List (Nat × Nat)) (vals : List (LaneAcc × List Target × Nat)) (s : State) : State :=
  if loadDone x extra vals = 0 then s else addFlight x false .ready (loadWrites x sx extra vals) [] 0 none s

/-- A load whose pieces are all on this device does not wait (R168, R288). -/
theorem loadLanes_local {x : Iss} {lc : LoadCache} {sx : Bool} {extra : List (Nat × Nat)} {after : State → State}
    {ok : List (LaneAcc × List Target)} {bad : List Bad} {s : State} (hl : ∀ p ∈ ok, isRemote p.2 = false) :
    loadLanes x lc sx extra after ok bad s =
      let vals := (laneValues x lc.l1 s ok).1
      let u := loadPassed x lc after vals (loadFlown x sx extra vals s)
      if bad ++ (laneValues x lc.l1 s ok).2 = [] then conflicts x ok (retire x u)
      else reportLanes x (bad ++ (laneValues x lc.l1 s ok).2) true 0 false (conflicts x ok u) := by
  have hf : ok.any (fun p => fetching s (.lane x.ref p.1.lane) p.2) = false :=
    List.any_eq_false.mpr fun p hp => by rw [fetching_local (hl p hp)]; simp
  unfold loadLanes
  rw [hf]
  rfl

/-! ### What passing the caches leaves -/

/-- No team has moved, and blocks and memory are as they were. -/
structure Silent (s t : State) : Prop where
  unmoved : Unmoved s t
  blocks  : t.blocks = s.blocks
  mem     : t.mem = s.mem

theorem Silent.refl (s : State) : Silent s s := ⟨.refl s, rfl, rfl⟩

theorem Silent.trans {s t u : State} (h : Silent s t) (g : Silent t u) : Silent s u :=
  ⟨h.unmoved.trans g.unmoved, g.blocks.trans h.blocks, g.mem.trans h.mem⟩

theorem OnlyCaches.silent {s t : State} (h : OnlyCaches s t) : Silent s t := by
  refine ⟨h.unmoved, ?_, h.mem⟩
  obtain ⟨_, _, _, _, rfl⟩ := h
  rfl

theorem loadPass_caches (part : Nat × Nat) (l1 : Option Nat) (keep low : Bool) (ts : List Target) (s : State) :
    OnlyCaches s (loadPass part l1 keep low ts s) := by
  obtain ⟨c, h⟩ := loadPass_only part l1 keep low ts s
  exact ⟨_, c.1, c.2, _, h⟩

theorem fetchForget_silent (s : State) (r : SplitRef) : Silent s (fetchForget s r) := ⟨.of_eq rfl rfl rfl, rfl, rfl⟩

theorem noteReads_silent (x : Iss) (l : List (Nat × List Target)) (s : State) : Silent s (noteReads x l s) :=
  ⟨.updSplit s _ _ (fun _ => rfl), rfl, rfl⟩

theorem loadPassed_silent {x : Iss} {after : State → State} (ha : ∀ v, Silent v (after v)) (lc : LoadCache) (vals : List (LaneAcc × List Target × Nat))
    (s : State) : Silent s (loadPassed x lc after vals s) := by
  unfold loadPassed
  simp only
  have h2 := (foldl_rel OnlyCaches .refl .trans (fun s (p : LaneAcc × List Target × Nat) =>
    loadPass (partOfCtx s x.team.ctx) lc.l1 lc.keep lc.low p.2.1 s) (fun s p => loadPass_caches _ _ _ _ _ s) vals s).silent
  generalize List.foldl _ s vals = s2 at h2 ⊢
  have h3 := h2.trans ((fetchForget_silent s2 x.ref).trans (noteReads_silent x (vals.map (fun p => (p.1.acc.n, p.2.1))) _))
  split
  · exact h3
  · exact h3.trans (ha _)

/-! ### The form that has retired -/

/-- The trace base of the issuing context is the instruction's. -/
theorem Issues.trace {i : Instr} {s w : State} {x : Iss} (hx : Issues i s x) (h : ∀ c, ctxKept w c = ctxKept s c) :
    (ctxOf (retire x w) x.team.ctx).trcbc = x.ctx.trcbc := by
  have e := congrArg Ctx.trcbc ((ctxKept_of_regs (retire_ctxs x w x.team.ctx)).trans (h x.team.ctx))
  exact e.trans (by rw [hx.ctx]; rfl)

/-- Values in flight, the caches passed and the retirement counted: the form has loaded (R259, R283). -/
theorem Flying.loaded {i : Instr} {s u v w t : State} {x : Iss} {flag : Nat} {ws : List RegWrite} {P : InFlight → Prop} (hx : Issues i s x)
    (hu : OnlyCaches (popIssue s) u) (hf : Flying x flag ws u v) (hs : Silent v w) (ht : Traced x.team.ctx (retire x w) t)
    (hP : ∀ e, (∀ code l, willWrite e code l = writtenBy ws code l) → P e) : Loaded s t x flag P := by
  have hr := retiredFrom (hf.issue.unmoved hs.unmoved) ht.unmoved
  have h0 : Unmoved s u := (Unmoved.popIssue s).trans hu.unmoved
  have hop : u.nextOp = s.nextOp := by
    obtain ⟨_, _, _, _, rfl⟩ := hu
    rfl
  have hub : u.blocks = s.blocks := hu.silent.blocks
  have hv : Unmoved v w := hs.unmoved
  have hctxs : ∀ c, ctxKept w c = ctxKept s c := fun c => by
    refine (hv.ctxs c).trans (Eq.trans ?_ (h0.ctxs c))
    unfold ctxKept ctxRegs ctxOf
    rw [hf.ctxs]
  have hflags (r : SplitRef) (n : Nat) : flagAt t r n = flagAt v r n := (flagAt_of_inflight hr.inflight r n).trans (hv.flags r n)
  refine ⟨hr.next, h0.regs.trans (hf.regs.trans (hv.regs.trans hr.regs)), fun n => ?_, fun r n hne => ?_, ?_, fun d j => ?_, fun c => ?_, fun htr => ?_, ?_⟩
  · rw [hflags, hf.flags, h0.flags]
  · rw [hflags, hf.others r n hne, h0.flags]
  · rw [hr.tags, hv.tags, hf.tags, h0.tags]
  · rw [blockStore_of_blocks ht.blocks, blockStore_of_regs (retire_blocks x w), blockStore_of_blocks (hs.blocks.trans (hf.blocks.trans hub))]
  · rw [hr.ctxs, hctxs]
  · rw [ht.mem (by rw [hx.trace hctxs]; exact htr), retire_mem, hs.mem, hf.mem, hu.silent.mem]
    rfl
  · obtain ⟨tm, e, htm, he, hid, hflag, hstate, hw⟩ := hf.flight
    have hin := (hr.inflight x.ref.team).trans (hv.inflight x.ref.team)
    rw [htm] at hin
    obtain ⟨tt, htt, hte⟩ := Option.map_eq_some_iff.mp hin
    exact ⟨e, ⟨tt, htt, by rw [hte]; exact he, hid.trans hop⟩, hflag, hstate, hP e hw⟩

/-! ### Loads -/

/-- The accesses of a load's lanes, the lanes that fail before and those that read zero without an access. -/
structure LoadLanes (x : Iss) (l : List LaneAcc) (pre : List Bad) (extra : List Nat) : Prop where
  nodup  : (l.map (·.lane)).Nodup
  lanes  : ∀ a ∈ l, a.lane ∈ accLanes x
  extras : ∀ e ∈ extra, e ∈ accLanes x
  apart  : ∀ a ∈ l, a.lane ∉ extra
  covers : pre = [] → ∀ n ∈ accLanes x, (∃ a ∈ l, a.lane = n) ∨ n ∈ extra

theorem laneIn_loadDone {x : Iss} (h : lanesOf x.n x.active ≠ []) {extra : List (Nat × Nat)} {vals : List (LaneAcc × List Target × Nat)} {n : Nat}
    (hn : n ∈ accLanes x) (hm : (∃ p ∈ vals, p.1.lane = n) ∨ ∃ p ∈ extra, p.1 = n) : n ∈ lanesOf x.n (loadDone x extra vals) := by
  obtain ⟨hlt, hin⟩ := mem_lanesOf.mp (accLanes_sub h hn)
  refine mem_lanesOf.mpr ⟨hlt, ?_⟩
  rw [loadDone, laneIn_maskOf, decide_eq_true (laneIn_lt hin), decide_eq_true hlt, Bool.true_and, Bool.true_and, Bool.or_eq_true]
  refine hm.imp (fun ⟨p, hp, e⟩ => ?_) (fun ⟨p, hp, e⟩ => ?_) <;> exact List.any_eq_true.mpr ⟨p, hp, decide_eq_true e⟩

/-- The number of a lane is what its registers will hold (R264, R283). -/
theorem loadWrites_hold {x : Iss} (hd : DstFits x (fieldRegs x).1) (h : lanesOf x.n x.active ≠ []) {sx : Bool} {extra : List (Nat × Nat)}
    {vals : List (LaneAcc × List Target × Nat)} {n : Nat} (hn : n ∈ accLanes x) (hm : (∃ p ∈ vals, p.1.lane = n) ∨ ∃ p ∈ extra, p.1 = n)
    {e : InFlight} (he : ∀ code l, willWrite e code l = writtenBy (loadWrites x sx extra vals) code l) :
    WillHold e x.f.d n (fieldRegs x).1 (loadGet sx extra vals n) := by
  intro i hi
  rw [he, loadWrites]
  rcases hd with ⟨v, hv, hfit, hs⟩ | ⟨v, hv, hs⟩
  · rw [if_neg (by rw [hs]; simp), writtenBy_vec hv hfit _ _ hi (laneIn_loadDone h hn hm), Nat.shiftRight_eq_div_pow]
  · rw [if_pos hs, writtenBy_scal hv _ _ n hi, accLanes_scalar hs hn, Nat.shiftRight_eq_div_pow]

theorem loadGet_val {sx : Bool} {extra : List (Nat × Nat)} {vals : List (LaneAcc × List Target × Nat)} (h : (vals.map (·.1.lane)).Nodup)
    {p : LaneAcc × List Target × Nat} (hp : p ∈ vals) : loadGet sx extra vals p.1.lane = extend p.1.acc.n sx p.2.2 := by
  unfold loadGet
  rw [find_key (fun q : LaneAcc × List Target × Nat => q.1.lane) h hp]

theorem loadGet_extra {sx : Bool} {zeros : List Nat} {vals : List (LaneAcc × List Target × Nat)} {n : Nat} (h : ∀ p ∈ vals, p.1.lane ≠ n) :
    loadGet sx (zeros.map (fun l => (l, 0))) vals n = 0 := by
  unfold loadGet
  rw [List.find?_eq_none.mpr (fun p hp => by simp [h p hp])]
  simp only
  split
  · next q hq =>
    obtain ⟨m, -, rfl⟩ := List.mem_map.mp (List.mem_of_find?_eq_some hq)
    rfl
  · rfl

/-- A load through generic addresses whose lanes are on this device (R85, R283, R288). -/
theorem loadForm_result {i : Instr} {s : State} {x : Iss} {o : Host.Outcome State Fault Refusal} {lc : LoadCache} {sx : Bool} {l : List LaneAcc}
    {pre : List Bad} {zeros : List Nat} {after : State → State} (hx : Issues i s x)
    (ho : x.active ≠ 0 → o = .next (chargeIdle x (loadForm x lc sx l pre (zeros.map (fun l => (l, 0))) after (popIssue s))))
    (hd : DstFits x (fieldRegs x).1) (hl : LoadLanes x l pre zeros) (ha : ∀ v, Silent v (after v)) :
    LoadResult o s x (popIssue s) lc.l1 sx l pre zeros := by
  intro hne hpages hlocal hlog
  have hlog : NoLog (popIssue s) x := hlog
  have ho := ho (active_of_lanes hne)
  unfold loadForm at ho
  rw [settleThen_clean hlog hpages, loadLanes_local hlocal] at ho
  simp only at ho
  have hc : OnlyCaches (popIssue s) (checkLanes x l (popIssue s)).1 := checkLanes_caches x l _
  have hfst : (checkLanes x l (popIssue s)).2.map (·.1) = l := checkLanes_fst x l _
  generalize checkLanes x l (popIssue s) = c at *
  have hok : ((okLanes c.2).map (·.1)).Sublist l := hfst ▸ okLanes_sublist c.2
  have hissue : AtIssue x c.1 := (AtIssue.start hx).unmoved hc.unmoved
  refine ⟨fun hbad => ?_, fun b hb => ?_⟩
  · rw [if_pos hbad] at ho
    obtain ⟨hb0, hlate⟩ := List.append_eq_nil_iff.mp hbad
    obtain ⟨hb0, hpre⟩ := List.append_eq_nil_iff.mp hb0
    have hall := fun p => laneValues_all x lc.l1 c.1 hlate (p := p)
    have hval := fun p v => mem_laneValues x lc.l1 c.1 (ok := okLanes c.2) (p := p) (v := v)
    have hsub := (laneValues_sublist x lc.l1 c.1 (okLanes c.2)).trans hok
    generalize (laneValues x lc.l1 c.1 (okLanes c.2)).1 = vals at *
    have hnodup : (vals.map (·.1.lane)).Nodup := by
      have h1 := hsub.map (·.lane)
      rw [List.map_map] at h1
      exact h1.nodup hl.nodup
    have hmem : ∀ p ∈ vals, p.1 ∈ l := fun p hp => hsub.subset (List.mem_map_of_mem hp)
    have hcover : ∀ n ∈ accLanes x, (∃ p ∈ vals, p.1.lane = n) ∨ ∃ p ∈ zeros.map (fun l => (l, 0)), p.1 = n := by
      intro n hn
      refine (hl.covers hpre n hn).imp (fun ⟨a, ha, e⟩ => ?_) (fun hz => ⟨_, List.mem_map_of_mem hz, rfl⟩)
      obtain ⟨ts, hts⟩ := mem_okLanes_of_clean hpages hb0 (hfst ▸ ha)
      obtain ⟨v, hv⟩ := hall _ hts
      exact ⟨_, hv, e⟩
    have hdone : loadDone x (zeros.map (fun l => (l, 0))) vals ≠ 0 := by
      obtain ⟨n, hn⟩ := accLanes_ne hne
      intro h0
      have hin := (mem_lanesOf.mp (laneIn_loadDone hne hn (hcover n hn))).2
      rw [h0, laneIn_zero] at hin
      cases hin
    have hfly := addFlight_flying hissue (loadWrites x sx (zeros.map (fun l => (l, 0))) vals)
    rw [loadFlown, if_neg hdone] at ho
    refine ⟨_, ho, hfly.loaded hx hc (loadPassed_silent ha lc vals _) ((conflicts_traced x _ _).trans ((chargeIdle_charged x _).traced _)) fun e he => ⟨?_, ?_⟩⟩
    · intro p hp v hv
      have hpv := hval p v hp hv
      have hlane := hl.lanes _ (hmem _ hpv)
      have hold := loadWrites_hold hd hne hlane (.inl ⟨_, hpv, rfl⟩) he
      rwa [loadGet_val hnodup hpv] at hold
    · intro n hn
      have hold := loadWrites_hold hd hne (hl.extras n hn) (.inr ⟨_, List.mem_map_of_mem hn, rfl⟩) he
      rwa [loadGet_extra fun p hp e => hl.apart _ (hmem p hp) (e ▸ hn)] at hold
  · rw [if_neg (fun h => by rw [h] at hb; cases hb)] at ho
    refine ⟨_, ho, reportLanes_faulted ?_ hb (chargeIdle_charged x _)⟩
    have hfly : AtIssue x (loadFlown x sx (zeros.map (fun l => (l, 0))) (laneValues x lc.l1 c.1 (okLanes c.2)).1 c.1) := by
      unfold loadFlown
      split
      · exact hissue
      · exact (addFlight_flying hissue _).issue
    exact (hfly.unmoved (loadPassed_silent ha lc _ _).unmoved).unmoved (conflicts_traced x _ _).unmoved

end Sys2Proof.Machine
end

section
/-! STORES OF LANES (O23): the bytes that the stores of lanes leave in memory and in the block's scratchpad, and a store whose lanes lie on this
device. -/
namespace Sys2Proof.Machine
open Sys2Proof.Forms

/-! ### Bytes put in memory and in a scratchpad -/

/-- Bytes `m` have been put in memory and bytes `p` in the scratchpad of a block; no team has moved, and no other block has changed. -/
structure Put (d : BitVec 64) (i : Nat) (m p : Nat → Option Byte) (s u : State) : Prop where
  unmoved : Unmoved s u
  mem     : ∀ a, readByte u a = (m a).getD (readByte s a)
  spad    : blockOf s d i ≠ none → blockOf u d i ≠ none ∧
    ∀ o, spByte ((blockOf u d i).getD noBlock) o = (p o).getD (spByte ((blockOf s d i).getD noBlock) o)
  blocks  : ∀ d' i', ¬ (d' = d ∧ i' = i) → blockStore u d' i' = blockStore s d' i'

/-- No byte. -/
def noBytes : Nat → Option Byte := fun _ => none

theorem Put.of_eq {d : BitVec 64} {i : Nat} {s u : State} (hu : Unmoved s u) (hm : u.mem = s.mem) (hb : u.blocks = s.blocks) :
    Put d i noBytes noBytes s u :=
  ⟨hu, fun a => by rw [readByte, readByte, hm]; rfl, fun h => by unfold blockOf at h ⊢; rw [hb]; exact ⟨h, fun _ => rfl⟩,
    fun d' i' _ => blockStore_of_blocks hb d' i'⟩

theorem Put.trans {d : BitVec 64} {i : Nat} {m m' p p' : Nat → Option Byte} {s u v : State} (h : Put d i m p s u) (g : Put d i m' p' u v) :
    Put d i (fun a => (m' a).or (m a)) (fun o => (p' o).or (p o)) s v := by
  refine ⟨h.unmoved.trans g.unmoved, fun a => ?_, fun hs => ?_, fun d' i' hne => (g.blocks d' i' hne).trans (h.blocks d' i' hne)⟩
  · rw [g.mem, h.mem]
    cases m' a <;> rfl
  · obtain ⟨hu, hp⟩ := h.spad hs
    obtain ⟨hv, hp'⟩ := g.spad hu
    refine ⟨hv, fun o => ?_⟩
    rw [hp', hp]
    cases p' o <;> rfl

theorem Put.congr {d : BitVec 64} {i : Nat} {m m' p p' : Nat → Option Byte} {s u : State} (h : Put d i m p s u) (hm : ∀ a, m a = m' a)
    (hp : ∀ o, p o = p' o) : Put d i m' p' s u := by
  rw [← funext hm, ← funext hp]
  exact h

/-- A change of some teams that a program does not see. -/
theorem Unmoved.mapTeams {s t : State} (c : Team → Prop) [DecidablePred c] (f : Team → Team) (hf : ∀ u, (f u).seen = u.seen)
    (ht : t.teams = s.teams.map (fun u => if c u then f u else u)) (hg : t.tags = s.tags) (hc : t.ctxs = s.ctxs) : Unmoved s t := by
  refine ⟨fun k => ?_, hg, fun e => by unfold ctxKept ctxRegs ctxOf; rw [hc]⟩
  have hseen (u : Team) : (if c u then f u else u).seen = u.seen := by
    split
    · exact hf u
    · rfl
  unfold teamOf
  rw [ht, List.find?_map, Option.map_map]
  have hp : ((fun u : Team => decide (u.key = k)) ∘ fun u => if c u then f u else u) = fun u => decide (u.key = k) := by
    funext u
    exact congrArg (fun q : TeamSeen => decide (q.key = k)) (hseen u)
  rw [hp]
  exact congrArg (Option.map · _) (funext hseen)

theorem spinObserve_seen (places : List Nat) (u : Team) : (spinObserve places u).seen = u.seen := by
  have h (o : Option Split) : (o.map (fun sp => if sp.tier = 2 && sp.spinRead.any places.contains then { sp with dropAt := 0 } else sp)).map Split.seen =
      o.map Split.seen := by
    rw [Option.map_map]
    refine congrArg (Option.map · o) (funext fun sp => ?_)
    simp only [Function.comp]
    split <;> rfl
  simp only [Team.seen, spinObserve, Team.regs, h]

theorem l1Seen_put {d : BitVec 64} {i : Nat} (core : Nat) (s : State) (pa n : Nat) : Put d i noBytes noBytes s (l1Seen core s pa n) := by
  unfold l1Seen
  simp only
  split
  · exact .of_eq (.refl s) rfl rfl
  · exact .of_eq (.mapTeams (fun u => u.core = core) (spinObserve _) (spinObserve_seen _) rfl rfl rfl) rfl rfl

/-- A write by a core's agent puts its bytes in memory (R59, R202). -/
theorem writeMemBy_put {d : BitVec 64} {i : Nat} (core : Nat) (s : State) (pa n : Nat) (f : Nat → Byte) :
    Put d i (fun a => if pa ≤ a ∧ a < pa + n then some (f (a - pa)) else none) noBytes s (writeMemBy core s pa n f) := by
  have h1 : Put d i (fun a => if pa ≤ a ∧ a < pa + n then some (f (a - pa)) else none) noBytes s (writeMem s pa n f) := by
    have hb := writeMem_blocks s pa n f
    refine ⟨writeMem_unmoved s pa n f, fun a => ?_, fun h => ?_, fun d' i' _ => blockStore_of_blocks hb d' i'⟩
    · rw [readByte_writeMem]
      split <;> rfl
    · unfold blockOf at h ⊢
      rw [hb]
      exact ⟨h, fun _ => rfl⟩
  have h2 := h1.trans (l1Seen_put core (writeMem s pa n f) pa n)
  have h3 : Put d i noBytes noBytes (l1Seen core (writeMem s pa n f) pa n) (writeMemBy core s pa n f) := .of_eq (.of_eq rfl rfl rfl) rfl rfl
  exact (h2.trans h3).congr (fun _ => rfl) (fun _ => rfl)

theorem sliceTouch_put {d : BitVec 64} {i : Nat} (s : State) (part : Nat × Nat) (cp : Nat) (low : Bool) (pa n : Nat) (write : Bool) :
    Put d i noBytes noBytes s (sliceTouch s part cp low pa n write) := by
  have h := (sliceTouch_caches s part cp low pa n write).silent
  exact .of_eq h.unmoved h.mem h.blocks

theorem pieceByte_mem (pa n cp : Nat) (rest : List Target) (v a : Nat) : pieceByte (.mem pa n cp :: rest) v a =
    (pieceByte rest (v >>> (8 * n)) a).or (if pa ≤ a ∧ a < pa + n then some (byteOf v (a - pa)) else none) := by
  rw [pieceByte]
  cases pieceByte rest (v >>> (8 * n)) a <;> rfl

/-- The pieces of an access are written in their order (R287). -/
theorem writeTargets_put {d : BitVec 64} {i : Nat} (core : Nat) (part : Nat × Nat) (ts : List Target) : ∀ (s u : State) (v : Nat),
    writeTargets core s part v ts = some u → Put d i (pieceByte ts v) noBytes s u := by
  induction ts with
  | nil =>
    intro s u v h
    rw [← Option.some.inj h]
    exact .of_eq (.refl s) rfl rfl
  | cons t ts ih =>
    intro s u v h
    cases t with
    | mem pa n cp =>
      rw [writeTargets] at h
      split at h
      · have h1 := (sliceTouch_put (d := d) (i := i) s part cp false pa n true).trans (writeMemBy_put core _ pa n (byteOf v))
        refine (h1.trans (ih _ u _ h)).congr (fun a => ?_) (fun _ => rfl)
        rw [pieceByte_mem]
        split <;> simp [noBytes]
      · cases h
    | spad o =>
      rw [← Option.some.inj h]
      exact .of_eq (.refl s) rfl rfl
    | remote pa n tc =>
      rw [← Option.some.inj h]
      exact .of_eq (.refl s) rfl rfl

/-- The byte that a store of `n` bytes leaves in the scratchpad. -/
def spadPiece (ts : List Target) (n v o : Nat) : Option Byte :=
  match ts with
  | [.spad q] => if q ≤ o ∧ o < q + n then some (byteOf v (o - q)) else none
  | _ => none

theorem spWrite_put (s : State) (d : BitVec 64) (i o n : Nat) (f : Nat → Byte) :
    Put d i noBytes (fun a => if o ≤ a ∧ a < o + n then some (f (a - o)) else none) s (spWrite s d i o n f) := by
  have hb : ∀ d' i', blockOf (spWrite s d i o n f) d' i' =
      if d' = d ∧ i' = i then (blockOf s d i).map (fun b => { b with spad := mapPut 0 b.spad o n f }) else blockOf s d' i' :=
    fun d' i' => blockOf_updBlock s d i (fun b => { b with spad := mapPut 0 b.spad o n f }) d' i' (fun _ => ⟨rfl, rfl⟩)
  refine ⟨?_, fun _ => rfl, fun h => ?_, fun d' i' hne => ?_⟩
  · exact .mapTeams (fun u => u.key.disp = d ∧ u.key.block = i)
      (spinObserve ((List.range ((o + n - 1) / 4 + 1 - o / 4)).map (fun j => spinWord (4 * (o / 4 + j))))) (spinObserve_seen _) rfl rfl rfl
  · rw [hb, if_pos ⟨rfl, rfl⟩]
    cases hs : blockOf s d i with
    | none => exact absurd hs h
    | some b =>
      refine ⟨by simp, fun a => ?_⟩
      refine (mapGet_put 0 b.spad o n f a).trans ?_
      split <;> rfl
  · unfold blockStore
    rw [hb, if_neg hne]

theorem noteSpad_put {d : BitVec 64} {i : Nat} (k : TeamKey) (ts : List Target) (n : Nat) (s : State) :
    Put d i noBytes noBytes s (noteSpad k ts n s) := by
  unfold noteSpad
  split
  · exact .of_eq (.updTeam s k _ (fun _ => rfl)) rfl rfl
  · exact .of_eq (.refl s) rfl rfl

/-- One lane's store on this device (R203, R287). -/
theorem storePieces_put {s u : State} {t : Team} {r : SplitRef} {lane : Nat} {pc : BitVec 56} {ga : BitVec 64} {ts : List Target} {n v : Nat}
    (hl : isRemote ts = false) (h : storePieces s t r lane pc ga ts n v = some u) :
    Put t.key.disp t.key.block (pieceByte ts v) (spadPiece ts n v) s u := by
  unfold storePieces at h
  simp only [hl, Bool.false_eq_true, if_false] at h
  generalize hs0 : spoilRows s t.key ga n = s0 at h
  have h0 : Put t.key.disp t.key.block noBytes noBytes s s0 := hs0 ▸ .of_eq (.of_eq rfl rfl rfl) rfl rfl
  obtain ⟨w, hw, rfl⟩ := Option.map_eq_some_iff.mp h
  have h1 : Put t.key.disp t.key.block (pieceByte ts v) (spadPiece ts n v) s0 w := by
    unfold writeChecked at hw
    split at hw
    · next o =>
      rw [← Option.some.inj hw]
      exact (spWrite_put s0 _ _ o n (byteOf v)).congr (fun _ => rfl) (fun _ => rfl)
    · next hne =>
      refine (writeTargets_put t.core _ ts s0 w v hw).congr (fun _ => rfl) (fun o => ?_)
      unfold spadPiece
      split
      · next q => exact absurd rfl (hne q)
      · rfl
  refine ((h0.trans h1).trans (noteSpad_put t.key ts n w)).congr (fun a => ?_) (fun o => ?_) <;> simp [noBytes]

/-! ### Stores of lanes -/

theorem storedBy_cons (data : Nat → Nat) (p : LaneAcc × List Target) (rest : List (LaneAcc × List Target)) (a : Nat) :
    storedBy data (p :: rest) a = (storedBy data rest a).or (pieceByte p.2 (data p.1.lane) a) := by
  rw [storedBy]
  cases storedBy data rest a <;> rfl

theorem spadBy_cons (data : Nat → Nat) (p : LaneAcc × List Target) (rest : List (LaneAcc × List Target)) (o : Nat) :
    spadBy data (p :: rest) o = (spadBy data rest o).or (spadPiece p.2 p.1.acc.n (data p.1.lane) o) := by
  rw [spadBy]
  unfold spadPiece
  cases spadBy data rest o with
  | some b => rfl
  | none =>
    rw [Option.none_or]
    generalize p.2 = ts
    match ts with
    | [] => rfl
    | [.spad q] => rfl
    | [.mem _ _ _] => rfl
    | [.remote _ _ _] => rfl
    | .spad _ :: _ :: _ => rfl
    | .mem _ _ _ :: _ :: _ => rfl
    | .remote _ _ _ :: _ :: _ => rfl

/-- The store of one lane, or its failure at the home slice. -/
def storeOne (x : Iss) (data : Nat → Nat) (acc : State × List Bad) (p : LaneAcc × List Target) : State × List Bad :=
  match storePieces acc.1 x.team x.ref p.1.lane x.pc p.1.acc.ga p.2 p.1.acc.n (data p.1.lane) with
  | some s => (s, acc.2)
  | none => (acc.1, acc.2 ++ [⟨p.1.lane, 0x17, some p.1.acc.ga, none⟩])

theorem outdone_local {ok : List (LaneAcc × List Target)} {p : LaneAcc × List Target} (h : isRemote p.2 = false) : outdone ok p = false := by
  rw [outdone, h]
  rfl

theorem storeLanes_eq (x : Iss) (data : Nat → Nat) (s : State) {ok : List (LaneAcc × List Target)} (h : ∀ p ∈ ok, isRemote p.2 = false) :
    storeLanes x data ok s = ok.foldl (storeOne x data) (s, []) := by
  unfold storeLanes
  rw [List.filter_eq_self.mpr fun p hp => by rw [outdone_local (h p hp)]; rfl]
  rfl

theorem storeOnes_bad (x : Iss) (data : Nat → Nat) (ok : List (LaneAcc × List Target)) :
    ∀ acc : State × List Bad, ∃ l, (ok.foldl (storeOne x data) acc).2 = acc.2 ++ l := by
  induction ok with
  | nil => exact fun acc => ⟨[], (List.append_nil _).symm⟩
  | cons p ok ih =>
    intro acc
    obtain ⟨l, hl⟩ := ih (storeOne x data acc p)
    rw [List.foldl_cons, hl]
    unfold storeOne
    split
    · exact ⟨l, rfl⟩
    · exact ⟨_, List.append_assoc _ _ _⟩

theorem storeOnes_put {x : Iss} {data : Nat → Nat} (ok : List (LaneAcc × List Target)) (hl : ∀ p ∈ ok, isRemote p.2 = false) :
    ∀ s, (ok.foldl (storeOne x data) (s, [])).2 = [] →
      Put x.team.key.disp x.team.key.block (storedBy data ok) (spadBy data ok) s (ok.foldl (storeOne x data) (s, [])).1 := by
  induction ok with
  | nil => exact fun s _ => .of_eq (.refl s) rfl rfl
  | cons p ok ih =>
    intro s hb
    rw [List.foldl_cons] at hb ⊢
    cases hone : storePieces s x.team x.ref p.1.lane x.pc p.1.acc.ga p.2 p.1.acc.n (data p.1.lane) with
    | none =>
      have h1 : storeOne x data (s, []) p = (s, [⟨p.1.lane, 0x17, some p.1.acc.ga, none⟩]) := by rw [storeOne, hone]; rfl
      obtain ⟨l, h⟩ := storeOnes_bad x data ok (s, [⟨p.1.lane, 0x17, some p.1.acc.ga, none⟩])
      rw [h1, h] at hb
      cases hb
    | some u =>
      have h1 : storeOne x data (s, []) p = (u, []) := by rw [storeOne, hone]
      rw [h1] at hb ⊢
      have hp := storePieces_put (hl p List.mem_cons_self) hone
      exact (hp.trans (ih (fun q hq => hl q (List.mem_cons_of_mem _ hq)) u hb)).congr (fun a => (storedBy_cons data p ok a).symm)
        (fun o => (spadBy_cons data p ok o).symm)

/-- Without page requests and side-log entries the lanes that pass are performed at once (R205, R288). -/
theorem writeForm_clean {s : State} {x : Iss} {l : List LaneAcc} (hlog : NoLog s x) (hp : pageLanes (checkLanes x l s).2 = []) (acc : BitVec 8)
    (pre : List Bad) (op : SliceOp) (data : Nat → Nat) (perform : List (LaneAcc × List Target) → State → State × List Bad) :
    writeForm x acc l pre op data perform s =
      let r := perform (okLanes (checkLanes x l s).2) (checkLanes x l s).1
      let bad := badLanes (checkLanes x l s).2 ++ pre
      if bad ≠ [] then reportLanes x (bad ++ r.2) true acc true (conflicts x (okLanes (checkLanes x l s).2) r.1)
      else reportLanes x r.2 false acc true (conflicts x (okLanes (checkLanes x l s).2) (retire x r.1)) := by
  have hlog := hlog.of_caches (checkLanes_caches x l s)
  have hbehind (a : LaneAcc) : ((checkLanes x l s).1.sideLog.find? (fun e =>
      decide (e.split.team = x.ref.team) && !e.failed && overlaps x.ctx a.acc.ga a.acc.n a.lane e)) = none :=
    List.find?_eq_none.mpr fun e he => by simp [hlog e he]
  unfold writeForm
  simp only [hbehind, hp, Option.map_none, Option.isNone_none, askPages, List.append_nil, List.filter_nil]
  have hentering : ∀ (f : LaneAcc × Checked → Option (LaneAcc × BitVec 32)), (∀ p, f p = none) → ∀ l : List (LaneAcc × Checked), l.filterMap f = [] :=
    fun f hf l => List.filterMap_eq_nil_iff.mpr fun p _ => hf p
  rw [hentering _ (fun p => by rcases p.2 <;> rfl)]
  simp only [List.length_nil, Nat.not_lt_zero, if_false, List.filter_true, List.map_nil, List.append_nil]

theorem reportLanes_nil (x : Iss) (b : Bool) (c : BitVec 8) (w : Bool) (s : State) : reportLanes x [] b c w s = s := rfl

/-- A store through generic addresses whose lanes are on this device (R203, R287, R288). -/
theorem storeForm_result {i : Instr} {s : State} {x : Iss} {o : Host.Outcome State Fault Refusal} {l : List LaneAcc} {pre : List Bad}
    {data : Nat → Nat} (hx : Issues i s x)
    (ho : x.active ≠ 0 → o = .next (chargeIdle x (storeForm x l pre data (popIssue s)))) : StoreResult o s x (popIssue s) l pre data := by
  intro hne hpages hlocal hlog hstored
  have hlog : NoLog (popIssue s) x := hlog
  have ho := ho (active_of_lanes hne)
  have hkey : x.team.key = x.ref.team := key_of_teamOf hx.team.1
  unfold storeForm at ho
  rw [writeForm_clean hlog hpages] at ho
  simp only at ho
  have hc : OnlyCaches (popIssue s) (checkLanes x l (popIssue s)).1 := checkLanes_caches x l _
  generalize checkLanes x l (popIssue s) = c at *
  have hput : Put x.ref.team.disp x.ref.team.block (storedBy data (okLanes c.2)) (spadBy data (okLanes c.2)) s (storeLanes x data (okLanes c.2) c.1).1 := by
    rw [storeLanes_eq x data c.1 hlocal] at hstored ⊢
    have h0 : Put x.ref.team.disp x.ref.team.block noBytes noBytes s c.1 :=
      .of_eq ((Unmoved.popIssue s).trans hc.unmoved) hc.silent.mem hc.silent.blocks
    refine (h0.trans (hkey ▸ storeOnes_put _ hlocal c.1 hstored)).congr (fun a => ?_) (fun a => ?_) <;> simp [noBytes]
  rw [hstored] at ho
  generalize (storeLanes x data (okLanes c.2) c.1).1 = u at *
  have hissue : AtIssue x u := by
    have h := (AtIssue.start hx).unmoved (Unmoved.of_eq (s := popIssue s) (t := s) rfl rfl rfl)
    exact h.unmoved hput.unmoved
  refine ⟨fun hbad => ?_, fun b hb => ?_⟩
  · rw [if_neg (not_not_intro hbad), reportLanes_nil] at ho
    have ht := (conflicts_traced x (okLanes c.2) (retire x u)).trans ((chargeIdle_charged x _).traced _)
    have hr := retiredFrom hissue ht.unmoved
    refine ⟨_, ho, hr.next, hput.unmoved.regs.trans hr.regs, fun r n => (flagAt_of_inflight hr.inflight r n).trans (hput.unmoved.flags r n),
      hr.tags.trans hput.unmoved.tags, fun c => (hr.ctxs c).trans (hput.unmoved.ctxs c), fun htr a => ?_, fun hblk a => ?_, fun d j hne => ?_⟩
    · rw [← hput.mem, readByte, readByte]
      exact congrArg (mapGet memDefault · a) ((ht.mem (by rw [hx.trace hput.unmoved.ctxs]; exact htr)).trans (retire_mem x u))
    · obtain ⟨hu, hp⟩ := hput.spad hblk
      have hst := (blockStore_of_blocks ht.blocks x.ref.team.disp x.ref.team.block).trans (blockStore_of_regs (retire_blocks x u) _ _)
      rw [hx.block, ← hp]
      unfold blockStore at hst
      cases hub : blockOf u x.ref.team.disp x.ref.team.block with
      | none => exact absurd hub hu
      | some b =>
        rw [hub] at hst
        obtain ⟨b', hb', he⟩ := Option.map_eq_some_iff.mp hst
        rw [spByte, spByte, hb']
        exact congrArg (mapGet 0 · a) (congrArg Prod.fst he)
    · rw [blockStore_of_blocks ht.blocks, blockStore_of_regs (retire_blocks x u), hput.blocks d j hne]
  · rw [if_pos (fun h => by rw [h] at hb; cases hb), List.append_nil] at ho
    exact ⟨_, ho, reportLanes_faulted (hissue.unmoved (conflicts_traced x _ _).unmoved) hb (chargeIdle_charged x _)⟩

end Sys2Proof.Machine
end

section
/-! BUFFER FORMS AND SCALE TILES (O23, R46 to R50, R290, R294). -/
namespace Sys2Proof.Machine
open Sys2Proof.Forms

/-! ### The elements that lanes name (R48, R49) -/

/-- Does lane `l` name an element outside the buffer? -/
def bufOut (x : Iss) (d : Desc) (l : Nat) : Bool := decide (d.len < ((readWord x x.f.b 0 l).toNat + 1) * 2 ^ d.esz)

/-- Does the descriptor deny the access? -/
def bufDenied (d : Desc) (write : Bool) : Bool := (write && d.ro) || (!write && d.wo)

def bufAddr (x : Iss) (d : Desc) (l : Nat) : BitVec 64 :=
  BitVec.ofNat 64 ((d.tag.toNat <<< 56) + (d.base + (readWord x x.f.b 0 l).toNat * 2 ^ d.esz) % 2 ^ 56)

def bufAcc (x : Iss) (d : Desc) (write : Bool) (l : Nat) : LaneAcc :=
  ⟨l, { ga := bufAddr x d l, n := 2 ^ d.esz, align := 2 ^ d.esz, write := write, atom := false, tags := true }⟩

def bufBad (x : Iss) (d : Desc) (l : Nat) : Bad := ⟨l, if bufOut x d l then 0x12 else 0x13, some (bufAddr x d l), none⟩

theorem bufLanes_eq (x : Iss) (d : Desc) (write : Bool) (ls : List Nat) : bufLanes x d write ls =
    ((ls.filter (fun l => !bufOut x d l && !bufDenied d write)).map (bufAcc x d write),
     (ls.filter (fun l => bufOut x d l || bufDenied d write)).map (bufBad x d), ls.filter (bufOut x d)) := by
  induction ls with
  | nil => rfl
  | cons l ls ih =>
    unfold bufLanes at ih ⊢
    rw [List.foldr_cons, ih]
    by_cases ho : d.len < ((readWord x x.f.b 0 l).toNat + 1) * 2 ^ d.esz
    · have hb : bufOut x d l = true := decide_eq_true ho
      simp [hb, ho, bufBad, bufAddr]
    · have hb : bufOut x d l = false := decide_eq_false ho
      by_cases hd : ((write && d.ro) || (!write && d.wo)) = true
      · have hden : bufDenied d write = true := hd
        rw [if_neg ho, if_pos hd]
        simp [hb, hden, bufBad, bufAddr]
      · have hden : bufDenied d write = false := Bool.eq_false_iff.mpr hd
        rw [if_neg ho, if_neg hd]
        simp [hb, hden, bufAcc, bufAddr]

section Elements
variable (x : Iss) (d : Desc) (write : Bool) (ls : List Nat)

theorem mem_bufOk {q : LaneAcc} : q ∈ (bufLanes x d write ls).1 ↔
    ∃ l ∈ ls, bufOut x d l = false ∧ bufDenied d write = false ∧ bufAcc x d write l = q := by
  rw [bufLanes_eq, List.mem_map]
  simp [List.mem_filter, and_assoc]

theorem mem_bufBad {q : Bad} : q ∈ (bufLanes x d write ls).2.1 ↔ ∃ l ∈ ls, (bufOut x d l = true ∨ bufDenied d write = true) ∧ bufBad x d l = q := by
  rw [bufLanes_eq, List.mem_map]
  simp [List.mem_filter, and_assoc]

theorem mem_bufOut {l : Nat} : l ∈ (bufLanes x d write ls).2.2 ↔ l ∈ ls ∧ bufOut x d l = true := by
  rw [bufLanes_eq, List.mem_filter]

theorem bufOk_nodup (h : ls.Nodup) : ((bufLanes x d write ls).1.map (·.lane)).Nodup := by
  rw [bufLanes_eq, List.map_map]
  have e : (fun a : LaneAcc => a.lane) ∘ bufAcc x d write = id := rfl
  rw [e, List.map_id]
  exact h.filter _

end Elements

/-- What the accesses and failing lanes of a buffer load say of its lanes, with the lanes that read zero or without. -/
theorem buf_loadLanes (x : Iss) (d : Desc) (core : Option Nat) (pre : List Bad) (zeros : List Nat)
    (hz : ∀ l ∈ zeros, l ∈ accLanes x ∧ bufOut x d l = true)
    (hc : pre = [] → ∀ l ∈ accLanes x, (bufOut x d l = false ∧ bufDenied d false = false) ∨ l ∈ zeros) :
    LoadLanes x (throughL1 core ((bufLanes x d false (accLanes x)).1, (bufLanes x d false (accLanes x)).2.1)).1 pre zeros := by
  have hmem : ∀ a ∈ (throughL1 core ((bufLanes x d false (accLanes x)).1, (bufLanes x d false (accLanes x)).2.1)).1,
      a.lane ∈ accLanes x ∧ bufOut x d a.lane = false := by
    intro a ha
    obtain ⟨b, hb, rfl⟩ := List.mem_map.mp ha
    obtain ⟨l, hl, hout, -, rfl⟩ := (mem_bufOk x d false _).mp hb
    exact ⟨hl, hout⟩
  refine ⟨?_, fun a ha => (hmem a ha).1, fun l hl => (hz l hl).1, fun a ha hl => ?_, fun hpre n hn => ?_⟩
  · unfold throughL1
    rw [List.map_map]
    exact bufOk_nodup x d false _ (accLanes_nodup x)
  · exact absurd (hz _ hl).2 (by rw [(hmem a ha).2]; simp)
  · refine (hc hpre n hn).imp_left fun ⟨hout, hden⟩ => ?_
    exact ⟨_, List.mem_map_of_mem ((mem_bufOk x d false _).mpr ⟨n, hn, hout, hden, rfl⟩), rfl⟩

/-! ### The forms -/

section Forms
variable {x : Iss} {s : State} {eff : Desc → State → State}

theorem bufThen_invalid (h : (quadDesc x x.f.a).valid = false) : bufThen x eff s = faultAt x 0x30 x.f.word s := if_pos h

theorem bufThen_none (h : (quadDesc x x.f.a).valid = true) (ha : x.active = 0) : bufThen x eff s = retire x s :=
  (if_neg (by rw [h]; simp)).trans (if_pos ha)

theorem bufThen_some (h : (quadDesc x x.f.a).valid = true) (ha : x.active ≠ 0) : bufThen x eff s = eff (quadDesc x x.f.a) s :=
  (if_neg (by rw [h]; simp)).trans (if_neg ha)

end Forms

/-- An invalid descriptor is a handle fault, and an empty active set passes (R47, R232). -/
theorem bufThen_edges {i : Instr} {s : State} {x : Iss} {o : Host.Outcome State Fault Refusal} {eff : Iss → Desc → State → State} (hx : Issues i s x)
    (ho : o = issue i s (fun x => bufThen x (eff x))) :
    ((quadDesc x x.f.a).valid = false → TakesFault o s x 0x30 x.f.word) ∧
    ((quadDesc x x.f.a).valid = true → x.active = 0 → Passes o s x x.split.regs) ∧
    ((quadDesc x x.f.a).valid = true → x.active ≠ 0 → o = .next (chargeIdle x (eff x (quadDesc x x.f.a) (popIssue s)))) := by
  rw [issue_next _ hx] at ho
  refine ⟨fun h => ⟨_, ho, ?_⟩, fun h ha => ⟨_, ho, ?_⟩, fun h ha => by rw [ho, bufThen_some h ha]⟩
  · rw [bufThen_invalid h]
    exact faultTaken_of_raise hx _ rfl rfl rfl rfl
  · rw [bufThen_none h ha]
    exact passes_of_caches hx rfl rfl rfl rfl

theorem fieldRegs_buf {x : Iss} (hop : x.op = 0x92 ∨ x.op = 0x93) : (fieldRegs x).1 ∣ 128 := by
  have e : (fieldRegs x).1 = if x.esz = 8 then 2 else if x.esz = 16 then 4 else 1 := by
    unfold fieldRegs
    rcases hop with h | h <;> rw [h] <;> rfl
  rw [e]
  split_ifs <;> decide

/-- The registers of a buffer load's destination. -/
theorem buf_dstFits {i : Instr} {s : State} {x : Iss} (hx : Issues i s x) (hop : x.op = 0x92 ∨ x.op = 0x93) : DstFits x (fieldRegs x).1 := by
  refine hx.dstFits (.inl ?_) ?_ ?_ (fieldRegs_buf hop) <;> rcases hop with h | h <;> rw [h] <;> decide

theorem bits_bufAddr (x : Iss) (d : Desc) (l : Nat) :
    bits (bufAddr x d l) 55 0 = (d.base + (readWord x x.f.b 0 l).toNat * 2 ^ d.esz) % 2 ^ 56 ∧ bits (bufAddr x d l) 59 56 = d.tag.toNat := by
  unfold bufAddr bits
  generalize (d.base + (readWord x x.f.b 0 l).toNat * 2 ^ d.esz) = n
  have ht : d.tag.toNat < 16 := d.tag.isLt
  rw [BitVec.toNat_ofNat, Nat.shiftLeft_eq, Nat.shiftRight_eq_div_pow, Nat.shiftRight_eq_div_pow]
  constructor <;> omega

/-! ### Scale tiles (R294) -/

/-- A vector destination that passes the checks is a vector register. -/
theorem Issues.vecDst {i : Instr} {s : State} {x : Iss} (h : Issues i s x) (hr : (roles x.op).1 = .vdst) : ∃ v, opd x.f.d = .vec v := by
  obtain ⟨r, t, sp, c, f, -, -, -, hd⟩ := h
  unfold decodeFault at hd
  split_ifs at hd with h1 h2
  have h2 : operandsOk x (readU x) = true := by simpa using h2
  unfold operandsOk at h2
  simp only [Bool.and_eq_true, hr] at h2
  have h3 := h2.1.1.1.1.1.1.1.1.1.1
  unfold roleOk at h3
  cases ho : opd x.f.d with
  | vec v => exact ⟨v, rfl⟩
  | _ =>
    rw [ho] at h3
    cases h3

theorem fld_lt (v lo n : Nat) : fld v lo n < 2 ^ n := Nat.mod_lt _ (Nat.two_pow_pos n)

theorem fld_four_bytes (b : Nat → Nat) (hb : ∀ k, b k < 2 ^ 8) {k : Nat} (hk : k < 4) :
    fld (b 0 + (b 1 <<< 8) + (b 2 <<< 16) + (b 3 <<< 24)) (8 * k) 8 = b k := by
  have h0 := hb 0
  have h1 := hb 1
  have h2 := hb 2
  have h3 := hb 3
  unfold fld
  rw [Nat.shiftLeft_eq, Nat.shiftLeft_eq, Nat.shiftLeft_eq, Nat.shiftRight_eq_div_pow]
  match k with
  | 0 => omega
  | 1 => omega
  | 2 => omega
  | 3 => omega

/-- Byte `k` of a lane's word comes from row r xor 16 k of the tile. -/
theorem tileWord_byte (v l : Nat) {k : Nat} (hk : k < 4) :
    fld (tileWord (fun i => fld v (8 * i) 8) l) (8 * k) 8 = fld v (8 * (4 * ((l % 64) ^^^ (16 * k)) + k)) 8 := by
  have hb := fld_four_bytes (fun k => fld v (8 * (4 * ((l % 64) ^^^ (16 * k)) + k)) 8) (fun k => fld_lt v (8 * (4 * ((l % 64) ^^^ (16 * k)) + k)) 8) hk
  have ht : tileWord (fun i => fld v (8 * i) 8) l = fld v (8 * (4 * ((l % 64) ^^^ (16 * 0)) + 0)) 8 + (fld v (8 * (4 * ((l % 64) ^^^ (16 * 1)) + 1)) 8 <<< 8) +
      (fld v (8 * (4 * ((l % 64) ^^^ (16 * 2)) + 2)) 8 <<< 16) + (fld v (8 * (4 * ((l % 64) ^^^ (16 * 3)) + 3)) 8 <<< 24) := by
    unfold tileWord
    rw [Nat.mul_zero, Nat.xor_zero, Nat.add_zero, Nat.mul_one]
  rw [ht]
  exact hb

/-- The lanes of a tile whose pieces are on this device and whose bytes are not poisoned have their words in flight (R294). -/
theorem tileEnd_loaded {i : Instr} {s c : State} {x : Iss} {d : BitVec 8} {v : Nat} {la : LaneAcc} {ts : List Target} (hx : Issues i s x)
    (hop : x.op = 0x9E) (hd : x.f.d = d) (hc : OnlyCaches (popIssue s) c) (hl : isRemote ts = false)
    (hv : loadValue c (some x.team.core) x.block (.lane x.ref x.first) ts 256 = .ok v) :
    Loaded s (chargeIdle x (tileEnd x la ts c)) x (bits x.clause.header 15 12) (fun e => ∀ l, l < x.n → laneIn x.active l = true →
      ∃ word, WillHold e d l 1 word ∧ ∀ k, k < 4 → fld word (8 * k) 8 = fld v (8 * (4 * ((l % 64) ^^^ (16 * k)) + k)) 8) := by
  have hissue : AtIssue x c := (AtIssue.start hx).unmoved hc.unmoved
  have hfly := addFlight_flying hissue (regWrites x x.f.d 1 x.active (tileWord (fun i => fld v (8 * i) 8)))
  unfold tileEnd
  simp only [fetching_local hl, Bool.false_eq_true, if_false, hv]
  generalize addFlight x false .ready _ [] 0 none c = s1 at *
  have hpass := (loadPass_caches (partOfCtx s1 x.team.ctx) (some x.team.core) true false ts s1).silent
  generalize loadPass _ _ _ _ ts s1 = s2 at *
  have hs := hpass.trans ((fetchForget_silent s2 x.ref).trans (noteReads_silent x [(256, ts)] _))
  refine hfly.loaded hx hc hs ((conflicts_traced x [(la, ts)] _).trans ((chargeIdle_charged x _).traced _)) fun e he l hlt hin => ?_
  refine ⟨_, fun j hj => ?_, fun k hk => tileWord_byte v l hk⟩
  obtain ⟨w, hw, hfit⟩ : ∃ w, opd x.f.d = .vec w ∧ w + 1 ≤ 128 := by
    obtain ⟨w, hw⟩ := hx.vecDst (by rw [hop]; rfl)
    exact ⟨w, hw, (opd_vec hw).2⟩
  rw [he, ← hd, writtenBy_vec hw hfit _ _ hj (mem_lanesOf.mpr ⟨hlt, hin⟩), Nat.shiftRight_eq_div_pow]

/-- The access of a tile. -/
def tileAcc (x : Iss) (d : Desc) (t : Nat) : LaneAcc :=
  ⟨x.first, { ga := BitVec.ofNat 64 ((d.tag.toNat <<< 56) + (d.base + 256 * t) % 2 ^ 56), n := 256, align := 1, write := false, atom := false
              tags := true, l1 := some x.team.core }⟩

/-- What LDSC does with the outcome of its access. -/
def tilePerform (x : Iss) (la : LaneAcc) (ok : List (LaneAcc × List Target)) (bad : List Bad) (s : State) : State :=
  match ok, bad with
  | (_, ts) :: _, [] => tileEnd x la ts s
  | _, bd :: _ => wholeFault x bd.cause 0 (some la.acc.ga) none s
  | [], [] => retire x s

/-- LDSC past the checks of its descriptor: the tile's bytes are read through one access. -/
theorem tile_settled {i : Instr} {s : State} {x : Iss} {d : BitVec 8} {v : Nat} {la : LaneAcc} {ts : List Target} (hx : Issues i s x) (hop : x.op = 0x9E)
    (hd : x.f.d = d) (hlog : NoLog s x) (hok : okLanes (checkLanes x [la] (popIssue s)).2 = [(la, ts)]) (hl : isRemote ts = false)
    (hv : loadValue (checkLanes x [la] (popIssue s)).1 (some x.team.core) x.block (.lane x.ref x.first) ts 256 = .ok v) :
    Loaded s (chargeIdle x (settleThen x 0 false [la] (tilePerform x la) (popIssue s))) x (bits x.clause.header 15 12) (fun e =>
      ∀ l, l < x.n → laneIn x.active l = true →
        ∃ word, WillHold e d l 1 word ∧ ∀ k, k < 4 → fld word (8 * k) 8 = fld v (8 * (4 * ((l % 64) ^^^ (16 * k)) + k)) 8) := by
  have hc := checkLanes_caches x [la] (popIssue s)
  have hlog : NoLog (popIssue s) x := hlog
  obtain ⟨hp, hb⟩ : pageLanes (checkLanes x [la] (popIssue s)).2 = [] ∧ badLanes (checkLanes x [la] (popIssue s)).2 = [] := by
    have hfst := checkLanes_fst x [la] (popIssue s)
    generalize (checkLanes x [la] (popIssue s)).2 = c at *
    obtain ⟨⟨a, k⟩, rfl⟩ := List.map_eq_singleton_iff.mp hfst |>.imp fun q hq => hq.1
    cases k with
    | ok _ _ => exact ⟨rfl, rfl⟩
    | fault _ => cases hok
    | page _ => cases hok
  rw [settleThen_clean hlog hp, hok, hb]
  exact tileEnd_loaded hx hop hd hc hl hv

/-! ### The statement -/

/-- The accesses of a buffer load's lanes. -/
def bufLoads (x : Iss) (d : Desc) : List LaneAcc :=
  (throughL1 (some x.team.core) ((bufLanes x d false (accLanes x)).1, (bufLanes x d false (accLanes x)).2.1)).1

/-- A buffer load with a valid descriptor, its failing lanes and the lanes that read zero. -/
theorem bufLoad_result {i : Instr} {s : State} {x : Iss} {o : Host.Outcome State Fault Refusal} {pre : List Bad} {zeros : List Nat} (hx : Issues i s x)
    (hop : x.op = 0x92 ∨ x.op = 0x93) (ho : x.active ≠ 0 → o = .next (chargeIdle x
      (loadForm x (plainLoad x) false (bufLoads x (quadDesc x x.f.a)) pre (zeros.map (fun l => (l, 0))) id (popIssue s))))
    (hz : ∀ l ∈ zeros, l ∈ accLanes x ∧ bufOut x (quadDesc x x.f.a) l = true)
    (hc : pre = [] → ∀ l ∈ accLanes x,
      (bufOut x (quadDesc x x.f.a) l = false ∧ bufDenied (quadDesc x x.f.a) false = false) ∨ l ∈ zeros) :
    LoadResult o s x (popIssue s) (some x.team.core) false (bufLoads x (quadDesc x x.f.a)) pre zeros :=
  loadForm_result hx ho (buf_dstFits hx hop) (buf_loadLanes x _ _ _ _ hz hc) (fun v => .refl v)

theorem exec_ldb (d a b : BitVec 8) (s : State) : exec (.ldb d a b) s = issue (.ldb d a b) s (fun x => bufThen x (fun dd =>
    loadForm x (plainLoad x) false (bufLoads x dd) (bufLanes x dd false (accLanes x)).2.1 (([] : List Nat).map (fun l => (l, 0))) id)) := rfl

theorem exec_ldbz (d a b : BitVec 8) (s : State) : exec (.ldbz d a b) s = issue (.ldbz d a b) s (fun x => bufThen x (fun dd =>
    loadForm x (plainLoad x) false (bufLoads x dd) ((bufLanes x dd false (accLanes x)).2.1.filter (fun q => decide (q.cause ≠ 0x12)))
      ((bufLanes x dd false (accLanes x)).2.2.map (fun l => (l, 0))) id)) := rfl

theorem exec_stb (d a b : BitVec 8) (s : State) : exec (.stb d a b) s = issue (.stb d a b) s (fun x => bufThen x (fun dd =>
    storeForm x (bufLanes x dd true (lanesOf x.n x.active)).1 (bufLanes x dd true (lanesOf x.n x.active)).2.1 (storeData x (2 ^ dd.esz)))) := rfl

/-- LDSC with a valid descriptor and an active lane: the tile's index, the descriptor's leave to read it, and its one access. -/
def tileForm (x : Iss) (b : BitVec 8) (dd : Desc) (s : State) : State :=
  let t := (readU x b).toNat
  let la := tileAcc x dd t
  if dd.base % 256 ≠ 0 ∨ dd.len < (t + 1) * 256 then wholeFault x 0x53 0xFF none none s
  else if dd.wo then wholeFault x 0x13 0 (some la.acc.ga) none s
  else settleThen x 0 false [la] (tilePerform x la) s

theorem exec_ldsc (d a b : BitVec 8) (s : State) :
    exec (.ldsc d a b) s = issue (.ldsc d a b) s (fun x => bufThen x (tileForm x b)) := rfl

section Tile
variable {x : Iss} {b : BitVec 8} {dd : Desc} {s : State}

theorem tileForm_layout (h : dd.base % 256 ≠ 0 ∨ dd.len < ((readU x b).toNat + 1) * 256) : tileForm x b dd s = wholeFault x 0x53 0xFF none none s :=
  if_pos h

theorem tileForm_read (hb : dd.base % 256 = 0) (hl : ((readU x b).toNat + 1) * 256 ≤ dd.len) (hw : dd.wo = false) :
    tileForm x b dd s = settleThen x 0 false [tileAcc x dd (readU x b).toNat] (tilePerform x (tileAcc x dd (readU x b).toNat)) s := by
  have h : ¬ (dd.base % 256 ≠ 0 ∨ dd.len < ((readU x b).toNat + 1) * 256) := by omega
  exact (if_neg h).trans (if_neg (by rw [hw]; simp))

end Tile

theorem op_of_fields {i : Instr} {s : State} {x : Iss} {f : Fields} (hx : Issues i s x) (hf : fieldsOf i = some f) : x.op = f.op.toNat ∧ x.f = f := by
  obtain ⟨-, -, -, g, hg, hxf, hop⟩ := hx.team
  have e : g = f := Option.some.inj (hg.symm.trans hf)
  rw [hop, hxf, e]
  exact ⟨rfl, rfl⟩

theorem ldb_result {s : State} {x : Iss} {d a b : BitVec 8} (hx : Issues (.ldb d a b) s x) (hv : (quadDesc x x.f.a).valid = true) :
    LoadResult (exec (.ldb d a b) s) s x (popIssue s) (some x.team.core) false (bufLoads x (quadDesc x x.f.a))
      (bufLanes x (quadDesc x x.f.a) false (accLanes x)).2.1 [] := by
  refine bufLoad_result hx (.inl (op_of_fields hx rfl).1) (fun ha => (bufThen_edges hx (exec_ldb d a b s)).2.2 hv ha) (fun l hl => by cases hl)
    (fun hpre l hl => .inl ?_)
  have hno := fun h => List.ne_nil_of_mem ((mem_bufBad x (quadDesc x x.f.a) false _).mpr ⟨l, hl, h, rfl⟩) hpre
  exact ⟨Bool.eq_false_iff.mpr fun e => hno (.inl e), Bool.eq_false_iff.mpr fun e => hno (.inr e)⟩

theorem ldbz_result {s : State} {x : Iss} {d a b : BitVec 8} (hx : Issues (.ldbz d a b) s x) (hv : (quadDesc x x.f.a).valid = true) :
    LoadResult (exec (.ldbz d a b) s) s x (popIssue s) (some x.team.core) false (bufLoads x (quadDesc x x.f.a))
      ((bufLanes x (quadDesc x x.f.a) false (accLanes x)).2.1.filter (fun q => decide (q.cause ≠ 0x12)))
      (bufLanes x (quadDesc x x.f.a) false (accLanes x)).2.2 := by
  refine bufLoad_result hx (.inr (op_of_fields hx rfl).1) (fun ha => (bufThen_edges hx (exec_ldbz d a b s)).2.2 hv ha)
    (fun l hl => (mem_bufOut x _ false _).mp hl) (fun hpre l hl => ?_)
  by_cases hout : bufOut x (quadDesc x x.f.a) l = true
  · exact .inr ((mem_bufOut x _ false _).mpr ⟨hl, hout⟩)
  · refine .inl ⟨Bool.eq_false_iff.mpr hout, Bool.eq_false_iff.mpr fun hden => ?_⟩
    have hq := (mem_bufBad x (quadDesc x x.f.a) false _).mpr ⟨l, hl, .inr hden, rfl⟩
    have hcause : (bufBad x (quadDesc x x.f.a) l).cause ≠ 0x12 := by
      rw [show (bufBad x (quadDesc x x.f.a) l).cause = 0x13 from if_neg hout]
      decide
    exact List.filter_eq_nil_iff.mp hpre _ hq (decide_eq_true hcause)

/-- Each lane of a buffer form is in range and allowed, denied, or out of range (R48, R49). -/
theorem bufLanes_lane (x : Iss) (d : Desc) {l : Nat} (hl : l ∈ accLanes x) :
    let i := (readWord x x.f.b 0 l).toNat
    let r := bufLanes x d false (accLanes x)
    (l ∈ r.2.2 ↔ d.len < (i + 1) * 2 ^ d.esz) ∧
    (d.len < (i + 1) * 2 ^ d.esz → ∃ q ∈ r.2.1, q.lane = l ∧ q.cause = 0x12) ∧
    ((i + 1) * 2 ^ d.esz ≤ d.len → d.wo = true → ∃ q ∈ r.2.1, q.lane = l ∧ q.cause = 0x13) ∧
    ((i + 1) * 2 ^ d.esz ≤ d.len → d.wo = false → ∃ q ∈ r.1, q.lane = l ∧ q.acc.n = 2 ^ d.esz ∧
      bits q.acc.ga 55 0 = (d.base + i * 2 ^ d.esz) % 2 ^ 56 ∧ bits q.acc.ga 59 56 = d.tag.toNat) := by
  refine ⟨?_, fun h => ?_, fun h hwo => ?_, fun h hwo => ?_⟩
  · rw [mem_bufOut]
    exact (and_iff_right hl).trans decide_eq_true_iff
  · have hout : bufOut x d l = true := decide_eq_true h
    exact ⟨_, (mem_bufBad x d false _).mpr ⟨l, hl, .inl hout, rfl⟩, rfl, if_pos hout⟩
  · have hout : bufOut x d l = false := decide_eq_false (Nat.not_lt.mpr h)
    have hden : bufDenied d false = true := by rw [bufDenied, hwo]; rfl
    exact ⟨_, (mem_bufBad x d false _).mpr ⟨l, hl, .inr hden, rfl⟩, rfl, if_neg (by rw [hout]; simp)⟩
  · have hout : bufOut x d l = false := decide_eq_false (Nat.not_lt.mpr h)
    have hden : bufDenied d false = false := by rw [bufDenied, hwo]; rfl
    exact ⟨_, (mem_bufOk x d false _).mpr ⟨l, hl, hout, hden, rfl⟩, rfl, rfl, bits_bufAddr x d l⟩

/-- Settles O23: a buffer form by the elements its lanes name and the load or store of those, LDSC by the one access of its tile. -/
theorem bufferAndScaleTileForms : Obligations.BufferAndScaleTileForms := by
  refine ⟨fun s x d a b => ⟨fun hx => ?_, fun hx => ?_, fun hx => ?_, fun l hl => bufLanes_lane x _ hl⟩, fun s x d a b hx => ?_⟩
  · obtain ⟨h1, h2, -⟩ := bufThen_edges hx (exec_ldb d a b s)
    exact ⟨h1, fun hv => ⟨h2 hv, ldb_result hx hv⟩⟩
  · obtain ⟨h1, h2, -⟩ := bufThen_edges hx (exec_ldbz d a b s)
    exact ⟨h1, fun hv => ⟨h2 hv, ldbz_result hx hv⟩⟩
  · obtain ⟨h1, h2, h3⟩ := bufThen_edges hx (exec_stb d a b s)
    exact ⟨h1, fun hv => ⟨h2 hv, storeForm_result hx (h3 hv)⟩⟩
  · obtain ⟨hop, hf⟩ := op_of_fields hx rfl
    have hd : x.f.d = d := by rw [hf]
    obtain ⟨h1, h2, h3⟩ := bufThen_edges hx (exec_ldsc d a b s)
    refine ⟨h1, h2, fun hv ha hbad => ⟨_, h3 hv ha, ?_⟩, fun hv ha hbase hlen hwo hlog ts v hok hl hval => ⟨_, h3 hv ha, ?_⟩⟩
    · rw [tileForm_layout (dd := quadDesc x x.f.a) hbad]
      exact faultTaken_of_raise hx _ rfl rfl rfl rfl
    · rw [tileForm_read (dd := quadDesc x x.f.a) hbase hlen hwo]
      exact tile_settled hx hop hd hlog hok hl hval

end Sys2Proof.Machine
end

section
/-! PREFETCH, CACHE CONTROL AND TAGS (O25, R43, R45, R291 to R293). -/
namespace Sys2Proof.Machine
open Sys2Proof.Forms

/-! ### A form that retires without a result -/

theorem AtIssue.of_teams {x : Iss} {u v : State} (h : AtIssue x u) (ht : v.teams = u.teams) : AtIssue x v := by
  obtain ⟨⟨tm, sp, htm, h1⟩, hc⟩ := h
  exact ⟨⟨tm, sp, (teamOf_congr ht _).trans htm, h1⟩, hc⟩

/-- The retirement of the issuing split, with the cycle's charge. -/
theorem retired_charged {x : Iss} {u : State} (h : AtIssue x u) : RetiredFrom x u (chargeIdle x (retire x u)) ∧ (chargeIdle x (retire x u)).mem = u.mem := by
  have hc := chargeIdle_charged x (retire x u)
  exact ⟨retiredFrom h hc.unmoved, ((by obtain ⟨_, _, h⟩ := hc; rw [h]) : _ = (retire x u).mem).trans (retire_mem x u)⟩

/-- Nothing that a program reads has changed but the place of the split, where an instruction works on caches alone. -/
theorem retired_caches {i : Instr} {s u : State} {x : Iss} (hx : Issues i s x) (hu : OnlyCaches (popIssue s) u) :
    let t := chargeIdle x (retire x u)
    Advanced x t ∧ SameRegs s t ∧ (∀ r n, flagAt t r n = flagAt s r n) ∧ t.mem = s.mem ∧ t.tags = s.tags := by
  have h0 : Unmoved s u := (Unmoved.popIssue s).trans hu.unmoved
  obtain ⟨hr, hm⟩ := retired_charged ((AtIssue.start hx).unmoved hu.unmoved)
  exact ⟨hr.next, h0.regs.trans hr.regs, fun r n => (flagAt_of_inflight hr.inflight r n).trans (h0.flags r n), hm.trans hu.mem, hr.tags.trans hu.tags⟩

/-! ### Prefetch (R291) -/

theorem prefLane_caches (x : Iss) (l : Nat) (s : State) : OnlyCaches s (prefLane x l s).1 := by
  unfold prefLane
  split
  · exact .refl s
  · next ga _ =>
    have h := checkAccess_caches s (whoOf x l) { ga := ga, n := 1, align := 1, write := false, atom := false, tags := true }
    split
    · next hc => rwa [hc] at h
    · next hc => rwa [hc] at h

/-- The line of one lane is asked for. -/
def prefOne (x : Iss) (s : State) (l : Nat) : State :=
  match prefLane x l s with
  | (s1, some (pa, cp)) => prefLine x (decide (bits x.m 0 0 = 1)) pa cp s1
  | (s1, none) => s1

theorem prefOne_caches (x : Iss) (s : State) (l : Nat) : OnlyCaches s (prefOne x s l) := by
  have h := prefLane_caches x l s
  unfold prefOne
  split
  · next hp =>
    rw [hp] at h
    exact h.trans (loadPass_caches _ _ _ _ _ _)
  · next hp => rwa [hp] at h

theorem exec_pref (a b : BitVec 8) (s : State) :
    exec (.pref a b) s = issue (.pref a b) s (fun x s => retire x ((lanesOf x.n x.active).foldl (prefOne x) s)) := rfl

/-! ### Cache control (R292) -/

/-- The accesses of the lanes of operations 1 to 3, and the lanes whose sum leaves the address range. -/
def cctlLanes (x : Iss) (ls : List Nat) : List LaneAcc × List Bad :=
  ls.foldr (fun l (acc : List LaneAcc × List Bad) =>
    let ga := BitVec.ofNat 64 (readNat x x.f.a l 2)
    match effAddr ga (modOff x.m) with
    | some e => (⟨l, { ga := e, n := 1, align := 1, write := false, atom := false, tags := false }⟩ :: acc.1, acc.2)
    | none => (acc.1, ⟨l, 0x10, some ga, none⟩ :: acc.2)) ([], [])

theorem cctlLanes_all (x : Iss) (ls : List Nat) (h : ∀ l ∈ ls, effAddr (BitVec.ofNat 64 (readNat x x.f.a l 2)) (modOff x.m) ≠ none) :
    cctlLanes x ls = ((ls.map (fun i => (i, effAddr (BitVec.ofNat 64 (readNat x x.f.a i 2)) (modOff x.m)))).filterMap
      (fun p => p.2.map (fun e => LaneAcc.mk p.1 (Access.mk e 1 1 false false false none))), []) := by
  induction ls with
  | nil => rfl
  | cons l ls ih =>
    have ih := ih (fun n hn => h n (List.mem_cons_of_mem _ hn))
    unfold cctlLanes at ih ⊢
    rw [List.foldr_cons, ih, List.map_cons]
    obtain ⟨e, he⟩ := Option.ne_none_iff_exists'.mp (h l List.mem_cons_self)
    simp only [he, List.filterMap_cons, Option.map_some]

/-- The line of one lane that has passed its checks. -/
def cctlOne (x : Iss) (s : State) (p : LaneAcc × List Target) : State :=
  match p.2 with
  | [.mem pa _ _] => cctlLine x pa s
  | _ => s

theorem cctlLine_caches (x : Iss) (pa : Nat) (s : State) : OnlyCaches s (cctlLine x pa s) := by
  have hclean (drop : Bool) : OnlyCaches s (sliceClean s pa drop) := by
    obtain ⟨c, h⟩ := sliceClean_only s pa drop
    exact ⟨_, c, _, _, h⟩
  unfold cctlLine
  split
  · exact ⟨_, _, _, _, rfl⟩
  · exact hclean false
  · exact hclean true

theorem cctlOne_caches (x : Iss) (s : State) (p : LaneAcc × List Target) : OnlyCaches s (cctlOne x s p) := by
  unfold cctlOne
  split
  · exact cctlLine_caches x _ s
  · exact .refl s

theorem exec_cctl (a b : BitVec 8) (s : State) : exec (.cctl a b) s = issue (.cctl a b) s (fun x s =>
    if x.active = 0 then retire x s
    else if bits x.m 1 0 = 0 then retire x (l1Drop s x.team.core)
    else settleThen x 0 false (cctlLanes x (lanesOf x.n x.active)).1 (fun ok bad s =>
      if bad ++ (cctlLanes x (lanesOf x.n x.active)).2 = [] then retire x (ok.foldl (cctlOne x) s)
      else reportLanes x (bad ++ (cctlLanes x (lanesOf x.n x.active)).2) true 0 false (ok.foldl (cctlOne x) s)) s) := rfl

theorem checked_all_ok {c : List (LaneAcc × Checked)} (h : ∀ q ∈ c, ∃ ts uc, q.2 = .ok ts uc) : pageLanes c = [] ∧ badLanes c = [] := by
  constructor <;> refine List.filterMap_eq_nil_iff.mpr fun q hq => ?_ <;> (obtain ⟨ts, uc, e⟩ := h q hq; rw [e])

/-- Which L1 a core holds is untouched by what a retirement counts. -/
def sameL1 (s t : State) : Prop := ∀ c, (coreOf t c).l1 = (coreOf s c).l1

theorem sameL1.refl (s : State) : sameL1 s s := fun _ => rfl

theorem sameL1.trans {s t u : State} (h : sameL1 s t) (g : sameL1 t u) : sameL1 s u := fun c => (g c).trans (h c)

theorem sameL1.of_cores {s t : State} (h : t.cores = s.cores) : sameL1 s t := fun c => by unfold coreOf; rw [h]

theorem laneAdd_l1 (s : State) (core ctx idx n : Nat) : sameL1 s (laneAdd s core ctx idx n) := by
  have hupd (s : State) (f : Core → Core) (hf : ∀ k, (f k).l1 = k.l1) : sameL1 s (updCore s core f) := fun c => by
    rw [coreOf_updCore]
    split
    · next h => rw [hf, h]
    · rfl
  unfold laneAdd
  simp only
  split
  · exact .refl s
  · split
    · exact hupd s _ (fun _ => rfl)
    · exact (hupd s (fun k => { k with lanecyc := k.lanecyc ++ [(ctx, idx, BitVec.ofNat 64 n)] }) (fun _ => rfl)).trans (.of_cores rfl)

theorem chargePasses_l1 (x : Iss) (s : State) : sameL1 s (chargePasses x s) :=
  foldl_rel sameL1 .refl .trans _ (fun s _ => foldl_rel sameL1 .refl .trans _ (fun s _ => laneAdd_l1 s _ _ _ _) _ s) _ s

theorem newStamp_l1 (s : State) (r : SplitRef) : sameL1 s (newStamp s r) := by
  unfold newStamp
  split
  · exact .refl s
  · exact .of_cores rfl

theorem retire_l1 (x : Iss) (s : State) : sameL1 s (retire x s) := by
  have hcount (s : State) : sameL1 s (countIssue x s) := by
    unfold countIssue
    simp only
    have h (f : Split → Split) : sameL1 s (updSplit (chargePasses x s) x.ref f) := (chargePasses_l1 x s).trans (.of_cores rfl)
    split
    · exact (h _).trans (newStamp_l1 _ _)
    · exact h _
  have hturn (s : State) : sameL1 s (passTurn s x.ref.team 1) := by
    unfold passTurn
    split
    · split
      · exact .of_cores rfl
      · exact .refl s
    · exact .refl s
  have hend (s : State) : sameL1 s (endStep s x.ref) := by
    unfold endStep
    split
    · exact .refl s
    · split
      · exact .refl s
      · split
        · exact .of_cores rfl
        · exact .refl s
  unfold retire
  simp only
  generalize hs1 : Machine.updTeam s x.ref.team _ = s1
  have h1 : sameL1 s s1 := hs1 ▸ .of_cores rfl
  refine (h1.trans (hcount s1)).trans (sameL1.trans ?_ ((hturn _).trans (hend _)))
  split
  · exact newStamp_l1 _ _
  · exact .refl _

theorem chargeIdle_l1 (x : Iss) (s : State) : sameL1 s (chargeIdle x s) := by
  unfold chargeIdle
  split
  · split
    · exact laneAdd_l1 _ _ _ _ _
    · exact .refl s
  · exact .refl s

theorem l1Drop_ways (s : State) (core : Nat) : (coreOf (l1Drop s core) core).l1.ways = [] := by
  rw [l1Drop, updL1, coreOf_updCore, if_pos rfl]
  exact List.filter_eq_nil_iff.mpr fun w _ => by simp

/-! ### Memory tags (R43, R45, R293) -/

theorem tagCheck_caches (x : Iss) (write : Bool) (l : Nat) (s : State) : OnlyCaches s (tagCheck x write l s).1 := by
  have ht := translate_caches s (.pipe x.team.core x.team.part) x.team.ctx (bits (BitVec.ofNat 64 (readNat x x.f.a l 2)) 55 0)
  unfold tagCheck
  simp only
  split
  · exact .refl s
  split
  · exact .refl s
  split
  · exact .refl s
  split
  · exact .refl s
  split
  · next h => rwa [h] at ht
  · next h => rwa [h] at ht
  · next h =>
    rw [h] at ht
    split
    · exact ht
    split
    · exact ht
    split <;> exact ht

/-- A lane that passes names one sector. -/
theorem tagCheck_ok {x : Iss} {write : Bool} {l : Nat} {s : State} {ts : List Target} {uc : Bool} (h : (tagCheck x write l s).2 = .ok ts uc) :
    ∃ pa n cp, ts = [.mem pa n cp] := by
  unfold tagCheck at h
  simp only at h
  split at h
  · cases h
  split at h
  · cases h
  split at h
  · cases h
  split at h
  · cases h
  split at h
  · cases h
  · split at h <;> cases h
  · split at h
    · cases h
    split at h
    · cases h
    split at h
    · cases h
    · exact ⟨_, _, _, (Checked.ok.inj h).1.symm⟩

/-- The access that stands for a lane of STTAG and LDTAG. -/
def tagAcc (x : Iss) (write : Bool) (l : Nat) : LaneAcc :=
  ⟨l, { ga := BitVec.ofNat 64 (readNat x x.f.a l 2), n := 32, align := 32, write := write, atom := false, tags := false }⟩

/-- What the checks of all lanes leave: caches, the lanes in their order, and one sector for each that passes. -/
theorem tagChecks_spec (x : Iss) (write : Bool) (ls : List Nat) (s : State) :
    OnlyCaches s (tagChecks x write ls s).1 ∧ (tagChecks x write ls s).2.map (·.1) = ls.map (tagAcc x write) ∧
      ∀ p ∈ okLanes (tagChecks x write ls s).2, ∃ pa n cp, p.2 = [.mem pa n cp] := by
  have hgen : ∀ (ls : List Nat) (acc : State × List (LaneAcc × Checked)), ∃ l, (ls.foldl (fun acc l =>
      ((tagCheck x write l acc.1).1, acc.2 ++ [(tagAcc x write l, (tagCheck x write l acc.1).2)])) acc).2 = acc.2 ++ l ∧
      OnlyCaches acc.1 (ls.foldl (fun acc l =>
      ((tagCheck x write l acc.1).1, acc.2 ++ [(tagAcc x write l, (tagCheck x write l acc.1).2)])) acc).1 ∧
      l.map (·.1) = ls.map (tagAcc x write) ∧ ∀ p ∈ okLanes l, ∃ pa n cp, p.2 = [.mem pa n cp] := by
    intro ls
    induction ls with
    | nil => exact fun acc => ⟨[], (List.append_nil _).symm, .refl _, rfl, fun p hp => by cases hp⟩
    | cons n ls ih =>
      intro acc
      obtain ⟨l, hl, hc, hfst, hok⟩ := ih ((tagCheck x write n acc.1).1, acc.2 ++ [(tagAcc x write n, (tagCheck x write n acc.1).2)])
      refine ⟨(tagAcc x write n, (tagCheck x write n acc.1).2) :: l, ?_, (tagCheck_caches x write n acc.1).trans hc,
        congrArg (tagAcc x write n :: ·) hfst, fun p hp => ?_⟩
      · rw [List.foldl_cons, hl, List.append_assoc, List.singleton_append]
      · obtain ⟨q, hq, hqp⟩ := List.mem_filterMap.mp hp
        rcases List.mem_cons.mp hq with rfl | hm
        · cases hk : (tagCheck x write n acc.1).2 with
          | ok ts uc =>
            rw [hk] at hqp
            rw [← Option.some.inj hqp]
            exact tagCheck_ok hk
          | _ =>
            rw [hk] at hqp
            cases hqp
        · exact hok p (List.mem_filterMap.mpr ⟨q, hm, hqp⟩)
  obtain ⟨l, hl, hc, hfst, hok⟩ := hgen ls (s, [])
  have hl : (tagChecks x write ls s).2 = l := hl
  exact ⟨hc, by rw [hl]; exact hfst, by rw [hl]; exact hok⟩

/-- The sectors of the lanes that pass. -/
def tagPlaces (c : List (LaneAcc × Checked)) : List (Nat × Nat) := (okLanes c).filterMap (fun p => match p.2 with
  | [.mem pa _ _] => some (p.1.lane, pa)
  | _ => none)

/-- Without page requests and side-log entries the lanes that pass are performed at once (R45, R205). -/
theorem tagForm_clean {s : State} {x : Iss} {write : Bool} {ls : List Nat} (hlog : NoLog s x) (hp : pageLanes (tagChecks x write ls s).2 = [])
    (perform : List (Nat × Nat) → List Bad → State → State) :
    tagForm x write ls perform s = perform (tagPlaces (tagChecks x write ls s).2) (badLanes (tagChecks x write ls s).2) (tagChecks x write ls s).1 := by
  have hheld := heldBy_none (hlog.of_caches (tagChecks_spec x write ls s).1)
  unfold tagForm
  simp only [hp, askPages, hheld, ne_eq, not_true_eq_false, if_false, List.append_nil]
  rfl

theorem setTag_only (x : Iss) (pa : Nat) (tag : BitVec 4) (s : State) :
    ∃ c, setTag x pa tag s = { s with tags := mapSet 0 s.tags (pa / 32) tag, cores := c } := ⟨_, rfl⟩

/-- The tags of lanes' sectors are set in ascending lanes. -/
def setTags (x : Iss) (val : Nat → BitVec 4) (l : List (Nat × Nat)) (s : State) : State := l.foldl (fun s p => setTag x p.2 (val p.1) s) s

theorem setTags_only (x : Iss) (val : Nat → BitVec 4) (l : List (Nat × Nat)) (s : State) :
    ∃ g c, setTags x val l s = { s with tags := g, cores := c } := by
  obtain ⟨c, h⟩ := foldl_only (fun s (c : SMap (BitVec 4) × SMap Core) => { s with tags := c.1, cores := c.2 }) (fun s => (s.tags, s.cores)) (fun _ => rfl)
    (fun _ _ _ => rfl) (fun s (p : Nat × Nat) => setTag x p.2 (val p.1) s) (fun s p => ⟨(_, _), rfl⟩) l s
  exact ⟨c.1, c.2, h⟩

/-- The highest lane of one sector stays (R203). -/
theorem setTags_tags (x : Iss) (val : Nat → BitVec 4) (k : Nat) (l : List (Nat × Nat)) : ∀ s, mapGet 0 (setTags x val l s).tags k =
    match (l.filter (fun p => decide (p.2 / 32 = k))).getLast? with
    | some p => val p.1
    | none => mapGet 0 s.tags k := by
  induction l with
  | nil => exact fun _ => rfl
  | cons p l ih =>
    intro s
    have h1 : setTags x val (p :: l) s = setTags x val l (setTag x p.2 (val p.1) s) := rfl
    obtain ⟨c, hc⟩ := setTag_only x p.2 (val p.1) s
    rw [h1, ih, hc]
    simp only [mapGet_set]
    by_cases hk : p.2 / 32 = k
    · rw [List.filter_cons_of_pos (by simpa using hk), List.getLast?_cons, if_pos hk.symm]
      cases (l.filter (fun p => decide (p.2 / 32 = k))).getLast? <;> rfl
    · rw [List.filter_cons_of_neg (by simpa using hk), if_neg (Ne.symm hk)]

theorem exec_sttag (d a : BitVec 8) (s : State) : exec (.sttag d a) s = issue (.sttag d a) s (fun x s =>
    if x.active = 0 then retire x s
    else tagForm x true (lanesOf x.n x.active) (fun ok bad s =>
      if bad = [] then retire x (setTags x (fun l => (readWord x x.f.d 0 l).extractLsb' 0 4) ok s)
      else reportLanes x bad true 5 true (setTags x (fun l => (readWord x x.f.d 0 l).extractLsb' 0 4) ok s)) s) := rfl

/-- The tag of a lane's sector. -/
def tagGet (ok : List (Nat × Nat)) (s : State) (l : Nat) : Nat :=
  match ok.find? (fun p => decide (p.1 = l)) with
  | some p => (tagOf s p.2).toNat
  | none => 0

/-- The lanes that have one. -/
def tagDone (x : Iss) (ok : List (Nat × Nat)) : LaneMask := maskOf x.n (fun l => ok.any (fun p => decide (p.1 = l)))

def tagWrites (x : Iss) (d : BitVec 8) (ok : List (Nat × Nat)) (s : State) : List RegWrite :=
  regWrites x d 1 (tagDone x ok) (if x.scalarDst then fun _ => tagGet ok s x.first else tagGet ok s)

def tagFlown (x : Iss) (d : BitVec 8) (ok : List (Nat × Nat)) (s : State) : State :=
  if tagDone x ok = 0 then s else addFlight x false .ready (tagWrites x d ok s) [] 0 none s

theorem exec_ldtag (d a : BitVec 8) (s : State) : exec (.ldtag d a) s = issue (.ldtag d a) s (fun x s =>
    if x.active = 0 then retire x s
    else tagForm x false (accLanes x) (fun ok bad s =>
      if bad = [] then retire x (tagFlown x d ok s) else reportLanes x bad true 5 false (tagFlown x d ok s)) s) := rfl

theorem tagPlaces_lanes (c : List (LaneAcc × Checked)) : ((tagPlaces c).map (·.1)).Sublist (c.map (·.1.lane)) := by
  have h : ((tagPlaces c).map (·.1)).Sublist ((okLanes c).map (·.1.lane)) := by
    unfold tagPlaces
    generalize okLanes c = ok
    induction ok with
    | nil => exact .slnil
    | cons p ok ih =>
      rw [List.filterMap_cons]
      split
      · exact ih.cons _
      · next q hq =>
        split at hq
        · rw [← Option.some.inj hq]
          exact ih.cons_cons _
        · cases hq
  have h1 := (okLanes_sublist c).map (·.lane)
  rw [List.map_map, List.map_map] at h1
  exact h.trans h1

/-! ### What each form does -/

/-- An empty active set passes (R232). -/
theorem passes_of_empty {i : Instr} {s : State} {x : Iss} {o : Host.Outcome State Fault Refusal} {eff : Iss → State → State} (hx : Issues i s x)
    (ho : o = issue i s (fun x s => if x.active = 0 then retire x s else eff x s)) :
    (x.active = 0 → Passes o s x x.split.regs) ∧ (x.active ≠ 0 → o = .next (chargeIdle x (eff x (popIssue s)))) := by
  rw [issue_next _ hx] at ho
  refine ⟨fun ha => ⟨_, ho, ?_⟩, fun ha => by rw [ho, if_neg ha]⟩
  rw [if_pos ha]
  exact passes_of_caches hx rfl rfl rfl rfl

/-- CCTL past its empty active set (R292). -/
theorem cctl_form {s : State} {x : Iss} {a b : BitVec 8} (hx : Issues (.cctl a b) s x) :
    (x.active = 0 ∨ bits x.m 1 0 = 0 → Passes (exec (.cctl a b) s) s x x.split.regs) ∧
    (x.active ≠ 0 → bits x.m 1 0 = 0 → ∃ t, exec (.cctl a b) s = .next t ∧ (coreOf t x.team.core).l1.ways = []) := by
  obtain ⟨hpass, hsome⟩ := passes_of_empty hx (exec_cctl a b s)
  have hall (ha : x.active ≠ 0) (hm : bits x.m 1 0 = 0) :
      exec (.cctl a b) s = .next (chargeIdle x (retire x (l1Drop (popIssue s) x.team.core))) := by rw [hsome ha, if_pos hm]
  refine ⟨fun h => ?_, fun ha hm => ⟨_, hall ha hm, ?_⟩⟩
  · by_cases ha : x.active = 0
    · exact hpass ha
    · exact ⟨_, hall ha (h.resolve_left ha), passes_of_caches hx rfl rfl rfl rfl⟩
  · rw [((retire_l1 x (l1Drop (popIssue s) x.team.core)).trans (chargeIdle_l1 x _)) x.team.core]
    exact l1Drop_ways _ _

/-- Operations 1 to 3 of CCTL work on caches alone (R292). -/
theorem cctl_lines {s : State} {x : Iss} {a b : BitVec 8} (hx : Issues (.cctl a b) s x) (hlog : NoLog s x) (ha : x.active ≠ 0) (hm : bits x.m 1 0 ≠ 0)
    (hp : ∀ l ∈ lanesOf x.n x.active, effAddr (BitVec.ofNat 64 (readNat x x.f.a l 2)) (modOff x.m) ≠ none)
    (hok : ∀ q ∈ (checkLanes x (cctlLanes x (lanesOf x.n x.active)).1 (popIssue s)).2, ∃ ts uc, q.2 = .ok ts uc) :
    ∃ t, exec (.cctl a b) s = .next t ∧ Advanced x t ∧ SameRegs s t ∧ t.mem = s.mem ∧ t.tags = s.tags := by
  have ho := (passes_of_empty hx (exec_cctl a b s)).2 ha
  have hlog : NoLog (popIssue s) x := hlog
  obtain ⟨hpages, hbad⟩ := checked_all_ok hok
  have hpre : (cctlLanes x (lanesOf x.n x.active)).2 = [] := by rw [cctlLanes_all x _ hp]
  rw [if_neg hm, settleThen_clean hlog hpages, hbad, hpre, List.append_nil, if_pos rfl] at ho
  have hc := (checkLanes_caches x (cctlLanes x (lanesOf x.n x.active)).1 (popIssue s)).trans
    (foldl_rel OnlyCaches .refl .trans (cctlOne x) (cctlOne_caches x) (okLanes (checkLanes x (cctlLanes x (lanesOf x.n x.active)).1 (popIssue s)).2) _)
  obtain ⟨h1, h2, -, h4, h5⟩ := retired_caches hx hc
  exact ⟨_, ho, h1, h2, h4, h5⟩

/-- The sectors of the lanes take their tags, the highest lane's last (R203, R293). -/
theorem sttag_form {s : State} {x : Iss} {d a : BitVec 8} (hx : Issues (.sttag d a) s x) (ha : x.active ≠ 0) (hlog : NoLog s x)
    (hp : pageLanes (tagChecks x true (lanesOf x.n x.active) (popIssue s)).2 = []) :
    (badLanes (tagChecks x true (lanesOf x.n x.active) (popIssue s)).2 = [] → ∃ t, exec (.sttag d a) s = .next t ∧ Advanced x t ∧ SameRegs s t ∧
      t.mem = s.mem ∧ ∀ k, mapGet 0 t.tags k =
        match ((tagPlaces (tagChecks x true (lanesOf x.n x.active) (popIssue s)).2).filter (fun p => decide (p.2 / 32 = k))).getLast? with
        | some p => (readWord x x.f.d 0 p.1).extractLsb' 0 4
        | none => mapGet 0 s.tags k) ∧
    ∀ q, lowest (badLanes (tagChecks x true (lanesOf x.n x.active) (popIssue s)).2) = some q →
      ∃ t, exec (.sttag d a) s = .next t ∧ LaneFaulted s t x q (badLanes (tagChecks x true (lanesOf x.n x.active) (popIssue s)).2) := by
  have ho := (passes_of_empty hx (exec_sttag d a s)).2 ha
  have hlog : NoLog (popIssue s) x := hlog
  rw [tagForm_clean hlog hp] at ho
  have hc := (tagChecks_spec x true (lanesOf x.n x.active) (popIssue s)).1
  generalize tagChecks x true (lanesOf x.n x.active) (popIssue s) = c at *
  have htags := setTags_tags x (fun l => (readWord x x.f.d 0 l).extractLsb' 0 4)
  obtain ⟨g, k, hset⟩ := setTags_only x (fun l => (readWord x x.f.d 0 l).extractLsb' 0 4) (tagPlaces c.2) c.1
  have hissue : AtIssue x (setTags x (fun l => (readWord x x.f.d 0 l).extractLsb' 0 4) (tagPlaces c.2) c.1) :=
    ((AtIssue.start hx).unmoved hc.unmoved).of_teams (by rw [hset])
  refine ⟨fun hb => ?_, fun q hq => ?_⟩
  · rw [if_pos hb] at ho
    obtain ⟨hr, hm⟩ := retired_charged hissue
    refine ⟨_, ho, hr.next, ?_, ?_, fun j => ?_⟩
    · refine ((Unmoved.popIssue s).trans hc.unmoved).regs.trans (SameRegs.trans ?_ hr.regs)
      exact .of_teams (by rw [hset])
    · exact hm.trans ((by rw [hset] : _ = c.1.mem).trans hc.mem)
    · rw [hr.tags, htags, hc.tags]
      rfl
  · rw [if_neg (fun h => by rw [h] at hq; cases hq)] at ho
    exact ⟨_, ho, reportLanes_faulted hissue hq (chargeIdle_charged x _)⟩

/-- The tag of each lane's sector is in flight to the destination (R293). -/
theorem tagWrites_hold {s : State} {x : Iss} {ok : List (Nat × Nat)} (hd : DstFits x 1) (hne : lanesOf x.n x.active ≠ [])
    (hnodup : (ok.map (·.1)).Nodup) (hmem : ∀ p ∈ ok, p.1 ∈ accLanes x) {e : InFlight}
    (he : ∀ code l, willWrite e code l = writtenBy (tagWrites x x.f.d ok s) code l) {p : Nat × Nat} (hp : p ∈ ok) :
    WillHold e x.f.d p.1 1 (tagOf s p.2).toNat := by
  have hget : tagGet ok s p.1 = (tagOf s p.2).toNat := by
    unfold tagGet
    rw [find_key (fun q : Nat × Nat => q.1) hnodup hp]
  have hacc := hmem p hp
  intro i hi
  rw [he, tagWrites, ← hget]
  rcases hd with ⟨v, hv, hfit, hs⟩ | ⟨v, hv, hs⟩
  · obtain ⟨hlt, hin⟩ := mem_lanesOf.mp (accLanes_sub hne hacc)
    have hdone : p.1 ∈ lanesOf x.n (tagDone x ok) := by
      refine mem_lanesOf.mpr ⟨hlt, ?_⟩
      rw [tagDone, laneIn_maskOf, decide_eq_true (laneIn_lt hin), decide_eq_true hlt, Bool.true_and, Bool.true_and]
      exact List.any_eq_true.mpr ⟨p, hp, decide_eq_true rfl⟩
    rw [if_neg (by rw [hs]; simp), writtenBy_vec hv hfit _ _ hi hdone, Nat.shiftRight_eq_div_pow]
  · rw [if_pos hs, writtenBy_scal hv _ _ p.1 hi, accLanes_scalar hs hacc, Nat.shiftRight_eq_div_pow]

/-- LDTAG with an active lane (R293). -/
theorem ldtag_form {s : State} {x : Iss} {d a : BitVec 8} (hx : Issues (.ldtag d a) s x) (hne : lanesOf x.n x.active ≠ []) (hlog : NoLog s x)
    (hp : pageLanes (tagChecks x false (accLanes x) (popIssue s)).2 = []) :
    (badLanes (tagChecks x false (accLanes x) (popIssue s)).2 = [] → ∃ t, exec (.ldtag d a) s = .next t ∧
      Loaded s t x (bits x.clause.header 15 12) (fun e => ∀ p ∈ tagPlaces (tagChecks x false (accLanes x) (popIssue s)).2,
        WillHold e d p.1 1 (mapGet 0 s.tags (p.2 / 32)).toNat)) ∧
    ∀ q, lowest (badLanes (tagChecks x false (accLanes x) (popIssue s)).2) = some q →
      ∃ t, exec (.ldtag d a) s = .next t ∧ LaneFaulted s t x q (badLanes (tagChecks x false (accLanes x) (popIssue s)).2) := by
  have ho := (passes_of_empty hx (exec_ldtag d a s)).2 (active_of_lanes hne)
  have hlog : NoLog (popIssue s) x := hlog
  rw [tagForm_clean hlog hp] at ho
  obtain ⟨hop, hf⟩ := op_of_fields hx rfl
  have hop : x.op = 0x9D := hop
  have hxd : x.f.d = d := by rw [hf]
  have hfit : DstFits x 1 := by
    have hk : (fieldRegs x).1 = 1 := by rw [fieldRegs, hop]; rfl
    exact hk ▸ hx.dstFits (.inl (by rw [hop]; rfl)) (by rw [hop]; decide) (by rw [hop]; decide) (by rw [hk]; decide)
  obtain ⟨hc, hfst, hplace⟩ := tagChecks_spec x false (accLanes x) (popIssue s)
  generalize tagChecks x false (accLanes x) (popIssue s) = c at *
  have hissue : AtIssue x c.1 := (AtIssue.start hx).unmoved hc.unmoved
  have hlanes : c.2.map (·.1.lane) = accLanes x := by
    have h := congrArg (List.map (fun a : LaneAcc => a.lane)) hfst
    rw [List.map_map, List.map_map] at h
    exact h.trans (List.map_id _)
  have hsub : ((tagPlaces c.2).map (·.1)).Sublist (accLanes x) := hlanes ▸ tagPlaces_lanes c.2
  refine ⟨fun hb => ?_, fun q hq => ?_⟩
  · rw [if_pos hb] at ho
    have hdone : tagDone x (tagPlaces c.2) ≠ 0 := by
      obtain ⟨n, hn⟩ := accLanes_ne hne
      obtain ⟨hlt, hin⟩ := mem_lanesOf.mp (accLanes_sub hne hn)
      obtain ⟨ts, hts⟩ := mem_okLanes_of_clean hp hb (a := tagAcc x false n) (by rw [hfst]; exact List.mem_map_of_mem hn)
      obtain ⟨pa, k, cp, hts'⟩ := hplace _ hts
      have hmem : (n, pa) ∈ tagPlaces c.2 := List.mem_filterMap.mpr ⟨_, hts, by rw [hts']; rfl⟩
      intro h0
      have hl : laneIn (tagDone x (tagPlaces c.2)) n = true := by
        rw [tagDone, laneIn_maskOf, decide_eq_true (laneIn_lt hin), decide_eq_true hlt, Bool.true_and, Bool.true_and]
        exact List.any_eq_true.mpr ⟨_, hmem, decide_eq_true rfl⟩
      rw [h0, laneIn_zero] at hl
      cases hl
    rw [tagFlown, if_neg hdone] at ho
    refine ⟨_, ho, (addFlight_flying hissue _).loaded hx hc (.refl _) ((chargeIdle_charged x _).traced _) fun e he p hpm => ?_⟩
    rw [← hxd] at he ⊢
    have h := tagWrites_hold hfit hne (hsub.nodup (accLanes_nodup x)) (fun p hp => hsub.subset (List.mem_map_of_mem hp)) he hpm
    rwa [tagOf, hc.tags] at h
  · rw [if_neg (fun h => by rw [h] at hq; cases hq)] at ho
    refine ⟨_, ho, reportLanes_faulted ?_ hq (chargeIdle_charged x _)⟩
    unfold tagFlown
    split
    · exact hissue
    · exact (addFlight_flying hissue _).issue

/-! ### The statement -/

/-- Settles O25: prefetches and cache control as steps of caches alone, STTAG by the fold of its lanes, LDTAG by its values in flight. -/
theorem cacheAndTagForms : Obligations.CacheAndTagForms := by
  intro s x d a b w r at_
  refine ⟨fun hx => ?_, fun hx => ⟨(cctl_form hx).1, (cctl_form hx).2, fun l hlog ha hm hl hall hok => ?_⟩, fun hx => ⟨?_, ?_, ?_⟩, fun hx => ⟨?_, ?_, ?_⟩⟩
  · have hc := foldl_rel OnlyCaches .refl .trans (prefOne x) (prefOne_caches x) (lanesOf x.n x.active) (popIssue s)
    exact ⟨_, (exec_pref a b s).trans (issue_next _ hx), retired_caches hx hc⟩
  · subst hl
    have hp : ∀ l ∈ lanesOf x.n x.active, effAddr (BitVec.ofNat 64 (readNat x x.f.a l 2)) (modOff x.m) ≠ none :=
      fun n hn => hall _ (List.mem_map_of_mem hn)
    refine cctl_lines hx hlog ha hm hp ?_
    rw [cctlLanes_all x _ hp]
    exact hok
  · exact (passes_of_empty hx (exec_sttag d a s)).1
  · exact fun ha hlog hp => (sttag_form hx ha hlog hp).1
  · exact fun q ha hlog hp => (sttag_form hx ha hlog hp).2 q
  · exact (passes_of_empty hx (exec_ldtag d a s)).1
  · exact fun hne hlog hp => (ldtag_form hx hne hlog hp).1
  · exact fun q hne hlog hp => (ldtag_form hx hne hlog hp).2 q

end Sys2Proof.Machine
end

section
/-! COMMAND QUEUES (O46, R36, R270, R428 to R432): what STATUS of a command leaves, the decode of a command, and the effect of each operation. -/
namespace Sys2Proof.Machine
open Sys2Proof.Forms

/-! ### STATUS (R429, R432) -/

theorem queueOf_updQueue (s : State) (c n : Nat) (f : Queue → Queue) : queueOf (ctxOf (updQueue s c n f) c) n = f (queueOf (ctxOf s c) n) := by
  unfold updQueue
  rw [ctxOf_updCtx, if_pos rfl, queueOf, mapGet_set, if_pos rfl]

theorem cmdPa_of_cq {s t : State} {c : CmdRef} (h : (queueOf (ctxOf t c.ctx) c.queue).cq = (queueOf (ctxOf s c.ctx) c.queue).cq) :
    cmdPa t c = cmdPa s c := by
  unfold cmdPa
  simp only [h]

/-- The queue of a command without it. -/
def Queue.without (q : Queue) (k : BitVec 32) : Queue := { q with order := q.order.filter (fun d => decide (d.k ≠ k)) }

theorem ctxInterrupt_only (s : State) (c hi lo : Nat) : ∃ o, ctxInterrupt s c hi lo = { s with hostOut := o } := by
  unfold ctxInterrupt
  simp only
  split
  · exact ⟨_, interrupt_eq s _ _⟩
  · exact ⟨s.hostOut, rfl⟩

/-- What STATUS changes where its sector can be written: its four bytes, and the order of the queue. -/
theorem cmdStatus_eq {u : State} {c : CmdRef} (v : Nat) (hcov : coversPoison u (cmdPa u c + 0x38) 4 = true) : ∃ w a l o, cmdStatus u c v =
    { u with mem := mapPut memDefault u.mem (cmdPa u c + 0x38) 4 (byteOf v), poison := clearPoison u (cmdPa u c + 0x38) 4,
             watches := w, agenda := a, slices := l, hostOut := o, ctxs := (updQueue u c.ctx c.queue (fun q => q.without c.k)).ctxs } := by
  obtain ⟨w, a, l, hw⟩ := writeMem_only u (cmdPa u c + 0x38) 4 (byteOf v)
  unfold cmdStatus
  simp only [hcov, if_true]
  rw [writeNat, hw]
  split
  · obtain ⟨o, ho⟩ := ctxInterrupt_only (updQueue { u with
      mem := mapPut memDefault u.mem (cmdPa u c + 0x38) 4 (byteOf v), poison := clearPoison u (cmdPa u c + 0x38) 4,
      watches := w, agenda := a, slices := l } c.ctx c.queue (fun q => q.without c.k)) c.ctx 32 22
    exact ⟨w, a, l, o, ho⟩
  · exact ⟨w, a, l, u.hostOut, rfl⟩

/-- The order of a queue without a command does not name it. -/
theorem cmdOf_without {t : State} {c : CmdRef} {q : Queue} (h : queueOf (ctxOf t c.ctx) c.queue = q.without c.k) : cmdOf t c = none := by
  rw [cmdOf, h, List.find?_eq_none]
  intro d hd
  have := (List.mem_filter.mp hd).2
  simp only [decide_eq_true_eq] at this
  simpa using this

theorem cmdStatus_queue {u : State} {c : CmdRef} (v : Nat) (hcov : coversPoison u (cmdPa u c + 0x38) 4 = true) :
    queueOf (ctxOf (cmdStatus u c v) c.ctx) c.queue = (queueOf (ctxOf u c.ctx) c.queue).without c.k := by
  obtain ⟨w, a, l, o, h⟩ := cmdStatus_eq v hcov
  rw [ctxOf, h]
  exact queueOf_updQueue u c.ctx c.queue (fun q => q.without c.k)

theorem cmdStatus_done {u : State} {c : CmdRef} {v : Nat} (hv : v < 2 ^ 32) (hcov : coversPoison u (cmdPa u c + 0x38) 4 = true) :
    CommandDone u (cmdStatus u c v) c v := by
  obtain ⟨w, a, l, o, h⟩ := cmdStatus_eq v hcov
  have hbyte : ∀ b, readByte (cmdStatus u c v) b = readByte (writeNat u (cmdPa u c + 0x38) 4 v) b := fun b => by
    rw [writeNat, readByte, readByte, writeMem_mem, h]
  refine ⟨.of_teams (fun b hb => ?_) (by rw [h]), ?_, cmdOf_without (cmdStatus_queue v hcov), by rw [h]⟩
  · rw [hbyte]
    exact readByte_writeMem_other u _ _ _ b hb
  · rw [readMem, funext hbyte]
    exact (readMem_writeNat u _ 4 v).trans (Nat.mod_eq_of_lt hv)

/-- A state in which a command's STATUS goes where it would in `s`. -/
structure SamePlace (s u : State) (c : CmdRef) : Prop extends Quiet s u where
  place : cmdPa u c = cmdPa s c
  cover : ∀ pa n, coversPoison u pa n = coversPoison s pa n

theorem CommandDone.of_place {s u t : State} {c : CmdRef} {v : Nat} (h : SamePlace s u c) (g : CommandDone u t c v) : CommandDone s t c v :=
  ⟨h.place ▸ .of_quiet h.toQuiet g.toMemStep, h.place ▸ g.status, g.gone, g.tags.trans h.tags⟩

theorem SamePlace.done {s u : State} {c : CmdRef} {v : Nat} (h : SamePlace s u c) (hv : v < 2 ^ 32)
    (hcov : coversPoison s (cmdPa s c + 0x38) 4 = true) : CommandDone s (cmdStatus u c v) c v :=
  .of_place h (cmdStatus_done hv (by rw [h.cover, h.place, hcov]))

theorem samePlace_taken (s : State) (c : CmdRef) : SamePlace s { s with event := none } c := ⟨quiet_taken s, rfl, fun _ _ => rfl⟩

/-- A change of the queue that leaves its ring register. -/
theorem samePlace_updQueue (s : State) (c : CmdRef) (f : Queue → Queue) (hf : ∀ q, (f q).cq = q.cq) :
    SamePlace s (updQueue s c.ctx c.queue f) c :=
  ⟨.of_eq rfl rfl rfl rfl, cmdPa_of_cq (by rw [queueOf_updQueue, hf]), fun _ _ => rfl⟩

theorem SamePlace.trans {s t u : State} {c : CmdRef} (h : SamePlace s t c) (g : SamePlace t u c) : SamePlace s u c :=
  ⟨h.toQuiet.trans g.toQuiet, g.place.trans h.place, fun pa n => (g.cover pa n).trans (h.cover pa n)⟩

/-! ### The decode of a command (R428, R429) -/

theorem execCommandDecode_eq {s : State} (h : s.event = some .commandDecode) :
    exec .commandDecode s = .next (commandDecode { s with event := none }) := by
  change execCommandDecode s = _
  rw [execCommandDecode, h]

theorem cmdEvent_some {r : CmdRef} {d : Cmd} {ev : Event}
    (h : [Event.cmdNop r, .cmdLaunch r, .cmdSignal r, .cmdWaitev r, .cmdInval r, .cmdScrub r][cmdOp d]? = some ev)
    (hd : cmdOp d = 1 ∨ cmdReserved d = false) : cmdEvent r d = some ev := by
  obtain ⟨hlt, rfl⟩ := List.getElem?_eq_some_iff.mp h
  have hres (e : Event) (hne : cmdOp d ≠ 1) : (if cmdReserved d = true then none else some e) = some e := by
    rw [hd.resolve_left hne]
    rfl
  unfold cmdEvent
  generalize cmdOp d = o at hlt hres ⊢
  match o, hlt with
  | 0, _ => exact hres _ (by decide)
  | 1, _ => rfl
  | 2, _ => exact hres _ (by decide)
  | 3, _ => exact hres _ (by decide)
  | 4, _ => exact hres _ (by decide)
  | 5, _ => exact hres _ (by decide)

theorem cmdEvent_none {r : CmdRef} {d : Cmd} (hop : cmdOp d ≠ 1) (hd : cmdReserved d = true) : cmdEvent r d = none := by
  unfold cmdEvent
  simp only [hd, if_true]
  split
  · rfl
  · exact absurd ‹_› hop
  all_goals rfl

/-- The queue of the next command, with the command read. -/
def Queue.decoded (q : Queue) (d : Cmd) : Queue :=
  { q with head := q.head + 1, order := q.order ++ [d], launch := if cmdOp d = 1 then some q.head else q.launch }

/-- The command at the head of a queue. -/
def headCmd (s : State) (q : Queue) : Cmd := { k := q.head, body := BitVec.ofNat 512 (readMem s (headPa q) 64), at_ := s.cycle, pred := q.launch }

/-- The state once a command at the head of a queue is decoded. -/
def decodedAt (s : State) (e n : Nat) (d : Cmd) : State :=
  updQueue { s with decodePtr := (64 * e + n + 1) % 2 ^ 18 } e n (fun q => q.decoded d)

theorem headCmd_congr {s t : State} (hm : t.mem = s.mem) (hc : t.cycle = s.cycle) (q : Queue) : headCmd t q = headCmd s q := by
  unfold headCmd readMem
  rw [hc, show readByte t = readByte s from funext fun a => by rw [readByte, readByte, hm]]

section Decode
variable {s : State} {e n : Nat} {rest : List (Nat × Nat)} {d : Cmd}

theorem commandDecode_step (h : decodeList s = (e, n) :: rest) (hd : headCmd s (queueOf (ctxOf s e) n) = d) {ev : Event}
    (hev : cmdEvent ⟨e, n, (queueOf (ctxOf s e) n).head⟩ d = some ev) : commandDecode s = addAgenda (decodedAt s e n d) [ev] := by
  unfold headCmd at hd
  unfold commandDecode
  rw [h]
  simp only [hd, hev]
  rfl

theorem commandDecode_refused (h : decodeList s = (e, n) :: rest) (hd : headCmd s (queueOf (ctxOf s e) n) = d)
    (hev : cmdEvent ⟨e, n, (queueOf (ctxOf s e) n).head⟩ d = none) :
    commandDecode s = cmdStatus (decodedAt s e n d) ⟨e, n, (queueOf (ctxOf s e) n).head⟩ 0x1C := by
  unfold headCmd at hd
  unfold commandDecode
  rw [h]
  simp only [hd, hev]
  rfl

theorem decodedAt_written (s : State) (e n : Nat) (d : Cmd) :
    QueueWritten s (decodedAt { s with event := none } e n d) e n ((queueOf (ctxOf s e) n).decoded d) := by
  unfold decodedAt
  generalize (64 * e + n + 1) % 2 ^ 18 = p
  exact updQueue_written (s := s) (u := { s with event := none, decodePtr := p }) (.of_eq rfl rfl rfl rfl) rfl e n (fun q => q.decoded d)

theorem samePlace_decodedAt (s : State) (c : CmdRef) (d : Cmd) : SamePlace s (decodedAt { s with event := none } c.ctx c.queue d) c := by
  unfold decodedAt
  generalize (64 * c.ctx + c.queue + 1) % 2 ^ 18 = p
  have hptr : SamePlace s { s with event := none, decodePtr := p } c := ⟨.of_eq rfl rfl rfl rfl, rfl, fun _ _ => rfl⟩
  exact hptr.trans (samePlace_updQueue { s with event := none, decodePtr := p } c _ (fun _ => rfl))

end Decode

/-! ### The operations but LAUNCH (R36, R45, R431) -/

section Operations
variable {s : State} {c : CmdRef} {d : Cmd}

theorem execCmdNop_eq (h : s.event = some (.cmdNop c)) : exec .cmdNop s = .next (withCmd c (fun _ s => cmdStatus s c 1) { s with event := none }) := by
  change execCmdNop s = _
  rw [execCmdNop, h]

theorem execCmdSignal_eq (h : s.event = some (.cmdSignal c)) : exec .cmdSignal s = .next (withCmd c (cmdSignal c) { s with event := none }) := by
  change execCmdSignal s = _
  rw [execCmdSignal, h]

theorem execCmdWaitev_eq (h : s.event = some (.cmdWaitev c)) : exec .cmdWaitev s = .next (withCmd c (cmdWaitev c) { s with event := none }) := by
  change execCmdWaitev s = _
  rw [execCmdWaitev, h]

theorem execCmdScrub_eq (h : s.event = some (.cmdScrub c)) : exec .cmdScrub s = .next (withCmd c (cmdScrub c) { s with event := none }) := by
  change execCmdScrub s = _
  rw [execCmdScrub, h]

theorem execCmdInval_eq (h : s.event = some (.cmdInval c)) : exec .cmdInval s = .next (withCmd c (cmdInval c) { s with event := none }) := by
  change execCmdInval s = _
  rw [execCmdInval, h]

theorem execInvalComplete_eq (h : s.event = some (.invalComplete c)) :
    exec .invalComplete s = .next (withCmd c (invalComplete c) { s with event := none }) := by
  change execInvalComplete s = _
  rw [execInvalComplete, h]

theorem execCmdLaunch_eq (h : s.event = some (.cmdLaunch c)) : exec .cmdLaunch s = .next (withCmd c (cmdLaunch c) { s with event := none }) := by
  change execCmdLaunch s = _
  rw [execCmdLaunch, h]

/-- A command that is complete is passed over. -/
theorem withCmd_gone (f : Cmd → State → State) (h : cmdOf s c = none) : withCmd c f { s with event := none } = { s with event := none } := by
  unfold withCmd
  rw [show cmdOf { s with event := none } c = none from h]

theorem withCmd_held (f : Cmd → State → State) (h : cmdOf s c = some d) : withCmd c f { s with event := none } = f d { s with event := none } := by
  unfold withCmd
  rw [show cmdOf { s with event := none } c = some d from h]

/-- The state once an event of a context is eventCounted (R431). -/
def eventCounted (s : State) (c e : Nat) : State := updCtx s c (fun x => { x with events := mapSet 0 x.events e (mapGet 0 x.events e + 1) })

theorem ctxOf_eventCounted (s : State) (c e : Nat) :
    ctxOf (eventCounted s c e) c = { ctxOf s c with events := mapSet 0 (ctxOf s c).events e (mapGet 0 (ctxOf s c).events e + 1) } :=
  (ctxOf_updCtx s c _ c).trans (if_pos rfl)

theorem samePlace_eventCounted (s : State) (c : CmdRef) (e : Nat) : SamePlace s (eventCounted s c.ctx e) c :=
  ⟨.of_eq rfl rfl rfl rfl, cmdPa_of_cq (by rw [ctxOf_eventCounted]; rfl), fun _ _ => rfl⟩

/-- STATUS leaves the event counts of the context. -/
theorem cmdStatus_events {u : State} (v : Nat) (hcov : coversPoison u (cmdPa u c + 0x38) 4 = true) :
    (ctxOf (cmdStatus u c v) c.ctx).events = (ctxOf u c.ctx).events := by
  obtain ⟨w, a, l, o, h⟩ := cmdStatus_eq v hcov
  have hx : ctxOf (cmdStatus u c v) c.ctx = ctxOf (updQueue u c.ctx c.queue (fun q => q.without c.k)) c.ctx := by rw [ctxOf, h, ctxOf]
  rw [hx, updQueue, ctxOf_updCtx, if_pos rfl]

theorem cmdSignal_waits (he : cmdField d 32 32 ≤ 1023) (hf : cmdFirst s c = false) : cmdSignal c d s = s := by
  unfold cmdSignal
  simp only [hf]
  exact if_neg (by omega)

theorem cmdSignal_counts (he : cmdField d 32 32 ≤ 1023) (hf : cmdFirst s c = true) :
    cmdSignal c d s = cmdStatus (eventCounted s c.ctx (cmdField d 32 32)) c 1 := by
  unfold cmdSignal
  simp only
  rw [if_neg (by omega), if_pos hf]
  rfl

theorem cmdWaitev_reached (he : cmdField d 32 32 ≤ 1023) (h : cmdField d 64 64 ≤ (mapGet 0 (ctxOf s c.ctx).events (cmdField d 32 32)).toNat) :
    cmdWaitev c d s = cmdStatus s c 1 := by
  unfold cmdWaitev
  simp only
  rw [if_neg (by omega), if_pos h]

theorem cmdWaitev_waits (he : cmdField d 32 32 ≤ 1023) (h : (mapGet 0 (ctxOf s c.ctx).events (cmdField d 32 32)).toNat < cmdField d 64 64) :
    cmdWaitev c d s = s := by
  unfold cmdWaitev
  simp only
  rw [if_neg (by omega), if_neg (by omega)]

/-- What holds of the default and of every entry under a key holds of what a read gives. -/
theorem mapGet_all {α : Type} {P : α → Prop} {dflt : α} (hd : P dflt) (k : Nat) : ∀ m : SMap α, (∀ p ∈ m, p.1 = k → P p.2) → P (mapGet dflt m k)
  | [], _ => hd
  | (j, v) :: rest, h => by
    rw [mapGet]
    split
    · exact h (j, v) List.mem_cons_self ‹_›
    · exact mapGet_all hd k rest (fun p hp => h p (List.mem_cons_of_mem _ hp))

/-- The cores of some quarters hold no line after their L1s are dropped. -/
theorem l1DropIn_ways (s : State) (part : Nat × Nat) (n : Nat) (hn : part.1 ≤ n / 64 ∧ n / 64 < part.1 + part.2) :
    (coreOf (l1DropIn s part) n).l1.ways = [] := by
  refine mapGet_all (P := fun k : Core => k.l1.ways = []) rfl n _ (fun p hp hkey => ?_)
  obtain ⟨q, -, rfl⟩ := List.mem_map.mp (List.mem_filter.mp hp).1
  by_cases hin : part.1 ≤ q.1 / 64 ∧ q.1 / 64 < part.1 + part.2
  · rw [if_pos hin]
    exact List.filter_eq_nil_iff.mpr (fun w _ => by simp)
  · rw [if_neg hin] at hkey
    exact absurd (hkey ▸ hn) hin

/-- The entries that an INVAL picks. -/
def invalHit (s : State) (c : CmdRef) (d : Cmd) (e : TlbEntry) : Bool :=
  decide (e.asid = (ctxOf s c.ctx).ctxtr.extractLsb' 48 13) &&
    (decide (cmdField d 128 64 = 0) ||
      (decide (e.base < cmdField d 64 64 + cmdField d 128 64) && decide (cmdField d 64 64 < e.base + 2 ^ e.bits)))

/-- The state once an INVAL has emptied the caches. -/
def invalDropped (s : State) (c : CmdRef) (d : Cmd) : State :=
  let part := partOfCtx s c.ctx
  let s1 := tlbDrop s part (invalHit s c d)
  if cmdField d 192 1 = 1 then l1DropIn (sliceDrop s1 (fun q _ => decide (part.1 ≤ q) && decide (q < part.1 + part.2))) part else s1

theorem cmdInval_eq (s : State) : cmdInval c d s =
    addAgenda (invalDropped s c d) ((asidPieces s ((ctxOf s c.ctx).ctxtr.extractLsb' 48 13)).map Event.xePiecePlace ++ [.invalComplete c]) := rfl

theorem invalDropped_only (s : State) : ∃ b e, invalDropped s c d =
    { s with tlb := (tlbDrop s (partOfCtx s c.ctx) (invalHit s c d)).tlb, slices := b, cores := e } := by
  unfold invalDropped
  simp only
  split <;> exact ⟨_, _, rfl⟩

theorem cmdInval_caches (s : State) (name : Nat) (e : TlbEntry) : Cached (cmdInval c d s) name e ↔ (Cached s name e ∧
    ¬ (((partOfCtx s c.ctx).1 ≤ tlbQuarter name ∧ tlbQuarter name < (partOfCtx s c.ctx).1 + (partOfCtx s c.ctx).2) ∧
      e.asid = (ctxOf s c.ctx).ctxtr.extractLsb' 48 13 ∧ (cmdField d 128 64 = 0 ∨
        (e.base < cmdField d 64 64 + cmdField d 128 64 ∧ cmdField d 64 64 < e.base + 2 ^ e.bits)))) := by
  obtain ⟨b, k, h⟩ := invalDropped_only (c := c) (d := d) s
  have htlb : (cmdInval c d s).tlb = (tlbDrop s (partOfCtx s c.ctx) (invalHit s c d)).tlb := by
    rw [cmdInval_eq, addAgenda, h]
  rw [cached_congr htlb, cached_tlbDrop]
  simp only [invalHit, Bool.and_eq_true, Bool.or_eq_true, decide_eq_true_eq]

theorem cmdInval_quiet (s : State) : Quiet s (cmdInval c d s) := by
  obtain ⟨b, k, h⟩ := invalDropped_only (c := c) (d := d) s
  rw [cmdInval_eq, addAgenda, h]
  exact .of_eq rfl rfl rfl rfl

theorem cmdInval_ways (s : State) (hwb : cmdField d 192 1 = 1) (n : Nat)
    (hn : (partOfCtx s c.ctx).1 ≤ n / 64 ∧ n / 64 < (partOfCtx s c.ctx).1 + (partOfCtx s c.ctx).2) : (coreOf (cmdInval c d s) n).l1.ways = [] := by
  have h : (cmdInval c d s).cores = (invalDropped s c d).cores := rfl
  unfold invalDropped at h
  simp only [hwb, if_true] at h
  rw [coreOf, h]
  exact l1DropIn_ways _ _ n hn

/-! #### INVAL_COMPLETE -/

/-- The stale marks that an INVAL leaves (R36). -/
def staleLeft (s : State) (c : CmdRef) (d : Cmd) : List (BitVec 13) :=
  if cmdField d 128 64 = 0 then s.stale.filter (· ≠ (ctxOf s c.ctx).ctxtr.extractLsb' 48 13) else s.stale

/-- Is a request of the address space still unanswered that was sent before the INVAL, or sent again? -/
def invalWaits (s : State) (c : CmdRef) (d : Cmd) : Prop :=
  ∃ q ∈ s.outReqs, (hdrOf q.packet).asid = ((ctxOf s c.ctx).ctxtr.extractLsb' 48 13).toNat ∧ (q.sent.toNat ≤ d.at_.toNat ∨ q.tries ≠ 0)

theorem invalComplete_waits (h : invalWaits s c d) : invalComplete c d s = s := by
  obtain ⟨q, hq, hasid, hold⟩ := h
  unfold invalComplete
  simp only
  refine if_pos (List.any_eq_true.mpr ⟨q, hq, ?_⟩)
  simpa only [Bool.and_eq_true, Bool.or_eq_true, decide_eq_true_eq] using And.intro hasid hold

theorem invalComplete_ends (h : ¬ invalWaits s c d) : invalComplete c d s = cmdStatus { s with stale := staleLeft s c d } c 1 := by
  unfold invalComplete
  simp only
  refine if_neg (fun hany => h ?_)
  obtain ⟨q, hq, hold⟩ := List.any_eq_true.mp hany
  exact ⟨q, hq, by simpa only [Bool.and_eq_true, Bool.or_eq_true, decide_eq_true_eq] using hold⟩

theorem mem_staleLeft {a : BitVec 13} (h : a ≠ (ctxOf s c.ctx).ctxtr.extractLsb' 48 13) : a ∈ staleLeft s c d ↔ a ∈ s.stale := by
  unfold staleLeft
  split
  · rw [List.mem_filter]
    simp [h]
  · rfl

theorem not_mem_staleLeft (h : cmdField d 128 64 = 0) : (ctxOf s c.ctx).ctxtr.extractLsb' 48 13 ∉ staleLeft s c d := by
  unfold staleLeft
  rw [if_pos h, List.mem_filter]
  simp

theorem cmdStatus_stale {u : State} (v : Nat) (hcov : coversPoison u (cmdPa u c + 0x38) 4 = true) : (cmdStatus u c v).stale = u.stale := by
  obtain ⟨w, a, l, o, h⟩ := cmdStatus_eq v hcov
  rw [h]

/-! #### SCRUB -/

/-- The bounds of a SCRUB (R431). -/
def goodScrub (s : State) (c : CmdRef) (d : Cmd) : Prop :=
  cmdField d 64 64 / 2 ^ 48 = devNum s ∧ cmdField d 64 64 % 4096 = 0 ∧ cmdField d 128 64 % 4096 = 0 ∧ cmdField d 128 64 ≠ 0 ∧
    inWindows (partOfCtx s c.ctx) (cmdField d 64 64 % 2 ^ 48) = true ∧
    inWindows (partOfCtx s c.ctx) (cmdField d 64 64 % 2 ^ 48 + cmdField d 128 64 - 1) = true

/-- The state once the range of a SCRUB is zero and in no L1. -/
def scrubbed (s : State) (c : CmdRef) (d : Cmd) : State :=
  l1KillIn (scrubRange s (cmdField d 64 64 % 2 ^ 48) (cmdField d 128 64)) (partOfCtx s c.ctx) (cmdField d 64 64 % 2 ^ 48) (cmdField d 128 64)

theorem scrubRange_poison (u : State) (pa n : Nat) : ∀ p ∈ (scrubRange u pa n).poison, p ∈ u.poison := by
  intro p hp
  unfold scrubRange at hp
  obtain ⟨-, -, hpoison⟩ := wakeLines_stores _ _
  rw [hpoison] at hp
  exact (List.mem_append.mp hp).elim List.mem_of_mem_filter List.mem_of_mem_filter

/-- What a SCRUB leaves before its STATUS: zero in its range and the rest as it was. -/
structure Scrubbed (s u : State) (c : CmdRef) (lo n : Nat) : Prop where
  teams  : u.teams = s.teams
  place  : cmdPa u c = cmdPa s c
  bytes  : ∀ a, readByte u a = if lo ≤ a ∧ a < lo + n then 0 else readByte s a
  sector : ∀ a, tagOf u a = if lo / 32 ≤ a / 32 ∧ a / 32 < (lo + n) / 32 then 0 else tagOf s a
  cover  : ∀ pa m, coversPoison s pa m = true → coversPoison u pa m = true

theorem scrubbed_spec (s : State) (c : CmdRef) (d : Cmd) :
    Scrubbed s (scrubbed s c d) c (cmdField d 64 64 % 2 ^ 48) (cmdField d 128 64) := by
  unfold scrubbed
  generalize cmdField d 64 64 % 2 ^ 48 = lo
  generalize cmdField d 128 64 = n
  obtain ⟨k, hk⟩ := l1KillIn_only (scrubRange s lo n) (partOfCtx s c.ctx) lo n
  have hsub := scrubRange_poison s lo n
  obtain ⟨m, t, p, w, a, h, hm, ht⟩ := scrubRange_spec s lo n
  rw [hk]
  rw [h] at hsub ⊢
  refine ⟨rfl, rfl, hm, fun a => ht (a / 32), fun pa m hcov => ?_⟩
  unfold coversPoison at hcov ⊢
  rw [Bool.and_eq_true] at hcov ⊢
  exact ⟨hcov.1, List.all_eq_true.mpr (fun q hq => List.all_eq_true.mp hcov.2 q (hsub q hq))⟩

theorem cmdScrub_waits (h : cmdFirst s c = false) : cmdScrub c d s = s := by
  unfold cmdScrub
  simp only [h]
  rfl

theorem cmdScrub_ends (h : cmdFirst s c = true) (hg : goodScrub s c d) : cmdScrub c d s = cmdStatus (scrubbed s c d) c 1 := by
  unfold cmdScrub
  simp only [h]
  exact if_pos hg

theorem cmdScrub_refused (h : cmdFirst s c = true) (hg : ¬ goodScrub s c d) : cmdScrub c d s = cmdStatus s c 0x1C := by
  unfold cmdScrub
  simp only [h]
  exact if_neg hg

/-- A SCRUB whose STATUS lies beside its range: the range is zero, STATUS is 1, and nothing else of memory has changed. -/
theorem Scrubbed.done {u : State} {lo n : Nat} (h : Scrubbed s u c lo n) (hlo : lo % 4096 = 0) (hn : n % 4096 = 0)
    (hcov : coversPoison s (cmdPa s c + 0x38) 4 = true) (hapart : cmdPa s c + 0x38 + 4 ≤ lo ∨ lo + n ≤ cmdPa s c + 0x38) :
    let st := cmdPa s c + 0x38
    let t := cmdStatus u c 1
    SameRegs s t ∧ cmdOf t c = none ∧ readMem t st 4 = 1 ∧ (∀ a, lo ≤ a → a < lo + n → readByte t a = 0 ∧ tagOf t a = 0) ∧
      ∀ a, (a < lo ∨ lo + n ≤ a) → tagOf t a = tagOf s a ∧ ((a < st ∨ st + 4 ≤ a) → readByte t a = readByte s a) := by
  intro st t
  obtain ⟨hteams, hplace, hbytes, hsector, hcover⟩ := h
  obtain ⟨⟨hmem, hregs, -⟩, hstatus, hgone, htags⟩ :=
    cmdStatus_done (u := u) (c := c) (v := 1) (by decide) (hcover _ _ (by rw [hplace]; exact hcov))
  rw [hplace] at hmem hstatus
  have htag : ∀ a, tagOf t a = tagOf u a := fun a => by rw [tagOf, tagOf, htags]
  refine ⟨(SameRegs.of_teams hteams).trans hregs, hgone, hstatus, fun a h1 h2 => ⟨?_, ?_⟩, fun a ha => ⟨?_, fun hst => ?_⟩⟩
  · rw [hmem a (by omega), hbytes, if_pos ⟨h1, h2⟩]
  · rw [htag, hsector, if_pos (by omega)]
  · rw [htag, hsector, if_neg (by omega)]
  · rw [hmem a hst, hbytes, if_neg (by omega)]

end Operations

end Sys2Proof.Machine
end

section
/-! LAUNCH (O46, R36, R268 to R272, R430, R432): the read of the header, the checks in their order, and acceptance. -/
namespace Sys2Proof.Machine
open Sys2Proof.Forms

/-! ### Translation looks at no queue and no slice -/

theorem walkFrom_view (s : State) (b : SMap (Cache L2Line)) (cs : SMap Ctx) (part : Nat × Nat) (die : Nat) (asid : BitVec 13) (va : Nat) :
    ∀ (levels : List (Nat × Nat)) (node : Nat) (used : List TlbEntry),
      walkFrom { s with slices := b, ctxs := cs } part die asid va node levels used = walkFrom s part die asid va node levels used
  | [], _, _ => rfl
  | (sh, w) :: rest, node, used => by
    unfold walkFrom
    simp only [walkFrom_view s b cs part die asid va rest]
    rfl

theorem translate_view (s : State) (b : SMap (Cache L2Line)) (cs : SMap Ctx) (via : Via) (c va : Nat)
    (h : (mapGet Ctx.reset cs c).ctxtr = (ctxOf s c).ctxtr) :
    (translate { s with slices := b, ctxs := cs } via c va).2 = (translate s via c va).2 := by
  have hx : (ctxOf { s with slices := b, ctxs := cs } c).ctxtr = (ctxOf s c).ctxtr := h
  have hw (die : Nat) : walk { s with slices := b, ctxs := cs } die c va = walk s die c va := by
    unfold walk
    simp only [hx, walkFrom_view]
    rfl
  have ht (asid : BitVec 13) : tlbFind { s with slices := b, ctxs := cs } via asid va = tlbFind s via asid va := rfl
  have hl (e : BitVec 64) (sh : Nat) : leafTrans { s with slices := b, ctxs := cs } c va e sh = leafTrans s c va e sh := rfl
  unfold translate
  simp only [hx, hw, ht, hl]
  cases tlbFind s via ((ctxOf s c).ctxtr.extractLsb' 48 13) va with
  | some e => rfl
  | none =>
    simp only
    split
    · rfl
    · rfl
    · split <;> rfl

/-! ### The state once reads of a launch are made -/

/-- What reads of a launch leave: translation caches, lines of slices, and in the queue what they have given. -/
structure ReadOn (s u : State) (c : CmdRef) : Prop where
  only  : ∃ a b cs, u = { s with tlb := a, slices := b, ctxs := cs }
  ctx   : { ctxOf u c.ctx with queues := [] } = { ctxOf s c.ctx with queues := [] }
  queue : { queueOf (ctxOf u c.ctx) c.queue with taken := [] } = { queueOf (ctxOf s c.ctx) c.queue with taken := [] }

section Reads
variable {s u : State} {c : CmdRef} {d : Cmd}

theorem ReadOn.quiet (h : ReadOn s u c) : Quiet s u := by
  obtain ⟨_, _, _, rfl⟩ := h.only
  exact .of_eq rfl rfl rfl rfl

theorem ReadOn.samePlace (h : ReadOn s u c) : SamePlace s u c := by
  refine ⟨h.quiet, cmdPa_of_cq ?_, ?_⟩
  · have e := congrArg Queue.cq h.queue
    exact e
  · obtain ⟨_, _, _, rfl⟩ := h.only
    exact fun _ _ => rfl

theorem ReadOn.cmdOf (h : ReadOn s u c) : cmdOf u c = cmdOf s c := by
  have e := congrArg Queue.order h.queue
  unfold Machine.cmdOf
  exact congrArg (List.find? _) e

theorem ReadOn.poisonAt (h : ReadOn s u c) {pa n : Nat} : poisonAt u pa n = poisonAt s pa n := by
  obtain ⟨_, _, _, rfl⟩ := h.only
  rfl

theorem ReadOn.readMem (h : ReadOn s u c) {pa n : Nat} : readMem u pa n = readMem s pa n := by
  obtain ⟨_, _, _, rfl⟩ := h.only
  rfl

theorem ReadOn.dispOf (h : ReadOn s u c) (i : BitVec 64) : dispOf u i = dispOf s i := by
  obtain ⟨_, _, _, rfl⟩ := h.only
  rfl

theorem ReadOn.handles (h : ReadOn s u c) : (ctxOf u c.ctx).handles = (ctxOf s c.ctx).handles := by
  have e := congrArg Ctx.handles h.ctx
  exact e

theorem ReadOn.handleUse (h : ReadOn s u c) (n : Nat) : handleUse (ctxOf u c.ctx) n = handleUse (ctxOf s c.ctx) n := by
  rw [Machine.handleUse, h.handles, ← Machine.handleUse]

theorem ReadOn.launchFault (h : ReadOn s u c) (k : Kernel) : launchFault u c d k = launchFault s c d k := by
  obtain ⟨_, _, _, rfl⟩ := h.only
  rfl

theorem ReadOn.readersFull (h : ReadOn s u c) : readersFull u c d = readersFull s c d := by
  unfold Machine.readersFull
  simp only [h.handleUse]

end Reads

/-! ### Reads of a launch (R269 to R271) -/

theorem refuse_done {s u : State} {c : CmdRef} {v : Nat} (h : SamePlace s u c) (hv : v < 2 ^ 32)
    (hcov : coversPoison s (cmdPa s c + 0x38) 4 = true) : CommandDone s (refuse c v u) c v :=
  (h.trans (samePlace_updQueue u c (fun q => { q with page := none, failed := [], taken := [] }) (fun _ => rfl))).done hv hcov

section LuThen
variable {s s1 : State} {c : CmdRef} {i n align code : Nat} {ga : BitVec 64} {eff : Nat → State → State}

/-- A page that was answered failed, or an address in an aperture, refuses a read (R270). -/
def readStops (s : State) (c : CmdRef) (ga : BitVec 64) (n : Nat) : Prop :=
  inAperture (bits (ctxOf s c.ctx).spbase 55 0) (bits (ctxOf s c.ctx).stkbase 55 0) ga = true ∨
    failedPage (queueOf (ctxOf s c.ctx) c.queue) ga n = true

/-- The access of a read of a launch. -/
def readAccess (ga : BitVec 64) (n align : Nat) : Access := { ga := ga, n := n, align := align, write := false, atom := false, tags := true }

/-- The state once a read has given a number. -/
def readKept (s : State) (c : CmdRef) (i : Nat) (ts : List Target) (v : Nat) : State :=
  updQueue (slicePass (partOfCtx s c.ctx) false false ts s) c.ctx c.queue (fun q => { q with taken := q.taken ++ [(i, v)] })

theorem luThen_zero : luThen c i ga 0 align code eff s = eff 0 s := by
  unfold luThen
  exact if_pos rfl

theorem takenAt_none (h : (queueOf (ctxOf s c.ctx) c.queue).taken = []) : takenAt s c i = none := by
  unfold takenAt
  rw [h]
  rfl

theorem luThen_stops (hn : n ≠ 0) (ht : takenAt s c i = none) (h : readStops s c ga n) : luThen c i ga n align code eff s = refuse c code s := by
  unfold luThen
  simp only [ht]
  rw [if_neg hn]
  exact if_pos (by rw [Bool.or_eq_true]; exact h)

/-- A read that fails a check of a load refuses the launch. -/
theorem luThen_fault (hn : n ≠ 0) (ht : takenAt s c i = none) (h : ¬ readStops s c ga n) {k : BitVec 8}
    (hk : checkAccess s (deviceWho c.ctx) (readAccess ga n align) = (s1, .fault k)) : luThen c i ga n align code eff s = refuse c code s1 := by
  unfold readAccess at hk
  unfold luThen
  simp only [ht, hk]
  rw [if_neg hn]
  exact if_neg (by rw [Bool.or_eq_true]; exact h)

theorem readTargets_mem (s : State) (pa n cp : Nat) :
    readTargets s noBlock [.mem pa n cp] = if poisonAt s pa n then none else some (readMem s pa n) := by
  have hl : l1For none cp = none := by
    unfold l1For
    split <;> rfl
  unfold readTargets viewTargets
  rw [hl]
  split
  · rfl
  · simp [viewTargets, readMem, show viewByte s none = readByte s from rfl]

/-- A read from memory refuses the launch where it meets poison. -/
theorem luThen_poison (hn : n ≠ 0) (ht : takenAt s c i = none) (h : ¬ readStops s c ga n) {pa m cp : Nat} {uc : Bool}
    (hk : checkAccess s (deviceWho c.ctx) (readAccess ga n align) = (s1, .ok [.mem pa m cp] uc)) (hp : poisonAt s1 pa m = true) :
    luThen c i ga n align code eff s = refuse c code s1 := by
  unfold readAccess at hk
  unfold luThen
  simp only [ht, hk, readTargets_mem, hp]
  rw [if_neg hn]
  exact if_neg (by rw [Bool.or_eq_true]; exact h)

/-- Else the launch goes on with what memory gives. -/
theorem luThen_mem (hn : n ≠ 0) (ht : takenAt s c i = none) (h : ¬ readStops s c ga n) {pa m cp : Nat} {uc : Bool}
    (hk : checkAccess s (deviceWho c.ctx) (readAccess ga n align) = (s1, .ok [.mem pa m cp] uc)) (hp : poisonAt s1 pa m = false) :
    luThen c i ga n align code eff s = eff (readMem s1 pa m) (readKept s1 c i [.mem pa m cp] (readMem s1 pa m)) := by
  unfold readAccess at hk
  unfold luThen
  simp only [ht, hk, readTargets_mem, hp]
  rw [if_neg hn]
  exact if_neg (by rw [Bool.or_eq_true]; exact h)

theorem readOn_tlb (h : OnlyTlb s s1) : ReadOn s s1 c := by
  obtain ⟨_, rfl⟩ := h
  exact ⟨⟨_, _, _, rfl⟩, rfl, rfl⟩

theorem readKept_view (s : State) (c : CmdRef) (i : Nat) (ts : List Target) (v : Nat) :
    ∃ b cs, readKept s c i ts v = { s with slices := b, ctxs := cs } ∧
      { mapGet Ctx.reset cs c.ctx with queues := [] } = { ctxOf s c.ctx with queues := [] } := by
  obtain ⟨b, hb⟩ := slicePass_only (partOfCtx s c.ctx) false false ts s
  unfold readKept
  rw [hb]
  refine ⟨b, _, rfl, ?_⟩
  rw [mapGet_set, if_pos rfl]
  rfl

theorem ReadOn.kept (h : ReadOn s s1 c) (i : Nat) (ts : List Target) (v : Nat) : ReadOn s (readKept s1 c i ts v) c := by
  obtain ⟨b, cs, hv, hx⟩ := readKept_view s1 c i ts v
  refine ⟨?_, ?_, ?_⟩
  · obtain ⟨_, _, _, rfl⟩ := h.only
    exact ⟨_, b, cs, hv⟩
  · rw [hv]
    exact hx.trans h.ctx
  · refine Eq.trans ?_ h.queue
    obtain ⟨b', hb⟩ := slicePass_only (partOfCtx s1 c.ctx) false false ts s1
    unfold readKept
    rw [queueOf_updQueue, hb]
    rfl

/-- A read changes nothing that the check of the header's page looks at (R269). -/
theorem headerXn_kept (s : State) (c : CmdRef) (i : Nat) (ts : List Target) (v va : Nat) :
    headerXn (readKept s c i ts v) c.ctx va = headerXn s c.ctx va := by
  obtain ⟨b, cs, hv, hx⟩ := readKept_view s c i ts v
  unfold headerXn
  have e := congrArg Ctx.ctxtr hx
  rw [hv, translate_view s b cs _ c.ctx va e]

end LuThen

/-! ### Acceptance (R430) -/

/-- The dispatch writes the handle or is among its readers. -/
def HandleUse.holds (u : HandleUse) (id : BitVec 64) : Prop := u.writer = some id ∨ id ∈ u.readers

/-- The handle table once a launch takes one of its handles. -/
def takeHandle (id : BitVec 64) (m : SMap HandleUse) (h : Nat × Bool) : SMap HandleUse :=
  let u := mapGet { writer := none, readers := [] } m h.1
  mapSet { writer := none, readers := [] } m h.1
    (if h.2 then { writer := some id, readers := [] }
     else if u.writer = some id ∨ u.readers.contains id = true then u else { u with readers := u.readers ++ [id] })

theorem takeHandle_holds (id : BitVec 64) (m : SMap HandleUse) (h : Nat × Bool) :
    (mapGet { writer := none, readers := [] } (takeHandle id m h) h.1).holds id := by
  unfold takeHandle
  simp only
  rw [mapGet_set, if_pos rfl]
  split
  · exact .inl rfl
  · split
    · next hold => exact hold.imp_right List.contains_iff_mem.mp
    · exact .inr (List.mem_append_right _ List.mem_cons_self)

theorem takeHandle_keeps (id : BitVec 64) (m : SMap HandleUse) (h : Nat × Bool) (k : Nat)
    (hk : (mapGet { writer := none, readers := [] } m k).holds id) : (mapGet { writer := none, readers := [] } (takeHandle id m h) k).holds id := by
  by_cases e : k = h.1
  · exact e ▸ takeHandle_holds id m h
  · unfold takeHandle
    rw [mapGet_set, if_neg e]
    exact hk

theorem takeHandles_hold (id : BitVec 64) (k : Nat) : ∀ (l : List (Nat × Bool)) (m : SMap HandleUse),
    ((mapGet { writer := none, readers := [] } m k).holds id ∨ ∃ w, (k, w) ∈ l) →
    (mapGet { writer := none, readers := [] } (l.foldl (takeHandle id) m) k).holds id
  | [], _, h => h.resolve_right (fun ⟨_, hw⟩ => by cases hw)
  | h :: l, m, hk => by
    refine takeHandles_hold id k l _ ?_
    rcases hk with hk | ⟨w, hw⟩
    · exact .inl (takeHandle_keeps id m h k hk)
    · rcases List.mem_cons.mp hw with rfl | hw
      · exact .inl (takeHandle_holds id m (k, w))
      · exact .inr ⟨w, hw⟩

section Accept
variable {s u : State} {c : CmdRef} {d : Cmd} {k : Kernel} {l : List Overlay}

/-- The state once a launch is accepted. -/
def accepted (s : State) (c : CmdRef) (d : Cmd) (k : Kernel) (l : List Overlay) : State :=
  updQueue (takeHandles { s with dispatches := s.dispatches ++ [dispatchOf s c d k l], accepted := s.accepted + 1 } c d) c.ctx c.queue
    (fun q => { q with page := none, failed := [], taken := [] })

theorem accept_refused {code : Nat} (h : launchFault s c d k = some code) : accept c d k l s = refuse c code s := by
  unfold accept
  rw [h]

theorem accept_full (h : launchFault s c d k = none) (hf : readersFull s c d = true) : accept c d k l s = s := by
  unfold accept
  rw [h]
  exact if_pos hf

theorem accept_accepted (h : launchFault s c d k = none) (hf : readersFull s c d = false) : accept c d k l s = accepted s c d k l := by
  unfold accept
  rw [h]
  exact if_neg (by rw [hf]; exact Bool.false_ne_true)

theorem accepted_dispatches (s : State) : (accepted s c d k l).dispatches = s.dispatches ++ [dispatchOf s c d k l] := rfl

theorem dispOf_accepted (h : dispOf s (dispId c) = none) : dispOf (accepted s c d k l) (dispId c) = some (dispatchOf s c d k l) := by
  unfold dispOf at h ⊢
  rw [accepted_dispatches, List.find?_append, h]
  simp [dispatchOf]

theorem accepted_quiet (s : State) : Quiet s (accepted s c d k l) := .of_eq rfl rfl rfl rfl

theorem accepted_handles (s : State) :
    (ctxOf (accepted s c d k l) c.ctx).handles = (handleList d).foldl (takeHandle (dispId c)) (ctxOf s c.ctx).handles := by
  unfold accepted updQueue
  rw [ctxOf_updCtx, if_pos rfl]
  unfold takeHandles
  simp only
  rw [ctxOf_updCtx, if_pos rfl]
  rfl

theorem accepted_holds (s : State) {h : Nat} {w : Bool} (hw : (h, w) ∈ handleList d) :
    (handleUse (ctxOf (accepted s c d k l) c.ctx) h).holds (dispId c) := by
  rw [handleUse, accepted_handles]
  exact takeHandles_hold _ h _ _ (.inr ⟨w, hw⟩)

/-- A launch depends on the writer of each handle that it names, while that is not complete. -/
theorem mem_launchDeps {h : Nat} {w : Bool} {i : BitVec 64} (hw : (h, w) ∈ handleList d) (hi : (handleUse (ctxOf s c.ctx) h).writer = some i)
    (hd : (dispOf s i).isSome = true) : i ∈ launchDeps s c d := by
  unfold launchDeps
  simp only
  rw [List.mem_eraseDups]
  refine List.mem_filter.mpr ⟨List.mem_append_left _ (List.mem_flatMap.mpr ⟨(h, w), hw, List.mem_append_left _ ?_⟩), hd⟩
  rw [hi]
  exact List.mem_singleton_self i

end Accept

/-! ### The checks in their order (R432) -/

section Launch
variable {s u : State} {c : CmdRef} {d : Cmd}

/-- The address of the kernel header. -/
def headerAddr (d : Cmd) : BitVec 64 := BitVec.ofNat 64 (cmdField d 64 64)

/-- What a launch does once its header is read. -/
def afterHeader (c : CmdRef) (d : Cmd) (first : Bool) (v : Nat) (s : State) : State :=
  if first && headerXn s c.ctx (bits (headerAddr d) 55 0) then refuse c 0x10 s
  else match headerFault v with
    | some code => refuse c code s
    | none => luThen c 1 (headerAddr d + BitVec.ofNat 64 (kernelOf v).ptOff) (8 * (kernelOf v).nPatch) 8 0x15 (fun t s =>
        let rs := (List.range (kernelOf v).nPatch).map (fun i => fld t (64 * i) 64)
        patchThen c (kernelOf v) (headerAddr d) rs (fun s => luThen c 2 (BitVec.ofNat 64 (cmdField d 128 64)) (kernelOf v).pBytes 1 0x16
          (fun p s => accept c d (kernelOf v) (rs.map (overlayOf (headerAddr d) p)) s) s) rs s) s

theorem cmdLaunch_waits (h : (dispOf s (dispId c)).isSome = true ∨ (queueOf (ctxOf s c.ctx) c.queue).page.isSome = true) :
    cmdLaunch c d s = s := if_pos h

theorem cmdLaunch_unlaunchable (hd : dispOf s (dispId c) = none) (hp : (queueOf (ctxOf s c.ctx) c.queue).page = none)
    (h : unlaunchable s c.ctx = true) : cmdLaunch c d s = refuse c 0x1B s := by
  unfold cmdLaunch
  simp only [hd, hp]
  exact if_pos h

theorem cmdLaunch_reads (hd : dispOf s (dispId c) = none) (hp : (queueOf (ctxOf s c.ctx) c.queue).page = none)
    (ht : (queueOf (ctxOf s c.ctx) c.queue).taken = []) (h : unlaunchable s c.ctx = false) :
    cmdLaunch c d s = luThen c 0 (headerAddr d) 64 64 0x10 (afterHeader c d true) s := by
  unfold cmdLaunch
  simp only [hd, hp, takenAt_none ht, h]
  rfl

theorem afterHeader_xn {v : Nat} (h : headerXn s c.ctx (bits (headerAddr d) 55 0) = true) : afterHeader c d true v s = refuse c 0x10 s :=
  if_pos h

theorem afterHeader_fault {v code : Nat} (h : headerXn s c.ctx (bits (headerAddr d) 55 0) = false) (hf : headerFault v = some code) :
    afterHeader c d true v s = refuse c code s := by
  unfold afterHeader
  simp only [hf]
  exact if_neg (by rw [h]; exact Bool.false_ne_true)

/-- A kernel without patches and parameters goes to acceptance at once. -/
theorem afterHeader_accept {v : Nat} (h : headerXn s c.ctx (bits (headerAddr d) 55 0) = false) (hf : headerFault v = none)
    (hn : (kernelOf v).nPatch = 0) (hb : (kernelOf v).pBytes = 0) : afterHeader c d true v s = accept c d (kernelOf v) [] s := by
  unfold afterHeader
  simp only [hf, hn, hb, Nat.mul_zero, luThen_zero, List.range_zero, List.map_nil, patchThen]
  exact if_neg (by rw [h]; exact Bool.false_ne_true)

/-- Every code of a header fits STATUS. -/
theorem headerFault_lt {v code : Nat} (h : headerFault v = some code) : code < 2 ^ 32 := by
  unfold headerFault at h
  simp only at h
  grind

theorem launchFault_lt {k : Kernel} {code : Nat} (h : launchFault s c d k = some code) : code < 2 ^ 32 := by
  unfold launchFault at h
  simp only at h
  grind

end Launch

/-- Settles O46: a decode by the next command's event, STATUS by the one place that it is written at, and LAUNCH by what its read leaves. -/
theorem commandSteps : Obligations.CommandSteps := by
  unfold Obligations.CommandSteps
  intro s c d s0 x cov Ends event
  have hend {u : State} {v : Nat} (h : SamePlace s u c) (hv : v < 2 ^ 32) (hc : cov) : Ends (.next (cmdStatus u c v)) v :=
    ⟨_, rfl, h.done hv hc⟩
  have hhere : SamePlace s s0 c := samePlace_taken s c
  refine ⟨fun he => ⟨fun hl => ?_, fun e n rest hl => ?_⟩, fun hgone => ?_, fun hheld hcov => ⟨?_, ?_, ?_, ?_, ?_, ?_, ?_⟩⟩
  · rw [execCommandDecode_eq he, commandDecode, hl]
  · intro q r d last
    have hd : headCmd s0 (queueOf (ctxOf s0 e) n) = d := headCmd_congr rfl rfl q
    rw [execCommandDecode_eq he]
    clear_value d
    refine ⟨fun ev hev hres => ?_, fun hop hres hcov => ?_⟩
    · refine ⟨_, congrArg _ (commandDecode_step hl hd (cmdEvent_some hev hres)), (decodedAt_written s e n d).addAgenda [ev], ?_⟩
      exact List.mem_append_right _ List.mem_cons_self
    · have hplace := samePlace_decodedAt s r d
      refine ⟨_, congrArg _ (commandDecode_refused hl hd (cmdEvent_none hop hres)), hplace.done (by decide) hcov, ?_⟩
      have hq := cmdStatus_queue 0x1C (u := decodedAt s0 e n d) (c := r) (by rw [hplace.cover, hplace.place, hcov])
      have hdec := (decodedAt_written s e n d).queues n
      rw [if_pos rfl] at hdec
      exact congrArg Queue.head (hq.trans (congrArg (Queue.without · r.k) hdec))
  · refine ⟨fun he => ?_, fun he => ?_, fun he => ?_, fun he => ?_, fun he => ?_, fun he => ?_, fun he => ?_⟩
    · rw [execCmdNop_eq he, withCmd_gone _ hgone]
    · rw [execCmdLaunch_eq he, withCmd_gone _ hgone]
    · rw [execCmdSignal_eq he, withCmd_gone _ hgone]
    · rw [execCmdWaitev_eq he, withCmd_gone _ hgone]
    · rw [execCmdInval_eq he, withCmd_gone _ hgone]
    · rw [execCmdScrub_eq he, withCmd_gone _ hgone]
    · rw [execInvalComplete_eq he, withCmd_gone _ hgone]
  · intro he
    rw [execCmdNop_eq he, withCmd_held _ hheld]
    exact hend hhere (by decide) hcov
  · intro he
    rw [execCmdSignal_eq he, withCmd_held _ hheld]
    refine ⟨fun hbad => ?_, fun hgood hfirst => ?_, fun hgood hfirst => ?_⟩
    · rw [cmdSignal, if_pos hbad]
      exact hend hhere (by decide) hcov
    · rw [cmdSignal_waits (s := s0) hgood hfirst]
    · have hplace : SamePlace s (eventCounted s0 c.ctx event) c := hhere.trans (samePlace_eventCounted s0 c event)
      refine ⟨_, congrArg _ (cmdSignal_counts hgood hfirst), hplace.done (by decide) hcov, fun j => ?_⟩
      rw [cmdStatus_events 1 (by rw [hplace.cover, hplace.place, hcov]), ctxOf_eventCounted]
      exact mapGet_set 0 x.events event _ j
  · intro he
    rw [execCmdWaitev_eq he, withCmd_held _ hheld]
    refine ⟨fun hbad => ?_, fun hgood hwait => ?_, fun hgood hthere => ?_⟩
    · rw [cmdWaitev, if_pos hbad]
      exact hend hhere (by decide) hcov
    · rw [cmdWaitev_waits (s := s0) hgood hwait]
    · rw [cmdWaitev_reached (s := s0) hgood hthere]
      exact hend hhere (by decide) hcov
  · intro he
    rw [execCmdScrub_eq he, withCmd_held _ hheld]
    intro pa lo n good st
    refine ⟨fun hfirst => ?_, fun hfirst hbad => ?_, fun hfirst hgood hapart => ?_⟩
    · rw [cmdScrub_waits (s := s0) hfirst]
    · rw [cmdScrub_refused (s := s0) hfirst hbad]
      exact hend hhere (by decide) hcov
    · rw [cmdScrub_ends (s := s0) hfirst hgood]
      have h0 := scrubbed_spec s0 c d
      have hscrub : Scrubbed s (scrubbed s0 c d) c lo n := ⟨h0.teams, h0.place, h0.bytes, h0.sector, h0.cover⟩
      obtain ⟨-, hpa, hn, -⟩ := hgood
      exact ⟨_, rfl, hscrub.done (by omega) hn hcov hapart⟩
  · intro he
    rw [execCmdInval_eq he, withCmd_held _ hheld]
    refine ⟨_, rfl, (quiet_taken s).trans (cmdInval_quiet s0), List.mem_append_right _ (List.mem_append_right _ List.mem_cons_self), cmdInval_caches s0,
      fun hwb n hn => cmdInval_ways s0 hwb n hn⟩
  · intro he
    rw [execInvalComplete_eq he, withCmd_held _ hheld]
    refine ⟨fun hwait => ?_, fun hnone => ?_⟩
    · rw [invalComplete_waits (s := s0) hwait]
    · have hplace : SamePlace s { s0 with stale := staleLeft s0 c d } c := ⟨.of_eq rfl rfl rfl rfl, rfl, fun _ _ => rfl⟩
      have hstale := cmdStatus_stale (u := { s0 with stale := staleLeft s0 c d }) (c := c) 1 hcov
      refine ⟨_, congrArg _ (invalComplete_ends (fun ⟨q, hq, hasid, _⟩ => hnone q hq hasid)), hplace.done (by decide) hcov, fun a ha => ?_,
        fun hall => ?_, fun hsome => ?_⟩
      · rw [hstale]
        exact mem_staleLeft ha
      · rw [hstale]
        exact not_mem_staleLeft (s := s0) hall
      · rw [hstale]
        exact if_neg hsome
  · intro he
    rw [execCmdLaunch_eq he, withCmd_held _ hheld]
    intro q
    refine ⟨fun hwait => ?_, fun hdisp hpage htaken => ⟨fun hun => ?_, fun hun => ?_⟩⟩
    · rw [cmdLaunch_waits (s := s0) hwait]
    · rw [cmdLaunch_unlaunchable (s := s0) hdisp hpage hun]
      exact ⟨_, rfl, refuse_done hhere (by decide) hcov⟩
    intro ka c1 v stops
    rw [cmdLaunch_reads (s := s0) hdisp hpage htaken hun]
    have hnone : takenAt s0 c 0 = none := takenAt_none htaken
    have hread : ReadOn s0 c1.1 c := readOn_tlb (checkAccess_tlb s0 _ _)
    have hrefused (code : Nat) (hv : code < 2 ^ 32) {u : State} (hu : ReadOn s0 u c) : Ends (.next (refuse c code u)) code :=
      ⟨_, rfl, refuse_done (hhere.trans hu.samePlace) hv hcov⟩
    refine ⟨fun hstop => ?_, fun hstop => ⟨fun k hk => ?_, fun pa cp tc hk hp => ?_, fun pa cp tc hk hp => ?_⟩⟩
    · rw [luThen_stops (s := s0) (ga := headerAddr d) (by decide) hnone hstop]
      exact ⟨_, rfl, refuse_done hhere (by decide) hcov⟩
    · rw [luThen_fault (s := s0) (ga := headerAddr d) (s1 := c1.1) (by decide) hnone hstop (Prod.ext rfl hk)]
      exact hrefused 0x10 (by decide) hread
    · rw [luThen_poison (s := s0) (ga := headerAddr d) (s1 := c1.1) (by decide) hnone hstop (Prod.ext rfl hk) (hread.poisonAt.trans hp)]
      exact hrefused 0x10 (by decide) hread
    rw [luThen_mem (s := s0) (ga := headerAddr d) (s1 := c1.1) (by decide) hnone hstop (Prod.ext rfl hk) (hread.poisonAt.trans hp)]
    have hu := hread.kept 0 [.mem pa 64 cp] (readMem c1.1 pa 64)
    have hxn := headerXn_kept c1.1 c 0 [.mem pa 64 cp] (readMem c1.1 pa 64) (bits ka 55 0)
    have hval : readMem c1.1 pa 64 = v pa := hread.readMem
    generalize readKept c1.1 c 0 _ _ = u at hu hxn ⊢
    rw [hval, ← hxn]
    generalize v pa = w
    refine ⟨fun hx => ?_, fun hx => ⟨fun code hf => ?_, fun hf hpatch hparam => ?_⟩⟩
    · rw [afterHeader_xn hx]
      exact hrefused 0x10 (by decide) hu
    · rw [afterHeader_fault hx hf]
      exact hrefused code (headerFault_lt hf) hu
    · rw [afterHeader_accept hx hf hpatch hparam]
      have hlf : launchFault u c d (kernelOf w) = launchFault s c d (kernelOf w) := hu.launchFault _
      have hrf : readersFull u c d = readersFull s c d := hu.readersFull
      refine ⟨fun code hl => ?_, fun hl hfull => ?_, fun hl hfull => ?_⟩
      · rw [accept_refused (hlf.trans hl)]
        exact hrefused code (launchFault_lt hl) hu
      · rw [accept_full (hlf.trans hl) (hrf.trans hfull)]
        exact ⟨_, rfl, (quiet_taken s).trans hu.quiet, (hu.dispOf _).trans hdisp, hu.cmdOf.trans hheld⟩
      · rw [accept_accepted (hlf.trans hl) (hrf.trans hfull)]
        have hprio := congrArg (fun q => bits q.cq 50 48) hu.queue
        refine ⟨_, _, rfl, ((quiet_taken s).trans hu.quiet).trans (accepted_quiet u), dispOf_accepted ((hu.dispOf _).trans hdisp), rfl, ?_, rfl, rfl, rfl,
          rfl, rfl, rfl, rfl, rfl, rfl, rfl, rfl, hprio, fun h wr i hmem hwriter hlive => ?_, fun h wr hmem => accepted_holds u hmem⟩
        · exact (BitVec.setWidth_ofNat_of_le (by decide) _).symm
        · exact mem_launchDeps hmem ((congrArg HandleUse.writer (hu.handleUse h)).trans hwriter) (by rw [hu.dispOf]; exact hlive)

end Sys2Proof.Machine
end

section
/-! PLACEMENT (O47, R25, R80, R108, R413, R424, R433 to R435, R458, R460): how a block is placed on the core that is found for it, and how
a saved one goes on. -/
namespace Sys2Proof.Machine
open Sys2Proof.Forms

/-! ### Folds -/

/-- A fold of steps none of which changes the state. -/
theorem foldl_stays {α : Type} {f : State → α → State} {s : State} : ∀ {l : List α}, (∀ a ∈ l, f s a = s) → l.foldl f s = s
  | [], _ => rfl
  | a :: l, h => by
    rw [List.foldl_cons, h a List.mem_cons_self]
    exact foldl_stays (fun b hb => h b (List.mem_cons_of_mem _ hb))

/-- A context without bound slots has no partition to mark resident. -/
theorem residency_none {s : State} {b : Block} (v : Nat) (h : ∀ n, n < 16 → (slotOf (ctxOf s b.ctx) n).bound = false) : residency s b v = s := by
  refine foldl_stays (fun n hn => ?_)
  simp only [h n (List.mem_range.mp hn), Bool.false_and]
  rfl

/-! ### What a place is (R108, R424, R434) -/

theorem execBlockPlace_eq {s : State} (h : s.event = some .blockPlace) : exec .blockPlace s = .next (blockPlace { s with event := none }) := by
  change execBlockPlace s = _
  rw [execBlockPlace, h]

theorem servedFirst_found {s : State} {d : Dispatch} {p : CoreRoom} : ∀ {l : List Dispatch}, servedFirst s l = some (d, p) →
    (findPlace s d (coreOrder s d)).1 = some p
  | [], h => by cases h
  | e :: l, h => by
    unfold servedFirst at h
    split at h
    · cases h
    · split at h
      · next q hq =>
        cases h
        exact hq
      · exact servedFirst_found h

/-- A new block is placed only where the pool has a free area. -/
theorem freeArea_of_place {s : State} {d : Dispatch} {p : CoreRoom} {i : Nat} {cores : List Nat} (hn : nextBlock s d = some (i, none))
    (h : (findPlace s d cores).1 = some p) : ∃ a, freeArea s d.cmd.ctx = some a := by
  unfold findPlace at h
  simp only [hn] at h
  cases ha : freeArea s d.cmd.ctx with
  | some a => exact ⟨a, rfl⟩
  | none => simp [ha] at h

theorem freeArea_free {s : State} {c a : Nat} (h : freeArea s c = some a) : ∀ v ∈ s.blocks, v.ctx = c → v.area ≠ a := by
  intro v hv hc ha
  have hfree := List.find?_some h
  simp only [Bool.not_eq_true', List.any_eq_false] at hfree
  exact hfree v hv (by simp [hc, ha])

/-- A cycle in which no refusal is due and no dispatch is reserved serves the first dispatch that can place a block. -/
theorem blockPlace_serves {s : State} {d : Dispatch} {p : CoreRoom} (hr : reservedNow s = none) (hn : ∀ e ∈ placeList s, refusal s e = none)
    (hs : servedFirst s (placeList s) = some (d, p)) : blockPlace s = placeOn d p s := by
  have hnotes : (placeList s).foldl noteRefusal s = s := foldl_stays (fun e he => by
    unfold noteRefusal
    rw [hn e he])
  unfold blockPlace
  rw [hr]
  simp only [hnotes, hs]

theorem blockPlace_empty {s : State} (hr : reservedNow s = none) (h : placeList s = []) : blockPlace s = s := by
  unfold blockPlace
  rw [hr]
  simp only [h, List.foldl_nil]
  rfl

/-! ### The core and the dispatch of a placement (R80, R86, R256, R433, R437) -/

/-- What a placement changes before the block itself: cores, the slice of the context, the pointer of the partition and the cores that the
dispatch has been on. -/
structure Prepared (s u : State) (d : Dispatch) : Prop where
  only : ∃ k cs ptr ds, u = { s with cores := k, ctxs := cs, placePtr := ptr, dispatches := ds }
  ctxs : ∀ c, { ctxOf u c with waiting := 0, slice := 0 } = { ctxOf s c with waiting := 0, slice := 0 }
  disp : (dispOf u d.id).map (·.next) = (dispOf s d.id).map (·.next)

theorem Prepared.refl (s : State) (d : Dispatch) : Prepared s s d :=
  ⟨⟨_, _, _, _, rfl⟩, fun _ => rfl, rfl⟩

theorem Prepared.trans {s t u : State} {d : Dispatch} (h : Prepared s t d) (g : Prepared t u d) : Prepared s u d := by
  refine ⟨?_, fun c => (g.ctxs c).trans (h.ctxs c), g.disp.trans h.disp⟩
  obtain ⟨_, _, _, _, rfl⟩ := h.only
  obtain ⟨k, cs, ptr, ds, rfl⟩ := g.only
  exact ⟨k, cs, ptr, ds, rfl⟩

theorem Prepared.of_cores (s : State) (d : Dispatch) (k : SMap Core) : Prepared s { s with cores := k } d :=
  ⟨⟨_, _, _, _, rfl⟩, fun _ => rfl, rfl⟩

theorem updDisp_prepared (s : State) (d : Dispatch) (f : Dispatch → Dispatch) (hf : ∀ e, (f e).id = e.id ∧ (f e).next = e.next) :
    Prepared s (updDisp s d.id f) d := by
  refine ⟨⟨_, _, _, _, rfl⟩, fun _ => rfl, ?_⟩
  rw [dispOf_updDisp s d.id f d.id (fun e => (hf e).1), if_pos rfl, Option.map_map]
  exact congrArg (Option.map · _) (funext fun e => (hf e).2)

theorem sliceStart_prepared (s : State) (d : Dispatch) (c : Nat) : Prepared s (sliceStart c s) d := by
  refine ⟨⟨_, _, _, _, rfl⟩, fun e => ?_, rfl⟩
  unfold sliceStart
  rw [ctxOf_updCtx]
  split
  · next h => rw [h]
  · rfl

/-- A place whose storage no block holds: only SPSTEPS may change. -/
theorem claimCore_held {p : CoreRoom} (hp : p.claim = false) (s : State) : claimCore p s =
    if holders s p.core false = [] ∧ (coreOf s p.core).csramcfg ≠ BitVec.ofNat 32 p.steps then
      updCore (l1Drop s p.core) p.core (fun k => { k with csramcfg := BitVec.ofNat 32 p.steps })
    else s := by
  unfold claimCore
  simp only [hp, Bool.false_eq_true, if_false]

theorem claimCore_prepared {p : CoreRoom} (hp : p.claim = false) (s : State) (d : Dispatch) : Prepared s (claimCore p s) d := by
  rw [claimCore_held hp]
  split
  · exact .of_cores s d _
  · exact .refl s d

theorem freshCaches_prepared (s : State) (d : Dispatch) (i core : Nat) : Prepared s (freshCaches d i core s) d := by
  have hdrop : Prepared s (if !d.cores.contains core || !ctxOnCore s d.cmd.ctx core (d.id, i) then l1Drop s core else s) d := by
    split
    · exact .of_cores s d _
    · exact .refl s d
  unfold freshCaches
  simp only
  split
  · exact (hdrop.trans (updDisp_prepared _ d (fun d => { d with cores := core :: d.cores }) (fun _ => ⟨rfl, rfl⟩))).trans (.of_cores _ d _)
  · exact hdrop

/-- The state before the block is placed. -/
def prepared (d : Dispatch) (p : CoreRoom) (i : Nat) (s : State) : State :=
  freshCaches d i p.core { sliceStart d.cmd.ctx (if p.seats = [] then s else claimCore p s) with
    placePtr := if p.seats = [] then s.placePtr else mapSet 0 s.placePtr (partOfCtx s d.cmd.ctx).1 (p.core + 1) }

theorem prepared_spec {p : CoreRoom} (hp : p.claim = false) (s : State) (d : Dispatch) (i : Nat) : Prepared s (prepared d p i s) d := by
  have hclaim : Prepared s (if p.seats = [] then s else claimCore p s) d := by
    split
    · exact .refl s d
    · exact claimCore_prepared hp s d
  refine .trans (.trans (hclaim.trans (sliceStart_prepared _ d d.cmd.ctx)) ?_) (freshCaches_prepared _ d i p.core)
  exact ⟨⟨_, _, _, _, rfl⟩, fun _ => rfl, rfl⟩

theorem placeOn_new {s : State} {d : Dispatch} {p : CoreRoom} {i : Nat} (h : nextBlock s d = some (i, none)) :
    placeOn d p s = placeNew d i p (prepared d p i s) := by
  unfold placeOn prepared
  simp only [h, decide_eq_true_eq]

theorem placeOn_saved {s : State} {d : Dispatch} {p : CoreRoom} {i : Nat} {b : Block} (h : nextBlock s d = some (i, some b)) :
    placeOn d p s = restore b p (prepared d p i s) := by
  unfold placeOn prepared
  simp only [h, decide_eq_true_eq]

/-! #### SPSTEPS (R80, R433) -/

theorem csramcfg_updCore (s : State) (c : Nat) (f : Core → Core) (hf : ∀ k, (f k).csramcfg = k.csramcfg) (n : Nat) :
    (coreOf (updCore s c f) n).csramcfg = (coreOf s n).csramcfg := by
  rw [coreOf_updCore]
  split
  · next h => rw [hf, h]
  · rfl

theorem freshCaches_csramcfg (s : State) (d : Dispatch) (i core n : Nat) :
    (coreOf (freshCaches d i core s) n).csramcfg = (coreOf s n).csramcfg := by
  have hdrop : (coreOf (if !d.cores.contains core || !ctxOnCore s d.cmd.ctx core (d.id, i) then l1Drop s core else s) n).csramcfg =
      (coreOf s n).csramcfg := by
    split
    · exact csramcfg_updCore s core (fun k => { k with l1 := cacheDrop k.l1 (fun _ => true) }) (fun _ => rfl) n
    · rfl
  unfold freshCaches
  simp only
  split
  · exact (csramcfg_updCore _ core (fun k => { k with icache := [] }) (fun _ => rfl) n).trans hdrop
  · exact hdrop

theorem claimCore_csramcfg {s : State} {p : CoreRoom} (hp : p.claim = false) (h : holders s p.core false = []) :
    (coreOf (claimCore p s) p.core).csramcfg = BitVec.ofNat 32 p.steps := by
  rw [claimCore_held hp]
  split
  · rw [coreOf_updCore, if_pos rfl]
  · next hne => exact Classical.not_not.mp (fun e => hne ⟨h, e⟩)

/-- A core without a resident block takes the size that its new blocks ask for. -/
theorem prepared_csramcfg {s : State} {d : Dispatch} {p : CoreRoom} (i : Nat) (hp : p.claim = false) (hs : p.seats ≠ [])
    (h : holders s p.core false = []) : (coreOf (prepared d p i s) p.core).csramcfg = BitVec.ofNat 32 p.steps := by
  unfold prepared
  rw [freshCaches_csramcfg]
  simp only [hs, if_false]
  exact claimCore_csramcfg hp h

/-! ### A new block (R25, R108, R219, R413) -/

theorem newStamp_only (s : State) (r : SplitRef) : ∃ a b, newStamp s r = { s with teams := a, stamps := b } := by
  unfold newStamp
  split
  · exact ⟨s.teams, s.stamps, rfl⟩
  · exact ⟨_, _, rfl⟩

theorem teamOf_newStamp_other {s : State} {r : SplitRef} {k : TeamKey} (h : k ≠ r.team) : teamOf (newStamp s r) k = teamOf s k := by
  unfold newStamp
  split
  · rfl
  · rw [teamOf_updSplit, if_neg h]
    rfl

theorem teamOf_newStamp {s : State} {r : SplitRef} {u : Team} (hu : teamOf s r.team = some u) : ∃ v, teamOf (newStamp s r) r.team =
    some (putSplit u r.high ((splitIn u r.high).map (fun sp => { sp with stamp := v, issued := 0 }))) := by
  refine ⟨mapGet 0 s.stamps (partKey u), ?_⟩
  unfold newStamp
  simp only [hu]
  rw [teamOf_updSplit, if_pos rfl]
  exact congrArg (Option.map _) hu

section NewBlock
variable {d : Dispatch} {i core : Nat}

/-- The key of the team of a seat. -/
def seatKey (d : Dispatch) (i : Nat) (g : Seat) : TeamKey := { disp := d.id, block := i, team := g.team }

theorem placeTeam_only (s : State) (g : Seat) : ∃ a b, placeTeam d i core s g = { s with teams := a, stamps := b } := by
  unfold placeTeam
  obtain ⟨a, b, h⟩ := newStamp_only
    { s with teams := s.teams ++ [startTeam d i core ((freeStack (stackSlots s d.cmd.ctx)).getD 0) g] }
    { team := seatKey d i g, high := false }
  exact ⟨a, b, h⟩

theorem placeTeam_other (s : State) (g : Seat) {k : TeamKey} (h : k ≠ seatKey d i g) : teamOf (placeTeam d i core s g) k = teamOf s k := by
  unfold placeTeam
  simp only
  rw [teamOf_newStamp_other h]
  unfold teamOf
  rw [List.find?_append, List.find?_singleton, if_neg (by rw [decide_eq_true_eq]; exact Ne.symm h), Option.or_none]

/-- A team as it starts on its seat, with some stack slot and stamp. -/
def StartedAt (d : Dispatch) (i core : Nat) (g : Seat) (u : Team) : Prop :=
  ∃ n v, u = { startTeam d i core n g with low := some { startSplit d with stamp := v, issued := 0 } }

theorem placeTeam_same {s : State} {g : Seat} (h : teamOf s (seatKey d i g) = none) :
    ∃ u, teamOf (placeTeam d i core s g) (seatKey d i g) = some u ∧ StartedAt d i core g u := by
  have hnew : teamOf { s with teams := s.teams ++ [startTeam d i core ((freeStack (stackSlots s d.cmd.ctx)).getD 0) g] } (seatKey d i g) =
      some (startTeam d i core ((freeStack (stackSlots s d.cmd.ctx)).getD 0) g) := by
    unfold teamOf at h ⊢
    rw [List.find?_append, h, Option.none_or, List.find?_singleton]
    exact if_pos (decide_eq_true rfl)
  obtain ⟨v, hv⟩ := teamOf_newStamp (r := { team := seatKey d i g, high := false }) hnew
  exact ⟨_, hv, _, v, rfl⟩

theorem placeTeams_only (l : List Seat) (s : State) : ∃ c : List Team × SMap (BitVec 64), l.foldl (placeTeam d i core) s = { s with teams := c.1, stamps := c.2 } :=
  foldl_only (fun s (c : List Team × SMap (BitVec 64)) => { s with teams := c.1, stamps := c.2 }) (fun s => (s.teams, s.stamps)) (fun _ => rfl)
    (fun _ _ _ => rfl) _ (fun s g => by
      obtain ⟨a, b, h⟩ := placeTeam_only (d := d) (i := i) (core := core) s g
      exact ⟨(a, b), h⟩) l s

theorem placeTeams_other {k : TeamKey} : ∀ (l : List Seat) (s : State), (∀ g ∈ l, k ≠ seatKey d i g) →
    teamOf (l.foldl (placeTeam d i core) s) k = teamOf s k
  | [], _, _ => rfl
  | g :: l, s, h => by
    rw [List.foldl_cons, placeTeams_other l _ (fun g' hg => h g' (List.mem_cons_of_mem _ hg)), placeTeam_other s g (h g List.mem_cons_self)]

theorem placeTeams_started : ∀ (l : List Seat) (s : State), (l.map (·.team)).Nodup → (∀ g ∈ l, teamOf s (seatKey d i g) = none) →
    ∀ g ∈ l, ∃ u, teamOf (l.foldl (placeTeam d i core) s) (seatKey d i g) = some u ∧ StartedAt d i core g u
  | [], _, _, _, g, hg => by cases hg
  | a :: l, s, hnodup, hnone, g, hg => by
    rw [List.map_cons, List.nodup_cons] at hnodup
    obtain ⟨hfirst, hrest⟩ := hnodup
    have hkey : ∀ b ∈ l, seatKey d i b ≠ seatKey d i a := fun b hb e =>
      hfirst (List.mem_map.mpr ⟨b, hb, congrArg TeamKey.team e⟩)
    rw [List.foldl_cons]
    rcases List.mem_cons.mp hg with rfl | hg
    · rw [placeTeams_other l _ (fun b hb => (hkey b hb).symm)]
      exact placeTeam_same (hnone g List.mem_cons_self)
    · exact placeTeams_started l _ hrest (fun b hb => (placeTeam_other s a (hkey b hb)).trans (hnone b (List.mem_cons_of_mem _ hb))) g hg

end NewBlock

/-- The block that a placement adds. -/
def newBlock (u : State) (d : Dispatch) (i : Nat) (p : CoreRoom) : Block :=
  { noBlock with disp := d.id, index := i, ctx := d.cmd.ctx, core := p.core, area := (freeArea u d.cmd.ctx).getD 0, spBase := p.base, since := u.cycle }

/-- The local address of its area. -/
def newArea (u : State) (d : Dispatch) : Nat := areaPa (ctxOf u d.cmd.ctx) ((freeArea u d.cmd.ctx).getD 0) 0 % 2 ^ 48

/-- What placing a new block leaves: its block and teams, its area zeroed, and the rest of memory, blocks, teams and cores as they were. -/
structure PlacedNew (u t : State) (d : Dispatch) (i : Nat) (p : CoreRoom) : Prop where
  blocks : t.blocks = u.blocks ++ [newBlock u d i p]
  disp   : (dispOf t d.id).map (·.next) = ((dispOf u d.id).map (·.next)).map (· + 1)
  cores  : t.cores = u.cores
  bytes  : ∀ a, readByte t a = if newArea u d ≤ a ∧ a < newArea u d + 4096 then 0 else readByte u a
  teams  : (p.seats.map (·.team)).Nodup → (∀ g ∈ p.seats, teamOf u (seatKey d i g) = none) →
    ∀ g ∈ p.seats, ∃ v, teamOf t (seatKey d i g) = some v ∧ StartedAt d i p.core g v
  others : ∀ k, (∀ g ∈ p.seats, k ≠ seatKey d i g) → teamOf t k = teamOf u k

/-- The state with the area zeroed and the teams on their seats. -/
def seated (u : State) (d : Dispatch) (i : Nat) (p : CoreRoom) : State :=
  p.seats.foldl (placeTeam d i p.core) (scrubRange { u with blocks := u.blocks ++ [newBlock u d i p] } (newArea u d) 4096)

theorem placeNew_eq (u : State) (d : Dispatch) (i : Nat) (p : CoreRoom) : placeNew d i p u =
    residency (updDisp (seated u d i p) d.id (fun d => { d with next := d.next + 1, live := d.live + 1 })) (newBlock u d i p) 1 := rfl

theorem seated_spec (u : State) (d : Dispatch) (i : Nat) (p : CoreRoom) : ∃ ts st m tg po w a, seated u d i p =
      { u with blocks := u.blocks ++ [newBlock u d i p], teams := ts, stamps := st, mem := m, tags := tg, poison := po, watches := w, agenda := a } ∧
    (∀ a, mapGet memDefault m a = if newArea u d ≤ a ∧ a < newArea u d + 4096 then 0 else readByte u a) ∧
    ((p.seats.map (·.team)).Nodup → (∀ g ∈ p.seats, teamOf u (seatKey d i g) = none) →
      ∀ g ∈ p.seats, ∃ v, teamOf (seated u d i p) (seatKey d i g) = some v ∧ StartedAt d i p.core g v) ∧
    ∀ k, (∀ g ∈ p.seats, k ≠ seatKey d i g) → teamOf (seated u d i p) k = teamOf u k := by
  unfold seated
  obtain ⟨m, tg, po, w, a, hscrub, hbytes, -⟩ := scrubRange_spec { u with blocks := u.blocks ++ [newBlock u d i p] } (newArea u d) 4096
  have hteam (k : TeamKey) : teamOf (scrubRange { u with blocks := u.blocks ++ [newBlock u d i p] } (newArea u d) 4096) k = teamOf u k :=
    teamOf_congr (by rw [hscrub]) k
  generalize scrubRange { u with blocks := u.blocks ++ [newBlock u d i p] } (newArea u d) 4096 = s1 at *
  obtain ⟨⟨ts, st⟩, hfold⟩ := placeTeams_only (d := d) (i := i) (core := p.core) p.seats s1
  refine ⟨ts, st, m, tg, po, w, a, by rw [hfold, hscrub], hbytes, fun hnodup hnone => ?_, fun k hk => ?_⟩
  · exact placeTeams_started p.seats s1 hnodup (fun g hg => (hteam _).trans (hnone g hg))
  · exact (placeTeams_other p.seats s1 hk).trans (hteam k)

theorem placeNew_spec {u : State} {d : Dispatch} {i : Nat} {p : CoreRoom} (hslots : ∀ n, n < 16 → (slotOf (ctxOf u d.cmd.ctx) n).bound = false) :
    PlacedNew u (placeNew d i p u) d i p := by
  obtain ⟨ts, st, m, tg, po, w, a, hseated, hbytes, hteams, hothers⟩ := seated_spec u d i p
  rw [placeNew_eq]
  generalize seated u d i p = s2 at *
  have hctx (n : Nat) (hn : n < 16) : (slotOf (ctxOf (updDisp s2 d.id (fun d => { d with next := d.next + 1, live := d.live + 1 }))
      (newBlock u d i p).ctx) n).bound = false := by
    rw [updDisp, hseated]
    exact hslots n hn
  rw [residency_none 1 hctx]
  refine ⟨?_, ?_, ?_, fun b => ?_, hteams, hothers⟩
  · rw [updDisp, hseated]
  · rw [dispOf_updDisp s2 d.id (fun d => { d with next := d.next + 1, live := d.live + 1 }) d.id (fun _ => rfl), if_pos rfl, hseated, Option.map_map, Option.map_map]
    rfl
  · rw [updDisp, hseated]
  · rw [updDisp, hseated]
    exact hbytes b

end Sys2Proof.Machine
end

section
/-! RESTORE AND SAVE (O47, R138, R379, R436, R437, R453 to R460): what a block's splits lose of their bookkeeping when it is restored or
saved, and what a save leaves. -/
namespace Sys2Proof.Machine
open Sys2Proof.Forms

/-! ### Bookkeeping of splits -/

/-- A step of the bookkeeping of splits: no team has changed in what a program sees of it, and beside teams only stamps, watches and what
splits have asked for have changed. -/
structure OnlySplits (s t : State) : Prop extends Unmoved s t where
  only : ∃ a b c d e f, t = { s with teams := a, stamps := b, watches := c, flushes := d, fetched := e, outReqs := f }

theorem OnlySplits.refl (s : State) : OnlySplits s s := ⟨.refl s, _, _, _, _, _, _, rfl⟩

theorem OnlySplits.trans {s t u : State} (h : OnlySplits s t) (g : OnlySplits t u) : OnlySplits s u := by
  refine ⟨h.toUnmoved.trans g.toUnmoved, ?_⟩
  obtain ⟨_, _, _, _, _, _, rfl⟩ := h.only
  obtain ⟨a, b, c, d, e, f, rfl⟩ := g.only
  exact ⟨a, b, c, d, e, f, rfl⟩

theorem OnlySplits.updSplit (s : State) (r : SplitRef) (f : Split → Split) (hf : ∀ sp, (f sp).seen = sp.seen) : OnlySplits s (updSplit s r f) :=
  ⟨.updSplit s r f hf, _, _, _, _, _, _, rfl⟩

theorem newStamp_splits (s : State) (r : SplitRef) : OnlySplits s (newStamp s r) := by
  unfold newStamp
  split
  · exact .refl s
  · next u _ =>
    exact .trans (t := { s with stamps := mapSet 0 s.stamps (partKey u) (mapGet 0 s.stamps (partKey u) + 1) })
      ⟨.of_eq rfl rfl rfl, _, _, _, _, _, _, rfl⟩
      (.updSplit _ r (fun sp => { sp with stamp := mapGet 0 s.stamps (partKey u), issued := 0 }) (fun _ => rfl))

theorem leaveStall_splits (r : SplitRef) (sp : Split) (s : State) : OnlySplits s (leaveStall r sp s) := by
  unfold leaveStall
  split
  · exact ⟨.of_eq rfl rfl rfl, _, _, _, _, _, _, rfl⟩
  · exact .refl s

theorem withdraw_seen (sp : Split) : (withdraw sp).seen = sp.seen := by
  unfold withdraw
  split <;> rfl

theorem restoredSplit_seen (sp : Split) : (restoredSplit sp).seen = sp.seen := by
  unfold restoredSplit
  simp only
  split <;> rfl

theorem watchLine_splits (s : State) (r : SplitRef) (pa : Nat) : OnlySplits s (watchLine s r pa).1 := by
  unfold watchLine
  simp only
  split
  · exact .refl s
  · split
    · exact .refl s
    · split
      · exact .refl s
      · exact ⟨.of_eq rfl rfl rfl, _, _, _, _, _, _, rfl⟩

theorem watchSpad_splits (s : State) (r : SplitRef) (off : Nat) : OnlySplits s (watchSpad s r off).1 := by
  unfold watchSpad
  simp only
  split
  · exact .refl s
  · exact ⟨.of_eq rfl rfl rfl, _, _, _, _, _, _, rfl⟩

theorem rewatch_splits (r : SplitRef) (s : State) : OnlySplits s (rewatch r s) := by
  unfold rewatch
  simp only
  split
  · exact .refl s
  · refine .trans ?_ (.updSplit _ r _ (fun sp => (restoredSplit_seen _).trans rfl))
    split
    · refine foldl_rel OnlySplits .refl .trans _ (fun s on => ?_) _ s
      split
      · exact watchLine_splits s r _
      · exact watchSpad_splits s r _
      · exact .refl s
    · exact .refl s

/-! ### A saved block goes on (R460) -/

theorem reseat_seen (p : CoreRoom) (u : Team) : (reseat p u).seen = u.seen := by
  unfold reseat
  split <;> rfl

/-- The state with the teams of a block on their new seats. -/
def reseated (b : Block) (p : CoreRoom) (s : State) : State :=
  let mine (k : TeamKey) : Bool := decide (k.disp = b.disp) && decide (k.block = b.index)
  let part (q : MqOp) : Nat := match p.seats.find? (fun g => decide (g.team = q.split.team.team)) with
    | some g => g.part
    | none => q.part
  { s with
    teams := s.teams.map (fun t => if mine t.key && !t.ended then reseat p t else t)
    mqOps := s.mqOps.filter (fun q => !mine q.split.team) ++
      (s.mqOps.filter (fun q => mine q.split.team)).map (fun q => { q with core := p.core, part := part q })
    sideLog := s.sideLog.map (fun e => if mine e.split.team then { e with core := p.core } else e) }

/-- What becomes of the block. -/
def restoredBlock (p : CoreRoom) (now : BitVec 64) (b : Block) : Block :=
  { b with core := p.core, spBase := p.base, saved := false, claimable := false, since := now }

/-- The state with the waits of its splits made again. -/
def rewatched (b : Block) (s : State) : State :=
  (sortBy (fun t => [t.key.team]) (blockTeams s b)).foldl (fun s t => (splitsOf t).foldl (fun s q => newStamp (rewatch q.1 s) q.1) s) s

/-- The end of a restore: the operations of the host that the image holds. -/
def goingOn (b : Block) (s : State) : State :=
  let ts := blockTeams s b
  let s6 := ts.foldl (fun s t => updTeam s t.key (fun t => { t with ctl := [] })) s
  addAgenda s6 (ts.flatMap (fun t => t.ctl ++
    (splitsOf t).filterMap (fun q => if trapDue t q.1.high q.2 then some (.userTrapEntry q.1) else none) ++
    (if t.low.isNone && t.high.isNone then [.teamEnd t.key] else [])))

theorem restore_eq (b : Block) (p : CoreRoom) (s : State) : restore b p s =
    (let s3 := rewatched b (updBlock (reseated b p s) b.disp b.index (restoredBlock p s.cycle))
     let s4 := ((ctxOf s3 b.ctx).pages.filter (fun q => q.answered.isSome)).foldl (fun s q =>
       retryEntries b.ctx q.id (if q.answered = some false then [q.page] else []) s) s3
     goingOn b (residency (dropPages s4 b.ctx) b 1)) := rfl

theorem rewatched_splits (b : Block) (s : State) : OnlySplits s (rewatched b s) := by
  refine foldl_rel OnlySplits .refl .trans _ (fun s t => ?_) _ s
  exact foldl_rel OnlySplits .refl .trans _ (fun s (q : SplitRef × Split) => (rewatch_splits q.1 s).trans (newStamp_splits _ q.1)) _ s

theorem reseated_unmoved (b : Block) (p : CoreRoom) (s : State) : Unmoved s (reseated b p s) :=
  .mapTeams (fun u => ((decide (u.key.disp = b.disp) && decide (u.key.block = b.index)) && !u.ended) = true) (reseat p) (reseat_seen p) rfl rfl rfl

theorem goingOn_spec (b : Block) (s : State) : Unmoved s (goingOn b s) ∧ (goingOn b s).blocks = s.blocks ∧ (goingOn b s).mem = s.mem := by
  have hfold : OnlySplits s ((blockTeams s b).foldl (fun s t => updTeam s t.key (fun t => { t with ctl := [] })) s) :=
    foldl_rel OnlySplits .refl .trans _ (fun s (t : Team) =>
      ⟨.updTeam s t.key (fun t => { t with ctl := [] }) (fun _ => rfl), _, _, _, _, _, _, rfl⟩) _ s
  unfold goingOn
  simp only
  refine ⟨hfold.toUnmoved.trans (.of_eq rfl rfl rfl), ?_⟩
  obtain ⟨_, _, _, _, _, _, h⟩ := hfold.only
  rw [addAgenda, h]
  exact ⟨rfl, rfl⟩

theorem dropPages_none {s : State} {c : Nat} (h : (ctxOf s c).pages = []) (e : Nat) : ctxOf (dropPages s c) e = ctxOf s e := by
  unfold dropPages
  rw [ctxOf_updCtx]
  split
  · next he =>
    subst he
    rw [h]
    simp only [List.filter_nil]
    rw [← h]
  · rfl

/-- What a restore leaves where no request of its context is open and no slot is bound: the block on its core, and teams and memory as a
program saw them. -/
theorem restore_spec {s : State} {b : Block} {p : CoreRoom} (hpages : (ctxOf s b.ctx).pages = [])
    (hslots : ∀ n, n < 16 → (slotOf (ctxOf s b.ctx) n).bound = false) :
    SameRegs s (restore b p s) ∧ (restore b p s).mem = s.mem ∧
      blockOf (restore b p s) b.disp b.index = (blockOf s b.disp b.index).map (restoredBlock p s.cycle) := by
  have hseat : Unmoved s (updBlock (reseated b p s) b.disp b.index (restoredBlock p s.cycle)) :=
    (reseated_unmoved b p s).trans (.of_eq rfl rfl rfl)
  have hblock := blockOf_updBlock (reseated b p s) b.disp b.index (restoredBlock p s.cycle) b.disp b.index (fun _ => ⟨rfl, rfl⟩)
  have hmem : (updBlock (reseated b p s) b.disp b.index (restoredBlock p s.cycle)).mem = s.mem := rfl
  have hctx : ∀ e, ctxOf (updBlock (reseated b p s) b.disp b.index (restoredBlock p s.cycle)) e = ctxOf s e := fun _ => rfl
  rw [restore_eq]
  generalize updBlock (reseated b p s) b.disp b.index (restoredBlock p s.cycle) = s2 at *
  obtain ⟨hmoved, _, _, _, _, _, _, honly⟩ := rewatched_splits b s2
  have hctx3 : ∀ e, ctxOf (rewatched b s2) e = ctxOf s e := fun e => by rw [← hctx, honly]; rfl
  have hblocks3 : (rewatched b s2).blocks = s2.blocks := by rw [honly]
  have hmem3 : (rewatched b s2).mem = s2.mem := by rw [honly]
  generalize rewatched b s2 = s3 at *
  have hpages3 : (ctxOf s3 b.ctx).pages = [] := (congrArg Ctx.pages (hctx3 b.ctx)).trans hpages
  simp only [hpages3, List.filter_nil, List.foldl_nil]
  rw [residency_none 1 (fun n hn => by rw [dropPages_none hpages3, hctx3]; exact hslots n hn)]
  obtain ⟨hend, hblocks, hmemEnd⟩ := goingOn_spec b (dropPages s3 b.ctx)
  refine ⟨((hseat.trans hmoved).regs.trans (.of_teams (t := dropPages s3 b.ctx) rfl)).trans hend.regs, ?_, ?_⟩
  · rw [hmemEnd]
    exact hmem3.trans hmem
  · rw [blockOf, hblocks]
    change List.find? _ s3.blocks = _
    rw [hblocks3]
    exact hblock.trans (if_pos ⟨rfl, rfl⟩)

/-! ### Marks (R410, R424, R437, R457) -/

theorem key_of_blockOf {s : State} {k : BitVec 64} {i : Nat} {b : Block} (h : blockOf s k i = some b) : b.disp = k ∧ b.index = i := by
  simpa using List.find?_some h

theorem markSave_none {s : State} {d : Dispatch} {b : Block} {lazy : Bool} (h : imageFit s d = none) : markSave s d b lazy = s := by
  unfold markSave
  rw [h]

/-- A block that is to be saved, its image's pages taken. -/
def markedBlock (now : BitVec 64) (lazy : Bool) (page : Nat) (b : Block) : Block :=
  { b with saving := true, saveAt := now, claimable := lazy, imageAt := page }

theorem markSave_some {s : State} {d : Dispatch} {b : Block} {lazy : Bool} {page : Nat} (h : imageFit s d = some page) :
    markSave s d b lazy = updBlock s b.disp b.index (markedBlock s.cycle lazy page) := by
  unfold markSave
  rw [h]
  rfl

theorem blockOf_marked (s : State) (k : BitVec 64) (i : Nat) (now : BitVec 64) (lazy : Bool) (page : Nat) (k' : BitVec 64) (i' : Nat) :
    blockOf (updBlock s k i (markedBlock now lazy page)) k' i' =
      if k' = k ∧ i' = i then (blockOf s k i).map (markedBlock now lazy page) else blockOf s k' i' :=
  blockOf_updBlock s k i _ k' i' (fun _ => ⟨rfl, rfl⟩)

/-! #### The victim (R437) -/

theorem lexLt_irrefl : ∀ a : List Nat, lexLt a a = false
  | [] => rfl
  | a :: as => by
    rw [lexLt, if_pos rfl]
    exact lexLt_irrefl as

theorem lexLt_asymm : ∀ {a b : List Nat}, lexLt a b = true → lexLt b a = false
  | [], [], h => by cases h
  | [], _ :: _, _ => rfl
  | _ :: _, [], h => by cases h
  | a :: as, b :: bs, h => by
    rw [lexLt] at h ⊢
    by_cases e : a = b
    · rw [if_pos e] at h
      rw [if_pos e.symm]
      exact lexLt_asymm h
    · rw [if_neg e, decide_eq_true_eq] at h
      rw [if_neg (Ne.symm e), decide_eq_false_iff_not]
      omega

/-- The element whose key is before every other's heads the sorted list. -/
theorem sortBy_least {α : Type} (key : α → List Nat) {x : α} (l : List α) (hx : x ∈ l) (h : ∀ y ∈ l, y ≠ x → lexLt (key x) (key y) = true) :
    ∃ rest, sortBy key l = x :: rest := by
  induction l using List.reverseRecOn with
  | nil => cases hx
  | append_singleton l y ih =>
    have hstep : sortBy key (l ++ [y]) = insertBy key y (sortBy key l) := by
      unfold sortBy
      rw [List.foldl_concat]
    have hold : ∀ z ∈ l, z ≠ x → lexLt (key x) (key z) = true := fun z hz => h z (List.mem_append_left _ hz)
    rw [hstep]
    by_cases hin : x ∈ l
    · obtain ⟨rest, hrest⟩ := ih hin hold
      have hlt : lexLt (key y) (key x) = false := by
        by_cases e : y = x
        · rw [e]
          exact lexLt_irrefl _
        · exact lexLt_asymm (h y (List.mem_append_right _ List.mem_cons_self) e)
      rw [hrest, insertBy, hlt]
      exact ⟨_, rfl⟩
    · have hy : x = y := by
        simpa [hin] using hx
      subst hy
      cases hl : sortBy key l with
      | nil => exact ⟨_, rfl⟩
      | cons z rest =>
        have hz : z ∈ l := (mem_sortBy key z l).mp (by rw [hl]; exact List.mem_cons_self)
        rw [insertBy, hold z hz (fun e => hin (e ▸ hz))]
        exact ⟨_, rfl⟩

theorem execTimeSliceExpire_eq {s : State} {c : Nat} (h : s.event = some (.timeSliceExpire c)) :
    exec .timeSliceExpire s = .next (timeSliceExpire c { s with event := none }) := by
  change execTimeSliceExpire s = _
  rw [execTimeSliceExpire, h]

theorem timeSliceExpire_none {s : State} {c : Nat} (h : ∀ b ∈ residentBlocks s c, victimBlock s b = false) : timeSliceExpire c s = s := by
  have hnil : (residentBlocks s c).filter (victimBlock s) = [] :=
    List.filter_eq_nil_iff.mpr (fun b hb => by rw [h b hb]; exact Bool.false_ne_true)
  unfold timeSliceExpire
  simp only [hnil]
  rfl

/-- Of the blocks that may be victims the one with the highest index is marked. -/
theorem timeSliceExpire_marks {s : State} {c : Nat} {b : Block} {d : Dispatch} {page : Nat} (hb : b ∈ residentBlocks s c)
    (hv : victimBlock s b = true) (hlt : b.index < 2 ^ 32)
    (hmax : ∀ v ∈ residentBlocks s c, victimBlock s v = true → v ≠ b → v.index < b.index) (hd : dispOf s b.disp = some d) (hcls : d.cls ≠ 0)
    (hfit : imageFit s d = some page) :
    ∃ lazy, timeSliceExpire c s = updBlock s b.disp b.index (markedBlock s.cycle lazy page) := by
  obtain ⟨rest, hhead⟩ := sortBy_least (fun b => [2 ^ 32 - b.index, 2 ^ 64 - ((dispOf s b.disp).getD noDispatch).seq])
    ((residentBlocks s c).filter (victimBlock s)) (List.mem_filter.mpr ⟨hb, hv⟩) (fun v hmem hne => by
      obtain ⟨hres, hvic⟩ := List.mem_filter.mp hmem
      have hidx := hmax v hres hvic hne
      rw [lexLt, if_neg (by omega), decide_eq_true_eq]
      omega)
  unfold timeSliceExpire
  simp only [hhead, hd, Option.getD_some, hcls, if_false]
  exact ⟨_, markSave_some hfit⟩

end Sys2Proof.Machine
end

section
/-! SAVE_BLOCK (O47, R124, R379, R453, R454, R457, R458): how a block that is at rest is saved. -/
namespace Sys2Proof.Machine
open Sys2Proof.Forms

/-! ### A block at rest (R124, R454) -/

/-- No split is in a pass. -/
def idleSplit (o : Option Split) : Prop := ∀ sp, o = some sp → sp.busy = 0

/-- A team has nothing under way that a save would wait for. -/
structure Team.AtRest (u : Team) (s : State) : Prop where
  inflight : u.inflight = []
  owesNone : owes s u.key = false
  low      : idleSplit u.low
  high     : idleSplit u.high

/-- So it is for every team of a block, and no operation of an engine is under way. -/
structure BlockAtRest (s : State) (k : BitVec 64) (i : Nat) : Prop where
  teams : ∀ u ∈ s.teams, u.key.disp = k → u.key.block = i → u.AtRest s
  xeOps : s.xeOps = []

theorem withdraw_busy (sp : Split) : (withdraw sp).busy = sp.busy := by
  unfold withdraw
  split <;> rfl

theorem idleSplit_withdraw {o : Option Split} (h : idleSplit o) : idleSplit (o.map withdraw) := by
  intro sp hsp
  obtain ⟨q, hq, rfl⟩ := Option.map_eq_some_iff.mp hsp
  rw [withdraw_busy]
  exact h q hq

theorem Team.AtRest.withdraw {u : Team} {s : State} (h : u.AtRest s) (side : Bool) : (putSplit u side ((splitIn u side).map withdraw)).AtRest s := by
  obtain ⟨hin, howes, hlow, hhigh⟩ := h
  cases side
  · exact ⟨hin, howes, idleSplit_withdraw hlow, hhigh⟩
  · exact ⟨hin, howes, hlow, idleSplit_withdraw hhigh⟩

theorem Team.AtRest.of_owes {u : Team} {s t : State} (h : u.AtRest s) (ht : owes t u.key = owes s u.key) : u.AtRest t :=
  ⟨h.inflight, ht.trans h.owesNone, h.low, h.high⟩

theorem atRest_withdraw {s : State} {k : BitVec 64} {i : Nat} (r : SplitRef) (h : BlockAtRest s k i) : BlockAtRest (updSplit s r withdraw) k i := by
  refine ⟨fun u hu hk hi => ?_, h.xeOps⟩
  obtain ⟨v, hv, rfl⟩ := List.mem_map.mp hu
  by_cases e : v.key = r.team
  · rw [if_pos e] at hk hi ⊢
    have hkey : (putSplit v r.high ((splitIn v r.high).map withdraw)).key = v.key := by cases r.high <;> rfl
    rw [hkey] at hk hi
    exact ((h.teams v hv hk hi).withdraw r.high).of_owes rfl
  · rw [if_neg e] at hk hi ⊢
    exact (h.teams v hv hk hi).of_owes rfl

/-- What a split has asked for is no write, so it goes without a change in what its team owes. -/
theorem owes_fetchForget (s : State) (r : SplitRef) (k : TeamKey) : owes (fetchForget s r) k = owes s k := by
  unfold owes fetchForget
  simp only
  rw [List.any_map]
  refine congrArg (List.any s.outReqs) (funext fun q => ?_)
  simp only [Function.comp]
  cases hw : q.waiter with
  | fetch who pa =>
    simp only
    split <;> simp [hw]
  | _ => simp only [hw]

theorem atRest_leaveStall {s : State} {k : BitVec 64} {i : Nat} (r : SplitRef) (sp : Split) (h : BlockAtRest s k i) :
    BlockAtRest (leaveStall r sp s) k i := by
  unfold leaveStall
  split
  · exact ⟨fun u hu hk hi => (h.teams u hu hk hi).of_owes (owes_fetchForget { s with flushes := s.flushes.filter (fun f => decide (f.2 ≠ r)) } r u.key),
      h.xeOps⟩
  · exact h

/-- What a split has asked for is withdrawn. -/
def withdrawOne (s : State) (r : SplitRef) : State :=
  updSplit (match splitOf s r with
    | some sp => leaveStall r sp s
    | none => s) r withdraw

theorem withdrawOne_splits (s : State) (r : SplitRef) : OnlySplits s (withdrawOne s r) := by
  unfold withdrawOne
  refine .trans ?_ (.updSplit _ r withdraw withdraw_seen)
  split
  · exact leaveStall_splits r _ s
  · exact .refl s

theorem withdrawOne_atRest {s : State} {k : BitVec 64} {i : Nat} (r : SplitRef) (h : BlockAtRest s k i) : BlockAtRest (withdrawOne s r) k i := by
  unfold withdrawOne
  refine atRest_withdraw r ?_
  split
  · exact atRest_leaveStall r _ h
  · exact h

theorem withdrawAll_atRest {k : BitVec 64} {i : Nat} : ∀ (l : List SplitRef) {s : State}, BlockAtRest s k i → BlockAtRest (l.foldl withdrawOne s) k i
  | [], _, h => h
  | r :: l, _, h => withdrawAll_atRest l (withdrawOne_atRest r h)

section Rest
variable {s : State} {b : Block}

theorem mem_blockTeams {u : Team} (h : u ∈ blockTeams s b) : u ∈ s.teams ∧ u.key.disp = b.disp ∧ u.key.block = b.index := by
  obtain ⟨hu, hp⟩ := List.mem_filter.mp h
  simp only [Bool.and_eq_true, decide_eq_true_eq] at hp
  exact ⟨hu, hp.1⟩

theorem BlockAtRest.team (h : BlockAtRest s b.disp b.index) {u : Team} (hu : u ∈ blockTeams s b) : u.AtRest s := by
  obtain ⟨hmem, hk, hi⟩ := mem_blockTeams hu
  exact h.teams u hmem hk hi

/-- A save of a block at rest waits for no step. -/
theorem saveWork_none (h : BlockAtRest s b.disp b.index) : saveWork s b = [] := by
  unfold saveWork
  rw [h.xeOps, List.flatMap_nil, List.append_nil, List.flatMap_eq_nil_iff]
  intro u hu
  rw [(h.team hu).inflight]
  rfl

theorem idle_splitsOf {u : Team} (h : u.AtRest s) : ∀ q ∈ splitsOf u, q.2.busy = 0 := by
  intro q hq
  unfold splitsOf at hq
  rcases List.mem_append.mp hq with hq | hq
  · cases hl : u.low with
    | none => rw [hl] at hq; cases hq
    | some sp =>
      rw [hl] at hq
      rw [List.mem_singleton.mp hq]
      exact h.low sp hl
  · cases hl : u.high with
    | none => rw [hl] at hq; cases hq
    | some sp =>
      rw [hl] at hq
      rw [List.mem_singleton.mp hq]
      exact h.high sp hl

theorem saveOver_rest (h : BlockAtRest s b.disp b.index) : saveOver s b = true := by
  unfold saveOver
  rw [h.xeOps, List.any_nil, Bool.and_eq_true]
  refine ⟨List.all_eq_true.mpr (fun u hu => ?_), rfl⟩
  have hr := h.team hu
  rw [hr.inflight, hr.owesNone, Bool.and_eq_true, Bool.and_eq_true]
  exact ⟨⟨rfl, List.all_eq_true.mpr (fun q hq => decide_eq_true (idle_splitsOf hr q hq))⟩, rfl⟩

end Rest

/-! ### The last steps of a save -/

/-- No core holds a counter that would go back to memory. -/
structure Drained (s t : State) : Prop where
  only    : ∃ c, t = { s with cores := c }
  lanecyc : ∀ n, (coreOf t n).lanecyc = []
  bbhint  : ∀ n, (coreOf t n).bbhint = []

theorem Drained.updCore {s t : State} (h : Drained s t) (core : Nat) (f : Core → Core)
    (hf : ∀ k, k.lanecyc = [] → k.bbhint = [] → (f k).lanecyc = [] ∧ (f k).bbhint = []) : Drained s (updCore t core f) := by
  have hcore (n : Nat) : (coreOf (Machine.updCore t core f) n).lanecyc = [] ∧ (coreOf (Machine.updCore t core f) n).bbhint = [] := by
    rw [coreOf_updCore]
    split
    · exact hf _ (h.lanecyc core) (h.bbhint core)
    · exact ⟨h.lanecyc n, h.bbhint n⟩
  refine ⟨?_, fun n => (hcore n).1, fun n => (hcore n).2⟩
  obtain ⟨c, rfl⟩ := h.only
  exact ⟨_, rfl⟩

theorem bbFlush_drained {s t : State} (h : Drained s t) (core c : Nat) (base : BitVec 64) : Drained s (bbFlush t core c base) := by
  unfold bbFlush
  simp only [h.bbhint core, List.filterMap_nil, List.foldl_nil]
  exact h.updCore core _ (fun k hl hb => ⟨hl, by simp only [hb, List.filter_nil]⟩)

theorem laneFlush_drained {s t : State} (h : Drained s t) (core c : Nat) : Drained s (laneFlush t core c) := by
  unfold laneFlush
  simp only [h.lanecyc core, List.filter_nil, List.foldl_nil]
  exact h.updCore core _ (fun k hl hb => ⟨by simp only [hl, List.filter_nil], hb⟩)

theorem bbFlushes_drained {s : State} : ∀ (l : List Team) {t : State}, Drained s t →
    Drained s (l.foldl (fun s u => bbFlush s u.core u.ctx u.bbBase) t)
  | [], _, h => h
  | u :: l, _, h => bbFlushes_drained l (bbFlush_drained h u.core u.ctx u.bbBase)

/-- A write registers no watch. -/
theorem writeMem_watches (s : State) (pa n : Nat) (f : Nat → Byte) : ∀ w ∈ (writeMem s pa n f).watches, w ∈ s.watches := by
  have hwake : ∀ (l : List Nat) (s : State), ∀ w ∈ (l.foldl wakeLine s).watches, w ∈ s.watches := by
    intro l
    induction l with
    | nil => exact fun _ _ hw => hw
    | cons a l ih => exact fun s w hw => List.mem_of_mem_filter (ih (wakeLine s a) w hw)
  unfold writeMem
  simp only
  intro w hw
  obtain ⟨c, hc⟩ := sliceWrite_only _ pa n
  rw [hc] at hw
  exact hwake _ { s with mem := mapPut memDefault s.mem pa n f, poison := clearPoison s pa n } w hw

/-- A block that has been saved. -/
def savedBlock (now : BitVec 64) (b : Block) : Block := { b with saving := false, saved := true, refused := false, since := now }

/-- The state without the watches of a block, its side-log entries on no core. -/
def unwatched (s : State) (b : Block) : State :=
  let mine (k : TeamKey) : Bool := decide (k.disp = b.disp) && decide (k.block = b.index)
  { s with watches := s.watches.filter (fun w => !mine w.split.team)
           sideLog := s.sideLog.map (fun e => if mine e.split.team then { e with core := 256 } else e) }

/-- The state with the counters of a block's core written back. -/
def drainedFor (s : State) (b : Block) : State :=
  let s2 := (blockTeams s b).foldl (fun s t => bbFlush s t.core t.ctx t.bbBase) (residency s b 0)
  if ctxOnCore s2 b.ctx b.core (b.disp, b.index) then s2 else laneFlush s2 b.core b.ctx

theorem saveEnd_eq (s : State) (d : Dispatch) (b : Block) : saveEnd s d b =
    (let s3 := drainedFor (unwatched s b) b
     let s4 := updBlock s3 b.disp b.index (savedBlock s.cycle)
     if b.claimable then s4 else writeImage s4 d b) := rfl

theorem drainedFor_spec {s : State} {b : Block} (hslots : ∀ n, n < 16 → (slotOf (ctxOf s b.ctx) n).bound = false)
    (hl : ∀ n, (coreOf s n).lanecyc = []) (hb : ∀ n, (coreOf s n).bbhint = []) : ∃ c, drainedFor s b = { s with cores := c } := by
  have h := bbFlushes_drained (blockTeams s b) (Drained.mk (s := s) ⟨_, rfl⟩ hl hb)
  unfold drainedFor
  rw [residency_none 0 hslots]
  simp only
  split
  · exact h.only
  · exact (laneFlush_drained h b.core b.ctx).only

/-- What the last steps of a save leave. -/
structure SaveEnded (u t : State) (b : Block) : Prop where
  teams   : t.teams = u.teams
  block   : ∃ b', blockOf t b.disp b.index = some b' ∧ b'.saved = true ∧ b'.saving = false ∧ b'.spad = b.spad ∧ b'.tiles = b.tiles ∧
    b'.since = u.cycle ∧ (b.claimable = false → b'.claimable = false)
  mem     : b.claimable = true → t.mem = u.mem
  watches : ∀ w ∈ t.watches, ¬ (w.split.team.disp = b.disp ∧ w.split.team.block = b.index)

/-- The image goes to the save area, and the storage is free. -/
theorem writeImage_spec (s : State) (d : Dispatch) (b : Block) : (writeImage s d b).teams = s.teams ∧
    blockOf (writeImage s d b) b.disp b.index = (blockOf s b.disp b.index).map (fun b => { b with claimable := false }) ∧
    ∀ w ∈ (writeImage s d b).watches, w ∈ s.watches := by
  unfold writeImage
  simp only
  generalize (bits (ctxOf s b.ctx).ctxsave 43 0 * 4096 + 4096 * b.imageAt) % 2 ^ 48 = pa
  generalize 8 * (imageWords s d b).length = n
  generalize (fun i => byteOf ((imageWords s d b).getD (i / 8) 0).toNat (i % 8)) = f
  obtain ⟨_, _, _, h⟩ := writeMem_only s pa n f
  have hwatch := writeMem_watches s pa n f
  refine ⟨by rw [updBlock, h], ?_, hwatch⟩
  rw [blockOf_updBlock _ b.disp b.index (fun b => { b with claimable := false }) b.disp b.index (fun _ => ⟨rfl, rfl⟩), if_pos ⟨rfl, rfl⟩, h]
  rfl

theorem saveEnd_spec {u : State} {d : Dispatch} {b : Block} (hb : blockOf u b.disp b.index = some b)
    (hslots : ∀ n, n < 16 → (slotOf (ctxOf u b.ctx) n).bound = false) (hl : ∀ n, (coreOf u n).lanecyc = []) (hbb : ∀ n, (coreOf u n).bbhint = []) :
    SaveEnded u (saveEnd u d b) b := by
  obtain ⟨c, hdrain⟩ := drainedFor_spec (s := unwatched u b) hslots hl hbb
  rw [saveEnd_eq]
  simp only [hdrain]
  have hblock := blockOf_updBlock { unwatched u b with cores := c } b.disp b.index (savedBlock u.cycle) b.disp b.index (fun _ => ⟨rfl, rfl⟩)
  rw [if_pos ⟨rfl, rfl⟩, show blockOf { unwatched u b with cores := c } b.disp b.index = some b from hb, Option.map_some] at hblock
  have hteams : (updBlock { unwatched u b with cores := c } b.disp b.index (savedBlock u.cycle)).teams = u.teams := rfl
  have hmem : (updBlock { unwatched u b with cores := c } b.disp b.index (savedBlock u.cycle)).mem = u.mem := rfl
  have hwatch : ∀ w ∈ (updBlock { unwatched u b with cores := c } b.disp b.index (savedBlock u.cycle)).watches,
      ¬ (w.split.team.disp = b.disp ∧ w.split.team.block = b.index) := by
    intro w hw
    have hp := (List.mem_filter.mp hw).2
    rwa [Bool.not_eq_true', Bool.eq_false_iff, Ne, Bool.and_eq_true, decide_eq_true_eq, decide_eq_true_eq] at hp
  generalize updBlock { unwatched u b with cores := c } b.disp b.index (savedBlock u.cycle) = s4 at *
  cases hc : b.claimable with
  | true =>
    exact ⟨hteams, ⟨_, hblock, rfl, rfl, rfl, rfl, rfl, fun h => by rw [hc] at h; cases h⟩, fun _ => hmem, hwatch⟩
  | false =>
    obtain ⟨hteamsW, hblockW, hwatchW⟩ := writeImage_spec s4 d b
    rw [hblock, Option.map_some] at hblockW
    exact ⟨hteamsW.trans hteams, ⟨_, hblockW, rfl, rfl, rfl, rfl, rfl, fun _ => rfl⟩, fun h => (by rw [hc] at h; cases h),
      fun w hw => hwatch w (hwatchW w hw)⟩

/-! ### SAVE_BLOCK -/

section SaveBlock
variable {s : State} {k : BitVec 64} {i : Nat} {d : Dispatch} {b : Block}

theorem execSaveBlock_eq (h : s.event = some (.saveBlock k i)) : exec .saveBlock s = .next (saveBlock k i { s with event := none }) := by
  change execSaveBlock s = _
  rw [execSaveBlock, h]

theorem saveBlock_gone (h : dispOf s k = none ∨ blockOf s k i = none) : saveBlock k i s = s := by
  unfold saveBlock
  rcases h with h | h
  · rw [h]
  · cases dispOf s k <;> rw [h]

theorem saveBlock_over (hd : dispOf s k = some d) (hb : blockOf s k i = some b) (h : b.saved = true ∨ b.exited = true) : saveBlock k i s = s := by
  unfold saveBlock
  rw [hd, hb]
  exact if_pos (by rwa [Bool.or_eq_true])

/-- A block that is not yet marked is marked, where its image has room. -/
theorem saveBlock_marks (hd : dispOf s k = some d) (hb : blockOf s k i = some b) (hs : b.saved = false) (he : b.exited = false)
    (hsaving : b.saving = false) : saveBlock k i s = markSave s d b false := by
  obtain ⟨hk, hi⟩ := key_of_blockOf hb
  unfold saveBlock
  rw [hd, hb]
  simp only [hs, he, hsaving]
  cases hfit : imageFit s d with
  | none =>
    rw [markSave_none hfit]
    simp [hb, hsaving]
  | some page =>
    have hmark := blockOf_marked s b.disp b.index s.cycle false page k i
    rw [if_pos ⟨hk.symm, hi.symm⟩, hk, hi, hb, Option.map_some] at hmark
    rw [markSave_some hfit, hk, hi]
    simp [hmark, markedBlock]

/-- In the cycle of the decision its teams go on. -/
theorem saveBlock_waits (hd : dispOf s k = some d) (hb : blockOf s k i = some b) (hsaving : b.saving = true) (hat : b.saveAt = s.cycle) :
    saveBlock k i s = s := by
  unfold saveBlock
  rw [hd, hb]
  simp [hb, hsaving, hat]

/-- The state with the block's splits off the issue queue and without what they have asked for. -/
def withdrawn (s : State) (k : BitVec 64) (i : Nat) (b : Block) : State :=
  ((blockTeams s b).flatMap (fun t => (splitsOf t).map (·.1))).foldl withdrawOne
    { s with issueQ := s.issueQ.filter (fun r => !(decide (r.team.disp = k) && decide (r.team.block = i)))
             watches := s.watches.filter (fun w => !(decide (w.split.team.disp = k) && decide (w.split.team.block = i))) }

theorem withdrawn_splits (s : State) (k : BitVec 64) (i : Nat) (b : Block) : ∃ q w, OnlySplits { s with issueQ := q, watches := w } (withdrawn s k i b) :=
  ⟨_, _, foldl_rel OnlySplits .refl .trans _ withdrawOne_splits _ _⟩

theorem withdrawn_atRest (h : BlockAtRest s k i) : BlockAtRest (withdrawn s k i b) k i :=
  withdrawAll_atRest _ ⟨fun u hu hk hi => (h.teams u hu hk hi).of_owes rfl, h.xeOps⟩

/-- A block at rest is saved. -/
theorem saveBlock_ends (hd : dispOf s k = some d) (hb : blockOf s k i = some b) (hs : b.saved = false) (he : b.exited = false)
    (hsaving : b.saving = true) (hat : b.saveAt ≠ s.cycle) (hrest : BlockAtRest s k i) : saveBlock k i s = saveEnd (withdrawn s k i b) d b := by
  obtain ⟨hk, hi⟩ := key_of_blockOf hb
  have hr : BlockAtRest (withdrawn s k i b) b.disp b.index := by
    rw [hk, hi]
    exact withdrawn_atRest hrest
  unfold saveBlock
  rw [hd, hb]
  refine (if_neg (by rw [hs, he]; exact Bool.false_ne_true)).trans ?_
  simp only [hsaving, if_true, hb]
  refine (if_neg (by simp [hat])).trans ?_
  change (if saveWork (withdrawn s k i b) b ≠ [] then _ else if saveOver (withdrawn s k i b) b = true then _ else _) = _
  rw [if_neg (fun h => h (saveWork_none hr)), if_pos (saveOver_rest hr)]
  rfl

end SaveBlock

/-! ### CONC_RESERVE (R424, R434) -/

section Reserve
variable {s : State} {id : BitVec 64} {d : Dispatch}

theorem execConcReserve_eq (h : s.event = some (.concReserve id)) : exec .concReserve s = .next (concReserve id { s with event := none }) := by
  change execConcReserve s = _
  rw [execConcReserve, h]

theorem concReserve_gone (h : dispOf s id = none) : concReserve id s = s := by
  unfold concReserve
  rw [h]

theorem concReserve_over (hd : dispOf s id = some d) (h : d.reserved ≠ [] ∨ d.stop.isSome = true) : concReserve id s = s := by
  unfold concReserve
  rw [hd]
  exact if_pos h

theorem concReserve_full (hd : dispOf s id = some d) (hres : d.reserved = []) (hstop : d.stop = none) (h : reserveCores id (toPlace s d) s [] = none) :
    concReserve id s = s := by
  unfold concReserve
  rw [hd]
  simp only [hres, hstop, h]
  exact if_neg (by simp)

theorem concReserve_reserves (hd : dispOf s id = some d) (hres : d.reserved = []) (hstop : d.stop = none) {l : List Nat}
    (h : reserveCores id (toPlace s d) s [] = some l) : concReserve id s = updDisp s id (fun d => { d with reserved := l }) := by
  unfold concReserve
  rw [hd]
  simp only [hres, hstop, h]
  exact if_neg (by simp)

/-- Every block has its place. -/
theorem reserveCores_length : ∀ {n : Nat} {s : State} {acc l : List Nat}, reserveCores id n s acc = some l → l.length = n + acc.length
  | 0, _, acc, l, h => by
    cases h
    exact (Nat.zero_add _).symm
  | n + 1, s, acc, l, h => by
    unfold reserveCores at h
    split at h
    · cases h
    · split at h
      · rw [reserveCores_length h, List.length_append, List.length_singleton]
        omega
      · cases h

end Reserve

/-! ### What a placement leaves -/

section Prepare
variable {s u : State} {d : Dispatch}

theorem Prepared.slotOf (h : Prepared s u d) (c n : Nat) : slotOf (ctxOf u c) n = slotOf (ctxOf s c) n := by
  have e := congrArg Ctx.grids (h.ctxs c)
  unfold Machine.slotOf
  exact congrArg (mapGet GridSlot.reset · n) e

theorem Prepared.cmplpool (h : Prepared s u d) (c : Nat) : (ctxOf u c).cmplpool = (ctxOf s c).cmplpool := by
  have e := congrArg Ctx.cmplpool (h.ctxs c)
  exact e

theorem Prepared.pages (h : Prepared s u d) (c : Nat) : (ctxOf u c).pages = (ctxOf s c).pages := by
  have e := congrArg Ctx.pages (h.ctxs c)
  exact e

theorem Prepared.teams (h : Prepared s u d) : u.teams = s.teams := by
  obtain ⟨_, _, _, _, rfl⟩ := h.only
  rfl

theorem Prepared.blocks (h : Prepared s u d) : u.blocks = s.blocks := by
  obtain ⟨_, _, _, _, rfl⟩ := h.only
  rfl

theorem Prepared.mem (h : Prepared s u d) : u.mem = s.mem := by
  obtain ⟨_, _, _, _, rfl⟩ := h.only
  rfl

theorem Prepared.freeArea (h : Prepared s u d) (c : Nat) : freeArea u c = freeArea s c := by
  unfold Machine.freeArea
  rw [h.cmplpool, h.blocks]

theorem Prepared.blockOf (h : Prepared s u d) (k : BitVec 64) (i : Nat) : blockOf u k i = blockOf s k i := by
  unfold Machine.blockOf
  rw [h.blocks]

end Prepare

/-- What a program finds of a team at its start (R219, R270). -/
theorem StartedAt.holds {d : Dispatch} {i core : Nat} {g : Seat} {u : Team} (h : StartedAt d i core g u) : ∃ sp, u.core = core ∧ u.part = g.part ∧
    u.slot = g.slot ∧ u.rows = d.rows ∧ u.nv = d.nv ∧ u.vregs = [] ∧ u.sregs = [] ∧ u.preds = [] ∧ u.absent = 0 ∧ u.high = none ∧ u.low = some sp ∧
    sp.pc = d.ka + BitVec.ofNat 56 d.entry ∧ sp.mode = modeReset ∧ sp.stack = [] ∧ sp.handler = none ∧
    ∀ l, l < min 1024 (32 * d.rows) → laneIn sp.mask l = true := by
  obtain ⟨n, v, rfl⟩ := h
  refine ⟨_, rfl, rfl, rfl, rfl, rfl, rfl, rfl, rfl, rfl, rfl, rfl, rfl, rfl, rfl, rfl, fun l hl => ?_⟩
  exact (laneIn_maskOf _ _ l).trans (by simp; omega)

theorem blockOf_placed {u t : State} {d : Dispatch} {i : Nat} {p : CoreRoom} (h : PlacedNew u t d i p) (hfresh : blockOf u d.id i = none) :
    blockOf t d.id i = some (newBlock u d i p) := by
  unfold blockOf at hfresh ⊢
  rw [h.blocks, List.find?_append, hfresh, Option.none_or, List.find?_singleton]
  exact if_pos (decide_eq_true ⟨rfl, rfl⟩)

/-- Settles O47: a placement by what it prepares and what the block then takes, a save by the block at rest. -/
theorem placementSteps : Obligations.PlacementSteps := by
  unfold Obligations.PlacementSteps
  intro s s0 noSlots
  refine ⟨fun he hres => ⟨fun hempty => ?_, fun d p i o href hserved hclaim hnext hd => ⟨?_, ?_⟩⟩, fun id he => ⟨fun hgone => ?_, fun d hd => ⟨?_, ?_, ?_⟩⟩,
    fun c he => ⟨fun hnone => ?_, ?_⟩, fun k i he => ⟨fun hgone => ?_, fun d b hd hb => ⟨?_, ?_, ?_, ?_, ?_⟩⟩⟩
  · rw [execBlockPlace_eq he, blockPlace_empty hres hempty]
  · intro ho hseats hnodup hfresh hslots hteams
    subst ho
    rw [execBlockPlace_eq he, blockPlace_serves hres href hserved, placeOn_new hnext]
    have hprep := prepared_spec hclaim s0 d i
    have hcsram := prepared_csramcfg (s := s0) (d := d) i hclaim hseats
    obtain ⟨a, ha⟩ := freeArea_of_place hnext (servedFirst_found hserved)
    generalize prepared d p i s0 = u at hprep hcsram ⊢
    have hplaced : PlacedNew u (placeNew d i p u) d i p := placeNew_spec (fun n hn => by rw [hprep.slotOf]; exact hslots n hn)
    have harea : freeArea u d.cmd.ctx = some a := (hprep.freeArea _).trans ha
    have hteamU (k : TeamKey) : teamOf u k = teamOf s k := teamOf_congr hprep.teams k
    refine ⟨_, _, rfl, blockOf_placed hplaced ((hprep.blockOf _ _).trans hfresh), rfl, rfl, rfl, rfl, rfl, fun v hv hctx => ?_, ?_, fun hh => ?_, ?_,
      fun g hg => ?_, fun k hk => ?_⟩
    · have hne := freeArea_free ha v hv hctx
      unfold newBlock
      rw [harea]
      exact hne
    · rw [hplaced.disp, hprep.disp, show dispOf s0 d.id = some d from hd]
      rfl
    · rw [coreOf, hplaced.cores]
      exact hcsram hh
    · intro pa a
      have hpa : newArea u d = pa := by
        unfold newArea areaPa
        rw [hprep.cmplpool]
        rfl
      rw [hplaced.bytes, hpa, readByte, readByte, hprep.mem]
    · obtain ⟨v, hv, hstart⟩ := hplaced.teams hnodup (fun g hg => (hteamU _).trans (hteams g hg)) g hg
      obtain ⟨sp, hsp⟩ := hstart.holds
      exact ⟨v, sp, hv, hsp⟩
    · have hother := hplaced.others k (fun g _ e => hk (by rw [e]; exact ⟨rfl, rfl⟩))
      rw [teamRegs, hother, hteamU, teamRegs]
  · intro b ho hb hpages hslots
    subst ho
    rw [execBlockPlace_eq he, blockPlace_serves hres href hserved, placeOn_saved hnext]
    have hprep := prepared_spec hclaim s0 d i
    generalize prepared d p i s0 = u at hprep ⊢
    obtain ⟨hk, hi⟩ := key_of_blockOf hb
    obtain ⟨hregs, hmem, hblock⟩ := restore_spec (s := u) (b := b) (p := p) ((hprep.pages _).trans hpages)
      (fun n hn => by rw [hprep.slotOf]; exact hslots n hn)
    rw [hk, hi, hprep.blockOf, show blockOf s0 d.id i = some b from hb] at hblock
    exact ⟨_, _, rfl, hblock, rfl, rfl, rfl, rfl, rfl, hmem.trans hprep.mem, (SameRegs.of_teams (s := s) (t := u) hprep.teams).trans hregs⟩
  · rw [execConcReserve_eq he, concReserve_gone (s := s0) hgone]
  · intro hover
    rw [execConcReserve_eq he, concReserve_over (s := s0) hd hover]
  · intro hr hstop hfull
    rw [execConcReserve_eq he, concReserve_full (s := s0) hd hr hstop hfull]
  · intro l hr hstop hl
    rw [execConcReserve_eq he, concReserve_reserves (s := s0) hd hr hstop hl]
    refine ⟨reserveCores_length hl, _, rfl, .of_eq rfl rfl rfl rfl, rfl, ?_⟩
    rw [dispOf_updDisp s0 id (fun d => { d with reserved := l }) id (fun _ => rfl), if_pos rfl, show dispOf s0 id = some d from hd]
    rfl
  · rw [execTimeSliceExpire_eq he, timeSliceExpire_none (s := s0) hnone]
  · intro b d page hb hv hlt hblock hmax hd hcls hfit
    obtain ⟨lazy, hmark⟩ := timeSliceExpire_marks (s := s0) hb hv hlt hmax hd hcls hfit
    have hat := blockOf_marked s0 b.disp b.index s0.cycle lazy page
    have hself := (hat b.disp b.index).trans (if_pos ⟨rfl, rfl⟩)
    rw [show blockOf s0 b.disp b.index = some b from hblock] at hself
    rw [execTimeSliceExpire_eq he, hmark]
    exact ⟨_, _, rfl, .of_eq rfl rfl rfl rfl, hself, rfl, rfl, rfl, rfl, fun k i hne => (hat k i).trans (if_neg hne)⟩
  · rw [execSaveBlock_eq he, saveBlock_gone (s := s0) hgone]
  · intro hover
    rw [execSaveBlock_eq he, saveBlock_over (s := s0) hd hb hover]
  · intro hs hx hsaving hfit
    rw [execSaveBlock_eq he, saveBlock_marks (s := s0) hd hb hs hx hsaving, markSave_none hfit]
  · intro hs hx hsaving page hfit
    rw [execSaveBlock_eq he, saveBlock_marks (s := s0) hd hb hs hx hsaving, markSave_some hfit]
    have hself := (blockOf_marked s0 b.disp b.index s0.cycle false page b.disp b.index).trans (if_pos ⟨rfl, rfl⟩)
    obtain ⟨hk, hi⟩ := key_of_blockOf hb
    rw [hk, hi, show blockOf s0 k i = some b from hb] at hself
    rw [hk, hi]
    exact ⟨_, _, rfl, .of_eq rfl rfl rfl rfl, hself, rfl, rfl, rfl⟩
  · intro hsaving hat
    rw [execSaveBlock_eq he, saveBlock_waits (s := s0) hd hb hsaving hat]
  · intro hs hx hsaving hat hxe hslots hlane hbb hquiet
    have hrest : BlockAtRest s0 k i := ⟨fun u hu hk hi => by
      obtain ⟨hin, howes, hlow, hhigh⟩ := hquiet u hu hk hi
      exact ⟨hin, howes, hlow, hhigh⟩, hxe⟩
    obtain ⟨q, w, hmoved, _, _, _, _, _, _, honly⟩ := withdrawn_splits s0 k i b
    obtain ⟨hk, hi⟩ := key_of_blockOf hb
    rw [execSaveBlock_eq he, saveBlock_ends (s := s0) hd hb hs hx hsaving hat hrest]
    have hblock : blockOf (withdrawn s0 k i b) b.disp b.index = some b := by
      rw [hk, hi, blockOf, honly]
      exact hb
    have hend := saveEnd_spec (u := withdrawn s0 k i b) (d := d) hblock (fun n hn => by rw [honly]; exact hslots n hn)
      (fun n => by rw [honly]; exact hlane n) (fun n => by rw [honly]; exact hbb n)
    have hcycle : (withdrawn s0 k i b).cycle = s.cycle := by rw [honly]
    have hmem : (withdrawn s0 k i b).mem = s.mem := by rw [honly]
    generalize withdrawn s0 k i b = u at *
    obtain ⟨hteams, ⟨b', hb', hsaved, hnot, hspad, htiles, hsince, hkept⟩, hmemEnd, hwatch⟩ := hend
    rw [hk, hi] at hb' hwatch
    have hregs : SameRegs s u := (SameRegs.of_teams (s := s) (t := { s0 with issueQ := q, watches := w }) rfl).trans hmoved.regs
    exact ⟨_, b', rfl, hregs.trans (.of_teams hteams), hb', hsaved, hnot, hspad, htiles, hsince.trans hcycle, hkept, fun hc => (hmemEnd hc).trans hmem, hwatch⟩

end Sys2Proof.Machine
end

section
/-! THE BAND RING (O38, R88 to R91, R155, R163, R167, R171, R180, R473, R474, R484, R485): the effect of a message at the stop it reaches. -/
namespace Sys2Proof.Machine
open Sys2Proof.Forms

section Rows
variable {s : State} {m : BandMsg}

theorem execConfigurationRead_eq (h : s.event = some (.configurationRead m)) :
    exec .configurationRead s = .next (configurationRead m { s with event := none }) := by
  change execConfigurationRead s = _
  rw [execConfigurationRead, h]

theorem execConfigurationWrite_eq (h : s.event = some (.configurationWrite m)) :
    exec .configurationWrite s = .next (applyConfig { s with event := none } m.addr.toNat (m.payload.headD 0)) := by
  change execConfigurationWrite s = _
  rw [execConfigurationWrite, h]

theorem execReadReply_eq (h : s.event = some (.readReply m)) :
    exec .readReply s = .next (readReply m { s with event := none }) := by
  change execReadReply s = _
  rw [execReadReply, h]

theorem execBandWake_eq (h : s.event = some (.bandWake m)) :
    exec .bandWake s = .next { s with event := none, routersAwake := (m.dest :: s.routersAwake).eraseDups } := by
  change execBandWake s = _
  rw [execBandWake, h]

theorem execBandInterrupt_eq (h : s.event = some (.bandInterrupt m)) :
    exec .bandInterrupt s = .next { s with event := none, hostOut := s.hostOut ++ [.bandCode m.source m.addr] } := by
  change execBandInterrupt s = _
  rw [execBandInterrupt, h]

theorem execBandManagement_eq (h : s.event = some (.bandManagement m)) : exec .bandManagement s = .next { s with event := none } := by
  change execBandManagement s = _
  rw [execBandManagement, h]

theorem execBandInvalidRemove_eq (h : s.event = some (.bandInvalidRemove m)) :
    exec .bandInvalidRemove s = .next { s with event := none, banderr := s.banderr + 1, hostOut := told s 4 7 } := by
  change execBandInvalidRemove s = _
  rw [execBandInvalidRemove, h]
  exact congrArg _ (mgmtInterrupt_eq _ 7)

theorem execQuarterWakeReady_eq {q : Nat} (h : s.event = some (.quarterWakeReady q)) :
    exec .quarterWakeReady s = .next { s with event := none, wakeAt := if (mapGet 0 s.wakeAt q).toNat ≤ s.cycle.toNat then mapSet 0 s.wakeAt q 0
      else s.wakeAt } := by
  change execQuarterWakeReady s = _
  rw [execQuarterWakeReady, h]

end Rows

/-! ### Configuration writes (R91, R155, R163, R167, R171, R180, R473, R474) -/

theorem bits_setWidth {n k : Nat} (v : BitVec n) {hi lo : Nat} (h : hi < k) : bits (v.setWidth k) hi lo = bits v hi lo := by
  refine Nat.eq_of_testBit_eq fun i => ?_
  rw [testBit_bits, testBit_bits, BitVec.getLsbD_setWidth]
  by_cases hi' : i < hi + 1 - lo
  · rw [decide_eq_true (p := lo + i < k) (by omega), Bool.true_and]
  · rw [decide_eq_false hi', Bool.false_and, Bool.false_and]

/-- A read of a map in which some keys have been set to one value. -/
theorem mapGet_setAll {α : Type} [DecidableEq α] (d x : α) (k : Nat) : ∀ (l : List Nat) (m : SMap α),
    mapGet d (l.foldl (fun m q => mapSet d m q x) m) k = if k ∈ l then x else mapGet d m k
  | [], m => rfl
  | q :: l, m => by
    rw [List.foldl_cons, mapGet_setAll d x k l, mapGet_set]
    by_cases hq : k = q <;> by_cases hl : k ∈ l <;> simp [hq, hl]

/-- Emptying the caches of gated quarters changes translation caches and cores. -/
theorem emptied_only (l : List Nat) (u : State) :
    ∃ c : SMap (Cache TlbEntry) × SMap Core, l.foldl (fun s q => l1DropIn (tlbDrop s (q, 1) (fun _ => true)) (q, 1)) u = { u with tlb := c.1, cores := c.2 } :=
  foldl_only (fun s (c : SMap (Cache TlbEntry) × SMap Core) => { s with tlb := c.1, cores := c.2 }) (fun s => (s.tlb, s.cores)) (fun _ => rfl)
    (fun _ _ _ => rfl) _ (fun _ _ => ⟨(_, _), rfl⟩) l u

/-- A write of PWRGATE leaves its four bits and the wake times of the quarters whose bit has cleared. -/
theorem writePwrgate_spec (u : State) (v : Word) : Quiet u (writePwrgate u v) ∧ (writePwrgate u v).pwrgate = v &&& 0xF ∧
    ∀ q, q < 4 → mapGet 0 (writePwrgate u v).wakeAt q = if u.pwrgate.getLsbD q && !v.getLsbD q then u.cycle + 1200 else mapGet 0 u.wakeAt q := by
  unfold writePwrgate
  simp only
  obtain ⟨c, hc⟩ := emptied_only ((List.range 4).filter (fun q => !u.pwrgate.getLsbD q && v.getLsbD q)) u
  rw [hc]
  refine ⟨.of_eq rfl rfl rfl rfl, rfl, fun q hq => ?_⟩
  refine (mapGet_setAll _ _ _ _ _).trans ?_
  simp only [List.mem_filter, List.mem_range, hq, true_and]

section Writes
variable (u : State) (v : BitVec 64)

theorem applyConfig_hlthcfg : applyConfig u 0x010000 v = { u with hlthcfg := v.setWidth 32 &&& 0xFFFF } := rfl

theorem applyConfig_thermcfg : applyConfig u 0x020000 v =
    { u with thermcfg := if bits v 7 0 < bits v 15 8 then v.setWidth 32 &&& 0xFFFFFF else u.thermcfg } := by
  change (if bits (v.setWidth 32) 7 0 < bits (v.setWidth 32) 15 8 then _ else u) = _
  rw [bits_setWidth v (by decide), bits_setWidth v (by decide)]
  split <;> rfl

theorem applyConfig_thold : applyConfig u 0x020010 v = { u with thold := v.setWidth 32 &&& 0xF } := rfl
theorem applyConfig_pwrgate : applyConfig u 0x030040 v = writePwrgate u (v.setWidth 32) := rfl

theorem applyConfig_fabcfg (h : anyEnabled u = false) : applyConfig u 0x030048 v = { u with fabcfg := v &&& 0x003FFFFFFFFFFFFF } := by
  change writeFabcfg u v = _
  rw [writeFabcfg, h]
  rfl

theorem applyConfig_fabrte : applyConfig u 0x030050 v = { u with fabrte := v.setWidth 32 &&& 0x1FFFF } := rfl
theorem applyConfig_fabqos : applyConfig u 0x030058 v = { u with fabqos := v.setWidth 32 } := rfl
theorem applyConfig_fabrto : applyConfig u 0x030060 v = { u with fabrto := v.setWidth 32 &&& 0x0FFFFFFF } := rfl

theorem applyConfig_fabacl {off : Nat} (h : 0x031000 ≤ off ∧ off < 0x031800) :
    applyConfig u off v = { u with fabacl := mapSet 0 u.fabacl ((off - 0x031000) / 8) (v &&& 0xFFFFFFFFFF) } := if_pos h

end Writes

/-! ### Read replies (R485) -/

theorem readReply_ignored {s : State} {m : BandMsg} (h : bits s.mbstat 1 0 ≠ 1 ∨ m.dest ≠ 0) : readReply m s = s :=
  if_neg (fun hb => h.elim (· hb.1) (· hb.2))

theorem readReply_taken {s : State} {m : BandMsg} (hb : bits s.mbstat 1 0 = 1) (hd : m.dest = 0) :
    readReply m s = { s with mbdata := m.payload.headD 0, mbstat := 2, hostOut := told s 4 6 } := by
  rw [readReply, if_pos ⟨hb, hd⟩]
  exact mgmtInterrupt_eq _ 6

/-- Settles O38: each message by the register, list or reply it acts on. -/
theorem bandSteps : Obligations.BandSteps := by
  intro s m
  refine ⟨execConfigurationRead_eq, fun he => ?_, fun he => ?_, fun he => ?_, execBandInterrupt_eq, execBandManagement_eq,
    execBandInvalidRemove_eq, fun q he => ?_⟩
  · rw [execConfigurationWrite_eq he]
    refine ⟨fun ha => ?_, fun ha => ?_, fun ha => ?_, fun ha hen => ?_, fun ha => ?_, fun ha => ?_, fun ha => ?_, fun hlo hhi => ?_, fun ha => ?_⟩
    · rw [ha]
      exact congrArg _ (applyConfig_hlthcfg _ _)
    · rw [ha]
      exact congrArg _ (applyConfig_thermcfg _ _)
    · rw [ha]
      exact congrArg _ (applyConfig_thold _ _)
    · rw [ha]
      exact congrArg _ (applyConfig_fabcfg _ _ hen)
    · rw [ha]
      exact congrArg _ (applyConfig_fabrte _ _)
    · rw [ha]
      exact congrArg _ (applyConfig_fabqos _ _)
    · rw [ha]
      exact congrArg _ (applyConfig_fabrto _ _)
    · rw [applyConfig_fabacl _ _ ⟨hlo, hhi⟩]
      exact ⟨_, rfl, rfl, fun k => mapGet_set _ _ _ _ _⟩
    · rw [ha]
      obtain ⟨hq, hp, hw⟩ := writePwrgate_spec { s with event := none } ((m.payload.headD 0).setWidth 32)
      refine ⟨_, congrArg _ (applyConfig_pwrgate _ _), (quiet_taken s).trans hq, hp, fun q hlt => ?_⟩
      rw [hw q hlt, BitVec.getLsbD_setWidth, decide_eq_true (show q < 32 by omega), Bool.true_and]
  · rw [execReadReply_eq he]
    exact ⟨fun h => congrArg _ (readReply_ignored h), fun hb hd => congrArg _ (readReply_taken hb hd)⟩
  · refine ⟨_, execBandWake_eq he, rfl, fun r => ?_⟩
    rw [List.mem_eraseDups, List.mem_cons]
  · refine ⟨_, execQuarterWakeReady_eq he, rfl, fun k => ?_⟩
    by_cases ht : (mapGet 0 s.wakeAt q).toNat ≤ s.cycle.toNat
    · simp only [ht, if_true, and_true]
      exact mapGet_set _ _ _ _ _
    · simp only [ht, if_false, and_false]

end Sys2Proof.Machine
end

section
/-! THE PACKAGE NETWORK (O37, R66 to R71, R74 to R78, R160 to R167): the route of a packet and its hop, packets at the fabric's ports, and
the ingress sequencer. -/
namespace Sys2Proof.Machine
open Sys2Proof.Forms

section Rows
variable {s : State}

theorem execPacketHop_eq {n : Nat} (h : s.event = some (.packetHop n)) : exec .packetHop s = .next (packetHop n { s with event := none }) := by
  change execPacketHop s = _
  rw [execPacketHop, h]

theorem execRefreshTick_eq {p : Nat} (h : s.event = some (.refreshTick p)) :
    exec .refreshTick s = .next { s with event := none, refreshed := mapSet 0 s.refreshed p s.cycle } := by
  change execRefreshTick s = _
  rw [execRefreshTick, h]

theorem execPatrolScrub_eq (h : s.event = some .patrolScrub) :
    exec .patrolScrub s = .next { s with event := none, patrol := (s.patrol + 1) % patrolLines } := by
  change execPatrolScrub s = _
  rw [execPatrolScrub, h]

theorem execHostPostedWrite_eq {fn pa : Nat} {l : List Byte} (h : s.event = some (.hostPostedWrite fn pa l)) :
    exec .hostPostedWrite s = .next (hostPostedWrite fn pa l { s with event := none }) := by
  change execHostPostedWrite s = _
  rw [execHostPostedWrite, h]

theorem execSequencerSend_eq {fn : Nat} (h : s.event = some (.sequencerSend fn)) :
    exec .sequencerSend s = .next (sequencerSend fn { s with event := none }) := by
  change execSequencerSend s = _
  rw [execSequencerSend, h]

theorem execHostRead_eq {fn pa n : Nat} (h : s.event = some (.hostRead fn pa n)) :
    exec .hostRead s = .next (hostRead fn pa n { s with event := none }) := by
  change execHostRead s = _
  rw [execHostRead, h]

end Rows

/-! ### Routes (R68, R69) -/

section Routes
variable {p : NetPkt} {q x y l dq dx dy dl : Nat}

/-- On its layer a packet moves along x, then along y. -/
theorem netRoute_layer (ha : p.at_ = some (q, x, y, l)) (hd : p.dest = some (q, dx, dy, l)) (hl : l ≤ 1) :
    netRoute p = (moveXY q x y l dx dy).getD .arrived := by
  unfold netRoute
  rw [ha, hd]
  have : l = 0 ∨ l = 1 := by omega
  obtain rfl | rfl := this
  · simp only [and_self, if_true]
  · simp only [Nat.one_ne_zero, and_false, if_false, if_true]
    cases moveXY q x y 1 dx dy <;> rfl

/-- A packet for the cache layer goes down from the compute layer where it stands. -/
theorem netRoute_down (ha : p.at_ = some (q, x, y, 0)) (hd : p.dest = some (dq, dx, dy, 1)) : netRoute p = .port 0 (q, x, y, 1) := by
  unfold netRoute
  rw [ha, hd]
  simp

/-- Over its destination a packet goes up to the compute layer. -/
theorem netRoute_up (ha : p.at_ = some (q, x, y, 1)) (hd : p.dest = some (q, x, y, 0)) : netRoute p = .port 0 (q, x, y, 0) := by
  unfold netRoute
  rw [ha, hd]
  simp [moveXY]

/-- A packet for another quarter goes down to the cache layer. -/
theorem netRoute_leaves (ha : p.at_ = some (q, x, y, 0)) (hd : p.dest = some (dq, dx, dy, dl)) (hq : q ≠ dq) :
    netRoute p = .port 0 (q, x, y, 1) := by
  unfold netRoute
  rw [ha, hd]
  simp [hq]

/-- There it moves west, toward the bridge at x = 0. -/
theorem netRoute_west (ha : p.at_ = some (q, x, y, 1)) (hd : p.dest = some (dq, dx, dy, dl)) (hq : q ≠ dq) (hx : x ≠ 0) :
    netRoute p = .port 4 (q, x - 1, y, 1) := by
  unfold netRoute
  rw [ha, hd]
  simp [hq, hx]

end Routes

/-! ### Hops (R66 to R70) -/

/-- The hop of PACKET_HOP `n` takes the packet `p` to `a`; its access and its destination go with it. -/
def HopsTo (s : State) (n : Nat) (p : NetPkt) (a : Nat × Nat × Nat × Nat) : Prop :=
  ∃ t p', exec .packetHop s = .next t ∧ Quiet s t ∧ t.network = s.network.set n p' ∧ p'.at_ = some a ∧ p'.dest = p.dest ∧ p'.req = p.req

theorem hopTo_port {p : NetPkt} {d : Nat} {a : Nat × Nat × Nat × Nat} (hr : netRoute p = .port d a) :
    (hopTo p).at_ = some a ∧ (hopTo p).dest = p.dest ∧ (hopTo p).req = p.req := by
  unfold hopTo
  rw [hr]
  exact ⟨rfl, rfl, rfl⟩

theorem netHop_port {s : State} {n : Nat} {p : NetPkt} {d : Nat} {a : Nat × Nat × Nat × Nat} (hp : s.network[n]? = some p)
    (hr : netRoute p = .port d a) :
    netHop n s = { s with arb := mapSet 0 s.arb (outKey p) (p.inp + 1), network := s.network.set n (hopTo p) } := by
  rw [netHop, hp]
  simp only [hr]

theorem netHop_arrived {s : State} {n : Nat} {p : NetPkt} (hp : s.network[n]? = some p) (hr : netRoute p = .arrived) :
    netHop n s = { s with arb := mapSet 0 s.arb (outKey p) (p.inp + 1), network := s.network.eraseIdx n
                          agenda := s.agenda ++ [.sliceAccess p.req] } := by
  rw [netHop, hp]
  simp only [hr]
  rfl

section Hop
variable {s : State} {n : Nat} {p : NetPkt} (he : s.event = some (.packetHop n)) (hn : n < 65536) (hp : s.network[n]? = some p)
include he hn hp

theorem packetHop_port {d : Nat} {a : Nat × Nat × Nat × Nat} (hr : netRoute p = .port d a) : HopsTo s n p a := by
  refine ⟨_, hopTo p, execPacketHop_eq he, ?_⟩
  rw [packetHop, if_pos hn, netHop_port (s := { s with event := none }) hp hr]
  exact ⟨.of_eq rfl rfl rfl rfl, rfl, hopTo_port hr⟩

theorem packetHop_arrived (hr : netRoute p = .arrived) : ∃ t, exec .packetHop s = .next t ∧ Quiet s t ∧
    t.network = s.network.eraseIdx n ∧ t.agenda = s.agenda ++ [.sliceAccess p.req] := by
  refine ⟨_, execPacketHop_eq he, ?_⟩
  rw [packetHop, if_pos hn, netHop_arrived (s := { s with event := none }) hp hr]
  exact ⟨.of_eq rfl rfl rfl rfl, rfl, rfl⟩

end Hop

/-! ### Ports of the fabric router (R160 to R167) -/

theorem newHead_pkts (s : State) (gone : PortPkt) (l : List PortPkt) : (newHead s gone l).map (·.pkt) = l.map (·.pkt) := by
  unfold newHead
  split
  · refine List.ext_getElem? fun i => ?_
    rw [List.getElem?_map, List.getElem?_map, List.getElem?_modify]
    split
    · cases l[i]? <;> rfl
    · cases l[i]? <;> rfl
  · rfl

theorem portHop_down {s : State} {n : Nat} {p : PortPkt} (hp : s.portQ[n]? = some p) (h : portUp s p.port = false) : portHop n s = s := by
  rw [portHop, hp]
  simp [h]

theorem portHop_up {s : State} {n : Nat} {p : PortPkt} (hp : s.portQ[n]? = some p) (h : portUp s p.port = true) : Quiet s (portHop n s) ∧
    (portHop n s).portQ.map (·.pkt) = (s.portQ.eraseIdx n).map (·.pkt) ∧
    (portHop n s).outbox = if egress s 1 then s.outbox ++ [(p.port, p.pkt)] else s.outbox := by
  rw [portHop, hp]
  simp only [h, if_true]
  exact ⟨.of_eq rfl rfl rfl rfl, newHead_pkts _ _ _, trivial⟩

/-! ### Posted writes and reads (R76 to R78) -/

/-- A write within a line is one piece. -/
theorem linePieces_one {pa : Nat} {l : List Byte} (hl : l ≠ []) (h : pa % 128 + l.length ≤ 128) : linePieces (l.length + 1) pa l = [(pa, l)] := by
  obtain _ | ⟨b, r⟩ := l
  · exact absurd rfl hl
  · rw [linePieces, List.take_of_length_le (by omega), List.drop_of_length_le (by omega)]
    · rfl
    · exact fun h => by cases h

theorem hostPostedWrite_discards {s : State} {fn pa : Nat} {l : List Byte} (hl : l ≠ []) (hline : pa % 128 + l.length ≤ 128)
    (h : fnGated s fn = true ∨ fnReaches s fn pa l.length = false) : hostPostedWrite fn pa l s = s := by
  rw [hostPostedWrite, linePieces_one hl hline]
  exact if_pos (h.imp id (fun h => by simp [h]))

theorem hostPostedWrite_posts {s : State} {fn pa : Nat} {l : List Byte} (hl : l ≠ []) (hline : pa % 128 + l.length ≤ 128)
    (hg : fnGated s fn = false) (hr : fnReaches s fn pa l.length = true) : hostPostedWrite fn pa l s = { s with
      posted := s.posted ++ [{ fn := fn, num := s.postedNum, pieces := [(pa, l)], sent := false, reg := none }]
      postedNum := s.postedNum + 1, agenda := s.agenda ++ [.sequencerSend fn] } := by
  have hpieces : [(pa, l)].filter (fun p => fnReaches s fn p.1 p.2.length) = [(pa, l)] := by simp [hr]
  rw [hostPostedWrite, linePieces_one hl hline, hpieces]
  exact if_neg (by simp [hg])

/-- The packet of a piece of a posted write. -/
def piecePkt (s : State) (fn num : Nat) (x : Nat × List Byte) : NetPkt :=
  { cls := 0, at_ := none, dest := some (homeNode s (partOfQuarter s fn) x.1), src := 4, second := true, inp := 32,
    req := { pa := x.1, op := .write, size := x.2.length, data := BitVec.ofNat 1024 (leNat (fun i => x.2.getD i 0) 0 x.2.length),
             cmp := 0, src := some (fn, num) } }

section Sequencer
variable {s : State} {fn : Nat} {p : Posted}

theorem sequencerSend_sent (hp : s.posted.find? (fun p => decide (p.fn = fn)) = some p) (hr : p.reg = none) (hs : p.sent = true) :
    sequencerSend fn s = s := by
  rw [sequencerSend, hp]
  simp [hr, hs]

theorem sequencerSend_sends (hp : s.posted.find? (fun p => decide (p.fn = fn)) = some p) (hr : p.reg = none) (hs : p.sent = false) :
    sequencerSend fn s = { s with network := s.network ++ p.pieces.map (piecePkt s fn p.num)
                                  posted := s.posted.map (fun q => if q = p then { q with sent := true } else q) } := by
  rw [sequencerSend, hp]
  simp only [hr, hs]
  rfl

theorem mem_markSent {l : List Posted} {c : Posted} (h : c ∈ l.map (fun q => if q = p then { q with sent := true } else q)) :
    c = { p with sent := true } ∨ (c ∈ l ∧ c ≠ p) := by
  obtain ⟨q, hq, rfl⟩ := List.mem_map.mp h
  by_cases hqp : q = p
  · exact .inl (by rw [if_pos hqp, hqp])
  · exact .inr (by rw [if_neg hqp]; exact ⟨hq, hqp⟩)

end Sequencer

section Reads
variable {s : State} {fn pa n : Nat}

theorem hostRead_waits (hreads : s.hostReads = []) (h : ∃ p ∈ s.posted, p.fn = fn ∧ p.num < s.postedNum) :
    hostRead fn pa n s = { s with hostReads := [(fn, pa, n, s.postedNum)] } := by
  have hheld : s.posted.any (fun p => decide (p.fn = fn) && decide (p.num < s.postedNum)) = true := by
    obtain ⟨p, hp, hfn, hnum⟩ := h
    exact List.any_eq_true.mpr ⟨p, hp, by simp [hfn, hnum]⟩
  simp [hostRead, answerReads, hreads, hheld]

theorem hostRead_answers (hreads : s.hostReads = []) (h : ∀ p ∈ s.posted, p.fn = fn → s.postedNum ≤ p.num) :
    hostRead fn pa n s = answerRead { s with hostReads := [] } fn pa n := by
  have hheld : s.posted.any (fun p => decide (p.fn = fn) && decide (p.num < s.postedNum)) = false := by
    refine List.any_eq_false.mpr fun p hp => ?_
    have := h p hp
    simp
    omega
  simp [hostRead, answerReads, hreads, hheld]

/-- An answer to the host goes onto the list of answers. -/
theorem answerRead_only (s : State) (fn pa n : Nat) : ∃ l, answerRead s fn pa n = { s with hostOut := l } := by
  unfold answerRead
  dsimp only
  split <;> exact ⟨_, rfl⟩

theorem answerRead_bytes (hpa : pa < 2 ^ 48) (he : egress s 0 = true) (hr : fnReaches s fn pa n = true) (hg : fnGated s fn = false)
    (hp : poisonAt s pa n = false) : (answerRead s fn pa n).hostOut = s.hostOut ++ [.completion fn (readBytes s pa n) false] := by
  have hnot : ¬ 2 ^ 48 ≤ pa := Nat.not_le.mpr hpa
  unfold answerRead
  simp only [if_neg hnot, he, hr, hg, hp, Bool.not_true, Bool.true_or, Bool.false_eq_true, if_true, if_false]

end Reads

/-- Settles O37: a hop by the packet's route, the ports by their link, the sequencer by what the oldest write of a function waits for. -/
theorem networkSteps : Obligations.NetworkSteps := by
  intro s
  refine ⟨fun n p q x y l dq dx dy dl he hn hp ha hd => ?_, fun n p he hp => ?_, fun p he => ?_, fun he => execPatrolScrub_eq he,
    fun fn pa l he hl hline => ?_, fun fn p he hp hr => ?_, fun fn pa n he hpa hreads => ?_⟩
  · have hops {d : Nat} {a : Nat × Nat × Nat × Nat} (hr : netRoute p = .port d a) : HopsTo s n p a := packetHop_port he hn hp hr
    refine ⟨?_, ?_, ?_, ?_, ?_, ?_, ?_, ?_, ?_⟩
    · rintro rfl rfl hl hx
      exact hops ((netRoute_layer ha hd hl).trans (by rw [moveXY, if_pos hx]; rfl))
    · rintro rfl rfl hl hx
      exact hops ((netRoute_layer ha hd hl).trans (by rw [moveXY, if_neg (by omega), if_pos hx]; rfl))
    · rintro rfl rfl hl rfl hy
      exact hops ((netRoute_layer ha hd hl).trans (by rw [moveXY, if_neg (by omega), if_neg (by omega), if_pos hy]; rfl))
    · rintro rfl rfl hl rfl hy
      exact hops ((netRoute_layer ha hd hl).trans (by rw [moveXY, if_neg (by omega), if_neg (by omega), if_neg (by omega), if_pos hy]; rfl))
    · rintro rfl rfl hl rfl rfl
      exact packetHop_arrived he hn hp ((netRoute_layer ha hd hl).trans (by simp [moveXY]))
    · rintro rfl rfl rfl
      exact hops (netRoute_down ha hd)
    · rintro rfl rfl rfl rfl rfl
      exact hops (netRoute_up ha hd)
    · rintro hq rfl
      exact hops (netRoute_leaves ha hd hq)
    · rintro hq rfl hx
      exact hops (netRoute_west ha hd hq hx)
  · have hop : exec .packetHop s = .next (portHop n { s with event := none }) := by
      rw [execPacketHop_eq he, packetHop, if_neg (by omega), Nat.add_sub_cancel_left]
    refine ⟨fun hup => hop.trans (congrArg _ (portHop_down (s := { s with event := none }) hp hup)), fun hup => ?_⟩
    obtain ⟨hq, hpkts, hout⟩ := portHop_up (s := { s with event := none }) hp hup
    exact ⟨_, hop, (quiet_taken s).trans hq, hpkts, hout⟩
  · exact ⟨_, execRefreshTick_eq he, rfl, fun k => mapGet_set _ _ _ _ _⟩
  · rw [execHostPostedWrite_eq he]
    exact ⟨fun h => congrArg _ (hostPostedWrite_discards hl hline h), fun hg hr => congrArg _ (hostPostedWrite_posts hl hline hg hr)⟩
  · rw [execSequencerSend_eq he]
    refine ⟨fun hs => congrArg _ (sequencerSend_sent (s := { s with event := none }) hp hr hs), fun hs => ?_⟩
    rw [sequencerSend_sends (s := { s with event := none }) hp hr hs]
    refine ⟨_, p.pieces.map (piecePkt s fn p.num), rfl, .of_eq rfl rfl rfl rfl, rfl, List.length_map _, fun a b hab => ?_, fun c hc => ?_⟩
    · exact ⟨_, List.mem_map_of_mem hab, rfl, rfl, rfl, rfl, rfl⟩
    · exact mem_markSent hc
  · rw [execHostRead_eq he]
    refine ⟨fun h => congrArg _ (hostRead_waits (s := { s with event := none }) hreads h), fun h => ?_⟩
    rw [hostRead_answers (s := { s with event := none }) hreads h]
    obtain ⟨l, hl⟩ := answerRead_only { s with event := none, hostReads := [] } fn pa n
    refine ⟨_, rfl, ?_, ?_, fun heg hr hg hp => answerRead_bytes (s := { s with event := none, hostReads := [] }) hpa heg hr hg hp⟩
    · rw [hl]
      exact .of_eq rfl rfl rfl rfl
    · rw [hl]

end Sys2Proof.Machine
end

section
/-! SLICES AND OBJECTS (O36, R56 to R60, R62, R110, R112, R118, R120, R121): what an access leaves at its home slice, and what the object
operations leave in a barrier and in a future. -/
namespace Sys2Proof.Machine
open Sys2Proof.Forms

/-! ### Steps of memory units -/

section MemSteps
variable {s t u : State} {pa n : Nat}

theorem MemStep.of_unmoved (hm : ∀ a, (a < pa ∨ pa + n ≤ a) → readByte t a = readByte s a) (h : Unmoved s t) : MemStep s t pa n :=
  ⟨hm, h.regs, h.flags⟩

theorem MemStep.refl (s : State) (pa n : Nat) : MemStep s s pa n := .of_teams (fun _ _ => rfl) rfl

theorem MemStep.quiet (h : MemStep s t pa n) (g : Quiet t u) : MemStep s u pa n :=
  ⟨fun a ha => (by rw [readByte, g.mem]; rfl : readByte u a = readByte t a).trans (h.mem a ha), h.regs.trans g.regs,
    fun q k => (g.flags q k).trans (h.flags q k)⟩

theorem readMem_of_mem (h : t.mem = s.mem) (pa n : Nat) : readMem t pa n = readMem s pa n := by
  rw [readMem, readMem, show readByte t = readByte s from funext fun a => by rw [readByte, readByte, h]]

/-- A part of a number that has been written. -/
theorem readMem_writeNat_part (s : State) (pa n v : Nat) {k m : Nat} (h : k + m ≤ n) :
    readMem (writeNat s pa n v) (pa + k) m = v / 2 ^ (8 * k) % 2 ^ (8 * m) := by
  rw [← Nat.shiftRight_eq_div_pow, ← leNat_byteOf, readMem, leNat_shift]
  refine leNat_congr _ _ _ _ fun i hi => ?_
  rw [Nat.zero_add, writeNat, readByte_writeMem, if_pos (by omega), byteOf, byteOf, ← Nat.shiftRight_add]
  congr 2
  omega

end MemSteps

section Rows
variable {s : State} {pa : Nat}

theorem execSliceAccess_eq {q : SliceReq} (h : s.event = some (.sliceAccess q)) :
    exec .sliceAccess s = .next (sliceAccess q { s with event := none }) := by
  change execSliceAccess s = _
  rw [execSliceAccess, h]

theorem execObjArrive_one (h : s.event = some (.objArrive pa none)) :
    exec .objArrive s = .next (objAt pa (fun s => if (readBar s pa).init then barArriveAt s pa else s) { s with event := none }) := by
  change execObjArrive s = _
  rw [execObjArrive, h]

theorem execObjArrive_bytes {n : BitVec 32} (h : s.event = some (.objArrive pa (some n))) :
    exec .objArrive s = .next (objAt pa (fun s => if (readBar s pa).init then barBytesAt s pa n.toNat else s) { s with event := none }) := by
  change execObjArrive s = _
  rw [execObjArrive, h]

theorem execObjExpect_eq {n : BitVec 32} (h : s.event = some (.objExpect pa n)) :
    exec .objExpect s = .next (objAt pa (fun s => if (readBar s pa).init then barExpectAt s pa n.toInt else s) { s with event := none }) := by
  change execObjExpect s = _
  rw [execObjExpect, h]

theorem execObjComplete_eq {r : FutureResult} (h : s.event = some (.objComplete pa r)) :
    exec .objComplete s = .next (objAt pa (fun s => futComplete s pa r) { s with event := none }) := by
  change execObjComplete s = _
  rw [execObjComplete, h]

theorem execObjCancel_eq (h : s.event = some (.objCancel pa)) :
    exec .objCancel s = .next (objAt pa (fun s => cancelFuture s pa) { s with event := none }) := by
  change execObjCancel s = _
  rw [execObjCancel, h]

theorem execBarrierInit_eq {n : BitVec 16} (h : s.event = some (.barrierInit pa n)) :
    exec .barrierInit s = .next (objAt pa (fun s => barInit s pa n.toNat) { s with event := none }) := by
  change execBarrierInit s = _
  rw [execBarrierInit, h]

end Rows

/-! ### SLICE_ACCESS (R56 to R60) -/

section Slice
variable {s : State} {q : SliceReq}

theorem slicePerform_memStep : MemStep s (slicePerform q s) q.pa q.size := by
  unfold slicePerform
  split
  · exact .refl _ _ _
  · exact .refl _ _ _
  · split
    · exact writeMem_memStep _ _ _ _
    · exact .refl _ _ _
  · split
    · exact .refl _ _ _
    · exact writeMem_memStep _ _ _ _
  · exact .of_teams (fun _ _ => rfl) rfl

theorem slicePerform_tags (h : q.op ≠ .tagWrite) : (slicePerform q s).tags = s.tags := by
  unfold slicePerform
  split
  · rfl
  · rfl
  · split
    · exact writeMem_tags _ _ _ _
    · rfl
  · split
    · rfl
    · exact writeMem_tags _ _ _ _
  · exact absurd ‹_› h

theorem slicePerform_mem (h : q.op = .read ∨ q.op = .tagRead ∨ q.op = .tagWrite) : (slicePerform q s).mem = s.mem := by
  obtain h | h | h := h
  · simp only [slicePerform, h]
  · simp only [slicePerform, h]
  · simp only [slicePerform, h]
    rfl

theorem slicePerform_tagOf (h : q.op = .tagWrite) (a : Nat) :
    tagOf (slicePerform q s) a = if a / 32 = q.pa / 32 then q.data.setWidth 4 else tagOf s a := by
  simp only [slicePerform, h]
  exact mapGet_set _ _ _ _ _

theorem slicePerform_write (h : q.op = .write) : readMem (slicePerform q s) q.pa q.size =
    if coversPoison s q.pa q.size then q.data.toNat % 2 ^ (8 * q.size) else readMem s q.pa q.size := by
  simp only [slicePerform, h]
  split
  · exact readMem_writeNat _ _ _ _
  · rfl

theorem slicePerform_atomic {op : AOp} (h : q.op = .atomic op) : readMem (slicePerform q s) q.pa q.size =
    if poisonAt s q.pa q.size then readMem s q.pa q.size else
      atomicResult op (8 * q.size) (readMem s q.pa q.size) (q.data.toNat % 2 ^ (8 * q.size)) q.cmp.toNat % 2 ^ (8 * q.size) := by
  simp only [slicePerform, h]
  split
  · rfl
  · exact readMem_writeNat _ _ _ _

/-- The answers to the host change its list and the reads that wait. -/
theorem answerReads_only (s : State) : ∃ r o, answerReads s = { s with hostReads := r, hostOut := o } := by
  unfold answerReads
  obtain ⟨o, ho⟩ := foldl_only (fun s o => { s with hostOut := o }) (fun s => s.hostOut) (fun _ => rfl) (fun _ _ _ => rfl)
    (fun s (r : Nat × Nat × Nat × Nat) => answerRead s r.1 r.2.1 r.2.2.1) (fun s r => answerRead_only s r.1 r.2.1 r.2.2.1) _ _
  exact ⟨_, o, ho⟩

/-- A piece that has been placed is no piece of its write any more, and the next write of the function may go (R76). -/
theorem piecePlaced_spec (s : State) (fn num pa : Nat) : Quiet s (piecePlaced s fn num pa) ∧
    Event.sequencerSend fn ∈ (piecePlaced s fn num pa).agenda ∧
    ∀ p ∈ (piecePlaced s fn num pa).posted, p.fn = fn → p.num = num → ∀ x ∈ p.pieces, x.1 ≠ pa := by
  unfold piecePlaced
  dsimp only
  generalize hl : (s.posted.map _).filter _ = l
  obtain ⟨r, o, h⟩ := answerReads_only { s with posted := l }
  rw [h]
  refine ⟨.of_eq rfl rfl rfl rfl, List.mem_append_right _ (List.mem_singleton_self _), fun p hp hfn hnum x hx => ?_⟩
  have hp : p ∈ l := hp
  rw [← hl] at hp
  obtain ⟨p, -, rfl⟩ := List.mem_map.mp (List.mem_filter.mp hp).1
  by_cases hc : p.fn = fn ∧ p.num = num
  · rw [if_pos hc] at hx
    exact of_decide_eq_true (List.mem_filter.mp hx).2
  · rw [if_neg hc] at hfn hnum
    exact absurd ⟨hfn, hnum⟩ hc

/-- What follows the access of a slice changes nothing that a program sees. -/
theorem sliceAccess_quiet (q : SliceReq) (s : State) : Quiet (slicePerform q s) (sliceAccess q s) := by
  unfold sliceAccess
  split
  · exact (piecePlaced_spec _ _ _ _).1
  · exact .of_eq rfl rfl rfl rfl

theorem sliceAccess_placed {fn num : Nat} (h : q.src = some (fn, num)) : sliceAccess q s = piecePlaced (slicePerform q s) fn num q.pa := by
  rw [sliceAccess, h]

end Slice

/-! ### Barriers (R110, R120, R121) -/

/-- The fields of a barrier are in their ranges. -/
structure Bar.Fits (b : Bar) : Prop where
  arr  : b.arr < 2 ^ 16
  load : b.load < 2 ^ 16
  low  : -(2 ^ 31 : Int) ≤ b.bytes
  high : b.bytes < (2 ^ 31 : Int)
  err  : b.err < 4

theorem sgn_range (x : Nat) : -(2 ^ 31 : Int) ≤ sgn 32 x ∧ sgn 32 x < (2 ^ 31 : Int) := by
  unfold sgn
  dsimp only
  split <;> omega

theorem wrap_lt (x : Int) : wrap 32 x < 2 ^ 32 := by
  unfold wrap
  omega

theorem sgn_wrap {x : Int} (hl : -(2 ^ 31 : Int) ≤ x) (hh : x < (2 ^ 31 : Int)) : sgn 32 (wrap 32 x) = x := by
  unfold sgn wrap
  dsimp only
  split <;> omega

theorem barOf_fits (v : Nat) : (barOf v).Fits :=
  ⟨fld_lt _ _ _, fld_lt _ _ _, (sgn_range _).1, (sgn_range _).2, fld_lt _ _ _⟩

theorem decide_toNat (p : Bool) : decide (p.toNat = 1) = p := by cases p <;> rfl

/-- A barrier written in 128 bits and read back. -/
theorem barOf_barBits {b : Bar} (h : b.Fits) : barOf (barBits b) = b := by
  obtain ⟨arr, load, bytes, phase, init, err⟩ := b
  obtain ⟨ha, hl, hlo, hhi, he⟩ := h
  dsimp only at ha hl hlo hhi he
  have hw := wrap_lt bytes
  have hs := sgn_wrap hlo hhi
  unfold barOf barBits
  generalize wrap 32 bytes = w at hw hs ⊢
  have hp := Bool.toNat_le phase
  have hi := Bool.toNat_le init
  simp only [fld, Nat.shiftLeft_eq, Nat.shiftRight_eq_div_pow, Bar.mk.injEq]
  refine ⟨by omega, by omega, ?_, ?_, ?_, by omega⟩
  · refine (congrArg (sgn 32) ?_).trans hs
    omega
  · refine (decide_eq_decide.mpr ?_).trans (decide_toNat phase)
    omega
  · refine (decide_eq_decide.mpr ?_).trans (decide_toNat init)
    omega

theorem barBits_lt (b : Bar) : barBits b < 2 ^ 128 := by
  obtain ⟨arr, load, bytes, phase, init, err⟩ := b
  have hw := wrap_lt bytes
  have hp := Bool.toNat_le phase
  have hi := Bool.toNat_le init
  unfold barBits
  simp only [Nat.shiftLeft_eq]
  omega

theorem barSettle_fits {b : Bar} (h : b.Fits) : (barSettle b).Fits := by
  unfold barSettle
  split
  · exact ⟨h.load, h.load, h.low, h.high, h.err⟩
  · exact h

theorem barArrive_fits {b : Bar} (h : b.Fits) : (barArrive b).Fits := by
  unfold barArrive
  split
  · exact ⟨h.arr, h.load, h.low, h.high, (by decide : 2 < 4)⟩
  · exact barSettle_fits ⟨Nat.lt_of_le_of_lt (Nat.sub_le _ _) h.arr, h.load, h.low, h.high, h.err⟩

theorem barAdd_fits {b : Bar} (h : b.Fits) (d : Int) : (barAdd b d).Fits := by
  unfold barAdd
  dsimp only
  split
  · exact ⟨h.arr, h.load, h.low, h.high, (by decide : 2 < 4)⟩
  · exact barSettle_fits ⟨h.arr, h.load, by dsimp only; omega, by dsimp only; omega, h.err⟩

theorem barReset_fits (n : BitVec 16) : Bar.Fits { arr := n.toNat, load := n.toNat, bytes := 0, phase := false, init := true, err := 0 } :=
  ⟨n.isLt, n.isLt, by change -(2 ^ 31 : Int) ≤ 0; decide, by change 0 < (2 ^ 31 : Int); decide, by change 0 < 4; decide⟩

theorem barAdd_eq (b : Bar) (d : Int) : barAdd b d = moreBytes b d := by
  unfold barAdd moreBytes
  dsimp only
  split
  · rw [if_neg (by omega)]
  · rw [if_pos (by omega)]
    rfl

theorem barrierSeen_unmoved (s : State) (pa : Nat) : Unmoved s (barrierSeen s pa) := by
  unfold barrierSeen
  dsimp only
  split
  · exact .refl s
  · next b _ =>
    refine .mapTeams (fun t => t.key.disp = b.disp ∧ t.key.block = b.index) _ (fun t => ?_) rfl rfl rfl
    have hf (o : Option Split) : (o.map (fun sp => if sp.tier = 2 then { sp with dropAt := 0 } else sp)).map Split.seen = o.map Split.seen := by
      rw [Option.map_map]
      refine congrArg (Option.map · o) (funext fun sp => ?_)
      simp only [Function.comp]
      split <;> rfl
    simp only [Team.seen, Team.regs, hf]

theorem barrierSeen_mem (s : State) (pa : Nat) : (barrierSeen s pa).mem = s.mem := by
  unfold barrierSeen
  dsimp only
  split <;> rfl

theorem writeBar_poisoned {s : State} {pa : Nat} (b : Bar) (h : poisonAt s pa 16 = true) : writeBar s pa b = s := if_pos (.inr h)

/-- An operation on a sound barrier leaves it as `b` and every byte but its sixteen as it was. -/
structure BarLeft (s t : State) (pa : Nat) (b : Bar) : Prop where
  bar  : readBar t pa = b
  step : MemStep s t pa 16
  tags : t.tags = s.tags

theorem BarLeft.refl (s : State) (pa : Nat) : BarLeft s s pa (readBar s pa) := ⟨rfl, .refl _ _ _, rfl⟩

theorem writeBar_left {s : State} {pa : Nat} {b : Bar} (hb : b.Fits) (h : poisonAt s pa 16 = false) : BarLeft s (writeBar s pa b) pa b := by
  rw [writeBar, h]
  by_cases hsame : barBits b = readMem s pa 16
  · rw [if_pos (.inl hsame)]
    exact ⟨by rw [readBar, ← hsame, barOf_barBits hb], .refl _ _ _, rfl⟩
  · rw [if_neg (by simp [hsame])]
    have hseen := barrierSeen_unmoved (writeNat s pa 16 (barBits b)) pa
    have hmem := barrierSeen_mem (writeNat s pa 16 (barBits b)) pa
    refine ⟨?_, .of_unmoved (fun a ha => ?_) ((writeMem_unmoved _ _ _ _).trans hseen), hseen.tags.trans (writeMem_tags _ _ _ _)⟩
    · rw [readBar, readMem_of_mem hmem, readMem_writeNat, Nat.mod_eq_of_lt (barBits_lt b), barOf_barBits hb]
    · rw [readByte, hmem]
      exact readByte_writeMem_other _ _ _ _ _ ha

/-- The outcome of an object operation on a barrier: refused in the host window, without effect on a poisoned object, else `c`. -/
def BarBecomes (s : State) (pa : Nat) (o : Host.Outcome State Fault Refusal) (c : Bar) : Prop :=
  (hostBase ≤ pa ∨ poisonAt s pa 16 = true → o = .next { s with event := none }) ∧
  (pa < hostBase → poisonAt s pa 16 = false → ∃ t, o = .next t ∧ readBar t pa = c ∧ MemStep s t pa 16 ∧ t.tags = s.tags)

theorem barBecomes_of {s : State} {pa : Nat} {f : State → State} {c : Bar}
    (hp : poisonAt s pa 16 = true → f { s with event := none } = { s with event := none })
    (hc : poisonAt s pa 16 = false → BarLeft { s with event := none } (f { s with event := none }) pa c) :
    BarBecomes s pa (.next (objAt pa f { s with event := none })) c := by
  refine ⟨fun h => congrArg _ ?_, fun hpa hsound => ⟨_, rfl, ?_⟩⟩
  · by_cases hpa : hostBase ≤ pa
    · exact if_pos hpa
    · exact (if_neg hpa).trans (hp (h.resolve_left hpa))
  · rw [objAt, if_neg (Nat.not_le.mpr hpa)]
    obtain ⟨hbar, hstep, htags⟩ := hc hsound
    exact ⟨hbar, .of_quiet (quiet_taken s) hstep, htags⟩

/-- An operation on a barrier that is discarded where INIT = 0. -/
theorem barBecomes_init {s : State} {pa : Nat} {g : State → State} {c : Bar} (hfit : c.Fits)
    (hg : g { s with event := none } = writeBar { s with event := none } pa c) :
    BarBecomes s pa (.next (objAt pa (fun s => if (readBar s pa).init then g s else s) { s with event := none }))
      (if (readBar s pa).init = false then readBar s pa else c) := by
  have hbar : readBar { s with event := none } pa = readBar s pa := rfl
  cases hi : (readBar s pa).init with
  | false =>
    refine barBecomes_of (fun _ => ?_) (fun _ => ?_)
    · simp only [hbar, hi, Bool.false_eq_true, if_false]
    · simp only [hbar, hi, Bool.false_eq_true, if_false, if_true]
      exact .refl _ _
  | true =>
    refine barBecomes_of (fun h => ?_) (fun h => ?_)
    · simp only [hbar, hi, if_true]
      exact hg.trans (writeBar_poisoned c h)
    · simp only [hbar, hi, Bool.true_eq_false, if_true, if_false]
      rw [hg]
      exact writeBar_left hfit h

/-! ### Futures (R62, R112, R118) -/

/-- A future has been completed: DONE stands, GEN and ENG are as they were, and so is every byte but its 32. -/
structure FutLeft (s t : State) (pa : Nat) : Prop where
  step : MemStep s t pa 32
  tags : t.tags = s.tags
  gen  : futGen t pa = futGen s pa
  eng  : futEng t pa = futEng s pa
  done : futDone t pa = true

/-- What a completion has written into a future (R112). -/
structure FutHolds (t : State) (pa : Nat) (r : FutureResult) : Prop where
  status : futStatus t pa = r.status.toNat
  bytes  : readMem t (pa + 8) 4 = r.bytes.toNat
  coord  : readMem t (pa + 12) 15 = r.coord.toNat
  side   : readMem t (pa + 27) 1 = r.side.toNat

section Futures
variable {s : State} {pa : Nat}

theorem futComplete_over (r : FutureResult) (h : futDone s pa = true) : futComplete s pa r = s := if_pos (by rw [h]; rfl)

theorem FutLeft.of_done (h : futDone s pa = true) : FutLeft s s pa := ⟨.refl _ _ _, rfl, rfl, rfl, h⟩

/-- A future's bytes after its completion: STATUS, then BYTES, COORD and SIDE, then DONE. -/
theorem futComplete_eq (r : FutureResult) (hd : futDone s pa = false) (hp : poisonAt s pa 32 = false) : futComplete s pa r =
    writeNat (writeNat (writeNat s (pa + 1) 1 r.status.toNat) (pa + 8) 24 (r.bytes.toNat + (r.coord.toNat <<< 32) + (r.side.toNat <<< 152))) pa 1 1 := by
  rw [futComplete, hd, hp]
  rfl

theorem readMem_futComplete_kept (r : FutureResult) (hd : futDone s pa = false) (hp : poisonAt s pa 32 = false) {k n : Nat} (hlo : 2 ≤ k)
    (hhi : k + n ≤ 8) : readMem (futComplete s pa r) (pa + k) n = readMem s (pa + k) n := by
  rw [futComplete_eq r hd hp]
  exact (readMem_writeMem_other _ _ _ _ _ _ (by omega)).trans
    ((readMem_writeMem_other _ _ _ _ _ _ (by omega)).trans (readMem_writeMem_other _ _ _ _ _ _ (by omega)))

theorem futComplete_left (r : FutureResult) (hd : futDone s pa = false) (hp : poisonAt s pa 32 = false) : FutLeft s (futComplete s pa r) pa := by
  have heq := futComplete_eq r hd hp
  have hmoved : Unmoved s (futComplete s pa r) := by
    rw [heq]
    exact ((writeMem_unmoved _ _ _ _).trans (writeMem_unmoved _ _ _ _)).trans (writeMem_unmoved _ _ _ _)
  refine ⟨.of_unmoved (fun a ha => ?_) hmoved, hmoved.tags, ?_, ?_, ?_⟩
  · rw [heq]
    exact (readByte_writeMem_other _ _ _ _ _ (by omega)).trans
      ((readByte_writeMem_other _ _ _ _ _ (by omega)).trans (readByte_writeMem_other _ _ _ _ _ (by omega)))
  · exact readMem_futComplete_kept r hd hp (by decide) (by decide)
  · exact readMem_futComplete_kept r hd hp (by decide) (by decide)
  · rw [futDone, heq, readMem_writeNat]
    rfl

theorem futComplete_holds (r : FutureResult) (hd : futDone s pa = false) (hp : poisonAt s pa 32 = false) : FutHolds (futComplete s pa r) pa r := by
  have hstatus := r.status.isLt
  have hbytes := r.bytes.isLt
  have hcoord := r.coord.isLt
  have hside := r.side.isLt
  rw [futComplete_eq r hd hp]
  generalize hv : r.bytes.toNat + (r.coord.toNat <<< 32) + (r.side.toNat <<< 152) = v
  rw [Nat.shiftLeft_eq, Nat.shiftLeft_eq] at hv
  have hpart {k n : Nat} (h : k + n ≤ 24) : readMem (writeNat (writeNat (writeNat s (pa + 1) 1 r.status.toNat) (pa + 8) 24 v) pa 1 1) (pa + 8 + k) n =
      v / 2 ^ (8 * k) % 2 ^ (8 * n) :=
    (readMem_writeMem_other _ _ _ _ _ _ (by omega)).trans (readMem_writeNat_part _ _ _ _ h)
  refine ⟨?_, (hpart (k := 0) (by decide)).trans (by omega), (hpart (k := 4) (by decide)).trans (by omega), (hpart (k := 19) (by decide)).trans (by omega)⟩
  rw [futStatus]
  refine (readMem_writeMem_other _ _ _ _ _ _ (by omega)).trans ((readMem_writeMem_other _ _ _ _ _ _ (by omega)).trans ?_)
  rw [readMem_writeNat]
  omega

/-- The cancel of a future that is not done: its status is CANCELLED, and its engine is told (R118). -/
theorem cancelFuture_new (hd : futDone s pa = false) (hp : poisonAt s pa 32 = false) : FutLeft s (cancelFuture s pa) pa ∧
    futStatus (cancelFuture s pa) pa = 1 ∧ ∀ id, opOfFuture s pa = some id → Event.engineCancel id ∈ (cancelFuture s pa).agenda := by
  obtain ⟨r, hr, hstatus⟩ : ∃ r, futCancel s pa = { futComplete s pa r with fresh := s.fresh + 1 } ∧ r.status = 1 :=
    ⟨_, by rw [futCancel, hd, hp]; rfl, rfl⟩
  have hleft := futComplete_left r hd hp
  have hholds := futComplete_holds r hd hp
  have hq : Quiet (futComplete s pa r) (cancelFuture s pa) := by
    rw [cancelFuture, hd, hr]
    cases opOfFuture s pa <;> exact .of_eq rfl rfl rfl rfl
  have hmem := hq.mem
  refine ⟨⟨hleft.step.quiet hq, hq.tags.trans hleft.tags, (readMem_of_mem hmem _ _).trans hleft.gen, (readMem_of_mem hmem _ _).trans hleft.eng, ?_⟩, ?_,
    fun id hid => ?_⟩
  · have := hleft.done
    rwa [futDone, readMem_of_mem hmem, ← futDone]
  · refine (readMem_of_mem hmem _ _).trans (hholds.status.trans ?_)
    rw [hstatus]
    rfl
  · rw [cancelFuture, hd, hid]
    exact List.mem_append_right _ (List.mem_singleton_self _)

end Futures

/-- Settles O36: an access by its operation, a barrier operation by the barrier it writes, a future by its one completion. -/
theorem sliceAndObjectSteps : Obligations.SliceAndObjectSteps := by
  intro s
  refine ⟨fun q he => ?_, fun pa => ⟨fun he => ?_, fun n he => ?_, fun n he => ?_, fun n he => ?_⟩, fun pa hpa hp => ⟨fun r he => ?_, fun he => ?_⟩⟩
  · have hq := sliceAccess_quiet q { s with event := none }
    have hread := readMem_of_mem hq.mem q.pa q.size
    refine ⟨_, execSliceAccess_eq he, .of_quiet (quiet_taken s) (slicePerform_memStep.quiet hq), fun h => hq.tags.trans (slicePerform_tags h),
      fun h => hq.mem.trans (slicePerform_mem h), fun h a => ?_, fun h => hread.trans (slicePerform_write h),
      fun op h => hread.trans (slicePerform_atomic h), fun fn num h => ?_⟩
    · rw [tagOf, hq.tags]
      exact slicePerform_tagOf h a
    · rw [sliceAccess_placed h]
      exact (piecePlaced_spec _ fn num q.pa).2
  · rw [execObjArrive_one he]
    exact barBecomes_init (barArrive_fits (barOf_fits _)) rfl
  · rw [execObjArrive_bytes he, ← barAdd_eq]
    exact barBecomes_init (barAdd_fits (barOf_fits _) _) rfl
  · rw [execObjExpect_eq he, ← barAdd_eq]
    exact barBecomes_init (barAdd_fits (barOf_fits _) _) rfl
  · rw [execBarrierInit_eq he]
    exact barBecomes_of (fun h => writeBar_poisoned _ h) (fun h => writeBar_left (barReset_fits n) h)
  · have hexec : exec .objComplete s = .next (futComplete { s with event := none } pa r) :=
      (execObjComplete_eq he).trans (congrArg _ (if_neg (Nat.not_le.mpr hpa)))
    rw [hexec]
    cases hd : futDone s pa with
    | true =>
      rw [futComplete_over (s := { s with event := none }) r hd]
      obtain ⟨hstep, htags, hgen, heng, hdone⟩ := FutLeft.of_done (s := { s with event := none }) hd
      exact ⟨_, rfl, .of_quiet (quiet_taken s) hstep, htags, hgen, heng, hdone, fun _ => rfl, nofun⟩
    | false =>
      obtain ⟨hstep, htags, hgen, heng, hdone⟩ := futComplete_left (s := { s with event := none }) r hd hp
      obtain ⟨hstatus, hbytes, hcoord, hside⟩ := futComplete_holds (s := { s with event := none }) r hd hp
      exact ⟨_, rfl, .of_quiet (quiet_taken s) hstep, htags, hgen, heng, hdone, nofun, fun _ => ⟨hstatus, hbytes, hcoord, hside⟩⟩
  · have hexec : exec .objCancel s = .next (cancelFuture { s with event := none } pa) :=
      (execObjCancel_eq he).trans (congrArg _ (if_neg (Nat.not_le.mpr hpa)))
    rw [hexec]
    cases hd : futDone s pa with
    | true =>
      rw [cancelFuture, if_pos (show futDone { s with event := none } pa = true from hd)]
      exact ⟨_, rfl, .of_quiet (quiet_taken s) (.refl _ _ _), rfl, rfl, hd, fun _ => rfl, nofun⟩
    | false =>
      obtain ⟨⟨hstep, htags, hgen, heng, hdone⟩, hstatus, hid⟩ := cancelFuture_new (s := { s with event := none }) hd hp
      exact ⟨_, rfl, .of_quiet (quiet_taken s) hstep, htags, hgen, hdone, nofun, fun _ => ⟨hstatus, hid⟩⟩

end Sys2Proof.Machine
end

section
/-! EVENTS OF SPLITS (O35, R63, R64, R393, R419, R420, R423, R439, R440): user traps, tiers, and the ends of timed holds and waits. -/
namespace Sys2Proof.Machine
open Sys2Proof.Forms

section Rows
variable {s : State} {r : SplitRef}

theorem execUserTrapEntry_eq (h : s.event = some (.userTrapEntry r)) : exec .userTrapEntry s = .next (userTrapEntry r { s with event := none }) := by
  change execUserTrapEntry s = _
  rw [execUserTrapEntry, h]

theorem execStarvationPromote_eq (h : s.event = some (.starvationPromote r)) :
    exec .starvationPromote s = .next (starvationPromote r { s with event := none }) := by
  change execStarvationPromote s = _
  rw [execStarvationPromote, h]

theorem execSpinReleaseTimeout_eq {sp : Split} (h : s.event = some (.spinReleaseTimeout r)) (hsp : splitOf s r = some sp) (hd : dropOver s sp = true) :
    exec .spinReleaseTimeout s = .next (toTierOne r { s with event := none }) := by
  change execSpinReleaseTimeout s = _
  rw [execSpinReleaseTimeout, h]
  simp only [hsp, hd, if_true]

theorem execSleepExpire_eq (h : s.event = some (.sleepExpire r)) : exec .sleepExpire s =
    .next (updSplit { s with event := none } r (fun sp => if sp.hold = .sleep 0 then { sp with hold := .none } else sp)) := by
  change execSleepExpire s = _
  rw [execSleepExpire, h]

/-- A split that waits reads its word again; a dropped one is released (R63, R420). -/
def woken (sp : Split) : Split :=
  match sp.hold with
  | .wait _ => { sp with hold := .none, dropAt := if sp.tier = 2 then 0 else sp.dropAt }
  | _ => sp

theorem execWatchWake_eq (h : s.event = some (.watchWake r)) : exec .watchWake s = .next (updSplit { s with event := none } r woken) := by
  change execWatchWake s = _
  rw [execWatchWake, h]
  rfl

/-- A split that polls reads its word again (R64). -/
def polled (sp : Split) : Split :=
  match sp.hold with
  | .wait on => if on.contains .poll then { sp with hold := .none } else sp
  | _ => sp

theorem execWatchPoll_eq (h : s.event = some (.watchPoll r)) : exec .watchPoll s = .next (updSplit { s with event := none } r polled) := by
  change execWatchPoll s = _
  rw [execWatchPoll, h]
  rfl

theorem execWaitTimeout_eq (h : s.event = some (.waitTimeout r)) (hm : mqExpired s r = []) :
    exec .waitTimeout s = .next (waitTimeout r { s with event := none }) := by
  change execWaitTimeout s = _
  rw [execWaitTimeout, h]
  simp only [hm, List.foldl_nil]

end Rows

/-! ### One split changes -/

theorem map_teamOf_updSplit {β : Type} (p : Team → β) (hp : ∀ u b o, p (putSplit u b o) = p u) (s : State) (r : SplitRef) (f : Split → Split)
    (k : TeamKey) : (teamOf (updSplit s r f) k).map p = (teamOf s k).map p := by
  rw [teamOf_updSplit]
  by_cases h : k = r.team
  · rw [if_pos h, h, Option.map_map]
    exact congrArg (Option.map · _) (funext fun u => hp _ _ _)
  · rw [if_neg h]

/-- An update of one split, made in a state whose teams are those of `s`. -/
theorem splitStep_updSplit {s u : State} {r : SplitRef} {sp : Split} (f : Split → Split) (ht : u.teams = s.teams)
    (ho : outside u = outside { s with event := none }) (hsp : splitOf s r = some sp) : SplitStep s (updSplit u r f) r (f sp) where
  split := by rw [splitOf_updSplit, splitOf_congr ht, hsp, Option.map_some]
  others q hq := (splitOf_updSplit_other u r q f hq).trans (splitOf_congr ht q)
  regs k := (map_teamOf_updSplit Team.regs putSplit_regs u r f k).trans (by rw [teamRegs, teamOf_congr ht])
  flags q n := (flagAt_of_inflight (map_teamOf_updSplit Team.inflight putSplit_inflight u r f) q n).trans (flagAt_congr ht q n)
  rest := ho

theorem SplitStep.trans {s t u : State} {r : SplitRef} {v w : Split} (h : SplitStep s t r v) (g : SplitStep t u r w) : SplitStep s u r w where
  split := g.split
  others q hq := (g.others q hq).trans (h.others q hq)
  regs k := (g.regs k).trans (h.regs k)
  flags q n := (g.flags q n).trans (h.flags q n)
  rest := g.rest.trans (congrArg (fun w : State => { w with event := none }) h.rest)

/-- A new stamp, given by the count of the split's partition (R416). -/
theorem newStamp_step {s u : State} {r : SplitRef} {t : Team} {sp : Split} (hu : u.teams = s.teams) (ho : outside u = outside { s with event := none })
    (ht : teamOf s r.team = some t) (hsp : splitOf s r = some sp) :
    SplitStep s (newStamp u r) r { sp with stamp := mapGet 0 u.stamps (partKey t), issued := 0 } := by
  unfold newStamp
  simp only [(teamOf_congr hu r.team).trans ht]
  exact splitStep_updSplit (u := { u with stamps := mapSet 0 u.stamps (partKey t) (mapGet 0 u.stamps (partKey t) + 1) }) _ hu ho hsp

/-! ### Tiers (R419, R420) -/

section Tiers
variable {s : State} {r : SplitRef} {u : Team} {sp : Split}

/-- A promoted split (R419). -/
def promotedAt (now : BitVec 64) (sp : Split) : Split := { sp with tier := 0, promoted := 16, dropAt := now, ready := 0 }

theorem starvationPromote_step (hu : teamOf s r.team = some u) (hsp : splitOf s r = some sp) (ht : sp.tier ≠ 0) :
    SplitStep s (starvationPromote r { s with event := none }) r (promotedAt s.cycle
      (if sp.tier = 2 then { sp with stamp := mapGet 0 s.stamps (partKey u), issued := 0 } else sp)) := by
  have hs0 : splitOf { s with event := none } r = some sp := hsp
  unfold starvationPromote
  simp only [hs0, if_neg ht]
  by_cases h2 : sp.tier = 2
  · rw [if_pos h2, if_pos h2]
    have h := newStamp_step (s := s) (u := { s with event := none }) rfl rfl hu hsp
    have hev : { newStamp { s with event := none } r with event := none } = newStamp { s with event := none } r := by
      obtain ⟨a, b, hn⟩ := newStamp_only { s with event := none } r
      rw [hn]
    exact h.trans (splitStep_updSplit (promotedAt s.cycle) rfl (by rw [hev]) h.split)
  · rw [if_neg h2, if_neg h2]
    exact splitStep_updSplit (promotedAt s.cycle) rfl rfl hsp

theorem partKey_putSplit (u : Team) (b : Bool) (o : Option Split) : partKey (putSplit u b o) = partKey u := by cases b <;> rfl

theorem toTierOne_step (hu : teamOf s r.team = some u) (hsp : splitOf s r = some sp) : SplitStep s (toTierOne r { s with event := none }) r
    { inTierOne sp with stamp := mapGet 0 s.stamps (partKey u), issued := 0 } := by
  have h := splitStep_updSplit (s := s) (u := { s with event := none }) inTierOne rfl rfl hsp
  have hteam : teamOf (updSplit { s with event := none } r inTierOne) r.team = some (putSplit u r.high ((splitIn u r.high).map inTierOne)) := by
    rw [teamOf_updSplit, if_pos rfl]
    exact congrArg (Option.map _) hu
  have g := newStamp_step (u := updSplit { s with event := none } r inTierOne) rfl rfl hteam h.split
  rw [partKey_putSplit] at g
  exact h.trans g

end Tiers

/-! ### Faults of a split -/

theorem teamReg_of_regs {u v : Team} (h : u.regs = v.regs) (n : RegName) : teamReg u n = teamReg v n := by
  have hv : u.vregs = v.vregs := congrArg TeamRegs.vregs h
  have hs : u.sregs = v.sregs := congrArg TeamRegs.sregs h
  have hp : u.preds = v.preds := congrArg TeamRegs.preds h
  cases n with
  | v n l => simp only [teamReg, vReg, hv]
  | s n => simp only [teamReg, sReg, hs]
  | p n l =>
    have hn : pReg u n = pReg v n := by rw [pReg, pReg, hp]
    simp only [teamReg, hn]

/-- A fault after steps that a program does not see is a fault of the team as it stood. -/
theorem FaultedAt.of_unmoved {s s1 t : State} {r : SplitRef} {cause : BitVec 8} {pc : BitVec 56} (h : Unmoved s s1) (hm : s1.mem = s.mem)
    (hc : s1.cycle = s.cycle) (hf : FaultedAt s1 t r cause pc) : FaultedAt s t r cause pc := by
  obtain ⟨v, hv, ⟨q, hq, hkind, hcause, hpc, hdisp, hblock, hteam, hcyc⟩, hpark, hmem, htags, hregs⟩ := hf
  have e := h.teams r.team
  rw [hv] at e
  obtain ⟨u, hu, hseen⟩ := Option.map_eq_some_iff.mp e.symm
  have hctx : u.ctx = v.ctx := congrArg TeamSeen.ctx hseen
  refine ⟨u, hu, ⟨q, by rw [hctx]; exact hq, hkind, hcause, hpc, hdisp, hblock, hteam, hcyc.trans hc⟩, hpark, hmem.trans hm, htags.trans h.tags,
    fun n => (hregs n).trans ?_⟩
  rw [regAt_eq s1 _ v n hv, regAt_eq s _ u n hu]
  exact (teamReg_of_regs (congrArg TeamSeen.regs hseen) n).symm

theorem stopDispatch_watches (s : State) (id : BitVec 64) (status : BitVec 32) : (stopDispatch s id status).watches = s.watches := by
  unfold stopDispatch
  split
  · rfl
  · split
    · rfl
    · simp only
      have h := foldl_leaves (fun s : State => s.watches) (fun s (t : Team) => parkTeam s t.key) (fun _ _ => rfl) (teamsOfDisp s id)
      split <;> exact h _

theorem raiseFault_watches (s : State) (r : SplitRef) (f : FaultSpec) : (raiseFault s r f).watches = s.watches := by
  unfold raiseFault
  cases teamOf s r.team with
  | none => rfl
  | some u =>
    simp only
    split
    · exact stopDispatch_watches _ _ _
    · rfl

/-! ### Wait timeout (R423) -/

section Timeout
variable {s : State} {r : SplitRef} {u : Team} {sp : Split}

/-- A split that leaves its wait. -/
def waitLeft (sp : Split) : Split := { newAttempt sp with hold := .none }

/-- The state in which the fault of a wait is taken: the split has left it and watches no more. -/
def waitGone (s : State) (r : SplitRef) : State := fetchForget (updSplit (dropWatches s r) r waitLeft) r

theorem timeoutFault_eq : timeoutFault r u sp s =
    raiseFault (waitGone s r) r { plainFault 0x51 (instrPc sp) (activeOf u sp) 0 with lane := waitLane u sp } := rfl

theorem waitGone_unmoved (s : State) (r : SplitRef) : Unmoved s (waitGone s r) := by
  have h1 : Unmoved s (dropWatches s r) := .of_eq rfl rfl rfl
  have h2 : Unmoved (dropWatches s r) (updSplit (dropWatches s r) r waitLeft) := .updSplit _ r waitLeft (fun _ => rfl)
  exact (h1.trans h2).trans (fetchForget_silent _ r).unmoved

theorem waitGone_split (hsp : splitOf s r = some sp) : splitOf (waitGone s r) r = some (waitLeft sp) := by
  have h : splitOf (dropWatches s r) r = some sp := hsp
  exact (splitOf_updSplit (dropWatches s r) r waitLeft).trans (by rw [h, Option.map_some])

theorem waitTimeout_fault (hu : teamOf s r.team = some u) (hsp : splitIn u r.high = some sp) (hunmet : sp.unmet = []) {n : Nat}
    (hn : sp.waited = some n) (hlim : sp.limit ≤ n) : waitTimeout r s = timeoutFault r u sp s := by
  unfold waitTimeout
  simp only [hu, hsp, hn, hunmet]
  exact if_neg (by omega)

/-- The fault of a wait at its bound: the split waits no more, and watches nothing. -/
theorem timeoutFault_spec (hu : teamOf s r.team = some u) (hsp : splitIn u r.high = some sp) :
    FaultedAt s (timeoutFault r u sp s) r 0x51 (instrPc sp) ∧
    (∃ v, splitOf (timeoutFault r u sp s) r = some v ∧ v.hold = .none ∧ v.waited = none ∧ v.regs = sp.regs) ∧
    ∀ w ∈ (timeoutFault r u sp s).watches, w.split ≠ r := by
  have hmoved := waitGone_unmoved s r
  obtain ⟨v, hv, -⟩ := hmoved.team hu
  have hs : splitOf s r = some sp := by rw [splitOf, hu]; exact hsp
  rw [timeoutFault_eq]
  refine ⟨.of_unmoved hmoved rfl rfl (raiseFault_faulted _ _ _ v hv), ?_, fun w hw => ?_⟩
  · rw [raiseFault_split _ _ _ rfl, waitGone_split hs]
    exact ⟨_, rfl, rfl, rfl, rfl⟩
  · rw [raiseFault_watches] at hw
    exact of_decide_eq_true (List.mem_filter.mp hw).2

end Timeout

/-! ### User traps (R439, R440) -/

section Traps
variable {s : State} {r : SplitRef} {u : Team} {sp : Split} {q : TrapReq}

/-- A team once a trap request has left its list. -/
def Team.without (u : Team) (q : TrapReq) : Team := { u with traps := u.traps.erase q }

def unasked (s : State) (r : SplitRef) (q : TrapReq) : State := updTeam s r.team (fun t => t.without q)

theorem unasked_unmoved (s : State) (r : SplitRef) (q : TrapReq) : Unmoved s (unasked s r q) := .updTeam s r.team _ (fun _ => rfl)

theorem teamOf_unasked (hu : teamOf s r.team = some u) : teamOf (unasked s r q) r.team = some (u.without q) := by
  rw [unasked, teamOf_updTeam s r.team (fun t => t.without q) _ (fun _ => rfl), if_pos rfl, hu, Option.map_some]

/-- The request that is taken, of a split that stands between two instructions. -/
theorem userTrapEntry_taken (hu : teamOf s r.team = some u) (hsp : splitIn u r.high = some sp) {rest : List TrapReq}
    (hq : trapsOf u r.high = q :: rest) (hh : sp.handler = none) (hrun : canRun s u sp = true) (hhold : sp.hold = .none)
    (ho : ∀ o, splitIn u (!r.high) = some o → o.handler = none) : userTrapEntry r s =
      if u.trapVec.setWidth 56 = (0 : BitVec 56) then
        raiseFault (updSplit (unasked s r q) r (fun sp => { sp with hold := .none })) r { plainFault 0x58 q.addr q.lanes 0 with atInstr := false }
      else endStep (takeTrap (unasked s r q) r q) r := by
  have hstay : leaveStall r sp s = s := by rw [leaveStall, hhold]
  unfold userTrapEntry
  simp only [hu, hsp, hq, hh, hrun, hhold, trapsIn, hstay, Option.isSome_none, Bool.not_true, Bool.or_false, Bool.false_eq_true, if_false]
  cases hp : splitIn u (!r.high) with
  | none => simp only [Bool.false_eq_true, if_false]; rfl
  | some o => simp only [ho o hp, Option.isSome_none, Bool.false_eq_true, if_false]; rfl

/-- A split at the start of its trap handler (R439). -/
def handling (u : Team) (sp : Split) : Split :=
  { newAttempt sp with
    handler := some { mask := sp.mask, depth := sp.stack.length, clause := sp.clause, pos := sp.pos, wrote := false }
    pc := u.trapVec.setWidth 56, clause := none, pos := 0, bypass := [], hold := .none, resume := none }

/-- A team whose trap registers hold a request (R439, R441). -/
def trapNoted (u : Team) (sp : Split) (q : TrapReq) : Team :=
  { u with
    trapPc := (instrPc sp).setWidth 64
    trapAddr := q.addr.setWidth 64
    trapInfo := q.info.setWidth 32
    trapCause := q.cause.setWidth 32 ||| (q.exc.setWidth 32 <<< 8)
    trapRows := rowBits u.rows q.lanes
    trapMask := q.lanes }

theorem teamReg_trapNoted (u : Team) (sp : Split) (q : TrapReq) (n : RegName) : teamReg (trapNoted u sp q) n = teamReg u n := by cases n <;> rfl

theorem teamOf_takeTrap (hu : teamOf s r.team = some u) (hsp : splitIn u r.high = some sp) :
    teamOf (takeTrap s r q) r.team = some (putSplit (trapNoted u sp q) r.high (some (handling u sp))) := by
  rw [takeTrap, teamOf_updTeam, if_pos rfl, hu, Option.map_some]
  · simp only [hsp]
    rfl
  · intro t
    split
    · rfl
    · exact putSplit_key _ _ _

/-- A trap that has been taken: the registers of the team and of the split, and the place of the split (R439). -/
theorem trapTaken_spec (hu : teamOf s r.team = some u) (hsp : splitIn u r.high = some sp) : ∃ w v,
    teamOf (endStep (takeTrap s r q) r) r.team = some w ∧ splitIn w r.high = some v ∧ w.regs = (trapNoted u sp q).regs ∧ w.inflight = u.inflight ∧
      v.regs = (handling u sp).regs ∧ v.pc = u.trapVec.setWidth 56 ∧ v.clause = none ∧ v.pos = 0 ∧
      (endStep (takeTrap s r q) r).mem = s.mem := by
  have hbooks := endStep_books (takeTrap s r q) r
  obtain ⟨v, hv, hregs, hpc, hpos, hclause⟩ := hbooks.mine _ _ (teamOf_takeTrap (q := q) hu hsp) (splitIn_putSplit _ _ _)
  have hmem := congrArg State.mem hbooks.outside
  exact ⟨_, v, hv, splitIn_putSplit _ _ _, by rw [putSplit_regs, putSplit_regs], by rw [putSplit_inflight, putSplit_inflight]; rfl, hregs, hpc, hclause,
    hpos, hmem⟩

theorem trapCause_fields (c : BitVec 8) (e : BitVec 5) : bits (c.setWidth 32 ||| (e.setWidth 32 <<< 8)) 7 0 = c.toNat ∧
    bits (c.setWidth 32 ||| (e.setWidth 32 <<< 8)) 12 8 = e.toNat := by
  constructor
  · refine Nat.eq_of_testBit_eq fun i => ?_
    rw [testBit_bits, BitVec.getLsbD_or, BitVec.getLsbD_setWidth, BitVec.getLsbD_shiftLeft, BitVec.testBit_toNat, Nat.zero_add]
    by_cases hi : i < 8
    · simp [hi, show i < 32 by omega]
    · simp [show ¬ i < 7 + 1 - 0 by omega, BitVec.getLsbD_of_ge c i (by omega)]
  · refine Nat.eq_of_testBit_eq fun i => ?_
    rw [testBit_bits, BitVec.getLsbD_or, BitVec.getLsbD_setWidth, BitVec.getLsbD_shiftLeft, BitVec.testBit_toNat, BitVec.getLsbD_setWidth,
      BitVec.getLsbD_of_ge c (8 + i) (by omega)]
    by_cases hi : i < 5
    · simp [hi, show 8 + i < 32 by omega, show 8 + i - 8 = i by omega, show i < 32 by omega]
    · simp [show ¬ i < 12 + 1 - 8 by omega, BitVec.getLsbD_of_ge e i (by omega)]

end Traps

/-- Settles O35: a trap by its vector, tiers and holds by the update of the one split, a timeout by its fault. -/
theorem splitEvents : Obligations.SplitEvents := by
  intro s r u sp hu hin
  have hsp : splitOf s r = some sp := by rw [splitOf, hu]; exact hin
  refine ⟨fun he q rest hq hh hrun hhold ho => ?_, fun he ht => ?_, fun he hd => ?_, fun he hhold => ?_, fun he hm hunmet n hn hlim => ?_,
    fun he on hhold => ?_, fun he on hhold hpoll => ?_⟩
  · have hexec := (execUserTrapEntry_eq he).trans
      (congrArg _ (userTrapEntry_taken (s := { s with event := none }) hu hin hq hh hrun hhold ho))
    refine ⟨fun hz => ?_, fun hz => ?_⟩
    · rw [if_pos hz] at hexec
      have hmoved := (Unmoved.of_eq (s := s) (t := { s with event := none }) rfl rfl rfl).trans
        ((unasked_unmoved { s with event := none } r q).trans (.updSplit _ r (fun sp => { sp with hold := .none }) (fun _ => rfl)))
      obtain ⟨v, hv, -⟩ := hmoved.team hu
      exact ⟨_, hexec, .of_unmoved hmoved rfl rfl (raiseFault_faulted _ _ _ v hv)⟩
    · rw [if_neg hz] at hexec
      obtain ⟨w, v, hw, hv, hteam, hinflight, hregs, hpc, hclause, hpos, hmem⟩ :=
        trapTaken_spec (q := q) (teamOf_unasked (s := { s with event := none }) (q := q) hu) hin
      have hcause : w.trapCause = q.cause.setWidth 32 ||| (q.exc.setWidth 32 <<< 8) := congrArg TeamRegs.trapCause hteam
      refine ⟨_, w, v, hexec, hw, hv, congrArg TeamRegs.trapPc hteam, congrArg TeamRegs.trapAddr hteam, congrArg TeamRegs.trapInfo hteam, ?_, ?_,
        congrArg TeamRegs.trapMask hteam, congrArg TeamRegs.trapVec hteam, hpc, hclause, hpos, congrArg SplitRegs.mask hregs,
        congrArg SplitRegs.mode hregs, congrArg SplitRegs.stack hregs, congrArg SplitRegs.handler hregs, fun n => ?_, fun b n => ?_, hmem⟩
      · rw [hcause]
        exact (trapCause_fields q.cause q.exc).1
      · rw [hcause]
        exact (trapCause_fields q.cause q.exc).2
      · rw [regAt_eq _ _ w n hw, regAt_eq s _ u n hu, teamReg_of_regs hteam, teamReg_trapNoted]
        exact teamReg_of_regs rfl n
      · rw [flagAt_of_team hw, flagAt_of_team hu, hinflight]
        rfl
  · refine ⟨_, _, execStarvationPromote_eq he, starvationPromote_step hu hsp ht, rfl, rfl, ?_⟩
    by_cases h2 : sp.tier = 2
    · simp only [if_pos h2]
      exact ⟨rfl, rfl, rfl, rfl⟩
    · simp only [if_neg h2]
      exact ⟨rfl, rfl, rfl, rfl⟩
  · exact ⟨_, _, execSpinReleaseTimeout_eq he hsp hd, toTierOne_step hu hsp, rfl, rfl, rfl, rfl, rfl⟩
  · have h := splitStep_updSplit (s := s) (u := { s with event := none }) (fun sp => if sp.hold = .sleep 0 then { sp with hold := .none } else sp) rfl rfl hsp
    exact ⟨_, execSleepExpire_eq he, by rwa [if_pos hhold] at h⟩
  · obtain ⟨hfault, ⟨v, hv, hhold, hwaited, hregs⟩, hwatch⟩ := timeoutFault_spec (s := { s with event := none }) hu hin
    refine ⟨_, v, (execWaitTimeout_eq he hm).trans (congrArg _ (waitTimeout_fault (s := { s with event := none }) hu hin hunmet hn hlim)), ?_, hv,
      hhold, hwaited, hregs, hwatch⟩
    exact .of_unmoved (.of_eq rfl rfl rfl) rfl rfl hfault
  · have h := splitStep_updSplit (s := s) (u := { s with event := none }) woken rfl rfl hsp
    have hw : woken sp = { sp with hold := .none, dropAt := if sp.tier = 2 then 0 else sp.dropAt } := by rw [woken, hhold]
    rw [hw] at h
    exact ⟨_, _, execWatchWake_eq he, h, rfl, rfl, rfl, rfl, rfl⟩
  · have h := splitStep_updSplit (s := s) (u := { s with event := none }) polled rfl rfl hsp
    have hp : polled sp = { sp with hold := .none } := by
      rw [polled, hhold]
      exact if_pos (List.contains_iff_mem.mpr hpoll)
    rw [hp] at h
    exact ⟨_, execWatchPoll_eq he, h⟩

end Sys2Proof.Machine
end

section
/-! ATOMICS AND REDUCTIONS (O26, R60, R85, R172, R203, R295 to R297): what one operation at the home slice leaves, the words that the lanes of an
instruction combine, and the two forms. -/
namespace Sys2Proof.Machine
open Sys2Proof.Forms

/-! ### One word at its home slice -/

/-- Nothing that a program sees has changed, nor a register of a context, and no sector that could be read is lost. -/
structure Aside (s u : State) : Prop where
  unmoved : Unmoved s u
  ctxs    : u.ctxs = s.ctxs
  clean   : ∀ pa n, poisonAt s pa n = false → poisonAt u pa n = false

theorem Aside.refl (s : State) : Aside s s := ⟨.refl s, rfl, fun _ _ h => h⟩

theorem Aside.trans {s u v : State} (h : Aside s u) (g : Aside u v) : Aside s v :=
  ⟨h.unmoved.trans g.unmoved, g.ctxs.trans h.ctxs, fun pa n hp => g.clean pa n (h.clean pa n hp)⟩

theorem spoilRows_aside (s : State) (k : TeamKey) (ga : BitVec 64) (n : Nat) : Aside s (spoilRows s k ga n) :=
  ⟨.of_eq rfl rfl rfl, rfl, fun _ _ h => h⟩

theorem OnlyCaches.aside {s u : State} (h : OnlyCaches s u) : Aside s u := by
  refine ⟨h.unmoved, h.ctxs, fun pa n hp => ?_⟩
  obtain ⟨_, _, _, _, rfl⟩ := h
  exact hp

theorem poisonedIn_clearPoison {s : State} {pa n : Nat} (h : poisonedIn s pa n = false) (a k : Nat) :
    poisonedIn { s with poison := clearPoison s a k } pa n = false :=
  List.any_eq_false.mpr fun p hp => List.any_eq_false.mp h p (List.mem_filter.mp hp).1

theorem writeMem_aside (s : State) (pa n : Nat) (f : Nat → Byte) : Aside s (writeMem s pa n f) := by
  obtain ⟨w, a, l, h⟩ := writeMem_only s pa n f
  refine ⟨writeMem_unmoved s pa n f, by rw [h], fun a' k hp => ?_⟩
  rw [h]
  obtain ⟨hin, hlost⟩ := Bool.or_eq_false_iff.mp hp
  exact Bool.or_eq_false_iff.mpr ⟨poisonedIn_clearPoison hin pa n, hlost⟩

theorem l1Seen_only (core : Nat) (s : State) (pa n : Nat) : ∃ l, l1Seen core s pa n = { s with teams := l } := by
  unfold l1Seen
  simp only
  split
  · exact ⟨s.teams, rfl⟩
  · exact ⟨_, rfl⟩

theorem l1Seen_aside (core : Nat) (s : State) (pa n : Nat) : Aside s (l1Seen core s pa n) := by
  have h := (l1Seen_put (d := 0) (i := 0) core s pa n).unmoved
  obtain ⟨l, hl⟩ := l1Seen_only core s pa n
  rw [hl] at h ⊢
  exact ⟨h, rfl, fun _ _ hp => hp⟩

theorem l1Kill_aside (s : State) (core pa n : Nat) : Aside s (l1Kill s core pa n) := ⟨.of_eq rfl rfl rfl, rfl, fun _ _ h => h⟩

/-- A word has been written at its home slice. -/
structure WordPut (pa n v : Nat) (s u : State) : Prop extends Aside s u where
  same   : readMem u pa n = v % 2 ^ (8 * n)
  others : ∀ a, a < pa ∨ pa + n ≤ a → readByte u a = readByte s a

theorem atomMemBy_put (core : Nat) (s : State) (pa n v : Nat) : WordPut pa n v s (atomMemBy core s pa n (byteOf v)) := by
  have hmem : (atomMemBy core s pa n (byteOf v)).mem = (writeMem s pa n (byteOf v)).mem :=
    (l1Seen_stores core (writeMem s pa n (byteOf v)) pa n).1
  refine ⟨(writeMem_aside s pa n _).trans ((l1Seen_aside core _ pa n).trans (l1Kill_aside _ core pa n)), ?_, fun a ha => ?_⟩
  · exact (readMem_of_mem hmem pa n).trans (readMem_writeNat s pa n v)
  · rw [readByte, hmem]
    exact readByte_writeMem_other s pa n _ a ha

/-- The word that a lane's operation leaves of the word before it (R60, R295). -/
def atomWord (x : Iss) (op : AOp) (m l : Nat) : Nat :=
  atomicResult op (atomBits x) m (atomParts op (atomBits x) (atomOperand x l)).1 (atomParts op (atomBits x) (atomOperand x l)).2

/-- The operation of one lane at a local address (R60, R85, R376). -/
def atomStep (x : Iss) (op : AOp) (a : LaneAcc) (pa n cp : Nat) (s : State) : State :=
  atomMemBy x.team.core (sliceTouch (spoilRows s x.team.key a.acc.ga (atomBits x / 8)) (partOfCtx s x.team.ctx) cp false pa n true)
    pa (atomBits x / 8) (byteOf (atomWord x op (readMem s pa (atomBits x / 8)) a.lane))

theorem atomStep_put (x : Iss) (op : AOp) (a : LaneAcc) (pa n cp : Nat) (s : State) :
    WordPut pa (atomBits x / 8) (atomWord x op (readMem s pa (atomBits x / 8)) a.lane) s (atomStep x op a pa n cp s) := by
  have h1 := spoilRows_aside s x.team.key a.acc.ga (atomBits x / 8)
  have h2 := sliceTouch_caches (spoilRows s x.team.key a.acc.ga (atomBits x / 8)) (partOfCtx s x.team.ctx) cp false pa n true
  have h3 := atomMemBy_put x.team.core (sliceTouch (spoilRows s x.team.key a.acc.ga (atomBits x / 8)) (partOfCtx s x.team.ctx) cp false pa n true)
    pa (atomBits x / 8) (atomWord x op (readMem s pa (atomBits x / 8)) a.lane)
  refine ⟨(h1.trans h2.aside).trans h3.toAside, h3.same, fun b hb => (h3.others b hb).trans ?_⟩
  rw [readByte, h2.mem]
  rfl

/-! ### Groups of one lane (R172, R297) -/

theorem groupOperand_singleton (op : AOp) (w v : Nat) : groupOperand op w [v] = v := rfl

/-- Lanes that go to places of their own are not combined. -/
theorem atomGroups_distinct (op : AOp) (ok : List (LaneAcc × List Target)) (h : ok.Pairwise (fun p q => p.2 ≠ q.2)) :
    atomGroups op ok.length ok = ok.map (fun p => [p]) := by
  induction ok with
  | nil => rfl
  | cons p ok ih =>
    obtain ⟨hp, hrest⟩ := List.pairwise_cons.mp h
    have hsame : ok.filter (fun q => decide (q.2 = p.2)) = [] := List.filter_eq_nil_iff.mpr fun q hq => by simpa using (hp q hq).symm
    have hother : ok.filter (fun q => decide (q.2 ≠ p.2)) = ok := List.filter_eq_self.mpr fun q hq => decide_eq_true (hp q hq).symm
    rw [List.length_cons, atomGroups, hsame, hother, ih hrest, ite_self, List.map_cons]

/-- A group of one lane at a local address that is not poisoned. -/
theorem atomPerform_one (x : Iss) (kind : Nat) (code : BitVec 8) (op : AOp) (flight : Nat) (a : LaneAcc) {pa n cp : Nat} {s : State}
    (rest : List (List (LaneAcc × List Target))) (h : poisonAt s pa (atomBits x / 8) = false) :
    let r := atomPerform x kind code op (atomBits x) flight rest (atomStep x op a pa n cp s)
    atomPerform x kind code op (atomBits x) flight ([(a, [.mem pa n cp])] :: rest) s =
      (r.1, (a.lane, readMem s pa (atomBits x / 8)) :: r.2.1, r.2.2) := by
  have hp : poisonAt (spoilRows s x.team.key a.acc.ga (atomBits x / 8)) pa (atomBits x / 8) = false := h
  rw [atomPerform]
  · simp only [atomAt, hp, Bool.false_eq_true, if_false, List.map_cons, List.map_nil, groupOperand_singleton, List.headD_cons, ite_self]
    rfl
  · exact nofun

/-! ### The words of the lanes -/

/-- The lanes of checked accesses to memory of this device, with their local addresses. -/
def atomPlaces (ok : List (LaneAcc × List Target)) : List (Nat × Nat) := ok.filterMap (fun p => match p.2 with
  | [.mem pa _ _] => some (p.1.lane, pa)
  | _ => none)

/-- Every lane's access is one piece of memory of this device. -/
def AllInMem (ok : List (LaneAcc × List Target)) : Prop := ∀ p ∈ ok, ∃ pa n cp, p.2 = [.mem pa n cp]

theorem allInMem_of_length {ok : List (LaneAcc × List Target)} (h : (atomPlaces ok).length = ok.length) : AllInMem ok := by
  induction ok with
  | nil => exact fun p hp => by cases hp
  | cons p ok ih =>
    unfold atomPlaces at h ih
    rw [List.filterMap_cons] at h
    split at h
    · next hnone =>
      have hle := List.length_filterMap_le (fun p : LaneAcc × List Target => match p.2 with
        | [.mem pa _ _] => some (p.1.lane, pa)
        | _ => none) ok
      rw [List.length_cons] at h
      omega
    · next hsome =>
      refine List.forall_mem_cons.mpr ⟨?_, ih (Nat.succ.inj h)⟩
      split at hsome
      · next hts => exact ⟨_, _, _, hts⟩
      · cases hsome

theorem atomPlaces_lanes {ok : List (LaneAcc × List Target)} (h : AllInMem ok) : (atomPlaces ok).map (·.1) = ok.map (·.1.lane) := by
  induction ok with
  | nil => rfl
  | cons p ok ih =>
    obtain ⟨⟨pa, n, cp, hp⟩, hok⟩ := List.forall_mem_cons.mp h
    obtain ⟨a, ts⟩ := p
    subst hp
    exact congrArg (a.lane :: ·) (ih hok)

/-- No byte is in the words of two lanes (R203). -/
def WordsApart (n : Nat) (l : List (Nat × Nat)) : Prop := l.Pairwise (fun p q => p.2 + n ≤ q.2 ∨ q.2 + n ≤ p.2)

theorem targets_distinct {n : Nat} {ok : List (LaneAcc × List Target)} (hn : 0 < n) (h : AllInMem ok) (hd : WordsApart n (atomPlaces ok)) :
    ok.Pairwise (fun p q => p.2 ≠ q.2) := by
  refine (List.pairwise_filterMap.mp hd).imp_of_mem fun {p q} hp hq hpq e => ?_
  obtain ⟨pa, k, cp, hts⟩ := h p hp
  have hts' := e ▸ hts
  have := hpq (p.1.lane, pa) (by rw [hts]) (q.1.lane, pa) (by rw [hts'])
  omega

/-- The words of lanes have been combined with their operands, and no other byte has changed. -/
structure WordsCombined (x : Iss) (op : AOp) (l : List (Nat × Nat)) (s u : State) : Prop extends Aside s u where
  words  : ∀ p ∈ l, readMem u p.2 (atomBits x / 8) = atomWord x op (readMem s p.2 (atomBits x / 8)) p.1 % 2 ^ atomBits x
  others : ∀ a, (∀ p ∈ l, a < p.2 ∨ p.2 + atomBits x / 8 ≤ a) → readByte u a = readByte s a

theorem atomBits_bytes (x : Iss) : 8 * (atomBits x / 8) = atomBits x := by
  unfold atomBits
  split <;> rfl

theorem atomBits_pos (x : Iss) : 0 < atomBits x / 8 := by
  unfold atomBits
  split <;> decide

theorem readMem_congr {s u : State} {pa n : Nat} (h : ∀ a, pa ≤ a → a < pa + n → readByte u a = readByte s a) : readMem u pa n = readMem s pa n :=
  leNat_congr _ _ _ _ fun i hi => h _ (by omega) (by omega)

/-- The word of a lane apart from the others stays as it is. -/
theorem WordsCombined.keeps {x : Iss} {op : AOp} {l : List (Nat × Nat)} {s u : State} (h : WordsCombined x op l s u) {p : Nat × Nat}
    (hd : WordsApart (atomBits x / 8) (p :: l)) : readMem u p.2 (atomBits x / 8) = readMem s p.2 (atomBits x / 8) := by
  have hp := (List.pairwise_cons.mp hd).1
  refine readMem_congr fun a hlo hhi => h.others a fun q hq => ?_
  have := hp q hq
  omega

theorem WordsCombined.cons {x : Iss} {op : AOp} {l : List (Nat × Nat)} {p : Nat × Nat} {s u v : State} (hd : WordsApart (atomBits x / 8) (p :: l))
    (h : WordPut p.2 (atomBits x / 8) (atomWord x op (readMem s p.2 (atomBits x / 8)) p.1) s u) (g : WordsCombined x op l u v) :
    WordsCombined x op (p :: l) s v := by
  have hp := (List.pairwise_cons.mp hd).1
  refine ⟨h.toAside.trans g.toAside, List.forall_mem_cons.mpr ⟨?_, fun q hq => ?_⟩, fun a ha => ?_⟩
  · rw [g.keeps hd, h.same, atomBits_bytes]
  · rw [g.words q hq, readMem_congr fun a _ _ => h.others a (by have := hp q hq; omega)]
  · obtain ⟨h1, h2⟩ := List.forall_mem_cons.mp ha
    rw [g.others a h2, h.others a h1]

/-- Lanes at words of their own are performed one by one: each fetches its word as it stood, and none fails (R60, R297). -/
theorem atomPerform_words (x : Iss) (kind : Nat) (code : BitVec 8) (op : AOp) (flight : Nat) (ok : List (LaneAcc × List Target)) :
    ∀ s, AllInMem ok → WordsApart (atomBits x / 8) (atomPlaces ok) → (∀ p ∈ atomPlaces ok, poisonAt s p.2 (atomBits x / 8) = false) →
      ∃ u, atomPerform x kind code op (atomBits x) flight (ok.map (fun p => [p])) s =
        (u, (atomPlaces ok).map (fun p => (p.1, readMem s p.2 (atomBits x / 8))), []) ∧ WordsCombined x op (atomPlaces ok) s u := by
  induction ok with
  | nil => exact fun s _ _ _ => ⟨s, rfl, .refl s, fun p hp => (by cases hp), fun _ _ => rfl⟩
  | cons p ok ih =>
    intro s hmem hd hp
    obtain ⟨⟨pa, n, cp, hts⟩, hok⟩ := List.forall_mem_cons.mp hmem
    obtain ⟨a, ts⟩ := p
    subst hts
    have hplaces : atomPlaces ((a, [.mem pa n cp]) :: ok) = (a.lane, pa) :: atomPlaces ok := rfl
    rw [hplaces] at hd hp ⊢
    obtain ⟨hfirst, hrest⟩ := List.forall_mem_cons.mp hp
    have hput := atomStep_put x op a pa n cp s
    obtain ⟨hapart, hd'⟩ := List.pairwise_cons.mp hd
    obtain ⟨u, hu, hw⟩ := ih (atomStep x op a pa n cp s) hok hd' fun q hq => hput.clean _ _ (hrest q hq)
    refine ⟨u, ?_, .cons hd hput hw⟩
    rw [List.map_cons, atomPerform_one x kind code op flight a _ hfirst, hu, List.map_cons]
    refine congrArg (fun l => (u, _ :: l, [])) (List.map_congr_left fun q hq => ?_)
    rw [readMem_congr fun b _ _ => hput.others b (by have := hapart q hq; omega)]

/-! ### Retirement after accesses to memory -/

theorem rowOffs_mem {x : Iss} {ok : List (LaneAcc × List Target)} (h : AllInMem ok) (r : Nat) : rowOffs x ok r = [] := by
  refine List.flatMap_eq_nil_iff.mpr fun p hp => ?_
  obtain ⟨pa, n, cp, hts⟩ := h p hp
  rw [hts]
  exact ite_self _

/-- Lanes that access no scratchpad meet no conflict of banks, and nothing is traced (R83, R505). -/
theorem conflicts_mem {x : Iss} {ok : List (LaneAcc × List Target)} (h : AllInMem ok) (s : State) :
    Unmoved s (conflicts x ok s) ∧ (conflicts x ok s).ctxs = s.ctxs ∧ (conflicts x ok s).mem = s.mem := by
  have hrows : (List.range x.team.rows).filterMap (fun r => let o := rowOffs x ok r; if o = [] then none else some o) = [] :=
    List.filterMap_eq_nil_iff.mpr fun r _ => if_pos (rowOffs_mem h r)
  refine ⟨(conflicts_traced x ok s).unmoved, ?_⟩
  unfold conflicts
  rw [hrows]
  obtain ⟨a, b, hc⟩ : OnlyCharged s ((List.range x.team.rows).foldl (fun s r =>
      chargeRow s x.team x.split.mask x.active x.pc (degree (rowOffs x ok r) - 1) r) s) :=
    foldl_rel OnlyCharged .refl .trans _ (fun s _ => chargeRow_charged s _ _ _ _ _ _) _ s
  simp only [List.foldl_nil, hc]
  exact ⟨rfl, rfl⟩

/-- What an atomic or a reduction leaves when it has retired (R60, R252). -/
structure AtomDone (x : Iss) (op : AOp) (l : List (Nat × Nat)) (s t : State) : Prop where
  next   : Advanced x t
  regs   : SameRegs s t
  tags   : t.tags = s.tags
  ctxs   : ∀ c, ctxRegs t c = ctxRegs s c
  words  : ∀ p ∈ l, readMem t p.2 (atomBits x / 8) = atomWord x op (readMem s p.2 (atomBits x / 8)) p.1 % 2 ^ atomBits x
  others : ∀ a, (∀ p ∈ l, a < p.2 ∨ p.2 + atomBits x / 8 ≤ a) → readByte t a = readByte s a

/-- The end of both forms: the instruction retires after a state whose memory holds the combined words. -/
def atomEnd (x : Iss) (ok : List (LaneAcc × List Target)) (v : State) : State := chargeIdle x (conflicts x ok (retire x v))

theorem atomEnd_unmoved (x : Iss) (ok : List (LaneAcc × List Target)) (v : State) : Unmoved (retire x v) (atomEnd x ok v) :=
  (conflicts_traced x ok _).unmoved.trans (chargeIdle_charged x _).unmoved

theorem ctxRegs_congr {s t : State} (h : t.ctxs = s.ctxs) (c : Nat) : ctxRegs t c = ctxRegs s c := by
  unfold ctxRegs ctxOf
  rw [h]

theorem WordsCombined.done {x : Iss} {op : AOp} {ok : List (LaneAcc × List Target)} {s u v : State} (h : WordsCombined x op (atomPlaces ok) s u)
    (hok : AllInMem ok) (hv : AtIssue x v) (hr : SameRegs u v) (hg : v.tags = u.tags) (hc : v.ctxs = u.ctxs) (hm : v.mem = u.mem) :
    AtomDone x op (atomPlaces ok) s (atomEnd x ok v) := by
  have hret := retiredFrom hv (atomEnd_unmoved x ok v)
  obtain ⟨-, hcc, hcm⟩ := conflicts_mem (x := x) hok (retire x v)
  obtain ⟨a, b, hch⟩ := chargeIdle_charged x (conflicts x ok (retire x v))
  have hmem : (atomEnd x ok v).mem = u.mem := by
    rw [atomEnd, hch]
    exact hcm.trans ((retire_mem x v).trans hm)
  have hctxs : (atomEnd x ok v).ctxs = (retire x v).ctxs := by
    rw [atomEnd, hch]
    exact hcc
  have hctx (c : Nat) : ctxRegs (atomEnd x ok v) c = ctxRegs s c :=
    (ctxRegs_congr hctxs c).trans ((retire_ctxs x v c).trans (ctxRegs_congr (hc.trans h.ctxs) c))
  exact ⟨hret.next, h.unmoved.regs.trans (hr.trans hret.regs), hret.tags.trans (hg.trans h.unmoved.tags), hctx,
    fun p hp => (readMem_of_mem hmem _ _).trans (h.words p hp), fun b hb => (by rw [readByte, hmem]; exact h.others b hb)⟩

/-! ### The lanes of the instruction -/

/-- A start that moves nothing and leaves memory. -/
theorem WordsCombined.after {x : Iss} {op : AOp} {l : List (Nat × Nat)} {s u v : State} (h : Aside s u) (hm : u.mem = s.mem)
    (g : WordsCombined x op l u v) : WordsCombined x op l s v :=
  ⟨h.trans g.toAside, fun p hp => by rw [g.words p hp, readMem_of_mem hm], fun a ha => (g.others a ha).trans (by rw [readByte, hm]; rfl)⟩

/-- The lanes that pass, their words apart and readable. -/
structure AtomReady (x : Iss) (s : State) (ok : List (LaneAcc × List Target)) : Prop where
  inMem : AllInMem ok
  apart : WordsApart (atomBits x / 8) (atomPlaces ok)
  clean : ∀ p ∈ atomPlaces ok, poisonAt s p.2 (atomBits x / 8) = false

/-- What the lanes fetch: their words as they stood. -/
def atomOld (x : Iss) (s : State) (ok : List (LaneAcc × List Target)) : List (Nat × Nat) :=
  (atomPlaces ok).map (fun p => (p.1, readMem s p.2 (atomBits x / 8)))

theorem AtomReady.perform {x : Iss} {s u : State} {ok : List (LaneAcc × List Target)} (h : AtomReady x s ok) (hu : Aside s u) (hm : u.mem = s.mem)
    (kind : Nat) (code : BitVec 8) (op : AOp) (flight : Nat) :
    ∃ v, atomPerform x kind code op (atomBits x) flight (atomGroups op ok.length ok) u = (v, atomOld x s ok, []) ∧
      WordsCombined x op (atomPlaces ok) s v := by
  obtain ⟨v, hv, hw⟩ := atomPerform_words x kind code op flight ok u h.inMem h.apart fun p hp => hu.clean _ _ (h.clean p hp)
  refine ⟨v, ?_, hw.after hu hm⟩
  rw [atomGroups_distinct op ok (targets_distinct (atomBits_pos x) h.inMem h.apart), hv, atomOld]
  exact congrArg (fun f => (v, (atomPlaces ok).map f, [])) (funext fun p => by rw [readMem_of_mem hm])

theorem atomPlaces_sublist {x : Iss} {ls : List Nat} {s : State} (h : AllInMem (okLanes (checkLanes x (atomLanes x ls) s).2)) :
    ((atomPlaces (okLanes (checkLanes x (atomLanes x ls) s).2)).map (·.1)).Sublist ls := by
  have h1 := (okLanes_sublist (checkLanes x (atomLanes x ls) s).2).map (·.lane)
  rw [checkLanes_fst, List.map_map] at h1
  have h2 : (atomLanes x ls).map (·.lane) = ls := by
    rw [atomLanes, List.map_map]
    exact List.map_id ls
  rw [h2] at h1
  rw [atomPlaces_lanes h]
  exact h1

/-- The access of one lane (R60, R295). -/
def atomAcc (x : Iss) (l : Nat) : LaneAcc :=
  ⟨l, { ga := BitVec.ofNat 64 (readNat x x.f.a l 2), n := atomBits x / 8, align := atomBits x / 8, write := true, atom := true, tags := true }⟩

/-- Where no lane fails and none asks for a page, every lane has its place. -/
theorem atomPlaces_cover {x : Iss} {ls : List Nat} {s : State} (hp : pageLanes (checkLanes x (atomLanes x ls) s).2 = [])
    (hb : badLanes (checkLanes x (atomLanes x ls) s).2 = []) (h : AllInMem (okLanes (checkLanes x (atomLanes x ls) s).2)) {n : Nat} (hn : n ∈ ls) :
    n ∈ (atomPlaces (okLanes (checkLanes x (atomLanes x ls) s).2)).map (·.1) := by
  have hmem : atomAcc x n ∈ atomLanes x ls := List.mem_map_of_mem hn
  obtain ⟨ts, hts⟩ := mem_okLanes_of_clean hp hb (by rw [checkLanes_fst]; exact hmem)
  rw [atomPlaces_lanes h]
  exact List.mem_map_of_mem (f := fun p : LaneAcc × List Target => p.1.lane) hts

/-! ### Reductions -/

theorem redForm_done {i : Instr} {s : State} {x : Iss} {op : AOp} {c : State × List (LaneAcc × Checked)} (hx : Issues i s x) (hlog : NoLog s x)
    (hc : checkLanes x (atomLanes x (lanesOf x.n x.active)) (popIssue s) = c) (hp : pageLanes c.2 = []) (hb : badLanes c.2 = [])
    (hready : AtomReady x s (okLanes c.2)) (ha : x.active ≠ 0) :
    AtomDone x op (atomPlaces (okLanes c.2)) s (chargeIdle x (redForm x op (popIssue s))) ∧
      ∀ r n, flagAt (chargeIdle x (redForm x op (popIssue s))) r n = flagAt s r n := by
  have hlog : NoLog (popIssue s) x := hlog
  have hcaches : OnlyCaches (popIssue s) c.1 := hc ▸ checkLanes_caches x _ _
  have hstart : Aside s c.1 := Aside.trans ⟨.popIssue s, rfl, fun _ _ h => h⟩ hcaches.aside
  obtain ⟨v, hv, hw⟩ := hready.perform hstart hcaches.mem kREDUCE 3 op 0
  have hform : chargeIdle x (redForm x op (popIssue s)) = atomEnd x (okLanes c.2) v := by
    rw [redForm, if_neg ha, writeForm_clean hlog (hc ▸ hp), hc]
    simp only [hv, hb, List.append_nil, ne_eq, not_true_eq_false, if_false, reportLanes_nil]
    rfl
  have hissue : AtIssue x v := (AtIssue.start hx).unmoved ((Unmoved.of_eq (s := popIssue s) (t := s) rfl rfl rfl).trans hw.unmoved)
  rw [hform]
  refine ⟨hw.done hready.inMem hissue (.refl v) rfl rfl rfl, fun r n => ?_⟩
  exact (flagAt_of_inflight (retiredFrom hissue (atomEnd_unmoved x _ v)).inflight r n).trans (hw.unmoved.flags r n)

/-! ### Returning atomics -/

/-- The number of a lane. -/
def atomGet (vals : List (Nat × Nat)) (l : Nat) : Nat := ((vals.find? (fun p => decide (p.1 = l))).map (·.2)).getD 0

def atomWrites (x : Iss) (vals : List (Nat × Nat)) : List RegWrite :=
  regWrites x x.f.d (fieldRegs x).1 (tagDone x vals) (if x.scalarDst then fun _ => atomGet vals x.first else atomGet vals)

/-- The fetched numbers put in flight, under the number that the instruction took before its accesses. -/
def atomFlown (x : Iss) (ok : List (LaneAcc × List Target)) (vals : List (Nat × Nat)) (flight : Nat) (s : State) : State :=
  let s1 := noteReads x (ok.map (fun p => (p.1.acc.n, p.2))) s
  { addFlight x false .ready (atomWrites x vals) [] 0 none { s1 with nextOp := flight } with nextOp := s1.nextOp }

theorem AllInMem.isRemote {ok : List (LaneAcc × List Target)} (h : AllInMem ok) {p : LaneAcc × List Target} (hp : p ∈ ok) : isRemote p.2 = false := by
  obtain ⟨pa, n, cp, hts⟩ := h p hp
  rw [hts]
  rfl

theorem atomForm_clean {s u : State} {x : Iss} {op : AOp} {vals : List (Nat × Nat)} {c : State × List (LaneAcc × Checked)} (ha : x.active ≠ 0)
    (hlog : NoLog s x) (hc : checkLanes x (atomLanes x (accLanes x)) s = c) (hp : pageLanes c.2 = []) (hb : badLanes c.2 = [])
    (hin : AllInMem (okLanes c.2)) (hdone : tagDone x vals ≠ 0)
    (hu : atomPerform x kATOMIC 2 op (atomBits x) c.1.nextOp (atomGroups op (okLanes c.2).length (okLanes c.2)) { c.1 with nextOp := c.1.nextOp + 1 } =
      (u, vals, [])) :
    atomForm x op s = conflicts x (okLanes c.2) (retire x (atomFlown x (okLanes c.2) vals c.1.nextOp u)) := by
  have hremote : (okLanes c.2).any (fun p => isRemote p.2) = false := List.any_eq_false.mpr fun p hp => by rw [hin.isRemote hp]; simp
  have hmask (l : Nat) : (okLanes c.2).any (fun p => decide (p.1.lane = l) && isRemote p.2) = false :=
    List.any_eq_false.mpr fun p hp => by rw [hin.isRemote hp]; simp
  rw [atomForm, if_neg ha, settleThen_clean hlog (hc ▸ hp), hc]
  simp only [hu, hb, hremote, hmask, List.append_nil, Bool.or_false, Bool.false_eq_true, if_false, if_true]
  rw [tagDone] at hdone
  rw [if_neg hdone]
  rfl

theorem laneIn_tagDone {x : Iss} {vals : List (Nat × Nat)} (hne : lanesOf x.n x.active ≠ []) {n : Nat} (hn : n ∈ accLanes x) (hm : n ∈ vals.map (·.1)) :
    n ∈ lanesOf x.n (tagDone x vals) := by
  obtain ⟨hlt, hin⟩ := mem_lanesOf.mp (accLanes_sub hne hn)
  obtain ⟨p, hp, e⟩ := List.mem_map.mp hm
  refine mem_lanesOf.mpr ⟨hlt, ?_⟩
  rw [tagDone, laneIn_maskOf, decide_eq_true (laneIn_lt hin), decide_eq_true hlt, Bool.true_and, Bool.true_and]
  exact List.any_eq_true.mpr ⟨p, hp, decide_eq_true e⟩

/-- The number of each lane is what its registers will hold (R264, R283). -/
theorem atomWrites_hold {x : Iss} {vals : List (Nat × Nat)} (hd : DstFits x (fieldRegs x).1) (hne : lanesOf x.n x.active ≠ [])
    (hsub : (vals.map (·.1)).Sublist (accLanes x)) {e : InFlight}
    (he : ∀ code l, willWrite e code l = writtenBy (atomWrites x vals) code l) {p : Nat × Nat} (hp : p ∈ vals) :
    WillHold e x.f.d p.1 (fieldRegs x).1 p.2 := by
  have hlane : p.1 ∈ vals.map (·.1) := List.mem_map_of_mem hp
  have hacc : p.1 ∈ accLanes x := hsub.subset hlane
  have hget : atomGet vals p.1 = p.2 := by
    rw [atomGet, find_key (fun q : Nat × Nat => q.1) (hsub.nodup (accLanes_nodup x)) hp]
    rfl
  intro i hi
  rw [he, atomWrites, ← hget]
  rcases hd with ⟨v, hv, hfit, hs⟩ | ⟨v, hv, hs⟩
  · rw [if_neg (by rw [hs]; simp), writtenBy_vec hv hfit _ _ hi (laneIn_tagDone hne hacc hlane), Nat.shiftRight_eq_div_pow]
  · rw [if_pos hs, writtenBy_scal hv _ _ p.1 hi, accLanes_scalar hs hacc, Nat.shiftRight_eq_div_pow]

/-- A count of operations that goes on is nothing that a program sees. -/
theorem Flying.of_nextOp {x : Iss} {flag : Nat} {ws : List RegWrite} {s t : State} (h : Flying x flag ws s t) (n : Nat) :
    Flying x flag ws s { t with nextOp := n } :=
  ⟨h.issue.unmoved (.of_eq rfl rfl rfl), h.regs.trans (.of_teams rfl), h.flags, h.others, h.tags, h.ctxs, h.blocks, h.mem, h.flight⟩

theorem Flying.after {x : Iss} {flag : Nat} {ws : List RegWrite} {s u t : State} (h : Silent s u) (hc : u.ctxs = s.ctxs) (hn : u.nextOp = s.nextOp)
    (g : Flying x flag ws u t) : Flying x flag ws s t := by
  obtain ⟨v, e, hv, he, hid, hrest⟩ := g.flight
  exact ⟨g.issue, h.unmoved.regs.trans g.regs, fun n => by rw [g.flags, h.unmoved.flags], fun r n hr => by rw [g.others r n hr, h.unmoved.flags],
    g.tags.trans h.unmoved.tags, g.ctxs.trans hc, g.blocks.trans h.blocks, g.mem.trans h.mem, v, e, hv, he, hid.trans hn, hrest⟩

/-- The numbers are in flight under the instruction's flag, and nothing else has changed (R259). -/
theorem atomFlown_flying {x : Iss} {u : State} (h : AtIssue x u) (ok : List (LaneAcc × List Target)) (vals : List (Nat × Nat)) (flight : Nat) :
    Flying x (bits x.clause.header 15 12) (atomWrites x vals) { u with nextOp := flight } (atomFlown x ok vals flight u) := by
  have hnote : Silent { u with nextOp := flight } { noteReads x (ok.map (fun p => (p.1.acc.n, p.2))) u with nextOp := flight } :=
    noteReads_silent x (ok.map (fun p => (p.1.acc.n, p.2))) { u with nextOp := flight }
  have hissue : AtIssue x { u with nextOp := flight } := h.unmoved (.of_eq rfl rfl rfl)
  have hfly := addFlight_flying (hissue.unmoved hnote.unmoved) (atomWrites x vals)
  exact (hfly.after hnote rfl rfl).of_nextOp _

/-- What is in flight stays so when the instruction retires. -/
theorem Flying.ended {x : Iss} {flag : Nat} {ws : List RegWrite} {s v : State} (h : Flying x flag ws s v) (ok : List (LaneAcc × List Target)) :
    (∀ n, flagAt (atomEnd x ok v) x.ref n = (flagAt s x.ref n || decide (n = flag))) ∧
    ∃ e, flightOf s (atomEnd x ok v) x e ∧ e.flag = flag ∧ e.state = .ready ∧ ∀ code l, willWrite e code l = writtenBy ws code l := by
  have hin := (retiredFrom h.issue (atomEnd_unmoved x ok v)).inflight
  refine ⟨fun n => (flagAt_of_inflight hin x.ref n).trans (h.flags n), ?_⟩
  obtain ⟨tm, e, htm, he, hid, hrest⟩ := h.flight
  have hmine := hin x.ref.team
  rw [htm] at hmine
  obtain ⟨tt, htt, hte⟩ := Option.map_eq_some_iff.mp hmine
  exact ⟨e, ⟨tt, htt, by rw [hte]; exact he, hid⟩, hrest⟩

theorem atomOld_lanes (x : Iss) (s : State) (ok : List (LaneAcc × List Target)) : (atomOld x s ok).map (·.1) = (atomPlaces ok).map (·.1) :=
  List.map_map

theorem atomForm_done {i : Instr} {s : State} {x : Iss} {op : AOp} {c : State × List (LaneAcc × Checked)} (hx : Issues i s x) (hlog : NoLog s x)
    (hd : DstFits x (fieldRegs x).1) (hc : checkLanes x (atomLanes x (accLanes x)) (popIssue s) = c) (hp : pageLanes c.2 = []) (hb : badLanes c.2 = [])
    (hready : AtomReady x s (okLanes c.2)) (hne : lanesOf x.n x.active ≠ []) :
    AtomDone x op (atomPlaces (okLanes c.2)) s (chargeIdle x (atomForm x op (popIssue s))) ∧
      (∀ n, flagAt (chargeIdle x (atomForm x op (popIssue s))) x.ref n = (flagAt s x.ref n || decide (n = bits x.clause.header 15 12))) ∧
      ∃ e, flightOf s (chargeIdle x (atomForm x op (popIssue s))) x e ∧ e.flag = bits x.clause.header 15 12 ∧ e.state = .ready ∧
        ∀ p ∈ atomOld x s (okLanes c.2), WillHold e x.f.d p.1 (fieldRegs x).1 p.2 := by
  have hlog : NoLog (popIssue s) x := hlog
  have hcaches : OnlyCaches (popIssue s) c.1 := hc ▸ checkLanes_caches x _ _
  have hop : c.1.nextOp = s.nextOp := by
    obtain ⟨_, _, _, _, h⟩ := hcaches
    rw [h]
    rfl
  have hstart : Aside s { c.1 with nextOp := c.1.nextOp + 1 } := by
    have h : Aside s c.1 := Aside.trans ⟨.popIssue s, rfl, fun _ _ h => h⟩ hcaches.aside
    exact h.trans ⟨.of_eq rfl rfl rfl, rfl, fun _ _ h => h⟩
  obtain ⟨u, hu, hw⟩ := hready.perform hstart hcaches.mem kATOMIC 2 op c.1.nextOp
  have hsub : ((atomOld x s (okLanes c.2)).map (·.1)).Sublist (accLanes x) := by
    rw [atomOld_lanes]
    exact hc ▸ atomPlaces_sublist (hc ▸ hready.inMem)
  have hdone : tagDone x (atomOld x s (okLanes c.2)) ≠ 0 := by
    obtain ⟨n, hn⟩ := accLanes_ne hne
    have hcover : n ∈ (atomOld x s (okLanes c.2)).map (·.1) := by
      rw [atomOld_lanes]
      exact hc ▸ atomPlaces_cover (hc ▸ hp) (hc ▸ hb) (hc ▸ hready.inMem) hn
    intro h0
    have hin := laneIn_tagDone hne hn hcover
    rw [h0, lanesOf_zero] at hin
    cases hin
  have hform : chargeIdle x (atomForm x op (popIssue s)) = atomEnd x (okLanes c.2) (atomFlown x (okLanes c.2) (atomOld x s (okLanes c.2)) c.1.nextOp u) := by
    rw [atomForm_clean (active_of_lanes hne) hlog hc hp hb hready.inMem hdone hu, atomEnd]
  have hissue : AtIssue x u := (AtIssue.start hx).unmoved ((Unmoved.of_eq (s := popIssue s) (t := s) rfl rfl rfl).trans hw.unmoved)
  have hfly := atomFlown_flying hissue (okLanes c.2) (atomOld x s (okLanes c.2)) c.1.nextOp
  have hregs := SameRegs.trans (.of_teams rfl : SameRegs u { u with nextOp := c.1.nextOp }) hfly.regs
  rw [hform]
  obtain ⟨hflags, e, ⟨tm, htm, he, hid⟩, hflag, hstate, hwrites⟩ := hfly.ended (okLanes c.2)
  refine ⟨hw.done hready.inMem hfly.issue hregs hfly.tags hfly.ctxs hfly.mem, fun n => (hflags n).trans ?_,
    e, ⟨tm, htm, he, hid.trans hop⟩, hflag, hstate, fun p hp => atomWrites_hold hd hne hsub hwrites hp⟩
  exact congrArg (· || _) (hw.unmoved.flags x.ref n)

/-! ### The statement -/

/-- The codes of the returning atomics. -/
theorem atomic_code {op : Nat} (h : within op 0xA0 0xA8 = true) : ∃ k, k < 9 ∧ op = 0xA0 + k := by
  obtain ⟨hlo, hhi⟩ := Bool.and_eq_true_iff.mp h
  exact ⟨op - 0xA0, by have := of_decide_eq_true hhi; omega, by have := of_decide_eq_true hlo; omega⟩

theorem roles_atomic : ∀ k < 9, (roles (0xA0 + k)).1 = .dst ∧ 0xA0 + k ≠ 0xF1 ∧ within (0xA0 + k) 0xD0 0xDB = false := by decide

theorem regs_atomic (ty : Option ETy) (m : Word) (esz n : Nat) : ∀ k < 9, (regs (0xA0 + k) ty m esz n).1 ∣ 128 := by
  intro k hk
  have hw : (regs (0xA0 + k) ty m esz n).1 = if (match ty with | some t => t.wide | none => false) then 2 else 1 := by
    interval_cases k <;> rfl
  have hdvd : ∀ b : Bool, (if b then 2 else 1) ∣ 128 := by decide
  exact hw ▸ hdvd _

/-- The destination of an atomic is one register or an aligned pair (R295). -/
theorem atomic_dstFits {i : Instr} {s : State} {x : Iss} {f : Fields} (hx : Issues i s x) (hf : fieldsOf i = some f)
    (h : within f.op.toNat 0xA0 0xA8 = true) : DstFits x (fieldRegs x).1 := by
  obtain ⟨k, hk, hcode⟩ := atomic_code h
  have hop : x.op = 0xA0 + k := (op_of_fields hx hf).1.trans hcode
  obtain ⟨hr, h1, h2⟩ := roles_atomic k hk
  exact hx.dstFits (.inl (hop ▸ hr)) (hop ▸ h1) (hop ▸ h2) (by rw [fieldRegs, hop]; exact regs_atomic _ _ _ _ k hk)

theorem passes_of_idle {i : Instr} {s : State} {x : Iss} {eff : Iss → State → State} (hx : Issues i s x) (he : exec i s = issue i s eff)
    (h : eff x (popIssue s) = retire x (popIssue s)) : Passes (exec i s) s x x.split.regs := by
  refine ⟨_, he.trans (issue_next _ hx), ?_⟩
  rw [h]
  exact passes_of_caches hx rfl rfl rfl rfl

/-- The lanes' words are ready where the statement's conditions hold. -/
theorem atomResult_of_done {o : Host.Outcome State Fault Refusal} {s : State} {x : Iss} {op : AOp} {ls : List Nat} {P : State → List (Nat × Nat) → Prop}
    (h : let c := checkLanes x (atomLanes x ls) (popIssue s)
      lanesOf x.n x.active ≠ [] → pageLanes c.2 = [] → badLanes c.2 = [] → NoLog s x → AtomReady x s (okLanes c.2) →
        ∃ t, o = .next t ∧ AtomDone x op (atomPlaces (okLanes c.2)) s t ∧ P t (atomOld x s (okLanes c.2))) : AtomResult o s x op ls P := by
  intro hne hp hb hlen hlog hd hclean
  obtain ⟨t, ho, hdone, hP⟩ := h hne hp hb hlog ⟨allInMem_of_length hlen, hd, hclean⟩
  exact ⟨t, ho, hdone.next, hdone.regs, hdone.tags, hdone.ctxs, hdone.words, hdone.others, hP⟩

/-- An instruction whose form is a returning atomic (R60, R295). -/
theorem atomic_result {i : Instr} {s : State} {x : Iss} {f : Fields} {op : Iss → AOp} (hx : Issues i s x)
    (he : exec i s = issue i s (fun x => atomForm x (op x))) (hf : fieldsOf i = some f) (h : within f.op.toNat 0xA0 0xA8 = true) :
    (x.active = 0 → Passes (exec i s) s x x.split.regs) ∧
    AtomResult (exec i s) s x (op x) (accLanes x) (fun t old => (∀ n, flagAt t x.ref n = (flagAt s x.ref n || decide (n = bits x.clause.header 15 12))) ∧
      ∃ e, flightOf s t x e ∧ e.flag = bits x.clause.header 15 12 ∧ e.state = .ready ∧ ∀ p ∈ old, WillHold e x.f.d p.1 (fieldRegs x).1 p.2) := by
  exact ⟨fun ha => passes_of_idle hx he (if_pos ha), atomResult_of_done fun hne hp hb hlog hready =>
    ⟨_, he.trans (issue_next _ hx), atomForm_done hx hlog (atomic_dstFits hx hf h) rfl hp hb hready hne⟩⟩

/-- An instruction whose form is a reduction (R295, R296). -/
theorem reduction_result {i : Instr} {s : State} {x : Iss} {op : Iss → AOp} (hx : Issues i s x)
    (he : exec i s = issue i s (fun x => redForm x (op x))) :
    (x.active = 0 → Passes (exec i s) s x x.split.regs) ∧
    AtomResult (exec i s) s x (op x) (lanesOf x.n x.active) (fun t _ => ∀ r n, flagAt t r n = flagAt s r n) := by
  exact ⟨fun ha => passes_of_idle hx he (if_pos ha), atomResult_of_done fun hne hp hb hlog hready =>
    ⟨_, he.trans (issue_next _ hx), redForm_done hx hlog rfl hp hb hready (active_of_lanes hne)⟩⟩

/-- Settles O26: lanes at words of their own are groups of one; each leaves its word combined and every other byte as it is, and what it fetched is
in flight. -/
theorem atomicAndReductionForms : Obligations.AtomicAndReductionForms := by
  refine ⟨fun s x d a b => ?_, fun s x a b => ?_⟩
  · exact ⟨fun hx => atomic_result (op := fun _ => .add) hx rfl rfl rfl,
      fun hx => atomic_result (op := fun x => signedOp x .minS .minU) hx rfl rfl rfl,
      fun hx => atomic_result (op := fun x => signedOp x .maxS .maxU) hx rfl rfl rfl,
      fun hx => atomic_result (op := fun _ => .and) hx rfl rfl rfl,
      fun hx => atomic_result (op := fun _ => .or) hx rfl rfl rfl,
      fun hx => atomic_result (op := fun _ => .xor) hx rfl rfl rfl,
      fun hx => atomic_result (op := fun _ => .xchg) hx rfl rfl rfl,
      fun hx => atomic_result (op := fun _ => .cas) hx rfl rfl rfl,
      fun hx => atomic_result (op := fun _ => .fadd) hx rfl rfl rfl⟩
  · exact ⟨fun hx => reduction_result (op := fun _ => .add) hx rfl,
      fun hx => reduction_result (op := fun x => signedOp x .minS .minU) hx rfl,
      fun hx => reduction_result (op := fun x => signedOp x .maxS .maxU) hx rfl,
      fun hx => reduction_result (op := fun _ => .and) hx rfl,
      fun hx => reduction_result (op := fun _ => .or) hx rfl,
      fun hx => reduction_result (op := fun _ => .xor) hx rfl,
      fun hx => reduction_result (op := fun _ => .fadd) hx rfl⟩

end Sys2Proof.Machine
end

section
/-! PROOF. Where the statement about the steps of the copy engine fails (R94, R96, R476). -/
namespace Sys2Proof.Machine
open Sys2Proof.Forms

/-! ### A parameter area across a boundary of quarters -/

/-- A fill whose parameter area begins in the last 64 bytes of a page; the engine has accepted it. -/
def borderFill : XeOp :=
  { id := 7, kind := .fill, team := ⟨0, 0, 0⟩, ctx := 0, core := 0, part := 0, entry := 0, lane := 0, pc := 0, param := 0xFFFFC0,
    member := none, future := 0, handle := 0, spBytes := 0, nbar := 0, accepted := true, active := false, slot := 0, loaded := false,
    src := 0, dst := 0, extra := 0, count := 0, next := 0, pieces := [], recvs := [], got := [], sent := [], gone := false, table := [],
    read := [], wrote := [], parked := none, pageFail := [], fail := none, placed := 0, cancelled := false }

/-- The same operation in its active slot. -/
def borderActive : XeOp := { borderFill with active := true, slot := 0 }

/-- A cached translation of a 64-KiB page. -/
def borderPage (way va pa : Nat) : CacheWay TlbEntry :=
  { set := 0, way := way, val := { asid := 0, base := va, bits := 16, leaf := BitVec.ofNat 64 (pa + 3) } }

/-- Quarters 0 and 1 in service and 2 and 3 out of it. MEMIL0 names quarters 0 and 1, but MEMIL1 names quarters 2 and 3, so that the memory of
quarter 1 counts as lost and that of quarter 0 does not. The page of the parameter area is the last of quarter 0, the next the first of quarter 1. -/
def borderState : State :=
  { State.reset with
    memil := [(0, 0b0100), (1, 0b0110)]
    startstat := 0x1B
    tlb := [(l2TlbName 0, { ways := [borderPage 0 0xFF0000 (quarterBytes - 0x10000), borderPage 1 0x1000000 quarterBytes], trees := [] })]
    xeOps := [borderFill]
    event := some (.xeActivate 0) }

/-- The places of the parameter area: 64 bytes on each side of the boundary. -/
def borderPlaces : List Target := [.mem (quarterBytes - 64) 64 0, .mem quarterBytes 64 0]

theorem borderPlaces_checked :
    (xeCheck (updXe borderState borderFill.id (fun _ => borderActive)) borderActive borderFill.param 128 64 false).2 = .ok borderPlaces false := by
  decide +kernel

theorem borderPlaces_span : spans borderPlaces (quarterBytes - 64) 128 = true := by decide +kernel

theorem border_start_not_poisoned : poisonAt borderState (quarterBytes - 64) 128 = false := by decide +kernel

theorem border_records_bad : xeSetup borderState borderActive (readMem borderState (quarterBytes - 64) 128) = .error (statusFail 0x02 0 0) := by
  decide +kernel

/-- The second piece is lost with its quarter, so the activation fails by cause 0x17 before it looks at the records. -/
theorem border_activation_poisoned :
    (xeOf (xeActivate 0 { borderState with event := none }) borderFill.id).map (fun o => o.fail.map (·.status)) = some (some 0x08) := by
  decide +kernel

/-- Refutes O39: the clause of XE_ACTIVATE asks for poison at the first address of the parameter area alone, while the model asks at every piece. In
a state whose MEMIL registers disagree, an area that runs from quarter 0 into the lost quarter 1 fails with status POISON (8), not with the status
(2) of its records. The statement is over every state, whatever its MEMIL registers hold. -/
theorem not_copyEngineSteps : ¬ Obligations.CopyEngineSteps := by
  unfold Obligations.CopyEngineSteps
  intro h
  obtain ⟨-, hactivate, -⟩ := h borderState
  obtain ⟨-, hload⟩ := hactivate 0 borderFill 0 rfl rfl rfl rfl (by decide) (by decide) (by decide)
  obtain ⟨-, hbad⟩ := hload (quarterBytes - 64) borderPlaces false (by decide +kernel) borderPlaces_checked borderPlaces_span border_start_not_poisoned
  obtain ⟨t, hexec, -, hfail⟩ := hbad (statusFail 0x02 0 0) (by decide) rfl border_records_bad
  obtain rfl : xeActivate 0 { borderState with event := none } = t := Host.Outcome.next.inj hexec
  have hpoison := border_activation_poisoned
  rw [hfail] at hpoison
  exact absurd hpoison (by decide)

end Sys2Proof.Machine
end

section
/-! FORMS AT THEIR INSTRUCTION (O28, O29, O30): what an instruction leaves that faults, is held, or retires after an effect; releases that need not
wait, and acquires. -/
namespace Sys2Proof.Machine
open Sys2Proof.Forms

/-! ### Faults of the instruction as a whole -/

section Instruction
variable {i : Instr} {s : State} {x : Iss}

theorem faultAt_taken (hx : Issues i s x) (cause : BitVec 8) (info : Word) :
    FaultTaken s (chargeIdle x (faultAt x cause info (popIssue s))) x cause info :=
  faultTaken_of_raise hx (plainFault cause x.pc x.active info) rfl rfl rfl rfl

/-- A poisoned object fails for the lanes of the active set (R474). -/
theorem objectPoison_taken (hx : Issues i s x) :
    FaultTaken s (chargeIdle x (objectPoison x (popIssue s))) x 0x17 (BitVec.ofNat 32 (lanesOf x.n x.active).length) := by
  unfold objectPoison laneFault
  exact faultTaken_of_raise hx _ rfl rfl rfl rfl

/-! ### Retirement after an effect -/

theorem outside_chargeIdle (x : Iss) (s : State) : outside (chargeIdle x s) = outside s := (chargeIdle_books x s x.ref).outside

theorem outside_ended (x : Iss) (u : State) : outside (chargeIdle x (retire x u)) = outside u :=
  (outside_chargeIdle x _).trans (retire_outside x u)

theorem mem_of_outside {s t : State} (h : outside t = outside s) : t.mem = s.mem := by
  have e := congrArg (fun v : State => v.mem) h
  exact e

theorem watches_of_outside {s t : State} (h : outside t = outside s) : t.watches = s.watches := by
  have e := congrArg (fun v : State => v.watches) h
  exact e

/-- What a form leaves that has made an effect that no program sees in a team, and has retired. -/
structure Ended (x : Iss) (s t : State) : Prop where
  next  : Advanced x t
  regs  : SameRegs s t
  flags : ∀ r n, flagAt t r n = flagAt s r n

theorem ended_of_unmoved (hx : Issues i s x) {u : State} (hu : Unmoved (popIssue s) u) : Ended x s (chargeIdle x (retire x u)) := by
  obtain ⟨hr, -⟩ := retired_charged ((AtIssue.start hx).unmoved hu)
  have h := (Unmoved.popIssue s).trans hu
  exact ⟨hr.next, h.regs.trans hr.regs, fun r n => (flagAt_of_inflight hr.inflight r n).trans (h.flags r n)⟩

/-- A form that has changed of its team only what no program reads, and of the rest nothing that it does. -/
theorem Prep.passed (hx : Issues i s x) {u : State} {tm : Team} (p : Prep s u x tm x.split) (hregs : tm.regs = x.team.regs)
    (hflags : flagsOf tm = flagsOf x.team) : Passed s (chargeIdle x (retire x u)) x x.split.regs := by
  obtain ⟨hteam, -, hcl, -⟩ := hx.team
  obtain ⟨hin, sp, htm, hsp, hplace⟩ := p.done hteam rfl
  have hsplit : splitOf (chargeIdle x (retire x u)) x.ref = some sp := by rw [splitOf, htm, Option.bind_some, splitIn_putSplit]
  refine ⟨hin, ⟨sp, hsplit, ?_⟩, ?_, fun n => ?_, ?_⟩
  · rwa [hcl] at hplace
  · rw [splitRegs, hsplit]
    exact congrArg some hsp
  · rw [flagAt, flagAt, htm, hteam]
    exact flagSet_eq _ _ (by rw [← hflags]; unfold flagsOf; rw [putSplit_inflight]) _ _
  · rw [teamRegs, teamRegs, htm, hteam, Option.map_some, Option.map_some, putSplit_regs, hregs]

/-! ### Steps that follow -/

theorem laneAdd_agenda (s : State) (core ctx idx n : Nat) : s.agenda ⊆ (laneAdd s core ctx idx n).agenda := by
  unfold laneAdd
  dsimp only
  split
  · exact List.Subset.refl _
  · split
    · exact List.Subset.refl _
    · exact List.subset_append_left _ _

theorem chargePasses_agenda (x : Iss) (s : State) : s.agenda ⊆ (chargePasses x s).agenda :=
  foldl_rel (fun s t => s.agenda ⊆ t.agenda) (fun _ => List.Subset.refl _) List.Subset.trans _ (fun s _ =>
    foldl_rel (fun s t => s.agenda ⊆ t.agenda) (fun _ => List.Subset.refl _) List.Subset.trans _ (fun s _ => laneAdd_agenda s _ _ _ _) _ s) _ s

theorem newStamp_agenda (s : State) (r : SplitRef) : (newStamp s r).agenda = s.agenda := by
  unfold newStamp
  split <;> rfl

theorem passTurn_agenda (s : State) (k : TeamKey) (n : Nat) : (passTurn s k n).agenda = s.agenda := by
  unfold passTurn
  split
  · split <;> rfl
  · rfl

theorem endStep_agenda (s : State) (r : SplitRef) : (endStep s r).agenda = s.agenda := by
  unfold endStep
  split
  · rfl
  · split
    · rfl
    · split <;> rfl

theorem countIssue_agenda (x : Iss) (s : State) : s.agenda ⊆ (countIssue x s).agenda := by
  unfold countIssue
  dsimp only
  split
  · rw [newStamp_agenda]
    exact chargePasses_agenda x s
  · exact chargePasses_agenda x s

theorem chargeIdle_agenda (x : Iss) (s : State) : s.agenda ⊆ (chargeIdle x s).agenda := by
  unfold chargeIdle
  split
  · split
    · exact laneAdd_agenda s _ _ _ _
    · exact List.Subset.refl _
  · exact List.Subset.refl _

/-- What waits to follow still does once the instruction has retired. -/
theorem ended_agenda (x : Iss) (u : State) : u.agenda ⊆ (chargeIdle x (retire x u)).agenda := by
  refine List.Subset.trans ?_ (chargeIdle_agenda x _)
  unfold retire
  dsimp only
  generalize hu : updTeam u x.ref.team _ = v
  have hagenda : v.agenda = u.agenda := hu ▸ rfl
  rw [endStep_agenda, passTurn_agenda, ← hagenda]
  split
  · rw [newStamp_agenda]
    exact countIssue_agenda x v
  · exact countIssue_agenda x v

/-! ### Held at the instruction -/

theorem holdAt_stall (x : Iss) (st : Stall) (s : State) :
    holdAt x (.stall st) s = updSplit s x.ref (fun sp => { sp with hold := .stall st, ready := 0 }) := rfl

theorem Books.inner (hx : Issues i s x) {t : State} (h : Books (popIssue s) t x.ref) : Inner s t x := by
  obtain ⟨hteam, hsp, -⟩ := hx.team
  obtain ⟨sp, htm, -⟩ := h.mine x.team x.split hteam hsp
  refine ⟨h.outside, h.ctxs, h.blocks, h.teams, ?_⟩
  rw [splitOf, splitOf, htm, hteam, Option.bind_some, Option.bind_some]
  exact splitIn_putSplit_not _ _ _

/-- The issuing split in a state that has only moved what no program sees. -/
theorem AtIssue.split {u : State} (h : AtIssue x u) : ∃ sp, splitOf u x.ref = some sp ∧ sp.seen = x.split.seen := by
  obtain ⟨⟨tm, sp, htm, -, hsp, hseen⟩, -⟩ := h
  exact ⟨sp, by rw [splitOf, htm]; exact hsp, hseen⟩

theorem splitOf_charged {s t : State} (h : OnlyCharged s t) (r : SplitRef) : splitOf t r = splitOf s r := by
  obtain ⟨_, _, rfl⟩ := h
  rfl

/-- A split held by a stall stands where it stood (R262). -/
theorem heldHere_stall (hx : Issues i s x) (st : Stall) : HeldHere s (chargeIdle x (holdAt x (.stall st) (popIssue s))) x (.stall st) := by
  have hhold : Unmoved (popIssue s) (holdAt x (.stall st) (popIssue s)) := .updSplit _ _ _ (fun _ => rfl)
  have hcharge := chargeIdle_charged x (holdAt x (.stall st) (popIssue s))
  have hbooks : Books (popIssue s) (holdAt x (.stall st) (popIssue s)) x.ref := updSplit_books _ _ _ (fun _ => ⟨rfl, rfl, rfl, rfl⟩)
  have hmoved := ((Unmoved.popIssue s).trans hhold).trans hcharge.unmoved
  obtain ⟨hteam, hsp, hcl, -⟩ := hx.team
  refine ⟨(hbooks.trans (chargeIdle_books x _ x.ref)).inner hx, ⟨{ x.split with hold := .stall st, ready := 0 }, ?_, rfl, rfl, rfl, hcl, rfl⟩,
    fun n => hmoved.flags x.ref n, hmoved.regs.teams _⟩
  have hsplit : splitOf (popIssue s) x.ref = some x.split := by
    rw [splitOf, show teamOf (popIssue s) x.ref.team = some x.team from hteam]
    exact hsp
  rw [splitOf_charged hcharge, holdAt_stall, splitOf_updSplit, hsplit]
  rfl

theorem passTurn_unmoved (s : State) (k : TeamKey) (n : Nat) : Unmoved s (passTurn s k n) := by
  unfold passTurn
  split
  · split
    · exact .of_eq rfl rfl rfl
    · exact .refl s
  · exact .refl s

theorem queueRec_unmoved (s : State) (c : Nat) (q : FaultRec) : Unmoved s (queueRec s c q) := .updCtx s c _ (fun _ => rfl)

theorem splitOf_passTurn (s : State) (k : TeamKey) (n : Nat) (r : SplitRef) : splitOf (passTurn s k n) r = splitOf s r := by
  unfold passTurn
  split
  · split <;> rfl
  · rfl

/-- The end of a single step leaves the split's hold. -/
theorem endStep_spec (s : State) (r : SplitRef) : Unmoved s (endStep s r) ∧
    ∀ sp, splitOf s r = some sp → ∃ q, splitOf (endStep s r) r = some q ∧ q.hold = sp.hold ∧ q.seen = sp.seen := by
  unfold endStep
  split
  · exact ⟨.refl s, fun sp h => ⟨sp, h, rfl, rfl⟩⟩
  · split
    · exact ⟨.refl s, fun sp h => ⟨sp, h, rfl, rfl⟩⟩
    · split
      · have hu : Unmoved s (updSplit s r (fun sp => { sp with stepping := false })) := .updSplit s r _ (fun _ => rfl)
        refine ⟨hu.trans (queueRec_unmoved _ _ _), fun sp h => ⟨{ sp with stepping := false }, ?_, rfl, rfl⟩⟩
        exact (splitOf_updSplit s r (fun sp => { sp with stepping := false })).trans (congrArg (Option.map _) h)
      · exact ⟨.refl s, fun sp h => ⟨sp, h, rfl, rfl⟩⟩

/-- A split that waits stands where it stood (R301). -/
theorem holdAt_wait (x : Iss) (on : List WatchOn) (s : State) : Unmoved s (holdAt x (.wait on) s) ∧ outside (holdAt x (.wait on) s) = outside s ∧
    ∀ sp, splitOf s x.ref = some sp → ∃ q, splitOf (holdAt x (.wait on) s) x.ref = some q ∧ q.hold = .wait on ∧ q.seen = sp.seen := by
  obtain ⟨f, hf, hseen⟩ : ∃ f : Split → Split, holdAt x (.wait on) s = endStep (passTurn (updSplit s x.ref f) x.ref.team 0) x.ref ∧
      ∀ sp, (f sp).hold = .wait on ∧ (f sp).seen = sp.seen := ⟨_, rfl, fun _ => ⟨rfl, rfl⟩⟩
  obtain ⟨hu, hend⟩ := endStep_spec (passTurn (updSplit s x.ref f) x.ref.team 0) x.ref
  have ho : outside (endStep (passTurn (updSplit s x.ref f) x.ref.team 0) x.ref) = outside s :=
    (endStep_books _ x.ref).outside.trans (passTurn_books _ _ _ x.ref).outside
  rw [hf]
  refine ⟨((Unmoved.updSplit s x.ref f (fun sp => (hseen sp).2)).trans (passTurn_unmoved _ _ _)).trans hu, ho, fun sp hsp => ?_⟩
  obtain ⟨q, hq, hhold, hs⟩ := hend (f sp) (by rw [splitOf_passTurn, splitOf_updSplit, hsp]; rfl)
  exact ⟨q, hq, hhold.trans (hseen sp).1, hs.trans (hseen sp).2⟩

/-! ### Blocking waits -/

/-- The watch of a wait: its line, or a poll where the table is full (R63, R64). -/
theorem watchLine_spec (s : State) (r : SplitRef) (pa : Nat) : Silent s (watchLine s r pa).1 ∧ ((watchLine s r pa).2 = .poll ∨
    ((watchLine s r pa).2 = .line (pa / 128) ∧ ∃ w ∈ (watchLine s r pa).1.watches, w.split = r ∧ w.on = .line (pa / 128))) := by
  unfold watchLine
  dsimp only
  split
  · exact ⟨.refl s, .inl rfl⟩
  · split
    · next h =>
      obtain ⟨w, hw, hon⟩ := List.any_eq_true.mp h
      rw [Bool.and_eq_true, decide_eq_true_eq, decide_eq_true_eq] at hon
      exact ⟨.refl s, .inr ⟨rfl, w, hw, hon⟩⟩
    · split
      · exact ⟨.refl s, .inl rfl⟩
      · exact ⟨⟨.of_eq rfl rfl rfl, rfl, rfl⟩, .inr ⟨rfl, _, List.mem_append_right _ (List.mem_singleton_self _), rfl, rfl⟩⟩

theorem waitsOn_of_unmoved (hx : Issues i s x) {u : State} (hu : Unmoved (popIssue s) u) (hm : u.mem = s.mem) (pa : Nat) :
    WaitsOn s (chargeIdle x (waitOn x pa u)) x pa := by
  have hw : waitOn x pa u = holdAt x (.wait [(watchLine u x.ref pa).2]) (watchLine u x.ref pa).1 := rfl
  obtain ⟨hsilent, hon⟩ := watchLine_spec u x.ref pa
  generalize watchLine u x.ref pa = p at hw hsilent hon
  have hissue : AtIssue x p.1 := ((AtIssue.start hx).unmoved hu).unmoved hsilent.unmoved
  obtain ⟨sp, hsp, hseen⟩ := hissue.split
  obtain ⟨hmoved, ho, hheld⟩ := holdAt_wait x [p.2] p.1
  obtain ⟨q, hq, hhold, hqs⟩ := hheld sp hsp
  rw [← hw] at hq hmoved ho
  have hcharge := chargeIdle_charged x (waitOn x pa u)
  have hall : Unmoved s (chargeIdle x (waitOn x pa u)) :=
    (((Unmoved.popIssue s).trans hu).trans hsilent.unmoved).trans (hmoved.trans hcharge.unmoved)
  have hout : outside (chargeIdle x (waitOn x pa u)) = outside p.1 := (outside_chargeIdle x (waitOn x pa u)).trans ho
  have hqx := hqs.trans hseen
  exact ⟨⟨q, p.2, (splitOf_charged hcharge _).trans hq, hhold, congrArg SplitSeen.pc hqx, congrArg SplitSeen.pos hqx,
    (congrArg SplitSeen.clause hqx).trans hissue.clause, (watches_of_outside hout).symm ▸ hon⟩, hall.regs, hall.flags,
    (mem_of_outside hout).trans (hsilent.mem.trans hm)⟩

theorem acquire_silent (x : Iss) (scope : Nat) (s : State) : Silent s (acquire x scope s) := by
  have hteam (u : State) (n : Nat) : Silent u (updTeam u x.ref.team (fun t => { t with acquired := n })) := ⟨.updTeam u _ _ (fun _ => rfl), rfl, rfl⟩
  have hdrop : Silent s (l1Drop s x.team.core) := ⟨.of_eq rfl rfl rfl, rfl, rfl⟩
  unfold acquire
  split
  · exact hdrop.trans (hteam _ _)
  · exact hteam _ _

theorem outside_acquire (x : Iss) (scope : Nat) (s : State) : outside (acquire x scope s) = outside s := by
  unfold acquire
  split <;> rfl

theorem acquire_nextOp (x : Iss) (scope : Nat) (s : State) : (acquire x scope s).nextOp = s.nextOp := by
  unfold acquire
  split <;> rfl

theorem dropWatches_silent (s : State) (r : SplitRef) : Silent s (dropWatches s r) := ⟨.of_eq rfl rfl rfl, rfl, rfl⟩

/-- A wait that goes on watches no more (R65). -/
theorem waitOver_of_unmoved (hx : Issues i s x) {u : State} (hu : Unmoved (popIssue s) u) (hm : u.mem = s.mem) (scope : Nat) :
    WaitOver s (chargeIdle x (leaveWait x scope u)) x := by
  have hleave := (dropWatches_silent u x.ref).trans (acquire_silent x scope (dropWatches u x.ref))
  obtain ⟨hnext, hregs, hflags⟩ := ended_of_unmoved hx (hu.trans hleave.unmoved)
  have hout := (outside_ended x (acquire x scope (dropWatches u x.ref))).trans (outside_acquire x scope _)
  refine ⟨hnext, hregs, hflags, (mem_of_outside hout).trans hm, fun w hw => ?_⟩
  rw [leaveWait, watches_of_outside hout] at hw
  exact of_decide_eq_true (List.mem_filter.mp hw).2

end Instruction

/-! ### Releases that need not wait -/

section Releases
variable {s : State} {x : Iss} {scope : Nat}

theorem logThen_none (h : NoLog s x) (eff : State → State) : logThen x eff s = eff s := by
  have hopen : openEntries s x.ref.team = [] := List.filter_eq_nil_iff.mpr fun e he => by simp [h e he]
  have hfailed : failedEntries s x.ref.team = [] := List.filter_eq_nil_iff.mpr fun e he => by simp [h e he]
  rw [logThen, hopen, hfailed]
  rfl

theorem madeBefore_none {mark : Nat} {p : OutReq → Bool} (h : ∀ q ∈ s.outReqs, q.write = true → reqTeam q = none ∨ p q = false) :
    madeBefore s mark p = false := by
  refine List.any_eq_false.mpr fun q hq hm => ?_
  rw [Bool.and_eq_true, Bool.and_eq_true, Bool.and_eq_true] at hm
  obtain ⟨⟨⟨hw, hteam⟩, -⟩, hp⟩ := hm
  rcases h q hq hw with hn | hn
  · rw [hn] at hteam
    cases hteam
  · rw [hn] at hp
    cases hp

/-- The state with other flushing reads noted. -/
def withFlushes (s : State) (l : List (Nat × SplitRef)) : State := { s with flushes := l }

theorem withFlushes_silent (s : State) (l : List (Nat × SplitRef)) : Silent s (withFlushes s l) := ⟨.of_eq rfl rfl rfl, rfl, rfl⟩

/-- The state in which a split's flushing read is on its way. -/
def flushSent (x : Iss) (s : State) : State :=
  addAgenda { s with flushes := s.flushes ++ [(s.nextOp + 1, x.ref)], nextOp := s.nextOp + 1 } [.pcieCompletion (s.nextOp + 1)]

theorem flushSent_silent (x : Iss) (s : State) : Silent s (flushSent x s) := ⟨.of_eq rfl rfl rfl, rfl, rfl⟩

theorem ReleaseReady.atoms (h : ReleaseReady s x scope) (mark : Nat) : madeBefore s mark (atomicOf x.ref.team) = false :=
  madeBefore_none fun q hq hw => .inr (h.2 q hq hw).1

theorem ReleaseReady.writes (h : ReleaseReady s x scope) (mark : Nat) : (decide (4 ≤ scope) && madeBefore s mark (fun _ => true)) = false := by
  by_cases hs : 4 ≤ scope
  · rw [madeBefore_none fun q hq hw => .inl ((h.2 q hq hw).2 hs), Bool.and_false]
  · rw [decide_eq_false hs, Bool.false_and]

theorem releaseThen_free (h : ReleaseFree s x scope) (eff : State → State) : releaseThen x scope eff s = eff s := by
  obtain ⟨hready, hscope⟩ := h
  rw [releaseThen, logThen_none hready.1]
  simp only [hready.atoms, hready.writes, hscope, Bool.false_eq_true, if_false]

/-- At sys a release sends its flushing read first (R211). -/
theorem releaseThen_flush (h : ReleaseReady s x 5) (hf : s.flushes.find? (fun f => decide (f.2 = x.ref)) = none) (eff : State → State) :
    releaseThen x 5 eff s = holdMarked x .flush (flushSent x s) := by
  rw [releaseThen, logThen_none h.1]
  simp only [h.atoms, h.writes, hf, Bool.false_eq_true, if_false, if_true]
  rfl

/-- A release that goes on forgets its flushing read at most. -/
theorem releaseThen_done (h : ReleaseDone s x scope) (eff : State → State) : ∃ l, releaseThen x scope eff s = eff (withFlushes s l) := by
  obtain ⟨hready, hflush⟩ := h
  by_cases hs : scope = 5
  · subst hs
    rw [releaseThen, logThen_none hready.1]
    simp only [hready.atoms, hready.writes, hflush rfl, Bool.false_eq_true, if_false, if_true]
    exact ⟨_, rfl⟩
  · exact ⟨s.flushes, releaseThen_free ⟨hready, hs⟩ eff⟩

end Releases

end Sys2Proof.Machine
end

section
/-! OPERATIONS IN FLIGHT (O28, O29, O30): what an instruction leaves that puts an operation in flight, and the value that a form reads once for its
team. -/
namespace Sys2Proof.Machine
open Sys2Proof.Forms

/-! ### The operation and its flag -/

/-- The flag that an operation in flight sets: the clause's SETX or SETM (R259). -/
def flightFlag (x : Iss) (setx : Bool) : Nat := if setx then bits x.clause.header 19 16 else bits x.clause.header 15 12

/-- The operation in flight of an instruction. -/
structure FlightOf (x : Iss) (setx : Bool) (state : Pending) (ws : List RegWrite) (op : Nat) (e : InFlight) : Prop where
  id     : e.id = op
  flag   : e.flag = flightFlag x setx
  low    : e.low = !x.ref.high
  high   : e.high = x.ref.high
  state  : e.state = state
  writes : ∀ code l, willWrite e code l = writtenBy ws code l

/-- Putting an operation in flight adds it to its team's, whose others keep their flags (R259). -/
theorem addFlight_team (x : Iss) (setx : Bool) (state : Pending) (ws : List RegWrite) (s : State) : ∃ g : Team → Team,
    addFlight x setx state ws [] 0 none s = { updTeam s x.ref.team g with nextOp := s.nextOp + 1 } ∧
      ∀ t, ∃ l e, g t = { t with inflight := l ++ [e] } ∧ l.map (fun e => (e.flag, e.low, e.high)) = flagsOf t ∧
        FlightOf x setx state ws s.nextOp e := by
  refine ⟨_, rfl, fun t => ?_⟩
  obtain ⟨l, hl, hflags⟩ := markLosts_inflight ws t
  rw [hl]
  refine ⟨l, _, rfl, hflags, rfl, rfl, rfl, rfl, rfl, fun code lane => ?_⟩
  unfold willWrite writtenBy
  rw [List.find?_map, Option.map_map]
  rfl

section Instruction
variable {i : Instr} {s u : State} {x : Iss} {tm : Team} {sp : Split}

/-- The state in which the instruction makes its effect. -/
theorem Prep.start (ht : teamOf s x.ref.team = some x.team) (hs : splitIn x.team x.ref.high = some x.split) : Prep s s x x.team x.split :=
  ⟨rfl, fun _ => rfl, fun _ _ => rfl, fun _ _ => rfl, ht, hs, rfl⟩

theorem Prep.flight (p : Prep s u x tm sp) (setx : Bool) (state : Pending) (ws : List RegWrite) : ∃ l e,
    Prep s (addFlight x setx state ws [] 0 none u) x { tm with inflight := l ++ [e] } sp ∧
      l.map (fun e => (e.flag, e.low, e.high)) = flagsOf tm ∧ FlightOf x setx state ws u.nextOp e := by
  obtain ⟨g, hg, hteam⟩ := addFlight_team x setx state ws u
  obtain ⟨l, e, hmine, hflags, he⟩ := hteam tm
  have hkey (t : Team) : (g t).key = t.key := by
    obtain ⟨l, e, ht, -⟩ := hteam t
    rw [ht]
  have hother (k : TeamKey) : teamOf (addFlight x setx state ws [] 0 none u) k =
      if k = x.ref.team then (teamOf u x.ref.team).map g else teamOf u k := by
    rw [hg]
    exact teamOf_updTeam u x.ref.team g k hkey
  refine ⟨l, e, ⟨?_, fun c => ?_, fun d j => ?_, fun k hk => ?_, ?_, p.split, p.partner⟩, hflags, he⟩
  · rw [hg]
    exact p.outside
  · rw [hg]
    exact p.ctxs c
  · rw [hg]
    exact p.blocks d j
  · rw [hother, if_neg hk]
    exact p.teams k hk
  · rw [hother, if_pos rfl, p.team, Option.map_some, hmine]

theorem flagSet_append {t : Team} {l : List InFlight} {e : InFlight} {setx : Bool} {state : Pending} {ws : List RegWrite} {op : Nat}
    (hflags : l.map (fun e => (e.flag, e.low, e.high)) = flagsOf t) (he : FlightOf x setx state ws op e) (n : Nat) :
    flagSet { t with inflight := l ++ [e] } x.ref.high n = (flagSet t x.ref.high n || decide (n = flightFlag x setx)) := by
  have h := flagSet_eq { t with inflight := l } t hflags x.ref.high n
  have hn : decide (flightFlag x setx = n) = decide (n = flightFlag x setx) := decide_eq_decide.mpr eq_comm
  rw [← h]
  cases hh : x.ref.high <;> simp [flagSet, List.any_append, he.flag, he.low, he.high, hh, hn]

/-- An instruction that has put an operation in flight and retired: of the state in which it made its effect nothing else has changed that a
program sees (R259, R262). -/
structure Flown (x : Iss) (setx : Bool) (state : Pending) (ws : List RegWrite) (u t : State) : Prop extends Inner u t x where
  next   : Advanced x t
  regs   : SameRegs u t
  flags  : ∀ n, flagAt t x.ref n = (flagAt u x.ref n || decide (n = flightFlag x setx))
  flight : ∃ tm e, teamOf t x.ref.team = some tm ∧ e ∈ tm.inflight ∧ FlightOf x setx state ws u.nextOp e

theorem flown (ht : teamOf u x.ref.team = some x.team) (hs : splitIn x.team x.ref.high = some x.split) (hcl : x.split.clause = some x.clause)
    (setx : Bool) (state : Pending) (ws : List RegWrite) :
    Flown x setx state ws u (chargeIdle x (retire x (addFlight x setx state ws [] 0 none u))) := by
  obtain ⟨l, e, p, hflags, he⟩ := (Prep.start ht hs).flight setx state ws
  obtain ⟨hin, sp, htm, hregs, hplace⟩ := p.done ht rfl
  generalize chargeIdle x (retire x (addFlight x setx state ws [] 0 none u)) = t at hin htm ⊢
  have hsplit : splitOf t x.ref = some sp := by rw [splitOf, htm, Option.bind_some, splitIn_putSplit]
  have hmine : splitOf u x.ref = some x.split := by
    rw [splitOf, ht]
    exact hs
  refine ⟨hin, ⟨sp, hsplit, ?_⟩, ⟨fun k => ?_, fun r => ?_⟩, fun n => ?_, _, e, htm, ?_, he⟩
  · rwa [hcl] at hplace
  · by_cases hk : k = x.ref.team
    · rw [hk, teamRegs, teamRegs, htm, ht, Option.map_some, Option.map_some, putSplit_regs]
      rfl
    · rw [teamRegs, teamRegs, hin.teams k hk]
  · by_cases hk : r.team = x.ref.team
    · by_cases hh : r.high = x.ref.high
      · have hr : r = x.ref := congrArg₂ SplitRef.mk hk hh
        rw [hr, splitRegs, splitRegs, hsplit, hmine]
        exact congrArg some hregs
      · have hr : r = { x.ref with high := !x.ref.high } := congrArg₂ SplitRef.mk hk (Bool.eq_not.mpr hh)
        rw [hr, splitRegs, splitRegs, hin.partner]
    · rw [splitRegs, splitRegs, splitOf, splitOf, hin.teams _ hk]
  · rw [flagAt, flagAt, htm, ht]
    exact (flagSet_eq _ _ (by unfold flagsOf; rw [putSplit_inflight]) _ _).trans (flagSet_append hflags he n)
  · rw [putSplit_inflight]
    exact List.mem_append_right _ (List.mem_singleton_self _)

end Instruction

end Sys2Proof.Machine
end

section
/-! STARTS OF THE COPY ENGINE (O30): the checks of a start in their order, and the operation, the future and the handle that it leaves. -/
namespace Sys2Proof.Machine
open Sys2Proof.Forms

/-! ### The allocation of a future (R110) -/

/-- Teams, the operations of the copy engines and the count of operations are as they were. -/
structure KeepsOps (s t : State) : Prop where
  teams  : t.teams = s.teams
  xeOps  : t.xeOps = s.xeOps
  nextOp : t.nextOp = s.nextOp

theorem KeepsOps.trans {s t u : State} (h : KeepsOps s t) (g : KeepsOps t u) : KeepsOps s u :=
  ⟨g.teams.trans h.teams, g.xeOps.trans h.xeOps, g.nextOp.trans h.nextOp⟩

theorem writeMem_ops (s : State) (pa n : Nat) (f : Nat → Byte) : KeepsOps s (writeMem s pa n f) := by
  obtain ⟨_, _, _, h⟩ := writeMem_only s pa n f
  rw [h]
  exact ⟨rfl, rfl, rfl⟩

/-- A future that has been allocated is pending for its engine, and no byte but those of DONE and ENG has changed. -/
theorem futAllocate_spec (s : State) (b : Block) (slot eng : Nat) :
    let pa := futureAt (ctxOf s b.ctx) b.area slot
    let t := (futAllocate s b slot eng).1
    KeepsOps s t ∧ futDone t pa = false ∧ futEng t pa = eng % 65536 ∧ ∀ i, i ≠ pa → i ≠ pa + 4 → i ≠ pa + 5 → readByte t i = readByte s i := by
  intro pa t
  obtain ⟨s1, hops, hmem, ht⟩ : ∃ s1, KeepsOps s s1 ∧ s1.mem = s.mem ∧ t = writeNat (writeNat s1 pa 1 0) (pa + 4) 2 eng :=
    ⟨updBlock s b.disp b.index (fun b => { b with futures := b.futures ||| BitVec.ofNat 64 (2 ^ slot) }), ⟨rfl, rfl, rfl⟩, rfl, rfl⟩
  rw [ht]
  refine ⟨(hops.trans (writeMem_ops _ _ _ _)).trans (writeMem_ops _ _ _ _), ?_, readMem_writeNat _ _ _ _, fun i h0 h4 h5 => ?_⟩
  · rw [futDone, writeNat, readMem_writeMem_other _ _ _ _ _ _ (by omega), readMem_writeNat]
    rfl
  · rw [writeNat, readByte_writeMem_other _ _ _ _ _ (by omega), writeNat, readByte_writeMem_other _ _ _ _ _ (by omega), readByte, hmem]
    rfl

/-! ### What a start leaves -/

/-- The place of a start's future and its handle. -/
def xeFuture (x : Iss) (slot : Nat) (s : State) : Nat := futureAt (ctxOf s x.block.ctx) x.block.area slot
def xeHandle (x : Iss) (slot : Nat) (s : State) : Word := handleOf slot x.block.area (futGen s (xeFuture x slot s))

/-- The state in which the engine has the operation of a start, with its future. -/
def xeStarted (x : Iss) (kind : XeKind) (slot : Nat) (s : State) : State :=
  let u := (futAllocate s x.block slot x.team.core).1
  { u with nextOp := u.nextOp + 1, xeOps := u.xeOps ++ [newXeOp x kind u.nextOp (xeFuture x slot s) (xeHandle x slot s)] }

/-- The effect of a start that goes on: its handle is in flight, and it retires. -/
def xeEffect (x : Iss) (kind : XeKind) (slot : Nat) (s : State) : State :=
  retire x (addFlight x true (.engine (futAllocate s x.block slot x.team.core).1.nextOp)
    [{ code := x.f.d.toNat, lane := 0, val := xeHandle x slot s }] [] 0 none (xeStarted x kind slot s))

/-- The operation that a start has queued, with its pending future and its handle in flight under SETX (R95, R110, R303). -/
structure XeStarts (x : Iss) (kind : XeKind) (slot : Nat) (s t : State) : Prop where
  next   : Advanced x t
  regs   : SameRegs s t
  queue  : t.xeOps = s.xeOps ++ [newXeOp x kind s.nextOp (xeFuture x slot s) (xeHandle x slot s)]
  flags  : ∀ n, flagAt t x.ref n = (flagAt s x.ref n || decide (n = bits x.clause.header 19 16))
  done   : futDone t (xeFuture x slot s) = false
  eng    : futEng t (xeFuture x slot s) = x.team.core % 65536
  mem    : ∀ i, i ≠ xeFuture x slot s → i ≠ xeFuture x slot s + 4 → i ≠ xeFuture x slot s + 5 → readByte t i = readByte s i
  flight : ∃ u e, teamOf t x.ref.team = some u ∧ e ∈ u.inflight ∧ e.state = .engine s.nextOp ∧ WillHold e x.f.d 0 1 (xeHandle x slot s).toNat

theorem xeEffect_starts {i : Instr} {s u : State} {x : Iss} (hx : Issues i s x) (hteams : u.teams = s.teams) (kind : XeKind) (slot : Nat) :
    XeStarts x kind slot u (chargeIdle x (xeEffect x kind slot u)) := by
  obtain ⟨ht, hs, hcl, -⟩ := hx.team
  obtain ⟨hops, hdone, heng, hbytes⟩ := futAllocate_spec u x.block slot x.team.core
  have hsame : (xeStarted x kind slot u).teams = u.teams := hops.teams
  have hregs : SameRegs u (xeStarted x kind slot u) := .of_teams hsame
  have hfly := flown ((teamOf_congr (hsame.trans hteams) _).trans ht) hs hcl true (.engine (futAllocate u x.block slot x.team.core).1.nextOp)
    [{ code := x.f.d.toNat, lane := 0, val := xeHandle x slot u }]
  obtain ⟨tm, e, htm, he, hflight⟩ := hfly.flight
  have hmem : (chargeIdle x (xeEffect x kind slot u)).mem = (futAllocate u x.block slot x.team.core).1.mem :=
    (mem_of_outside hfly.outside : _ = (xeStarted x kind slot u).mem)
  have hflags : ∀ n, flagAt (xeStarted x kind slot u) x.ref n = flagAt u x.ref n := flagAt_of_inflight (fun k => by rw [teamOf_congr hsame]) x.ref
  have hqueue : (chargeIdle x (xeEffect x kind slot u)).xeOps = (xeStarted x kind slot u).xeOps := by
    have e := congrArg (fun v : State => v.xeOps) hfly.outside
    exact e
  refine ⟨hfly.next, hregs.trans hfly.regs, hqueue.trans ?_, fun n => ?_, ?_, ?_, fun i h0 h4 h5 => ?_, tm, e, htm, he, ?_, ?_⟩
  · rw [xeStarted, hops.xeOps, hops.nextOp]
  · rw [← hflags]
    exact hfly.flags n
  · rw [futDone, readMem_of_mem hmem]
    exact hdone
  · rw [futEng, readMem_of_mem hmem]
    exact heng
  · rw [readByte, hmem]
    exact hbytes i h0 h4 h5
  · rw [hflight.state, hops.nextOp]
  · intro k hk
    obtain rfl : k = 0 := by omega
    rw [hflight.writes]
    simp [writtenBy]

/-- A start is seen from the state in which it issues. -/
theorem XeStarts.issued {x : Iss} {kind : XeKind} {slot : Nat} {s t : State} {l : List (Nat × SplitRef)}
    (h : XeStarts x kind slot (withFlushes (popIssue s) l) t) : XeStarts x kind slot s t :=
  ⟨h.next, ⟨h.regs.teams, h.regs.splits⟩, h.queue, h.flags, h.done, h.eng, h.mem, h.flight⟩

/-! ### The checks of a start (R93, R110, R123) -/

section Checks
variable {x : Iss} {kind : XeKind} {s : State}

theorem startForm_number (hn : bits x.m 3 3 = 1 ∧ x.disp.nbar ≤ bits x.m 7 4) : startForm x kind s = faultAt x 0x39 x.f.word s := if_pos hn

variable (hn : ¬ (bits x.m 3 3 = 1 ∧ x.disp.nbar ≤ bits x.m 7 4))
include hn

theorem startForm_pool (hp : poolRefused s x.ctx x.block.area = true) : startForm x kind s = faultAt x 0x42 x.f.word s := by
  rw [startForm, if_neg hn, if_pos hp]

variable (hp : poolRefused s x.ctx x.block.area = false)
include hp

theorem startForm_idle (ha : x.active = 0) : startForm x kind s = retire x s := by rw [startForm, if_neg hn, if_neg (by simp [hp]), if_pos ha]

variable (ha : x.active ≠ 0)
include ha

theorem startForm_full (hf : freeFuture x.block = none) : startForm x kind s = faultAt x 0x33 x.f.word s := by
  rw [startForm, if_neg hn, if_neg (by simp [hp]), if_neg ha, hf]

variable {slot : Nat} (hf : freeFuture x.block = some slot) (hs : poisonAt s (futureAt x.ctx x.block.area slot) 32 = false)
include hf hs

theorem startForm_queued (hq : 64 ≤ xeQueued s x.team.core) : startForm x kind s = holdAt x (.stall .engine) s := by
  rw [startForm, if_neg hn, if_neg (by simp [hp]), if_neg ha, hf]
  simp only [hs, hq, Bool.false_eq_true, if_false, if_true]

theorem startForm_release (hq : xeQueued s x.team.core < 64) :
    startForm x kind s = releaseThen x (bits x.m 2 0) (xeEffect x kind slot) s := by
  rw [startForm, if_neg hn, if_neg (by simp [hp]), if_neg ha, hf]
  simp only [hs, Nat.not_le.mpr hq, Bool.false_eq_true, if_false]
  rfl

end Checks

/-- Settles O30: the checks in their order, and the one effect of a start once its release goes on. -/
theorem engineStarts : Obligations.EngineStarts := by
  intro s x d a b Starts
  have hstarts (i : Instr) (kind : XeKind) (hx : Issues i s x) (he : exec i s = issue i s (fun x => startForm x kind)) : Starts (exec i s) kind := by
    have hnext := he.trans (issue_next (fun x => startForm x kind) hx)
    refine ⟨fun hn => ⟨_, hnext, ?_⟩, fun hn hp => ⟨_, hnext, ?_⟩, fun hn hp ha => ⟨_, hnext, ?_⟩, fun hn hp ha hf => ⟨_, hnext, ?_⟩,
      fun slot hn hp ha hf => ⟨fun hs hq => ⟨_, hnext, ?_⟩, fun hs hq hr blk hblk hctx _ _ => ?_⟩⟩
    · rw [startForm_number (s := popIssue s) hn]
      exact faultAt_taken hx _ _
    · rw [startForm_pool (s := popIssue s) hn hp]
      exact faultAt_taken hx _ _
    · rw [startForm_idle (s := popIssue s) hn hp ha]
      exact passes_of_caches hx rfl rfl rfl rfl
    · rw [startForm_full (s := popIssue s) hn hp ha hf]
      exact faultAt_taken hx _ _
    · rw [startForm_queued (s := popIssue s) hn hp ha hf hs hq]
      exact heldHere_stall hx .engine
    · obtain ⟨l, hl⟩ := releaseThen_done (s := popIssue s) hr (xeEffect x kind slot)
      have hown : x.block = blk := by rw [hx.block, hblk]; rfl
      have hfut : xeFuture x slot s = futureAt x.ctx x.block.area slot := by rw [xeFuture, hx.ctx, hctx, hown]
      rw [startForm_release (s := popIssue s) hn hp ha hf hs hq, hl] at hnext
      obtain ⟨hadv, hregs, hqueue, hflags, hdone, heng, hmem, hflight⟩ := (xeEffect_starts (u := withFlushes (popIssue s) l) hx rfl kind slot).issued
      simp only [xeHandle, hfut] at hqueue hdone heng hmem hflight
      exact ⟨_, hnext, hadv, hregs, hqueue, hflags, hdone, heng, hmem, hflight⟩
  exact ⟨fun hx => hstarts _ .copy hx rfl, fun hx => hstarts _ .copyT hx rfl, fun hx => hstarts _ .gather hx rfl, fun hx => hstarts _ .fill hx rfl⟩

end Sys2Proof.Machine
end

section
/-! FUTURES (O29): the value of a future that a form reads once for its team, its retirement by one byte of its object, and its cancel. -/
namespace Sys2Proof.Machine
open Sys2Proof.Forms

/-! ### A value that is read once for the team (R396, R397) -/

section Value
variable {i : Instr} {s u : State} {x : Iss}

/-- A form with one destination register names one that its lanes can hold. -/
theorem Issues.fits_one {f : Fields} (hx : Issues i s x) (hf : fieldsOf i = some f) (hr : (roles f.op.toNat).1 = .dst) (hop : f.op.toNat ≠ 0xF1)
    (hm : within f.op.toNat 0xD0 0xDB = false) (hk : (fieldRegs x).1 = 1) : DstFits x (fieldRegs x).1 := by
  have h := (op_of_fields hx hf).1
  exact hx.dstFits (.inl (h ▸ hr)) (h ▸ hop) (h ▸ hm) (hk ▸ Nat.one_dvd _)

/-- Every active and helper lane will hold the value, but for those whose result is UNKNOWN (R320). -/
theorem teamValue_hold {v l : Nat} {e : InFlight} (hd : DstFits x (fieldRegs x).1) (hk : (fieldRegs x).1 = 1) (hl : l < x.n)
    (hin : laneIn x.all l = true) (hmix : laneIn x.mixed l = false)
    (he : ∀ code lane, willWrite e code lane = writtenBy (regWrites x x.f.d (fieldRegs x).1 x.all (laneValue x (fun _ => v))) code lane) :
    WillHold e x.f.d l 1 v := by
  intro k hk1
  have hlt : k < (fieldRegs x).1 := hk ▸ hk1
  rw [he]
  rcases hd with ⟨r, hr, hfit, -⟩ | ⟨r, hr, hs⟩
  · rw [writtenBy_vec hr hfit _ _ hlt (mem_lanesOf.mpr ⟨hl, hin⟩), laneValue, hmix, Nat.shiftRight_eq_div_pow]
    rfl
  · rw [writtenBy_scal hr _ _ l hlt, laneValue, mixed_scalar hs, laneIn_zero, Nat.shiftRight_eq_div_pow]
    rfl

/-- The writes of a value that is read once for the team. -/
def valueWrites (x : Iss) (v : Nat) : List RegWrite := regWrites x x.f.d (fieldRegs x).1 x.all (laneValue x (fun _ => v))

/-- A value read after an effect that no program sees in a team is in flight. -/
theorem teamResult_flying (hx : Issues i s x) (hu : Unmoved (popIssue s) u) (hop : u.nextOp = s.nextOp) (v : Nat) :
    Advanced x (chargeIdle x (teamResult x v u)) ∧ SameRegs s (chargeIdle x (teamResult x v u)) ∧
    (∀ n, flagAt (chargeIdle x (teamResult x v u)) x.ref n = (flagAt s x.ref n || decide (n = bits x.clause.header 15 12))) ∧
    (chargeIdle x (teamResult x v u)).mem = u.mem ∧
    ∃ e, flightOf s (chargeIdle x (teamResult x v u)) x e ∧ e.state = .ready ∧ ∀ code l, willWrite e code l = writtenBy (valueWrites x v) code l := by
  have hfly := addFlight_flying ((AtIssue.start hx).unmoved hu) (valueWrites x v)
  have hsu := (Unmoved.popIssue s).trans hu
  obtain ⟨hr, hmem⟩ := retired_charged hfly.issue
  obtain ⟨tm, e, htm, he, hid, -, hstate, hw⟩ := hfly.flight
  have hin := hr.inflight x.ref.team
  rw [htm] at hin
  obtain ⟨tt, htt, hte⟩ := Option.map_eq_some_iff.mp hin
  refine ⟨hr.next, hsu.regs.trans (hfly.regs.trans hr.regs), fun n => ?_, hmem.trans hfly.mem, e, ⟨tt, htt, ?_, hid.trans hop⟩, hstate, hw⟩
  · exact (flagAt_of_inflight hr.inflight x.ref n).trans ((hfly.flags n).trans (congrArg (· || _) (hsu.flags x.ref n)))
  · rw [hte]
    exact he

end Value

/-! ### The retirement of a future (R110) -/

theorem futRetire_unmoved (s : State) (c : Nat) (h : Word) : Unmoved s (futRetire s c h) := by
  unfold futRetire
  dsimp only
  split
  · exact writeMem_unmoved _ _ _ _
  · exact (writeMem_unmoved s _ _ _).trans (.of_eq rfl rfl rfl)

theorem futRetire_mem (s : State) (c : Nat) (h : Word) : (futRetire s c h).mem =
    (writeNat s (futureAt (ctxOf s c) (bits h 21 6) (bits h 5 0) + 2) 1 ((futGen s (futureAt (ctxOf s c) (bits h 21 6) (bits h 5 0)) + 1) % 256)).mem := by
  unfold futRetire
  dsimp only
  split <;> rfl

theorem futRetire_nextOp (s : State) (c : Nat) (h : Word) : (futRetire s c h).nextOp = s.nextOp := by
  unfold futRetire
  dsimp only
  split
  · exact (writeMem_ops _ _ _ _).nextOp
  · exact (writeMem_ops s _ _ _).nextOp

/-- The slot of a future that is done is retired, unless the form keeps it (R397). -/
def futLeave (x : Iss) (k : BitVec 1) (h : Word) (s : State) : State := if k = 0 then futRetire s x.team.ctx h else s

section Leave
variable {x : Iss} {k : BitVec 1} {h : Word} {s : State}

theorem futLeave_unmoved : Unmoved s (futLeave x k h s) := by
  unfold futLeave
  split
  · exact futRetire_unmoved _ _ _
  · exact .refl s

theorem futLeave_nextOp : (futLeave x k h s).nextOp = s.nextOp := by
  unfold futLeave
  split
  · exact futRetire_nextOp _ _ _
  · rfl

/-- One byte of the object changes: its generation goes up (R110). -/
theorem futLeave_bytes {pa : Nat} (hpa : futureAt (ctxOf s x.team.ctx) (bits h 21 6) (bits h 5 0) = pa) {t : State} (ht : t.mem = (futLeave x k h s).mem) :
    (∀ i, i ≠ pa + 2 → readByte t i = readByte s i) ∧ futGen t pa = if k = 0 then (futGen s pa + 1) % 256 else futGen s pa := by
  unfold futLeave at ht
  split at ht
  · next hk =>
    rw [futRetire_mem, hpa] at ht
    refine ⟨fun i hi => ?_, ?_⟩
    · rw [readByte, ht]
      exact readByte_writeMem_other _ _ _ _ _ (by omega)
    · rw [futGen, readMem_of_mem ht, readMem_writeNat, if_pos hk]
      omega
  · next hk =>
    refine ⟨fun i _ => by rw [readByte, ht]; rfl, ?_⟩
    rw [futGen, readMem_of_mem ht, if_neg hk]
    rfl

end Leave

/-! ### The status of a wait (R397) -/

theorem futStatus_lt (s : State) (pa : Nat) : futStatus s pa < 256 := by
  have h := (readByte s (pa + 1 + 0)).isLt
  unfold futStatus readMem leNat leNat
  rw [Nat.shiftLeft_eq]
  omega

/-- The destination of a form that writes once for the team is a scalar register. -/
theorem Issues.sdst {i : Instr} {s : State} {x : Iss} (h : Issues i s x) (hr : (roles x.op).1 = .sdst) : ∃ v, opd x.f.d = .scal v := by
  obtain ⟨r, t, sp, c, f, -, -, -, hd⟩ := h
  have h2 : operandsOk x (readU x) = true := by
    unfold decodeFault at hd
    split_ifs at hd with _ h
    simpa using h
  have hrole : roleOk (roles x.op).1 (fieldRegs x).1 x.f.d x.op (if x.op = 0xF3 then x.f.a.toNat else x.f.d.toNat) = true := by
    by_contra hno
    rw [Bool.not_eq_true] at hno
    simp [operandsOk, hno] at h2
  rw [hr] at hrole
  unfold roleOk at hrole
  revert hrole
  cases opd x.f.d <;> simp

/-- A write of registers leaves the issuing split where it stands. -/
theorem AtIssue.writeDst {x : Iss} {u : State} (h : AtIssue x u) (code : BitVec 8) (m : LaneMask) (f : Nat → Nat) (r : Nat) :
    AtIssue x (updTeam u x.ref.team (fun t => writeDst t code m f r)) := by
  obtain ⟨⟨tm, sp, htm, hctx, hsp, hseen⟩, hc⟩ := h
  have hrest (t : Team) : restOf (Machine.writeDst t code m f r) = restOf t := (writeDst_rest t code m f r).1
  have hkey (t : Team) : (Machine.writeDst t code m f r).key = t.key := by
    have e := congrArg Team.key (hrest t)
    exact e
  have hown : (Machine.writeDst tm code m f r).ctx = tm.ctx := by
    have e := congrArg Team.ctx (hrest tm)
    exact e
  have hsplit : splitIn (Machine.writeDst tm code m f r) x.ref.high = splitIn tm x.ref.high := by
    have e := congrArg (splitIn · x.ref.high) (hrest tm)
    exact e
  refine ⟨⟨Machine.writeDst tm code m f r, sp, ?_, hown.trans hctx, hsplit.trans hsp, hseen⟩, hc⟩
  rw [teamOf_updTeam _ _ _ _ hkey, if_pos rfl, htm]
  rfl

/-- A register of a team is one of those that a program sees. -/
theorem regAt_of_regs {s t : State} {k : TeamKey} {tm : Team} (ht : teamOf s k = some tm) (h : teamRegs t k = teamRegs s k) :
    ∃ tt, teamOf t k = some tt ∧ ∀ n, teamReg tt n = teamReg tm n := by
  rw [teamRegs, teamRegs, ht] at h
  obtain ⟨tt, htt, hregs⟩ := Option.map_eq_some_iff.mp h
  exact ⟨tt, htt, teamReg_of_regs hregs⟩

/-- The wait on a future that is done writes one register of the team and goes on (R397). -/
theorem leaveWait_written {i : Instr} {s u : State} {x : Iss} {code : BitVec 8} {v c : Nat} (hx : Issues i s x) (hu : Unmoved (popIssue s) u)
    (hcode : opd code = .scal c) (hv : v < 2 ^ 32) (scope : Nat) :
    let t := chargeIdle x (leaveWait x scope (updTeam u x.ref.team (fun t => writeDst t code x.active (fun _ => v) 1)))
    Advanced x t ∧ splitRegs t x.ref = some x.split.regs ∧ (∀ r, namedBy code 1 x.active r = false → regAt t x.ref.team r = regAt s x.ref.team r) ∧
      dstAt t x.ref.team code 0 1 = v ∧ t.mem = u.mem := by
  intro t
  have hissue := (AtIssue.start hx).unmoved hu
  have hwritten := hissue.writeDst code x.active (fun _ => v) 1
  generalize hw : updTeam u x.ref.team (fun t => writeDst t code x.active (fun _ => v) 1) = w at hwritten
  have hdrop : Silent w (acquire x scope (dropWatches w x.ref)) :=
    (dropWatches_silent w x.ref).trans (acquire_silent x scope (dropWatches w x.ref))
  have hend := hwritten.unmoved hdrop.unmoved
  obtain ⟨hr, hmem⟩ := retired_charged hend
  have ht : t = chargeIdle x (retire x (acquire x scope (dropWatches w x.ref))) := by rw [← hw]; rfl
  rw [← ht] at hr hmem
  obtain ⟨sp, hsp, hseen⟩ := hend.split
  obtain ⟨hteam, -⟩ := hx.team
  obtain ⟨tm, htm, htmregs⟩ := regAt_of_regs (s := s) (t := u) hteam (((Unmoved.popIssue s).trans hu).regs.teams _)
  have hwteam : teamOf w x.ref.team = some (writeDst tm code x.active (fun _ => v) 1) := by
    have hkey (t : Team) : (writeDst t code x.active (fun _ => v) 1).key = t.key := by
      have e := congrArg Team.key (writeDst_rest t code x.active (fun _ => v) 1).1
      exact e
    rw [← hw, teamOf_updTeam _ _ _ _ hkey, if_pos rfl, htm]
    rfl
  obtain ⟨tt, htt, httregs⟩ := regAt_of_regs hwteam ((hdrop.unmoved.regs.trans hr.regs).teams _)
  refine ⟨hr.next, ?_, fun r hn => ?_, ?_, hmem.trans (hdrop.mem.trans (by rw [← hw]; rfl))⟩
  · rw [hr.regs.splits, splitRegs, hsp]
    exact congrArg (fun s : SplitSeen => some s.regs) hseen
  · rw [regAt_eq _ _ _ _ htt, regAt_eq _ _ _ _ hteam, httregs, teamReg_unnamed _ _ _ _ _ _ hn, htmregs]
  · rw [dstAt_scal t _ tt tm code c x.active _ 1 htt hcode httregs 0 1 (Nat.le_refl 1)]
    exact Nat.mod_eq_of_lt hv

/-! ### The forms -/

section Handle
variable {x : Iss} {h : Word} {eff : Nat → State → State} {s : State}

theorem handleThen_fault {c : BitVec 8} (hf : handleFault s x.team.ctx h = some c) : handleThen x h eff s = faultAt x c x.f.word s := by
  rw [handleThen, hf]

theorem handleThen_idle (hf : handleFault s x.team.ctx h = none) (ha : x.active = 0) : handleThen x h eff s = retire x s := by
  rw [handleThen, hf]
  exact if_pos ha

theorem handleThen_live (hf : handleFault s x.team.ctx h = none) (ha : x.active ≠ 0)
    (hp : poisonAt s (futureAt x.ctx (bits h 21 6) (bits h 5 0)) 32 = false) :
    handleThen x h eff s = eff (futureAt x.ctx (bits h 21 6) (bits h 5 0)) s := by
  rw [handleThen, hf]
  exact (if_neg ha).trans (if_neg (by rw [hp]; simp))

end Handle

/-- The cancel of a future is seen in its object alone. -/
theorem cancelFuture_unmoved (s : State) (pa : Nat) : Unmoved s (cancelFuture s pa) := by
  have hcomplete (r : FutureResult) : Unmoved s (futComplete s pa r) := by
    unfold futComplete
    split
    · exact .refl s
    · exact ((writeMem_unmoved _ _ _ _).trans (writeMem_unmoved _ _ _ _)).trans (writeMem_unmoved _ _ _ _)
  have hcancel : Unmoved s (futCancel s pa) := by
    unfold futCancel
    split
    · exact .refl s
    · exact (hcomplete _).trans (.of_eq rfl rfl rfl)
  unfold cancelFuture
  split
  · exact .refl s
  · split
    · exact hcancel.trans (.of_eq rfl rfl rfl)
    · exact hcancel.trans (.of_eq rfl rfl rfl)

section Forms
variable {s : State} {x : Iss} {d a : BitVec 8} {k : BitVec 1}

theorem exec_fwait (hx : Issues (.fwait d a k) s x) : exec (.fwait d a k) s = .next (chargeIdle x (handleThen x (readU x a) (fun pa s =>
    if futDone s pa then
      leaveWait x 4 (updTeam (futLeave x k (readU x a) s) x.ref.team (fun t => writeDst t d x.active (fun _ => futValue s pa) 1))
    else waitOn x pa s) (popIssue s))) := by
  rw [show exec (.fwait d a k) s = execFwait d a k s from rfl, execFwait]
  exact issue_next _ hx

theorem exec_ftest (hx : Issues (.ftest d a k) s x) : exec (.ftest d a k) s = .next (chargeIdle x (handleThen x (readU x a) (fun pa s =>
    if futDone s pa then teamResult x (futValue s pa) (acquire x 4 (futLeave x k (readU x a) s)) else teamResult x 0 s) (popIssue s))) := by
  rw [show exec (.ftest d a k) s = execFtest d a k s from rfl, execFtest]
  exact issue_next _ hx

theorem exec_fcancel (hx : Issues (.fcancel a) s x) :
    exec (.fcancel a) s = .next (chargeIdle x (handleThen x (readU x a) (fun pa s => retire x (cancelFuture s pa)) (popIssue s))) := by
  rw [show exec (.fcancel a) s = execFcancel a s from rfl, execFcancel]
  exact issue_next _ hx

end Forms

/-- Settles O29: the handle's checks, then the one read of the future's DONE. -/
theorem futureForms : Obligations.FutureForms := by
  intro s x d a k h pa Common live Retires
  have hcommon (i : Instr) (eff : Nat → State → State) (hx : Issues i s x)
      (he : exec i s = .next (chargeIdle x (handleThen x h eff (popIssue s)))) : Common (exec i s) := by
    refine ⟨fun c hc => ⟨_, he, ?_⟩, fun hc ha => ⟨_, he, ?_⟩⟩
    · rw [handleThen_fault (s := popIssue s) hc]
      exact faultAt_taken hx _ _
    · rw [handleThen_idle (s := popIssue s) hc ha]
      exact passes_of_caches hx rfl rfl rfl rfl
  have hlive (i : Instr) (eff : Nat → State → State) (he : exec i s = .next (chargeIdle x (handleThen x h eff (popIssue s)))) (hl : live) :
      exec i s = .next (chargeIdle x (eff pa (popIssue s))) := by
    obtain ⟨hc, ha, hp⟩ := hl
    rw [he, handleThen_live (s := popIssue s) hc ha hp]
  have hplace (i : Instr) (hx : Issues i s x) : futureAt (ctxOf (popIssue s) x.team.ctx) (bits h 21 6) (bits h 5 0) = pa :=
    congrArg (futureAt · _ _) hx.ctx.symm
  have hvalue : futValue (popIssue s) pa = futStatus s pa + 256 := rfl
  refine ⟨fun hx => ⟨hcommon _ _ hx (exec_fwait hx), fun hl hd => ⟨_, hlive _ _ (exec_fwait hx) hl, ?_⟩,
      fun hl hd => ⟨_, hlive _ _ (exec_fwait hx) hl, ?_⟩⟩,
    fun hx => ⟨hcommon _ _ hx (exec_ftest hx), fun hl => ⟨_, hlive _ _ (exec_ftest hx) hl, ?_⟩⟩,
    fun hx => ⟨hcommon _ _ hx (exec_fcancel hx), fun hl hd => ⟨_, hlive _ _ (exec_fcancel hx) hl, ?_⟩,
      fun hl hd => ⟨_, hlive _ _ (exec_fcancel hx) hl, ?_⟩⟩⟩
  · obtain ⟨hop, hfields⟩ := op_of_fields hx rfl
    obtain ⟨c, hc⟩ := hx.sdst (by rw [hop]; rfl)
    rw [hfields] at hc
    have hlt := futStatus_lt s pa
    obtain ⟨hnext, hsplit, hregs, hdst, hmem⟩ := leaveWait_written (v := futValue (popIssue s) pa) hx (futLeave_unmoved (k := k) (h := h)) hc
      (by rw [hvalue]; omega) 4
    rw [if_pos (show futDone (popIssue s) pa = true from hd)]
    exact ⟨hnext, hsplit, hregs, hdst, futLeave_bytes (hplace _ hx) hmem⟩
  · rw [if_neg (show ¬ futDone (popIssue s) pa = true by rw [show futDone (popIssue s) pa = false from hd]; simp)]
    exact waitsOn_of_unmoved hx (.refl _) rfl pa
  · have hk : (fieldRegs x).1 = 1 := by rw [fieldRegs, (op_of_fields hx rfl).1]; rfl
    have hfit := hx.fits_one rfl rfl (show (0xE6 : BitVec 8).toNat ≠ 0xF1 by decide) rfl hk
    have hcode : x.f.d = d := by rw [(op_of_fields hx rfl).2]
    have hhold (v : Nat) (e : InFlight) (he : ∀ code l, willWrite e code l = writtenBy (valueWrites x v) code l) (l : Nat) (hl : l < x.n)
        (hin : laneIn x.all l = true) (hmix : laneIn x.mixed l = false) : WillHold e d l 1 v := hcode ▸ teamValue_hold hfit hk hl hin hmix he
    cases hd : futDone s pa with
    | true =>
      have hleave := futLeave_unmoved (x := x) (k := k) (h := h) (s := popIssue s)
      have hacquire := acquire_silent x 4 (futLeave x k h (popIssue s))
      have hop : (acquire x 4 (futLeave x k h (popIssue s))).nextOp = s.nextOp := (acquire_nextOp x 4 _).trans futLeave_nextOp
      obtain ⟨hnext, hregs, hflags, hmem, e, he, hstate, hw⟩ :=
        teamResult_flying hx (hleave.trans hacquire.unmoved) hop (futValue (popIssue s) pa)
      rw [if_pos (show futDone (popIssue s) pa = true from hd)]
      exact ⟨hnext, hregs, hflags, fun _ => futLeave_bytes (hplace _ hx) (hmem.trans hacquire.mem), fun h => absurd h (by simp),
        e, he, hstate, hhold _ e hw⟩
    | false =>
      obtain ⟨hnext, hregs, hflags, hmem, e, he, hstate, hw⟩ := teamResult_flying hx (.refl _) rfl 0
      rw [if_neg (show ¬ futDone (popIssue s) pa = true by rw [show futDone (popIssue s) pa = false from hd]; simp)]
      exact ⟨hnext, hregs, hflags, fun h => absurd h (by simp), fun _ => hmem, e, he, hstate, hhold 0 e hw⟩
  · rw [cancelFuture, if_pos (show futDone (popIssue s) pa = true from hd)]
    exact passes_of_caches hx rfl rfl rfl rfl
  · obtain ⟨-, -, hp⟩ := hl
    have hd : futDone (popIssue s) pa = false := hd
    obtain ⟨hleft, hstatus, hcancel⟩ := cancelFuture_new hd hp
    obtain ⟨hnext, hregs, hflags⟩ := ended_of_unmoved hx (cancelFuture_unmoved (popIssue s) pa)
    have hmem := mem_of_outside (outside_ended x (cancelFuture (popIssue s) pa))
    refine ⟨hnext, hregs, ?_, ?_, fun i hi => ?_, fun id hid => ended_agenda x _ (hcancel id hid)⟩
    · rw [futDone, readMem_of_mem hmem]
      exact hleft.done
    · rw [futStatus, readMem_of_mem hmem]
      exact hstatus
    · rw [readByte, hmem]
      exact hleft.step.mem i hi

end Sys2Proof.Machine
end

section
/-! FENCES, WAITS AND BARRIERS (O28): a fence's acquire, the one read of a wait, and the object operations of the barrier forms. -/
namespace Sys2Proof.Machine
open Sys2Proof.Forms

/-! ### Fences (R298) -/

/-- The acquire of a fence: none for one that only releases. -/
def fenceAcquire (x : Iss) (s : State) : State := if bits x.m 1 0 = 1 then s else acquire x (bits x.m 4 2) s

section Fence
variable {s : State} {x : Iss} {b : BitVec 8}

theorem fenceAcquire_silent (x : Iss) (s : State) : Silent s (fenceAcquire x s) := by
  unfold fenceAcquire
  split
  · exact .refl s
  · exact acquire_silent _ _ _

theorem fenceAcquire_passed {i : Instr} (hx : Issues i s x) : Passed s (chargeIdle x (retire x (fenceAcquire x (popIssue s)))) x x.split.regs := by
  unfold fenceAcquire
  split
  · exact passes_of_caches hx rfl rfl rfl rfl
  · obtain ⟨hteam, hsp, -⟩ := hx.team
    obtain ⟨n, ht⟩ : ∃ n, (acquire x (bits x.m 4 2) (popIssue s)).teams =
        (updTeam s x.ref.team (fun t => { t with acquired := n })).teams := ⟨_, by unfold acquire; split <;> rfl⟩
    have hof (k : TeamKey) : teamOf (acquire x (bits x.m 4 2) (popIssue s)) k =
        if k = x.ref.team then (teamOf s x.ref.team).map (fun t => { t with acquired := n }) else teamOf s k :=
      (teamOf_congr ht k).trans (teamOf_updTeam s x.ref.team _ k (fun _ => rfl))
    refine Prep.passed hx (tm := { x.team with acquired := n }) ⟨outside_acquire _ _ _, fun c => ?_, fun d j => ?_, fun k hk => ?_, ?_, hsp, rfl⟩ rfl rfl
    · unfold acquire
      split <;> rfl
    · unfold acquire
      split <;> rfl
    · rw [hof, if_neg hk]
    · rw [hof, if_pos rfl, hteam]
      rfl

theorem exec_fence (hx : Issues (.fence b) s x) : exec (.fence b) s = .next (chargeIdle x (if x.active = 0 then retire x (popIssue s)
    else if bits x.m 1 0 = 0 then
      if madeBefore (popIssue s) (relMark x (popIssue s)) (atomicOf x.ref.team) then holdMarked x .atomics (popIssue s)
      else retire x (fenceAcquire x (popIssue s))
    else releaseThen x (bits x.m 4 2) (fun s => retire x (fenceAcquire x s)) (popIssue s))) := by
  rw [show exec (.fence b) s = execFence b s from rfl, execFence, issue_next _ hx]
  unfold fenceAcquire
  by_cases h : bits x.m 1 0 = 1
  · simp only [h, if_true]
    rfl
  · simp only [h, if_false]

end Fence

/-- A wait for responses stands at its instruction (R205). -/
theorem holdMarked_stays {i : Instr} {s u : State} {x : Iss} (hx : Issues i s x) (st : Stall) (hu : Unmoved (popIssue s) u) :
    let t := chargeIdle x (holdMarked x st u)
    (∃ sp, splitOf t x.ref = some sp ∧ sp.hold = .stall st) ∧ SameRegs s t ∧ outside t = outside u ∧ u.agenda ⊆ t.agenda := by
  intro t
  obtain ⟨f, hf, hseen⟩ : ∃ f : Split → Split,
      holdMarked x st u = updSplit (updSplit u x.ref f) x.ref (fun sp => { sp with hold := .stall st, ready := 0 }) ∧ ∀ sp, (f sp).seen = sp.seen := ⟨_, rfl, fun _ => rfl⟩
  obtain ⟨sp, hsp, -⟩ := ((AtIssue.start hx).unmoved hu).split
  have hhold : Unmoved u (holdMarked x st u) := hf ▸ (Unmoved.updSplit u x.ref f hseen).trans (.updSplit _ _ _ (fun _ => rfl))
  have hcharge := chargeIdle_charged x (holdMarked x st u)
  refine ⟨⟨{ f sp with hold := .stall st, ready := 0 }, ?_, rfl⟩, ((((Unmoved.popIssue s).trans hu).trans hhold).trans hcharge.unmoved).regs,
    (outside_chargeIdle x _).trans (by rw [hf]; rfl), List.Subset.trans (by rw [hf]; exact List.Subset.refl _) (chargeIdle_agenda x _)⟩
  rw [splitOf_charged hcharge, hf, splitOf_updSplit, splitOf_updSplit, hsp]
  rfl

section FenceReleases
variable {s : State} {x : Iss} {b : BitVec 8} (hx : Issues (.fence b) s x) (ha : x.active ≠ 0) (hk : bits x.m 1 0 ≠ 0)
include hx ha hk

/-- A fence whose release goes on. -/
theorem fence_done (hr : ReleaseDone s x (bits x.m 4 2)) : ∃ t, exec (.fence b) s = .next t ∧ Advanced x t ∧ SameRegs s t ∧
    (∀ r n, flagAt t r n = flagAt s r n) ∧ t.mem = s.mem := by
  obtain ⟨l, hl⟩ := releaseThen_done (s := popIssue s) hr (fun s => retire x (fenceAcquire x s))
  have hquiet := (withFlushes_silent (popIssue s) l).trans (fenceAcquire_silent x (withFlushes (popIssue s) l))
  obtain ⟨hnext, hregs, hflags⟩ := ended_of_unmoved hx hquiet.unmoved
  refine ⟨_, exec_fence hx, ?_⟩
  rw [if_neg ha, if_neg hk, hl]
  exact ⟨hnext, hregs, hflags, (mem_of_outside (outside_ended x _)).trans hquiet.mem⟩

/-- A fence at sys that sends its flushing read. -/
theorem fence_flush (h5 : bits x.m 4 2 = 5) (hr : ReleaseReady s x 5) (hf : s.flushes.find? (fun f => decide (f.2 = x.ref)) = none) :
    ∃ t sp k, exec (.fence b) s = .next t ∧ splitOf t x.ref = some sp ∧ sp.hold = .stall .flush ∧ SameRegs s t ∧ t.mem = s.mem ∧
      (k, x.ref) ∈ t.flushes ∧ Event.pcieCompletion k ∈ t.agenda := by
  have he := exec_fence hx
  rw [if_neg ha, if_neg hk, h5, releaseThen_flush (s := popIssue s) hr hf] at he
  have hsent := flushSent_silent x (popIssue s)
  obtain ⟨⟨sp, hsp, hhold⟩, hregs, hout, hagenda⟩ := holdMarked_stays hx .flush hsent.unmoved
  have hflushes := congrArg (fun v : State => v.flushes) hout
  have hmem : (s.nextOp + 1, x.ref) ∈ (flushSent x (popIssue s)).flushes := List.mem_append_right _ (List.mem_singleton_self _)
  exact ⟨_, sp, s.nextOp + 1, he, hsp, hhold, hregs, (mem_of_outside hout).trans hsent.mem, hflushes ▸ hmem,
    hagenda (List.mem_append_right _ (List.mem_singleton_self _))⟩

end FenceReleases

/-! ### Waits on memory (R299 to R301) -/

/-- One lane that has passed its checks: none has failed, and none asks for a page. -/
theorem checkLanes_one {x : Iss} {a : LaneAcc} {s : State} {p : LaneAcc × List Target} (h : okLanes (checkLanes x [a] s).2 = [p]) :
    pageLanes (checkLanes x [a] s).2 = [] ∧ badLanes (checkLanes x [a] s).2 = [] := by
  have hone : (checkLanes x [a] s).2 = [(a, (checkAccess s (whoOf x a.lane) a.acc).2)] := rfl
  rw [hone] at h ⊢
  cases hk : (checkAccess s (whoOf x a.lane) a.acc).2 with
  | ok ts uc => exact ⟨rfl, rfl⟩
  | fault c =>
    rw [hk] at h
    cases h
  | page g =>
    rw [hk] at h
    cases h

/-- The state after the check of a wait's declaration, made once (R300). -/
def legalNoted (x : Iss) (s : State) : State := if x.split.legal = true then s else updSplit s x.ref (fun sp => { sp with legal := true })

theorem legalNoted_silent (x : Iss) (s : State) : Silent s (legalNoted x s) := by
  unfold legalNoted
  split
  · exact .refl s
  · exact ⟨.updSplit s _ _ (fun _ => rfl), rfl, rfl⟩

theorem legalThen_ok {x : Iss} {s : State} (h : x.split.legal = true ∨ waitLegal x s = true) (eff : State → State) :
    legalThen x eff s = eff (legalNoted x s) := by
  unfold legalThen legalNoted
  by_cases hl : x.split.legal = true
  · rw [if_pos hl, if_pos hl]
  · rw [if_neg hl, if_neg hl, if_pos (h.resolve_left hl)]

/-- The access that a wait checks. -/
def waitAccess (x : Iss) : LaneAcc :=
  let n := if bits x.m 0 0 = 1 then 8 else 4
  ⟨x.first, { ga := readU64 x x.f.a, n := n, align := n, write := false, atom := false, tags := true }⟩

/-- The state once a wait has read its word. -/
def waitRead (x : Iss) (ts : List Target) (s : State) : State :=
  noteReads x [((waitAccess x).acc.n, ts)] (fetchForget (loadPass (partOfCtx s x.team.ctx) none false false ts s) x.ref)

theorem waitRead_silent (x : Iss) (ts : List Target) (s : State) : Silent s (waitRead x ts s) :=
  ((loadPass_caches (partOfCtx s x.team.ctx) none false false ts s).silent.trans (fetchForget_silent _ _)).trans (noteReads_silent _ _ _)

section Wait
variable {i : Instr} {s : State} {x : Iss} {eq : Bool}

theorem waitForm_idle (ha : x.active = 0) : waitForm x eq s = retire x s := if_pos ha

theorem waitForm_illegal (ha : x.active ≠ 0) (hl : x.split.legal = false) (hw : waitLegal x s = false) :
    waitForm x eq s = raiseFault s x.ref { plainFault 0x50 x.pc x.active 0 with lane := x.first } := by
  unfold waitForm
  dsimp only
  rw [if_neg ha]
  unfold legalThen
  rw [if_neg (by rw [hl]; simp), if_neg (by rw [hw]; simp)]

/-- A legal wait whose word has been read. -/
theorem waitForm_read {q : LaneAcc} {ts : List Target} {v : Nat} {c : State × List (LaneAcc × Checked)} (ha : x.active ≠ 0)
    (hl : x.split.legal = true ∨ waitLegal x s = true) (hlog : NoLog s x) (hc : checkLanes x [waitAccess x] (legalNoted x s) = c)
    (hok : okLanes c.2 = [(q, ts)]) (hf : fetching c.1 (.split x.ref) ts = false)
    (hv : loadValue c.1 none x.block (.split x.ref) ts (waitAccess x).acc.n = .ok v) :
    (decide (v = readNat x x.f.b 0 ((waitAccess x).acc.n / 4)) = eq → waitForm x eq s = leaveWait x (bits x.m 3 1) (waitRead x ts c.1)) ∧
    (∀ pa k cp, decide (v = readNat x x.f.b 0 ((waitAccess x).acc.n / 4)) ≠ eq → ts = [.mem pa k cp] →
      waitForm x eq s = waitOn x pa (waitRead x ts c.1)) := by
  obtain ⟨hp, hb⟩ := checkLanes_one (hc.symm ▸ hok)
  have hlog : NoLog (legalNoted x s) x := by
    unfold legalNoted
    split <;> exact hlog
  unfold waitForm
  dsimp only
  rw [if_neg ha, legalThen_ok hl]
  change (_ → settleThen x 0 false [waitAccess x] _ (legalNoted x s) = _) ∧ ∀ pa k cp, _ → _ → settleThen x 0 false [waitAccess x] _ (legalNoted x s) = _
  rw [settleThen_clean hlog hp, hc, hok, ← hc, hb, hc]
  have hv' : loadValue c.1 none x.block (.split x.ref) ts (if bits x.m 0 0 = 1 then 8 else 4) = .ok v := hv
  simp only [hf, hv', Bool.false_eq_true, if_false]
  refine ⟨fun h => ?_, fun pa k cp h hts => ?_⟩
  · exact if_pos h
  · subst hts
    exact if_neg h

/-- The wait goes on where its word meets the condition, and else watches the word's line. -/
theorem waitForm_decided (hx : Issues i s x) (he : exec i s = issue i s (fun x => waitForm x eq)) {q : LaneAcc} {ts : List Target} {v : Nat}
    {c : State × List (LaneAcc × Checked)} (ha : x.active ≠ 0) (hl : x.split.legal = true ∨ waitLegal x s = true) (hlog : NoLog s x)
    (hc : checkLanes x [waitAccess x] (legalNoted x (popIssue s)) = c) (hok : okLanes c.2 = [(q, ts)]) (hf : fetching c.1 (.split x.ref) ts = false)
    (hv : loadValue c.1 none x.block (.split x.ref) ts (waitAccess x).acc.n = .ok v) :
    (decide (v = readNat x x.f.b 0 ((waitAccess x).acc.n / 4)) = eq → ∃ t, exec i s = .next t ∧ WaitOver s t x) ∧
    (∀ pa k cp, decide (v = readNat x x.f.b 0 ((waitAccess x).acc.n / 4)) ≠ eq → ts = [.mem pa k cp] → ∃ t, exec i s = .next t ∧ WaitsOn s t x pa) := by
  have hnext := he.trans (issue_next _ hx)
  obtain ⟨hleave, hwait⟩ := waitForm_read (s := popIssue s) (eq := eq) ha hl hlog hc hok hf hv
  have hchecked : Silent (legalNoted x (popIssue s)) c.1 := hc ▸ (checkLanes_caches x [waitAccess x] (legalNoted x (popIssue s))).silent
  have hread := ((legalNoted_silent x (popIssue s)).trans hchecked).trans (waitRead_silent x ts c.1)
  refine ⟨fun hm => ⟨_, hnext, ?_⟩, fun pa k cp hm hts => ⟨_, hnext, ?_⟩⟩
  · rw [hleave hm]
    exact waitOver_of_unmoved hx hread.unmoved hread.mem _
  · rw [hwait pa k cp hm hts]
    exact waitsOn_of_unmoved hx hread.unmoved hread.mem _

end Wait

/-! ### Barriers (R120 to R123, R394 to R396) -/

section Checks
variable {x : Iss} {needs : Bool} {n : Nat} {eff : Nat → State → State} {s : State}

theorem barrierThen_number (hn : x.disp.nbar ≤ n) : barrierThen x needs n eff s = faultAt x 0x39 x.f.word s := if_pos hn

variable (hn : n < x.disp.nbar)
include hn

theorem barrierThen_pool (hp : poolRefused s x.ctx x.block.area = true) : barrierThen x needs n eff s = faultAt x 0x42 x.f.word s := by
  rw [barrierThen, if_neg (Nat.not_le.mpr hn), if_pos hp]

variable (hp : poolRefused s x.ctx x.block.area = false)
include hp

theorem barrierThen_poison (hs : poisonAt s (barrierAt x.ctx x.block.area n) 16 = true) (ha : x.active ≠ 0) :
    barrierThen x needs n eff s = objectPoison x s := by
  rw [barrierThen, if_neg (Nat.not_le.mpr hn), if_neg (by rw [hp]; simp), hs, if_neg (by simp), if_neg ha, if_pos rfl]

variable (hs : poisonAt s (barrierAt x.ctx x.block.area n) 16 = false)
include hs

theorem barrierThen_unset (hneeds : needs = true) (hi : (readBar s (barrierAt x.ctx x.block.area n)).init = false) :
    barrierThen x needs n eff s = faultAt x 0x3A x.f.word s := by
  rw [barrierThen, if_neg (Nat.not_le.mpr hn), if_neg (by rw [hp]; simp), hs, if_pos (by rw [hneeds, hi]; rfl)]

variable (hi : needs = true → (readBar s (barrierAt x.ctx x.block.area n)).init = true)
include hi

theorem barrierThen_sound : barrierThen x needs n eff s = if x.active = 0 then retire x s else eff (barrierAt x.ctx x.block.area n) s := by
  have hset : (needs && !poisonAt s (barrierAt x.ctx x.block.area n) 16 && !(readBar s (barrierAt x.ctx x.block.area n)).init) = false := by
    cases hneeds : needs with
    | true => rw [hi hneeds, Bool.not_true, Bool.and_false]
    | false => rfl
  rw [barrierThen, if_neg (Nat.not_le.mpr hn), if_neg (by rw [hp]; simp), hset, hs]
  rfl

end Checks

theorem writeBar_unmoved (s : State) (pa : Nat) (b : Bar) : Unmoved s (writeBar s pa b) := by
  unfold writeBar
  split
  · exact .refl s
  · exact (writeMem_unmoved _ _ _ _).trans (barrierSeen_unmoved _ _)

/-- An instruction that makes one object operation on a sound barrier and retires. -/
theorem barrierStep_of_write {i : Instr} {s u : State} {x : Iss} {pa : Nat} {b : Bar} (hx : Issues i s x) (hu : Unmoved (popIssue s) u)
    (hmem : u.mem = s.mem) (hb : b.Fits) (hp : poisonAt u pa 16 = false) : BarrierStep s (chargeIdle x (retire x (writeBar u pa b))) x pa b := by
  obtain ⟨hbar, hstep, -⟩ := writeBar_left hb hp
  obtain ⟨hnext, hregs, hflags⟩ := ended_of_unmoved hx (hu.trans (writeBar_unmoved u pa b))
  have hm := mem_of_outside (outside_ended x (writeBar u pa b))
  refine ⟨hnext, hregs, hflags, ?_, fun a ha => ?_⟩
  · rw [readBar, readMem_of_mem hm]
    exact hbar
  · rw [readByte, hm]
    exact (hstep.mem a ha).trans (by rw [readByte, readByte, hmem])

theorem barInit_fits {n : Nat} (h : n ≤ 65535) : Bar.Fits { arr := n, load := n, bytes := 0, phase := false, init := true, err := 0 } := by
  have e := barReset_fits (BitVec.ofNat 16 n)
  rwa [BitVec.toNat_ofNat, Nat.mod_eq_of_lt (by omega)] at e

/-- An arrival, by what was expected before it (R121). -/
theorem barArrive_eq (b : Bar) : barArrive b = if b.arr = 0 then { b with err := 2 }
    else if b.arr = 1 ∧ b.bytes = 0 then { b with arr := b.load, phase := !b.phase } else { b with arr := b.arr - 1 } := by
  unfold barArrive barSettle
  dsimp only
  by_cases h0 : b.arr = 0
  · rw [if_pos h0, if_pos h0]
  · have h1 : (b.arr - 1 = 0 ∧ b.bytes = 0) ↔ (b.arr = 1 ∧ b.bytes = 0) := by omega
    rw [if_neg h0, if_neg h0]
    simp only [h1]

/-- An expect, by the bytes that are missing after it (R121). -/
theorem barExpect_eq (b : Bar) (d : Int) : barAdd b d = if b.bytes + d < -(2 ^ 31 : Int) ∨ (2 ^ 31 : Int) ≤ b.bytes + d then { b with err := 2 }
    else if b.arr = 0 ∧ b.bytes + d = 0 then { b with bytes := 0, arr := b.load, phase := !b.phase } else { b with bytes := b.bytes + d } := by
  unfold barAdd barSettle
  dsimp only
  split
  · rfl
  · split
    · next h => simp only [h.2]
    · rfl

/-- The value of BARTEST in numbers (R396). -/
theorem barValue_eq (b : Bar) (n : Nat) : barValue b n =
    (if b.phase.toNat ≠ n % 2 then 1 else 0) + 2 * b.phase.toNat + 4 * (b.err % 4) + 65536 * b.arr := by
  have h : (decide (b.phase.toNat ≠ n % 2)).toNat = if b.phase.toNat ≠ n % 2 then 1 else 0 := by split <;> simp_all
  rw [barValue, h, Nat.shiftLeft_eq, Nat.shiftLeft_eq, Nat.shiftLeft_eq]
  omega

/-- A value that is read where the instruction issues is in flight, and nothing else has changed. -/
theorem teamResult_launched {i : Instr} {s : State} {x : Iss} {P : InFlight → Prop} (hx : Issues i s x) (v : Nat)
    (hP : ∀ e, e.state = .ready → (∀ code l, willWrite e code l = writtenBy (valueWrites x v) code l) → P e) :
    Launched s (chargeIdle x (teamResult x v (popIssue s))) x (bits x.clause.header 15 12) P := by
  obtain ⟨ht, hs, hcl, -⟩ := hx.team
  obtain ⟨⟨hout, hctxs, hblocks, hteams, hpartner⟩, hnext, hregs, hflags, tm, e, htm, he, hflight⟩ :=
    flown (u := popIssue s) ht hs hcl false .ready (valueWrites x v)
  refine ⟨⟨hout, hctxs, hblocks, hteams, hpartner⟩, hnext, ?_, fun r => ?_, hflags,
    e, ⟨tm, htm, he, hflight.id⟩, hflight.flag, hP e hflight.state hflight.writes⟩
  · refine (hregs.splits x.ref).trans ?_
    rw [splitRegs, splitOf, show teamOf (popIssue s) x.ref.team = some x.team from ht, Option.bind_some, hs]
    rfl
  · obtain ⟨tt, htt, htregs⟩ := regAt_of_regs (s := s) ht (hregs.teams x.ref.team)
    rw [regAt_eq _ _ _ _ ht, ← htregs]
    exact regAt_eq _ _ _ _ htt

/-! ### The statement -/

section Forms
variable {s : State} {x : Iss} {d : BitVec 4} {e a : BitVec 8} {sc : BitVec 3}

theorem exec_barinit (hx : Issues (.barinit d a) s x) : exec (.barinit d a) s = .next (chargeIdle x
    (if d.toNat < x.disp.nbar ∧ ((readU x a).toNat = 0 ∨ 65535 < (readU x a).toNat) then faultAt x 0x3B x.f.word (popIssue s)
    else barrierThen x false d.toNat (fun pa s => retire x (barInit s pa (readU x a).toNat)) (popIssue s))) := by
  rw [show exec (.barinit d a) s = execBarinit d a s from rfl, execBarinit]
  exact issue_next _ hx

theorem exec_bararv (hx : Issues (.bararv d sc) s x) : exec (.bararv d sc) s = .next (chargeIdle x (barrierThen x true d.toNat
    (fun pa s => releaseThen x sc.toNat (fun s => retire x (barArriveAt s pa)) s) (popIssue s))) := by
  rw [show exec (.bararv d sc) s = execBararv d sc s from rfl, execBararv]
  exact issue_next _ hx

theorem exec_barexp (hx : Issues (.barexp d a) s x) : exec (.barexp d a) s = .next (chargeIdle x (barrierThen x true d.toNat
    (fun pa s => retire x (barExpectAt s pa (readU x a).toInt)) (popIssue s))) := by
  rw [show exec (.barexp d a) s = execBarexp d a s from rfl, execBarexp]
  exact issue_next _ hx

theorem exec_barwait (hx : Issues (.barwait d a sc) s x) : exec (.barwait d a sc) s = .next (chargeIdle x (barrierThen x true d.toNat
    (fun pa s => if (readBar s pa).phase.toNat ≠ (readU x a).toNat % 2 then leaveWait x sc.toNat s else waitOn x pa s) (popIssue s))) := by
  rw [show exec (.barwait d a sc) s = execBarwait d a sc s from rfl, execBarwait]
  exact issue_next _ hx

theorem exec_bartest (hx : Issues (.bartest e d a) s x) : exec (.bartest e d a) s = .next (chargeIdle x (barrierThen x false d.toNat
    (fun pa s => teamResult x (barValue (readBar s pa) (readU x a).toNat) s) (popIssue s))) := by
  rw [show exec (.bartest e d a) s = execBartest e d a s from rfl, execBartest]
  exact issue_next _ hx

end Forms

/-- Settles O28: a release goes on or sends its flushing read, a wait is decided by the one word it reads, and a barrier form by the barrier it
reads. -/
theorem fenceWaitAndBarrierForms : Obligations.FenceWaitAndBarrierForms := by
  refine ⟨fun s x d a b => ?_, fun s x d e a sc => ?_⟩
  · intro n cmp s0 c Waits
    have hwaits (i : Instr) (eq : Bool) (met : Nat → Bool) (hx : Issues i s x) (he : exec i s = issue i s (fun x => waitForm x eq))
        (hmet : ∀ v, met v = true ↔ decide (v = cmp) = eq) : Waits (exec i s) met := by
      have hnext := he.trans (issue_next _ hx)
      refine ⟨fun ha => ⟨_, hnext, ?_⟩, fun ha hl hw => ⟨_, hnext, ?_⟩, fun q ts v ha hl hlog hok hf hv => ?_⟩
      · rw [waitForm_idle ha]
        exact passes_of_caches hx rfl rfl rfl rfl
      · rw [waitForm_illegal (s := popIssue s) ha hl hw]
        exact faultTaken_of_raise hx { plainFault 0x50 x.pc x.active 0 with lane := x.first } rfl rfl rfl rfl
      · obtain ⟨hover, hon⟩ := waitForm_decided hx he (c := c) ha hl hlog rfl hok hf hv
        exact ⟨fun hm => hover ((hmet v).mp hm), fun pa k cp hm hts => hon pa k cp (fun h => by rw [(hmet v).mpr h] at hm; cases hm) hts⟩
    refine ⟨fun hx => ?_, fun hx => hwaits _ true _ hx rfl (fun v => by simp), fun hx => hwaits _ false _ hx rfl (fun v => by simp)⟩
    refine ⟨fun ha => ⟨_, exec_fence hx, ?_⟩, fun ha hk hq => ⟨_, exec_fence hx, ?_⟩, fun ha hk hr => ⟨_, exec_fence hx, ?_⟩,
      fun ha hk hr => fence_done hx ha hk hr, fun ha hk h5 hr hf => fence_flush hx ha hk h5 hr hf⟩
    · rw [if_pos ha]
      exact passes_of_caches hx rfl rfl rfl rfl
    · rw [if_neg ha, if_pos hk, madeBefore_none (s := popIssue s) (fun q hm hw => .inr (hq q hm hw)), if_neg (by simp)]
      exact fenceAcquire_passed hx
    · rw [if_neg ha, if_neg hk, releaseThen_free (s := popIssue s) hr]
      exact fenceAcquire_passed hx
  · intro pa old n Common sound here Bare Needs
    have hcommon (i : Instr) (needs : Bool) (eff : Nat → State → State) (hx : Issues i s x)
        (he : exec i s = .next (chargeIdle x (barrierThen x needs d.toNat eff (popIssue s)))) : Common (exec i s) := by
      refine ⟨fun hn => ⟨_, he, ?_⟩, fun hn hp => ⟨_, he, ?_⟩, fun hn ha hp hs => ⟨_, he, ?_⟩⟩
      · rw [barrierThen_number hn]
        exact faultAt_taken hx _ _
      · rw [barrierThen_pool (s := popIssue s) hn hp]
        exact faultAt_taken hx _ _
      · rw [barrierThen_poison (s := popIssue s) hn hp hs ha]
        exact objectPoison_taken hx
    have hsound (needs : Bool) (eff : Nat → State → State) (hs : sound) (hi : needs = true → old.init = true) :
        barrierThen x needs d.toNat eff (popIssue s) = if x.active = 0 then retire x (popIssue s) else eff pa (popIssue s) := by
      obtain ⟨hn, hp, hc⟩ := hs
      exact barrierThen_sound (s := popIssue s) hn hp hc hi
    have hidle (i : Instr) (needs : Bool) (eff : Nat → State → State) (hx : Issues i s x)
        (he : exec i s = .next (chargeIdle x (barrierThen x needs d.toNat eff (popIssue s)))) (hs : sound) (hi : needs = true → old.init = true)
        (ha : x.active = 0) : Passes (exec i s) s x x.split.regs := by
      refine ⟨_, he, ?_⟩
      rw [hsound needs eff hs hi, if_pos ha]
      exact passes_of_caches hx rfl rfl rfl rfl
    have hhere (i : Instr) (needs : Bool) (eff : Nat → State → State)
        (he : exec i s = .next (chargeIdle x (barrierThen x needs d.toNat eff (popIssue s)))) (hh : here) (hi : needs = true → old.init = true) :
        exec i s = .next (chargeIdle x (eff pa (popIssue s))) := by
      obtain ⟨hs, ha⟩ := hh
      rw [he, hsound needs eff hs hi, if_neg ha]
    have hbare (i : Instr) (eff : Nat → State → State) (hx : Issues i s x)
        (he : exec i s = .next (chargeIdle x (barrierThen x false d.toNat eff (popIssue s)))) : Bare (exec i s) :=
      ⟨hcommon i false eff hx he, fun hs ha => hidle i false eff hx he hs (fun h => absurd h (by simp)) ha⟩
    have hneeds (i : Instr) (eff : Nat → State → State) (hx : Issues i s x)
        (he : exec i s = .next (chargeIdle x (barrierThen x true d.toNat eff (popIssue s)))) : Needs (exec i s) := by
      refine ⟨hcommon i true eff hx he, fun hs hi ha => hidle i true eff hx he hs (fun _ => hi) ha, fun hs hi => ⟨_, he, ?_⟩⟩
      obtain ⟨hn, hp, hc⟩ := hs
      rw [barrierThen_unset (s := popIssue s) hn hp hc rfl hi]
      exact faultAt_taken hx _ _
    have hfit : old.Fits := barOf_fits _
    have hclean : here → poisonAt s pa 16 = false := fun ⟨⟨_, _, hc⟩, _⟩ => hc
    refine ⟨fun hx => ⟨fun h1 h2 => ?_, fun hn hbad => ⟨_, exec_barinit hx, ?_⟩⟩, fun hx => ⟨hneeds _ _ hx (exec_bararv hx), fun hh hi hr => ?_⟩,
      fun hx => ⟨hneeds _ _ hx (exec_barexp hx), fun hh hi => ⟨_, hhere _ true _ (exec_barexp hx) hh (fun _ => hi), ?_⟩⟩,
      fun hx => ⟨hneeds _ _ hx (exec_barwait hx), fun hh hi => ⟨fun hph => ⟨_, hhere _ true _ (exec_barwait hx) hh (fun _ => hi), ?_⟩,
        fun hph => ⟨_, hhere _ true _ (exec_barwait hx) hh (fun _ => hi), ?_⟩⟩⟩,
      fun hx => ⟨hbare _ _ hx (exec_bartest hx), fun hh => ⟨_, hhere _ false _ (exec_bartest hx) hh (fun h => absurd h (by simp)), ?_⟩⟩⟩
    · have he := exec_barinit hx
      rw [if_neg (show ¬ (d.toNat < x.disp.nbar ∧ (n = 0 ∨ 65535 < n)) by omega)] at he
      refine ⟨hbare _ _ hx he, fun hh => ⟨_, hhere _ false _ he hh (fun h => absurd h (by simp)), ?_⟩⟩
      exact barrierStep_of_write hx (.refl _) rfl (barInit_fits h2) (hclean hh)
    · rw [if_pos ⟨hn, hbad⟩]
      exact faultAt_taken hx _ _
    · obtain ⟨l, hl⟩ := releaseThen_done (s := popIssue s) hr (fun s => retire x (barArriveAt s pa))
      refine ⟨_, hhere _ true _ (exec_bararv hx) hh (fun _ => hi), ?_⟩
      rw [hl, ← barArrive_eq]
      exact barrierStep_of_write hx (withFlushes_silent (popIssue s) l).unmoved rfl (barArrive_fits hfit) (hclean hh)
    · rw [← barExpect_eq]
      exact barrierStep_of_write hx (.refl _) rfl (barAdd_fits hfit _) (hclean hh)
    · rw [if_pos (show (readBar (popIssue s) pa).phase.toNat ≠ (readU x a).toNat % 2 from hph)]
      exact waitOver_of_unmoved hx (.refl _) rfl _
    · rw [if_neg (show ¬ (readBar (popIssue s) pa).phase.toNat ≠ (readU x a).toNat % 2 from not_not.mpr hph)]
      exact waitsOn_of_unmoved hx (.refl _) rfl pa
    · have hk : (fieldRegs x).1 = 1 := by rw [fieldRegs, (op_of_fields hx rfl).1]; rfl
      have hd := hx.fits_one rfl rfl (show (0xE4 : BitVec 8).toNat ≠ 0xF1 by decide) rfl hk
      have hcode : x.f.d = e := by rw [(op_of_fields hx rfl).2]
      refine teamResult_launched hx _ (fun f hstate hw => ⟨hstate, fun l hl hin hmix => ?_⟩)
      rw [← barValue_eq, ← hcode]
      exact teamValue_hold hd hk hl hin hmix hw

end Sys2Proof.Machine
end

section
/-! BINDINGS OF GRIDS (O40): where the statement about the binding of a grid slot fails (R130, R137, R476). -/
namespace Sys2Proof.Machine
open Sys2Proof.Forms

/-! ### A partition map across a boundary of quarters -/

/-- The block's only team, at rest. -/
def borderTeam : TeamKey := { disp := 0, block := 0, team := 0 }

/-- A GBIND at the launch unit. Its grid descriptor stands at the start of a page, and the partition map that it names ends in the next page. -/
def borderBind : BindReq :=
  { id := 7, split := { team := borderTeam, high := false }, ctx := 0, core := 0, slot := 0, ga := 0xFF0000, lane := 0, pc := 0, word := 0,
    desc := none, map := none, todo := [], page := none, failed := [] }

/-- The page of the descriptor, the last of quarter 0. -/
def borderDescPa : Nat := quarterBytes - 0x10000

/-- MEMIL0 names quarters 0 and 1, but MEMIL1 names quarters 2 and 3, which are out of service, so that the memory of quarter 1 counts as lost and
that of quarter 0 does not. The map has one entry on each side of the boundary; both are zero, so that both name block 0. -/
def borderGrid : State :=
  { State.reset with
    memil := [(0, 0b0100), (1, 0b0110)]
    startstat := 0x1B
    tlb := [(sharedTlbName 0, { ways := [borderPage 0 0xFF0000 borderDescPa, borderPage 1 0x1000000 quarterBytes], trees := [] })]
    -- dimensions 1 (byte 0), N0 - 1 = 1 (byte 1), P0 - 1 = 1 (byte 8), the map at 0xFFFFF0 (bytes 24 to 26)
    mem := [(borderDescPa, 1), (borderDescPa + 1, 1), (borderDescPa + 8, 0x10), (borderDescPa + 24, 0xF0), (borderDescPa + 25, 0xFF),
      (borderDescPa + 26, 0xFF)]
    teams := [oneRowTeam borderTeam (oneWordClause 0)]
    dispatches := [oneTeamDispatch 0]
    binds := [borderBind]
    event := some (.gridBindRequest 7) }

/-- The reads of that binding, each by the lowest active lane of GBIND. -/
def borderRead (ga : BitVec 64) (n al : Nat) (s : State) : State × Checked :=
  checkAccess s { ctx := 0, via := .die 0, spBytes := 0x1000, slot := 0, lane := 0, failed := [] }
    { ga := ga, n := n, align := al, write := false, atom := false, tags := true }

/-- The state once the descriptor is checked. -/
def borderChecked : State := (borderRead 0xFF0000 64 64 { borderGrid with event := none }).1

theorem borderDesc_checked :
    borderRead 0xFF0000 64 64 { borderGrid with event := none } = (borderChecked, .ok [.mem borderDescPa 64 0] false) :=
  Prod.ext rfl (by decide +kernel)

/-- The address and the length of the map that a descriptor names. -/
def mapGaOf (desc : BitVec 512) : BitVec 64 := BitVec.ofNat 64 (((gridOf desc).mapTag <<< 56) + (gridOf desc).mapVa)
def mapBytesOf (desc : BitVec 512) : Nat := 16 * (gridOf desc).count

/-- The state once the descriptor is read and kept, and once the map is checked. -/
def borderKept (desc : BitVec 512) : State :=
  bindKeep borderBind (fun c => { c with desc := some desc })
    (slicePass (partOfCtx borderChecked 0) false false [.mem borderDescPa 64 0] borderChecked)
def borderMapped (desc : BitVec 512) : State := (borderRead (mapGaOf desc) (mapBytesOf desc) 16 (borderKept desc)).1

/-- The places of the map: one entry on each side of the boundary. -/
def borderMap : List Target := [.mem (quarterBytes - 16) 16 0, .mem quarterBytes 16 0]

/-- The entries of the map. -/
def borderEntries (desc : BitVec 512) : List (BitVec 128) :=
  (List.range (gridOf desc).count).map (fun i => BitVec.ofNat 128 (readMem borderGrid (quarterBytes - 16 + 16 * i) 16))

section Desc
variable {desc : BitVec 512} (h : BitVec.ofNat 512 (readMem borderGrid borderDescPa 64) = desc)
include h

theorem borderDesc_ok : gridOk desc = true := by
  subst h
  decide +kernel

theorem borderMap_checked : borderRead (mapGaOf desc) (mapBytesOf desc) 16 (borderKept desc) = (borderMapped desc, .ok borderMap false) := by
  refine Prod.ext rfl ?_
  subst h
  decide +kernel

theorem borderMap_spans : spans borderMap (quarterBytes - 16) (mapBytesOf desc) = true := by
  subst h
  decide +kernel

theorem borderMap_start_not_poisoned : poisonAt borderGrid (quarterBytes - 16) (mapBytesOf desc) = false := by
  subst h
  decide +kernel

/-- Both entries name block 0 of this device. -/
theorem borderEntries_repeat :
    ¬ (((((borderEntries desc).map partOf).filter (fun e => decide (e.dev = devNum borderGrid))).map (·.block))).Nodup := by
  subst h
  decide +kernel

end Desc

/-- The second entry is lost with its quarter, so the read of the map fails by cause 0x17 before its entries are looked at. -/
theorem border_binding_poisoned :
    (ctxOf (gridBindRequest 7 { borderGrid with event := none }) 0).faultQ.map (·.cause) = [0x17] := by decide +kernel

/-- Refutes O40: the clauses of GRID_BIND_REQUEST ask for poison at the first address of the partition map alone, while the model asks at every piece
of it. In a state whose MEMIL registers disagree, a map that runs from quarter 0 into the lost quarter 1 fails the binding with cause POISON (0x17),
not with GRID_BINDING (0x38) for its two entries of one block. The statement is over every state, whatever its MEMIL registers hold. -/
theorem not_haloEngineSteps : ¬ Obligations.HaloEngineSteps := by
  unfold Obligations.HaloEngineSteps
  intro h
  obtain ⟨hbind, -⟩ := h borderGrid
  obtain ⟨-, -, -, hunbound⟩ := hbind 7 borderBind (oneRowTeam borderTeam (oneWordClause 0)) (oneTeamDispatch 0) rfl rfl rfl rfl rfl rfl rfl rfl rfl
  obtain ⟨-, hmap⟩ := hunbound rfl rfl borderChecked borderDescPa 0 false borderDesc_checked (by decide +kernel)
  generalize hdesc : BitVec.ofNat 512 (readMem borderGrid borderDescPa 64) = desc at hmap
  obtain ⟨hbad, -⟩ := hmap (borderMapped desc) (quarterBytes - 16) borderMap false (borderDesc_ok hdesc) (borderMap_checked hdesc)
    (borderMap_spans hdesc) (borderMap_start_not_poisoned hdesc)
  obtain ⟨t, hexec, -, -, r, hr, hcause, -⟩ := hbad (fun hgood => borderEntries_repeat hdesc hgood.2.2)
  obtain rfl : gridBindRequest 7 { borderGrid with event := none } = t := Host.Outcome.next.inj hexec
  have hpoison : r.cause ∈ [0x17] := border_binding_poisoned ▸ List.mem_map_of_mem hr
  rw [hcause] at hpoison
  exact absurd hpoison (by decide)

end Sys2Proof.Machine
end

section
/-! STEP WORDS OF GRIDS (O31): the handle checks of the grid forms, a step word that has been read, and what a form leaves that faults, is held or gives a
value after it has read one. -/
namespace Sys2Proof.Machine
open Sys2Proof.Forms

/-! ### The handle checks (R136, R140) -/

section Handles
variable {i : Instr} {s : State} {x : Iss} {k : Nat} {eff : GridSlot → Option Nat → State → State}

theorem gridThen_unbound (h : slotBound (slotOf x.ctx k) = false) : gridThen x k eff s = faultAt x 0x34 x.f.word s :=
  if_neg (by rw [h]; simp)

theorem gridThen_bound (h : slotBound (slotOf x.ctx k) = true) : gridThen x k eff s = eff (slotOf x.ctx k)
    (if (slotOf x.ctx k).dispatch = x.ref.team.disp then ownPart s (slotOf x.ctx k) x.ref.team.block else none) s := if_pos h

/-- The block owns a partition of the slot, in the dispatch that bound it. -/
structure OwnsPart (s : State) (x : Iss) (k q : Nat) : Prop where
  bound    : slotBound (slotOf x.ctx k) = true
  dispatch : (slotOf x.ctx k).dispatch = x.ref.team.disp
  part     : ownPart s (slotOf x.ctx k) x.ref.team.block = some q

theorem OwnsPart.issued {q : Nat} (h : OwnsPart s x k q) : OwnsPart (popIssue s) x k q := ⟨h.bound, h.dispatch, h.part⟩

theorem gridThen_owned {q : Nat} (h : OwnsPart s x k q) : gridThen x k eff s = eff (slotOf x.ctx k) (some q) s := by
  rw [gridThen_bound h.bound, if_pos h.dispatch, h.part]

/-- The faults of a form without its slot, and without a partition of it. -/
theorem gridThen_faults (hx : Issues i s x) (he : exec i s = .next (chargeIdle x (gridThen x k eff (popIssue s)))) {owns : Bool}
    (hnone : owns = true → eff (slotOf x.ctx k) none (popIssue s) = faultAt x 0x36 x.f.word (popIssue s)) :
    (slotBound (slotOf x.ctx k) = false → TakesFault (exec i s) s x 0x34 x.f.word) ∧
    (owns = true → slotBound (slotOf x.ctx k) = true →
      (if (slotOf x.ctx k).dispatch = x.ref.team.disp then ownPart s (slotOf x.ctx k) x.ref.team.block else none) = none →
      TakesFault (exec i s) s x 0x36 x.f.word) := by
  refine ⟨fun hb => ⟨_, he, ?_⟩, fun ho hb hq => ⟨_, he, ?_⟩⟩
  · rw [gridThen_unbound hb]
    exact faultAt_taken hx _ _
  · rw [gridThen_bound hb, show (if (slotOf x.ctx k).dispatch = x.ref.team.disp then ownPart (popIssue s) (slotOf x.ctx k) x.ref.team.block else none) = none
      from hq, hnone ho]
    exact faultAt_taken hx _ _

end Handles

/-! ### A step word that has been read (R52, R147) -/

/-- Of the state in which a form issues only caches have changed, and what the spin detector has noted of the issuing team. -/
structure StepsRead (x : Iss) (s u : State) : Prop where
  silent : Silent (popIssue s) u
  only   : ∃ l a b c n, u = { popIssue s with teams := l, tlb := a, slices := b, cores := c, fresh := n }
  home   : (teamOf u x.ref.team).map (fun t => (t.core, t.part)) = (teamOf s x.ref.team).map (fun t => (t.core, t.part))

section Reads
variable {i : Instr} {s u v : State} {x : Iss}

theorem StepsRead.start (x : Iss) (s : State) : StepsRead x s (popIssue s) := ⟨.refl _, ⟨_, _, _, _, _, rfl⟩, rfl⟩

theorem StepsRead.caches (h : StepsRead x s u) (g : OnlyCaches u v) : StepsRead x s v := by
  refine ⟨h.silent.trans g.silent, ?_, ?_⟩
  · obtain ⟨_, _, _, _, _, rfl⟩ := h.only
    obtain ⟨_, _, _, _, rfl⟩ := g
    exact ⟨_, _, _, _, _, rfl⟩
  · rw [teamOf_congr g.teams]
    exact h.home

theorem StepsRead.notes (h : StepsRead x s u) (l : List (Nat × List Target)) : StepsRead x s (noteReads x l u) := by
  refine ⟨h.silent.trans (noteReads_silent x l u), ?_, ?_⟩
  · obtain ⟨_, _, _, _, _, rfl⟩ := h.only
    exact ⟨_, _, _, _, _, rfl⟩
  · unfold noteReads
    rw [teamOf_updSplit, if_pos rfl, Option.map_map, ← h.home]
    refine congrArg (Option.map · _) (funext fun t => ?_)
    cases hr : x.ref.high <;> rfl

theorem StepsRead.atIssue (hx : Issues i s x) (h : StepsRead x s u) : AtIssue x u := (AtIssue.start hx).unmoved h.silent.unmoved

theorem StepsRead.regs (h : StepsRead x s u) : SameRegs s u := ((Unmoved.popIssue s).trans h.silent.unmoved).regs

theorem StepsRead.nextOp (h : StepsRead x s u) : u.nextOp = s.nextOp := by
  obtain ⟨_, _, _, _, _, rfl⟩ := h.only
  rfl

theorem StepsRead.ctxs (h : StepsRead x s u) : u.ctxs = s.ctxs := by
  obtain ⟨_, _, _, _, _, rfl⟩ := h.only
  rfl

theorem StepsRead.noLog (h : StepsRead x s u) (hlog : NoLog s x) : NoLog u x := by
  obtain ⟨_, _, _, _, _, rfl⟩ := h.only
  exact hlog

theorem StepsRead.releaseReady (h : StepsRead x s u) {scope : Nat} (hr : ReleaseReady s x scope) : ReleaseReady u x scope := by
  obtain ⟨_, _, _, _, _, rfl⟩ := h.only
  exact hr

theorem StepsRead.poolRefused (h : StepsRead x s u) (c : Ctx) (area : Nat) : poolRefused u c area = poolRefused s c area := by
  obtain ⟨_, _, _, _, _, rfl⟩ := h.only
  rfl

theorem StepsRead.poisonAt (h : StepsRead x s u) (pa n : Nat) : poisonAt u pa n = poisonAt s pa n := by
  obtain ⟨_, _, _, _, _, rfl⟩ := h.only
  rfl

theorem StepsRead.coversPoison (h : StepsRead x s u) (pa n : Nat) : coversPoison u pa n = coversPoison s pa n := by
  obtain ⟨_, _, _, _, _, rfl⟩ := h.only
  rfl

theorem StepsRead.exchangesOf (h : StepsRead x s u) (core : Nat) : exchangesOf u core = exchangesOf s core := by
  obtain ⟨_, _, _, _, _, rfl⟩ := h.only
  rfl

/-- A fault of the instruction as a whole after it has read step words (R444, R447). -/
theorem faultAt_read (hx : Issues i s x) (h : StepsRead x s u) (cause : BitVec 8) (info : Word) :
    FaultTaken s (chargeIdle x (faultAt x cause info u)) x cause info := by
  have hissue := h.atIssue hx
  have hheld := raiseFault_held hissue (plainFault cause x.pc x.active info) rfl rfl
  obtain ⟨tm, sp, htm, hctx, -⟩ := hissue.stands
  have hrec := raiseFault_recorded u x.ref (plainFault cause x.pc x.active info) tm htm
  obtain ⟨-, -, -, -, hmem, htags, hregs⟩ := raiseFault_faulted u x.ref (plainFault cause x.pc x.active info) tm htm
  obtain ⟨a, c, hc⟩ := chargeIdle_charged x (faultAt x cause info u)
  obtain ⟨hteam, -⟩ := hx.team
  have hhome := h.home
  rw [htm, hteam, Option.map_some, Option.map_some, Option.some.injEq, Prod.mk.injEq] at hhome
  have hkey := key_of_teamOf htm
  have hcyc : u.cycle = s.cycle := by
    obtain ⟨_, _, _, _, _, rfl⟩ := h.only
    rfl
  rw [hctx] at hrec
  rw [hc]
  refine ⟨⟨_, hrec, rfl, rfl, rfl, rfl, congrArg TeamKey.disp hkey, congrArg (fun k : TeamKey => BitVec.ofNat 32 k.block) hkey,
    congrArg (fun k : TeamKey => BitVec.ofNat 8 k.team) hkey, congrArg (BitVec.ofNat 8) hhome.1, congrArg (BitVec.ofNat 8) hhome.2, hcyc⟩, hheld,
    fun r => (hregs r).trans ?_, hmem.trans h.silent.mem, htags.trans h.silent.unmoved.tags⟩
  obtain ⟨tt, htt, htregs⟩ := regAt_of_regs (s := s) hteam (h.regs.teams x.ref.team)
  rw [regAt_eq _ _ _ _ hteam, ← htregs]
  exact regAt_eq _ _ _ _ htt

/-- A stall after step words have been read stands at its instruction (R262). -/
theorem staysHeld_stall (hx : Issues i s x) (h : StepsRead x s u) (st : Stall) {o : Host.Outcome State Fault Refusal}
    (ho : o = .next (chargeIdle x (holdAt x (.stall st) u))) : StaysHeld o s x (.stall st) := by
  obtain ⟨sp, hsp, hseen⟩ := (h.atIssue hx).split
  have hhold : Unmoved u (holdAt x (.stall st) u) := .updSplit _ _ _ (fun _ => rfl)
  have hcharge := chargeIdle_charged x (holdAt x (.stall st) u)
  have hmem := mem_of_outside (outside_chargeIdle x (holdAt x (.stall st) u))
  refine ⟨_, { sp with hold := .stall st, ready := 0 }, ho, ?_, rfl, congrArg SplitSeen.pc hseen, congrArg SplitSeen.pos hseen,
    h.regs.trans (hhold.trans hcharge.unmoved).regs, hmem.trans h.silent.mem⟩
  rw [splitOf_charged hcharge, holdAt_stall, splitOf_updSplit, hsp]
  rfl

/-- A wait after step words have been read stands at its instruction (R148). -/
theorem staysHeld_wait (hx : Issues i s x) (hu : Silent (popIssue s) u) {on : List WatchOn} {o : Host.Outcome State Fault Refusal}
    (ho : o = .next (chargeIdle x (holdAt x (.wait on) u))) : StaysHeld o s x (.wait on) := by
  obtain ⟨sp, hsp, hseen⟩ := ((AtIssue.start hx).unmoved hu.unmoved).split
  obtain ⟨hhold, hout, hheld⟩ := holdAt_wait x on u
  obtain ⟨r, hr, hwait, hrs⟩ := hheld sp hsp
  have hcharge := chargeIdle_charged x (holdAt x (.wait on) u)
  have hmem := mem_of_outside ((outside_chargeIdle x (holdAt x (.wait on) u)).trans hout)
  have hrx := hrs.trans hseen
  exact ⟨_, r, ho, (splitOf_charged hcharge _).trans hr, hwait, congrArg SplitSeen.pc hrx, congrArg SplitSeen.pos hrx,
    (((Unmoved.popIssue s).trans hu.unmoved).trans (hhold.trans hcharge.unmoved)).regs, hmem.trans hu.mem⟩

/-- A value that is given after step words have been read is in flight (R259, R283). -/
theorem teamResult_loaded (hx : Issues i s x) (hu : Silent (popIssue s) u) (hc : u.ctxs = s.ctxs) (hn : u.nextOp = s.nextOp) (v : Nat) {P : InFlight → Prop}
    (hP : ∀ e, (∀ code l, willWrite e code l = writtenBy (valueWrites x v) code l) → P e) :
    Loaded s (chargeIdle x (teamResult x v u)) x (bits x.clause.header 15 12) P := by
  have hfly := addFlight_flying ((AtIssue.start hx).unmoved hu.unmoved) (valueWrites x v)
  exact (hfly.after hu hc hn).loaded hx (.refl _) (.refl _) ((chargeIdle_charged x _).traced _) hP

/-- A step word that passes its checks and is not poisoned is read at once (R52, R147). -/
theorem readStep_value {g : GridSlot} {q k l : Nat} {eff : Nat → State → State} {la : LaneAcc} {ts : List Target} {w : Nat} (hlog : NoLog u x)
    (hc : PassChecks x [stepLane x g q k l false] u v [(la, ts)]) (hw : stepValue x v k ts = some w) :
    readStep x g q k l eff u = eff w (noteReads x [(4, ts)] v) := by
  obtain ⟨hv, hok, hbad, hpages⟩ := hc
  rw [readStep, settleThen_clean hlog hpages, hok, hbad, hv]
  simp only [hw]

/-- What a step word's check and its read leave. -/
theorem StepsRead.word (h : StepsRead x s u) {l : List LaneAcc} {ok : List (LaneAcc × List Target)} (hc : PassChecks x l u v ok)
    (r : List (Nat × List Target)) : StepsRead x s (noteReads x r v) := by
  obtain ⟨hv, -⟩ := hc
  exact (h.caches (hv ▸ checkLanes_caches x l u)).notes r

end Reads

end Sys2Proof.Machine
end

section
/-! HQUERY (O31): the value that the grid gives alone, or a step word of the own partition (R151, R310). -/
namespace Sys2Proof.Machine
open Sys2Proof.Forms

section Query
variable {s : State} {x : Iss} {d a : BitVec 8} {n : BitVec 4}

/-- The numbers of a query's operand: its selector and its slab. -/
def querySel (x : Iss) (a : BitVec 8) : Nat := fld (readU x a).toNat 0 8
def querySlab (x : Iss) (a : BitVec 8) : Nat := fld (readU x a).toNat 8 5

/-- The step word that a query reads. -/
def queryWord (x : Iss) (a : BitVec 8) : Nat := if querySel x a = 0 then wPSTEP else querySlab x a

/-- A query of a step word, not of the grid. -/
def ReadsWord (x : Iss) (a : BitVec 8) : Prop := querySel x a = 0 ∨ (querySel x a = 1 ∧ querySlab x a ≤ 26)

/-- What a query does at a bound slot, with the partition of the block or without one. -/
def queryAt (x : Iss) (a : BitVec 8) (g : GridSlot) (q : Option Nat) (s : State) : State :=
  match q with
  | none => if querySel x a ≠ 0x0A then faultAt x 0x36 x.f.word s
            else if x.active = 0 then retire x s
            else teamResult x 0xFFFFFFFF s
  | some q =>
    if x.active = 0 then retire x s
    else if querySel x a = 0 then readStep x g q wPSTEP x.first (fun w s => teamResult x w s) s
    else if querySel x a = 1 ∧ querySlab x a ≤ 26 then
      readStep x g q (querySlab x a) x.first (fun w s => teamResult x w (acquire x 4 s)) s
    else teamResult x (queryValue (gridOf g.desc) q (querySel x a)) s

theorem querySel_eq (x : Iss) (a : BitVec 8) : querySel x a = (readU x a).toNat % 256 := by
  simp [querySel, fld]

theorem exec_hquery (hx : Issues (.hquery d a n) s x) :
    exec (.hquery d a n) s = .next (chargeIdle x (gridThen x n.toNat (queryAt x a) (popIssue s))) := by
  rw [show exec (.hquery d a n) s = execHquery d a n s from rfl, execHquery, issue_next _ hx]
  simp only [← querySel_eq]
  rfl

theorem hquery_fits (hx : Issues (.hquery d a n) s x) : (fieldRegs x).1 = 1 ∧ DstFits x (fieldRegs x).1 ∧ x.f.d = d := by
  have hk : (fieldRegs x).1 = 1 := by rw [fieldRegs, (op_of_fields hx rfl).1]; rfl
  exact ⟨hk, hx.fits_one rfl rfl (show (0xC7 : BitVec 8).toNat ≠ 0xF1 by decide) rfl hk, by rw [(op_of_fields hx rfl).2]⟩

/-- The one value of a query is what each writing lane will hold. -/
theorem hquery_holds (hx : Issues (.hquery d a n) s x) {v : Nat} {e : InFlight} (he : ∀ code l, willWrite e code l = writtenBy (valueWrites x v) code l) :
    ∀ l, l < x.n → laneIn x.all l = true → laneIn x.mixed l = false → WillHold e d l 1 v := by
  obtain ⟨hk, hd, rfl⟩ := hquery_fits hx
  exact fun l hl hin hmix => teamValue_hold hd hk hl hin hmix he

theorem queryAt_word {g : GridSlot} {q : Nat} (ha : x.active ≠ 0) (hw : ReadsWord x a) : ∃ eff : Nat → State → State,
    queryAt x a g (some q) s = readStep x g q (queryWord x a) x.first eff s ∧ ∀ v u, ∃ w, eff v u = teamResult x v w ∧ Silent u w ∧ w.ctxs = u.ctxs ∧
      w.nextOp = u.nextOp := by
  unfold queryAt queryWord
  simp only [if_neg ha]
  by_cases h0 : querySel x a = 0
  · rw [if_pos h0, if_pos h0]
    exact ⟨_, rfl, fun v u => ⟨u, rfl, .refl u, rfl, rfl⟩⟩
  · have h1 := hw.resolve_left h0
    rw [if_neg h0, if_neg h0, if_pos h1]
    refine ⟨_, rfl, fun v u => ⟨_, rfl, acquire_silent x 4 u, ?_, acquire_nextOp x 4 u⟩⟩
    unfold acquire
    split <;> rfl

theorem queryAt_value {g : GridSlot} {q : Nat} (ha : x.active ≠ 0) (hw : ¬ ReadsWord x a) :
    queryAt x a g (some q) s = teamResult x (queryValue (gridOf g.desc) q (querySel x a)) s := by
  unfold queryAt
  simp only [if_neg ha]
  rw [if_neg fun h => hw (.inl h), if_neg fun h => hw (.inr h)]

/-- A query of a step word gives the word (R151). -/
theorem hquery_word (hx : Issues (.hquery d a n) s x) {q : Nat} (ho : OwnsPart s x n.toNat q) (ha : x.active ≠ 0) (hw : ReadsWord x a)
    (hlog : NoLog s x) {s1 : State} {la : LaneAcc} {ts : List Target} {v : Nat}
    (hc : PassChecks x [stepLane x (slotOf x.ctx n.toNat) q (queryWord x a) x.first false] (popIssue s) s1 [(la, ts)])
    (hv : stepValue x s1 (queryWord x a) ts = some v) :
    ∃ t, exec (.hquery d a n) s = .next t ∧ Loaded s t x (bits x.clause.header 15 12) (fun e =>
      ∀ l, l < x.n → laneIn x.all l = true → laneIn x.mixed l = false → WillHold e d l 1 v) := by
  have hread := (StepsRead.start x s).word hc [(4, ts)]
  obtain ⟨eff, heff, hend⟩ := queryAt_word (s := popIssue s) (g := slotOf x.ctx n.toNat) (q := q) ha hw
  obtain ⟨w, hres, hsilent, hctxs, hnext⟩ := hend v (noteReads x [(4, ts)] s1)
  refine ⟨_, exec_hquery hx, ?_⟩
  rw [gridThen_owned ho.issued, heff, readStep_value (u := popIssue s) hlog hc hv, hres]
  exact teamResult_loaded hx (hread.silent.trans hsilent) (hctxs.trans hread.ctxs) (hnext.trans hread.nextOp) v fun e he => hquery_holds hx he

/-- A query that the grid answers. -/
theorem hquery_gives (hx : Issues (.hquery d a n) s x) {v : Nat}
    (he : gridThen x n.toNat (queryAt x a) (popIssue s) = teamResult x v (popIssue s)) : ∃ t, exec (.hquery d a n) s = .next t ∧
      Launched s t x (bits x.clause.header 15 12) (fun e => ∀ l, l < x.n → laneIn x.all l = true → laneIn x.mixed l = false → WillHold e d l 1 v) := by
  refine ⟨_, exec_hquery hx, ?_⟩
  rw [he]
  exact teamResult_launched hx v fun e _ hw => hquery_holds hx hw

end Query

end Sys2Proof.Machine
end

section
/-! THE END OF A PUBLICATION (O31): an exchange that starts, a future that completes and an operation in flight, by what they leave of teams and memory
(R62, R140, R144). -/
namespace Sys2Proof.Machine
open Sys2Proof.Forms

/-! ### Exchanges move no team -/

theorem queueRec_teams (s : State) (c : Nat) (r : FaultRec) : (queueRec s c r).teams = s.teams := rfl

theorem futComplete_teams (s : State) (pa : Nat) (r : FutureResult) : (futComplete s pa r).teams = s.teams := by
  unfold futComplete
  split
  · rfl
  · exact (writeMem_ops _ _ _ _).teams.trans ((writeMem_ops _ _ _ _).teams.trans (writeMem_ops _ _ _ _).teams)

theorem scrubRange_teams (s : State) (pa n : Nat) : (scrubRange s pa n).teams = s.teams := by
  obtain ⟨_, _, _, _, _, h, -⟩ := scrubRange_spec s pa n
  rw [h]

theorem releaseAreas_teams (s : State) : (releaseAreas s).teams = s.teams :=
  foldl_rel (fun s t => t.teams = s.teams) (fun _ => rfl) (fun h g => g.trans h) _ (fun s _ => scrubRange_teams s _ _) _ _

theorem exchReport_teams (s : State) (e : Exchange) (f : XeFail) : (exchReport s e f).teams = s.teams := by
  unfold exchReport
  split
  · exact queueRec_teams _ _ _
  · rfl

/-- The state in which an exchange that has failed is reported (R143). -/
def exchReported (s : State) (e : Exchange) : State :=
  match e.fail with
  | some f => if e.cancelled then s else exchReport s e f
  | none => s

/-- The state in which its future has been told (R140, R143). -/
def exchTold (s : State) (e : Exchange) (cycle : BitVec 64) : State :=
  match e.future with
  | none => s
  | some pa =>
    if e.cancelled then s
    else if objRefused s e.ctx pa then queueRec s e.ctx { exchRec e 2 0x42 0xFF false with cyc := cycle, info2 := e.handle.setWidth 64 }
    else futComplete s pa (exchResult e)

/-- The state without an exchange and its deliveries. -/
def withoutExchange (s : State) (id : Nat) : State :=
  { s with exchanges := s.exchanges.filter (fun e => decide (e.id ≠ id)), deliveries := s.deliveries.filter (fun d => decide (d.exch ≠ id)) }

/-- An exchange stays, or it ends with its report and its future. -/
theorem exchangeDone_cases (s : State) (id : Nat) : exchangeDone s id = s ∨
    ∃ e, exchangeDone s id = bindsResume (releaseAreas (exchTold (exchReported (withoutExchange s id) e) e s.cycle)) e.core := by
  unfold exchangeDone
  split
  · exact .inl rfl
  · split
    · exact .inl rfl
    · next e _ =>
      split
      · exact .inl rfl
      · exact .inr ⟨e, rfl⟩

theorem exchReported_teams (s : State) (e : Exchange) : (exchReported s e).teams = s.teams := by
  unfold exchReported
  split
  · split
    · rfl
    · exact exchReport_teams s e _
  · rfl

theorem exchTold_teams (s : State) (e : Exchange) (cycle : BitVec 64) : (exchTold s e cycle).teams = s.teams := by
  unfold exchTold
  split
  · rfl
  · split
    · rfl
    · split
      · exact queueRec_teams _ _ _
      · exact futComplete_teams _ _ _

theorem exchangeDone_teams (s : State) (id : Nat) : (exchangeDone s id).teams = s.teams := by
  rcases exchangeDone_cases s id with h | ⟨e, h⟩
  · rw [h]
  · rw [h]
    exact (releaseAreas_teams _).trans ((exchTold_teams _ _ _).trans (exchReported_teams _ _))

theorem startExchange_teams (s : State) (e : Exchange) (g : GridSlot) : (startExchange s e g).teams = s.teams := exchangeDone_teams _ _

/-! ### An exchange with a delivery goes on -/

/-- The deliveries that an exchange of a partition starts (R140). -/
def newDeliveries (s : State) (e : Exchange) (g : GridSlot) : List Delivery :=
  let ds := deliveriesOf (gridOf g.desc) e.part
  (List.range ds.length).map (fun i =>
    { id := s.nextOp + 1 + i, exch := s.nextOp, disp := g.dispatch, target := (ds.getD i (0, 0)).1, slab := (ds.getD i (0, 0)).2,
      begun := false, next := 0, pollAt := s.cycle, spoilt := 0, isOver := false, page := none, failed := [] : Delivery })

/-- The state in which the exchange and its deliveries wait. -/
def exchangeBegun (s : State) (e : Exchange) (g : GridSlot) : State :=
  addAgenda { s with exchanges := s.exchanges ++ [{ e with id := s.nextOp }], deliveries := s.deliveries ++ newDeliveries s e g
                     nextOp := s.nextOp + 1 + (deliveriesOf (gridOf g.desc) e.part).length }
    ((newDeliveries s e g).map (fun d => Event.brimDeliveryPoll d.id))

theorem startExchange_goes {s : State} {e : Exchange} {g : GridSlot} (h : deliveriesOf (gridOf g.desc) e.part ≠ []) :
    startExchange s e g = exchangeBegun s e g := by
  have hopen : (exchangeBegun s e g).deliveries.any (fun d => decide (d.exch = s.nextOp) && !d.isOver) = true := by
    refine List.any_eq_true.mpr ⟨_, List.mem_append_right _ (List.mem_map.mpr ⟨0, List.mem_range.mpr (List.length_pos_of_ne_nil h), rfl⟩), ?_⟩
    simp
  have hstart : startExchange s e g = exchangeDone (exchangeBegun s e g) s.nextOp := rfl
  rw [hstart, exchangeDone, if_pos hopen]

/-! ### An operation in flight at its instruction -/

/-- Nothing of a state that a program reads has changed but a flag of the issuing split, which stands at its instruction. -/
structure Risen (x : Iss) (setx : Bool) (state : Pending) (ws : List RegWrite) (s t : State) : Prop where
  issue  : AtIssue x t
  regs   : SameRegs s t
  flags  : ∀ n, flagAt t x.ref n = (flagAt s x.ref n || decide (n = flightFlag x setx))
  flight : ∃ tm e, teamOf t x.ref.team = some tm ∧ e ∈ tm.inflight ∧ FlightOf x setx state ws s.nextOp e

theorem addFlight_risen {x : Iss} {s : State} (h : AtIssue x s) (setx : Bool) (state : Pending) (ws : List RegWrite) :
    Risen x setx state ws s (addFlight x setx state ws [] 0 none s) := by
  obtain ⟨⟨tm, sp, htm, hctx, hsp, hseen⟩, hcl⟩ := h
  obtain ⟨g, hg, hteam⟩ := addFlight_team x setx state ws s
  have hkey (t : Team) : (g t).key = t.key := by
    obtain ⟨l, e, ht, -⟩ := hteam t
    rw [ht]
  have hregs (t : Team) : (g t).regs = t.regs := by
    obtain ⟨l, e, ht, -⟩ := hteam t
    rw [ht]
    rfl
  have hsplit (t : Team) (b : Bool) : splitIn (g t) b = splitIn t b := by
    obtain ⟨l, e, ht, -⟩ := hteam t
    rw [ht]
    rfl
  have hother (k : TeamKey) : teamOf (addFlight x setx state ws [] 0 none s) k =
      if k = x.ref.team then (teamOf s x.ref.team).map g else teamOf s k := by
    rw [hg]
    exact teamOf_updTeam s x.ref.team g k hkey
  have hmine : teamOf (addFlight x setx state ws [] 0 none s) x.ref.team = some (g tm) := by rw [hother, if_pos rfl, htm, Option.map_some]
  obtain ⟨l, e, hgtm, hflags, he⟩ := hteam tm
  refine ⟨⟨⟨g tm, sp, hmine, ?_, (hsplit _ _).trans hsp, hseen⟩, hcl⟩, ⟨fun k => ?_, fun r => ?_⟩, fun n => ?_,
    g tm, e, hmine, ?_, he⟩
  · rw [hgtm]
    exact hctx
  · rw [teamRegs, teamRegs, hother]
    by_cases hk : k = x.ref.team
    · rw [if_pos hk, hk, Option.map_map]
      exact congrArg (Option.map · _) (funext hregs)
    · rw [if_neg hk]
  · rw [splitRegs, splitRegs, splitOf, splitOf, hother]
    by_cases hk : r.team = x.ref.team
    · rw [if_pos hk, hk, Option.bind_map]
      exact congrArg (fun o : Option Split => o.map Split.regs) (congrArg (Option.bind _) (funext fun u => hsplit u _))
    · rw [if_neg hk]
  · rw [flagAt, flagAt, hmine, htm]
    simp only [hgtm]
    exact flagSet_append hflags he n
  · rw [hgtm]
    exact List.mem_append_right _ (List.mem_singleton_self _)

/-- What an instruction leaves that has put an operation in flight, and has retired. -/
structure RisenEnded (x : Iss) (setx : Bool) (state : Pending) (ws : List RegWrite) (s t : State) : Prop where
  next   : Advanced x t
  regs   : SameRegs s t
  flags  : ∀ n, flagAt t x.ref n = (flagAt s x.ref n || decide (n = flightFlag x setx))
  flight : ∃ tm e, teamOf t x.ref.team = some tm ∧ e ∈ tm.inflight ∧ FlightOf x setx state ws s.nextOp e

/-- What follows the retirement has moved no team (R252). -/
theorem Risen.ended {x : Iss} {setx : Bool} {state : Pending} {ws : List RegWrite} {s v w t : State} (h : Risen x setx state ws s v)
    (hw : w.teams = (retire x v).teams) (ht : OnlyCharged w t) : RisenEnded x setx state ws s t := by
  have hteams : t.teams = (retire x v).teams := by
    obtain ⟨_, _, rfl⟩ := ht
    exact hw
  obtain ⟨⟨sp, hsp, hplace⟩, hregs, hin, -, -⟩ := retiredFrom h.issue (.refl (retire x v))
  obtain ⟨tm, e, htm, he, hflight⟩ := h.flight
  have hmine := hin x.ref.team
  rw [htm] at hmine
  obtain ⟨tt, htt, hte⟩ := Option.map_eq_some_iff.mp hmine
  refine ⟨⟨sp, (splitOf_congr hteams _).trans hsp, hplace⟩, h.regs.trans (hregs.trans (.of_teams hteams)), fun n => ?_,
    tt, e, (teamOf_congr hteams _).trans htt, hte ▸ he, hflight⟩
  rw [flagAt_congr hteams, flagAt_of_inflight hin, h.flags]

end Sys2Proof.Machine
end

section
/-! HSTEP (O31): its checks in their order, and the publication of a step (R140, R144, R309). -/
namespace Sys2Proof.Machine
open Sys2Proof.Forms

/-! ### The checks -/

/-- HSTEP once the own PSTEP has been read: the checks in their order, and the release that the publication follows. -/
def stepChecked (x : Iss) (g : GridSlot) (q step p : Nat) (s : State) : State :=
  if step ≠ p + 1 then faultAt x 0x37 x.f.word s
  else if poolRefused s x.ctx x.block.area then faultAt x 0x42 x.f.word s
  else match freeFuture x.block with
    | none => faultAt x 0x33 x.f.word s
    | some slot =>
      if poisonAt s (futureAt x.ctx x.block.area slot) 32 then objectPoison x s
      else if step % (gridOf g.desc).depth = 0 ∧ 16 ≤ exchangesOf s x.team.core then holdAt x (.stall .engine) s
      else releaseThen x 4 (publish x g q slot step) s

/-- What HSTEP does at a bound slot. -/
def hstepAt (x : Iss) (step : Nat) (g : GridSlot) (q : Option Nat) (s : State) : State :=
  match q with
  | none => faultAt x 0x36 x.f.word s
  | some q => if x.active = 0 then idleStep x g q step s else readStep x g q wPSTEP x.first (stepChecked x g q step) s

theorem exec_hstep {s : State} {x : Iss} {d a : BitVec 8} {n : BitVec 4} (hx : Issues (.hstep d a n) s x) :
    exec (.hstep d a n) s = .next (chargeIdle x (gridThen x n.toNat (hstepAt x (readU x a).toNat) (popIssue s))) := by
  rw [show exec (.hstep d a n) s = execHstep d a n s from rfl, execHstep, issue_next _ hx]
  rfl

section Checks
variable {x : Iss} {g : GridSlot} {q step p : Nat} {s : State}

theorem stepChecked_late (h : step ≠ p + 1) : stepChecked x g q step p s = faultAt x 0x37 x.f.word s := if_pos h

variable (h : step = p + 1)
include h

theorem stepChecked_pool (hp : poolRefused s x.ctx x.block.area = true) : stepChecked x g q step p s = faultAt x 0x42 x.f.word s := by
  rw [stepChecked, if_neg (not_not.mpr h), if_pos hp]

variable (hp : poolRefused s x.ctx x.block.area = false)
include hp

theorem stepChecked_full (hf : freeFuture x.block = none) : stepChecked x g q step p s = faultAt x 0x33 x.f.word s := by
  rw [stepChecked, if_neg (not_not.mpr h), if_neg (by simp [hp]), hf]

variable {slot : Nat} (hf : freeFuture x.block = some slot) (hs : poisonAt s (futureAt x.ctx x.block.area slot) 32 = false)
include hf hs

theorem stepChecked_places (hq : step % (gridOf g.desc).depth = 0 ∧ 16 ≤ exchangesOf s x.team.core) :
    stepChecked x g q step p s = holdAt x (.stall .engine) s := by
  rw [stepChecked, if_neg (not_not.mpr h), if_neg (by simp [hp]), hf]
  simp only [hs, Bool.false_eq_true, if_false, if_pos hq]

theorem stepChecked_release (hq : ¬ (step % (gridOf g.desc).depth = 0 ∧ 16 ≤ exchangesOf s x.team.core)) :
    stepChecked x g q step p s = releaseThen x 4 (publish x g q slot step) s := by
  rw [stepChecked, if_neg (not_not.mpr h), if_neg (by simp [hp]), hf]
  simp only [hs, Bool.false_eq_true, if_false, if_neg hq]

end Checks

/-! ### Without an active lane (R273) -/

section Idle
variable {x : Iss} {g : GridSlot} {q step : Nat} {s : State}

/-- PSTEP can be read, and the step is not its next. -/
def IdleBad (x : Iss) (g : GridSlot) (q step : Nat) (s : State) : Prop :=
  ∃ ts tc p, (checkAccess s (whoOf x 0) (stepLane x g q wPSTEP 0 false).acc).2 = .ok ts tc ∧ stepValue x s wPSTEP ts = some p ∧ step ≠ p + 1

theorem idleStep_eq : (IdleBad x g q step s → idleStep x g q step s = faultAt x 0x37 x.f.word s) ∧
    (¬ IdleBad x g q step s → idleStep x g q step s =
      if poolRefused s x.ctx x.block.area then faultAt x 0x42 x.f.word s else retire x s) := by
  unfold idleStep IdleBad
  obtain ⟨u, c⟩ := checkAccess s (whoOf x 0) (stepLane x g q wPSTEP 0 false).acc
  cases c with
  | ok ts tc =>
    cases hv : stepValue x s wPSTEP ts with
    | none => exact ⟨fun ⟨ts', _, p, h, hp, _⟩ => (by cases h; rw [hv] at hp; cases hp), fun _ => by simp [hv]⟩
    | some w =>
      refine ⟨fun ⟨ts', _, p, h, hp, hne⟩ => ?_, fun hno => ?_⟩
      · cases h
        rw [hv] at hp
        cases hp
        simp [hv, hne]
      · have hstep : step = w + 1 := not_not.mp fun hne => hno ⟨ts, tc, w, rfl, hv, hne⟩
        simp [hv, hstep]
  | fault c => exact ⟨fun ⟨_, _, _, h, _⟩ => (by cases h), fun _ => by simp⟩
  | page g => exact ⟨fun ⟨_, _, _, h, _⟩ => (by cases h), fun _ => by simp⟩

end Idle

/-! ### The word of a step (R140) -/

theorem l1Update_aside (s : State) (core pa n : Nat) (f : Nat → Byte) : Aside s (l1Update s core pa n f) := ⟨.of_eq rfl rfl rfl, rfl, fun _ _ h => h⟩

/-- A number that a core's agent writes. -/
theorem writeMemBy_word (core : Nat) (s : State) (pa n v : Nat) : WordPut pa n v s (writeMemBy core s pa n (byteOf v)) := by
  have hmem : (writeMemBy core s pa n (byteOf v)).mem = (writeMem s pa n (byteOf v)).mem :=
    (l1Seen_stores core (writeMem s pa n (byteOf v)) pa n).1
  refine ⟨(writeMem_aside s pa n _).trans ((l1Seen_aside core _ pa n).trans (l1Update_aside _ core pa n _)), ?_, fun a ha => ?_⟩
  · exact (readMem_of_mem hmem pa n).trans (readMem_writeNat s pa n v)
  · rw [readByte, hmem]
    exact readByte_writeMem_other s pa n _ a ha

/-- What HSTEP writes to PSTEP: the step, or a number that nothing constrains where software has spoilt the partition (R132). -/
def publishedWord (g : GridSlot) (q step : Nat) (s : State) : Nat := if g.spoilt.contains q then freeNat s.fresh 4 else step

/-- The state with the own PSTEP written. -/
def wordPublished (x : Iss) (g : GridSlot) (q step qa cp : Nat) (s : State) : State :=
  writeMemBy x.team.core (sliceTouch { s with fresh := if g.spoilt.contains q then s.fresh + 1 else s.fresh } (partOfCtx s x.team.ctx) cp false qa 4 true)
    qa 4 (byteOf (publishedWord g q step s))

theorem wordPublished_put (x : Iss) (g : GridSlot) (q step qa cp : Nat) (s : State) :
    WordPut qa 4 (publishedWord g q step s) s (wordPublished x g q step qa cp s) := by
  have h1 := sliceTouch_caches { s with fresh := if g.spoilt.contains q then s.fresh + 1 else s.fresh } (partOfCtx s x.team.ctx) cp false qa 4 true
  have h0 : OnlyCaches s { s with fresh := if g.spoilt.contains q then s.fresh + 1 else s.fresh } := ⟨_, _, _, _, rfl⟩
  have h2 := writeMemBy_word x.team.core (sliceTouch { s with fresh := if g.spoilt.contains q then s.fresh + 1 else s.fresh } (partOfCtx s x.team.ctx) cp false
    qa 4 true) qa 4 (publishedWord g q step s)
  refine ⟨(h0.trans h1).aside.trans h2.toAside, h2.same, fun a ha => (h2.others a ha).trans ?_⟩
  rw [readByte, (h0.trans h1).mem]
  rfl

/-! ### The future and the end of a publication -/

theorem futAllocate_aside (s : State) (b : Block) (slot eng : Nat) : Aside s (futAllocate s b slot eng).1 := by
  have h0 : Aside s (updBlock s b.disp b.index (fun b => { b with futures := b.futures ||| BitVec.ofNat 64 (2 ^ slot) })) :=
    ⟨.of_eq rfl rfl rfl, rfl, fun _ _ h => h⟩
  exact (h0.trans (writeMem_aside _ _ _ _)).trans (writeMem_aside _ _ _ _)

/-- The place of the future that a publication allocates. -/
def stepFuture (x : Iss) (slot : Nat) (s : State) : Nat := futureAt (ctxOf s x.block.ctx) x.block.area slot
def stepHandle (x : Iss) (slot : Nat) (s : State) : Word := handleOf slot x.block.area (futGen s (stepFuture x slot s))

/-- The state with the future allocated and its handle in flight. -/
def handleFlown (x : Iss) (slot : Nat) (s : State) : State :=
  addFlight x true .ready [{ code := x.f.d.toNat, lane := 0, val := stepHandle x slot s }] [] 0 none
    (futAllocate s x.block slot (0x100 + x.team.core)).1

/-- The exchange of a publication (R140, R144). -/
def stepExchange (x : Iss) (q slot step : Nat) (s : State) : Exchange :=
  { id := 0, team := x.ref.team, ctx := x.team.ctx, core := x.team.core, spart := x.team.part,
    entry := 2 * x.team.slot + x.ref.high.toNat, lane := x.first, pc := x.pc, slot := (x.f.b.toNat % 16),
    part := q, owner := x.ref.team.block, step := BitVec.ofNat 32 step, future := some (stepFuture x slot s), handle := stepHandle x slot s, fail := none,
    stored := [], placed := 0, cancelled := false }

/-- What follows the publication's retirement: the future completes, or the exchange of the step starts. -/
def publishEnd (x : Iss) (g : GridSlot) (q slot step : Nat) (s v : State) : State :=
  if step % (gridOf g.desc).depth ≠ 0 then futComplete v (stepFuture x slot s) { status := 0, bytes := 0, coord := 0, side := 0 }
  else startExchange v (stepExchange x q slot step s) g

theorem publishEnd_teams (x : Iss) (g : GridSlot) (q slot step : Nat) (s v : State) : (publishEnd x g q slot step s v).teams = v.teams := by
  unfold publishEnd
  split
  · exact futComplete_teams _ _ _
  · exact startExchange_teams _ _ _

/-- A publication whose word lies on this device and can be written. -/
theorem publish_eq {x : Iss} {g : GridSlot} {q slot step : Nat} {u s : State} {lw : LaneAcc} {qa cp : Nat} (hlog : NoLog u x)
    (hc : PassChecks x [stepLane x g q wPSTEP x.first true] u s [(lw, [.mem qa 4 cp])]) (hp : coversPoison s qa 4 = true) :
    publish x g q slot step u = publishEnd x g q slot step (wordPublished x g q step qa cp s)
      (retire x (handleFlown x slot (wordPublished x g q step qa cp s))) := by
  obtain ⟨hs, hok, hbad, hpages⟩ := hc
  rw [publish, settleThen_clean hlog hpages, hok, hbad, hs]
  have hw : writeChecked x.team.core { s with fresh := if g.spoilt.contains q then s.fresh + 1 else s.fresh } (partOfCtx s x.team.ctx) x.ref.team.disp
      x.ref.team.block [.mem qa 4 cp] 4 (publishedWord g q step s) = some (wordPublished x g q step qa cp s) := by
    have hp' : coversPoison { s with fresh := if g.spoilt.contains q then s.fresh + 1 else s.fresh } qa 4 = true := hp
    rw [writeChecked, writeTargets, if_pos hp', writeTargets]
    · rfl
    · exact fun o h => by cases h
  have hlocal : isRemote [.mem qa 4 cp] = false := rfl
  unfold publishedWord at hw
  simp only [hlocal, hw, Bool.false_eq_true, if_false, Option.getD_some]
  rfl

end Sys2Proof.Machine
end

section
/-! THE PUBLICATION OF HSTEP (O31): PSTEP holds the step, and the future completes or the exchange of the step has started (R140, R144). -/
namespace Sys2Proof.Machine
open Sys2Proof.Forms

theorem poisonAt_of_outside {s t : State} (h : outside t = outside s) (pa n : Nat) : poisonAt t pa n = poisonAt s pa n := by
  have e := congrArg (fun v : State => poisonAt v pa n) h
  exact e

theorem exchanges_of_outside {s t : State} (h : outside t = outside s) : t.exchanges = s.exchanges := by
  have e := congrArg (fun v : State => v.exchanges) h
  exact e

theorem stepFuture_congr {s t : State} (h : t.ctxs = s.ctxs) (x : Iss) (slot : Nat) : stepFuture x slot t = stepFuture x slot s := by
  unfold stepFuture ctxOf
  rw [h]

section End
variable {x : Iss} {g : GridSlot} {q slot step : Nat} {s v : State}

/-- A completion leaves the bytes outside its future, and an exchange that goes on every byte. -/
theorem publishEnd_bytes (hd : futDone v (stepFuture x slot s) = false) (hp : poisonAt v (stepFuture x slot s) 32 = false)
    (hgo : step % (gridOf g.desc).depth = 0 → deliveriesOf (gridOf g.desc) q ≠ []) {a : Nat} (ha : a < stepFuture x slot s ∨ stepFuture x slot s + 32 ≤ a) :
    readByte (publishEnd x g q slot step s v) a = readByte v a := by
  unfold publishEnd
  split
  · exact (futComplete_left _ hd hp).step.mem a ha
  · next h =>
    rw [startExchange_goes (hgo (not_not.mp h))]
    rfl

theorem publishEnd_done (hd : futDone v (stepFuture x slot s) = false) (hp : poisonAt v (stepFuture x slot s) 32 = false)
    (hs : step % (gridOf g.desc).depth ≠ 0) : futDone (publishEnd x g q slot step s v) (stepFuture x slot s) = true := by
  rw [publishEnd, if_pos hs]
  exact (futComplete_left _ hd hp).done

theorem publishEnd_exchange (hs : step % (gridOf g.desc).depth = 0) (hgo : deliveriesOf (gridOf g.desc) q ≠ []) :
    ∃ e ∈ (publishEnd x g q slot step s v).exchanges, e.part = q ∧ e.step = BitVec.ofNat 32 step ∧ e.future = some (stepFuture x slot s) := by
  rw [publishEnd, if_neg (not_not.mpr hs), startExchange_goes hgo]
  exact ⟨_, List.mem_append_right _ (List.mem_singleton_self _), rfl, rfl, rfl⟩

end End

/-- What the allocation of a publication's future and its flight leave. -/
structure HandleUp (x : Iss) (slot : Nat) (s v : State) : Prop where
  pending : futDone v (stepFuture x slot s) = false
  clean   : poisonAt s (stepFuture x slot s) 32 = false → poisonAt v (stepFuture x slot s) 32 = false
  bytes   : ∀ a, a < stepFuture x slot s ∨ stepFuture x slot s + 32 ≤ a → readByte v a = readByte s a

theorem handleFlown_up (x : Iss) (slot : Nat) (s : State) : HandleUp x slot s (retire x (handleFlown x slot s)) := by
  obtain ⟨-, hdone, -, hbytes⟩ := futAllocate_spec s x.block slot (0x100 + x.team.core)
  have haside := futAllocate_aside s x.block slot (0x100 + x.team.core)
  have hout : outside (retire x (handleFlown x slot s)) = outside (futAllocate s x.block slot (0x100 + x.team.core)).1 := retire_outside x _
  have hmem := mem_of_outside hout
  refine ⟨?_, fun h => ?_, fun a ha => ?_⟩
  · rw [futDone, readMem_of_mem hmem]
    exact hdone
  · rw [poisonAt_of_outside hout]
    exact haside.clean _ _ h
  · rw [readByte, hmem]
    unfold stepFuture at ha
    exact hbytes a (by omega) (by omega) (by omega)

section Publication
variable {i : Instr} {s u s2 : State} {x : Iss} {g : GridSlot} {q slot step qa cp : Nat} {lw : LaneAcc}

/-- HSTEP after its checks and its release: it has retired under SETX, PSTEP holds the step, and its future is done or waits for the exchange. -/
structure StepPublished (s t : State) (x : Iss) (g : GridSlot) (q slot step qa : Nat) : Prop where
  next     : Advanced x t
  regs     : SameRegs s t
  flags    : ∀ k, flagAt t x.ref k = (flagAt s x.ref k || decide (k = bits x.clause.header 19 16))
  word     : g.spoilt.contains q = false → (step % (gridOf g.desc).depth = 0 → deliveriesOf (gridOf g.desc) q ≠ []) →
    (qa + 4 ≤ stepFuture x slot s ∨ stepFuture x slot s + 32 ≤ qa) → readMem t qa 4 = step % 2 ^ 32
  done     : step % (gridOf g.desc).depth ≠ 0 → futDone t (stepFuture x slot s) = true
  exchange : step % (gridOf g.desc).depth = 0 → deliveriesOf (gridOf g.desc) q ≠ [] →
    ∃ e ∈ t.exchanges, e.part = q ∧ e.step = BitVec.ofNat 32 step ∧ e.future = some (stepFuture x slot s)

theorem publish_published (hx : Issues i s x) (hu : StepsRead x s u) (hlog : NoLog s x)
    (hc : PassChecks x [stepLane x g q wPSTEP x.first true] u s2 [(lw, [.mem qa 4 cp])]) (hcover : coversPoison s qa 4 = true)
    (hclean : poisonAt s (stepFuture x slot s) 32 = false) :
    StepPublished s (chargeIdle x (publish x g q slot step u)) x g q slot step qa := by
  have hs2 : StepsRead x s s2 := by
    obtain ⟨hs, -⟩ := hc
    exact hu.caches (hs ▸ checkLanes_caches x _ u)
  rw [publish_eq (hu.noLog hlog) hc ((hs2.coversPoison qa 4).trans hcover)]
  have hput := wordPublished_put x g q step qa cp s2
  generalize hw : wordPublished x g q step qa cp s2 = w at hput ⊢
  have hfu : stepFuture x slot w = stepFuture x slot s := stepFuture_congr (hput.ctxs.trans hs2.ctxs) x slot
  have hwclean : poisonAt w (stepFuture x slot w) 32 = false := hput.clean _ _ (by rw [hs2.poisonAt, hfu]; exact hclean)
  have hissue : AtIssue x (futAllocate w x.block slot (0x100 + x.team.core)).1 :=
    ((hs2.atIssue hx).unmoved hput.unmoved).unmoved (futAllocate_aside w x.block slot _).unmoved
  have hregs := hs2.regs.trans (hput.unmoved.trans (futAllocate_aside w x.block slot (0x100 + x.team.core)).unmoved).regs
  have hflags := (((Unmoved.popIssue s).trans hs2.silent.unmoved).trans (hput.unmoved.trans (futAllocate_aside w x.block slot (0x100 + x.team.core)).unmoved)).flags
  have hrisen := addFlight_risen hissue true .ready [{ code := x.f.d.toNat, lane := 0, val := stepHandle x slot w }]
  obtain ⟨hpending, hupclean, hbytes⟩ := handleFlown_up x slot w
  have hupclean := hupclean hwclean
  obtain ⟨hnext, hsame, hrise, -⟩ := hrisen.ended (publishEnd_teams x g q slot step w (retire x (handleFlown x slot w))) (chargeIdle_charged x _)
  have hout := outside_chargeIdle x (publishEnd x g q slot step w (retire x (handleFlown x slot w)))
  have hmem := mem_of_outside hout
  generalize chargeIdle x _ = t at *
  refine ⟨hnext, hregs.trans hsame, fun k => (hrise k).trans (congrArg (· || _) (hflags x.ref k)), fun hsp hgo hapart => ?_, fun hd => ?_, fun hd hgo => ?_⟩
  · have hval : publishedWord g q step s2 = step := by rw [publishedWord, hsp]; rfl
    rw [readMem_of_mem hmem]
    refine (readMem_congr fun a h1 h2 => ?_).trans (hput.same.trans (by rw [hval]))
    rw [← hfu] at hapart
    rw [publishEnd_bytes hpending hupclean hgo (by omega)]
    exact hbytes a (by omega)
  · rw [← hfu, futDone, readMem_of_mem hmem]
    exact publishEnd_done hpending hupclean hd
  · rw [← hfu, exchanges_of_outside hout]
    exact publishEnd_exchange hd hgo

end Publication

end Sys2Proof.Machine
end

section
/-! HLD (O31): the lanes' checks once the step words are known, and the loads from the state that the words' reads have left (R146 to R149, R308). -/
namespace Sys2Proof.Machine
open Sys2Proof.Forms

/-! ### A load from a state that earlier reads of the instruction have left -/

/-- What a load of lanes starts from that are the first to change what a program reads. -/
structure LoadStart (x : Iss) (s u : State) : Prop where
  silent : Silent (popIssue s) u
  ctxs   : u.ctxs = s.ctxs
  nextOp : u.nextOp = s.nextOp
  log    : NoLog s x → NoLog u x

theorem StepsRead.loadStart {x : Iss} {s u : State} (h : StepsRead x s u) : LoadStart x s u := ⟨h.silent, h.ctxs, h.nextOp, h.noLog⟩

theorem LoadStart.dropWatches {x : Iss} {s u : State} (h : LoadStart x s u) : LoadStart x s (dropWatches u x.ref) :=
  ⟨h.silent.trans (dropWatches_silent u x.ref), h.ctxs, h.nextOp, h.log⟩

theorem LoadStart.acquire {x : Iss} {s u : State} (h : LoadStart x s u) (scope : Nat) : LoadStart x s (acquire x scope u) := by
  refine ⟨h.silent.trans (acquire_silent x scope u), Eq.trans ?_ h.ctxs, (acquire_nextOp x scope u).trans h.nextOp, fun hlog e he => h.log hlog e ?_⟩
  · unfold Machine.acquire
    split <;> rfl
  · have hside := congrArg (fun v : State => v.sideLog) (outside_acquire x scope u)
    exact (hside : (Machine.acquire x scope u).sideLog = u.sideLog) ▸ he

/-- Lanes that all have an access. -/
structure AllLoad (x : Iss) (l : List LaneAcc) : Prop where
  nodup  : (l.map (·.lane)).Nodup
  lanes  : ∀ a ∈ l, a.lane ∈ accLanes x
  covers : ∀ n ∈ accLanes x, ∃ a ∈ l, a.lane = n

section Loads
variable {i : Instr} {s u : State} {x : Iss} {lc : LoadCache} {sx : Bool} {l : List LaneAcc} {after : State → State}

/-- The lanes' values are in flight, where no lane fails. -/
theorem loadFlown_loaded (hx : Issues i s x) (hd : DstFits x (fieldRegs x).1) (hl : AllLoad x l) (ha : ∀ v, Silent v (after v)) (hu : LoadStart x s u)
    (hne : lanesOf x.n x.active ≠ []) {ok : List (LaneAcc × List Target)} (hok : ok.map (·.1) = l) (hlate : (laneValues x lc.l1 u ok).2 = []) :
    let vals := (laneValues x lc.l1 u ok).1
    Loaded s (chargeIdle x (conflicts x ok (retire x (loadPassed x lc after vals (loadFlown x sx [] vals u))))) x (bits x.clause.header 15 12)
      (fun e => ∀ p ∈ ok, ∀ v, loadValue u lc.l1 x.block (.lane x.ref p.1.lane) p.2 p.1.acc.n = .ok v →
        WillHold e x.f.d p.1.lane (fieldRegs x).1 (extend p.1.acc.n sx v)) := by
  have hall := fun p => laneValues_all x lc.l1 u hlate (p := p)
  have hval := fun p v => mem_laneValues x lc.l1 u (ok := ok) (p := p) (v := v)
  have hsub := laneValues_sublist x lc.l1 u ok
  generalize (laneValues x lc.l1 u ok).1 = vals at *
  have hnodup : (vals.map (·.1.lane)).Nodup := by
    have h1 := List.Sublist.map LaneAcc.lane hsub
    rw [List.map_map, hok] at h1
    exact h1.nodup hl.nodup
  have hcover : ∀ n ∈ accLanes x, ∃ p ∈ vals, p.1.lane = n := fun n hn => by
    obtain ⟨a, ha, e⟩ := hl.covers n hn
    obtain ⟨p, hp, rfl⟩ := List.mem_map.mp (hok ▸ ha)
    obtain ⟨v, hv⟩ := hall p hp
    exact ⟨_, hv, e⟩
  have hdone : loadDone x [] vals ≠ 0 := by
    obtain ⟨n, hn⟩ := accLanes_ne hne
    intro h0
    have hin := (mem_lanesOf.mp (laneIn_loadDone (extra := []) hne hn (.inl (hcover n hn)))).2
    rw [h0, laneIn_zero] at hin
    cases hin
  have hfly := (addFlight_flying ((AtIssue.start hx).unmoved hu.silent.unmoved) (loadWrites x sx [] vals)).after hu.silent hu.ctxs hu.nextOp
  intro vals
  rw [loadFlown, if_neg hdone]
  refine hfly.loaded hx (.refl _) (loadPassed_silent ha lc vals _) ((conflicts_traced x _ _).trans ((chargeIdle_charged x _).traced _)) fun e he p hp v hv => ?_
  have hpv := hval p v hp hv
  have hlane := hl.lanes _ (hok ▸ List.mem_map_of_mem hp)
  have hold := loadWrites_hold (extra := []) hd hne hlane (.inl ⟨_, hpv, rfl⟩) he
  rwa [loadGet_val hnodup hpv] at hold

/-- Where all of the lanes that are checked pass, they are the lanes of the load. -/
theorem okLanes_all {c : List (LaneAcc × Checked)} (hp : pageLanes c = []) (hb : badLanes c = []) : (okLanes c).map (·.1) = c.map (·.1) := by
  induction c with
  | nil => rfl
  | cons p c ih =>
    obtain ⟨a, k⟩ := p
    cases k with
    | ok ts uc => exact congrArg (a :: ·) (ih hp hb)
    | fault cause => cases hb
    | page g => cases hp

/-- A load of every lane through generic addresses, from a state that earlier reads have left (R85, R283, R288). -/
theorem loadForm_started {o : Host.Outcome State Fault Refusal} (hx : Issues i s x) (hd : DstFits x (fieldRegs x).1) (hl : AllLoad x l)
    (ha : ∀ v, Silent v (after v)) (hu : LoadStart x s u) (ho : o = .next (chargeIdle x (loadForm x lc sx l [] [] after u))) :
    LoadResult o s x u lc.l1 sx l [] [] := by
  intro hne hpages hlocal hlog
  unfold loadForm at ho
  rw [settleThen_clean (hu.log hlog) hpages, loadLanes_local hlocal] at ho
  simp only at ho
  have hc : OnlyCaches u (checkLanes x l u).1 := checkLanes_caches x l _
  have hfst : (checkLanes x l u).2.map (·.1) = l := checkLanes_fst x l _
  generalize checkLanes x l u = c at *
  have hstart : LoadStart x s c.1 := by
    obtain ⟨_, _, _, _, hc⟩ := id hc
    refine ⟨hu.silent.trans (OnlyCaches.silent ⟨_, _, _, _, hc⟩), ?_, ?_, fun h => (hu.log h).of_caches ⟨_, _, _, _, hc⟩⟩ <;> rw [hc]
    · exact hu.ctxs
    · exact hu.nextOp
  refine ⟨fun hbad => ?_, fun b hb => ?_⟩
  · rw [if_pos hbad] at ho
    obtain ⟨hb0, hlate⟩ := List.append_eq_nil_iff.mp hbad
    obtain ⟨hb0, -⟩ := List.append_eq_nil_iff.mp hb0
    have hload := loadFlown_loaded (sx := sx) hx hd hl ha hstart hne ((okLanes_all hpages hb0).trans hfst) hlate
    obtain ⟨hnext, hregs, hflags, hothers, htags, hblocks, hctxs, hmem, e, he, hflag, hstate, hhold⟩ := hload
    exact ⟨_, ho, hnext, hregs, hflags, hothers, htags, hblocks, hctxs, hmem, e, he, hflag, hstate, hhold, fun l hl => by cases hl⟩
  · rw [if_neg (fun h => by rw [h] at hb; cases hb)] at ho
    refine ⟨_, ho, reportLanes_faulted ?_ hb (chargeIdle_charged x _)⟩
    have hissue : AtIssue x c.1 := (AtIssue.start hx).unmoved hstart.silent.unmoved
    have hfly : AtIssue x (loadFlown x sx [] (laneValues x lc.l1 c.1 (okLanes c.2)).1 c.1) := by
      unfold loadFlown
      split
      · exact hissue
      · exact (addFlight_flying hissue _).issue
    exact (hfly.unmoved (loadPassed_silent ha lc _ _).unmoved).unmoved (conflicts_traced x _ _).unmoved

end Loads

/-! ### The lanes of HLD -/

section Lanes
variable {x : Iss} {g : GridSlot} {q req : Nat} {ix : List (Nat × Nat)} {ok : List (LaneAcc × List Target)} {bad : List Bad} {s : State}

/-- The loads of the lanes' elements (R146). -/
def elemLanes (x : Iss) (g : GridSlot) (q : Nat) (ix : List (Nat × Nat)) : List LaneAcc :=
  ix.map (fun p => ⟨p.1, { ga := elemGa (gridOf g.desc) (slotPart g q) p.2, n := (gridOf g.desc).bytes, align := (gridOf g.desc).bytes, write := false
                           atom := false, tags := true, l1 := some x.team.core }⟩)

/-- What the check of a lane's element finds. -/
def haloEnd (x : Iss) (g : GridSlot) (q req : Nat) (ok : List (LaneAcc × List Target)) (bad : List Bad) (s : State) (p : Nat × Nat) : HaloEnd :=
  laneHalo (gridOf g.desc) req p.2 (stepRead x g q s ok bad)

theorem haloLanes_ready (h : ∀ p ∈ ix, haloEnd x g q req ok bad s p = .ready) : haloLanes x g q req ix ok bad s =
    loadForm x (plainLoad x) false (elemLanes x g q ix) [] [] id (if ok = [] then dropWatches s x.ref else acquire x 4 (dropWatches s x.ref)) := by
  unfold haloEnd at h
  unfold haloLanes elemLanes
  generalize hends : ix.map (fun p => (p.1, laneHalo (gridOf g.desc) req p.2 (stepRead x g q s ok bad))) = ends
  have hready : ∀ e ∈ ends, e.2 = .ready := fun e he => by
    obtain ⟨p, hp, rfl⟩ := List.mem_map.mp (hends ▸ he)
    exact h p hp
  have hgo : ∀ p ∈ ix, ends.any (fun e => decide (e.1 = p.1 ∧ e.2 = .ready)) = true := fun p hp =>
    List.any_eq_true.mpr ⟨_, hends ▸ List.mem_map_of_mem hp, decide_eq_true ⟨rfl, h p hp⟩⟩
  simp only [hends]
  rw [if_neg (not_not.mpr (List.filterMap_eq_nil_iff.mpr fun e he => by rw [hready e he]))]
  congr 1
  · rw [← List.filterMap_eq_map]
    exact List.filterMap_congr fun p hp => if_pos (hgo p hp)
  · exact List.filterMap_eq_nil_iff.mpr fun e he => by rw [hready e he]

/-- The watches on the words that lanes await change the watches only (R63, R64). -/
theorem watchWords_silent (x : Iss) (l : List (List Target)) : ∀ s, Silent s (watchWords x l s).1 := by
  induction l with
  | nil => exact .refl
  | cons ts rest ih =>
    intro s
    cases ts with
    | nil => exact ih s
    | cons t ts =>
      cases t with
      | mem pa n cp => exact (watchLine_spec s x.ref pa).1.trans (ih _)
      | spad o => exact ih s
      | remote pa n tc => exact ih s

/-- A lane whose word is below the step holds the instruction (R148). -/
theorem haloLanes_stall {p : Nat × Nat} {k : Nat} (hp : p ∈ ix) (h : haloEnd x g q req ok bad s p = .stall k) :
    ∃ on u, haloLanes x g q req ix ok bad s = holdAt x (.wait on) u ∧ Silent s u := by
  unfold haloEnd at h
  unfold haloLanes
  generalize hends : ix.map (fun p => (p.1, laneHalo (gridOf g.desc) req p.2 (stepRead x g q s ok bad))) = ends
  have hmem : (p.1, HaloEnd.stall k) ∈ ends := hends ▸ h ▸ List.mem_map_of_mem hp
  simp only [hends]
  split
  · exact ⟨_, _, rfl, (watchWords_silent x _ s).trans ⟨.updSplit _ _ _ (fun _ => rfl), rfl, rfl⟩⟩
  · next hno => cases List.filterMap_eq_nil_iff.mp (not_not.mp hno) _ hmem

/-- Elements that lie in no slab wait for no step (R146). -/
theorem haloEnd_inner (hks : slabsOf (gridOf g.desc) (ix.filter (fun p => decide (p.2 < (gridOf g.desc).total))) = [])
    (hin : ∀ p ∈ ix, p.2 < (gridOf g.desc).total) : ∀ p ∈ ix, haloEnd x g q req ok bad s p = .ready := by
  intro p hp
  have hnone : slabOf (gridOf g.desc) p.2 = none := by
    cases hk : slabOf (gridOf g.desc) p.2 with
    | none => rfl
    | some k =>
      have hmem : k ∈ slabsOf (gridOf g.desc) (ix.filter (fun p => decide (p.2 < (gridOf g.desc).total))) :=
        List.mem_eraseDups.mpr (List.mem_filterMap.mpr ⟨p, List.mem_filter.mpr ⟨hp, decide_eq_true (hin p hp)⟩, hk⟩)
      rw [hks] at hmem
      cases hmem
  rw [haloEnd, laneHalo, if_neg (Nat.not_le.mpr (hin p hp)), hnone]

end Lanes

end Sys2Proof.Machine
end

section
/-! GBIND (O31): its request at the launch unit (R136, R307). -/
namespace Sys2Proof.Machine
open Sys2Proof.Forms

theorem binds_of_outside {s t : State} (h : outside t = outside s) : t.binds = s.binds := by
  have e := congrArg (fun v : State => v.binds) h
  exact e

section Bind
variable {s : State} {x : Iss} {g : BitVec 4} {a : BitVec 8}

/-- The request of a GBIND. -/
def bindReq (x : Iss) (g : BitVec 4) (a : BitVec 8) (s : State) : BindReq :=
  { id := s.nextOp, split := x.ref, ctx := x.team.ctx, core := x.team.core, slot := g.toNat, ga := readU64 x a,
    lane := x.first, pc := x.pc, word := x.f.word, desc := none, map := none, todo := [], page := none, failed := [] }

/-- The state in which the launch unit has the request. -/
def bindAsked (x : Iss) (g : BitVec 4) (a : BitVec 8) (s : State) : State := { s with nextOp := s.nextOp + 1, binds := s.binds ++ [bindReq x g a s] }

/-- The effect of GBIND once its release goes on. -/
def bindEffect (x : Iss) (g : BitVec 4) (a : BitVec 8) (s : State) : State :=
  addAgenda (retire x (addFlight x true (.bind s.nextOp) [] [] 0 none (bindAsked x g a s))) [.gridBindRequest s.nextOp]

theorem exec_gbind (hx : Issues (.gbind g a) s x) : exec (.gbind g a) s =
    .next (chargeIdle x (if x.active = 0 then retire x (popIssue s) else releaseThen x 3 (bindEffect x g a) (popIssue s))) := by
  rw [show exec (.gbind g a) s = execGbind g a s from rfl, execGbind, issue_next _ hx]
  rfl

/-- A binding has been asked for: its flag is set, and nothing else that a program reads has changed. -/
structure BindAsked (s t : State) (x : Iss) (g : BitVec 4) (a : BitVec 8) : Prop where
  next   : Advanced x t
  regs   : SameRegs s t
  mem    : t.mem = s.mem
  flags  : ∀ k, flagAt t x.ref k = (flagAt s x.ref k || decide (k = bits x.clause.header 19 16))
  flight : ∃ u e, teamOf t x.ref.team = some u ∧ e ∈ u.inflight ∧ e.state = .bind s.nextOp
  event  : Event.gridBindRequest s.nextOp ∈ t.agenda
  binds  : t.binds = s.binds ++ [bindReq x g a s]

theorem bindEffect_asked (hx : Issues (.gbind g a) s x) : BindAsked s (chargeIdle x (bindEffect x g a (popIssue s))) x g a := by
  have hissue : AtIssue x (bindAsked x g a (popIssue s)) := (AtIssue.start hx).of_teams rfl
  have hsame : SameRegs s (bindAsked x g a (popIssue s)) := .of_teams rfl
  have hkept : ∀ n, flagAt (bindAsked x g a (popIssue s)) x.ref n = flagAt s x.ref n := flagAt_congr rfl x.ref
  have hmem : (bindAsked x g a (popIssue s)).mem = s.mem := rfl
  have hbinds : (bindAsked x g a (popIssue s)).binds = s.binds ++ [bindReq x g a s] := rfl
  have hrisen := addFlight_risen hissue true (.bind s.nextOp) []
  have hfollows (u : State) : outside (addAgenda u [.gridBindRequest s.nextOp]) = outside u ∧ (addAgenda u [.gridBindRequest s.nextOp]).teams = u.teams :=
    ⟨rfl, rfl⟩
  have hflown (u : State) : outside (addFlight x true (.bind s.nextOp) [] [] 0 none u) = outside u := rfl
  obtain ⟨hfollow, hteams⟩ := hfollows (retire x (addFlight x true (.bind s.nextOp) [] [] 0 none (bindAsked x g a (popIssue s))))
  have hout : outside (chargeIdle x (bindEffect x g a (popIssue s))) = outside (bindAsked x g a (popIssue s)) :=
    (outside_chargeIdle x _).trans (hfollow.trans ((retire_outside x _).trans (hflown _)))
  have hevent : Event.gridBindRequest s.nextOp ∈ (bindEffect x g a (popIssue s)).agenda := List.mem_append_right _ (List.mem_singleton_self _)
  obtain ⟨hnext, hregs, hflags, tm, e, htm, he, hflight⟩ := hrisen.ended (w := bindEffect x g a (popIssue s)) hteams (chargeIdle_charged x _)
  exact ⟨hnext, hsame.trans hregs, (mem_of_outside hout).trans hmem, fun k => (hflags k).trans (congrArg (· || _) (hkept k)), ⟨tm, e, htm, he, hflight.state⟩,
    chargeIdle_agenda x _ hevent, (binds_of_outside hout).trans hbinds⟩

end Bind

end Sys2Proof.Machine
end

section
/-! THE GRID FORMS (O31): HSTEP and HLD at their instruction, and the statement. -/
namespace Sys2Proof.Machine
open Sys2Proof.Forms

/-! ### HSTEP -/

section Step
variable {s : State} {x : Iss} {d a : BitVec 8} {n : BitVec 4} {q : Nat}

/-- HSTEP without an active lane: PSTEP where it can be read, then the pool (R273, R309). -/
theorem hstep_idle (hx : Issues (.hstep d a n) s x) (ho : OwnsPart s x n.toNat q) (ha : x.active = 0) :
    let bad := IdleBad x (slotOf x.ctx n.toNat) q (readU x a).toNat (popIssue s)
    (bad → TakesFault (exec (.hstep d a n) s) s x 0x37 x.f.word) ∧
    (¬ bad → poolRefused s x.ctx x.block.area = true → TakesFault (exec (.hstep d a n) s) s x 0x42 x.f.word) ∧
    (¬ bad → poolRefused s x.ctx x.block.area = false → Passes (exec (.hstep d a n) s) s x x.split.regs) := by
  intro bad
  have he := exec_hstep hx
  rw [gridThen_owned ho.issued, hstepAt, if_pos ha] at he
  obtain ⟨hbad, hgood⟩ := idleStep_eq (x := x) (g := slotOf x.ctx n.toNat) (q := q) (step := (readU x a).toNat) (s := popIssue s)
  refine ⟨fun h => ⟨_, he, ?_⟩, fun h hp => ⟨_, he, ?_⟩, fun h hp => ⟨_, he, ?_⟩⟩
  · rw [hbad h]
    exact faultAt_taken hx _ _
  · rw [hgood h, if_pos (show poolRefused (popIssue s) x.ctx x.block.area = true from hp)]
    exact faultAt_taken hx _ _
  · rw [hgood h, if_neg (show ¬ poolRefused (popIssue s) x.ctx x.block.area = true by rw [show poolRefused (popIssue s) x.ctx x.block.area = false from hp]; simp)]
    exact passes_of_caches hx rfl rfl rfl rfl

section Read
variable (hx : Issues (.hstep d a n) s x) (ho : OwnsPart s x n.toNat q) (ha : x.active ≠ 0) (hlog : NoLog s x) {s1 : State} {la : LaneAcc}
  {ts : List Target} {p : Nat} (hc : PassChecks x [stepLane x (slotOf x.ctx n.toNat) q wPSTEP x.first false] (popIssue s) s1 [(la, ts)])
  (hv : stepValue x s1 wPSTEP ts = some p)
include hx ho ha hlog hc hv

/-- HSTEP whose PSTEP has been read. -/
theorem exec_hstep_read : exec (.hstep d a n) s =
    .next (chargeIdle x (stepChecked x (slotOf x.ctx n.toNat) q (readU x a).toNat p (noteReads x [(4, ts)] s1))) := by
  rw [exec_hstep hx, gridThen_owned ho.issued, hstepAt, if_neg ha, readStep_value (u := popIssue s) hlog hc hv]

theorem hstep_late (h : (readU x a).toNat ≠ p + 1) : TakesFault (exec (.hstep d a n) s) s x 0x37 x.f.word := by
  refine ⟨_, exec_hstep_read hx ho ha hlog hc hv, ?_⟩
  rw [stepChecked_late h]
  exact faultAt_read hx ((StepsRead.start x s).word hc _) _ _

variable (h : (readU x a).toNat = p + 1)
include h

theorem hstep_pool (hp : poolRefused s x.ctx x.block.area = true) : TakesFault (exec (.hstep d a n) s) s x 0x42 x.f.word := by
  have hread := (StepsRead.start x s).word hc [(4, ts)]
  refine ⟨_, exec_hstep_read hx ho ha hlog hc hv, ?_⟩
  rw [stepChecked_pool h ((hread.poolRefused _ _).trans hp)]
  exact faultAt_read hx hread _ _

variable (hp : poolRefused s x.ctx x.block.area = false)
include hp

theorem hstep_full (hf : freeFuture x.block = none) : TakesFault (exec (.hstep d a n) s) s x 0x33 x.f.word := by
  have hread := (StepsRead.start x s).word hc [(4, ts)]
  refine ⟨_, exec_hstep_read hx ho ha hlog hc hv, ?_⟩
  rw [stepChecked_full h ((hread.poolRefused _ _).trans hp) hf]
  exact faultAt_read hx hread _ _

variable {slot : Nat} (hf : freeFuture x.block = some slot) (hs : poisonAt s (futureAt x.ctx x.block.area slot) 32 = false)
include hf hs

/-- The core's exchanges have no place for another (R144). -/
theorem hstep_places (hfull : (readU x a).toNat % (gridOf (slotOf x.ctx n.toNat).desc).depth = 0 ∧ 16 ≤ exchangesOf s x.team.core) :
    StaysHeld (exec (.hstep d a n) s) s x (.stall .engine) := by
  have hread := (StepsRead.start x s).word hc [(4, ts)]
  have he := exec_hstep_read hx ho ha hlog hc hv
  rw [stepChecked_places h ((hread.poolRefused _ _).trans hp) hf ((hread.poisonAt _ _).trans hs) (by rw [hread.exchangesOf]; exact hfull)] at he
  exact staysHeld_stall hx hread .engine he

/-- The step is the next one, and its release and its write need not wait (R140). -/
theorem hstep_published (hfull : ¬ ((readU x a).toNat % (gridOf (slotOf x.ctx n.toNat).desc).depth = 0 ∧ 16 ≤ exchangesOf s x.team.core))
    (hr : ReleaseReady s x 4) (hclean : poisonAt s (stepFuture x slot s) 32 = false) {s2 : State} {lw : LaneAcc} {qa cp : Nat}
    (hw : PassChecks x [stepLane x (slotOf x.ctx n.toNat) q wPSTEP x.first true] (noteReads x [(4, ts)] s1) s2 [(lw, [.mem qa 4 cp])])
    (hcover : coversPoison s qa 4 = true) :
    ∃ t, exec (.hstep d a n) s = .next t ∧ StepPublished s t x (slotOf x.ctx n.toNat) q slot (readU x a).toNat qa := by
  have hread := (StepsRead.start x s).word hc [(4, ts)]
  refine ⟨_, exec_hstep_read hx ho ha hlog hc hv, ?_⟩
  rw [stepChecked_release h ((hread.poolRefused _ _).trans hp) hf ((hread.poisonAt _ _).trans hs) (by rw [hread.exchangesOf]; exact hfull),
    releaseThen_free ⟨hread.releaseReady hr, by decide⟩]
  exact publish_published hx hread hlog hw hcover hclean

end Read

end Step

/-! ### HLD -/

section Load
variable {s : State} {x : Iss} {d a b : BitVec 8} {q : Nat}

/-- The lanes of a HLD with their indices, and the step that is asked for (R146). -/
def haloIndex (x : Iss) (a : BitVec 8) : List (Nat × Nat) := (lanesOf x.n x.active).map (fun l => (l, (readWord x a 0 l).toNat))
def haloReq (x : Iss) (gd : Grid) : Nat := (readS x (bits x.m 9 4)).toNat - (readS x (bits x.m 9 4)).toNat % gd.depth

/-- The slabs that they lie in. -/
def haloSlabs (x : Iss) (a : BitVec 8) (gd : Grid) : List Nat := slabsOf gd ((haloIndex x a).filter (fun p => decide (p.2 < gd.total)))

/-- The reads of the step words, each by the first lane that asks for it (R147). -/
def haloWords (x : Iss) (a : BitVec 8) (g : GridSlot) (q : Nat) : List LaneAcc :=
  let gd := gridOf g.desc
  let lane := fun (k : Nat) => (((haloIndex x a).find? (fun p => decide (p.2 < gd.total) && decide (slabOf gd p.2 = some k))).map (·.1)).getD x.first
  (wPSTEP :: haloSlabs x a gd).map (fun k => stepLane x g q k (if k = wPSTEP then lane ((haloSlabs x a gd).headD 0) else lane k) false)

/-- The state in which the step words have been read. -/
def haloRead (x : Iss) (ok : List (LaneAcc × List Target)) (s : State) : State :=
  noteReads x (ok.map (fun p => (4, p.2))) (slicePass (partOfCtx s x.team.ctx) false false (ok.flatMap (·.2)) s)

/-- What HLD does at a bound slot. -/
def hldAt (x : Iss) (a : BitVec 8) (g : GridSlot) (q : Option Nat) (s : State) : State :=
  match q with
  | none => faultAt x 0x36 x.f.word s
  | some q =>
    if x.active = 0 then retire x s
    else if haloSlabs x a (gridOf g.desc) = [] then haloLanes x g q (haloReq x (gridOf g.desc)) (haloIndex x a) [] [] s
    else settleThen x 0 false (haloWords x a g q)
      (fun ok bad s => haloLanes x g q (haloReq x (gridOf g.desc)) (haloIndex x a) ok bad (haloRead x ok s)) s

theorem exec_hld (hx : Issues (.hld d a b) s x) :
    exec (.hld d a b) s = .next (chargeIdle x (gridThen x (bits x.m 3 0) (hldAt x a) (popIssue s))) := by
  rw [show exec (.hld d a b) s = execHld d a b s from rfl, execHld, issue_next _ hx]
  rfl

theorem StepsRead.haloRead {u v : State} {l : List LaneAcc} {ok : List (LaneAcc × List Target)} (h : StepsRead x s u) (hc : PassChecks x l u v ok) :
    StepsRead x s (haloRead x ok v) := by
  obtain ⟨hv, -⟩ := hc
  obtain ⟨c, hc⟩ := slicePass_only (partOfCtx v x.team.ctx) false false (ok.flatMap (·.2)) v
  exact ((h.caches (hv ▸ checkLanes_caches x l u)).caches ⟨_, c, _, _, hc⟩).notes _

/-- The destination of HLD is a vector register of each lane, and its size divides the registers (R224, R308). -/
theorem hld_fits (hx : Issues (.hld d a b) s x) : DstFits x (fieldRegs x).1 ∧ x.scalarDst = false := by
  have hop : x.op = 0xC5 := (op_of_fields hx rfl).1
  have hk : (fieldRegs x).1 ∣ 128 := by
    rw [fieldRegs, hop]
    change (if x.esz = 8 then 2 else if x.esz = 16 then 4 else 1) ∣ 128
    split
    · decide
    · split <;> decide
  obtain ⟨v, hv⟩ := hx.vecDst (by rw [hop]; rfl)
  exact ⟨hx.dstFits (.inr (by rw [hop]; rfl)) (by rw [hop]; decide) (by rw [hop]; rfl) hk, by rw [Iss.scalarDst, hv]⟩

/-- Every active lane loads one element (R146). -/
theorem elemLanes_all (hx : Issues (.hld d a b) s x) (g : GridSlot) : AllLoad x (elemLanes x g q (haloIndex x a)) := by
  have hlanes : accLanes x = lanesOf x.n x.active := if_neg (by rw [(hld_fits hx).2]; simp)
  have hmap : (elemLanes x g q (haloIndex x a)).map (·.lane) = accLanes x := by
    rw [hlanes, elemLanes, haloIndex, List.map_map, List.map_map]
    exact List.map_id _
  refine ⟨hmap ▸ accLanes_nodup x, fun l hl => hmap ▸ List.mem_map_of_mem hl, fun n hn => ?_⟩
  obtain ⟨l, hl, he⟩ := List.mem_map.mp (hmap ▸ hn)
  exact ⟨l, hl, he⟩

section Owned
variable (hx : Issues (.hld d a b) s x) (ho : OwnsPart s x (bits x.m 3 0) q) (ha : x.active ≠ 0)
include hx ho ha

/-- A HLD whose elements lie in no slab (R146). -/
theorem hld_inner (hks : haloSlabs x a (gridOf (slotOf x.ctx (bits x.m 3 0)).desc) = [])
    (hin : ∀ p ∈ haloIndex x a, p.2 < (gridOf (slotOf x.ctx (bits x.m 3 0)).desc).total) :
    LoadResult (exec (.hld d a b) s) s x (dropWatches (popIssue s) x.ref) (some x.team.core) false
      (elemLanes x (slotOf x.ctx (bits x.m 3 0)) q (haloIndex x a)) [] [] := by
  have he := exec_hld hx
  rw [gridThen_owned ho.issued, hldAt, if_neg ha, if_pos hks, haloLanes_ready (haloEnd_inner hks hin), if_pos rfl] at he
  exact loadForm_started (lc := plainLoad x) hx (hld_fits hx).1 (elemLanes_all hx _) (fun v => .refl v) (StepsRead.start x s).loadStart.dropWatches he

variable (hks : haloSlabs x a (gridOf (slotOf x.ctx (bits x.m 3 0)).desc) ≠ []) (hlog : NoLog s x) {s1 : State} {ok : List (LaneAcc × List Target)}
  (hc : PassChecks x (haloWords x a (slotOf x.ctx (bits x.m 3 0)) q) (popIssue s) s1 ok)
include hks hlog hc

theorem exec_hld_read : exec (.hld d a b) s = .next (chargeIdle x (haloLanes x (slotOf x.ctx (bits x.m 3 0)) q
    (haloReq x (gridOf (slotOf x.ctx (bits x.m 3 0)).desc)) (haloIndex x a) ok [] (haloRead x ok s1))) := by
  obtain ⟨hs, hok, hbad, hpages⟩ := hc
  rw [exec_hld hx, gridThen_owned ho.issued, hldAt, if_neg ha, if_neg hks, settleThen_clean (s := popIssue s) hlog hpages, hok, hbad, hs]

/-- A HLD whose slabs are at the step that is asked for loads every lane's element (R147, R149). -/
theorem hld_ready (hready : ∀ p ∈ haloIndex x a, haloEnd x (slotOf x.ctx (bits x.m 3 0)) q (haloReq x (gridOf (slotOf x.ctx (bits x.m 3 0)).desc)) ok []
    (haloRead x ok s1) p = .ready) : LoadResult (exec (.hld d a b) s) s x (acquire x 4 (dropWatches (haloRead x ok s1) x.ref)) (some x.team.core) false
      (elemLanes x (slotOf x.ctx (bits x.m 3 0)) q (haloIndex x a)) [] [] := by
  have hne : ok ≠ [] := by
    obtain ⟨hs, hok, hbad, hpages⟩ := hc
    obtain ⟨ts, hts⟩ := mem_okLanes_of_clean hpages hbad (a := stepLane x _ q wPSTEP _ false)
      (by rw [checkLanes_fst]; exact List.mem_cons_self)
    exact List.ne_nil_of_mem (hok ▸ hts)
  have he := exec_hld_read hx ho ha hks hlog hc
  rw [haloLanes_ready hready, if_neg hne] at he
  exact loadForm_started (lc := plainLoad x) hx (hld_fits hx).1 (elemLanes_all hx _) (fun v => .refl v)
    (((StepsRead.start x s).haloRead hc).loadStart.dropWatches.acquire 4) he

/-- A lane whose slab is below the step waits (R148). -/
theorem hld_stall {p : Nat × Nat} {k : Nat} (hp : p ∈ haloIndex x a) (hstall : haloEnd x (slotOf x.ctx (bits x.m 3 0)) q
    (haloReq x (gridOf (slotOf x.ctx (bits x.m 3 0)).desc)) ok [] (haloRead x ok s1) p = .stall k) :
    ∃ on, StaysHeld (exec (.hld d a b) s) s x (.wait on) := by
  have he := exec_hld_read hx ho ha hks hlog hc
  obtain ⟨on, u, hu, hsilent⟩ := haloLanes_stall hp hstall
  have hmoved := ((StepsRead.start x s).haloRead hc).silent.trans hsilent
  rw [hu] at he
  exact ⟨on, staysHeld_wait hx hmoved he⟩

end Owned

end Load

/-- Settles O31: the handle checks, and each form by the step words that it has read. -/
theorem gridAndHaloForms : Obligations.GridAndHaloForms := by
  refine ⟨fun s x g d a b n => ?_, fun g req pstep k word => ?_⟩
  · intro Slot Owns
    have howns {k q : Nat} (h : Owns k q) : OwnsPart s x k q := by
      obtain ⟨hb, hd, hp⟩ := h
      exact ⟨hb, hd, hp⟩
    refine ⟨fun hx => ⟨fun ha => ⟨_, exec_gbind hx, ?_⟩, fun ha hr => ?_⟩, fun hx => ⟨gridThen_faults hx (exec_hstep hx) fun _ => rfl, fun q ho => ?_⟩,
      fun hx => ⟨gridThen_faults hx (exec_hquery hx) fun h => ?_, ?_⟩, fun hx => ⟨gridThen_faults hx (exec_hld hx) fun _ => rfl, fun q ho => ?_⟩⟩
    · rw [if_pos ha]
      exact passes_of_caches hx rfl rfl rfl rfl
    · have he := exec_gbind hx
      rw [if_neg ha, releaseThen_free (s := popIssue s) ⟨hr, by decide⟩] at he
      obtain ⟨hnext, hregs, hmem, hflags, ⟨u, e, hu, he', hstate⟩, hevent, hbinds⟩ := bindEffect_asked hx
      exact ⟨_, u, e, he, hnext, hregs, hmem, hflags, hu, he', hstate, hevent, hbinds⟩
    · intro sl gd step refused
      refine ⟨fun ha => hstep_idle hx (howns ho) ha, fun s1 la ts p ha hlog hc hv => ?_⟩
      refine ⟨fun h => hstep_late hx (howns ho) ha hlog hc hv h, fun h hp => hstep_pool hx (howns ho) ha hlog hc hv h hp,
        fun h hp hf => hstep_full hx (howns ho) ha hlog hc hv h hp hf, fun slot h hp hf hs => ?_⟩
      refine ⟨fun hfull => hstep_places hx (howns ho) ha hlog hc hv h hp hf hs hfull, fun s2 lw qa cp hfull hr hclean hw hcover => ?_⟩
      obtain ⟨t, he, hnext, hregs, hflags, hword, hdone, hexch⟩ :=
        hstep_published hx (howns ho) ha hlog hc hv h hp hf hs hfull hr hclean hw hcover
      exact ⟨t, he, hnext, hregs, hflags, hword, hdone, hexch⟩
    · have hsel : querySel x a ≠ 0x0A := of_decide_eq_true h
      exact if_pos hsel
    · intro sel k Gives
      refine ⟨fun hb h0 hq => ?_, fun q ho => ⟨fun ha => ?_, fun ha hw => ?_, fun s1 la ts v ha hw hlog hc hv => ?_⟩⟩
      · have hat : gridThen x n.toNat (queryAt x a) (popIssue s) =
            if x.active = 0 then retire x (popIssue s) else teamResult x 0xFFFFFFFF (popIssue s) :=
          (gridThen_bound hb).trans ((congrArg (queryAt x a _ · _) hq).trans (if_neg (not_not.mpr h0)))
        refine ⟨fun ha => ⟨_, exec_hquery hx, ?_⟩, fun ha => hquery_gives hx (hat.trans (if_neg ha))⟩
        rw [hat, if_pos ha]
        exact passes_of_caches hx rfl rfl rfl rfl
      · refine ⟨_, exec_hquery hx, ?_⟩
        rw [gridThen_owned (howns ho).issued, queryAt, if_pos ha]
        exact passes_of_caches hx rfl rfl rfl rfl
      · exact hquery_gives hx ((gridThen_owned (howns ho).issued).trans (queryAt_value ha hw))
      · exact hquery_word hx (howns ho) ha hw hlog hc hv
    · intro sl gd ix elems ks lane words
      refine ⟨fun ha => ⟨_, exec_hld hx, ?_⟩, fun ha hks hin => hld_inner hx (howns ho) ha hks hin, fun s1 ok ha hks hlog hc => ?_⟩
      · rw [gridThen_owned (howns ho).issued, hldAt, if_pos ha]
        exact passes_of_caches hx rfl rfl rfl rfl
      · intro at_
        exact ⟨fun hready => hld_ready hx (howns ho) ha hks hlog hc hready, fun p hp k hk => hld_stall hx (howns ho) ha hks hlog hc hp hk⟩
  · refine ⟨fun hp hw => ?_, fun hp hw hf => ?_, fun hp hw hf => ?_, fun h => if_pos h⟩
    · rw [haloCheck, if_neg (by omega), if_pos hw]
    · rw [haloCheck, if_neg (by omega), if_neg (by omega), if_neg (by rw [hf]; simp)]
    · rw [haloCheck, if_neg (by omega), if_neg (by omega), if_pos hf]

end Sys2Proof.Machine
end
